-- ==== Sys2Proof/Word.lean ====
section
/-! DEFINITION. The word types of the module and their plainest arithmetic: bytes, lines, tables of a fixed size. -/

namespace Sys2Proof

/-- One byte (R9: every multi-byte value is little-endian). -/
abbrev Byte := BitVec 8
/-- A 64-bit word. -/
abbrev W64 := BitVec 64
/-- A compute die, CD0 to CD15 (R12). -/
abbrev Cd := Fin 16
/-- A matrix array of a compute die (R13). -/
abbrev MaNo := Fin 4
/-- A Wyine port, FP0 to FP15 (R332). -/
abbrev PortNo := Fin 16
/-- A context slot (R374). -/
abbrev CtxSlot := Fin 16
/-- A queue of a compute die by queue ID (R153): 0-3 MA, 4 Whisk, 5-8 Tongs, 9 Mixer, 10 Ladle, 11 Scales and Sieve. -/
abbrev QueueId := Fin 12

/-- Entry `i` of a table rewritten by `f`; the other entries stay. -/
def upd {α : Type} {n : Nat} (v : Vector α n) (i : Fin n) (f : α → α) : Vector α n :=
  v.set i (f v[i])

/-- Every entry of a table rewritten, by number. -/
def each {α : Type} {n : Nat} (f : Fin n → α → α) (v : Vector α n) : Vector α n :=
  (List.finRange n).foldl (fun w i => upd w i (f i)) v

/-- The index `i` brought into a table of `n` entries. -/
def idx (n : Nat) (i : Nat) (h : 0 < n := by decide) : Fin n :=
  ⟨i % n, Nat.mod_lt _ h⟩

/-- `a` divided by `b`, rounded up. -/
def ceilDiv (a b : Nat) : Nat := (a + b - 1) / b

/-- Floor of the base-2 logarithm of a positive number. -/
def log2 (n : Nat) : Nat := Nat.log2 n

/-- `2 ^ n`. -/
def pow2 (n : Nat) : Nat := 1 <<< n

end Sys2Proof
end

