-- ==== Sys2Proof/Syntax.lean ====
section
/-! DEFINITION. The commands of the module: one constructor of `Instr` per row of the opcode table, with the operands
that the spec's text gives the row. -/

namespace Sys2Proof

/-- The ordering codes of R1. -/
inductive OrderingCode where
  | a2b | a2c | a1b | a1c
  deriving DecidableEq, Repr

/-- The fields of a slot-0 word besides its opcode (R133). -/
structure Slot0 where
  /-- Guard predicate. -/
  gp : Fin 8
  /-- The guard is inverted. -/
  gn : Bool
  /-- Destination register. -/
  d : Fin 32
  /-- First source register. -/
  a : Fin 32
  /-- Second source register. -/
  b : Fin 32
  /-- The second operand is the immediate. -/
  i : Bool
  /-- The 36-bit immediate. -/
  imm : BitVec 36
  deriving DecidableEq, Repr

/-- The register fields of an element instruction word (R103). -/
structure ElemWord where
  vd : Fin 16
  va : Fin 16
  vb : Fin 16
  vc : Fin 16
  deriving DecidableEq, Repr

/-- The three writers of set-up registers (R470). -/
inductive RegPath where
  | driver | image | board
  deriving DecidableEq, Repr

/-- One write access to the set-up window (R471): path, window offset, 8 or 4 bytes, data. -/
structure RegAccess where
  path : RegPath
  off  : BitVec 32
  wide : Bool
  data : BitVec 64
  /-- The transfer reads: nothing is written, and the data is what the target returns (R443, R466, R470, R471). -/
  read : Bool := false
  deriving DecidableEq, Repr

/-- A ring set: the admin ring set or that of a context slot (R360). -/
inductive RingId where
  | admin
  | ctx (slot : CtxSlot)
  deriving DecidableEq, Repr

/-- The outcome of the check code of a line (R174, R200). -/
inductive LineCheck where
  | clean | corrected | uncorrectable
  deriving DecidableEq, Repr

/-- A unit that the dump collector cannot read: it has not answered within the bound, or its scan check has failed twice (R427). -/
structure UnitFailure where
  island : BitVec 16
  scanCheck : Bool := false
  deriving DecidableEq, Repr

/-- What has happened to the stored bits at an address: the outcome of the next check there (R171, R172, R174; log entry 55). -/
structure MemError where
  dpa   : BitVec 52
  check : LineCheck
  deriving DecidableEq, Repr

/-- A Course stream of the reduction tree (R319): level 1 to 4 (held as 0 to 3), up or down. -/
structure LadleStream where
  level : Fin 4
  down  : Bool
  deriving DecidableEq, Repr

/-- The link header of a flit (R339) with its lines, at most four, each with the credit class it belongs to (log entry 25). -/
structure Flit where
  seq  : BitVec 32
  ack  : BitVec 32
  cc   : BitVec 3
  cred : BitVec 13
  idle : Bool
  nak  : Bool
  crc  : BitVec 32
  lines : List (Fin 5 × List Byte)
  deriving DecidableEq, Repr

/-- The negotiation flit of R337. -/
structure NegFlit where
  genMax : BitVec 2
  genMin : BitVec 2
  ver    : BitVec 8
  port   : BitVec 8
  echo   : Bool
  session : BitVec 32
  rxNext  : BitVec 32
  module  : BitVec 64
  deriving DecidableEq, Repr

/-- A transport packet: its 64-byte header line (R343) and its payload lines. -/
structure Packet where
  header  : List Byte
  payload : List (List Byte)
  deriving DecidableEq, Repr

/-- What a training state found (R334, R336): lanes without signal or below target, the lane map seen, polarity, reversal,
equaliser code and presets, and for NEGOTIATE whether an unacceptable generation was met. -/
structure TrainReport where
  lanesBad : BitVec 8
  laneMap  : BitVec 32
  polarity : BitVec 8
  reversed : Bool
  ctle     : BitVec 4
  preset   : BitVec 4
  asked    : BitVec 4
  deriving DecidableEq, Repr

/-- One telemetry sample of the PD (R482): fast quantities, and the coolant pair when its 100 ms sample is due. -/
structure Telemetry where
  vin : BitVec 16
  iin : BitVec 16
  pin : BitVec 16
  cdPwr : List (BitVec 16)
  temps : List (BitVec 64)
  coolant : Option (BitVec 32)
  deriving DecidableEq, Repr

/-- The commands: one constructor per row of the opcode table. -/
inductive Instr where
  /-- STROKE_ISSUE (R129). The Cox issues one whole stroke when every issue condition holds, executes slot 0 and places the present engine commands of slots 1-6 in their queues. -/
  | strokeIssue (cd : Cd)
  /-- NOP (R134). Scalar NOP does nothing. -/
  | nopS (cd : Cd) (w : Slot0)
  /-- ADD (R134). Scalar add of g[a] and y into g[d]. -/
  | add (cd : Cd) (w : Slot0)
  /-- SUB (R134). Scalar subtract of y from g[a] into g[d]. -/
  | sub (cd : Cd) (w : Slot0)
  /-- MUL (R134). Scalar multiply keeping the low 64 bits. -/
  | mul (cd : Cd) (w : Slot0)
  /-- MULH (R134). Scalar multiply keeping the high 64 bits of the signed product. -/
  | mulh (cd : Cd) (w : Slot0)
  /-- DIVU (R134). Unsigned divide, giving all ones when the divisor is zero. -/
  | divu (cd : Cd) (w : Slot0)
  /-- REMU (R134). Unsigned remainder, giving g[a] when the divisor is zero. -/
  | remu (cd : Cd) (w : Slot0)
  /-- AND (R134). Bitwise and of g[a] and y. -/
  | andS (cd : Cd) (w : Slot0)
  /-- OR (R134). Bitwise or of g[a] and y. -/
  | orS (cd : Cd) (w : Slot0)
  /-- XOR (R134). Bitwise exclusive or of g[a] and y. -/
  | xorS (cd : Cd) (w : Slot0)
  /-- SHL (R134). Shift left by y[5:0]. -/
  | shl (cd : Cd) (w : Slot0)
  /-- SHR (R134). Logical shift right by y[5:0]. -/
  | shr (cd : Cd) (w : Slot0)
  /-- SHA (R134). Arithmetic shift right by y[5:0]. -/
  | sha (cd : Cd) (w : Slot0)
  /-- MIN (R134). Signed minimum of g[a] and y. -/
  | min (cd : Cd) (w : Slot0)
  /-- MAX (R134). Signed maximum of g[a] and y. -/
  | max (cd : Cd) (w : Slot0)
  /-- CLZ (R134). Counts the leading zero bits of g[a]. -/
  | clz (cd : Cd) (w : Slot0)
  /-- POPC (R134). Counts the one bits of g[a]. -/
  | popc (cd : Cd) (w : Slot0)
  /-- LI (R134). Loads the sign-extended immediate into g[d]. -/
  | li (cd : Cd) (w : Slot0)
  /-- LIH (R134). Replaces the upper 32 bits of g[d] with imm[31:0]. -/
  | lih (cd : Cd) (w : Slot0)
  /-- CMPEQ (R134). Sets p[d] to g[a] = y. -/
  | cmpeq (cd : Cd) (w : Slot0)
  /-- CMPNE (R134). Sets p[d] to g[a] != y. -/
  | cmpne (cd : Cd) (w : Slot0)
  /-- CMPLT (R134). Sets p[d] to the signed g[a] < y. -/
  | cmplt (cd : Cd) (w : Slot0)
  /-- CMPLE (R134). Sets p[d] to the signed g[a] <= y. -/
  | cmple (cd : Cd) (w : Slot0)
  /-- CMPLTU (R134). Sets p[d] to the unsigned g[a] < y. -/
  | cmpltu (cd : Cd) (w : Slot0)
  /-- CMPLEU (R134). Sets p[d] to the unsigned g[a] <= y. -/
  | cmpleu (cd : Cd) (w : Slot0)
  /-- PLOG (R134). Sets p[d] from a two-input truth table held in the immediate. -/
  | plog (cd : Cd) (w : Slot0)
  /-- MOVP (R134). Copies predicate p[a] into g[d] as 1 or 0. -/
  | movp (cd : Cd) (w : Slot0)
  /-- SEL (R134). Scalar select of g[a] or g[b] by a predicate. -/
  | sel (cd : Cd) (w : Slot0)
  /-- RDS (R132). Reads an s-register into g[d], waiting until its pending-writer mark clears. -/
  | rds (cd : Cd) (w : Slot0)
  /-- RDC (R122). Reads a run constant into g[d]. -/
  | rdc (cd : Cd) (w : Slot0)
  /-- LD64 (R124). Loads 8 bytes from the plan store or scratch. -/
  | ld64 (cd : Cd) (w : Slot0)
  /-- LD32 (R124). Loads 4 bytes from a local address, sign-extended. -/
  | ld32 (cd : Cd) (w : Slot0)
  /-- LD32U (R124). Loads 4 bytes from a local address, zero-extended. -/
  | ld32u (cd : Cd) (w : Slot0)
  /-- LD16U (R124). Loads 2 bytes from a local address, zero-extended. -/
  | ld16u (cd : Cd) (w : Slot0)
  /-- ST64 (R124). Stores 8 bytes to scratch. -/
  | st64 (cd : Cd) (w : Slot0)
  /-- ST32 (R124). Stores 4 bytes to scratch. -/
  | st32 (cd : Cd) (w : Slot0)
  /-- ST16 (R124). Stores 2 bytes to scratch. -/
  | st16 (cd : Cd) (w : Slot0)
  /-- LDD64 (R125). Loads 8 bytes from the Cox's own bonded SRAM through the Pantry. -/
  | ldd64 (cd : Cd) (w : Slot0)
  /-- LDD32U (R125). Loads 4 bytes from the Cox's own bonded SRAM, zero-extended. -/
  | ldd32u (cd : Cd) (w : Slot0)
  /-- STD64 (R125). Stores 8 bytes to the Cox's own bonded SRAM through the Pantry. -/
  | std64 (cd : Cd) (w : Slot0)
  /-- STD32 (R125). Stores 4 bytes to bonded SRAM. -/
  | std32 (cd : Cd) (w : Slot0)
  /-- STD16 (R125). Stores 2 bytes to bonded SRAM. -/
  | std16 (cd : Cd) (w : Slot0)
  /-- BR (R131). Branches to an immediate or register stroke target. -/
  | br (cd : Cd) (w : Slot0)
  /-- CALL (R136). Writes the return stroke into g[d] and branches. -/
  | call (cd : Cd) (w : Slot0)
  /-- DBNZ (R134). Decrements g[d] and branches while it is not zero. -/
  | dbnz (cd : Cd) (w : Slot0)
  /-- WAITQ (R134). Waits until every earlier command in the named queues has completed. -/
  | waitq (cd : Cd) (w : Slot0)
  /-- HALT (R139). Waits for all six queues, then ends the run normally. -/
  | halt (cd : Cd) (w : Slot0)
  /-- TRAP (R139). Stops the run with a plan code and puts the context in FAULTED. -/
  | trap (cd : Cd) (w : Slot0)
  /-- LDD_ERROR_RESPONSE (R128). An error response to a DPA load arrives, the load writes nothing and the Cox stops issuing. -/
  | lddErrorResponse (cd : Cd)
  /-- RUN_COMPLETE (R139). A run ends after its HALT wait, writing the conversion tally and the Cox stop record. -/
  | runComplete (cd : Cd)
  /-- FAULT_REACHES_COX (R195). A context fault reaches a CD's Cox, which stops issuing, and its engines stop at their next line boundary. -/
  | faultReachesCox (cd : Cd)
  /-- PLAN_STALL (R159). A credit stall exceeds its queue's stall bound and one PLAN_STALL record with its hop chain is written. -/
  | planStall (cd : Cd)
  /-- CHUNK (R151). Matrix chunk command starts and accumulates one K chunk into its MA's accumulator buffer. -/
  | chunk (cd : Cd) (ma : MaNo)
  /-- LAST_CHUNK_COMMIT (R72). The final sum of a tile's last chunk commits and the buffer passes to awaiting readout. -/
  | lastChunkCommit (cd : Cd) (ma : MaNo)
  /-- READOUT (R74). The output stage reads a buffer in state 2 through scale, add, activation and narrowing, or as INT32 to an engine. -/
  | readout (cd : Cd) (ma : MaNo)
  /-- RUN (R94). Whisk command runs an element program in plain, summary or Colander mode over its streams. -/
  | whiskRun (cd : Cd)
  /-- ELEM_NOP (R104). Element NOP does nothing. -/
  | elemNop (cd : Cd) (w : ElemWord)
  /-- ELEM_MOV (R104). Element move vd := va. -/
  | elemMov (cd : Cd) (w : ElemWord)
  /-- ELEM_ADD (R104). Element add va + vb. -/
  | elemAdd (cd : Cd) (w : ElemWord)
  /-- ELEM_SUB (R104). Element subtract va - vb. -/
  | elemSub (cd : Cd) (w : ElemWord)
  /-- ELEM_MUL (R104). Element multiply va x vb. -/
  | elemMul (cd : Cd) (w : ElemWord)
  /-- ELEM_NEG (R104). Element negation of va. -/
  | elemNeg (cd : Cd) (w : ElemWord)
  /-- ELEM_ABS (R104). Element magnitude of va. -/
  | elemAbs (cd : Cd) (w : ElemWord)
  /-- ELEM_SHL (R104). Element scale or shift left by vb. -/
  | elemShl (cd : Cd) (w : ElemWord)
  /-- ELEM_SHR (R104). Element scale or arithmetic shift right by vb. -/
  | elemShr (cd : Cd) (w : ElemWord)
  /-- ELEM_AND (R104). Element bitwise and of raw values. -/
  | elemAnd (cd : Cd) (w : ElemWord)
  /-- ELEM_OR (R104). Element bitwise or of raw values. -/
  | elemOr (cd : Cd) (w : ElemWord)
  /-- ELEM_XOR (R104). Element bitwise exclusive or of raw values. -/
  | elemXor (cd : Cd) (w : ElemWord)
  /-- ELEM_NOT (R104). Element bitwise complement of a raw value. -/
  | elemNot (cd : Cd) (w : ElemWord)
  /-- ELEM_CLT (R104). Element compare less than, giving -1 or 0. -/
  | elemClt (cd : Cd) (w : ElemWord)
  /-- ELEM_CLE (R104). Element compare less or equal, giving -1 or 0. -/
  | elemCle (cd : Cd) (w : ElemWord)
  /-- ELEM_CEQ (R104). Element compare equal, giving -1 or 0. -/
  | elemCeq (cd : Cd) (w : ElemWord)
  /-- ELEM_SEL (R104). Element select of va or vb by vc. -/
  | elemSel (cd : Cd) (w : ElemWord)
  /-- ELEM_MAX (R104). Element maximum, NaN if either operand is NaN. -/
  | elemMax (cd : Cd) (w : ElemWord)
  /-- ELEM_MIN (R104). Element minimum, NaN if either operand is NaN. -/
  | elemMin (cd : Cd) (w : ElemWord)
  /-- ELEM_CLZ (R104). Element count of leading zeros of a raw value. -/
  | elemClz (cd : Cd) (w : ElemWord)
  /-- ILG (R104). Element floor of log2 of a block value. -/
  | ilg (cd : Cd) (w : ElemWord)
  /-- LUTA (R102). Element lookup in table A. -/
  | luta (cd : Cd) (w : ElemWord)
  /-- LUTB (R102). Element lookup in table B. -/
  | lutb (cd : Cd) (w : ElemWord)
  /-- ALN (R104). Element align of va to the block exponent of vb. -/
  | aln (cd : Cd) (w : ElemWord)
  /-- TOI (R104). Element floor of a block value to a raw integer. -/
  | toi (cd : Cd) (w : ElemWord)
  /-- TOF (R104). Element raw integer to a normalised block value. -/
  | tof (cd : Cd) (w : ElemWord)
  /-- NFC (R104). Element non-finite code as a raw value. -/
  | nfc (cd : Cd) (w : ElemWord)
  /-- MOVE (R218). Tongs MOVE copies whole lines between memory, adapter entries and the Ladle store, gated or posting as flagged. -/
  | tongsMove (cd : Cd) (chan : Fin 3)
  /-- WEIGHTIN (R219). Channel 0 takes Course tiles in receipt order and routes chunk tiles to MA weight buffers. -/
  | weightin (cd : Cd)
  /-- CHUNK_TILE_PLACE (R219). A chunk tile whose lines have all arrived is placed into a free MA weight-buffer slot. -/
  | chunkTilePlace (cd : Cd)
  /-- MERGE_BUILD (R243). The Mixer builds chunk tiles of a private copy W' = deq(W) + s.A.B. -/
  | mergeBuild (cd : Cd)
  /-- MERGE_FEED (R244). The Mixer packs blocks from a pack list into 16-bit stationary tiles and feeds an MA weight buffer. -/
  | mergeFeed (cd : Cd)
  /-- UPDATE_SGD (R267). The Mixer applies SGD-with-momentum updates of its items into the inactive masters bank. -/
  | updateSgd (cd : Cd)
  /-- UPDATE_ADAMW (R267). The Mixer applies AdamW updates of its items into the inactive masters bank. -/
  | updateAdamw (cd : Cd)
  /-- UPDATE_INIT (R270). INIT converts body blocks into bank 0, zeroes the moments and writes the masters header. -/
  | updateInit (cd : Cd)
  /-- UPDATE_REFRESH (R270). REFRESH rewrites body and backward-copy blocks in BF16 from the active bank. -/
  | updateRefresh (cd : Cd)
  /-- ACCUM (R305). The Ladle adds a source into an open bucket at the store exponent. -/
  | accum (cd : Cd)
  /-- BUCKET_OPEN (R308). OPEN zeroes a bucket's store range and counts. -/
  | bucketOpen (cd : Cd)
  /-- BUCKET_CLOSE (R310). CLOSE starts the two-phase tree reduction of a bucket. -/
  | bucketClose (cd : Cd)
  /-- BUCKET_COMPLETE (R310). A bucket completes or is aborted, writing results, the completion record and a digest log entry. -/
  | bucketComplete (cd : Cd) (bucket : BitVec 16)
  /-- LADLE_LINE_DEPART (R320). A Ladle stream line departs when ready, after its predecessors and with a line credit. -/
  | ladleLineDepart (cd : Cd) (stream : LadleStream)
  /-- LADLE_PAYLOAD_ARRIVAL (R318). A Ladle payload line arrives at a tree node and is added, matched by tag, or refused. -/
  | ladlePayloadArrival (cd : Cd) (stream : LadleStream) (check : LineCheck)
  /-- UPPER_TREE_LINE_ADD (R321). An upper-tree Ladle adds line i of its two children once both have arrived and passes the sum on. -/
  | upperTreeLineAdd (fd : Fin 2) (slot : CtxSlot) (bucket : BitVec 16) (level : Fin 17) (phase : Fin 2) (line : Nat)
  /-- TAP_NORM (R285). TAP mode NORM binds the norm area, its capacity and the attempt number. -/
  | tapNorm (cd : Cd)
  /-- TAP_SCALES (R288). TAP mode SCALES arms MAs to add squared stage values of their next readouts to a tap accumulator. -/
  | tapScales (cd : Cd)
  /-- TAP_SIEVE (R289). TAP mode SIEVE arms MAs to sample one tile in N for a wide recompute. -/
  | tapSieve (cd : Cd)
  /-- SIEVE_COMPARISON (R292). After recompute and readout, the Sieve compares the sampled tile, bins the elements and tests the threshold. -/
  | sieveComparison (cd : Cd)
  /-- REPORT (R281). REPORT writes the telemetry record once no sample is in progress, optionally clearing counters. -/
  | report (cd : Cd)
  /-- SYNC (R150). SYNC does no work and only takes and gives on its links. -/
  | sync (cd : Cd) (queue : Fin 12)
  /-- COMMAND_COMPLETION_POINT (R155). An engine command reaches its completion point, freeing its queue entry, writing its s value and adding link tokens. -/
  | commandCompletionPoint (cd : Cd) (queue : Fin 12)
  /-- COMMAND_RELEASE_POINT (R155). An engine command reads its last input byte and returns its link credits. -/
  | commandReleasePoint (cd : Cd) (queue : Fin 12)
  /-- START_MARKER (R202). A START marker arrives and the CD sets its schedule counter to 64h, or to start(q)-2048+64h on restore. -/
  | startMarker (cd : Cd)
  /-- READY_SEND (R205). At start(q)-1024 a ready CD sends READY(q) both ways, and an unready one holds its counter. -/
  | readySend (cd : Cd)
  /-- READY_ARRIVAL (R205). A READY(q) flag arrives and may release counters held at start(q)-512. -/
  | readyArrival (cd : Cd) (pos : Fin 16)
  /-- ROUND_START (R203). The schedule counter reaches start(q), and weight and adapter slots of round q begin to depart. -/
  | roundStart (cd : Cd)
  /-- COURSE_LINE_ARRIVAL (R199). A Course line completes its hop, is checked and corrected, and is delivered, forwarded or poisoned. -/
  | courseLineArrival (cd : Cd) (clockwise : Bool) (check : LineCheck)
  /-- PAUSE_ARRIVAL (R227). PAUSE(q) arrives, and no line of round q or later departs. -/
  | pauseArrival (cd : Cd) (round : Nat)
  /-- LPDDR_WHEEL_SERVE (R212). A controller serves one line at the current wheel position for that position's requester, refresh or patrol scrub. -/
  | lpddrWheelServe (cd : Cd) (ctl : Fin 2) (decay : List MemError)
  /-- MR4_READ (R446). Every 4 ms a controller reads MR4 and raises or lowers its refresh multiplier. -/
  | mr4Read (cd : Cd) (ctl : Fin 2) (field : BitVec 3)
  /-- PACKAGE_RECORD_VERIFY (R411). The package engine reads a whole record with its tag, verifies it and serves its lines. -/
  | packageRecordVerify (domain : Fin 64) (window : Fin 64) (record : Nat)
  /-- COMPANION_TIMEOUT (R359). A companion access has had no answer for 16,777,216 HD cycles and gets COMPANION_ERR. -/
  | companionTimeout (access : Nat)
  /-- SNPINV (R363). A snoop of a control line acts as a doorbell, and the HD rereads the line and takes the new indices. -/
  | snpinv (ring : RingId) (stores : List Host.Cell)
  /-- DOORBELL_WRITE (R364). A CFGWR to the doorbell page in MMIO mode updates a ring index. -/
  | doorbellWrite (off : BitVec 12) (value : BitVec 32) (stores : List Host.Cell)
  /-- SIGNAL_HOLDOFF_EXPIRY (R365). The signal holdoff ends and a pending signal write is made. -/
  | signalHoldoffExpiry (ring : RingId)
  /-- RUN_START (R373). The arguments block is written and read back, and the run starts on every position's Cox. -/
  | runStart (slot : CtxSlot)
  /-- PLAN_LOAD (R166). Checks a plan image in order and, if it passes, loads plan stores, scratch and regions. -/
  | planLoad (slot : CtxSlot)
  /-- PLAN_RUN (R368). Starts a run of the loaded plan with its args, tally, stop and attempt fields. -/
  | planRun (slot : CtxSlot)
  /-- STEP_COMMIT (R273). Runs the update segment, verifies logs, writes the commit line, rolls forward and rebuilds. -/
  | stepCommit (slot : CtxSlot)
  /-- SEGMENT_HALT (R273). An update or rebuild segment of a commit or rollback stops, and the descriptor continues or ends with SEGMENT_FAULT. -/
  | segmentHalt (slot : CtxSlot)
  /-- STEP_ROLLBACK (R277). Undoes the last commit while rollback is available and rebuilds. -/
  | stepRollback (slot : CtxSlot)
  /-- LOSS_SCALE_SET (R263). Sets kmin, kmax, period or pin for the next commit. -/
  | lossScaleSet (slot : CtxSlot)
  /-- ADAPTER_REGISTER (R234). Moves a directory entry from free to registered. -/
  | adapterRegister (slot : CtxSlot)
  /-- ADAPTER_FETCH (R236). Copies a body into the adapter cache, checks it and makes the adapter resident. -/
  | adapterFetch (slot : CtxSlot)
  /-- ADAPTER_EVICT (R234). Moves a resident, unslotted adapter back to registered. -/
  | adapterEvict (slot : CtxSlot)
  /-- ADAPTER_UNREGISTER (R234). Moves a registered adapter to free. -/
  | adapterUnregister (slot : CtxSlot)
  /-- ADAPTER_POLICY (R262). Changes an adapter's policy bits while no step is open. -/
  | adapterPolicy (slot : CtxSlot)
  /-- SLOT_BIND (R239). Processes a claim list that binds resident adapters to slots. -/
  | slotBind (slot : CtxSlot)
  /-- SLOT_RELEASE (R241). Frees named position and slot pairs. -/
  | slotRelease (slot : CtxSlot)
  /-- REDUCE_CONFIG (R303). Sets the reduction tree, epoch, tree FD and digest log of the context. -/
  | reduceConfig (slot : CtxSlot)
  /-- REDUCE_FENCE (R325). Holds the ring head until the context has no open or outstanding bucket. -/
  | reduceFence (slot : CtxSlot)
  /-- REDUCE_FENCE_COMPLETE (R325). The fence condition comes to hold, the fence completes and any aborted state ends. -/
  | reduceFenceComplete (slot : CtxSlot)
  /-- REDUCE_ABORT (R328). Puts the context's reduction in the aborted state, ending every bucket. -/
  | reduceAbort (slot : CtxSlot)
  /-- REDUCE_DIGEST (R373). Writes the tree FD's digest record for a tag. -/
  | reduceDigest (slot : CtxSlot)
  /-- FABRIC_ROUTE (R344). Binds a route table of peer, port and job entries to the context. -/
  | fabricRoute (slot : CtxSlot)
  /-- CONTEXT_NOP (R372). Context-ring NOP completes with 0x00. -/
  | contextNop (slot : CtxSlot)
  /-- CONTEXT_CREATE (R379). Checks and creates a context with its arc, grants, seed, save area and commit line. -/
  | contextCreate
  /-- CONTEXT_DESTROY (R389). Removes an idle or FAULTED context. -/
  | contextDestroy
  /-- CONTEXT_RESET (R421). Removes a context's work from every unit, zeroes on-die state and stops its ring set. -/
  | contextReset
  /-- UNIT_RESET_ACK (R421). A unit acknowledges that it has stopped for CONTEXT_RESET. -/
  | unitResetAck (island : BitVec 16)
  /-- RESET_ACK_TIMEOUT (R422). The 65,536-cycle acknowledgement bound passes, and silent units are forced or the reset ends RESET_INCOMPLETE. -/
  | resetAckTimeout
  /-- FORCED_RESET_RELEASE (R422). A forced island is released after 1,024 HD cycles in reset. -/
  | forcedResetRelease (island : BitVec 16)
  /-- CONTEXT_SWITCH (R387). Saves the outgoing context and restores the incoming one on an arc. -/
  | contextSwitch
  /-- PAUSE_LIMIT_EXPIRY (R354). The 1,600,000-cycle wait for granted messages ends, and later arrivals get PAUSED. -/
  | pauseLimitExpiry (slot : CtxSlot)
  /-- RING_BIND (R362). Binds a context's ring set to a ring block. -/
  | ringBind
  /-- RING_RESUME (R375). Discards untaken entries and restarts a stopped ring set. -/
  | ringResume
  /-- ATTEST (R403). Draws an ephemeral pair and writes a signed attestation report. -/
  | attest
  /-- KEY_RELEASE (R408). Unwraps a package key, installs domain keys and registers package windows. -/
  | keyRelease
  /-- DOMAIN_RELEASE (R413). Destroys a tenant domain's keys and scrubs its memory. -/
  | domainRelease
  /-- DEBUG_UNLOCK (R415). Verifies a debug token, destroys every tenant domain and opens debug. -/
  | debugUnlock
  /-- DUMP_TAKE (R429). Takes a new crash dump, or copies out the retained one. -/
  | dumpTake
  /-- UNIT_READ_TIMEOUT (R427). A unit has not answered the dump collector for 65,536 cycles, or its scan check has failed twice, and is
  recorded UNREADABLE. -/
  | unitReadTimeout (unit : UnitFailure)
  /-- LOOP_SET (R444). Sets the bounds, pin or free mode of a control loop. -/
  | loopSet
  /-- ADMIN_NOP (R374). Admin-ring NOP completes with 0x00. -/
  | adminNop
  /-- ADMIN_RING_BIND (R478). A write with the bind bit of HD.ADMIN_RING binds the admin ring set. -/
  | adminRingBind (a : RegAccess) (stores : List Host.Cell)
  /-- ADMIN_RING_RESUME (R478). A write with the resume bit of HD.ADMIN_RING resumes the stopped admin ring set. -/
  | adminRingResume (a : RegAccess)
  /-- MODULE_RESET (R425). Writing the key to HD.MODULE_RESET resets every die but the PD and reruns start-up. -/
  | moduleReset (a : RegAccess)
  /-- FLASH_READ (R479). Flash op 1 reads 4 KiB into HD.FLASH_BUF. -/
  | flashRead (a : RegAccess)
  /-- FLASH_PROGRAM (R479). Flash op 2 programs 4 KiB from HD.FLASH_BUF. -/
  | flashProgram (a : RegAccess)
  /-- FLASH_ERASE (R479). Flash op 3 erases a 64 KiB sector. -/
  | flashErase (a : RegAccess)
  /-- FLASH_COMMAND_DONE (R479). A flash command finishes and sets its result and the done count. -/
  | flashCommandDone (deviceOk : Bool)
  /-- LOOP_REGISTER_WRITE (R480). A write to HD.LOOPj acts as a LOOP_SET of that loop. -/
  | loopRegisterWrite (a : RegAccess)
  /-- BUDGET_WRITE (R483). A write to PD.BUDGETn is checked against the range and the 2,168 W sum. -/
  | budgetWrite (a : RegAccess)
  /-- PORT_EN_WRITE (R486). A write to FD.PORT_EN starts ports at DETECT or stops them. -/
  | portEnWrite (a : RegAccess)
  /-- COUNTER_CLEAR_WRITE (R476). Writing zero to a counter register clears the count and overflow bit and re-arms a threshold. -/
  | counterClearWrite (a : RegAccess)
  /-- SETUP_REGISTER_WRITE (R472). A write to a register with no row of its own, accepted or ignored and counted as a stray. -/
  | setupRegisterWrite (a : RegAccess)
  /-- SETDASA (R465). The I3C CCC that assigns a dynamic address from the static address. -/
  | setdasa (static dynamic : BitVec 7)
  /-- ENTDAA (R465). The I3C CCC for dynamic address assignment. -/
  | entdaa (dynamic : BitVec 7)
  /-- RSTDAA (R465). The I3C CCC that resets the dynamic address. -/
  | rstdaa
  /-- FLIT_TRANSMIT (R438). A port fills a flit's lines from eligible credit classes in search order, or sends an idle flit. -/
  | flitTransmit (port : PortNo)
  /-- FLIT_RECEIVE (R340). A flit arrives, is checked, acknowledged or NAKed, and returns credits. -/
  | flitReceive (port : PortNo) (flit : Flit)
  /-- REPLAY_TIMEOUT (R341). A flit unacknowledged for 16,384 cycles triggers a replay, with LINK_DOWN after eight. -/
  | replayTimeout (port : PortNo)
  /-- KEEPALIVE_TIMEOUT (R341). No flit for 65,536 cycles takes the port out of ACTIVE with LINK_DOWN. -/
  | keepaliveTimeout (port : PortNo)
  /-- PORT_TRAINING_STEP (R336). A training state completes its work and the port moves to the next state. -/
  | portTrainingStep (port : PortNo) (found : TrainReport)
  /-- PORT_TRAINING_TIMEOUT (R336). A training state exceeds its limit, writes a failure and enters back-off. -/
  | portTrainingTimeout (port : PortNo) (found : TrainReport)
  /-- BACKOFF_EXPIRY (R336). A port's back-off ends and training restarts at DETECT. -/
  | backoffExpiry (port : PortNo)
  /-- NEGOTIATION_FLIT (R337). A negotiation flit arrives and fixes the generation and the session resume. -/
  | negotiationFlit (port : PortNo) (flit : NegFlit)
  /-- EQUALISER_ADAPT (R335). A receiver adapts its CTLE and DFE within the loop's bounds. -/
  | equaliserAdapt (port : PortNo) (ctle : BitVec 4) (dfe : BitVec 48)
  /-- PACKET_ARRIVAL (R345). A data packet is matched to a context and stream and landed through the Pantry, or refused with a NAK. -/
  | packetArrival (port : PortNo) (packet : Packet)
  /-- MESSAGE_LANDED (R348). Every line of a message is written, and the landed count or the gather ordinal advances. -/
  | messageLanded (slot : CtxSlot) (pos : Fin 16) (stream : Fin 32) (mseq : BitVec 32)
  /-- SEND_ENTRY_DEPART (R349). A released send entry with a message credit is read over the spur and sent as packets. -/
  | sendEntryDepart (slot : CtxSlot) (pos : Fin 16) (stream : Fin 32)
  /-- NAK_ARRIVAL (R351). A NAK arrives and the sender raises an event and stops the stream or resends. -/
  | nakArrival (port : PortNo) (packet : Packet)
  /-- MCREDIT (R435). An MCREDIT arrives and returns message credits to a send stream. -/
  | mcredit (port : PortNo) (packet : Packet)
  /-- PING (R434). A management PING arrives and is answered with ECHO against its reserved credit. -/
  | ping (port : PortNo) (packet : Packet)
  /-- ECHO (R434). An ECHO answering a PING arrives into its reserved buffer. -/
  | echo (port : PortNo) (packet : Packet)
  /-- EASY_ALL_ENTRY (R448). The averaged input current exceeds the entry level and an Easy-all episode begins. -/
  | easyAllEntry (average : Nat)
  /-- EASY_ALL_SIGNAL (R449). The entry signal reaches the HD and the CDs, running partitions stop as at pre-emption and events are written. -/
  | easyAllSignal
  /-- EASY_ALL_EXIT (R450). After 65,536 PD cycles at or below the exit level, partitions resume as after restore. -/
  | easyAllExit (average : Nat)
  /-- OVERTEMPERATURE_SHUTDOWN (R452). A die at 110 C or more, or LPDDR5X beyond range, turns off every rail. -/
  | overtemperatureShutdown (source : BitVec 16) (tenths : Int)
  /-- INPUT_APPLIED (R453). The 60 V input is applied and qualification begins. -/
  | inputApplied
  /-- INPUT_QUALIFIED (R453). The input stays in range for 10 ms and rail sequencing starts or restarts. -/
  | inputQualified
  /-- INPUT_UNDERVOLTAGE (R453). The input stays below 44.0 V for 100 us and a protective turn-off follows. -/
  | inputUndervoltage
  /-- INPUT_OVERVOLTAGE (R453). The input stays above 68.0 V for 100 us and a protective turn-off follows. -/
  | inputOvervoltage
  /-- INPUT_REMOVED (R463). The input is removed or unmated, and every rail turns off with nothing stored. -/
  | inputRemoved
  /-- RAIL_POWER_GOOD (R455). A rail reports power-good and the next rail starts, or PWR_GOOD rises. -/
  | railPowerGood
  /-- RAIL_SEQUENCE_TIMEOUT (R455). A rail misses its window within 5 ms and sequencing fails. -/
  | railSequenceTimeout
  /-- SEQUENCE_RETRY (R455). One second after a sequencing failure the PD starts again from rail 1. -/
  | sequenceRetry
  /-- ENTROPY_FAIL (R393). A random-source health test fails and Boathouse stops installing keys and signing. -/
  | entropyFail (test : BitVec 8)
  /-- FIRMWARE_BOOT (R398). Boathouse ROM verifies both firmware slots and boots one, or reports FW_NONE. -/
  | firmwareBoot
  /-- SETUP_IMAGE_APPLY (R460). Fused defaults are loaded and the set-up image is checked and applied, or fallback is taken. -/
  | setupImageApply (readOk : Bool)
  /-- LPDDR_TRAIN (R456). LPDDR5X training of a device ends, or fails at its 200 ms limit. -/
  | lpddrTrain (cd : Cd) (ctl : Fin 2) (ok : Bool)
  /-- MEMORY_FILL_DONE (R458). Every controller's zero fill ends and fill_done is set. -/
  | memoryFillDone
  /-- COURSE_BRINGUP (R199). Each link-direction is trained and its latency measured and held to 64 cycles, or COURSE_LINK fails. -/
  | courseBringup (latency : List (BitVec 16))
  /-- YALKEN_TRAINING (R456). A Yalken link training attempt, retried every 100 ms until the companion answers. -/
  | yalkenTraining (answered : Bool)
  /-- READY (R456). Start-up reaches stage 0x8, ready is set and an IBI is raised. -/
  | readyReached
  /-- YALKEN_LINK_RETRAIN (R359). The Yalken link goes down while the module runs and retrains, and companion accesses wait until it is up again. -/
  | yalkenLinkRetrain (up : Bool)
  /-- TELEMETRY_SAMPLE (R482). The PD completes a telemetry sample (voltage, current, power, per-CD rail power with its over-budget bit, temperatures) every 1 ms, or every 100 ms for coolant, and updates the registers. -/
  | telemetrySample (sample : Telemetry)
  /-- ENEC (R467). The I3C controller enables in-band interrupts with ENEC, after which the HD raises IBIs for its causes. -/
  | enec
  /-- IBI (R467). The board controller accepts a pending in-band interrupt, and the HD then raises the next pending cause in code order. -/
  | ibi
  /-- DESCRIPTOR_OPCODE_REFUSED (R366). A submission entry with a reserved opcode, or an opcode of the other ring type, is taken and completed with OPCODE without executing anything. -/
  | descriptorOpcodeRefused (ring : RingId)
  deriving DecidableEq, Repr

end Sys2Proof
end

