-- ==== Sys2Proof/Decode.lean ====
section
/-! DEFINITION. The words that spell a command: none, since the opcode table gives no row any bits. -/

namespace Sys2Proof

/-- The command that a word spells by the table's bits. Every row of the table has an empty list of fields, so no word of
any length spells a command. -/
def decodeTableWord (_nbits _w : Nat) : Option Instr := none

end Sys2Proof
end

