-- ==== Sys2Proof/Machine/Formats.lean ====
section
/-! DEFINITION. Number formats, exact values, rounding and conversions (R29 to R52). -/

namespace Sys2Proof.Machine

/-! ### Exact values -/

/-- An exact value: a NaN, an infinity, or ± mag × 2^e (a zero carries its sign, R35). -/
inductive Val where
  | nan
  | inf (neg : Bool)
  | fin (neg : Bool) (mag : Nat) (e : Int)
  deriving DecidableEq, Repr

/-- A dyadic number m × 2^e. -/
structure Dy where
  m : Int
  e : Int
  deriving DecidableEq, Repr

/-- `i × 2^k` for `k ≥ 0`. -/
def shlInt (i : Int) (k : Nat) : Int := i * (pow2 k : Int)

/-- Floor of `i / 2^k`. -/
def floorShift (i : Int) (k : Nat) : Int := Int.fdiv i (pow2 k : Int)

/-- Two dyadics at one exponent. -/
def Dy.align (a b : Dy) : Int × Int × Int :=
  let e := if a.e ≤ b.e then a.e else b.e
  (shlInt a.m (a.e - e).toNat, shlInt b.m (b.e - e).toNat, e)

/-- Exact sum. -/
def Dy.add (a b : Dy) : Dy :=
  if a.m = 0 then b else if b.m = 0 then a else
  let (x, y, e) := a.align b
  ⟨x + y, e⟩

/-- Exact difference. -/
def Dy.sub (a b : Dy) : Dy := a.add ⟨-b.m, b.e⟩

/-- Exact product. -/
def Dy.mul (a b : Dy) : Dy := ⟨a.m * b.m, a.e + b.e⟩

/-- Exact comparison `a < b`. -/
def Dy.lt (a b : Dy) : Bool :=
  let (x, y, _) := a.align b
  decide (x < y)

/-- The magnitude. -/
def Dy.abs (a : Dy) : Dy := ⟨a.m.natAbs, a.e⟩

/-- A dyadic as a value; a zero is positive. -/
def Dy.val (a : Dy) : Val := .fin (decide (a.m < 0)) a.m.natAbs a.e

/-- The dyadic of a finite value; zero otherwise. -/
def Val.dy : Val → Dy
  | .fin neg mag e => ⟨if neg then -(mag : Int) else mag, e⟩
  | _ => ⟨0, 0⟩

/-- The value is finite. -/
def Val.finite : Val → Bool
  | .fin _ _ _ => true
  | _ => false

/-- The value is a zero. -/
def Val.isZero : Val → Bool
  | .fin _ 0 _ => true
  | _ => false

/-- Floor of log2 of a positive dyadic magnitude. -/
def log2Of (mag : Nat) (e : Int) : Int := (log2 mag : Int) + e

/-! ### Rounding (R49, R50) -/

/-- A rounding mode with its draw (R49). -/
inductive Rounding where
  | nearestEven
  | towardZero
  | stochastic (draw : Nat)
  deriving DecidableEq, Repr

/-- The rounding of a mode code; none for the reserved code (R49). -/
def roundingOf (code draw : Nat) : Option Rounding :=
  if code = 0 then some .nearestEven else if code = 1 then some .towardZero
  else if code = 2 then some (.stochastic draw) else none

/-- The magnitude mag × 2^e in quanta of 2^q, rounded (R50). A magnitude more than 33 bits below the quantum rounds to zero in
every mode: it is below one half, and its F is 0. -/
def roundQuanta (r : Rounding) (mag : Nat) (e q : Int) : Nat :=
  if q ≤ e then mag <<< (e - q).toNat
  else if (log2 mag : Int) + 34 < q - e then 0
  else
    let sh := (q - e).toNat
    let k := mag >>> sh
    let rem := mag % pow2 sh
    match r with
    | .towardZero => k
    | .nearestEven => if pow2 sh < 2 * rem ∨ (2 * rem = pow2 sh ∧ k % 2 = 1) then k + 1 else k
    | .stochastic draw =>
      let f := (rem <<< 32) >>> sh
      if f ≠ 0 ∧ 2 ^ 32 ≤ f + draw then k + 1 else k

/-- The magnitude mag × 2^e in quanta of 2^q, rounded to odd (R66). -/
def roundOdd (mag : Nat) (e q : Int) : Nat :=
  if q ≤ e then mag <<< (e - q).toNat
  else if (log2 mag : Int) + 1 < q - e then (if mag = 0 then 0 else 1)
  else
    let sh := (q - e).toNat
    let k := mag >>> sh
    if mag % pow2 sh = 0 then k else k ||| 1

/-- `mix64` of R52. -/
def mix64 (z0 : BitVec 64) : BitVec 64 :=
  let z1 := (z0 ^^^ (z0 >>> 30)) * 0xBF58476D1CE4E5B9
  let z2 := (z1 ^^^ (z1 >>> 27)) * 0x94D049BB133111EB
  z2 ^^^ (z2 >>> 31)

/-- `sr_draw` of R52. -/
def srDraw (seed : BitVec 64) (step tid ix : Nat) : Nat :=
  let h1 := mix64 (seed ^^^ BitVec.ofNat 64 (step % 2 ^ 32 * 2 ^ 32 + tid % 2 ^ 32))
  let h2 := mix64 (h1 + BitVec.ofNat 64 (ix % 2 ^ 32) * 0x9E3779B97F4A7C15)
  h2.toNat >>> 32

/-! ### Format codes (R29) -/

/-- Formats that have a code (R29). -/
inductive Fmt where
  | q4 | e4m3 | e5m2 | int8 | bf16 | fp16 | sb16 | int32
  deriving DecidableEq, Repr

/-- The format of a code; none for a reserved code (R29). -/
def fmtOf : Nat → Option Fmt
  | 0 => some .q4 | 1 => some .e4m3 | 2 => some .e5m2 | 3 => some .int8
  | 4 => some .bf16 | 5 => some .fp16 | 6 => some .sb16 | 7 => some .int32
  | _ => none

/-- Bits per element in memory, without scales and block exponents (R29). -/
def Fmt.width : Fmt → Nat
  | .q4 => 4 | .e4m3 | .e5m2 | .int8 => 8 | .bf16 | .fp16 | .sb16 => 16 | .int32 => 32

/-- The supported conversion pairs (R44). -/
def pairOk : Fmt → Fmt → Bool
  | .q4, .q4 | .q4, .bf16 | .q4, .fp16 => true
  | .q4, _ => false
  | _, .q4 => false
  | .int32, _ => true
  | .int8, .int32 => true
  | _, .int32 => false
  | _, _ => true

/-- Fields of a floating-point format (R33): fraction bits, bias, largest finite code without sign. -/
structure FloatFmt where
  frac : Nat
  bias : Int
  maxCode : Nat
  sign : Nat
  hasInf : Bool
  nanCode : Nat
  infCode : Nat
  deriving DecidableEq, Repr

/-- E4M3 (R33). -/
def fE4m3 : FloatFmt := ⟨3, 7, 0x7E, 7, false, 0x7F, 0x7F⟩
/-- E5M2 (R33). -/
def fE5m2 : FloatFmt := ⟨2, 15, 0x7B, 7, true, 0x7E, 0x7C⟩
/-- BF16 (R33). -/
def fBf16 : FloatFmt := ⟨7, 127, 0x7F7F, 15, true, 0x7FC0, 0x7F80⟩
/-- FP16 (R33). -/
def fFp16 : FloatFmt := ⟨10, 15, 0x7BFF, 15, true, 0x7E00, 0x7C00⟩

/-- The floating-point fields of a format. -/
def Fmt.float : Fmt → Option FloatFmt
  | .e4m3 => some fE4m3 | .e5m2 => some fE5m2 | .bf16 => some fBf16 | .fp16 => some fFp16
  | _ => none

/-- The value of a floating-point code (R33, R34). -/
def FloatFmt.decode (f : FloatFmt) (code : Nat) : Val :=
  let neg := (code >>> f.sign) % 2 == 1
  let c := code % pow2 f.sign
  if f.maxCode < c then (if f.hasInf && c == f.infCode then .inf neg else .nan)
  else
    let x := c >>> f.frac
    let m := c % pow2 f.frac
    if x = 0 then .fin neg m (1 - f.bias - f.frac)
    else .fin neg (m + pow2 f.frac) ((x : Int) - f.bias - f.frac)

/-- What a conversion meets in an element, in the order of R54. -/
inductive Meet where
  | nanIn | infIn | sat | zeroOut
  deriving DecidableEq, Repr

/-- A value converted into a floating-point format (R45 to R47, R50): its code and what it met. -/
def FloatFmt.encode (f : FloatFmt) (r : Rounding) (v : Val) : Nat × Option Meet :=
  match v with
  | .nan => (f.nanCode, some .nanIn)
  | .inf neg => ((if f.hasInf then f.infCode else f.maxCode) + (if neg then pow2 f.sign else 0), some .infIn)
  | .fin neg mag e =>
    let s := if neg then pow2 f.sign else 0
    if mag = 0 then (s, none)
    else
      let q0 := 1 - f.bias - f.frac
      let q1 := log2Of mag e - f.frac
      let q := if q0 ≤ q1 then q1 else q0
      let k := roundQuanta r mag e q
      let code := (q - q0).toNat * pow2 f.frac + k
      if f.maxCode < code then (f.maxCode + s, some .sat)
      else if k = 0 then (s, some .zeroOut)
      else (code + s, none)

/-- A value converted into INT8, as an 8-bit code (R42, R47). -/
def int8Encode (r : Rounding) (v : Val) : Nat × Option Meet :=
  match v with
  | .nan => (0, some .nanIn)
  | .inf neg => (if neg then 0x80 else 0x7F, some .infIn)
  | .fin neg mag e =>
    let k := roundQuanta r mag e 0
    if neg then
      if 128 < k then (0x80, some .sat) else ((256 - k) % 256, if k = 0 ∧ mag ≠ 0 then some .zeroOut else none)
    else if 127 < k then (0x7F, some .sat)
    else (k, if k = 0 ∧ mag ≠ 0 then some .zeroOut else none)

/-- The value of an element code of at most 16 bits that carries no scale (R33, R42). A Q4 nibble here is its integer. -/
def Fmt.decode (f : Fmt) (code : Nat) : Val :=
  match f.float with
  | some g => g.decode code
  | none =>
    let w := f.width
    let r := code % pow2 w
    if r < pow2 (w - 1) then .fin false r 0 else .fin true (pow2 w - r) 0

/-- A value converted into an element format without block or scale (R42 to R47). -/
def Fmt.encode (f : Fmt) (r : Rounding) (v : Val) : Nat × Option Meet :=
  match f.float with
  | some g => g.encode r v
  | none => int8Encode r v

/-! ### Q4 (R36, R38) -/

/-- The value of a Q4 element: nibble times the BF16 scale of its group; a group with a non-finite scale is zero (R38). -/
def q4Value (nibble scale : Nat) : Val :=
  match fBf16.decode scale with
  | .fin neg mag e =>
    match Fmt.decode .q4 nibble with
    | .fin n2 m2 _ => .fin ((neg != n2) && decide (mag * m2 ≠ 0)) (mag * m2) e
    | _ => .fin false 0 0
  | _ => .fin false 0 0

/-- What the intake of a Q4 element counts (R38, R54). -/
def q4Meet (scale : Nat) : Option Meet :=
  match fBf16.decode scale with
  | .nan => some .nanIn
  | .inf _ => some .infIn
  | .fin _ _ _ => none

/-! ### SB16 (R39, R41, R47) -/

/-- The value of an SB16 mantissa in a block (R39). -/
def sb16Value (mant exp : Nat) : Val :=
  let r := mant % 65536
  if r < 32768 then .fin false r ((exp : Int) - 142) else .fin true (65536 - r) ((exp : Int) - 142)

/-- One element rounded at a block exponent: the signed mantissa before saturation. -/
def sb16Quanta (r : Rounding) (exp : Nat) : Val → Int
  | .fin neg mag e =>
    let k : Int := roundQuanta r mag e ((exp : Int) - 142)
    if neg then -k else k
  | _ => 0

/-- One element of a block: its 16-bit mantissa and what it met (R41 item 5, R47, R54). -/
def sb16Elem (r : Rounding) (exp : Nat) (v : Val) : Nat × Option Meet :=
  match v with
  | .nan => (0, some .nanIn)
  | .inf neg => (if neg then 0x8000 else 0x7FFF, some .infIn)
  | .fin _ mag _ =>
    let k := sb16Quanta r exp v
    if 32767 < k then (0x7FFF, some .sat)
    else if k < -32768 then (0x8000, some .sat)
    else ((k % 65536).toNat, if k = 0 ∧ mag ≠ 0 then some .zeroOut else none)

/-- The largest finite magnitude of a list as a dyadic. -/
def maxMag (vs : List Val) : Dy :=
  vs.foldl (fun m v => let d := v.dy.abs; if m.lt d then d else m) ⟨0, 0⟩

/-- A block converted into SB16: exponent, mantissas, what each element met (R41, R47). -/
def sb16Block (vs : List (Val × Rounding)) : Nat × List (Nat × Option Meet) :=
  let m := maxMag (vs.map (·.1))
  let anyInf := vs.any fun p => match p.1 with | .inf _ => true | _ => false
  let e0 : Int := if m.m = 0 then 0 else log2Of m.m.natAbs m.e + 128
  let e1 : Nat := if anyInf then 255 else if 255 < e0 then 255 else e0.toNat
  let up := vs.any fun p => decide (32767 < sb16Quanta p.2 e1 p.1)
  let e2 := if up && decide (e1 < 255) then e1 + 1 else e1
  (e2, vs.map fun p => sb16Elem p.2 e2 p.1)

end Sys2Proof.Machine
end

