-- ==== Sys2Proof/Config.lean ====
section
/-! DEFINITION. What an implementation fixes and the spec leaves open: free values and the uninterpreted
cryptographic functions. Every constant here is opaque: no proof can see its value (log entries 7, 8, 9). -/

namespace Sys2Proof.Config

/-- A fresh free value, numbered by the counter `fresh` of the state (log entry 9): random draws and values
that the spec leaves undefined. -/
opaque free : Nat → BitVec 64

/-- The random source of R393: draw number `n`, any width taken from its 384 bits (log entry 9). -/
opaque random : Nat → BitVec 384

/-- The key pair drawn as number `n` for XTS-AES-256: data key, tweak key (R187, R402; log entry 8). -/
opaque xtsPair : Nat → BitVec 256 × BitVec 256
/-- AES-256 on one block, both ways: key, block with byte 0 lowest (R187; log entry 7). -/
opaque aesEncrypt : BitVec 256 → BitVec 128 → BitVec 128
opaque aesDecrypt : BitVec 256 → BitVec 128 → BitVec 128

/-- SHA-384 of a byte string (R392; log entry 7). -/
opaque sha384 : List Byte → BitVec 384
/-- ECDSA P-384 verification: public key X,Y; digest; signature r,s (R397, R415; log entry 7). -/
opaque ecdsaVerify : BitVec 768 → BitVec 384 → BitVec 768 → Bool
/-- Deterministic ECDSA P-384 signature with the nonce of RFC 6979 (R405; log entry 7): private key, digest. -/
opaque ecdsaSign : BitVec 384 → BitVec 384 → BitVec 768
/-- The P-384 public key of a private key (R394; log entry 7). -/
opaque p384Public : BitVec 384 → BitVec 768
/-- X coordinate of the ECDH product of a private key and a public key (R407; log entry 7). -/
opaque ecdhX : BitVec 384 → BitVec 768 → BitVec 384
/-- HKDF-SHA-384 with IKM, salt, info, giving the number of bytes asked (R394, R407; log entry 7). -/
opaque hkdf384 : BitVec 384 → BitVec 384 → List Byte → Nat → List Byte
/-- AES-256-GCM opening: key, initial value, additional data, ciphertext, tag; none when the tag fails
(R407, R409, R411; log entry 7). -/
opaque gcmOpen : BitVec 256 → BitVec 96 → List Byte → List Byte → BitVec 128 → Option (List Byte)

/-- The root of a negative number in an UPDATE, mantissa and exponent of the radicand (R268; log entry 24). -/
opaque rootOfNegative : Int → Int → Bool × Nat × Int
/-- The quotient of an UPDATE whose divisor is zero, mantissa and exponent of the dividend (R268; log entry 24). -/
opaque quotientByZero : Int → Int → Bool × Nat × Int

/-- Unique device secret, fused (R393 table; log entry 7). -/
opaque uds : BitVec 384

/-- Bits [47:32] of the I3C provisional ID, which the spec does not state (R465, log entry 81). -/
opaque i3cMaker : BitVec 16

/-- The four fused digests of firmware signing keys (log entry 7). -/
opaque fwKey : Fin 4 → BitVec 384
/-- The fused digest of the debug-unlock key (log entry 7). -/
opaque dbgKey : BitVec 384
/-- SHA-384 of HD ROM, measured at boot (R404; log entry 7). -/
opaque romDigest : BitVec 384
end Sys2Proof.Config
end

