-- ==== Sys2Proof/Machine/State.lean ====
section
/-! DEFINITION. The state of the module: everything the spec gives it, as plain data, and its state after reset. -/

namespace Sys2Proof.Machine

/-- Why the machine stops with a fault. The spec turns every failure of the module into state (an error record, an
event, a completion code, a refusal on a link, a context that enters FAULTED, a turn-off of the rails), so no meaning
raises a fault: the type is empty, and a run that faults does not exist. Safe. -/
inductive Fault where
  deriving DecidableEq, Repr

/-- Why a command is refused. -/
inductive Refusal where
  /-- Raised by an arm of the dispatch whose command has no meaning yet, by its mnemonic. Safe: nothing runs. -/
  | notModelled (mnemonic : String)
  deriving DecidableEq, Repr

/-- Memory: the listed bytes by address, strictly rising, none equal to what an unlisted address reads as. -/
abbrev Memory := List Host.Cell

/-- A statistics or threshold counter of 32 bits with its overflow bit (R439, R441, R476). -/
structure Counter where
  count : BitVec 32 := 0
  ovf   : Bool := false
  deriving DecidableEq, Repr

/-- An error record without its encoding (R15). -/
structure ErrRec where
  island : BitVec 16
  cls    : BitVec 8
  dpaOk  : Bool
  ctxOk  : Bool
  code   : BitVec 16
  ctx    : BitVec 16
  cycle  : BitVec 64
  dpa    : BitVec 52
  detail : BitVec 64
  deriving DecidableEq, Repr

/-! ### The Cox -/

/-- Run state of a Cox (R142). -/
inductive CoxRun where
  | idle | running | haltWait
  deriving DecidableEq, Repr

/-- A DPA load whose error response has not arrived yet (R128). -/
structure LoadErr where
  pc   : BitVec 14
  dpa  : BitVec 52
  code : BitVec 16
  deriving DecidableEq, Repr

/-- An access of the Cox to bonded SRAM on its way: the run cycle in which it reaches the memory, where, how wide, under which key domain,
and the bytes of a store or the register of a load (R130). -/
structure BusOp where
  due : Nat
  dpa : BitVec 52
  bytes : Nat
  domain : Fin 64
  store : Option (List Byte)
  d : Fin 32
  pc : BitVec 14
  deriving DecidableEq, Repr

/-- The state of one Cox (R120). -/
structure Cox where
  g  : Vector (BitVec 64) 32 := Vector.replicate 32 0
  p  : Vector Bool 8 := Vector.replicate 8 false
  s  : Vector (BitVec 64) 16 := Vector.replicate 16 0
  pc : BitVec 14 := 0
  /-- Pending-writer table: slot 1-6 of the latest issued writer, 0 for none. -/
  pend : Vector (BitVec 3) 16 := Vector.replicate 16 0
  /-- The issue number of that writer. -/
  pendNo : Vector Nat 16 := Vector.replicate 16 0
  /-- The 14 Cox counters, in index order, and their overflow bits (R138). -/
  counters : Vector (BitVec 64) 14 := Vector.replicate 14 0
  ovf : Vector Bool 14 := Vector.replicate 14 false
  run : CoxRun := .idle
  /-- The stroke past the last one of the code section is next (R136). -/
  fell : Bool := false
  /-- Run arguments a0-a7 (R122). -/
  args : Vector (BitVec 64) 8 := Vector.replicate 8 0
  /-- Cox cycles since the run started: the clock of the scoreboard below. -/
  now : Nat := 0
  /-- The run cycle from which each register is ready (R130). -/
  ready : Vector Nat 32 := Vector.replicate 32 0
  /-- The run cycle from which every earlier store has landed (R127). -/
  landed : Nat := 0
  /-- The run cycle at which a stroke may issue after a taken branch (R131). -/
  bubble : Nat := 0
  /-- A WAITQ or HALT in progress: queue mask by slot, and the issue number it waits below. -/
  waiting : Option (BitVec 6 × Nat) := none
  /-- Engine commands issued so far in the run. -/
  issued : Nat := 0
  /-- Item number of R137 and slot of the last stall cycle. -/
  stallItem : BitVec 3 := 0
  stallSlot : BitVec 3 := 0
  /-- Consecutive cycles of credit stall, and whether a PLAN_STALL record has been written since a stroke issued (R159). -/
  creditRun : Nat := 0
  stallTold : Bool := false
  loadErr : Option LoadErr := none
  /-- Accesses to bonded SRAM that have issued and not reached it yet, oldest first (R130). -/
  bus : List BusOp := []
  deriving DecidableEq, Repr

/-! ### Engine queues and links -/

/-- An entry of an engine queue: the command word and the values captured at issue (R148), with its progress. -/
structure QEntry where
  word : BitVec 64
  ga : BitVec 64
  gb : BitVec 64
  imm : BitVec 16
  /-- Issue number within the run. -/
  no : Nat
  started  : Bool := false
  /-- The command has read its last input byte and has passed its release point. -/
  inputRead : Bool := false
  released : Bool := false
  /-- The command has written its last result byte: its completion point can be reached. -/
  done     : Bool := false
  /-- The command has stopped with a fault (R195). -/
  stopped  : Bool := false
  /-- The command stands at a stop point with work left: it goes on from `progress` (R86, R118, R197, R387). -/
  cut : Bool := false
  /-- The s-registers that the command writes at its completion point, with their values (R107, R149). -/
  svals : List (Fin 16 × BitVec 64) := []
  /-- Progress in the layout of the save area (R383). -/
  progress : BitVec 40 := 0
  deriving DecidableEq, Repr

/-- A link of the plan (R154). -/
structure Link where
  producer : Nat
  consumer : Nat
  grant    : Nat
  credits  : Nat
  tokens   : Nat
  deriving DecidableEq, Repr

/-! ### Matrix arrays -/

/-- One accumulator element: value V and flag nibble (R63, R65). -/
structure AccElem where
  v   : BitVec 96 := 0
  s   : Bool := false
  ovf : Bool := false
  nf  : BitVec 2 := 0
  deriving DecidableEq, Repr

/-- A chunk tile in a weight-buffer slot (R60, R220, R221, R245). -/
structure WTile where
  /-- Loaded by the Mixer (16-bit tile) instead of Tongs channel 0 (Q4 tile). -/
  mixer : Bool
  /-- K rows of the tile. -/
  k : Nat
  transposed : Bool
  /-- The stored elements, row-major K by 128: nibbles of a Q4 tile, 16-bit values of a Mixer tile. -/
  elems : List (BitVec 16)
  /-- Group scales of a Q4 tile (BF16), in the order of R37, or of R221 when transposed. -/
  scales : List (BitVec 16)
  deriving DecidableEq, Repr

/-- One accumulator buffer with its tile header (R72, R87). -/
structure Tile where
  state  : BitVec 2 := 0
  pair   : BitVec 8 := 0
  anchor : BitVec 10 := 0
  rows   : BitVec 8 := 0
  uwOvf  : Bool := false
  wovFlag : Bool := false
  wovCount : BitVec 16 := 0
  chunks : BitVec 32 := 0
  uwCount : BitVec 32 := 0
  tileId : BitVec 32 := 0
  readoutRow : BitVec 8 := 0
  /-- Elements, row-major 128 per row; elements not listed are zero with a clear nibble. -/
  elems : List AccElem := []
  /-- The last chunk's sums are formed and wait for their commit. -/
  lastDone : Bool := false
  /-- Place in the order in which last chunks were taken (R72). -/
  order : Nat := 0
  /-- The tile is the Sieve's sample (R289). -/
  sampled : Bool := false
  deriving DecidableEq, Repr

/-- A matrix array: weight buffer, bank, and the arming of taps (R60, R73, R288, R289). -/
structure Ma where
  weights : List WTile := []
  bufs : Vector Tile 2 := Vector.replicate 2 {}
  /-- The buffer that the most recent first chunk took (R73). -/
  last : Fin 2 := 1
  order : Nat := 0
  /-- Readouts still to be tapped and their accumulator (R288). -/
  tapLeft : Nat := 0
  tapAcc  : Fin 64 := 0
  deriving DecidableEq, Repr

/-- A readout delivered to an engine and not yet taken (R152): source MA, rows of INT32 values, exponent. -/
structure IntRows where
  ma : Fin 4
  ladle : Bool
  e  : Int
  rows : List (List (BitVec 32))
  deriving DecidableEq, Repr

/-! ### The Whisk -/

/-- A block of an element register (R89): exponent, 32 integers, 32 non-finite codes. A raw register has exponent 0 and
codes 0 (R99). -/
structure EBlock where
  e  : Int := 0
  i  : List (BitVec 32) := []
  nf : List (BitVec 2) := []
  deriving DecidableEq, Repr

/-- An element register of up to eight blocks (R99, R105). -/
structure EReg where
  raw : Bool := false
  written : Bool := false
  blocks : List EBlock := []
  deriving DecidableEq, Repr

/-- The reduction state of one output, or of the summary (R106, R113, R114, R118): exact sum, largest and smallest finite value,
non-finite values met, and the count of active elements. -/
structure Reduction where
  sum : Dy := ⟨0, 0⟩
  hi : Option Dy := none
  lo : Option Dy := none
  nan : Bool := false
  pos : Bool := false
  neg : Bool := false
  count : Nat := 0
  deriving DecidableEq, Repr

/-- What a Whisk command in progress keeps beyond its image (R108, R113, R118): the row values of each SB16 row-reduce output that wait for
their block, the inputs loaded by the mask pass, the body's outputs by dense position, the elements gathered and not run, those run, and
those expanded. -/
structure WhiskWork where
  pend : List (List (Val × Nat)) := []
  loaded : List (List (List Val)) := []
  outs : List (List Val) := []
  rest : List Nat := []
  ran : Nat := 0
  expanded : Nat := 0
  deriving DecidableEq, Repr

/-- The Whisk (R118): registers, lookup tables in force, command record, pass and counts of the current command. -/
structure Whisk where
  v : Vector EReg 16 := Vector.replicate 16 {}
  tabA : BitVec 32 := 0
  tabB : BitVec 32 := 0
  record : BitVec 64 := 0
  groups : BitVec 32 := 0
  gathered : BitVec 32 := 0
  pass : BitVec 8 := 0
  /-- Reduction state of outputs 0 to 3 and of the summary. -/
  reds : Vector Reduction 5 := Vector.replicate 5 {}
  work : WhiskWork := {}
  deriving DecidableEq, Repr

/-! ### Course and Tongs -/

/-- A line on the Course (R198, R206, R213). -/
structure CLine where
  /-- 0 weight, 1 adapter (class codes of R225 less one). -/
  adapter : Bool
  /-- Arc position of the owner or sender. -/
  owner : Nat
  /-- Round of the owner's tile, or of the entry. -/
  round : Nat
  /-- Line number within the tile or the entry. -/
  line : Nat
  /-- Entry number of an adapter line. -/
  entry : Nat
  /-- The line travels clockwise, and the hops crossed when it arrives. -/
  cw : Bool
  hop : Nat
  lane : Nat
  poisoned : Bool
  bytes : List Byte
  deriving DecidableEq, Repr

/-- A Ladle line on the Course or in the receive buffer of its Ladle (R216, R318 to R320): level and direction of its stream, tag (step
and bucket), phase, arc position of its receiver, lane and bytes. -/
structure LLine where
  level : Nat
  down : Bool
  step : BitVec 32
  bucket : BitVec 16
  phase : Nat
  dest : Nat
  lane : Nat
  poisoned : Bool := false
  bytes : List Byte
  deriving DecidableEq, Repr

/-- A Course tile in a buffer: owner, round and its lines by number, and whether a fault of a share read has cut it short (R196, R206). -/
structure CTile where
  owner : Nat
  round : Nat
  lines : List (Nat × List Byte)
  cut : Bool := false
  deriving DecidableEq, Repr

/-- A phase of the schedule (R223). -/
structure Phase where
  period : Nat
  first : Nat
  tiles : Nat
  extra : Nat
  wmask : BitVec 20
  amask : BitVec 20
  lmask : BitVec 20
  wheel : BitVec 64
  deriving DecidableEq, Repr

/-- An adapter entry of the schedule (R213, R223). -/
structure AEntry where
  round : Nat
  slot : Nat
  lines : Nat
  src : Nat
  ccw : Bool
  hops : Nat
  deliver : BitVec 16
  deriving DecidableEq, Repr

/-- Course state of one CD (R202 to R215, R227). -/
structure Course where
  /-- The schedule counter at its last event; none before the START marker of a run. -/
  counter : Option Nat := none
  /-- The next round to start. -/
  round : Nat := 0
  /-- The next round whose READY this CD sends, and for each position the next round whose READY has not arrived. -/
  readyNo : Nat := 0
  flagNo : Vector Nat 16 := Vector.replicate 16 0
  /-- PAUSE(q) in force (R227). -/
  pause : Option Nat := none
  /-- First round of the resume after a restore, and the same round from its START to its start (R228). -/
  resume : Option Nat := none
  lead : Option Nat := none
  /-- Own tiles read ahead (Course-out buffer), with the share index of the next read. -/
  out : List CTile := []
  share : Nat := 0
  /-- Weight receive buffer in receipt order, and weight lines that wait for the round in which they are forwarded. -/
  recv : List CTile := []
  fwd : List CLine := []
  /-- Staged adapter lines to send and delivered adapter lines to take: entry, line, bytes. -/
  adOut : List (Nat × Nat × List Byte) := []
  /-- Adapter lines of the rounds for which READY has been sent that have not been delivered here yet (R204). -/
  adDue : Nat := 0
  adIn : List (Nat × Nat × List Byte) := []
  /-- Lines in flight toward this CD, oldest first: from the counter-clockwise neighbour (travelling clockwise) and from
  the clockwise neighbour. -/
  inCw : List CLine := []
  inCcw : List CLine := []
  /-- Ladle lines in flight toward this CD that go on to another (R216), by side as above. -/
  passCw : List LLine := []
  passCcw : List LLine := []
  /-- Gather counter and the ordinals marked ahead of it (R222, R348). -/
  gather : BitVec 32 := 0
  marks : List Nat := []
  /-- Ordinal of the gathered half-tile at which channel 0 stands while it waits for the gather counter (R222). -/
  gatherAt : Option Nat := none
  deriving DecidableEq, Repr

/-- The set-up side of a Course port (R199, R200, R484): wire latency, trained flag, corrected-line counter. -/
structure CoursePort where
  lat : BitVec 8 := 0
  trained : Bool := false
  ce : Counter := {}
  ceThr : BitVec 32 := 0
  deriving DecidableEq, Repr

/-- The WEIGHTIN in hand (R219): Course tiles still to take, and the number of the next chunk tile of the command. -/
structure WeightIn where
  left : Nat := 0
  next : Nat := 0
  deriving DecidableEq, Repr

/-! ### LPDDR5X controllers -/

/-- One LPDDR5X controller (R173 to R177, R212, R446, R484). -/
structure Lpc where
  wheelPos : Fin 16 := 0
  /-- Refresh multiplier code, MR4 field last read, consecutive lower reads, refreshes owed to the current multiplier. -/
  mult : BitVec 2 := 0
  mr4 : BitVec 3 := 0
  lower : Nat := 0
  override : Bool := false
  windows : Nat := 0
  scrub : BitVec 32 := 0
  writeBack : List Nat := []
  ce : Counter := {}
  ceThr : BitVec 32 := 0
  ue : Counter := {}
  trained : Bool := false
  selfRefresh : Bool := false
  deriving DecidableEq, Repr

/-! ### Ladle -/

/-- Where a bucket stands at this CD (R308 to R314): a completed one has ended and waits for the completion point of its CLOSE, an aborted
one was ended while open (R311, R328). -/
inductive BucketState where
  | isOpen | outstanding | completed | aborted
  deriving DecidableEq, Repr

/-- A bucket of the Ladle (R304 to R316). -/
structure Bucket where
  number : BitVec 16
  step : BitVec 32
  elems : Nat
  store : Nat
  es : Int
  recordOff : Nat
  ga : BitVec 64
  state : BucketState
  present : Bool := false
  want : Bool := false
  nonfinite : BitVec 32 := 0
  under : BitVec 32 := 0
  sat : BitVec 32 := 0
  /-- Elements that have saturated (R305 item 3). -/
  satElems : List Nat := []
  /-- Lines of this position's own contribution, captured at CLOSE: 64-bit elements. -/
  own : List (BitVec 64) := []
  /-- Issue number of the CLOSE. -/
  closeNo : Nat := 0
  /-- Lines in order: up payloads received by level and phase, the down payload received by phase, the up payload sent by phase,
  down payloads sent by level and phase (R318 to R323). -/
  upRecv : List (Nat × Nat × List Byte) := []
  downRecv : List (Nat × List Byte) := []
  upSent : List (Nat × List Byte) := []
  downSent : List (Nat × Nat × List Byte) := []
  /-- Line credits returned for received lines, by stream: levels 1 to 4 up, then levels 1 to 4 down (R320). -/
  credited : Vector Nat 8 := Vector.replicate 8 0
  /-- The digest entry is in the log (R323). -/
  logged : Bool := false
  /-- Completion code, ranks and counts of a bucket that has ended and whose CLOSE has not reached its completion point (R311). -/
  code : Nat := 0
  total : Nat := 0
  totals : List Nat := []
  deriving DecidableEq, Repr

/-- The Ladle of a CD (R304 to R330): store bytes, bucket table, CLOSE sequence, stream credits and lines in flight. -/
structure Ladle where
  store : Memory := []
  buckets : List Bucket := []
  /-- Step and number of the last CLOSE (R309). -/
  lastClose : Option (BitVec 32 × BitVec 16) := none
  /-- Line credits of each stream by level and direction (R320). -/
  upCredits : Vector Nat 4 := Vector.replicate 4 512
  downCredits : Vector Nat 4 := Vector.replicate 4 512
  /-- Lines on their last hop to this CD or in its receive buffers, oldest first. -/
  wire : List LLine := []
  deriving DecidableEq, Repr

/-! ### Scales and Sieve -/

/-- An exact sum of squares as numerator over 2^den (R282, R288). -/
structure ExactSum where
  num : Nat := 0
  den : Nat := 0
  deriving DecidableEq, Repr

/-- The open norm group (R283). -/
structure NormGroup where
  handle : BitVec 32
  layer : BitVec 16
  targets : BitVec 8
  flags : BitVec 8
  w : ExactSum
  g : ExactSum
  u : ExactSum
  deriving DecidableEq, Repr

/-- One tap accumulator (R288). -/
structure TapAcc where
  sum : ExactSum := {}
  nonfinite : Bool := false
  count : Counter := {}
  deriving DecidableEq, Repr

/-- The Sieve arming of one MA (R289). -/
structure SieveArm where
  nlog : Nat
  phase : Nat
  bin : Nat
  cnt : Nat
  area : BitVec 52
  wstride : BitVec 32
  counter : Nat
  deriving DecidableEq, Repr

/-- One captured chunk of the sample (R291): streamed wide rows and stationary tile. -/
structure CapChunk where
  k : Nat
  wide : List (List (BitVec 16))
  fp16 : Bool
  tile : WTile
  staFmt : Nat
  deriving DecidableEq, Repr

/-- What the output stage applies to a tile (R74): row and column scales, bias, addend rows, activation code and the bytes of a
programmable table. -/
structure OutParams where
  rs : List Val
  cs : List Val
  bias : List Val
  add : List (List Val)
  act : Nat
  table : List Byte
  deriving DecidableEq, Repr

/-- The sample in progress (R291, R298). -/
structure Sample where
  ma : Fin 4
  j : Nat
  tileId : BitVec 32
  rows : Nat
  chunks : List CapChunk
  bytes : Nat
  arm : SieveArm
  /-- Values that a readout that stands at a stop point has written so far, and the addend rows it has read (R86, R298). -/
  vals : List Val := []
  adds : List (List Val) := []
  /-- What the tile's readout applied and the values it wrote, row-major, once its last row is written (R292, R293). -/
  readout : Option (OutParams × List Val) := none
  deriving DecidableEq, Repr

/-- Scales and Sieve of a CD (R279 to R298). -/
structure Sieve where
  area : Option (BitVec 52 × BitVec 32 × BitVec 32) := none
  group : Option NormGroup := none
  taps : Vector TapAcc 64 := Vector.replicate 64 {}
  arms : Vector (Option SieveArm) 4 := Vector.replicate 4 none
  sample : Option Sample := none
  bins : Vector Counter 16 := Vector.replicate 16 {}
  samples : Counter := {}
  oversize : Counter := {}
  crossings : Counter := {}
  wovTiles : Counter := {}
  wovElems : Counter := {}
  uwSat : Counter := {}
  uwTotal : BitVec 64 := 0
  uwTotalOvf : Bool := false
  raised : Bool := false
  deriving DecidableEq, Repr

/-- The conversion tally of the resident context on a CD (R54). -/
structure Tally where
  nanIn : Counter := {}
  infIn : Counter := {}
  sat : Counter := {}
  zeroOut : Counter := {}
  deriving DecidableEq, Repr

/-- Local cycles that an island of a CD has counted in the run (R28): all, and those spent waiting on the Course (R205), on Wyine arrivals
and on companion memory. -/
structure UnitWait where
  cycles : BitVec 64 := 0
  course : BitVec 64 := 0
  wyine : BitVec 64 := 0
  companion : BitVec 64 := 0
  deriving DecidableEq, Repr

/-- One compute die, without its memories in the DPA space. -/
structure Die where
  cox : Cox := {}
  /-- Plan store and scratch by local address (R124). -/
  loc : Memory := []
  /-- Strokes of the code section, and bytes of the plan store used by RECORDS (R163). -/
  codeStrokes : Nat := 0
  queues : Vector (List QEntry) 12 := Vector.replicate 12 []
  depth : Vector Nat 12 := Vector.replicate 12 0
  bound : Vector Nat 12 := Vector.replicate 12 0
  links : List Link := []
  mas : Vector Ma 4 := Vector.replicate 4 {}
  intRows : List IntRows := []
  whisk : Whisk := {}
  weightIn : WeightIn := {}
  course : Course := {}
  ladle : Ladle := {}
  sieve : Sieve := {}
  tally : Tally := {}
  /-- Cycle and wait counts of the islands but the Cox, in ID order (R13, R28). -/
  waits : Vector UnitWait 22 := Vector.replicate 22 {}
  /-- The loss-scale exponent handed to the Mixer (R264). -/
  mixerK : BitVec 8 := 0
  /-- Handles whose first item of the present attempt at the step has been met (R267; log entry 23). -/
  touched : List Nat := []
  /-- A fault of the context is on its way to this CD's Cox: the first record that reaches it (R195). -/
  faultDue : Option ErrRec := none
  /-- Engines of this CD have stopped with the fault (R195). -/
  frozen : Bool := false
  deriving DecidableEq, Repr

/-! ### Fabric -/

/-- Training states by their code in FD.PORT_STS (R336, R486). -/
inductive PortState where
  | off | detect | eq | align | negotiate | active | backoff
  deriving DecidableEq, Repr

/-- A refusal record written recently: NAK code and context tag (R353). -/
structure Recent where
  code : BitVec 8
  ctx : BitVec 16
  cycle : BitVec 64
  deriving DecidableEq, Repr

/-- One Wyine port (R332 to R355, R485). -/
structure Port where
  enabled : Bool := false
  state : PortState := .off
  fails : Nat := 0
  lastFail : BitVec 8 := 0
  /-- Failure codes already recorded since the port was last ACTIVE (R336). -/
  told : List (BitVec 16) := []
  reversed : Bool := false
  polarity : BitVec 8 := 0
  ctle : BitVec 4 := 0
  dfe : BitVec 48 := 0
  asked : BitVec 4 := 0
  txp : BitVec 4 := 0
  gen : BitVec 2 := 0
  ver : BitVec 6 := 0
  session : BitVec 32 := 0
  /-- The partner's session at the last ACTIVE, if the port has been ACTIVE. -/
  partner : Option (BitVec 32) := none
  partnerModule : BitVec 64 := 0
  /-- Own negotiation flit has been echoed; the partner's has been received in this NEGOTIATE; the own flit sent last (R337). -/
  echoed : Bool := false
  heard : Bool := false
  negTx : Option NegFlit := none
  /-- Flit sequence to send next, oldest unacknowledged, next expected; replay buffer of sent lines; position of replay. -/
  txSeq : BitVec 32 := 0
  txAck : BitVec 32 := 0
  rxSeq : BitVec 32 := 0
  replay : List Flit := []
  /-- The flit sent last. -/
  lastTx : Option Flit := none
  replaySeq : Option (BitVec 32) := none
  replays : Nat := 0
  nakDue : Bool := false
  /-- Flits whose CRC failed are being discarded until the expected one arrives. -/
  discarding : Bool := false
  /-- Lines waiting to be sent per class 0-4, credits held per class, receive-buffer lines held and freed per class. -/
  tx : Vector (List (List Byte)) 5 := Vector.replicate 5 []
  /-- The packet in progress of each class: its header line, and how many of its payload lines wait at the front of `tx`. -/
  txPart : Vector (Option (List Byte × Nat)) 5 := Vector.replicate 5 none
  credits : Vector Nat 5 := Vector.replicate 5 0
  rxHeld : Vector Nat 5 := Vector.replicate 5 0
  freed : Vector Nat 5 := Vector.replicate 5 0
  /-- Lines received and not yet made into packets, per class. -/
  rx : Vector (List (List Byte)) 5 := Vector.replicate 5 []
  /-- Lines of C2 in the up half and the down half (R436). -/
  c2Up : Nat := 0
  c2Down : Nat := 0
  /-- Directions of the C2 lines sent whose credit has not returned, oldest first: true for down (R436). -/
  c2Out : List Bool := []
  /-- Lines of C2 refused with PAUSED, which are sent again once credit returns (R351, R354). -/
  c2Wait : List (List Byte) := []
  /-- Lines of C2 consumed whose credit is withheld, with the context's tag and their half: true for down (R326, R330, R354). -/
  withheld : List (BitVec 16 × Bool × Nat) := []
  /-- NAK packets waiting (R435), reserved ECHO lines (R434). -/
  nakQueue : List Packet := []
  echoReserved : Nat := 0
  /-- Classes closed per context tag (R352). -/
  closed : List (BitVec 16 × BitVec 3) := []
  recent : List Recent := []
  train : Counter := {}
  trainThr : BitVec 32 := 0
  credit : Counter := {}
  nakDrop : Counter := {}
  refuse : Vector Counter 13 := Vector.replicate 13 {}
  deriving DecidableEq, Repr

/-- A tag entry of an upper-tree Ladle (R310, R321, R323): the up lines of the nodes computed here by level and phase, the up
lines received from the Wyine child of each level, the up lines sent to the parent, the down lines received or made at the root,
and those sent to each child. -/
structure TreeTag where
  ctx : BitVec 16
  step : BitVec 32
  bucket : BitVec 16
  up : List (Nat × Nat × List Byte) := []
  upRecv : List (Nat × Nat × List Byte) := []
  sent : List (Nat × List Byte) := []
  down : List (Nat × List Byte) := []
  downSent : List (Nat × Nat × List Byte) := []
  /-- Bucket completion code of an entry that has ended (R323). -/
  code : BitVec 8 := 0
  /-- REDUCE_PEER_GONE has been raised for the tag (R327). -/
  goneTold : Bool := false
  /-- A header with another elems has stopped the bucket here (R318, R351). -/
  stopped : Bool := false
  /-- Down lines kept while the context's credit is withheld: phase, number, line (R330). -/
  downHeld : List (Nat × Nat × List Byte) := []
  deriving DecidableEq, Repr

/-- One fabric die: upper-tree Ladle, tag entries, messages and recent digests (R310, R323). -/
structure FabricDie where
  portEn : BitVec 8 := 0
  session : BitVec 32 := 0
  tags : List TreeTag := []
  digests : List TreeTag := []
  deriving DecidableEq, Repr

/-- A route of a context (R344). -/
structure Route where
  peer : BitVec 16
  port : Fin 16
  job : BitVec 32
  deriving DecidableEq, Repr

/-- A message that has left a send stream: sequence, entry and the lines it carried (R349, R354). -/
structure SentMsg where
  mseq : BitVec 32
  entry : Nat
  lines : List (List Byte)
  deriving DecidableEq, Repr

/-- A send stream (R346, R349). -/
structure SendStream where
  pos : Nat
  stream : Nat
  cls : Nat
  depth : Nat
  first : Nat
  count : Nat
  /-- Entries released and not yet read, next entry to release, next message sequence, stopped. -/
  unread : List Nat := []
  next : Nat := 0
  mseq : BitVec 32 := 0
  stopped : Bool := false
  /-- Messages refused with PAUSED, to be resent, each with whether its credit has returned (R351, R354). -/
  resend : List (SentMsg × Bool) := []
  sent : List SentMsg := []
  deriving DecidableEq, Repr

/-- Destination stream of messages: peer module, arc position and stream there (R343, R346). -/
structure MsgDest where
  peer : Nat
  pos : Nat
  stream : Nat
  deriving DecidableEq, Repr

/-- A message partly landed at a receive stream: lines of it written (R348). -/
structure Landing where
  mseq : BitVec 32
  mlines : Nat
  ordinal : Nat
  written : List Nat
  deriving DecidableEq, Repr

/-- A receive stream (R346, R348). -/
structure RecvStream where
  pos : Nat
  stream : Nat
  cls : Nat
  depth : Nat
  peer : BitVec 16
  landing : List Landing := []
  landed : Nat := 0
  gated : Nat := 0
  /-- Ordinals landed whose half-tile channel 0 has not read yet (class 3). -/
  ordinals : List Nat := []
  /-- Message credits the peer holds, and those owed to it. -/
  held : Nat := 0
  owed : Nat := 0
  deriving DecidableEq, Repr

/-- A send entry (R346). -/
structure SendEntry where
  src : BitVec 52
  lines : Nat
  peer : BitVec 16
  pos : Nat
  stream : Nat
  dst : BitVec 52
  ordinal : Nat
  deriving DecidableEq, Repr

/-! ### Rings -/

/-- A ring set (R360 to R366). -/
structure RingSet where
  sqN : Nat
  cqN : Nat
  eqN : Nat
  sq : BitVec 52
  cq : BitVec 52
  eq : BitVec 52
  ctl : BitVec 52
  sts : BitVec 52
  sig : BitVec 52
  sigval : BitVec 32
  coal : BitVec 16
  mmio : Bool
  signals : Bool
  sqHead : BitVec 32 := 0
  sqTail : BitVec 32 := 0
  cqHead : BitVec 32 := 0
  cqTail : BitVec 32 := 0
  eqHead : BitVec 32 := 0
  eqTail : BitVec 32 := 0
  /-- Events dropped, a statistics counter with its overflow bit (R360, R376, R439). -/
  eqLost : Counter := {}
  stopped : Bool := false
  cause : BitVec 8 := 0
  stopSeq : BitVec 32 := 0
  wseq : BitVec 32 := 0
  expected : BitVec 32
  eventSeq : BitVec 32 := 0
  /-- Completion entries reserved and not yet written (R366). -/
  reserved : Nat := 0
  /-- Events dropped since the last EVENTS_LOST (R376). -/
  lost : Nat := 0
  /-- The signal holdoff runs, and a signal is due at its end (R365). -/
  holdoff : Bool := false
  sigDue : Bool := false
  deriving DecidableEq, Repr

/-- A descriptor that has been taken and holds the head of its ring (R368). -/
structure Taken where
  op : BitVec 8
  seq : BitVec 32
  entry : List Byte
  /-- Phase of a descriptor that runs in several steps: the step number of R273 or R277 in hand. -/
  phase : Nat := 0
  deriving DecidableEq, Repr

/-- A run in progress (R368, R373). -/
structure Run where
  /-- Opcode of the descriptor that started it: PLAN_RUN, STEP_COMMIT or STEP_ROLLBACK. -/
  op : BitVec 8
  seq : BitVec 32
  tally : BitVec 52
  stop : BitVec 52
  args : BitVec 52
  sramWin : Bool
  attempt : BitVec 32
  /-- Entry stroke. -/
  entry : BitVec 14
  /-- The run has reached the Coxes. -/
  begun : Bool := false
  /-- The update segment of a STEP_COMMIT: its HALT leaves the tally counting (R55, R273). -/
  keepTally : Bool := false
  /-- Smallest stop reason so far, 0 for none, and the first error record with its position. -/
  reason : BitVec 8 := 0
  firstErr : Option (ErrRec × Nat) := none
  deriving DecidableEq, Repr

/-! ### Contexts -/

/-- The loaded plan of a context (R161 to R166). -/
structure Plan where
  image : BitVec 52
  bytes : Nat
  planId : BitVec 64
  m : Nat
  entry : BitVec 14
  crc : BitVec 32
  phases : List Phase := []
  aentries : List AEntry := []
  shareBase : List (BitVec 52) := []
  sends : List SendStream := []
  recvs : List RecvStream := []
  sendEntries : List SendEntry := []
  /-- Message credits held for each destination stream (R349). -/
  credits : List (MsgDest × Nat) := []
  deriving DecidableEq, Repr

/-- Condition of a context (R384). -/
inductive Cond where
  | idle | running | faulted
  deriving DecidableEq, Repr

/-- The reduction configuration of a context (R303). -/
structure ReduceConfig where
  modules : Nat
  rank : Nat
  epoch : BitVec 32
  treeFd : Fin 2
  log : BitVec 32
  logEntries : Nat
  deriving DecidableEq, Repr

/-- Settings of LOSS_SCALE_SET that wait for the next commit (R263). -/
structure LossPending where
  kmin : Option (BitVec 8) := none
  kmax : Option (BitVec 8) := none
  period : Option (BitVec 16) := none
  pin : Option Bool := none
  deriving DecidableEq, Repr

/-- One context (R379 to R388). -/
structure Context where
  tag : BitVec 16
  slot : Fin 16
  first : Nat
  logM : Nat
  quota : Nat
  seed : BitVec 64
  commitLine : BitVec 52
  saveArea : BitVec 52
  /-- The Pantry: grants 0-7 and region entries 8-63 (R180, R181), and the role of each region entry (R185). -/
  pantry : Vector (BitVec 128) 64
  roles : Vector (BitVec 8) 64 := Vector.replicate 64 0
  portMask : BitVec 16
  /-- Key domains bound at creation (R380). -/
  domains : List (Fin 64)
  resident : Bool
  cond : Cond := .idle
  /-- Save generation per position (R387), and, while the context is off its dies, what the sections of its save areas hold that have no
  layout (R383; log entry 16). -/
  gens : List (BitVec 32) := []
  saved : Option (List Die) := none
  residents : Nat := 0
  slotArea : Option (BitVec 32) := none
  slotsBound : Nat := 0
  /-- Adapters of the scaled set (R262). -/
  scaled : Nat := 0
  loss : LossPending := {}
  plan : Option Plan := none
  run : Option Run := none
  /-- Attempt number of the last PLAN_RUN that started (R373; log entry 23). -/
  attempt : BitVec 32 := 0
  head : Option Taken := none
  ring : Option RingSet := none
  reduce : Option ReduceConfig := none
  aborted : Bool := false
  /-- Peers toward which a NAK has stopped the reduction stream (R351). -/
  treeStopped : List (BitVec 16) := []
  /-- A REDUCE_FENCE has completed since the last CLOSE started (R325). -/
  fenced : Bool := true
  routes : List Route := []
  /-- Message and line credit is withheld for a pause, and the limit of the pause has passed (R354). -/
  pausing : Bool := false
  pauseOver : Bool := false
  /-- Easy-all holds the run (R449); its exit has been reached before the Course stood still (R451). -/
  held : Bool := false
  resumeDue : Bool := false
  deriving DecidableEq, Repr

/-- A route whose context has been reset or destroyed: its packets get CONTEXT_GONE (R355). -/
structure Gone where
  tag : BitVec 16
  route : Route
  deriving DecidableEq, Repr

/-! ### HD -/

/-- State of a key domain slot (R188, R402). -/
inductive DomState where
  | absent | installed | destroyed
  deriving DecidableEq, Repr

/-- A registered package window (R408, R409). -/
structure Window where
  base : BitVec 52
  len : Nat
  header : BitVec 52
  tagOff : Nat
  pid : BitVec 64
  key : BitVec 256
  deriving DecidableEq, Repr

/-- A key domain (R402, R404). -/
structure Domain where
  state : DomState := .absent
  /-- Number of the XTS key pair drawn for it. -/
  key : Nat := 0
  dgen : BitVec 32 := 0
  pkg : Vector (Option (BitVec 256)) 4 := Vector.replicate 4 none
  windows : List Window := []
  /-- Page intervals of LPDDR grants and save areas per CD since boot: CD, lowest page, highest page (R413). -/
  intervals : List (Nat × Nat × Nat) := []
  deriving DecidableEq, Repr

/-- An ephemeral pair (R403): index, private key, digest of the report body. -/
structure Ephemeral where
  index : BitVec 32
  priv : BitVec 384
  body : BitVec 384
  deriving DecidableEq, Repr

/-- A verified record of a package (R411): domain, window, record number, plaintext. -/
structure PkgRecord where
  domain : Nat
  window : Nat
  record : Nat
  plain : List Byte
  deriving DecidableEq, Repr

/-- Boathouse (R392 to R418). -/
structure Boathouse where
  entropyFailed : Bool := false
  /-- The health test that failed. -/
  entropyTest : BitVec 8 := 0
  domains : Vector Domain 64 := Vector.replicate 64 {}
  keysDrawn : Nat := 0
  /-- Domain for which each key number was drawn; an unlisted number is domain 0's (R187, R402). -/
  keyDomain : List (Nat × Nat) := []
  bootId : BitVec 128 := 0
  revoke : BitVec 4 := 0
  fuseSvn : Nat := 0
  lifecycle : BitVec 2 := 1
  jtagLock : Bool := true
  jtagOpen : Bool := false
  debugOpen : Bool := false
  tenantsDestroyed : Bool := false
  /-- DEBUG_UNLOCK has acted since power-on (R415). -/
  debugOnce : Bool := false
  /-- The certificate area cannot be read (R395). -/
  certBad : Bool := false
  /-- Header bytes of the booted image; empty before a boot. -/
  booted : List Byte := []
  setupDigest : BitVec 384 := 0
  rseq : BitVec 32 := 0
  ephemerals : List Ephemeral := []
  ephNext : BitVec 32 := 0
  package : List PkgRecord := []
  /-- Error records held until the admin ring set is bound (R418). -/
  heldRecords : List ErrRec := []
  deriving DecidableEq, Repr

/-- The dump collector (R426 to R430), the HD error log and the held Cox stop records. -/
structure Dump where
  log : List ErrRec := []
  stops : List (Nat × List Byte) := []
  /-- The retained dump, with its count of unreadable units. -/
  retained : Option (List Byte × Nat) := none
  p12 : Bool := false
  held : Bool := false
  overrun : Bool := false
  /-- Units that have not answered the collector, and units whose scan check has failed twice (R427). -/
  silent : List (BitVec 16) := []
  scanBad : List (BitVec 16) := []
  deriving DecidableEq, Repr

/-- A CONTEXT_RESET in progress (R421): slot, islands yet to acknowledge, islands forced and still held in reset, units
forced so far. -/
structure Resetting where
  slot : Fin 16
  seq : BitVec 32
  waiting : List (BitVec 16)
  forced : List (BitVec 16) := []
  nForced : Nat := 0
  /-- A unit that is never forced and has not acknowledged within the bound: the reset ends RESET_INCOMPLETE (R422). -/
  stuck : Option (BitVec 16) := none
  start : BitVec 64
  deriving DecidableEq, Repr

/-- A CONTEXT_SWITCH that waits at the admin head for granted messages (R354, R387). -/
structure Switching where
  out : BitVec 16
  inn : BitVec 16
  seq : BitVec 32
  deriving DecidableEq, Repr

/-- A control loop (R444, R480). -/
structure LoopReg where
  low : BitVec 16
  high : BitVec 16
  mode : BitVec 2
  /-- A safety override is in force (R445). -/
  override : Bool := false
  deriving DecidableEq, Repr

/-- The HD registers, latches and flash interface (R477 to R480). -/
structure HdRegs where
  adminBlk : BitVec 52 := 0
  adminErr : BitVec 8 := 0
  adminSeq : BitVec 32 := 0
  dbStray : Counter := {}
  flashAddr : BitVec 32 := 0
  flashOp : BitVec 4 := 0
  flashBusy : Bool := false
  flashHeld : Bool := false
  flashResult : BitVec 4 := 0
  flashDone : BitVec 32 := 0
  flashBuf : Memory := []
  flash : Memory := []
  /-- Low-word write latch of each path: offset and data (R471). -/
  latchD : Option (BitVec 32 × BitVec 32) := none
  latchB : Option (BitVec 32 × BitVec 32) := none
  /-- High-word read latch of each path, offset and word, and the word or words that the last read returned (R443, R466, R471). -/
  readD : Option (BitVec 32 × BitVec 32) := none
  readB : Option (BitVec 32 × BitVec 32) := none
  readData : BitVec 64 := 0
  deriving DecidableEq, Repr

/-- Start-up (R456, R477). -/
structure Startup where
  stage : BitVec 4 := 1
  ready : Bool := false
  fail : BitVec 3 := 0
  failArg : BitVec 8 := 0
  cfgFallback : Bool := false
  fwNone : Bool := false
  fillDone : Bool := false
  slot : Bool := false
  cfgWhy : BitVec 4 := 0
  eaSeen : Bool := false
  resetSeen : Bool := false
  cfgSeq : BitVec 32 := 0
  deriving DecidableEq, Repr

/-- Input of the power stage (R453). -/
inductive Input where
  | removed | applied | qualified | protectedOff
  deriving DecidableEq, Repr

/-- The PD (R448 to R455, R482). -/
structure Pd where
  input : Input := .removed
  /-- Rails that have reported power-good, 0-12 (R455). -/
  rails : Nat := 0
  /-- A rail is ramping; sequencing failures in a row; turned off until the input is removed. -/
  ramping : Bool := false
  seqFails : Nat := 0
  locked : Bool := false
  pwrGood : Bool := false
  /-- THERM_TRIP asserted. -/
  thermTrip : Bool := false
  vin : BitVec 16 := 0
  iin : BitVec 16 := 0
  pin : BitVec 16 := 0
  budget : Vector (BitVec 8) 16 := Vector.replicate 16 0x96
  cdPwr : Vector (BitVec 16) 16 := Vector.replicate 16 0
  overNow : Vector Bool 16 := Vector.replicate 16 false
  temp : Vector (BitVec 64) 17 := Vector.replicate 17 0
  coolant : BitVec 32 := 0
  easyAll : Bool := false
  episode : BitVec 32 := 0
  mask : BitVec 16 := 0
  /-- The entry signal has reached the HD and the CDs (R449). -/
  signalled : Bool := false
  /-- PD cycle of the entry into the episode (R451), and that of a LOOP_SET that has restarted the count of exit cycles (R448). -/
  entryCycle : BitVec 64 := 0
  restart : Option (BitVec 64) := none
  deriving DecidableEq, Repr

/-- The I3C target (R465 to R467). -/
structure I3c where
  dynamic : Option (BitVec 7) := none
  ibiOn : Bool := false
  /-- Causes waiting; the first is pending on the bus when in-band interrupts are enabled. -/
  causes : List (BitVec 8) := []
  pending : Option (BitVec 8) := none
  /-- The provisional ID that the target has given in the last ENTDAA (R465). -/
  pid : Option (BitVec 48) := none
  deriving DecidableEq, Repr

/-- A companion access that waits for its answer (R359): the context slot and queue that made it, and its line. -/
structure CompanionAccess where
  slot : Fin 16
  cd : Fin 16
  queue : Fin 12
  dpa : BitVec 52
  /-- Bytes of the transfer before the line (R193). -/
  before : Nat := 0
  deriving DecidableEq, Repr

/-- A write to companion memory that waits (R359): address, bytes, and the context of a record that a Cox writes (R192). -/
structure HeldWrite where
  dpa : Nat
  bytes : List Byte
  ctx : BitVec 16 := 0
  deriving DecidableEq, Repr

/-- The memories of the DPA space (R168) with what the controllers and interfaces keep about them. -/
structure Mem where
  /-- Bytes of LPDDR5X windows, bonded SRAM and companion memory by DPA; an unlisted byte is 0. -/
  bytes : Memory := []
  /-- Number of the key under which each written LPDDR5X line was last written; an unlisted line was filled under
  `fillKey` (R187, R458). -/
  lineKey : List (Nat × Nat) := []
  fillKey : Nat := 0
  /-- Key numbers of blocks written whole by a save (R383), newest first: first line, line past the last, key. A line of `lineKey` has been
  written since. -/
  rangeKey : List (Nat × Nat × Nat) := []
  /-- LPDDR5X lines that hold a correctable and an uncorrectable error (R174, R176), 64-bit words of bonded SRAM that hold a double-bit
  error (R172), and companion lines whose accesses the link answers with an error (R171), by line or word number. -/
  ceLines : List Nat := []
  ueLines : List Nat := []
  ueWords : List Nat := []
  errLines : List Nat := []
  /-- Owner domain of a bonded SRAM page by page number; an unlisted page is owned by domain 0 (R191). -/
  owner : List (Nat × Fin 64) := []
  deriving DecidableEq, Repr

/-- The device: everything but the queue of commands. -/
structure Device where
  code : OrderingCode := .a2b
  /-- Local cycle counters by island ID (R14). -/
  cycles : List (BitVec 16 × BitVec 64)
  /-- The model's own counter of free values drawn so far (log entry 9). -/
  fresh : Nat := 0
  mem : Mem := {}
  dies : Vector Die 16 := Vector.replicate 16 {}
  lpcs : Vector (Vector Lpc 2) 16 := Vector.replicate 16 (Vector.replicate 2 {})
  cports : Vector (Vector CoursePort 2) 16 := Vector.replicate 16 (Vector.replicate 2 {})
  ports : Vector Port 16 := Vector.replicate 16 {}
  fds : Vector FabricDie 2 := Vector.replicate 2 {}
  ctxs : List Context := []
  gone : List Gone := []
  admin : Option RingSet := none
  adminHead : Option Taken := none
  resetting : Option Resetting := none
  switching : Option Switching := none
  hd : HdRegs := {}
  loops : Vector LoopReg 18
  start : Startup := {}
  pd : Pd := {}
  i3c : I3c := {}
  boat : Boathouse := {}
  dump : Dump := {}
  yalkenUp : Bool := false
  companion : List CompanionAccess := []
  /-- Writes to companion memory that wait while the link retrains, oldest first (R359). -/
  heldWrites : List HeldWrite := []
  deriving DecidableEq, Repr

/-- The state: the device and the queue of waiting commands, first in, first out. -/
structure State where
  dev : Device
  pending : List Instr
  deriving DecidableEq, Repr

/-! ### Reset -/

/-- The island IDs of a module, in ID order (R12, R13): 23 units on each CD, 10 on each FD, 8 on the HD and the PD controller,
397 in all (HD.IDENT, R477). -/
def cdUnits : List (Nat × Nat) :=
  [(0, 1), (1, 4), (2, 4), (3, 1), (4, 4), (5, 1), (6, 1), (7, 1), (8, 1), (9, 2), (10, 2), (11, 1)]

/-- An island ID from its fields (R12). -/
def island (die unit inst : Nat) : BitVec 16 :=
  BitVec.ofNat 16 (die * 1024 + unit * 16 + inst)

/-- The islands of one die from its unit table. -/
def dieIslands (die : Nat) (units : List (Nat × Nat)) : List (BitVec 16) :=
  units.flatMap fun (u, n) => (List.range n).map (island die u)

/-- Every island of the module (R13). -/
def allIslands : List (BitVec 16) :=
  ((List.range 16).flatMap fun n => dieIslands n cdUnits)
    ++ dieIslands 16 [(0, 1), (1, 8), (2, 1)] ++ dieIslands 17 [(0, 1), (1, 8), (2, 1)]
    ++ dieIslands 18 [(0, 1), (1, 1), (2, 1), (3, 1), (4, 1), (5, 1), (6, 1), (7, 1)]
    ++ dieIslands 19 [(0, 1)]

/-- Reset value of HD.LOOPj (R480). -/
def loopReset (j : Fin 18) : LoopReg :=
  if j.val = 0 then { low := 0x1644, high := 0x16A8, mode := 0 }
  else if j.val = 1 then { low := 0, high := 2, mode := 2 }
  else { low := 0, high := 0xF, mode := 2 }

/-- The device after reset: 60 V not yet applied, every register at its Reset column (R474), memory with nothing listed,
no context and no ring set (log entries 3 to 6). -/
def Device.reset : Device where
  cycles := allIslands.map (·, 0)
  loops := each (fun j _ => loopReset j) (Vector.replicate 18 (loopReset 0))

/-- The machine right after reset, with an empty queue. -/
def State.reset : State where
  dev := Device.reset
  pending := []

end Sys2Proof.Machine
end

