-- ==== Sys2Proof/Machine/Ops.lean ====
section
/-! DEFINITION. Named operations over memory, records, rings and contexts: what every meaning is built from. -/

namespace Sys2Proof.Machine

/-! ### Bytes and memory -/

/-- The number held by a little-endian byte string (R9). -/
def le : List Byte → Nat
  | [] => 0
  | b :: t => b.toNat + 256 * le t

/-- The number held by a big-endian byte string (R392). -/
def beOf (bs : List Byte) : Nat := bs.foldl (fun a b => a * 256 + b.toNat) 0

/-- The `n` big-endian bytes of a number (R392). -/
def bytesBE : Nat → Nat → List Byte
  | 0, _ => []
  | n + 1, v => bytesBE n (v / 256) ++ [BitVec.ofNat 8 v]

/-- The `n` little-endian bytes of a number (R9). -/
def bytesLE : Nat → Nat → List Byte
  | 0, _ => []
  | n + 1, v => BitVec.ofNat 8 v :: bytesLE n (v / 256)

/-- `n` zero bytes. -/
def zeros (n : Nat) : List Byte := List.replicate n 0

/-- The `n`-byte little-endian field at offset `off` of a structure. -/
def field (bs : List Byte) (off n : Nat) : Nat := le ((bs.drop off).take n)

/-- Bytes written over those at an offset of a structure. -/
def splice (bs : List Byte) (off : Nat) (new : List Byte) : List Byte := bs.take off ++ new ++ bs.drop (off + new.length)

/-- Bits [hi:lo] of a number. -/
def bits (v hi lo : Nat) : Nat := (v >>> lo) % pow2 (hi + 1 - lo)

/-- A number of `w` bits read as two's complement. -/
def signed (w v : Nat) : Int :=
  let r := v % pow2 w
  if r < pow2 (w - 1) then r else (r : Int) - pow2 w

/-- The byte at an address; `dflt` is what an unlisted address reads as. -/
def memGet (dflt : Byte) : Memory → Nat → Byte
  | [], _ => dflt
  | (k, v) :: t, a => if a = k then v else if a < k then dflt else memGet dflt t a

/-- A byte written; the list keeps its canonical form. -/
def memPut (dflt : Byte) : Memory → Nat → Byte → Memory
  | [], a, b => if b = dflt then [] else [(a, b)]
  | (k, v) :: t, a, b =>
    if a < k then (if b = dflt then (k, v) :: t else (a, b) :: (k, v) :: t)
    else if a = k then (if b = dflt then t else (a, b) :: t)
    else (k, v) :: memPut dflt t a b

/-- Addresses strictly rising from `lo`, and no byte equal to the default. -/
def memWfFrom (dflt : Byte) : Nat → Memory → Bool
  | _, [] => true
  | lo, (k, v) :: t => decide (lo ≤ k) && decide (v ≠ dflt) && memWfFrom dflt (k + 1) t

/-- The canonical form of a memory. -/
def Memory.wf (dflt : Byte) (m : Memory) : Bool := memWfFrom dflt 0 m

/-- `n` bytes from an address on. -/
def memBytes (dflt : Byte) (m : Memory) (a n : Nat) : List Byte :=
  (List.range n).map fun i => memGet dflt m (a + i)

/-- Bytes stored from an address on, lowest first. -/
def memStore (dflt : Byte) : Memory → Nat → List Byte → Memory
  | m, _, [] => m
  | m, a, b :: t => memStore dflt (memPut dflt m a b) (a + 1) t

/-- Every byte of [lo, hi) set to the default. -/
def memClear (m : Memory) (lo hi : Nat) : Memory :=
  m.filter fun c => decide (c.1 < lo) || decide (hi ≤ c.1)

/-! ### Counters -/

/-- A statistics counter after `n` occurrences of one cycle (R439, R442). -/
def Counter.add (c : Counter) (n : Nat) : Counter :=
  if c.count.toNat + n < 2 ^ 32 then { c with count := c.count + BitVec.ofNat 32 n }
  else { count := BitVec.allOnes 32, ovf := true }

/-- A threshold counter after `n` occurrences, and whether its event is raised (R441, R442). -/
def Counter.hit (c : Counter) (t : BitVec 32) (n : Nat) : Counter × Bool :=
  if t = 0 then (c.add n, false)
  else if t ≤ c.count then (if n = 0 then c else { c with ovf := true }, false)
  else
    let total := c.count.toNat + n
    if total < t.toNat then ({ c with count := BitVec.ofNat 32 total }, false)
    else ({ count := t, ovf := c.ovf || decide (t.toNat < total) }, true)

/-- A saturating 32-bit count without overflow bit (R305, R311). -/
def satAdd32 (a : BitVec 32) (n : Nat) : BitVec 32 :=
  if a.toNat + n < 2 ^ 32 then BitVec.ofNat 32 (a.toNat + n) else BitVec.allOnes 32

/-- A saturating 64-bit count with its overflow bit (R138, R296). -/
def satAdd64 (a : BitVec 64) (ovf : Bool) (n : Nat) : BitVec 64 × Bool :=
  if a.toNat + n < 2 ^ 64 then (BitVec.ofNat 64 (a.toNat + n), ovf) else (BitVec.allOnes 64, true)

/-- The flit sequence a precedes b (R440). -/
def seqBefore (a b : BitVec 32) : Bool := let n := (b - a).toNat; decide (1 ≤ n) && decide (n < 2 ^ 31)

/-! ### Islands and time -/

/-- The local cycle of an island (R14); zero for a code that no unit has. -/
def Device.cycle (d : Device) (i : BitVec 16) : BitVec 64 :=
  ((d.cycles.find? fun p => p.1 == i).map (·.2)).getD 0

/-- The local cycle counters of some islands set to zero: they have left reset (R14, R422). -/
def Device.restart (d : Device) (is : BitVec 16 → Bool) : Device :=
  { d with cycles := d.cycles.map fun p => if is p.1 then (p.1, 0) else p }

/-- Island of a unit on a compute die (R13). -/
def cdIsland (cd : Cd) (unit inst : Nat) : BitVec 16 := island cd.val unit inst

/-- Island of the HD management processor (R15). -/
def hdIsland : BitVec 16 := 0x4800
/-- Island of Boathouse. -/
def boatIsland : BitVec 16 := 0x4810
/-- Island of the PD controller. -/
def pdIsland : BitVec 16 := 0x4C00
/-- Island of a Wyine port (R332). -/
def portIsland (p : PortNo) : BitVec 16 := island (16 + p.val / 8) 1 (p.val % 8)

/-- Multiples of the 25 MHz reference by unit (R24): the island of a unit counts this many cycles per reference period. -/
def clockRatio (i : BitVec 16) : Nat :=
  let die := bits i.toNat 15 10
  let unit := bits i.toNat 9 4
  if die < 16 then
    if unit = 1 ∨ unit = 2 ∨ unit = 3 ∨ unit = 7 ∨ unit = 8 then 76
    else if unit = 9 then 75
    else if unit = 10 then 48
    else 60
  else if die < 18 then 64
  else if die = 18 then 48
  else 16

/-- The island is out of reset: the PD with the input present (DESIGN CHOICE, log entry 13: the spec gives the moment of no island of the
PD), every other one with all rails up (R14, R455), except an island held in reset by CONTEXT_RESET (R422). -/
def Device.islandRuns (d : Device) (i : BitVec 16) : Bool :=
  (if i = pdIsland then d.pd.input != .removed else d.pd.pwrGood)
    && !((d.resetting.map (·.forced)).getD []).contains i

/-- One period of the 25 MHz reference: the local cycle counter of every running island counts its cycles (R14, R24). -/
def Device.tick (d : Device) : Device :=
  { d with cycles := d.cycles.map fun p => if d.islandRuns p.1 then (p.1, p.2 + BitVec.ofNat 64 (clockRatio p.1)) else p }

/-! ### Table updates -/

/-- A compute die rewritten. -/
def Device.modDie (d : Device) (cd : Cd) (f : Die → Die) : Device := { d with dies := upd d.dies cd f }
/-- The Cox of a die rewritten. -/
def Device.modCox (d : Device) (cd : Cd) (f : Cox → Cox) : Device :=
  d.modDie cd fun x => { x with cox := f x.cox }
/-- A port rewritten. -/
def Device.modPort (d : Device) (p : PortNo) (f : Port → Port) : Device := { d with ports := upd d.ports p f }
/-- A fabric die rewritten. -/
def Device.modFd (d : Device) (i : Fin 2) (f : FabricDie → FabricDie) : Device := { d with fds := upd d.fds i f }
/-- A controller rewritten. -/
def Device.modLpc (d : Device) (cd : Cd) (i : Fin 2) (f : Lpc → Lpc) : Device :=
  { d with lpcs := upd d.lpcs cd fun v => upd v i f }
/-- The set-up side of a Course port rewritten. -/
def Device.modCport (d : Device) (cd : Cd) (i : Fin 2) (f : CoursePort → CoursePort) : Device :=
  { d with cports := upd d.cports cd fun v => upd v i f }
/-- A matrix array rewritten. -/
def Die.modMa (x : Die) (i : Fin 4) (f : Ma → Ma) : Die := { x with mas := upd x.mas i f }
/-- The memories rewritten. -/
def Device.modMem (d : Device) (f : Mem → Mem) : Device := { d with mem := f d.mem }
/-- The bytes of the DPA space rewritten. -/
def Device.modBytes (d : Device) (f : Memory → Memory) : Device :=
  { d with mem := { d.mem with bytes := f d.mem.bytes } }

/-- The context that holds a slot. -/
def Device.ctxAt (d : Device) (slot : CtxSlot) : Option Context := d.ctxs.find? fun c => c.slot == slot
/-- The context that carries a tag. -/
def Device.ctxTag (d : Device) (tag : BitVec 16) : Option Context := d.ctxs.find? fun c => c.tag == tag
/-- The context in a slot rewritten. -/
def Device.modCtx (d : Device) (slot : CtxSlot) (f : Context → Context) : Device :=
  { d with ctxs := d.ctxs.map fun c => if c.slot == slot then f c else c }

/-- Partition size (R377). -/
def Context.m (c : Context) : Nat := pow2 c.logM
/-- A CD lies in the context's arc (R377). -/
def Context.onArc (c : Context) (cd : Cd) : Bool := decide (c.first ≤ cd.val) && decide (cd.val < c.first + c.m)
/-- Arc position of a CD of the arc. -/
def Context.posOf (c : Context) (cd : Cd) : Nat := cd.val - c.first
/-- CD at an arc position. -/
def Context.cdAt (c : Context) (pos : Nat) : Cd := idx 16 (c.first + pos)
/-- The CDs of the arc in order of position. -/
def Context.cds (c : Context) : List Cd := (List.range c.m).map c.cdAt

/-- The resident context of a CD (R384). -/
def Device.residentOf (d : Device) (cd : Cd) : Option Context :=
  d.ctxs.find? fun c => c.resident && c.onArc cd

/-- Every die of a context's arc rewritten. -/
def Device.modArc (d : Device) (c : Context) (f : Cd → Die → Die) : Device :=
  { d with dies := each (fun cd x => if c.onArc cd then f cd x else x) d.dies }

/-! ### The device physical address map (R168) -/

/-- What a DPA names. -/
inductive Place where
  | lpddr (cd : Nat) (off : Nat)
  | sram (cd : Nat) (off : Nat)
  | setup (off : Nat)
  | companion (off : Nat)
  | unmapped
  deriving DecidableEq, Repr

/-- Bytes of usable LPDDR5X in one window (R2). -/
def usableOf : OrderingCode → Nat
  | .a2b | .a2c => 124 * 2 ^ 30
  | .a1b | .a1c => 62 * 2 ^ 30
/-- `HD.IDENT.mem_cap` (R5). -/
def memCapOf : OrderingCode → Nat
  | .a2b | .a2c => 1
  | .a1b | .a1c => 0
/-- `HD.IDENT.fab_form` (R5). -/
def fabFormOf : OrderingCode → Nat
  | .a2b | .a1b => 0
  | .a2c | .a1c => 1

/-- Base of companion memory. -/
def companionBase : Nat := 0x200000000000
/-- Base of the bonded SRAM windows. -/
def sramBase : Nat := 0x100000000000
/-- First DPA of a CD's bonded SRAM window. -/
def sramOf (cd : Nat) : Nat := sramBase + cd * 0x80000000
/-- First DPA of a CD's LPDDR5X window. -/
def lpddrOf (cd : Nat) : Nat := cd * 0x2000000000

/-- The place a DPA names; the unpopulated part of a window is unmapped (R2, R3, R169). -/
def Device.place (d : Device) (a : Nat) : Place :=
  if a < 0x20000000000 then
    if a % 0x2000000000 < usableOf d.code then .lpddr (a / 0x2000000000) (a % 0x2000000000) else .unmapped
  else if a < sramBase then .unmapped
  else if a < 0x100800000000 then .sram ((a - sramBase) / 0x80000000) ((a - sramBase) % 0x80000000)
  else if a < 0x180000000000 then .unmapped
  else if a < 0x180014000000 then .setup (a - 0x180000000000)
  else if a < companionBase then .unmapped
  else if a < 2 ^ 52 then .companion (a - companionBase)
  else .unmapped

/-- A number brought into 52 bits (R148, R171). -/
def wrap52 (a : Nat) : Nat := a % 2 ^ 52

/-! ### The Pantry (R181, R182) -/

/-- Fields of a Pantry entry. -/
def pBase (e : BitVec 128) : Nat := bits e.toNat 39 0
def pLimit (e : BitVec 128) : Nat := bits e.toNat 79 40
def pR (e : BitVec 128) : Bool := e.getLsbD 80
def pW (e : BitVec 128) : Bool := e.getLsbD 81
def pX (e : BitVec 128) : Bool := e.getLsbD 82
def pD (e : BitVec 128) : Bool := e.getLsbD 83
def pDomain (e : BitVec 128) : Fin 64 := idx 64 (bits e.toNat 89 84)
def pTarget (e : BitVec 128) : Nat := bits e.toNat 91 90
def pValid (e : BitVec 128) : Bool := e.getLsbD 92
def pReserved (e : BitVec 128) : Nat := bits e.toNat 127 93

/-- The entry covers the line's page. -/
def pCovers (e : BitVec 128) (a : Nat) : Bool :=
  pValid e && decide (pBase e ≤ a / 4096) && decide (a / 4096 ≤ pLimit e)

/-- The valid entry of highest index that covers a line (R182). -/
def Context.decider (c : Context) (a : Nat) : Option (Fin 64) :=
  ((List.finRange 64).filter fun i => pCovers c.pantry[i] a).getLast?

/-- The requesters of the table of R179 and of R349. -/
inductive Requester where
  | cox | ma | whisk | tongs | mixer | ladle | telemetry | arrival | send | record | planLoad
  deriving DecidableEq, Repr

/-- Targets a requester reaches: LPDDR, SRAM, companion (R179). -/
def Requester.targets : Requester → List Nat
  | .cox | .ma | .whisk | .ladle | .telemetry | .send => [1]
  | .tongs => [0, 1, 2]
  | .mixer | .arrival => [0, 1]
  | .record => [1, 2]
  | .planLoad => [0]

/-- DMA standing (R179). -/
def Requester.dma : Requester → Bool
  | .tongs | .arrival | .send | .record | .planLoad => true
  | _ => false

/-- Memory error codes (R192, R418). -/
def eMiss : Nat := 1
def eRight : Nat := 2
def eTarget : Nat := 3
def eUnmapped : Nat := 4
def eEcc : Nat := 5
def eKeyAbsent : Nat := 6
def eKeyDestroyed : Nat := 7
def eCompanion : Nat := 8
def ePkgDest : Nat := 0x20
def ePkgAuth : Nat := 0x21

/-- Target code of a place, with the CD that owns it for a device memory (R168). -/
def Place.target : Place → Option (Nat × Option Nat)
  | .lpddr n _ => some (0, some n)
  | .sram n _ => some (1, some n)
  | .companion _ => some (2, none)
  | .setup _ => some (3, none)
  | .unmapped => none

/-- Checks 1 to 3 of R490 for one line: the address map, the reach of the requester on CD `cd`, and the Pantry. `allDies` lifts
the reach to every window of the partition for requesters of the HD. The answer is the code of the first check that fails. -/
def Device.allowed (d : Device) (c : Context) (cd : Cd) (r : Requester) (write : Bool) (a : Nat) : Except Nat (Fin 64) :=
  match (d.place a).target with
  | none => .error eUnmapped
  | some (t, own) =>
    if !(r.targets.contains t) then .error eTarget
    else if own.any (· != cd.val) then .error eTarget
    else match c.decider a with
      | none => .error eMiss
      | some i =>
        let e := c.pantry[i]
        if pTarget e ≠ t then .error eTarget
        else if !(if write then pW e else pR e) then .error eRight
        else if pD e && !r.dma then .error eRight
        else .ok i

/-- Check 5 of R490: the key slot of an LPDDR5X line's domain (R189). -/
def Device.keyCheck (d : Device) (a : Nat) (dom : Fin 64) : Option Nat :=
  match d.place a with
  | .lpddr _ _ =>
    match d.boat.domains[dom].state with
    | .absent => if dom = 0 then none else some eKeyAbsent
    | .installed => none
    | .destroyed => some eKeyDestroyed
  | _ => none

/-- The registered package window that holds a companion line (R410): domain and window number. -/
def Device.windowOf (d : Device) (a : Nat) : Option (Fin 64 × Nat × Window) :=
  (List.finRange 64).findSome? fun dom =>
    ((d.boat.domains[dom].windows.zipIdx).find? fun (w, _) =>
      decide (w.base.toNat ≤ a) && decide (a < w.base.toNat + w.len)).map fun (w, k) => (dom, k, w)

/-- The key number under which an LPDDR5X line was written: by a write of the line, by the newest block that covers it, or by the fill
(R187, R383, R458). -/
def Mem.keyOf (m : Mem) (a : Nat) : Nat :=
  match m.lineKey.find? fun p => p.1 == a / 64 with
  | some p => p.2
  | none =>
    ((m.rangeKey.find? fun p => decide (p.1 ≤ a / 64) && decide (a / 64 < p.2.1)).map (·.2.2)).getD m.fillKey

/-- The XTS tweak of a line under a key domain (R187). -/
def xtsTweak (line dom : Nat) : BitVec 128 := BitVec.ofNat 128 (line % 2 ^ 46 + dom % 64 * 2 ^ 46)

/-- The mask of block `j` of a line: the encrypted tweak times the `j`-th power of the primitive element (IEEE 1619, R187). -/
def xtsMask (key : Nat) (tweak : BitVec 128) : Nat → BitVec 128
  | 0 => Config.aesEncrypt (Config.xtsPair key).2 tweak
  | j + 1 =>
    let t := xtsMask key tweak j
    if t.msb then (t <<< 1) ^^^ 0x87 else t <<< 1

/-- Block `j` of a line encrypted, and decrypted, under a key pair and a tweak (R187). -/
def xtsSeal (key : Nat) (tweak : BitVec 128) (j : Nat) (b : BitVec 128) : BitVec 128 :=
  let m := xtsMask key tweak j
  Config.aesEncrypt (Config.xtsPair key).1 (b ^^^ m) ^^^ m
def xtsOpen (key : Nat) (tweak : BitVec 128) (j : Nat) (b : BitVec 128) : BitVec 128 :=
  let m := xtsMask key tweak j
  Config.aesDecrypt (Config.xtsPair key).1 (b ^^^ m) ^^^ m

/-- A byte of an LPDDR5X line written under one key number and domain and read under another: its 16-byte block sealed under the first
and opened under the second (R187, R190). -/
def Mem.crossByte (m : Mem) (w wdom r rdom a : Nat) : Byte :=
  let j := a / 16 % 4
  let plain := BitVec.ofNat 128 (le (memBytes 0 m.bytes (a / 16 * 16) 16))
  let out := xtsOpen r (xtsTweak (a / 64) rdom) j (xtsSeal w (xtsTweak (a / 64) wdom) j plain)
  BitVec.ofNat 8 (out.toNat >>> (8 * (a % 16)))

/-- The domain for which a key number was drawn (R402). -/
def Boathouse.domainOfKey (b : Boathouse) (key : Nat) : Nat := ((b.keyDomain.find? fun p => p.1 == key).map (·.2)).getD 0

/-- One byte read under a key domain: the byte stored, or what its block decrypts to when the line was written under another
key (R187, R190). Bonded SRAM and companion bytes read as stored. -/
def Device.byteAt (d : Device) (dom : Fin 64) (a : Nat) : Byte :=
  match d.place a with
  | .lpddr _ _ =>
    let w := d.mem.keyOf a
    let r := d.boat.domains[dom].key
    if w = r then memGet 0 d.mem.bytes a else d.mem.crossByte w (d.boat.domainOfKey w) r dom.val a
  | _ => memGet 0 d.mem.bytes a

/-- `n` bytes read under a key domain. -/
def Device.readAs (d : Device) (dom : Fin 64) (a n : Nat) : List Byte :=
  (List.range n).map fun i => d.byteAt dom (a + i)

/-- A list of pairs with the value of one key replaced. -/
def setKey {α : Type} (l : List (Nat × α)) (k : Nat) (v : α) : List (Nat × α) :=
  (k, v) :: l.filter fun p => p.1 ≠ k

/-- Words of bonded SRAM that a write of `n` bytes covers whole: they hold no error afterwards (R172). -/
def wordsCovered (a n w : Nat) : Bool := decide (a ≤ 8 * w) && decide (8 * w + 8 ≤ a + n)

/-- Bytes of one line written under a key domain. LPDDR5X takes the whole line: the bytes that a shorter write leaves are those read
under the domain; the line takes the domain's key and is error free (R174, R175, R187). A word of bonded SRAM written whole is error
free (R172). -/
def Device.writeAs (d : Device) (dom : Fin 64) (a : Nat) (bs : List Byte) : Device :=
  let m := d.mem
  match d.place a with
  | .lpddr _ _ =>
    let whole := if bs.length < 64 then splice (d.readAs dom (a / 64 * 64) 64) (a % 64) bs else bs
    { d with mem := { m with
        bytes := memStore 0 m.bytes (a / 64 * 64) whole
        lineKey := setKey m.lineKey (a / 64) d.boat.domains[dom].key
        ceLines := m.ceLines.filter (· ≠ a / 64)
        ueLines := m.ueLines.filter (· ≠ a / 64) } }
  | _ =>
    { d with mem := { m with
        bytes := memStore 0 m.bytes a bs
        ueWords := m.ueWords.filter fun w => !wordsCovered a bs.length w } }

/-- Cells of a range, by their offset in it. -/
def memSlice (m : Memory) (lo n : Nat) : Memory :=
  (m.filter fun c => decide (lo ≤ c.1) && decide (c.1 < lo + n)).map fun c => (c.1 - lo, c.2)

/-- A range of `n` bytes that holds some cells, by offset, and zeros. -/
def memPlace (m : Memory) (lo n : Nat) (cells : Memory) : Memory :=
  (cells.filter fun c => decide (c.1 < n)).foldl (fun m c => memPut 0 m (lo + c.1) c.2) (memClear m lo (lo + n))

/-- A block of whole LPDDR5X lines written under a key domain, given by its cells that are not zero (R383). -/
def Device.writeBlock (d : Device) (dom : Fin 64) (a n : Nat) (cells : Memory) : Device :=
  let m := d.mem
  let out := fun l => decide (l < a / 64) || decide ((a + n) / 64 ≤ l)
  { d with mem := { m with
      bytes := memPlace m.bytes a n cells
      lineKey := m.lineKey.filter fun p => out p.1
      rangeKey := (a / 64, (a + n) / 64, d.boat.domains[dom].key) :: m.rangeKey
      ceLines := m.ceLines.filter out
      ueLines := m.ueLines.filter out } }

/-- Every line of [lo, hi) that no line write has touched since was written under one key. -/
def oneKey (fill key : Nat) : List (Nat × Nat × Nat) → Nat → Nat → Bool
  | [], lo, hi => decide (hi ≤ lo) || fill == key
  | (l, h, k) :: t, lo, hi =>
    if hi ≤ l ∨ h ≤ lo then oneKey fill key t lo hi
    else k == key && (decide (l ≤ lo) || oneKey fill key t lo l) && (decide (hi ≤ h) || oneKey fill key t h hi)

/-- Every line of [lo, hi) was written under a key. -/
def Mem.underKey (m : Mem) (key lo hi : Nat) : Bool :=
  oneKey m.fillKey key m.rangeKey lo hi && m.lineKey.all fun p => decide (p.1 < lo) || decide (hi ≤ p.1) || p.2 == key

/-- A block of whole LPDDR5X lines read under a key domain, as its cells that are not zero: the bytes stored where every line was written
under the domain's key, else what each byte decrypts to (R187, R383). -/
def Device.readBlock (d : Device) (dom : Fin 64) (a n : Nat) : Memory :=
  if d.mem.underKey d.boat.domains[dom].key (a / 64) ((a + n) / 64) then memSlice d.mem.bytes a n
  else (List.range n).filterMap fun i => if d.byteAt dom (a + i) = 0 then none else some (i, d.byteAt dom (a + i))

/-- Writes to companion memory in order: DPA and bytes. -/
abbrev Writes := List (Nat × List Byte)

/-- Memory after some writes. -/
def Writes.land (ws : Writes) (m : Memory) : Memory := ws.foldl (fun m w => memStore 0 m w.1 w.2) m

/-- Writes whose line the link answers with an error (R171). -/
def Device.badWrites (d : Device) (ws : Writes) : Writes := ws.filter fun w => d.mem.errLines.contains (w.1 / 64)
/-- Writes whose line the link takes (R171). -/
def Device.goodWrites (d : Device) (ws : Writes) : Writes := ws.filter fun w => !d.mem.errLines.contains (w.1 / 64)

/-- Writes to companion memory for a context tag: they land, but for those that the link answers with an error, or wait in order while
the link is down (R171, R359, R370). -/
def Device.companionPut (d : Device) (tag : BitVec 16) (ws : Writes) : Device :=
  if d.yalkenUp then d.modBytes (d.goodWrites ws).land
  else { d with heldWrites := d.heldWrites ++ ws.map fun w => { dpa := w.1, bytes := w.2, ctx := tag } }

/-- A companion line of the tag or of the data of a package record is answered with an error (R171). -/
def Device.recordErr (d : Device) (w : Window) (i : Nat) : Bool :=
  let n := min 65536 (w.len - 65536 * i)
  d.mem.errLines.any fun l => l == (w.header.toNat + w.tagOff + 16 * i) / 64
    || (decide ((w.base.toNat + 65536 * i) / 64 ≤ l) && decide (64 * l < w.base.toNat + 65536 * i + n))

/-- A record of a package read whole and verified: its plaintext, or none when its tag fails (R409, R411). -/
def Device.verifyRecord (d : Device) (w : Window) (i : Nat) : Option (List Byte) :=
  let n := min 65536 (w.len - 65536 * i)
  let iv := bytesLE 8 w.pid.toNat ++ bytesLE 4 i
  let tag := memBytes 0 d.mem.bytes (w.header.toNat + w.tagOff + 16 * i) 16
  Config.gcmOpen w.key (BitVec.ofNat 96 (beOf iv)) (iv ++ bytesLE 4 n) (memBytes 0 d.mem.bytes (w.base.toNat + 65536 * i) n)
    (BitVec.ofNat 128 (beOf tag))

/-- A record brought into the package buffer as the most recently served of at most 16; one already there is not verified again, and one
that cannot be read or whose tag fails is not kept (R171, R411). -/
def Device.serveRecord (d : Device) (dom : Fin 64) (k : Nat) (w : Window) (i : Nat) : Device :=
  let is := fun (r : PkgRecord) => r.domain == dom.val && r.window == k && r.record == i
  let r := match d.boat.package.find? is with
    | some r => some r
    | none => if d.recordErr w i then none else (d.verifyRecord w i).map fun p => { domain := dom.val, window := k, record := i, plain := p }
  let rest := d.boat.package.filter fun r => !is r
  match r with
  | some r => { d with boat := { d.boat with package := rest.drop (rest.length - 15) ++ [r] } }
  | none => d

/-- The record that holds a window line, served. -/
def Device.servePackage (d : Device) (a : Nat) : Device :=
  match d.windowOf a with
  | some (dom, k, w) => d.serveRecord dom k w ((a - w.base.toNat) / 65536)
  | none => d

/-- The record of a package that a window line needs, when it has been verified into the buffer (R411). -/
def Device.packageByte (d : Device) (dom : Fin 64) (k : Nat) (w : Window) (a : Nat) : Option (List Byte) :=
  let off := a - w.base.toNat
  ((d.boat.package.find? fun r => r.domain == dom.val && r.window == k && r.record == off / 65536).map (·.plain)).map
    fun p => (p.drop (off % 65536)).take 64

/-- The line that holds a DPA. -/
def lineOf (a : Nat) : Nat := a / 64 * 64

/-- What the data of `n` bytes of one line gives instead of data: an uncorrectable LPDDR5X line or word of bonded SRAM, or a companion
line whose access the link answers with an error (R171, R172, R176). -/
def Device.dataCode (d : Device) (a n : Nat) : Option Nat :=
  match d.place a with
  | .lpddr _ _ => if d.mem.ueLines.contains (a / 64) then some eEcc else none
  | .sram _ _ => if d.mem.ueWords.any fun w => decide (a / 8 ≤ w) && decide (8 * w < a + n) then some eEcc else none
  | .companion _ => if d.mem.errLines.contains (a / 64) then some eCompanion else none
  | _ => none

/-- Why the HD gets an error instead of a companion line that it reads for itself: a line of a package window, or one that the link answers
with an error (R171, R410). -/
def Device.hdLineCode (d : Device) (a : Nat) : Option Nat := if (d.windowOf a).isSome then some ePkgDest else d.dataCode (lineOf a) 64

/-- Check 6 of R490 for a read: the data of the line, or the code of its failure. A window line is served by the package
engine (R411). -/
def Device.lineData (d : Device) (dom : Fin 64) (a : Nat) : Except Nat (List Byte) :=
  match d.windowOf a with
  | some (wd, k, w) =>
    match d.packageByte wd k w a with
    | some p => .ok p
    | none => .error (if d.recordErr w ((a - w.base.toNat) / 65536) then eCompanion else ePkgAuth)
  | none =>
    match d.dataCode a 64 with
    | some e => .error e
    | none => .ok (d.readAs dom a 64)

/-- One line read by a requester: the checks of R490 in order. A window line may be read only by a requester that has been
given a package destination domain (R410). -/
def Device.readLine (d : Device) (c : Context) (cd : Cd) (r : Requester) (pkg : Option (Fin 64)) (a : Nat) :
    Except Nat (List Byte) :=
  match d.allowed c cd r false a with
  | .error e => .error e
  | .ok i =>
    let dom := pDomain c.pantry[i]
    match d.windowOf a with
    | some (wd, _, _) =>
      if pkg = some wd then d.lineData dom a else .error ePkgDest
    | none =>
      match d.keyCheck a dom with
      | some e => .error e
      | none => d.lineData dom a

/-- One line written by a requester: the checks of R490 in order, then the write (R192: no byte of a faulting line is
written). The link may answer a companion write with an error, and one made while the link is down waits for it (R171, R359). -/
def Device.writeLine (d : Device) (c : Context) (cd : Cd) (r : Requester) (a : Nat) (bs : List Byte) : Except Nat Device :=
  match d.allowed c cd r true a with
  | .error e => .error e
  | .ok i =>
    let dom := pDomain c.pantry[i]
    match d.keyCheck a dom with
    | some e => .error e
    | none =>
      match d.place a with
      | .companion _ => if d.mem.errLines.contains (a / 64) then .error eCompanion else .ok (d.companionPut c.tag [(a, bs)])
      | _ => .ok (d.writeAs dom a bs)

/-- Bytes read by a requester, line by line; the answer of a failure is the code and the line (R490). -/
def Device.readBytes (d : Device) (c : Context) (cd : Cd) (r : Requester) (a n : Nat) : Except (Nat × Nat) (List Byte) :=
  let first := lineOf a
  let lines := if n = 0 then 0 else (a + n - 1) / 64 - a / 64 + 1
  let go := (List.range lines).foldlM (init := ([] : List Byte)) fun acc k =>
    match d.readLine c cd r none (wrap52 (first + 64 * k)) with
    | .ok bs => Except.ok (acc ++ bs)
    | .error e => Except.error (e, wrap52 (first + 64 * k))
  go.map fun bs => (bs.drop (a - first)).take n

/-- Bytes read by a requester up to the first line that fails: the bytes, the lines read, and the code and line of the failure
(R194). -/
def Device.readUpTo (d : Device) (c : Context) (cd : Cd) (r : Requester) (a n : Nat) : List Byte × Nat × Option (Nat × Nat) :=
  match d.readBytes c cd r a n with
  | .ok bs => (bs, if n = 0 then 0 else (a + n - 1) / 64 - a / 64 + 1, none)
  | .error (e, l) =>
    let k := wrap52 (l + 2 ^ 52 - lineOf a) / 64
    ((match d.readBytes c cd r a (64 * k - (a - lineOf a)) with | .ok bs => bs | .error _ => []), k, some (e, l))

/-- A run of bytes written by a requester, split at line boundaries, lowest line first: the device after the lines written,
and the code and line of the first that fails with 64 times its number (R192 to R194). -/
def Device.writeBytes (d : Device) (c : Context) (cd : Cd) (r : Requester) : Nat → Nat → List Byte →
    Device × Option (Nat × Nat × Nat)
  | 0, _, _ => (d, none)
  | fuel + 1, a, bs =>
    if bs = [] then (d, none) else
    let n := 64 - a % 64
    match d.writeLine c cd r (wrap52 a) (bs.take n) with
    | .error e => (d, some (e, wrap52 (lineOf a), 0))
    | .ok d' =>
      match Device.writeBytes d' c cd r fuel (a + n) (bs.drop n) with
      | (d2, some (e, l, done)) => (d2, some (e, l, done + 64))
      | (d2, none) => (d2, none)

/-- As `writeBytes`, with enough fuel for the bytes given. -/
def Device.putBytes (d : Device) (c : Context) (cd : Cd) (r : Requester) (a : Nat) (bs : List Byte) :
    Device × Option (Nat × Nat × Nat) :=
  d.writeBytes c cd r (bs.length + 1) a bs

/-! ### Error records (R15) -/

/-- The 32 bytes of an error record. -/
def ErrRec.encode (r : ErrRec) : List Byte :=
  bytesLE 2 r.island.toNat ++ bytesLE 1 r.cls.toNat
    ++ bytesLE 1 ((if r.dpaOk then 1 else 0) + (if r.ctxOk then 2 else 0))
    ++ bytesLE 2 r.code.toNat ++ bytesLE 2 r.ctx.toNat ++ bytesLE 8 r.cycle.toNat
    ++ bytesLE 8 r.dpa.toNat ++ bytesLE 8 r.detail.toNat

/-- An error record of a unit for a context, stamped with the unit's local cycle. -/
def Device.err (d : Device) (isl : BitVec 16) (cls code : Nat) (ctx : BitVec 16) (dpa : Option Nat) (detail : Nat) : ErrRec where
  island := isl
  cls := BitVec.ofNat 8 cls
  dpaOk := dpa.isSome
  ctxOk := ctx != 0
  code := BitVec.ofNat 16 code
  ctx := ctx
  cycle := d.cycle isl
  dpa := BitVec.ofNat 52 (dpa.getD 0)
  detail := BitVec.ofNat 64 detail

/-! ### Ring sets (R360 to R376) -/

/-- Entries outstanding between two free-running indices. -/
def gap (tail head : BitVec 32) : Nat := (tail - head).toNat

/-- The status line of a ring set (R360). -/
def RingSet.status (r : RingSet) : List Byte :=
  bytesLE 4 r.sqHead.toNat ++ bytesLE 4 r.cqTail.toNat ++ bytesLE 4 r.eqTail.toNat ++ bytesLE 4 r.eqLost.count.toNat
    ++ bytesLE 1 (if r.stopped then 1 else 0) ++ bytesLE 1 r.cause.toNat ++ zeros 2
    ++ bytesLE 4 r.stopSeq.toNat ++ bytesLE 4 r.wseq.toNat ++ zeros 36

/-- A ring set together with the writes it has made. -/
abbrev RingIo := Writes × RingSet

/-- The status line written by WRLINE, with `wseq` raised (R360). -/
def ringStatus (x : RingIo) : RingIo :=
  let r := { x.2 with wseq := x.2.wseq + 1 }
  (x.1 ++ [(r.sts.toNat, r.status)], r)

/-- The signal that follows a status line which advanced a tail (R365). -/
def ringSignal (x : RingIo) : RingIo :=
  let r := x.2
  if !r.signals then x
  else if r.holdoff then (x.1, { r with sigDue := true })
  else (x.1 ++ [(r.sig.toNat, bytesLE 4 r.sigval.toNat)], { r with holdoff := r.coal != 0 })

/-- The header of a ring entry (R361). -/
def entryHeader (op : Nat) (tag : BitVec 16) (seq : BitVec 32) : List Byte :=
  bytesLE 1 op ++ bytesLE 1 5 ++ bytesLE 2 tag.toNat ++ bytesLE 4 seq.toNat

/-- A byte string cut or padded with zeros to `n` bytes. -/
def pad (n : Nat) (bs : List Byte) : List Byte := (bs ++ zeros n).take n

/-- An event entry written, without its status line (R376). -/
def ringEventRaw (tag : BitVec 16) (code : Nat) (payload : List Byte) (x : RingIo) : RingIo :=
  let r := x.2
  let at' := r.eq.toNat + 64 * (r.eqTail.toNat % pow2 r.eqN)
  (x.1 ++ [(at', entryHeader code tag r.eventSeq ++ pad 56 payload)],
    { r with eqTail := r.eqTail + 1, eventSeq := r.eventSeq + 1 })

/-- Room for one more event entry. -/
def RingSet.eventRoom (r : RingSet) : Bool := decide (gap r.eqTail r.eqHead < pow2 r.eqN)

/-- EVENTS_LOST written once there is room (R376). -/
def ringEventsLost (tag : BitVec 16) (x : RingIo) : RingIo :=
  let r := x.2
  if r.lost ≠ 0 ∧ r.eventRoom ∧ !r.stopped then
    let y := ringEventRaw tag 0x88 (bytesLE 4 r.lost) x
    ringSignal (ringStatus (y.1, { y.2 with lost := 0 }))
  else x

/-- An event dropped (R376, R439). -/
def RingSet.drop (r : RingSet) : RingSet := { r with eqLost := r.eqLost.add 1, lost := r.lost + 1 }

/-- An event posted on a ring set: written with its status line and signal, or dropped and counted (R370, R376). -/
def ringEvent (tag : BitVec 16) (code : Nat) (payload : List Byte) (x : RingIo) : RingIo :=
  let y := ringEventsLost tag x
  if y.2.stopped ∨ !y.2.eventRoom then (y.1, y.2.drop)
  else ringSignal (ringStatus (ringEventRaw tag code payload y))

/-- A completion entry written, with its status line and signal (R370, R371). -/
def ringComplete (tag : BitVec 16) (op : BitVec 8) (seq : BitVec 32) (code flags : Nat) (result : List Byte) (x : RingIo) : RingIo :=
  let r := x.2
  let at' := r.cq.toNat + 64 * (r.cqTail.toNat % pow2 r.cqN)
  let e := entryHeader op.toNat tag seq ++ bytesLE 1 code ++ bytesLE 1 flags ++ zeros 6 ++ pad 48 result
  ringSignal (ringStatus (x.1 ++ [(at', e)], { r with cqTail := r.cqTail + 1, reserved := r.reserved - 1 }))

/-- The ring set stops with a cause (R361, R366, R421). -/
def ringStop (cause : Nat) (x : RingIo) : RingIo :=
  ringStatus (x.1, { x.2 with stopped := true, cause := BitVec.ofNat 8 cause, stopSeq := x.2.expected })

/-- A record kept in the HD error log: the 4,096 most recent, in arrival order (R425). -/
def Device.logErr (d : Device) (r : ErrRec) : Device :=
  let l := d.dump.log ++ [r]
  { d with dump := { d.dump with log := l.drop (l.length - 4096) } }

/-- A context enters FAULTED with a record, and the fault is on its way to the Cox of every CD of its partition (R192, R195). -/
def Device.markFault (d : Device) (c : Context) (r : ErrRec) : Device :=
  let pos := bits r.island.toNat 15 10 - c.first
  let d1 := d.modCtx c.slot fun c => { c with cond := .faulted, run := c.run.map fun u =>
    if u.firstErr.isSome then u else { u with firstErr := some (r, pos) } }
  if c.resident then d1.modArc c fun _ x => if x.faultDue.isSome then x else { x with faultDue := some r } else d1

/-- The context that a record names, if it names one, enters FAULTED with it; tag 0 names none. -/
def Device.markTag (d : Device) (r : ErrRec) : Device :=
  match if r.ctx = 0 then none else d.ctxTag r.ctx with
  | some c => d.markFault c r
  | none => d

/-- The detail field of a memory fault (R193). -/
def faultDetail (done : Nat) (write : Bool) (stream item : Nat) : Nat :=
  done % 2 ^ 40 + (if write then 2 ^ 40 else 0) + stream % 16 * 2 ^ 41 + item % 65536 * 2 ^ 48

/-- The record of an access of the HD to a companion line that failed (R171, R192, R193). -/
def Device.lineErr (d : Device) (tag : BitVec 16) (code a : Nat) (write : Bool) : ErrRec :=
  d.err hdIsland 7 code tag (some (lineOf a)) (faultDetail 0 write 0 0)

/-- A ring operation applied to the ring set of a context slot or to the admin ring set, and the writes it made; nothing when it is not
bound. -/
def Device.ringDo (d : Device) (id : RingId) (f : BitVec 16 → RingIo → RingIo) : Device × BitVec 16 × Writes :=
  match id with
  | .admin =>
    match d.admin with
    | none => (d, 0, [])
    | some r =>
      let y := f 0 ([], r)
      (({ d with admin := some y.2 } : Device).companionPut 0 y.1, 0, y.1)
  | .ctx slot =>
    match d.ctxAt slot with
    | none => (d, 0, [])
    | some c =>
      match c.ring with
      | none => (d, 0, [])
      | some r =>
        let y := f c.tag ([], r)
        ((d.modCtx slot fun c => { c with ring := some y.2 }).companionPut c.tag y.1, c.tag, y.1)

/-- The records of writes that the link has answered with an error: each is logged, faults the context of the ring set and is posted on
it. A write of such a post that fails too is lost (DESIGN CHOICE, log entry 70). -/
def Device.writesFailed (d : Device) (id : RingId) (tag : BitVec 16) (ws : Writes) : Device :=
  ws.foldl (fun d w =>
    let r := d.lineErr tag eCompanion w.1 true
    (((d.logErr r).markTag r).ringDo id fun t x => ringEvent t 0x80 r.encode x).1) d

/-- A ring operation applied to a ring set, and its writes made; a write that the link answers with an error gives its record
(R171, R192). -/
def Device.onRing (d : Device) (id : RingId) (f : BitVec 16 → RingIo → RingIo) : Device :=
  let y := d.ringDo id f
  if d.yalkenUp then y.1.writesFailed id y.2.1 (d.badWrites y.2.2) else y.1

/-- The ring set of an ID. -/
def Device.ring (d : Device) (id : RingId) : Option RingSet :=
  match id with
  | .admin => d.admin
  | .ctx slot => (d.ctxAt slot).bind (·.ring)

/-- An event posted on a ring set (R376). -/
def Device.event (d : Device) (id : RingId) (code : Nat) (payload : List Byte) : Device :=
  d.onRing id fun tag x => ringEvent tag code payload x

/-- The ring set to which a record with a context tag goes (R376). -/
def Device.ringOfTag (d : Device) (tag : BitVec 16) : RingId :=
  match d.ctxTag tag with
  | some c => .ctx c.slot
  | none => .admin

/-- An error record written: into the HD error log and as an ERROR event (R15, R376). -/
def Device.report (d : Device) (r : ErrRec) : Device :=
  (d.logErr r).event (d.ringOfTag r.ctx) 0x80 r.encode

/-- A fault of a context: the record is written, the context enters FAULTED, and the fault is on its way to the Cox of every
CD of the partition (R192, R195). -/
def Device.fault (d : Device) (c : Context) (r : ErrRec) : Device := (d.report r).markFault c r

/-! ### Inline ECC of LPDDR5X (R174 to R176) -/

/-- Island of a controller. -/
def lpcIsland (cd : Cd) (i : Fin 2) : BitVec 16 := cdIsland cd 10 i.val

/-- The device that holds a window line (R173). -/
def ctlOf (off : Nat) : Nat := off / 256 % 2

/-- A correctable error on a planned read: the threshold counter, its ECC_CE event, and the line to be written back (R176). -/
def Device.eccCe (d : Device) (cd : Cd) (i : Fin 2) (line : Nat) : Device :=
  let l := d.lpcs[cd][i]
  let (n, hit) := l.ce.hit l.ceThr 1
  let d1 := d.modLpc cd i fun l =>
    { l with ce := n, writeBack := if l.writeBack.contains line then l.writeBack else l.writeBack ++ [line] }
  if hit then d1.event .admin 0x90 (bytesLE 2 (lpcIsland cd i).toNat ++ zeros 2 ++ bytesLE 4 n.count.toNat) else d1

/-- An uncorrectable line counted; the stored line is not changed (R176, R484). -/
def Device.eccUe (d : Device) (cd : Cd) (i : Fin 2) : Device := d.modLpc cd i fun l => { l with ue := l.ue.add 1 }

/-- A planned read of a line has reached the data: an error of an LPDDR5X line is counted. Under a failed earlier check nothing is
(R176, R490). -/
def Device.eccOf {α : Type} (d : Device) (a : Nat) (r : Except Nat α) : Device :=
  match d.place a, r with
  | .lpddr n off, .ok _ => if d.mem.ceLines.contains (a / 64) then d.eccCe (idx 16 n) (idx 2 (ctlOf off)) (a / 64) else d
  | .lpddr n off, .error e => if e = eEcc then d.eccUe (idx 16 n) (idx 2 (ctlOf off)) else d
  | _, _ => d

/-- The lines of a planned read of `n` bytes counted, up to the first that fails. -/
def Device.eccRun (d : Device) (c : Context) (cd : Cd) (r : Requester) (a n : Nat) : Device :=
  let first := lineOf a
  let lines := if n = 0 then 0 else (a + n - 1) / 64 - a / 64 + 1
  ((List.range lines).foldl (fun (x : Device × Bool) k =>
    if x.2 then x
    else
      let y := d.readLine c cd r none (wrap52 (first + 64 * k))
      (x.1.eccOf (wrap52 (first + 64 * k)) y, !y.toBool)) (d, false)).1

/-- The data of a run of bytes, line by line: code and line of the first that gives an error instead (R171, R172, R176). -/
def Device.dataBad (d : Device) (a n : Nat) : Option (Nat × Nat) :=
  if n = 0 then none
  else (List.range ((a + n - 1) / 64 - a / 64 + 1)).findSome? fun k =>
    let l := lineOf a + 64 * k
    (d.dataCode (max a l) (min (a + n) (l + 64) - max a l)).map fun e => (e, l)

/-- Bytes that the module reads for a context without naming a requester of R179, under the domain of the deciding entry; an error of the
data is the answer (R172, R176). -/
def Device.plainRead (d : Device) (dom : Fin 64) (a n : Nat) : Except (Nat × Nat) (List Byte) :=
  match d.dataBad a n with
  | some b => .error b
  | none => .ok (d.readAs dom a n)

/-- The LPDDR5X lines of such a read counted, up to the first that fails (R176, R484). -/
def Device.eccPlain (d : Device) (a n : Nat) : Device :=
  if n = 0 then d
  else ((List.range ((a + n - 1) / 64 - a / 64 + 1)).foldl (fun (x : Device × Bool) k =>
    if x.2 then x
    else match d.dataCode (lineOf a + 64 * k) 64 with
      | some e => (x.1.eccOf (lineOf a + 64 * k) (.error e : Except Nat Unit), true)
      | none => (x.1.eccOf (lineOf a + 64 * k) (.ok () : Except Nat Unit), false)) (d, false)).1

/-- A memory fault found by a unit of a CD (R192). -/
def Device.memFault (d : Device) (c : Context) (isl : BitVec 16) (code line done : Nat) (write : Bool) (stream item : Nat) : Device :=
  d.fault c (d.err isl 7 code c.tag (some line) (faultDetail done write stream item))

/-- A record aimed at a descriptor address is written by a CD or by the HD; a refused line writes its error record and puts the
context in FAULTED (R179, R192). -/
def Device.putRecord (d : Device) (c : Context) (cd : Cd) (isl : BitVec 16) (a : Nat) (bs : List Byte) : Device :=
  match d.putBytes c cd .record a bs with
  | (d', none) => d'
  | (d', some (e, l, done)) => d'.memFault c isl e l done true 0 0

/-! ### The commit line (R263) -/

/-- Key domain under which the context reaches a DPA: that of the deciding entry, else domain 0 (R183). -/
def Context.domOf (c : Context) (a : Nat) : Fin 64 :=
  match c.decider a with
  | some i => pDomain c.pantry[i]
  | none => 0

/-- The context's commit line, as it stands in memory (R263). -/
def Device.commitLine (d : Device) (c : Context) : List Byte := d.readAs (c.domOf c.commitLine.toNat) c.commitLine.toNat 64

/-- The context's step number (R51). -/
def Device.stepNo (d : Device) (c : Context) : Nat := field (d.commitLine c) 4 4

/-! ### Fresh values -/

/-- A free value of the spec: the next one, and the device after it was drawn (log entry 9). -/
def Device.draw (d : Device) : BitVec 64 × Device := (Config.free d.fresh, { d with fresh := d.fresh + 1 })

/-- A draw of Boathouse's random source (R393; log entry 9). -/
def Device.drawRandom (d : Device) : BitVec 384 × Device := (Config.random d.fresh, { d with fresh := d.fresh + 1 })

/-! ### Bonded SRAM pages (R191) -/

/-- Owner domain of a page. -/
def Mem.ownerOf (m : Mem) (page : Nat) : Fin 64 := ((m.owner.find? fun p => p.1 == page).map (·.2)).getD 0

/-- A page passes to a domain: a page owned by another domain is set to zero first (R191). -/
def Mem.takePage (m : Mem) (dom : Fin 64) (page : Nat) : Mem :=
  if m.ownerOf page = dom then m
  else
    { m with
      bytes := memClear m.bytes (page * 4096) ((page + 1) * 4096)
      ueWords := m.ueWords.filter fun w => decide (w / 512 ≠ page)
      owner := if dom = 0 then m.owner.filter (·.1 ≠ page) else setKey m.owner page dom }

/-- Every page that the valid SRAM entries of a list cover passes to the entry's domain, in entry order (R191). -/
def Mem.takeEntries (m : Mem) (es : List (BitVec 128)) : Mem :=
  es.foldl (fun m e =>
    if pValid e && pTarget e == 1 then
      (List.range (pLimit e + 1 - pBase e)).foldl (fun m i => m.takePage (pDomain e) (pBase e + i)) m
    else m) m

end Sys2Proof.Machine
end

