-- ==== Sys2Proof/Machine/Operands.lean ====
section
/-! DEFINITION. Operand forms: slot-0 words, strokes, engine command words and the fields of ring entries. -/

namespace Sys2Proof

/-- The immediate sign-extended to 64 bits. -/
def Slot0.simm (w : Slot0) : BitVec 64 := w.imm.signExtend 64

/-- Destination predicate of a compare or PLOG (R133). -/
def Slot0.pd (w : Slot0) : Fin 8 := idx 8 w.d.val
/-- Source predicate in the field of the first source register. -/
def Slot0.pa (w : Slot0) : Fin 8 := idx 8 w.a.val
/-- Source predicate of PLOG's second input. -/
def Slot0.pb (w : Slot0) : Fin 8 := idx 8 w.b.val
/-- Source s-register of RDS. -/
def Slot0.sa (w : Slot0) : Fin 16 := idx 16 w.a.val

end Sys2Proof

namespace Sys2Proof.Machine

/-- A generation and version byte that the device accepts: generation 0b01, version at most `v` (R6, R7). -/
def gvOk (b v : Nat) : Bool := decide (b % 4 = 1) && decide (b / 4 ≤ v)

/-! ### The slot-0 word (R133) -/

/-- The fields of a slot-0 word besides the opcode. -/
def slot0Of (w : Nat) : Slot0 where
  gp := idx 8 (bits w 10 8)
  gn := bits w 11 11 == 1
  d := idx 32 (bits w 16 12)
  a := idx 32 (bits w 21 17)
  b := idx 32 (bits w 26 22)
  i := bits w 27 27 == 1
  imm := BitVec.ofNat 36 (bits w 63 28)

/-- The opcode of a slot-0 word. -/
def slot0Op (w : Nat) : Nat := bits w 7 0

/-! ### Strokes (R143, R144) -/

/-- The word of a slot of the stroke at an index of the plan store. -/
def Die.slotWord (x : Die) (stroke j : Nat) : Nat := le (memBytes 0 x.loc (stroke * 64 + 8 * j) 8)

/-- The valid bit of a slot in a stroke header. -/
def headerValid (h j : Nat) : Bool := bits h (8 + j) (8 + j) == 1

/-- An entry of the immediate pool of a stroke header, 1 to 3. -/
def headerPool (h k : Nat) : Nat := bits h (16 * k + 15) (16 * k)

/-! ### Engine command words (R146) -/

/-- Opcode of a command word. -/
def cwOp (w : Nat) : Nat := bits w 5 0
/-- Guard predicate. -/
def cwGp (w : Nat) : Fin 8 := idx 8 (bits w 8 6)
/-- Inverted guard. -/
def cwGn (w : Nat) : Bool := bits w 9 9 == 1
/-- Pool entry named, 0 for none. -/
def cwImsel (w : Nat) : Nat := bits w 11 10
/-- s-register. -/
def cwSreg (w : Nat) : Fin 16 := idx 16 (bits w 15 12)
/-- Write the s-register. -/
def cwSwr (w : Nat) : Bool := bits w 16 16 == 1
/-- g-register added to addresses. -/
def cwGa (w : Nat) : Fin 32 := idx 32 (bits w 21 17)
/-- Operand g-register. -/
def cwGb (w : Nat) : Fin 32 := idx 32 (bits w 26 22)
/-- Give to a link. -/
def cwGe (w : Nat) : Bool := bits w 27 27 == 1
/-- Link given to. -/
def cwGl (w : Nat) : Nat := bits w 32 28
/-- Take from a link. -/
def cwTe (w : Nat) : Bool := bits w 33 33 == 1
/-- Link taken from. -/
def cwTl (w : Nat) : Nat := bits w 38 34
/-- MA number or Tongs channel. -/
def cwUnit (w : Nat) : Nat := bits w 41 40
/-- Plan-store offset of the record. -/
def cwRec (w : Nat) : Nat := bits w 55 42 * 64
/-- Flags. -/
def cwFlag (w j : Nat) : Bool := bits w (56 + j) (56 + j) == 1

/-- The fields of a queue entry's word. -/
def QEntry.w (e : QEntry) : Nat := e.word.toNat

/-- Queue of a command word in a slot (R143, R153). -/
def slotQueue (slot w : Nat) : QueueId :=
  if slot = 1 then idx 12 (cwUnit w) else if slot = 2 then 4 else if slot = 3 then idx 12 (5 + cwUnit w)
  else if slot = 4 then 9 else if slot = 5 then 10 else 11

/-- Queues of a slot. -/
def slotQueues (slot : Nat) : List QueueId :=
  if slot = 1 then [0, 1, 2, 3] else if slot = 2 then [4] else if slot = 3 then [5, 6, 7, 8]
  else if slot = 4 then [9] else if slot = 5 then [10] else [11]

/-- Bytes of the plan store from an offset on. -/
def Die.planBytes (x : Die) (off n : Nat) : List Byte := memBytes 0 x.loc off n

/-- A field of the record that a command names. -/
def Die.recField (x : Die) (e : QEntry) (off n : Nat) : Nat := le (x.planBytes (cwRec e.w + off) n)

/-- A DPA field of the record with g[ga] added, modulo 2^52 (R148). -/
def Die.recAddr (x : Die) (e : QEntry) (off : Nat) : Nat := wrap52 (x.recField e off 8 % 2 ^ 52 + e.ga.toNat)

/-! ### Fields of ring entries (R361, R372, R374) -/

/-- Opcode of an entry. -/
def entOp (e : List Byte) : Nat := field e 0 1
/-- A DPA field of an entry. -/
def entDpa (e : List Byte) (off : Nat) : Nat := field e off 8 % 2 ^ 52

end Sys2Proof.Machine
end

