-- ==== Sys2Proof/Machine/Directory.lean ====
section
/-! DEFINITION. The adapter directory and the bodies it names (R229 to R232). -/

namespace Sys2Proof.Machine

/-- The region entry of a role (R185): the first valid one of the loaded layout. -/
def Context.roleEntry (c : Context) (role : Nat) : Option (BitVec 128) :=
  ((List.finRange 64).find? fun i => decide (8 ≤ i.val) && pValid c.pantry[i] && c.roles[i].toNat == role).map fun i => c.pantry[i]

/-- Some region of a role covers [a, a + n) at an arc position (R236). -/
def Context.roleCovers (c : Context) (role pos a n : Nat) : Bool :=
  (List.finRange 64).any fun i =>
    decide (8 ≤ i.val) && pValid c.pantry[i] && c.roles[i].toNat == role
      && decide (pBase c.pantry[i] * 4096 ≤ a) && decide (a + n ≤ (pLimit c.pantry[i] + 1) * 4096)
      && decide (lpddrOf (c.cdAt pos).val ≤ a) && decide (a + n ≤ lpddrOf (c.cdAt pos).val + 0x2000000000)

/-- Address of the directory entry of a handle; none beyond the region or without one (R231). -/
def Context.dirAddr (c : Context) (h : Nat) : Option Nat :=
  match c.roleEntry 2 with
  | none => none
  | some e => if pBase e * 4096 + 64 * h + 64 ≤ (pLimit e + 1) * 4096 then some (pBase e * 4096 + 64 * h) else none

/-- A directory entry, as it stands in memory. -/
def Device.dirRead (d : Device) (c : Context) (h : Nat) : Option (List Byte) :=
  (c.dirAddr h).map fun a => d.readAs (c.domOf a) a 64

/-- Fields of a directory entry (R231). -/
def dirState (e : List Byte) : Nat := bits (field e 1 1) 1 0
/-- Policy bits. -/
def dirPolicy (e : List Byte) : Nat := field e 2 1
/-- Home position. -/
def dirHome (e : List Byte) : Nat := bits (field e 3 1) 3 0
/-- Slots that hold the adapter. -/
def dirSlots (e : List Byte) : Nat := field e 4 2
/-- DPA of the resident body. -/
def dirCache (e : List Byte) : Nat := field e 0x18 8 % 2 ^ 52
/-- DPA of the masters. -/
def dirMasters (e : List Byte) : Nat := field e 0x28 8 % 2 ^ 52

/-- A directory entry from its fields (R231). -/
def dirEntry (state policy home slots commit src cache bytes masters tag : Nat) : List Byte :=
  bytesLE 1 5 ++ bytesLE 1 state ++ bytesLE 1 policy ++ bytesLE 1 home ++ bytesLE 2 slots ++ zeros 2 ++ bytesLE 8 commit
    ++ bytesLE 8 src ++ bytesLE 8 cache ++ bytesLE 8 bytes ++ bytesLE 8 masters ++ bytesLE 8 tag ++ zeros 8

/-- An item of a body (R229). -/
structure BodyItem where
  layer : Nat
  target : Nat
  rank : Nat
  expert : Nat
  scale : Nat
  din : Nat
  dout : Nat
  aOff : Nat
  bOff : Nat
  deriving DecidableEq, Repr

/-- An item table entry decoded. -/
def bodyItemOf (e : List Byte) : BodyItem :=
  { layer := field e 0 2, target := field e 2 1, rank := field e 4 2, expert := field e 6 2, scale := field e 8 2,
    din := field e 0xC 4, dout := field e 0x10 4, aOff := field e 0x14 4, bOff := field e 0x18 4 }

/-- Items of the resident body of an adapter, and one item of it. -/
def Device.bodyItem (d : Device) (c : Context) (h i : Nat) : Option (Nat × BodyItem) :=
  match d.dirRead c h with
  | none => none
  | some e =>
    if dirState e ≠ 2 then none
    else
      let a := dirCache e
      let n := field (d.readAs (c.domOf a) a 64) 2 2
      if i < n then
        let p := wrap52 (a + 64 + 32 * i)
        some (n, bodyItemOf (d.readAs (c.domOf p) p 32))
      else none

/-- The reads by which an item of a resident body is found, in order: the directory entry, the body's header and the item. -/
def Device.bodyReads (d : Device) (c : Context) (h i : Nat) : List (Nat × Nat) :=
  match c.dirAddr h, d.dirRead c h with
  | some a, some e =>
    if dirState e ≠ 2 then [(a, 64)] else [(a, 64), (dirCache e, 64), (wrap52 (dirCache e + 64 + 32 * i), 32)]
  | _, _ => []

/-- Code and line of the first of some reads whose data is in error (R172, R176). -/
def Device.readsBad (d : Device) (rs : List (Nat × Nat)) : Option (Nat × Nat) := rs.findSome? fun (r : Nat × Nat) => d.dataBad r.1 r.2

/-- Some reads counted in order, up to the first in error (R176, R484). -/
def Device.eccReads (d : Device) : List (Nat × Nat) → Device
  | [] => d
  | r :: t => if (d.dataBad r.1 r.2).isSome then d.eccPlain r.1 r.2 else (d.eccPlain r.1 r.2).eccReads t

end Sys2Proof.Machine
end

