-- ==== Sys2Proof/Machine/Payloads.lean ====
section
/-! DEFINITION. The payloads of the reduction tree at an arc position: ranks, header and payload lines, and what of them is there to be
sent, received or waited for (R300 to R302, R313, R314, R317, R318). -/

namespace Sys2Proof.Machine

/-! ### Ranks and lines (R300 to R302, R313, R314, R318) -/

/-- Base-2 logarithm rounded up. -/
def ceilLog2 (n : Nat) : Nat := if n ≤ 1 then 0 else log2 (n - 1) + 1

/-- Trailing zero bits of a positive number. -/
def tz (n : Nat) : Nat := ((List.range 17).find? fun t => n.testBit t).getD 16

/-- What a Ladle needs to know of the tree at an arc position. -/
structure LadleNode where
  pos : Nat
  /-- Highest level of the Course part held here. -/
  top : Nat
  /-- This position holds the root. -/
  root : Bool
  h : Nat
  epoch : Nat
  /-- Die-rank of the position. -/
  rank : Nat

/-- The node of an arc position under a configuration. -/
def Context.node (c : Context) (r : ReduceConfig) (pos : Nat) : LadleNode where
  pos := pos
  top := if pos = 0 then c.logM else tz pos
  root := pos == 0 && r.modules == 1
  h := ceilLog2 (r.modules * c.m)
  epoch := r.epoch.toNat
  rank := r.rank * c.m + pos

/-- Payload lines after the header: phase 1; phase 2 up; phase 2 down (R313, R314, R321). -/
def phase1Lines (elems : Nat) : Nat := ceilDiv (elems / 32) 32
/-- Phase 2, up. -/
def phase2Up (elems : Nat) : Nat := elems / 16
/-- Phase 2, down: each line of 32 exponents before the lines of its 1,024 sums. -/
def phase2Down (elems : Nat) : Nat := ceilDiv elems 1024 + elems / 16

/-- The header line of R318. -/
def ladleHeader (phase : Nat) (down present wants : Bool) (level step bucket epoch elems count : Nat) (counts : List Nat) (sender : Nat) :
    List Byte :=
  bytesLE 1 5 ++ bytesLE 1 (phase + (if down then 4 else 0) + (if present then 8 else 0) + (if wants then 16 else 0))
    ++ bytesLE 1 level ++ zeros 1 ++ bytesLE 4 step ++ bytesLE 2 bucket ++ zeros 2 ++ bytesLE 4 epoch ++ bytesLE 4 elems
    ++ bytesLE 4 count ++ pad 16 (counts.flatMap (bytesLE 4)) ++ bytesLE 4 sender ++ zeros 20

/-- Subtree present. -/
def hdrPresent (l : List Byte) : Bool := bits (field l 1 1) 3 3 == 1
/-- Subtree wants. -/
def hdrWants (l : List Byte) : Bool := bits (field l 1 1) 4 4 == 1
/-- Elements. -/
def hdrElems (l : List Byte) : Nat := field l 0x10 4
/-- Ranks contributing. -/
def hdrCount (l : List Byte) : Nat := field l 0x14 4
/-- nonfinite, under, sat and clamp. -/
def hdrCounts (l : List Byte) : List Nat := (List.range 4).map fun i => field l (0x18 + 4 * i) 4

/-- The header of a node from those of its two children: presence and wants by or, sums that saturate (R312 text, R318). -/
def joinHeaders (phase level sender : Nat) (a b : List Byte) : List Byte :=
  let sat := fun (x y : Nat) => (satAdd32 (BitVec.ofNat 32 x) y).toNat
  ladleHeader phase false (hdrPresent a || hdrPresent b) (hdrWants a || hdrWants b) level (field a 4 4) (field a 8 2) (field a 0xC 4)
    (hdrElems a) (sat (hdrCount a) (hdrCount b)) (List.zipWith sat (hdrCounts a) (hdrCounts b)) sender

/-- The 32 exponents of a phase-1 line. -/
def lineExps (l : List Byte) : List Int := (List.range 32).map fun i => signed 16 (field l (2 * i) 2)
/-- A phase-1 line from its exponents. -/
def expLine (xs : List Int) : List Byte := pad 64 (xs.flatMap fun x => bytesLE 2 (x % 65536).toNat)
/-- The 16 sums of a phase-2 line. -/
def lineSums (l : List Byte) : List Int := (List.range 16).map fun i => signed 32 (field l (4 * i) 4)
/-- A phase-2 line from its sums. -/
def sumLine (xs : List Int) : List Byte := pad 64 (xs.flatMap fun x => bytesLE 4 (x % 4294967296).toNat)

/-- Line i of two present children added: maximum in phase 1, sum in phase 2 (R313, R314). -/
def joinLines (phase : Nat) (a b : List Byte) : List Byte :=
  if phase = 1 then expLine (List.zipWith max (lineExps a) (lineExps b)) else sumLine (List.zipWith (· + ·) (lineSums a) (lineSums b))

/-- Line i of a node from its two children's phase-1 headers and lines (R301, R313, R314, R318). -/
def joinNode (phase i level sender : Nat) (ha hb : List Byte) (a b : Option (List Byte)) : Option (List Byte) :=
  if phase = 1 ∧ i = 0 then some (joinHeaders 1 level sender ha hb)
  else if !hdrPresent ha && !hdrPresent hb then none
  else if i = 0 then
    match hdrPresent ha, hdrPresent hb, a, b with
    | true, true, some x, some y => some (joinHeaders phase level sender x y)
    | true, false, some x, _ => some (joinHeaders phase level sender x hb)
    | false, true, _, some y => some (joinHeaders phase level sender ha y)
    | _, _, _, _ => none
  else if !hdrPresent hb then a
  else if !hdrPresent ha then b
  else match a, b with
    | some x, some y => some (joinLines phase x y)
    | _, _ => none

/-- A header made into a down header (R318). -/
def downHeader (phase level sender : Nat) (l : List Byte) : List Byte :=
  ladleHeader phase true (hdrPresent l) (hdrWants l) level (field l 4 4) (field l 8 2) (field l 0xC 4) (hdrElems l) (hdrCount l)
    (hdrCounts l) sender

/-! ### A bucket at a Course position -/

/-- Line i of a received up payload. -/
def Bucket.recvLine (b : Bucket) (level phase i : Nat) : Option (List Byte) :=
  ((b.upRecv.filter fun l => l.1 == level && l.2.1 == phase)[i]?).map (·.2.2)

/-- Lines of the down payload received, in order. -/
def Bucket.downLines (b : Bucket) (phase : Nat) : List (List Byte) := (b.downRecv.filter fun l => l.1 == phase).map (·.2)

/-- Exponents of the own contribution, by block (R313). -/
def Bucket.ownExps (b : Bucket) : List Int :=
  (List.range (b.elems / 32)).map fun k =>
    let m := ((b.own.drop (32 * k)).take 32).foldl (fun a v => max a v.toInt.natAbs) 0
    if m = 0 then -32768 else (log2 m : Int) + b.es + 1

/-- An element quantised at the shared exponent of its block, and whether it was clamped (R314). -/
def quantise (h : Nat) (es x : Int) (v : BitVec 64) : Int × Bool :=
  if x = -32768 then (0, false)
  else
    let k := roundQuanta .nearestEven v.toInt.natAbs es (x - 31 + h)
    let lim := 2 ^ (31 - h)
    let m := if lim ≤ k then lim - 1 else k
    (if v.toInt < 0 then -(m : Int) else m, decide (lim ≤ k))

/-- The own contribution quantised, given the shared exponents. -/
def Bucket.ownSums (b : Bucket) (h : Nat) (xs : List Int) : List (Int × Bool) :=
  b.own.zipIdx.map fun (v, i) => quantise h b.es (xs.getD (i / 32) (-32768)) v

/-- Line i of the own up payload (R313, R314, R318), given the shared exponents of 32 blocks by phase-1 line. A phase-2 line needs those of
its block alone (R317); the header, which carries the rank's clamp count, needs them all (log entry 27). -/
def Bucket.ownLine (b : Bucket) (t : LadleNode) (xs : Nat → Option (List Int)) (phase i : Nat) : Option (List Byte) :=
  let hdr := fun clamp => ladleHeader phase false b.present b.want 0 b.step.toNat b.number.toNat t.epoch b.elems (if b.present then 1 else 0)
    [b.nonfinite.toNat, b.under.toNat, b.sat.toNat, clamp] t.rank
  if phase = 1 then
    if i = 0 then some (hdr 0) else if b.present then some (expLine ((b.ownExps.drop (32 * (i - 1))).take 32)) else none
  else if !b.present then none
  else if i = 0 then
    ((List.range (phase1Lines b.elems)).mapM xs).map fun ls => hdr ((b.ownSums t.h ls.flatten).filter (·.2)).length
  else
    (xs ((i - 1) / 64)).map fun ls =>
      let vs := (b.own.drop (16 * (i - 1))).take 16
      sumLine (vs.map fun v => (quantise t.h b.es (ls.getD ((i - 1) % 64 / 2) (-32768)) v).1)

/-- Line i of the up payload of the node at a level held here (R301, R302). -/
def Bucket.upLine (b : Bucket) (t : LadleNode) (xs : Nat → Option (List Int)) : Nat → Nat → Nat → Option (List Byte)
  | 0, phase, i => b.ownLine t xs phase i
  | l + 1, phase, i =>
    match b.upLine t xs l 1 0, b.recvLine (l + 1) 1 0 with
    | some ha, some hb => joinNode phase i (l + 1) t.rank ha hb (b.upLine t xs l phase i) (b.recvLine (l + 1) phase i)
    | _, _ => none

/-- The shared exponents x_β of blocks 32 g to 32 g + 31, once they are known here (R313, R317). -/
def Bucket.expsAt (b : Bucket) (t : LadleNode) (g : Nat) : Option (List Int) :=
  (if t.root then b.upLine t (fun _ => none) t.top 1 (g + 1) else (b.downLines 1)[g + 1]?).map lineExps

/-- Every shared exponent is known here: the contribution of phase 2 has been read from the store (R310). -/
def Bucket.expsKnown (b : Bucket) (t : LadleNode) : Bool := (List.range (phase1Lines b.elems)).all fun g => (b.expsAt t g).isSome

/-- Line i of the up payload that leaves this position. -/
def Bucket.topLine (b : Bucket) (t : LadleNode) (phase i : Nat) : Option (List Byte) := b.upLine t (b.expsAt t) t.top phase i

/-- Line i of the root's down payload in phase 2: exponents and sums; zeros when nothing is present (R314; log entry 27). -/
def rootSums (elems i : Nat) (present : Bool) (up : Nat → Nat → Option (List Byte)) : Option (List Byte) :=
  let g := (i - 1) / 65
  let r := (i - 1) % 65
  if !present then some (if r = 0 then expLine (List.replicate (min 32 (elems / 32 - 32 * g)) (-32768)) else zeros 64)
  else if r = 0 then up 1 (g + 1) else up 2 (64 * g + r)

/-- Line i of the down payload made at a root from its up payload. -/
def rootLine (elems level sender phase i : Nat) (up : Nat → Nat → Option (List Byte)) : Option (List Byte) :=
  match up 1 0 with
  | none => none
  | some h =>
    if phase = 1 then
      if !hdrPresent h then none else if i = 0 then some (downHeader 1 level sender h) else up 1 i
    else if i = 0 then
      if hdrPresent h then (up 2 0).map (downHeader 2 level sender) else some (downHeader 2 level sender h)
    else rootSums elems i (hdrPresent h) up

/-- Line i of the down payload at this position. -/
def Bucket.downLine (b : Bucket) (t : LadleNode) (phase i : Nat) : Option (List Byte) :=
  if t.root then rootLine b.elems t.top t.rank phase i (b.topLine t) else (b.downLines phase)[i]?

/-- Lines of an up payload, given the presence of its subtree: phase 1 and phase 2. -/
def upTotals (elems : Nat) (present : Bool) : Nat × Nat :=
  if present then (1 + phase1Lines elems, 1 + phase2Up elems) else (1, 0)

/-- Lines of the down payloads into a subtree, by its up header (R318). -/
def downTotals (elems : Nat) (h : List Byte) : Nat × Nat :=
  (if hdrPresent h then 1 + phase1Lines elems else 0, if hdrWants h then 1 + phase2Down elems else 0)

/-- Phase and number of line `n` of a payload pair. -/
def nextOf (tot : Nat × Nat) (n : Nat) : Option (Nat × Nat) :=
  if n < tot.1 then some (1, n) else if n - tot.1 < tot.2 then some (2, n - tot.1) else none

/-- The next line to go up from this position; none before its header is known or once all have gone. -/
def Bucket.nextUp (b : Bucket) (t : LadleNode) : Option (Nat × Nat) :=
  match b.topLine t 1 0 with
  | none => some (1, 0)
  | some h => nextOf (upTotals b.elems (hdrPresent h)) b.upSent.length

/-- The next line to go down to the child of a level; phase 1 waits until its header is known. -/
def Bucket.nextDown (b : Bucket) (level : Nat) : Option (Nat × Nat) :=
  match b.recvLine level 1 0 with
  | none => some (1, 0)
  | some h => nextOf (downTotals b.elems h) (b.downSent.filter fun l => l.1 == level).length

/-- The line, when it is there to go; the header is that of the sending node (R318). -/
def Bucket.readyDown (b : Bucket) (t : LadleNode) (level phase i : Nat) : Option (List Byte) :=
  if (b.recvLine level 1 0).isNone then none
  else (b.downLine t phase i).map fun l => if i = 0 then downHeader phase level t.rank l else l

/-! ### What has been consumed and what is missing (R320, R327) -/

/-- The down payload of a phase goes to the child of a level (R318). -/
def Bucket.servesDown (b : Bucket) (level phase : Nat) : Bool :=
  match b.recvLine level 1 0 with
  | none => true
  | some h => if phase = 1 then hdrPresent h else hdrWants h

/-- Lines of a stream that this position has consumed: an up line once it has been added, a down line once it has gone on to every child
that it serves (R320; log entry 27). -/
def Bucket.consumed (b : Bucket) (t : LadleNode) (level : Nat) (down : Bool) : Nat :=
  let take := fun (ls : List Nat) (ok : Nat → Nat → Bool) =>
    ((ls.zipIdx.map fun (ph, n) => (ph, ((ls.take n).filter (· == ph)).length)).takeWhile fun (ph, i) => ok ph i).length
  if down then
    take (b.downRecv.map (·.1)) fun ph i => (List.range t.top).all fun k =>
      !b.servesDown (k + 1) ph || decide (i < (b.downSent.filter fun l => l.1 == k + 1 && l.2.1 == ph).length)
  else
    take ((b.upRecv.filter fun l => l.1 == level).map (·.2.1)) fun ph i => (b.upLine t (b.expsAt t) level ph i).isSome

/-- Up lines of a level have arrived whole. -/
def Bucket.upWhole (b : Bucket) (level : Nat) : Bool :=
  match b.recvLine level 1 0 with
  | none => false
  | some h =>
    let tot := upTotals b.elems (hdrPresent h)
    decide (tot.1 + tot.2 ≤ (b.upRecv.filter fun l => l.1 == level).length)

/-- Lines of the down payload due at this position, once its up header is known (R318). -/
def Bucket.downDue (b : Bucket) (t : LadleNode) : Option Nat :=
  (b.topLine t 1 0).map fun h => (downTotals b.elems h).1 + (downTotals b.elems h).2

/-- What an outstanding bucket waits for: wait reason 0x0B for a payload on the Course, 0x07 for one over Wyine, 0 for nothing (R327). -/
def Bucket.missing (b : Bucket) (t : LadleNode) : Nat :=
  if (List.range t.top).any fun k => !b.upWhole (k + 1) then 0xB
  else if t.root then 0
  else if (b.downDue t).any fun n => decide (b.downRecv.length < n) then (if t.pos = 0 then 7 else 0xB)
  else 0

end Sys2Proof.Machine
end

