-- ==== Sys2Proof/Machine/Schedule.lean ====
section
/-! DEFINITION. The schedule of a plan: phases, rounds, receipt order, lanes and positions (R198, R201 to R211, R213, R223), and the
LPDDR5X wheel in force (R212). -/

namespace Sys2Proof.Machine

/-- Largest hop distance of an arc of m CDs. -/
def arcHops (m : Nat) : Nat := if m = 16 then 8 else if m = 1 then 1 else m - 1

/-- Round count of a phase. -/
def Phase.rounds (m : Nat) (p : Phase) : Nat := if p.tiles = 0 then p.extra else p.tiles + arcHops m - 1 + p.extra

/-- The phase of a round with its first round and the counter value at which that starts. -/
def phaseFrom (m : Nat) : List Phase → Nat → Nat → Nat → Option (Phase × Nat × Nat)
  | [], _, _, _ => none
  | p :: t, r0, s0, q =>
    if q < r0 + p.rounds m then some (p, r0, s0) else phaseFrom m t (r0 + p.rounds m) (s0 + p.rounds m * p.period) q

/-- The phase of round q of a plan. -/
def Plan.phaseOf (p : Plan) (q : Nat) : Option (Phase × Nat × Nat) := phaseFrom p.m p.phases 0 2048 q

/-- Counter value start(q); none past the last round. -/
def Plan.startOf (p : Plan) (q : Nat) : Option Nat := (p.phaseOf q).map fun (f, r0, s0) => s0 + (q - r0) * f.period

/-- Rounds of the schedule. -/
def Plan.roundCount (p : Plan) : Nat := (p.phases.map fun f => f.rounds p.m).sum

/-- The owners emit a Course tile in round q (R207). -/
def Plan.tileAt (p : Plan) (q : Nat) : Bool :=
  match p.phaseOf q with
  | some (f, r0, _) => decide (q - r0 < f.tiles)
  | none => false

/-- Round and share-list index of the k-th tile that an owner emits in a run (R207). -/
def shareFrom (m : Nat) : List Phase → Nat → Nat → Option (Nat × Nat)
  | [], _, _ => none
  | p :: t, r0, k => if k < p.tiles then some (r0 + k, p.first + k) else shareFrom m t (r0 + p.rounds m) (k - p.tiles)

/-- The k-th tile of a plan. -/
def Plan.shareAt (p : Plan) (k : Nat) : Option (Nat × Nat) := shareFrom p.m p.phases 0 k

/-- The lane of slot s of a class (R201). -/
def laneOf (mask : BitVec 20) (s : Nat) : Nat :=
  let on := (List.range 20).filter mask.getLsbD
  if on = [] then 0 else on.getD (s % on.length) 0

/-- Hop distance of a position from position 0 (R202). -/
def hopDist (m p : Nat) : Nat := if m = 16 then min p (16 - p) else p

/-- The neighbour of an arc position in a direction (R198). -/
def nextPos (m p : Nat) (cw : Bool) : Option Nat :=
  if m = 16 then some ((if cw then p + 1 else p + 15) % 16)
  else if cw then (if p + 1 < m then some (p + 1) else none)
  else if 0 < p then some (p - 1) else none

/-- The position at distance h against a direction of travel: the owner of a tile on its h-th hop minus one. -/
def backPos (m p h : Nat) (cw : Bool) : Option Nat :=
  if m = 16 then some ((if cw then p + 16 - h % 16 else p + h) % 16)
  else if cw then (if h ≤ p then some (p - h) else none)
  else if p + h < m then some (p + h) else none

/-- Owners whose tiles of round q a position receives, in receipt order, with the owner's round (R211). -/
def Plan.receipts (p : Plan) (pos q : Nat) : List (Nat × Nat) :=
  let m := p.m
  let far := if m = 16 then 7 else m - 1
  let near := (List.range far).flatMap fun k =>
    let h := k + 1
    [backPos m pos h true, backPos m pos h false].filterMap fun o =>
      o.bind fun o => if h ≤ q + 1 ∧ p.tileAt (q + 1 - h) then some (o, q + 1 - h) else none
  (if p.tileAt q then [(pos, q)] else []) ++ near
    ++ (if m = 16 ∧ 7 ≤ q ∧ p.tileAt (q - 7) then [((pos + 8) % 16, q - 7)] else [])

/-! ### Readiness (R204, R205) -/

/-- Adapter entries of round q that a position sends. -/
def Plan.sends' (p : Plan) (pos q : Nat) : List (Nat × AEntry) :=
  (p.aentries.zipIdx.map fun (a, i) => (i, a)).filter fun (_, a) => a.round == q && a.src == pos

/-- The position that an adapter line reaches at hop j. -/
def AEntry.posAt (a : AEntry) (m j : Nat) : Nat := if a.ccw then (a.src + 16 * m - j) % m else (a.src + j) % m

/-- Lines that the entries of round q deliver to a position. -/
def Plan.delivers (p : Plan) (pos q : Nat) : Nat :=
  ((p.aentries.filter fun a => a.round == q).map fun a =>
    if (List.range a.hops).any fun j => a.deliver.getLsbD j && a.posAt p.m (j + 1) == pos then a.lines else 0).sum

/-- All 272 lines of a tile are present. -/
def CTile.full (t : CTile) : Bool := t.lines.length == 272

/-- A CD is ready for round q (R204). A tile that a read fault has cut short goes out with the lines below the fault (R196). Room is kept for the
lines of earlier rounds that are still to arrive. -/
def Course.ready (k : Course) (p : Plan) (pos q : Nat) : Bool :=
  let rounds := (List.range (q + 1 - k.round)).map (k.round + ·)
  (!p.tileAt q || k.out.any fun t => t.round == q && (t.full || t.cut))
    && decide (k.recv.length + (rounds.map fun r => (p.receipts pos r).length).sum ≤ 64)
    && (p.sends' pos q).all (fun (i, a) => decide (a.lines ≤ (k.adOut.filter fun l => l.1 == i).length))
    && decide (k.adIn.length + k.adDue + p.delivers pos q ≤ 2048)

/-- A round of the run has not started, and the CD of a position is not ready for it: every counter of the partition stops before it (R205). -/
def Device.lateFor (d : Device) (c : Context) (p : Plan) (pos q : Nat) : Bool :=
  let k := d.dies[c.cdAt pos].course
  (p.startOf q).isSome && decide (k.readyNo ≤ q) && !k.ready p pos q

/-- The first position for whose READY the counter of a CD holds before its next round (R205; log entry 56). -/
def Device.latePos (d : Device) (c : Context) (cd : Cd) : Option Nat :=
  c.plan.bind fun p =>
    let k := d.dies[cd].course
    if k.counter.isNone || k.resume.isSome then none else (List.range p.m).find? fun pos => d.lateFor c p pos k.round

/-- The resume lead of a CD runs: from its START marker to the start of the round of the resume no stroke issues and nothing is counted,
unless the counters hold for a late CD, when the 2,048 cycles pass (R228, R450; DEDUCED, log entry 72). -/
def Device.inLead (d : Device) (c : Context) (cd : Cd) : Bool := d.dies[cd].course.lead.isSome && (d.latePos c cd).isNone

/-! ### The LPDDR5X wheel (R212) -/

/-- The wheel in force: that of the phase whose round has started, phase 0 before round 0 (R212); without a run every position is a
refresh window. -/
def Device.wheelOf (d : Device) (cd : Cd) : BitVec 64 :=
  match (d.residentOf cd).bind (·.plan) with
  | none => 0
  | some p =>
    let k := d.dies[cd].course
    if k.counter.isNone then 0
    else match p.phaseOf (k.round - 1) with
      | some (f, _, _) => f.wheel
      | none => (p.phases.getLast?.map (·.wheel)).getD 0

/-- The requester code of the current position of a controller's wheel. -/
def Device.wheelCode (d : Device) (cd : Cd) (i : Fin 2) : Nat :=
  let p := d.lpcs[cd][i].wheelPos.val
  bits (d.wheelOf cd).toNat (4 * p + 3) (4 * p)

/-- A line is served to a requester of a code: it is no LPDDR5X line, or the wheel in force has a position of the code; before the
counter is set, that of phase 0 is judged (R212). -/
def Device.wheelServes (d : Device) (c : Context) (cd : Cd) (code a : Nat) : Bool :=
  match d.place a, c.plan with
  | .lpddr _ _, some p =>
    match p.phaseOf (d.dies[cd].course.round - 1) with
    | some (f, _, _) => (List.range 16).any fun j => bits f.wheel.toNat (4 * j + 3) (4 * j) == code
    | none => (p.phases.getLast?.map fun f => (List.range 16).any fun j => bits f.wheel.toNat (4 * j + 3) (4 * j) == code).getD true
  | _, _ => true

/-- Every line of a run of bytes is served to a requester of a code (R212). -/
def Device.wheelServesRun (d : Device) (c : Context) (cd : Cd) (code a n : Nat) : Bool :=
  d.wheelServes c cd code a && (n == 0 || d.wheelServes c cd code (wrap52 (a + n - 1)))

end Sys2Proof.Machine
end

