-- ==== Sys2Proof/Machine/Flags.lean ====
section
/-! DEFINITION. Counters, flags and the records made of them: Cox counters, conversion tally, stop records. -/

namespace Sys2Proof.Machine

/-! ### Cox registers (R120) and counters (R138) -/

/-- A g-register read; g0 reads as zero. -/
def Cox.rd (k : Cox) (r : Fin 32) : BitVec 64 := if r = 0 then 0 else k.g[r]

/-- The loads in flight to a register, which a later result to it overtakes: they give no value any more. -/
def BusOp.overtaken (b : BusOp) (r : Fin 32) : BusOp := if b.store.isNone ∧ b.d = r then { b with d := 0 } else b

/-- A g-register written by a result of latency `lat`; writes to g0 are discarded. Of two results in flight to one register the one issued
later stands, with its ready time (DESIGN CHOICE, log entry 71). -/
def Cox.wr (k : Cox) (r : Fin 32) (v : BitVec 64) (lat : Nat) : Cox :=
  if r = 0 then k
  else { k with g := k.g.set r v, ready := k.ready.set r (k.now + lat), bus := k.bus.map fun b => b.overtaken r }

/-- A predicate read; p0 reads as 1. -/
def Cox.rdp (k : Cox) (r : Fin 8) : Bool := if r = 0 then true else k.p[r]

/-- A predicate written; writes to p0 are discarded. -/
def Cox.wrp (k : Cox) (r : Fin 8) (v : Bool) : Cox := if r = 0 then k else { k with p := k.p.set r v }

/-- A saturating Cox counter raised. -/
def Cox.count (k : Cox) (i : Fin 14) (n : Nat) : Cox :=
  let r := satAdd64 k.counters[i] k.ovf[i] n
  { k with counters := k.counters.set i r.1, ovf := k.ovf.set i r.2 }

/-- The Cox at the start of a run (R121, R138). -/
def Cox.start (entry : BitVec 14) (args : Vector (BitVec 64) 8) : Cox :=
  { pc := entry, args := args, run := .running }

/-! ### The conversion tally (R54, R55) -/

/-- One element noted in the tally. -/
def Tally.note (t : Tally) : Option Meet → Tally
  | none => t
  | some .nanIn => { t with nanIn := t.nanIn.add 1 }
  | some .infIn => { t with infIn := t.infIn.add 1 }
  | some .sat => { t with sat := t.sat.add 1 }
  | some .zeroOut => { t with zeroOut := t.zeroOut.add 1 }

/-- Every element of a list noted. -/
def Tally.notes (t : Tally) (ms : List (Option Meet)) : Tally := ms.foldl Tally.note t

/-- The tally record. -/
def Tally.encode (t : Tally) (cd : Nat) (ctx : BitVec 16) (step : Nat) : List Byte :=
  let b := fun (c : Counter) k => if c.ovf then pow2 k else 0
  bytesLE 4 t.nanIn.count.toNat ++ bytesLE 4 t.infIn.count.toNat ++ bytesLE 4 t.sat.count.toNat
    ++ bytesLE 4 t.zeroOut.count.toNat
    ++ bytesLE 1 (b t.nanIn 0 + b t.infIn 1 + b t.sat 2 + b t.zeroOut 3) ++ bytesLE 1 cd ++ bytesLE 2 ctx.toNat
    ++ bytesLE 4 step ++ zeros 8

/-! ### The stop record (R140) -/

/-- The Cox stop record. -/
def Cox.stopRecord (k : Cox) (cd : Nat) (ctx : BitVec 16) (reason trap pc : Nat) (cycle : BitVec 64) (fault : Option ErrRec) :
    List Byte :=
  let f := match fault with
    | some r => r.island.toNat + r.cls.toNat * 2 ^ 16 + r.code.toNat * 2 ^ 24
    | none => 0
  bytesLE 1 5 ++ bytesLE 1 reason ++ bytesLE 1 cd ++ zeros 1 ++ bytesLE 2 ctx.toNat ++ bytesLE 2 trap ++ bytesLE 4 pc ++ zeros 4
    ++ bytesLE 8 cycle.toNat ++ bytesLE 8 k.counters[0].toNat ++ bytesLE 8 k.counters[1].toNat ++ bytesLE 8 k.counters[12].toNat
    ++ bytesLE 8 f ++ bytesLE 8 (k.stallItem.toNat + (if k.stallItem = 5 then k.stallSlot.toNat * 8 else 0))

end Sys2Proof.Machine
end

