-- ==== Sys2Proof/Machine/Tables.lean ====
section
/-! DEFINITION. The built-in activation tables of the output stage (R80), computed from the two functions of R80. -/

namespace Sys2Proof.Machine

/-- Entries 0 to 31 of GELU. -/
def geluTable0 : List (Nat × Nat) :=
  [(0x9D6B, 0x9FB8), (0x9E17, 0xA066), (0x9EBE, 0xA10E), (0x9F6E, 0xA1AE), (0xA012, 0xA252), (0xA0B2, 0xA2F9), (0xA156, 0xA392), (0xA1FD, 0xA42A),
   (0xA294, 0xA4C2), (0xA32B, 0xA55C), (0xA3C3, 0xA5F5), (0xA45C, 0xA687), (0xA4F5, 0xA713), (0xA587, 0xA79E), (0xA612, 0xA828), (0xA69D, 0xA8B0),
   (0xA727, 0xA937), (0xA7AF, 0xA9BC), (0xA835, 0xAA3E), (0xA8BA, 0xAABE), (0xA93C, 0xAB3D), (0xA9BC, 0xABB9), (0xAA3A, 0xAC33), (0xAAB7, 0xACAB),
   (0xAB31, 0xAD22), (0xABA9, 0xAD97), (0xAC20, 0xAE0C), (0xAC96, 0xAE80), (0xAD0B, 0xAEE9), (0xAD80, 0xAF51), (0xADE8, 0xAFB9), (0xAE51, 0xB023)]

/-- Entries 32 to 63 of GELU. -/
def geluTable1 : List (Nat × Nat) :=
  [(0xAEBA, 0xB08D), (0xAF23, 0xB0F3), (0xAF8E, 0xB14F), (0xAFF6, 0xB1AE), (0xB052, 0xB212), (0xB0B2, 0xB271), (0xB115, 0xB2C5), (0xB178, 0xB320),
   (0xB1CC, 0xB380), (0xB226, 0xB3CC), (0xB286, 0xB421), (0xB2D6, 0xB47B), (0xB32A, 0xB4C2), (0xB386, 0xB515), (0xB3D0, 0xB563), (0xB421, 0xB5AB),
   (0xB476, 0xB5FF), (0xB4BB, 0xB63D), (0xB50D, 0xB68B), (0xB552, 0xB6CA), (0xB59B, 0xB712), (0xB5E4, 0xB751), (0xB626, 0xB794), (0xB670, 0xB7D1),
   (0xB6AC, 0xB812), (0xB6F5, 0xB84A), (0xB72D, 0xB88B), (0xB773, 0xB8BE), (0xB7A9, 0xB901), (0xB7E9, 0xB92D), (0xB820, 0xB967), (0xB85A, 0xB999)]

/-- Entries 64 to 95 of GELU. -/
def geluTable2 : List (Nat × Nat) :=
  [(0xB893, 0xB9CA), (0xB8C6, 0xBA04), (0xB904, 0xBA2B), (0xB92F, 0xBA5D), (0xB966, 0xBA8D), (0xB996, 0xBAB4), (0xB9C3, 0xBAE3), (0xB9FC, 0xBB0E),
   (0xBA22, 0xBB31), (0xBA4E, 0xBB5C), (0xBA82, 0xBB87), (0xBAA4, 0xBBA5), (0xBACE, 0xBBC9), (0xBB00, 0xBBF3), (0xBB1E, 0xBC12), (0xBB43, 0xBC2E),
   (0xBB6E, 0xBC4F), (0xBB91, 0xBC74), (0xBBB0, 0xBC8F), (0xBBD3, 0xBCA7), (0xBBFD, 0xBCC2), (0xBC17, 0xBCDF), (0xBC33, 0xBD00), (0xBC53, 0xBD12),
   (0xBC77, 0xBD25), (0xBC90, 0xBD3B), (0xBCA8, 0xBD51), (0xBCC2, 0xBD69), (0xBCDF, 0xBD81), (0xBCFF, 0xBD8E), (0xBD11, 0xBD9C), (0xBD25, 0xBDA9)]

/-- Entries 96 to 127 of GELU. -/
def geluTable3 : List (Nat × Nat) :=
  [(0xBD3A, 0xBDB7), (0xBD51, 0xBDC5), (0xBD69, 0xBDD2), (0xBD82, 0xBDDF), (0xBD90, 0xBDEA), (0xBD9E, 0xBDF4), (0xBDAE, 0xBDFD), (0xBDBD, 0xBE02),
   (0xBDCE, 0xBE04), (0xBDDE, 0xBE04), (0xBDEF, 0xBE03), (0xBDFF, 0xBDFF), (0xBE07, 0xBDF5), (0xBE0F, 0xBDE6), (0xBE16, 0xBDD2), (0xBE1D, 0xBDB8),
   (0xBE23, 0xBD99), (0xBE27, 0xBD69), (0xBE2B, 0xBD13), (0xBE2D, 0xBC44), (0xBE2E, 0x3C77), (0xBE2D, 0x3D39), (0xBE2A, 0x3DA0), (0xBE25, 0x3DE9),
   (0xBE1E, 0x3E1C), (0xBE14, 0x3E46), (0xBE08, 0x3E72), (0xBDF1, 0x3E90), (0xBDCD, 0x3EA8), (0xBDA3, 0x3EC1), (0xBD67, 0x3EDA), (0xBCF3, 0x3EF3)]

/-- Entries 128 to 159 of GELU. -/
def geluTable4 : List (Nat × Nat) :=
  [(0x0000, 0x3F06), (0x3D06, 0x3F13), (0x3D8D, 0x3F20), (0x3DDD, 0x3F2C), (0x3E19, 0x3F38), (0x3E47, 0x3F43), (0x3E78, 0x3F4F), (0x3E96, 0x3F59),
   (0x3EB1, 0x3F63), (0x3ECD, 0x3F6C), (0x3EEB, 0x3F74), (0x3F05, 0x3F7C), (0x3F14, 0x3F82), (0x3F25, 0x3F85), (0x3F35, 0x3F87), (0x3F46, 0x3F8A),
   (0x3F57, 0x3F8C), (0x3F69, 0x3F8D), (0x3F7A, 0x3F8E), (0x3F86, 0x3F8F), (0x3F8F, 0x3F90), (0x3F98, 0x3F90), (0x3FA1, 0x3F90), (0x3FAA, 0x3F90),
   (0x3FB3, 0x3F90), (0x3FBC, 0x3F90), (0x3FC5, 0x3F8F), (0x3FCE, 0x3F8F), (0x3FD7, 0x3F8E), (0x3FE0, 0x3F8D), (0x3FE9, 0x3F8C), (0x3FF1, 0x3F8B)]

/-- Entries 160 to 191 of GELU. -/
def geluTable5 : List (Nat × Nat) :=
  [(0x3FFA, 0x3F8B), (0x4001, 0x3F8A), (0x4006, 0x3F89), (0x400A, 0x3F88), (0x400E, 0x3F87), (0x4012, 0x3F87), (0x4017, 0x3F86), (0x401B, 0x3F85),
   (0x401F, 0x3F85), (0x4023, 0x3F84), (0x4027, 0x3F83), (0x402B, 0x3F83), (0x4030, 0x3F83), (0x4034, 0x3F82), (0x4038, 0x3F82), (0x403C, 0x3F82),
   (0x4040, 0x3F81), (0x4044, 0x3F81), (0x4048, 0x3F81), (0x404C, 0x3F81), (0x4050, 0x3F81), (0x4054, 0x3F81), (0x4058, 0x3F80), (0x405C, 0x3F80),
   (0x4060, 0x3F80), (0x4064, 0x3F80), (0x4068, 0x3F80), (0x406C, 0x3F80), (0x4070, 0x3F80), (0x4074, 0x3F80), (0x4078, 0x3F80), (0x407C, 0x3F80)]

/-- Entries 192 to 223 of GELU. -/
def geluTable6 : List (Nat × Nat) :=
  [(0x4080, 0x3F80), (0x4082, 0x3F80), (0x4084, 0x3F80), (0x4086, 0x3F80), (0x4088, 0x3F80), (0x408A, 0x3F80), (0x408C, 0x3F80), (0x408E, 0x3F80),
   (0x4090, 0x3F80), (0x4092, 0x3F80), (0x4094, 0x3F80), (0x4096, 0x3F80), (0x4098, 0x3F80), (0x409A, 0x3F80), (0x409C, 0x3F80), (0x409E, 0x3F80),
   (0x40A0, 0x3F80), (0x40A2, 0x3F80), (0x40A4, 0x3F80), (0x40A6, 0x3F80), (0x40A8, 0x3F80), (0x40AA, 0x3F80), (0x40AC, 0x3F80), (0x40AE, 0x3F80),
   (0x40B0, 0x3F80), (0x40B2, 0x3F80), (0x40B4, 0x3F80), (0x40B6, 0x3F80), (0x40B8, 0x3F80), (0x40BA, 0x3F80), (0x40BC, 0x3F80), (0x40BE, 0x3F80)]

/-- Entries 224 to 255 of GELU. -/
def geluTable7 : List (Nat × Nat) :=
  [(0x40C0, 0x3F80), (0x40C2, 0x3F80), (0x40C4, 0x3F80), (0x40C6, 0x3F80), (0x40C8, 0x3F80), (0x40CA, 0x3F80), (0x40CC, 0x3F80), (0x40CE, 0x3F80),
   (0x40D0, 0x3F80), (0x40D2, 0x3F80), (0x40D4, 0x3F80), (0x40D6, 0x3F80), (0x40D8, 0x3F80), (0x40DA, 0x3F80), (0x40DC, 0x3F80), (0x40DE, 0x3F80),
   (0x40E0, 0x3F80), (0x40E2, 0x3F80), (0x40E4, 0x3F80), (0x40E6, 0x3F80), (0x40E8, 0x3F80), (0x40EA, 0x3F80), (0x40EC, 0x3F80), (0x40EE, 0x3F80),
   (0x40F0, 0x3F80), (0x40F2, 0x3F80), (0x40F4, 0x3F80), (0x40F6, 0x3F80), (0x40F8, 0x3F80), (0x40FA, 0x3F80), (0x40FC, 0x3F80), (0x40FE, 0x3F80)]

/-- The built-in GELU table (R80): y_i and d_i as BF16 codes. -/
def geluTable : List (Nat × Nat) :=
  geluTable0 ++ geluTable1 ++ geluTable2 ++ geluTable3 ++ geluTable4 ++ geluTable5 ++ geluTable6 ++ geluTable7

/-- Entries 0 to 31 of SiLU. -/
def siluTable0 : List (Nat × Nat) :=
  [(0xBB30, 0xBB1E), (0xBB3A, 0xBB27), (0xBB44, 0xBB30), (0xBB4F, 0xBB39), (0xBB5B, 0xBB44), (0xBB67, 0xBB4E), (0xBB74, 0xBB59), (0xBB81, 0xBB65),
   (0xBB88, 0xBB72), (0xBB8F, 0xBB7F), (0xBB97, 0xBB86), (0xBBA0, 0xBB8D), (0xBBA9, 0xBB95), (0xBBB2, 0xBB9D), (0xBBBC, 0xBBA6), (0xBBC6, 0xBBAE),
   (0xBBD1, 0xBBB8), (0xBBDC, 0xBBC1), (0xBBE9, 0xBBCC), (0xBBF5, 0xBBD6), (0xBC01, 0xBBE2), (0xBC08, 0xBBEE), (0xBC10, 0xBBFA), (0xBC18, 0xBC04),
   (0xBC20, 0xBC0B), (0xBC29, 0xBC12), (0xBC32, 0xBC19), (0xBC3B, 0xBC21), (0xBC45, 0xBC2A), (0xBC50, 0xBC32), (0xBC5B, 0xBC3B), (0xBC67, 0xBC45)]

/-- Entries 32 to 63 of SiLU. -/
def siluTable1 : List (Nat × Nat) :=
  [(0xBC73, 0xBC4F), (0xBC80, 0xBC5A), (0xBC87, 0xBC65), (0xBC8E, 0xBC70), (0xBC95, 0xBC7C), (0xBC9D, 0xBC84), (0xBCA6, 0xBC8B), (0xBCAE, 0xBC92),
   (0xBCB7, 0xBC99), (0xBCC1, 0xBCA0), (0xBCCB, 0xBCA8), (0xBCD5, 0xBCB0), (0xBCE1, 0xBCB9), (0xBCEC, 0xBCC2), (0xBCF8, 0xBCCB), (0xBD02, 0xBCD5),
   (0xBD09, 0xBCDF), (0xBD10, 0xBCE9), (0xBD17, 0xBCF4), (0xBD1F, 0xBCFF), (0xBD27, 0xBD05), (0xBD2F, 0xBD0B), (0xBD38, 0xBD12), (0xBD41, 0xBD18),
   (0xBD4B, 0xBD1F), (0xBD54, 0xBD26), (0xBD5F, 0xBD2D), (0xBD6A, 0xBD34), (0xBD75, 0xBD3C), (0xBD80, 0xBD43), (0xBD86, 0xBD4B), (0xBD8D, 0xBD54)]

/-- Entries 64 to 95 of SiLU. -/
def siluTable2 : List (Nat × Nat) :=
  [(0xBD93, 0xBD5C), (0xBD9A, 0xBD65), (0xBDA1, 0xBD6D), (0xBDA9, 0xBD76), (0xBDB0, 0xBD7F), (0xBDB8, 0xBD84), (0xBDC1, 0xBD89), (0xBDC9, 0xBD8E),
   (0xBDD2, 0xBD92), (0xBDDB, 0xBD97), (0xBDE5, 0xBD9C), (0xBDEE, 0xBDA0), (0xBDF8, 0xBDA5), (0xBE01, 0xBDAA), (0xBE07, 0xBDAE), (0xBE0C, 0xBDB2),
   (0xBE12, 0xBDB6), (0xBE17, 0xBDBA), (0xBE1D, 0xBDBE), (0xBE23, 0xBDC1), (0xBE29, 0xBDC4), (0xBE2F, 0xBDC7), (0xBE36, 0xBDC9), (0xBE3C, 0xBDCB),
   (0xBE42, 0xBDCC), (0xBE49, 0xBDCC), (0xBE4F, 0xBDCC), (0xBE55, 0xBDCB), (0xBE5C, 0xBDC9), (0xBE62, 0xBDC6), (0xBE68, 0xBDC2), (0xBE6E, 0xBDBD)]

/-- Entries 96 to 127 of SiLU. -/
def siluTable3 : List (Nat × Nat) :=
  [(0xBE74, 0xBDB7), (0xBE7A, 0xBDAF), (0xBE7F, 0xBDA6), (0xBE82, 0xBD9B), (0xBE85, 0xBD8E), (0xBE87, 0xBD80), (0xBE89, 0xBD60), (0xBE8B, 0xBD3C),
   (0xBE8C, 0xBD14), (0xBE8D, 0xBCD0), (0xBE8E, 0xBC5E), (0xBE8F, 0xBA12), (0xBE8F, 0x3C5F), (0xBE8E, 0x3CED), (0xBE8D, 0x3D3A), (0xBE8C, 0x3D81),
   (0xBE8A, 0x3DA8), (0xBE87, 0x3DD1), (0xBE84, 0x3DFD), (0xBE80, 0x3E15), (0xBE76, 0x3E2D), (0xBE6C, 0x3E47), (0xBE5F, 0x3E61), (0xBE51, 0x3E7C),
   (0xBE41, 0x3E8C), (0xBE30, 0x3E9B), (0xBE1C, 0x3EAA), (0xBE07, 0x3EB9), (0xBDE0, 0x3EC8), (0xBDAE, 0x3ED8), (0xBD70, 0x3EE8), (0xBCF8, 0x3EF8)]

/-- Entries 128 to 159 of SiLU. -/
def siluTable4 : List (Nat × Nat) :=
  [(0x0000, 0x3F04), (0x3D04, 0x3F0C), (0x3D88, 0x3F14), (0x3DD2, 0x3F1C), (0x3E10, 0x3F24), (0x3E39, 0x3F2B), (0x3E64, 0x3F33), (0x3E88, 0x3F3A),
   (0x3E9F, 0x3F41), (0x3EB7, 0x3F48), (0x3ED0, 0x3F4E), (0x3EEA, 0x3F55), (0x3F02, 0x3F5B), (0x3F10, 0x3F60), (0x3F1E, 0x3F66), (0x3F2C, 0x3F6B),
   (0x3F3B, 0x3F70), (0x3F4A, 0x3F74), (0x3F59, 0x3F79), (0x3F69, 0x3F7D), (0x3F79, 0x3F80), (0x3F84, 0x3F82), (0x3F8C, 0x3F83), (0x3F95, 0x3F85),
   (0x3F9D, 0x3F86), (0x3FA5, 0x3F87), (0x3FAE, 0x3F88), (0x3FB6, 0x3F89), (0x3FBF, 0x3F8A), (0x3FC7, 0x3F8A), (0x3FD0, 0x3F8B), (0x3FD9, 0x3F8B)]

/-- Entries 160 to 191 of SiLU. -/
def siluTable5 : List (Nat × Nat) :=
  [(0x3FE1, 0x3F8C), (0x3FEA, 0x3F8C), (0x3FF3, 0x3F8C), (0x3FFC, 0x3F8D), (0x4002, 0x3F8D), (0x4007, 0x3F8D), (0x400B, 0x3F8D), (0x400F, 0x3F8D),
   (0x4014, 0x3F8D), (0x4018, 0x3F8D), (0x401D, 0x3F8C), (0x4021, 0x3F8C), (0x4025, 0x3F8C), (0x402A, 0x3F8C), (0x402E, 0x3F8C), (0x4033, 0x3F8B),
   (0x4037, 0x3F8B), (0x403B, 0x3F8B), (0x4040, 0x3F8B), (0x4044, 0x3F8A), (0x4048, 0x3F8A), (0x404D, 0x3F8A), (0x4051, 0x3F89), (0x4055, 0x3F89),
   (0x4059, 0x3F89), (0x405E, 0x3F89), (0x4062, 0x3F88), (0x4066, 0x3F88), (0x406A, 0x3F88), (0x406F, 0x3F87), (0x4073, 0x3F87), (0x4077, 0x3F87)]

/-- Entries 192 to 223 of SiLU. -/
def siluTable6 : List (Nat × Nat) :=
  [(0x407B, 0x3F87), (0x4080, 0x3F86), (0x4082, 0x3F86), (0x4084, 0x3F86), (0x4086, 0x3F86), (0x4088, 0x3F85), (0x408A, 0x3F85), (0x408C, 0x3F85),
   (0x408E, 0x3F85), (0x4090, 0x3F85), (0x4093, 0x3F84), (0x4095, 0x3F84), (0x4097, 0x3F84), (0x4099, 0x3F84), (0x409B, 0x3F84), (0x409D, 0x3F83),
   (0x409F, 0x3F83), (0x40A1, 0x3F83), (0x40A3, 0x3F83), (0x40A5, 0x3F83), (0x40A7, 0x3F83), (0x40A9, 0x3F83), (0x40AB, 0x3F83), (0x40AD, 0x3F82),
   (0x40AF, 0x3F82), (0x40B1, 0x3F82), (0x40B3, 0x3F82), (0x40B5, 0x3F82), (0x40B7, 0x3F82), (0x40B9, 0x3F82), (0x40BB, 0x3F82), (0x40BD, 0x3F82)]

/-- Entries 224 to 255 of SiLU. -/
def siluTable7 : List (Nat × Nat) :=
  [(0x40C0, 0x3F82), (0x40C2, 0x3F81), (0x40C4, 0x3F81), (0x40C6, 0x3F81), (0x40C8, 0x3F81), (0x40CA, 0x3F81), (0x40CC, 0x3F81), (0x40CE, 0x3F81),
   (0x40D0, 0x3F81), (0x40D2, 0x3F81), (0x40D4, 0x3F81), (0x40D6, 0x3F81), (0x40D8, 0x3F81), (0x40DA, 0x3F81), (0x40DC, 0x3F81), (0x40DE, 0x3F81),
   (0x40E0, 0x3F81), (0x40E2, 0x3F81), (0x40E4, 0x3F81), (0x40E6, 0x3F81), (0x40E8, 0x3F81), (0x40EA, 0x3F81), (0x40EC, 0x3F80), (0x40EE, 0x3F80),
   (0x40F0, 0x3F80), (0x40F2, 0x3F80), (0x40F4, 0x3F80), (0x40F6, 0x3F80), (0x40F8, 0x3F80), (0x40FA, 0x3F80), (0x40FC, 0x3F80), (0x40FE, 0x3F80)]

/-- The built-in SiLU table (R80): y_i and d_i as BF16 codes. -/
def siluTable : List (Nat × Nat) :=
  siluTable0 ++ siluTable1 ++ siluTable2 ++ siluTable3 ++ siluTable4 ++ siluTable5 ++ siluTable6 ++ siluTable7

end Sys2Proof.Machine
end

