-- ==== Sys2Proof/Machine/Window.lean ====
section
/-! DEFINITION. The arithmetic of the matrix arrays: exact products, the accumulation window, stage values and activations
(R59 to R82), exact sums of squares (R282, R284). -/

namespace Sys2Proof.Machine

/-! ### Products and the window (R59, R63 to R68) -/

/-- The exact product of two values; a product of zeros is a positive zero. -/
def Val.mul (a b : Val) : Val :=
  match a, b with
  | .nan, _ => .nan
  | _, .nan => .nan
  | .inf n, .inf m => .inf (n != m)
  | .inf n, .fin m g _ => if g = 0 then .nan else .inf (n != m)
  | .fin m g _, .inf n => if g = 0 then .nan else .inf (n != m)
  | .fin n g e, .fin m h f => if g * h = 0 then .fin false 0 0 else .fin (n != m) (g * h) (e + f)

/-- A column's partial sum: value, side of an overflow, sticky bit, non-finite code, products rounded (R65 to R68). -/
structure Partial where
  v : Int := 0
  sideOf : Option Bool := none
  s : Bool := false
  nf : Nat := 0
  under : Nat := 0
  deriving DecidableEq, Repr

/-- Side of an overflow of the element range (R63, R67): true for the negative side. -/
def rangeSide (v : Int) : Option Bool :=
  if 2 ^ 95 ≤ v then some false else if v < -(2 ^ 95) then some true else none

/-- The non-finite code after a non-finite product (R68). -/
def nfJoin (old : Nat) (p : Val) : Nat :=
  match p with
  | .nan => 3
  | .inf neg => let c := if neg then 2 else 1
    if old = 0 then c else if old = c then old else 3
  | .fin _ _ _ => old

/-- One product added to a partial sum at resolution 2^e0 (R66 to R68). -/
def Partial.add (e0 : Int) (p : Partial) (q : Val) : Partial :=
  if p.sideOf.isSome then p else
  match q with
  | .fin neg mag e =>
    if p.nf ≠ 0 ∨ mag = 0 then p
    else
      let k := roundOdd mag e e0
      let exact := decide (e0 ≤ e) || decide (mag % pow2 (e0 - e).toNat = 0)
      let v := if neg then p.v - k else p.v + k
      match rangeSide v with
      | some side => { p with sideOf := some side, s := p.s || !exact, under := p.under + (if exact then 0 else 1) }
      | none => { p with v := v, s := p.s || !exact, under := p.under + (if exact then 0 else 1) }
  | other => { p with nf := nfJoin p.nf other }

/-- A saturated V (R67). -/
def satV (neg : Bool) : BitVec 96 := if neg then BitVec.ofInt 96 (-(2 ^ 95)) else BitVec.ofInt 96 (2 ^ 95 - 1)

/-- A chunk's products added to an element: the element, products rounded, and whether it has just saturated (R62, R67). -/
def AccElem.addChunk (x : AccElem) (e0 : Int) (qs : List Val) : AccElem × Nat × Bool :=
  if x.ovf then (x, 0, false)
  else
    let p := qs.foldl (Partial.add e0) { s := x.s, nf := x.nf.toNat }
    let side := match p.sideOf with
      | some b => some b
      | none => rangeSide (x.v.toInt + p.v)
    match side with
    | some neg => ({ v := satV neg, s := p.s, ovf := true, nf := BitVec.ofNat 2 p.nf }, p.under, true)
    | none => ({ v := BitVec.ofInt 96 (x.v.toInt + p.v), s := p.s, ovf := false, nf := BitVec.ofNat 2 p.nf }, p.under, false)

/-! ### Chunk tiles (R60, R220, R221) -/

/-- The scale index of a Q4 element: a group of 64 K rows of a column, or 64 columns of a K row when transposed. -/
def WTile.scaleIdx (t : WTile) (k c : Nat) : Nat := if t.transposed then k * 2 + c / 64 else k / 64 * 128 + c

/-- The stationary code of element `i` of a Mixer tile. Under an 8-bit format the tile's 32 KiB are read as bytes (log entry 21). -/
def mixerCode (es : Array (BitVec 16)) (f : Fmt) (i : Nat) : Nat :=
  if f.width = 8 then (es.getD (i / 2) 0).toNat / (if i % 2 = 0 then 1 else 256) % 256 else (es.getD i 0).toNat

/-- The stationary values of the first `kn` K rows, row-major, under the stationary format. -/
def WTile.values (t : WTile) (f : Fmt) (kn : Nat) : Array Val :=
  let es := t.elems.toArray
  let sc := t.scales.toArray
  ((List.range (kn * 128)).map fun i =>
    if t.mixer then f.decode (mixerCode es f i)
    else q4Value (es.getD i 0).toNat (sc.getD (t.scaleIdx (i / 128) (i % 128)) 0).toNat).toArray

/-- What the intake of the stationary operand counts (R54). -/
def WTile.meets (t : WTile) (f : Fmt) (kn : Nat) : List (Option Meet) :=
  let es := t.elems.toArray
  let sc := t.scales.toArray
  (List.range (kn * 128)).map fun i =>
    if t.mixer then
      match f.decode (mixerCode es f i) with
      | .nan => some .nanIn
      | .inf _ => some .infIn
      | .fin _ _ _ => none
    else q4Meet (sc.getD (t.scaleIdx (i / 128) (i % 128)) 0).toNat

/-! ### Stage values (R75, R77) -/

/-- A value rounded once to a 56-bit stage value with round-to-odd; a zero is positive. -/
def stage (v : Val) : Val :=
  match v with
  | .fin neg mag e =>
    if mag = 0 then .fin false 0 0
    else
      let q := log2Of mag e - 55
      .fin neg (roundOdd mag e q) q
  | other => other

/-- The least significant bit of a non-zero stage value forced to 1 (R75). -/
def forceOdd (v : Val) : Val :=
  match v with
  | .fin neg mag e => if mag = 0 then v else .fin neg (mag ||| 1) e
  | other => other

/-- Exact sum of two values under IEEE 754 rules for non-finite ones (R77). -/
def Val.add (a b : Val) : Val :=
  match a, b with
  | .nan, _ => .nan
  | _, .nan => .nan
  | .inf n, .inf m => if n = m then .inf n else .nan
  | .inf n, _ => .inf n
  | _, .inf m => .inf m
  | a, b => (a.dy.add b.dy).val

/-- The negated value. -/
def Val.neg : Val → Val
  | .nan => .nan
  | .inf n => .inf (!n)
  | .fin n m e => .fin (!n) m e

/-- The value of an accumulator element (R63, R65). -/
def AccElem.val (x : AccElem) (anchor : Int) : Val :=
  if x.nf = 3 then .nan else if x.nf = 1 then .inf false else if x.nf = 2 then .inf true
  else (Dy.mk x.v.toInt (anchor - 74)).val

/-! ### Activations (R78 to R80) -/

/-- The segments of an activation: width exponent, lower and upper tails extrapolate, y and d of each segment. -/
structure ActTable where
  k : Int
  lower : Bool
  upper : Bool
  ys : List (Nat × Nat)
  deriving DecidableEq, Repr

/-- The table of an activation code (R79, R80). -/
def actTable (act : Nat) (bytes : List Byte) : ActTable :=
  if act = 2 then ⟨-4, false, true, geluTable⟩
  else if act = 3 then ⟨-4, false, true, siluTable⟩
  else ⟨signed 8 (field bytes 0 1), bits (field bytes 1 1) 0 0 == 1, bits (field bytes 1 1) 1 1 == 1,
    (List.range 256).map fun i => (field bytes (8 + 4 * i) 2, field bytes (10 + 4 * i) 2)⟩

/-- The table applied to a stage value (R79). -/
def ActTable.apply (t : ActTable) (v : Val) : Val :=
  let seg := fun i => let p := t.ys.getD i (0, 0); (fBf16.decode p.1, fBf16.decode p.2)
  let lowEdge := (seg 0).1
  let s255 := seg 255
  let highEdge := s255.1.add (s255.2.mul (.fin false 1 t.k))
  let line := fun (i : Nat) (x : Dy) =>
    let s := seg i
    stage ((s.1.dy.add (s.2.dy.mul (x.sub ⟨(i : Int) - 128, t.k⟩))).val)
  match v with
  | .nan => .nan
  | .inf neg =>
    if neg then
      if !t.lower then stage lowEdge
      else let s := seg 0
        if s.2.isZero then stage lowEdge else .inf (!(s.2.dy.m < 0))
    else if !t.upper then stage highEdge
    else if s255.2.isZero then stage s255.1 else .inf (s255.2.dy.m < 0)
  | .fin _ _ _ =>
    let x := v.dy
    if x.lt ⟨-128, t.k⟩ then if t.lower then line 0 x else stage lowEdge
    else if !(x.lt ⟨128, t.k⟩) then if t.upper then line 255 x else stage highEdge
    else
      let i := if x.e ≤ t.k then floorShift x.m (t.k - x.e).toNat else shlInt x.m (x.e - t.k).toNat
      line (i + 128).toNat x

/-- Step 3 of R74 (R78). -/
def activate (act : Nat) (bytes : List Byte) (v : Val) : Val :=
  if act = 0 then v
  else if act = 1 then
    match v with
    | .nan => .nan
    | .inf neg => if neg then .fin false 0 0 else v
    | .fin neg _ _ => if neg then .fin false 0 0 else v
  else (actTable act bytes).apply v

/-- Steps 1 to 3 of R74 for element (i, j): the stage value. `s` is the sticky bit (R75). -/
def OutParams.stageOf (p : OutParams) (x : Val) (s : Bool) (i j : Nat) : Val :=
  let one : Val := .fin false 1 0
  let y1 := stage ((x.mul (p.rs.getD i one)).mul (p.cs.getD j one))
  let y1 := if s then forceOdd y1 else y1
  let z := match p.add[i]? with | some r => r.getD j (.fin false 0 0) | none => .fin false 0 0
  let y2 := if p.bias.isEmpty && p.add.isEmpty then y1 else stage ((y1.add (p.bias.getD j (.fin false 0 0))).add z)
  activate p.act p.table y2

/-! ### Exact sums of squares (R282, R284, R288) -/

/-- The square of a dyadic added to an exact sum. -/
def ExactSum.addSq (x : ExactSum) (v : Dy) : ExactSum :=
  let m := v.m.natAbs * v.m.natAbs
  let e := 2 * v.e
  if m = 0 then x
  else if 0 ≤ e then { x with num := x.num + (m <<< e.toNat) <<< x.den }
  else
    let k := (-e).toNat
    if k ≤ x.den then { x with num := x.num + m <<< (x.den - k) }
    else { num := x.num <<< (k - x.den) + m, den := k }

/-- Two exact sums added. -/
def ExactSum.plus (x y : ExactSum) : ExactSum :=
  if x.den ≤ y.den then { num := x.num <<< (y.den - x.den) + y.num, den := y.den }
  else { num := x.num + y.num <<< (x.den - y.den), den := x.den }

/-- The norm format: mantissa and exponent, rounded to nearest even (R284). -/
def ExactSum.norm (x : ExactSum) : Nat × Int :=
  if x.num = 0 then (0, 0)
  else
    let q : Int := (log2 x.num : Int) - 63
    let k := roundQuanta .nearestEven x.num 0 q
    if k = 2 ^ 64 then (2 ^ 63, q + 1 - x.den) else (k, q - x.den)

/-- An exponent as a 16-bit two's-complement field. -/
def i16 (x : Int) : Nat := (x % 65536).toNat

end Sys2Proof.Machine
end

