-- ==== Sys2Proof/Machine/Norms.lean ====
section
/-! DEFINITION. The Scales' adapter norms: the open group and the norm area (R282 to R286). -/

namespace Sys2Proof.Machine

/-- Island of the Scales. -/
def scalesIsland (cd : Cd) : BitVec 16 := cdIsland cd 7 0

/-- A norm sum as mantissa and exponent bytes. -/
def ExactSum.mant (x : ExactSum) : List Byte := bytesLE 8 x.norm.1
/-- The exponent of a norm sum. -/
def ExactSum.expo (x : ExactSum) : List Byte := bytesLE 2 (i16 x.norm.2)

/-- The norm entry of a group (R285). -/
def NormGroup.entry (g : NormGroup) : List Byte :=
  bytesLE 4 g.handle.toNat ++ bytesLE 2 g.layer.toNat ++ bytesLE 1 g.targets.toNat ++ bytesLE 1 g.flags.toNat
    ++ g.w.mant ++ g.g.mant ++ g.u.mant ++ g.w.expo ++ g.g.expo ++ g.u.expo ++ zeros 10

/-- The norm area header (R285). -/
def normHeader (full : Bool) (count step attempt cap dropped : Nat) : List Byte :=
  bytesLE 1 5 ++ bytesLE 1 (if full then 1 else 0) ++ zeros 2 ++ bytesLE 4 count ++ bytesLE 4 step ++ bytesLE 4 attempt
    ++ bytesLE 4 cap ++ bytesLE 4 dropped ++ zeros 40

/-- Bytes written by the Scales; a refused line faults. -/
def Device.scalesPut (d : Device) (c : Context) (cd : Cd) (a : Nat) (bs : List Byte) : Device × Bool :=
  match d.putBytes c cd .telemetry a bs with
  | (d1, none) => (d1, true)
  | (d1, some (e, l, done)) => (d1.memFault c (scalesIsland cd) e l done true 0 0, false)

/-- The entry of an append, or the count of one that finds no room, given the header in force (R286). -/
def Device.normPut (d : Device) (c : Context) (cd : Cd) (area cap attempt : Nat) (entry : List Byte) (full : Bool) (count dropped : Nat) : Device :=
  let step := d.stepNo c
  if count = cap then
    (d.scalesPut c cd area (normHeader true count step attempt cap (satAdd32 (BitVec.ofNat 32 dropped) 1).toNat)).1
  else
    let (d1, ok) := d.scalesPut c cd (area + 0x40 + 48 * count) entry
    if ok then (d1.scalesPut c cd area (normHeader full (count + 1) step attempt cap dropped)).1 else d1

/-- One entry appended to the bound norm area: a header of another step or attempt is reset first (R286). -/
def Device.normAppend (d : Device) (c : Context) (cd : Cd) (entry : List Byte) : Device :=
  match d.dies[cd].sieve.area with
  | none => d
  | some (area, cap, attempt) =>
    match d.readBytes c cd .telemetry area.toNat 64 with
    | .error (e, l) => d.memFault c (scalesIsland cd) e l 0 false 0 0
    | .ok h =>
      if field h 8 4 = d.stepNo c ∧ field h 0xC 4 = attempt.toNat then
        d.normPut c cd area.toNat cap.toNat attempt.toNat entry (bits (field h 1 1) 0 0 == 1) (field h 4 4) (field h 0x14 4)
      else
        let (d1, ok) := d.scalesPut c cd area.toNat (normHeader false 0 (d.stepNo c) attempt.toNat cap.toNat 0)
        if ok then d1.normPut c cd area.toNat cap.toNat attempt.toNat entry false 0 0 else d1

/-- The open group closed: one norm entry (R283). -/
def Device.closeGroup (d : Device) (c : Context) (cd : Cd) : Device :=
  match d.dies[cd].sieve.group with
  | none => d
  | some g => (d.modDie cd fun x => { x with sieve := { x.sieve with group := none } }).normAppend c cd g.entry

/-- The open group has this key. -/
def Sieve.holds (v : Sieve) (handle layer : Nat) : Bool :=
  v.group.any fun o => o.handle.toNat == handle && o.layer.toNat == layer

/-- The open group, or an empty one with this key. -/
def Sieve.openGroup (v : Sieve) (handle layer : Nat) : NormGroup :=
  v.group.getD { handle := BitVec.ofNat 32 handle, layer := BitVec.ofNat 16 layer, targets := 0, flags := 0, w := {}, g := {}, u := {} }

/-- The sums of one UPDATE item handed to the Scales (R271, R282, R283, R285): `key` is handle with policy and layer. -/
def Device.normItem (d : Device) (c : Context) (cd : Cd) (handle : Nat) (layer target : Nat) (skipped nonfinite : Bool)
    (w g u : ExactSum) : Device :=
  match d.dies[cd].sieve.area with
  | none => d
  | some _ =>
    let d1 := if d.dies[cd].sieve.holds handle layer then d else d.closeGroup c cd
    let o := d1.dies[cd].sieve.openGroup handle layer
    let o1 : NormGroup := { o with
      targets := o.targets ||| BitVec.ofNat 8 (pow2 (target % 8))
      flags := o.flags ||| BitVec.ofNat 8 ((if skipped then 1 else 0) + (if nonfinite then 2 else 0))
      w := o.w.plus w, g := o.g.plus g, u := o.u.plus u }
    d1.modDie cd fun x => { x with sieve := { x.sieve with group := some o1 } }

end Sys2Proof.Machine
end

