-- ==== Sys2Proof/Machine/Stops.lean ====
section
/-! DEFINITION. Accesses of a Cox to bonded SRAM in flight, how a Cox stops and how a run ends: tally and stop records, the run's completion (R139, R140, R373). -/

namespace Sys2Proof.Machine

/-! ### Accesses in flight (R128, R130) -/

/-- A load whose data is in error: its response is on its way, unless one of an earlier load is (R128). -/
def Cox.loadFails (k : Cox) (pc : BitVec 14) (a code : Nat) : Cox :=
  { k with loadErr := k.loadErr.orElse fun _ => some { pc := pc, dpa := BitVec.ofNat 52 (lineOf a), code := BitVec.ofNat 16 code } }

/-- An access reaches bonded SRAM: a store is made there, a load takes its bytes, or its error (R128, R130). -/
def Device.busAct (d : Device) (cd : Cd) (b : BusOp) : Device :=
  match b.store with
  | some bs => d.writeAs b.domain b.dpa.toNat bs
  | none =>
    match d.dataCode b.dpa.toNat b.bytes with
    | some e => d.modCox cd fun k => k.loadFails b.pc b.dpa.toNat e
    | none =>
      let v := BitVec.ofNat 64 (le (d.readAs b.domain b.dpa.toNat b.bytes))
      d.modCox cd fun k => { k with g := if b.d = 0 then k.g else k.g.set b.d v }

/-- The accesses that have reached bonded SRAM by a cycle are made, oldest first (R130). -/
def Device.busUntil (d : Device) (cd : Cd) (t : Nat) : Device :=
  let due := d.dies[cd].cox.bus.filter fun b => decide (b.due ≤ t)
  due.foldl (fun d b => d.busAct cd b) (d.modCox cd fun k => { k with bus := k.bus.filter fun b => decide (t < b.due) })

/-- Every access in flight is made: the Cox has stopped or stands at a stroke boundary (R142). -/
def Device.busFlush (d : Device) (cd : Cd) : Device :=
  d.dies[cd].cox.bus.foldl (fun d b => d.busAct cd b) (d.modCox cd fun k => { k with bus := [] })

/-! ### Records and the end of a run -/

/-- The address of a record of arc position `pos` (R373). -/
def recordAddr (base : BitVec 52) (sramWin : Bool) (cd : Cd) (off : Nat) : Nat :=
  wrap52 ((if sramWin then sramOf cd.val else 0) + base.toNat + off)

/-- Every Cox of the arc is idle. -/
def Device.arcIdle (d : Device) (c : Context) : Bool := c.cds.all fun cd => d.dies[cd].cox.run == .idle

/-- The result of a run (R373): smallest reason, position of the first error record, plan, record. -/
def runResult (u : Run) (planId : BitVec 64) : List Byte :=
  bytesLE 1 u.reason.toNat ++ bytesLE 1 ((u.firstErr.map (·.2)).getD 0) ++ zeros 6 ++ bytesLE 8 planId.toNat
    ++ (match u.firstErr with | some (r, _) => r.encode | none => zeros 32)

/-- The completion of a PLAN_RUN whose last Cox has stopped: code 0 after HALT on every position, unless the context is FAULTED (R371,
R373). -/
def Device.runAnswer (d : Device) (slot : CtxSlot) (c : Context) (u : Run) : Device :=
  let code := if u.reason = 5 && c.cond != .faulted then 0 else 0xE8
  let flags := if u.firstErr.isSome then 1 else 0
  let res := runResult u ((c.plan.map (·.planId)).getD 0)
  (d.modCtx slot fun c => { c with run := none }).onRing (.ctx slot) fun tag x => ringComplete tag u.op u.seq code flags res x

/-- The last Cox of the arc has stopped: the open norm groups close, a PLAN_RUN completes, and the segment of a STEP_COMMIT or
STEP_ROLLBACK stays for its SEGMENT_HALT (R139, R273, R283, R371). A fault of a closing append leaves the context FAULTED (R192, R299). -/
def Device.runEnd (d : Device) (slot : CtxSlot) : Device :=
  match d.ctxAt slot with
  | none => d
  | some c =>
    match c.run with
    | none => d
    | some _ =>
      if !d.arcIdle c then d
      else
        let d0 := c.cds.foldl (fun d cd => d.closeGroup c cd) d
        let d1 := d0.modCtx slot fun c => { c with cond :=
          if (c.run.any fun u => u.reason == 5) && c.cond != .faulted then .idle else .faulted }
        match d1.ctxAt slot with
        | none => d1
        | some c1 =>
          match c1.run with
          | none => d1
          | some u => if u.op ≠ 2 then d1 else d1.runAnswer slot c1 u

/-- A Cox stops: its accesses in flight are made, it writes its tally record and its stop record, and the run ends with the last Cox of
the arc (R55, R130, R139, R140). The tally is cleared, but at the HALT of an update segment: its counts run on into the record of the step
(DESIGN CHOICE, log entry 51). -/
def Device.coxStop (d : Device) (c : Context) (cd : Cd) (reason trap pc : Nat) (fault : Option ErrRec) : Device :=
  let d := d.busFlush cd
  match c.run with
  | none => d.modCox cd fun k => { k with run := .idle, waiting := none }
  | some u =>
    let x := d.dies[cd]
    let pos := c.posOf cd
    let isl := cdIsland cd 0 0
    let tallyRec := x.tally.encode cd.val c.tag (d.stepNo c)
    let stopRec := x.cox.stopRecord cd.val c.tag reason trap pc (d.cycle isl) fault
    let d1 := d.modDie cd fun x =>
      { x with cox := { x.cox with run := .idle, waiting := none, loadErr := none }, tally := if u.keepTally && reason == 5 then x.tally else {}, faultDue := none,
               frozen := x.frozen || decide (reason ≠ 5) }
    let d2 := d1.modCtx c.slot fun c => { c with run := c.run.map fun u =>
      { u with reason := if u.reason = 0 ∨ reason < u.reason.toNat then BitVec.ofNat 8 reason else u.reason } }
    let d3 := d2.putRecord c cd isl (recordAddr u.tally u.sramWin cd (32 * pos)) tallyRec
    let d4 := d3.putRecord c cd isl (recordAddr u.stop u.sramWin cd (64 * pos)) stopRec
    d4.runEnd c.slot

/-- A fault of the Cox itself: the record, the context FAULTED, the Cox stopped at once with reason COX_FAULT, or TRAP for a trap
code (R139, R141). -/
def Device.coxFault (d : Device) (c : Context) (cd : Cd) (r : ErrRec) (trap : Option Nat) : Device :=
  let d1 := d.fault c r
  match d1.ctxAt c.slot with
  | none => d1
  | some c1 =>
    let pc := d.dies[cd].cox.pc.toNat
    match trap with
    | some t => d1.coxStop c1 cd 1 t pc none
    | none => d1.coxStop c1 cd 2 0 pc (some r)

/-- An error record of the Cox (R141). -/
def Device.coxErr (d : Device) (c : Context) (cd : Cd) (code : Nat) (dpa : Option Nat) (detail : Nat) : ErrRec :=
  d.err (cdIsland cd 0 0) 5 code c.tag dpa (detail + d.dies[cd].cox.pc.toNat * 2 ^ 32)

end Sys2Proof.Machine
end

