-- ==== Sys2Proof/Machine/Engines.lean ====
section
/-! DEFINITION. Engine queues and links: what starts, releases and completes a command (R146 to R160). -/

namespace Sys2Proof.Machine

/-- The head command of a queue: its first command not yet started (R156, R160). -/
def headOf (q : List QEntry) : Option QEntry := q.find? fun e => !e.started

/-- The oldest command of a queue. -/
def oldestOf (q : List QEntry) : Option QEntry := q.head?

/-- The entry of an issue number rewritten. -/
def setEntry (q : List QEntry) (no : Nat) (f : QEntry → QEntry) : List QEntry :=
  q.map fun e => if e.no = no then f e else e

/-- A queue of a die rewritten. -/
def Die.modQueue (x : Die) (q : QueueId) (f : List QEntry → List QEntry) : Die := { x with queues := upd x.queues q f }

/-- A link of a die rewritten. -/
def Die.modLink (x : Die) (l : Nat) (f : Link → Link) : Die := { x with links := x.links.modify l f }

/-- Link conditions of a start (R154): a credit for a give, a token for a take. The reason that fails first, with its link. -/
def Die.linkWait (x : Die) (e : QEntry) : Option (Nat × Nat) :=
  if cwGe e.w && ((x.links[cwGl e.w]?).map (·.credits)).getD 0 == 0 then some (1, cwGl e.w)
  else if cwTe e.w && ((x.links[cwTl e.w]?).map (·.tokens)).getD 0 == 0 then some (2, cwTl e.w)
  else none

/-- Link actions of a start (R154). -/
def Die.linkStart (x : Die) (e : QEntry) : Die :=
  let x1 := if cwGe e.w then x.modLink (cwGl e.w) fun l => { l with credits := l.credits - 1 } else x
  if cwTe e.w then x1.modLink (cwTl e.w) fun l => { l with tokens := l.tokens - 1 } else x1

/-- Link action of the release point (R154). -/
def Die.linkRelease (x : Die) (e : QEntry) : Die :=
  if cwTe e.w then x.modLink (cwTl e.w) fun l => { l with credits := l.credits + 1 } else x

/-- Link action of the completion point (R154). -/
def Die.linkComplete (x : Die) (e : QEntry) : Die :=
  if cwGe e.w then x.modLink (cwGl e.w) fun l => { l with tokens := l.tokens + 1 } else x

/-- What an engine answers when a command tries to start. -/
inductive Engine where
  /-- The command waits. -/
  | wait
  /-- The command has run: the device after it, the s values of its completion point, and whether its last result byte is
  written. -/
  | ran (d : Device) (svals : List (Fin 16 × BitVec 64)) (done : Bool)
  /-- The command has stopped at a fault, with what it left behind. -/
  | stopped (d : Device)
  /-- The command has come to a stop point with work left: its progress in the queue entry, and the s values that it has formed so far
  (R86, R118, R197, R383, R387). -/
  | cut (d : Device) (progress : Nat) (svals : List (Fin 16 × BitVec 64))

/-- Marks of a start in the queue and the links. A command that goes on from a stop point has taken its links. -/
def Die.markStart (x : Die) (q : QueueId) (e : QEntry) (svals : List (Fin 16 × BitVec 64)) (done : Bool) : Die :=
  (if e.started then x else x.linkStart e).modQueue q fun l => setEntry l e.no fun e =>
    { e with started := true, inputRead := done, done := done, cut := false, svals := svals }

/-- Marks of a start, or of a further piece, that has come to a stop point. -/
def Die.markCut (x : Die) (q : QueueId) (e : QEntry) (progress : Nat) (svals : List (Fin 16 × BitVec 64)) : Die :=
  (x.markStart q e svals false).modQueue q fun l => setEntry l e.no fun e => { e with cut := true, progress := BitVec.ofNat 40 progress }

/-- The progress of a command noted in its queue entry (R383). -/
def Die.noteProgress (x : Die) (q : QueueId) (e : QEntry) (progress : Nat) : Die :=
  x.modQueue q fun l => setEntry l e.no fun e => { e with progress := BitVec.ofNat 40 progress }

/-- Marks of a start that a fault has stopped (R195). -/
def Die.markStop (x : Die) (q : QueueId) (e : QEntry) : Die :=
  (x.markStart q e [] false).modQueue q fun l => setEntry l e.no fun e => { e with stopped := true }

/-- Pre-emption of the context is in progress (R129, R387). -/
def Device.preempting (d : Device) (c : Context) : Bool := (d.switching.map (·.out)) == some c.tag

/-- The Course of a paused context stands still: PAUSE(q) has reached every CD, every round before q has started, and no line is on a hop.
Nothing moves before position 0 sends its START, or in a FAULTED context (R226, R227). -/
def Device.courseStill (d : Device) (c : Context) : Bool :=
  let k0 := d.dies[c.cdAt 0].course
  match k0.pause with
  | none => true
  | some q => c.plan.isNone || c.cond == .faulted || k0.counter.isNone || k0.resume.isSome || c.cds.all fun cd =>
      let k := d.dies[cd].course
      k.counter.isSome && k.resume.isNone && k.pause == some q && decide (q ≤ k.round) && k.inCw.isEmpty && k.inCcw.isEmpty && k.passCw.isEmpty
        && k.passCcw.isEmpty

/-- The run of the context is being stopped: pre-emption or Easy-all (R387, R449). -/
def Device.stopping (d : Device) (c : Context) : Bool := d.preempting c || c.held

/-- The engines of the context stand at their stop points: pre-emption or Easy-all, once the lines scheduled before the pause have gone
(R227, R387, R449; log entry 53). -/
def Device.enginesHeld (d : Device) (c : Context) : Bool := d.stopping c && d.courseStill c

/-- A CLOSE of the Ladle queue: later commands start while it runs, and CLOSEs complete in queue order (R310). -/
def isClose (q : QueueId) (e : QEntry) : Bool := q == 10 && cwOp e.w == 2 && cwFlag e.w 0

/-- The command of a queue that stands at a stop point. -/
def cutOf (q : List QEntry) : Option QEntry := q.find? fun e => e.started && e.cut && !e.stopped

/-- The command that may start in a queue: resident context, engines running, the queue's head with the opcode, link conditions
met (R156, R195). Every engine but a matrix array has finished the command ahead (R217; an MA streams one tile while its output
stage holds another, R74). A command that stands at a stop point goes on first (R197, R387). -/
def Device.startable (d : Device) (cd : Cd) (q : QueueId) (op : Nat) : Option (Context × QEntry) :=
  match d.residentOf cd with
  | none => none
  | some c =>
    let x := d.dies[cd]
    if x.frozen || d.enginesHeld c then none
    else match cutOf x.queues[q], headOf x.queues[q] with
      | some e, _ => if cwOp e.w = op then some (c, e) else none
      | none, none => none
      | none, some e =>
        if cwOp e.w = op ∧ (x.linkWait e).isNone ∧ (decide (q.val < 4) || x.queues[q].all fun b => !b.started || b.done || isClose q b)
        then some (c, e) else none

/-- The head command of a queue starts, when it has the opcode and its conditions hold; `f` is what the engine does. -/
def Device.startHead (d : Device) (cd : Cd) (q : QueueId) (op : Nat) (f : Device → Context → QEntry → Engine) : Device :=
  match d.startable cd q op with
  | none => d
  | some (c, e) =>
    match f d c e with
    | .wait => d
    | .ran d' svals done => d'.modDie cd fun x => x.markStart q e svals done
    | .stopped d' => d'.modDie cd fun x => x.markStop q e
    | .cut d' n svals => d'.modDie cd fun x => x.markCut q e n svals

/-- The s value of a command that names an s-register (R149). -/
def QEntry.sOf (e : QEntry) (v : Nat) : List (Fin 16 × BitVec 64) :=
  if cwSwr e.w then [(cwSreg e.w, BitVec.ofNat 64 v)] else []

/-- The values written to the s-registers at a completion point: each mark clears unless a later command has set it again
(R132). -/
def Cox.writeS (k : Cox) (no : Nat) : List (Fin 16 × BitVec 64) → Cox
  | [] => k
  | (r, v) :: t =>
    let k1 := { k with s := k.s.set r v }
    let k2 := if k.pend[r] ≠ 0 ∧ k.pendNo[r] = no then { k1 with pend := k1.pend.set r 0 } else k1
    k2.writeS no t

/-- A companion access of the queue is outstanding (R155, R359). -/
def Device.companionWait (d : Device) (c : Context) (cd : Cd) (q : QueueId) : Bool :=
  d.companion.any fun a => a.slot == c.slot && a.cd == cd && a.queue == q

/-! ### Gate and post of a MOVE (R347 to R349) -/

/-- The receive stream of a position. -/
def Context.recv (c : Context) (pos stream : Nat) : Option RecvStream :=
  c.plan.bind fun p => p.recvs.find? fun r => r.pos == pos && r.stream == stream

/-- The send stream of a position. -/
def Context.send (c : Context) (pos stream : Nat) : Option SendStream :=
  c.plan.bind fun p => p.sends.find? fun r => r.pos == pos && r.stream == stream

/-- The stream named by the flags of a MOVE. -/
def cwStream (w : Nat) : Nat := bits w 61 57

/-- A gated MOVE waits for a message (R348). -/
def Context.gateWait (c : Context) (cd : Cd) (e : QEntry) : Bool :=
  cwFlag e.w 0 && (match c.recv (c.posOf cd) (cwStream e.w) with
    | some r => decide (r.landed ≤ r.gated)
    | none => true)

/-- A posting MOVE waits for room among the unread entries of its stream (R349). Its wait reason is that of a Wyine arrival (DESIGN CHOICE,
log entry 73). -/
def Context.postWait (c : Context) (cd : Cd) (e : QEntry) : Bool :=
  cwFlag e.w 6 && (match c.send (c.posOf cd) (cwStream e.w) with
    | some r => decide (r.depth ≤ r.unread.length)
    | none => true)

/-- A receive stream of a position rewritten. -/
def Context.modRecv (c : Context) (pos stream : Nat) (f : RecvStream → RecvStream) : Context :=
  { c with plan := c.plan.map fun p =>
    { p with recvs := p.recvs.map fun r => if r.pos == pos && r.stream == stream then f r else r } }

/-- A send stream of a position rewritten. -/
def Context.modSend (c : Context) (pos stream : Nat) (f : SendStream → SendStream) : Context :=
  { c with plan := c.plan.map fun p =>
    { p with sends := p.sends.map fun r => if r.pos == pos && r.stream == stream then f r else r } }

/-- The command is a MOVE of channel 1 or 2 with a flag set (R347). -/
def moveFlag (q : QueueId) (e : QEntry) (j : Nat) : Bool :=
  (q == 6 || q == 7) && cwOp e.w == 1 && cwFlag e.w j

/-- A gated MOVE at its release point owes its peer one message credit (R348). -/
def Device.gateRelease (d : Device) (c : Context) (cd : Cd) (q : QueueId) (e : QEntry) : Device :=
  if moveFlag q e 0 then
    d.modCtx c.slot fun c => c.modRecv (c.posOf cd) (cwStream e.w) fun r => { r with owed := r.owed + 1 }
  else d

/-- The next entry of a send stream released, cyclically (R349). -/
def SendStream.post (r : SendStream) : SendStream :=
  let k := if r.count = 0 then 0 else r.next % r.count
  { r with unread := r.unread ++ [r.first + k], next := k + 1 }

/-- A posting MOVE at its completion point releases the next entry of its stream (R349). -/
def Device.postComplete (d : Device) (c : Context) (cd : Cd) (q : QueueId) (e : QEntry) : Device :=
  if moveFlag q e 6 then d.modCtx c.slot fun c => c.modSend (c.posOf cd) (cwStream e.w) SendStream.post else d

/-- The release point of the oldest started command of a queue that has read its input (R154, R155). -/
def Device.releasePoint (d : Device) (cd : Cd) (q : QueueId) : Device :=
  match d.residentOf cd with
  | none => d
  | some c =>
    let x := d.dies[cd]
    if x.frozen || d.enginesHeld c then d
    else match x.queues[q].find? fun e => e.started && e.inputRead && !e.released with
      | none => d
      | some e => (d.modDie cd fun x =>
          (x.linkRelease e).modQueue q fun l => setEntry l e.no fun e => { e with released := true }).gateRelease c cd q e

/-- The actions of a completion point on a die: the link token, the s values, the entry freed (R153 to R155). -/
def Die.complete (x : Die) (q : QueueId) (e : QEntry) : Die :=
  let y := (x.linkComplete e).modQueue q fun l => l.filter fun b => b.no ≠ e.no
  { y with cox := y.cox.writeS e.no e.svals }

/-- The command of a queue at its completion point: it has written its result and passed its release point, no companion access is
outstanding, and every earlier CLOSE has completed (R155, R310). -/
def Device.completing (d : Device) (cd : Cd) (q : QueueId) : Option (Context × QEntry) :=
  match d.residentOf cd with
  | none => none
  | some c =>
    let x := d.dies[cd]
    if x.frozen || d.enginesHeld c || d.companionWait c cd q then none
    else (x.queues[q].find? fun e => e.started && e.done && e.released && !e.stopped && !(isClose q e &&
        (x.queues[q].any fun b => isClose q b && decide (b.no < e.no)))).map fun e => (c, e)

/-- The completion point of a command of a queue (R153 to R155). -/
def Device.completionPoint (d : Device) (cd : Cd) (q : QueueId) : Device :=
  match d.completing cd q with
  | none => d
  | some (c, e) => (d.modDie cd fun x => x.complete q e).postComplete c cd q e

/-- Commands that a WAITQ mask and issue bound name and that have not completed (R134). -/
def Die.waitedFor (x : Die) (mask : BitVec 6) (below : Nat) : List (QueueId × QEntry) :=
  (List.range 6).flatMap fun j =>
    if mask.getLsbD j then
      (slotQueues (j + 1)).flatMap fun q => (x.queues[q].filter fun e => decide (e.no < below)).map fun e => (q, e)
    else []

/-! ### Wait reasons (R160) -/

/-- Readouts of an MA routed to a consumer that hold their rows (R152). -/
def Die.rowsOf (x : Die) (ma : Nat) (ladle : Bool) : Option IntRows := x.intRows.find? fun r => r.ma.val == ma && r.ladle == ladle

/-- Stream sources of a Whisk command record that name an MA (R97). -/
def Die.whiskSources (x : Die) (e : QEntry) : List Nat :=
  let nin := bits (le (x.planBytes (x.recField e 4 4 + 3) 1)) 3 0
  (List.range nin).filterMap fun i =>
    let s := bits (x.recField e (0x20 + 64 * i) 8) 54 52
    if 1 ≤ s ∧ s ≤ 4 then some (s - 1) else none

/-- The arming under which the next first chunk of an MA would be sampled (R289). -/
def Die.samples (x : Die) (ma : MaNo) : Option SieveArm :=
  x.sieve.arms[ma].bind fun a => if a.counter % pow2 a.nlog = a.phase then some a else none

/-- A MOVE: kinds of its sides, lines, and the address, entry or store offset of each side. -/
structure MoveCmd where
  sk : Nat
  dk : Nat
  lines : Nat
  src : Nat
  dst : Nat

/-- The fields of a MOVE; g[ga] and g[gb] are added to addresses of kind 0, and whole aligned lines move (R218). -/
def Die.moveCmd (x : Die) (e : QEntry) : MoveCmd :=
  let sk := bits (x.recField e 1 1) 1 0
  let dk := bits (x.recField e 1 1) 3 2
  let side := fun (k off : Nat) (g : BitVec 64) =>
    let f := x.recField e off 8
    if k = 0 then lineOf (wrap52 (f % 2 ^ 52 + g.toNat)) else if k = 1 then f % 65536 else f % 2 ^ 26
  { sk := sk, dk := dk, lines := if cwImsel e.w = 0 then x.recField e 4 4 else e.imm.toNat,
    src := side sk 8 e.ga, dst := side dk 0x10 e.gb }

/-- Lines of a MOVE that it still has to move: a cut one has moved those of its restart offset (R197). -/
def MoveCmd.left (m : MoveCmd) (e : QEntry) : Nat := m.lines - e.progress.toNat / 64

/-- The delivered lines of an adapter entry, oldest first. -/
def Course.delivered (k : Course) (entry : Nat) : List (Nat × Nat × List Byte) := k.adIn.filter fun l => l.1 == entry

/-- A MOVE waits for delivered lines of the entry it takes from, or for room for the lines it stages (R215). -/
def Die.entryWait (x : Die) (e : QEntry) : Bool :=
  let m := x.moveCmd e
  (m.sk == 1 && decide ((x.course.delivered m.src).length < m.left e)) || (m.dk == 1 && decide (2048 < x.course.adOut.length + m.left e))

/-- What the oldest outstanding bucket of a position waits for: wait reason 0x07 or 0x0B, or 0 (R327). -/
def Device.ladleWait (d : Device) (c : Context) (cd : Cd) : Nat :=
  match c.reduce with
  | none => 0
  | some r =>
    let outs := (d.dies[cd].ladle.buckets.filter fun b => b.state == .outstanding).mergeSort fun a b => decide (a.closeNo ≤ b.closeNo)
    match outs.head? with
    | none => 0
    | some b => b.missing (c.node r (c.posOf cd))

/-- What the engine of a queue waits for at its head command (R160, R295); 0 for nothing. -/
def Device.engineWait (d : Device) (c : Context) (cd : Cd) (q : QueueId) (e : QEntry) : Nat :=
  let x := d.dies[cd]
  if h : q.val < 4 then
    let m := x.mas[(⟨q.val, h⟩ : Fin 4)]
    if cwOp e.w = 1 then
      if !(m.weights.any fun t => t.mixer == decide (x.recField e 1 1 % 16 ≠ 0)) then 3
      else if cwFlag e.w 0 && m.bufs[(if m.last = 0 then (1 : Fin 2) else 0)].state ≠ 0 then 4
      else if cwFlag e.w 0 && x.sieve.sample.isSome && (x.samples ⟨q.val, h⟩).isSome then 10 else 0
    else if cwOp e.w = 2 then
      if m.bufs.toList.all (·.state ≠ 2) then 5 else 0
    else 0
  else if q.val = 4 then
    if cwOp e.w == 1 && (x.whiskSources e).any fun m => (x.rowsOf m false).isNone then 9 else 0
  else if q.val = 5 then
    if cwOp e.w == 2 && x.queues[q].any fun b => b.started && !b.done then 6 else 0
  else if q.val ≤ 7 then
    if cwOp e.w ≠ 1 then 0
    else if c.gateWait cd e || c.postWait cd e then 7
    else if x.entryWait e then 6 else 0
  else if q.val = 10 then
    if cwOp e.w = 1 then
      let src := bits (x.recField e 1 1) 2 0
      if src ≠ 0 ∧ (x.rowsOf (src - 1) true).isNone then 9 else 0
    else if isClose q e ∧ 64 ≤ (x.ladle.buckets.filter fun b => b.state == .outstanding).length then d.ladleWait c cd else 0
  else 0

/-- A hop of the chain of waits: queue, reason, link or 0xFF (R160). -/
def Device.hop (d : Device) (c : Context) (cd : Cd) (q : QueueId) : Option (Nat × Nat) :=
  let x := d.dies[cd]
  match headOf x.queues[q] with
  | some e =>
    match x.linkWait e with
    | some (r, l) => some (r, l)
    | none => some (d.engineWait c cd q e, 0xFF)
  | none =>
    match oldestOf x.queues[q] with
    | none => none
    | some e =>
      if d.companionWait c cd q then some (8, 0xFF)
      else if e.done then some (0, 0xFF)
      else if q.val = 5 then some (6, 0xFF)
      else if q.val < 4 then some (9, 0xFF)
      else if isClose q e then some (d.ladleWait c cd, 0xFF)
      else some (0, 0xFF)

/-- The hops of a stall record (R160). -/
def Device.hops (d : Device) (c : Context) (cd : Cd) : Nat → QueueId → List (Nat × Nat × Nat)
  | 0, _ => []
  | n + 1, q =>
    match d.hop c cd q with
    | none => []
    | some (r, l) =>
      let x := d.dies[cd]
      let next : Option QueueId :=
        if r = 1 then (x.links[l]?).map fun k => idx 12 k.consumer
        else if r = 2 then (x.links[l]?).map fun k => idx 12 k.producer
        else if r = 3 then some 5
        else none
      (q.val, r, l) :: (match next with | none => [] | some q' => Device.hops d c cd n q')

/-- The half-tile that channel 0 reads next is gathered and waits for the gather counter, a sequence counter: its reads wait on Wyine (R205,
R222, R440). -/
def Course.gatherHeld (k : Course) : Bool := k.gatherAt.any fun o => !seqBefore (BitVec.ofNat 32 o) k.gather

/-- Kinds of external wait (R28). -/
inductive ExtWait where
  | wyine | companion
  deriving DecidableEq, Repr

/-- The queue of the MA whose rows a command waits for (R152). -/
def Die.rowSource (x : Die) (q : QueueId) (e : QEntry) : Option QueueId :=
  if q = 4 then ((x.whiskSources e).find? fun m => (x.rowsOf m false).isNone).map (idx 12)
  else if q = 10 ∧ 0 < bits (x.recField e 1 1) 2 0 then some (idx 12 ((bits (x.recField e 1 1) 2 0 - 1) % 4))
  else none

/-- What the engine of a queue waits for outside the plan, at its head command or at the command it runs: a Wyine arrival or companion
memory, at the end of the chain of the waits inside its CD (R28, R138, R160, R222, R327, R359; log entry 56). -/
def Device.outsideOf (d : Device) (c : Context) (cd : Cd) : Nat → QueueId → Option ExtWait
  | 0, _ => none
  | n + 1, q =>
    let x := d.dies[cd]
    let on := fun (q : Option QueueId) => q.bind fun q => Device.outsideOf d c cd n q
    match d.hop c cd q with
    | some (8, _) => some .companion
    | some (7, _) => some .wyine
    | some (0xB, _) => some .wyine
    | some (1, l) => on ((x.links[l]?).map fun k => idx 12 k.consumer)
    | some (2, l) => on ((x.links[l]?).map fun k => idx 12 k.producer)
    | some (3, _) => on (some 5)
    | some (6, _) => if q.val = 5 ∧ x.course.gatherHeld then some .wyine else none
    | some (9, _) => on ((headOf x.queues[q]).bind fun e => x.rowSource q e)
    | _ => none

/-- What some engine of a CD waits for outside the plan: channel 0 at a gathered half-tile first, then the queues in order. -/
def Device.outsideAt (d : Device) (c : Context) (cd : Cd) : Option ExtWait :=
  if d.dies[cd].course.gatherHeld then some .wyine else (List.finRange 12).findSome? fun q => d.outsideOf c cd 12 q

/-- Why the counter of a CD holds, when what makes the late CD late lies outside the plan (R205). -/
def Device.holdOutside (d : Device) (c : Context) (cd : Cd) : Option ExtWait :=
  (d.latePos c cd).bind fun pos => d.outsideAt c (c.cdAt pos)

/-- What the engine of a queue waits for outside the plan: on its own CD, or, where it waits on the Course, on the CD that holds the
counters (R28, R205). -/
def Device.outside (d : Device) (c : Context) (cd : Cd) (q : QueueId) : Option ExtWait :=
  match d.outsideOf c cd 12 q with
  | some w => some w
  | none => if (d.hop c cd q).any fun h => h.1 == 6 || h.1 == 3 then d.holdOutside c cd else none

/-- The command of a queue waits on a Wyine arrival or on companion memory (R138). -/
def Device.extWait (d : Device) (c : Context) (cd : Cd) (q : QueueId) (e : QEntry) : Bool :=
  if e.started then d.companionWait c cd q || (isClose q e && !e.done && d.ladleWait c cd != 0)
      || (q.val == 5 && !e.done && (d.dies[cd].course.gatherHeld || (d.holdOutside c cd).isSome))
  else (headOf d.dies[cd].queues[q]).any (fun h => h.no == e.no) && (d.outside c cd q).isSome

/-- The islands of a CD but its Cox, in ID order (R13). -/
def unitIsland (cd : Cd) (i : Fin 22) : BitVec 16 := (dieIslands cd.val cdUnits).getD (i.val + 1) 0

/-- The queue whose commands the unit of an island runs (R13, R146): the output stage has that of its MA, the Sieve that of the Scales. -/
def unitQueue (i : Fin 22) : Option QueueId :=
  if i.val < 4 then some (idx 12 i.val)
  else if i.val < 8 then some (idx 12 (i.val - 4))
  else if i.val < 15 then some (idx 12 (i.val - 4))
  else if i.val < 17 then some 11
  else none

/-- `n` cycles counted, with the wait they are spent in. -/
def UnitWait.count (w : UnitWait) (n : Nat) (course : Bool) (out : Option ExtWait) : UnitWait :=
  let v := BitVec.ofNat 64 n
  { cycles := w.cycles + v
    course := if course then w.course + v else w.course
    wyine := if out = some .wyine then w.wyine + v else w.wyine
    companion := if out = some .companion then w.companion + v else w.companion }

/-- The islands of a CD count the cycles of one reference period: of a run whose context is neither pre-empted nor held and whose resume
lead is over, channel 0 those in which the counter holds as a Course wait (R28, R205, R228, R450; log entry 56). -/
def Device.countDie (d : Device) (cd : Cd) (x : Die) : Die :=
  match d.residentOf cd with
  | none => x
  | some c =>
    if !(c.run.any (·.begun)) || x.frozen || d.enginesHeld c || d.inLead c cd then x
    else
      let late := (d.latePos c cd).isSome
      let tick := fun (i : Fin 22) (w : UnitWait) =>
        if d.islandRuns (unitIsland cd i) then
          let out := (unitQueue i).bind fun q => d.outside c cd q
          let chan := i.val == 9
          w.count (clockRatio (unitIsland cd i)) (chan && late) (if chan && late then out.orElse fun _ => d.holdOutside c cd else out)
        else w
      { x with waits := each tick x.waits }

/-- One period of the 25 MHz reference in which no command arrives: the cycle counters of the islands and the wait counts of the engines
(R14, R24, R28). -/
def Device.idle (d : Device) : Device := Device.tick { d with dies := each d.countDie d.dies }

/-! ### Rows of the table shared by every engine -/

/-- SYNC at the head of a queue: it does no work; its release and completion points are the cycle in which it starts (R150). -/
def Device.sync (d : Device) (cd : Cd) (q : QueueId) : Device :=
  match d.startable cd q 0x3F with
  | none => d
  | some (_, e) => d.modDie cd fun x => ((x.linkStart e).linkRelease e).complete q e

/-- SYNC. -/
def execSync (cd : Cd) (queue : Fin 12) (s : State) : Host.Outcome State Fault Refusal :=
  .next { s with dev := s.dev.sync cd queue }

/-- COMMAND_RELEASE_POINT. -/
def execCommandReleasePoint (cd : Cd) (queue : Fin 12) (s : State) : Host.Outcome State Fault Refusal :=
  .next { s with dev := s.dev.releasePoint cd queue }

end Sys2Proof.Machine
end

