-- ==== Sys2Proof/Machine/Course.lean ====
section
/-! DEFINITION. The Course: the schedule counter, READY and PAUSE flags, rounds, and lines on their hops (R198 to R216, R222,
R225 to R228). -/

namespace Sys2Proof.Machine

/-! ### Counters and flags (R202 to R205) -/

/-- A die's Course rewritten. -/
def Device.modCourse (d : Device) (cd : Cd) (f : Course → Course) : Device :=
  d.modDie cd fun x => { x with course := f x.course }

/-- The smallest round for which a READY flag is still missing at a CD. -/
def Course.flagsTo (k : Course) (m : Nat) : Nat := (List.range m).foldl (fun a p => min a k.flagNo[idx 16 p]) k.readyNo

/-- A counter value that the CD's counter may reach: it stops at start(q) - 1,024 until READY(q) is sent and at start(q) - 512
until every READY(q) has arrived (R205). -/
def Course.mayReach (k : Course) (p : Plan) (v : Nat) : Bool :=
  (match p.startOf k.readyNo with | some s => decide (v ≤ s - 1024) | none => true)
    && (match p.startOf (k.flagsTo p.m) with | some s => decide (v ≤ s - 512) | none => true)

/-- A round is not held back by a pause (R227). -/
def Course.notPaused (k : Course) (q : Nat) : Bool := match k.pause with | some p => decide (q < p) | none => true

/-- The run of a context has reached its dies. -/
def Context.runsNow (c : Context) : Bool := (c.run.map (·.begun)).getD false

/-- The CD awaits a START marker: its counter has not been set for this run, or a resume is due. -/
def Course.awaitsStart (k : Course) : Bool := k.counter.isNone || k.resume.isSome

/-- The counter of a position set at its START marker: 64h at run start, start(q) - 2,048 + 64h at a resume, whose lead then runs (R202,
R228). The wheel of each controller starts at position 0 (R212). -/
def Device.setCounter (d : Device) (c : Context) (p : Plan) (cd : Cd) : Device :=
  let h := hopDist p.m (c.posOf cd)
  let d1 := d.modCourse cd fun k =>
    match k.resume with
    | some q => { k with counter := some ((p.startOf q).getD 2048 - 2048 + 64 * h), round := q, readyNo := q,
                         flagNo := Vector.replicate 16 q, pause := none, resume := none, lead := (p.startOf q).map fun _ => q }
    | none => { k with counter := some (64 * h), round := 0, readyNo := 0, flagNo := Vector.replicate 16 0, pause := none, adDue := 0 }
  { d1 with lpcs := upd d1.lpcs cd fun v => each (fun _ l => { l with wheelPos := 0 }) v }

/-- Position 0 sends START when it awaits one: its own counter is set (R202, R228). -/
def Device.sendStart (d : Device) (c : Context) : Device :=
  match c.plan with
  | some p => if d.dies[c.cdAt 0].course.awaitsStart then d.setCounter c p (c.cdAt 0) else d
  | none => d

/-- The Courses of an arc made to resume at the round of the pause, or at the one that a restore has set (R228, R450). -/
def Device.resumeCourse (d : Device) (c : Context) : Device :=
  let k := d.dies[c.cdAt 0].course
  let q := k.pause.orElse fun _ => k.resume
  d.modArc c fun _ x => { x with course := { x.course with resume := if x.course.counter.isSome then q else none, adDue := 0 } }

/-- The partition of a context held by an episode resumes as after a restore: position 0 sends START, the counters are set under R228, and
each Cox goes on at its pc; a run that began in the episode starts (R228, R450, R451). A context that CONTEXT_SWITCH is taking out stays
paused, and its restore resumes it (R227, R387). -/
def Device.resumeRun (d : Device) (c : Context) : Device :=
  let free := fun (c : Context) => { c with held := false, resumeDue := false }
  if d.preempting c then d.modCtx c.slot free
  else
    let d1 := (d.resumeCourse c).modCtx c.slot free
    if c.resident && c.runsNow && c.cond != .faulted then d1.sendStart c else d1

/-- A Course that has come to stand still lets the resume go that waited for it (R451). -/
def Device.settle (d : Device) (cd : Cd) : Device :=
  match d.residentOf cd with
  | none => d
  | some c => if c.resumeDue && d.courseStill c then d.resumeRun c else d

/-- A START marker arrives at a position above 0 (R202, R228). -/
def Device.startMarker (d : Device) (cd : Cd) : Device :=
  match d.residentOf cd with
  | none => d
  | some c =>
    match c.plan with
    | none => d
    | some p =>
      if c.runsNow && d.dies[cd].course.awaitsStart && c.posOf cd != 0 && !d.dies[c.cdAt 0].course.awaitsStart
      then d.setCounter c p cd else d

/-- START_MARKER. -/
def execStartMarker (cd : Cd) (s : State) : Host.Outcome State Fault Refusal :=
  .next { s with dev := s.dev.startMarker cd }

/-- READY(q) is sent at counter value start(q) - 1,024 (R205). -/
def Device.readySend (d : Device) (cd : Cd) : Device :=
  match d.residentOf cd with
  | none => d
  | some c =>
    match c.plan with
    | none => d
    | some p =>
      let k := d.dies[cd].course
      match p.startOf k.readyNo with
      | none => d
      | some s =>
        let pos := c.posOf cd
        let reached := (match p.startOf (k.flagsTo p.m) with | some f => decide (s - 1024 ≤ f - 512) | none => true)
          && (match p.startOf k.round with | some f => decide (s - 1024 ≤ f) | none => true)
        if k.counter.isSome && k.resume.isNone && !d.dies[cd].frozen && reached && k.notPaused k.readyNo
            && k.ready p pos k.readyNo
        then d.modCourse cd fun k => { k with
          counter := some (max (k.counter.getD 0) (s - 1024)), readyNo := k.readyNo + 1, flagNo := k.flagNo.set (idx 16 pos) (k.readyNo + 1),
          adDue := k.adDue + p.delivers pos k.readyNo }
        else d

/-- READY_SEND. -/
def execReadySend (cd : Cd) (s : State) : Host.Outcome State Fault Refusal :=
  .next { s with dev := s.dev.readySend cd }

/-- The next READY flag of a position arrives (R205). -/
def Device.readyArrival (d : Device) (cd : Cd) (pos : Fin 16) : Device :=
  match d.residentOf cd with
  | none => d
  | some c =>
    let k := d.dies[cd].course
    if pos.val < c.m ∧ pos.val ≠ c.posOf cd ∧ k.counter.isSome ∧ k.flagNo[pos] < d.dies[c.cdAt pos.val].course.readyNo then
      d.modCourse cd fun k => { k with flagNo := k.flagNo.set pos (k.flagNo[pos] + 1) }
    else d

/-- READY_ARRIVAL. -/
def execReadyArrival (cd : Cd) (pos : Fin 16) (s : State) : Host.Outcome State Fault Refusal :=
  .next { s with dev := s.dev.readyArrival cd pos }

/-! ### Lines (R199 to R201, R207 to R209, R213) -/

/-- A line put on the link of a position in its direction of travel. -/
def Device.putLine (d : Device) (c : Context) (pos : Nat) (l : CLine) : Device :=
  match nextPos c.m pos l.cw with
  | none => d
  | some n => d.modCourse (c.cdAt n) fun k =>
    if l.cw then { k with inCw := k.inCw ++ [l] } else { k with inCcw := k.inCcw ++ [l] }

/-- Weight slot of line i of a tile on its h-th hop (R208, R209). -/
def weightSlot (m h i : Nat) : Nat := if m = 16 ∧ h = 8 then 1904 + i % 136 else 272 * (h - 1) + i

/-- Line i of a tile crosses hop h in a direction: at hop 8 of a ring half 0 travels clockwise and half 1 counter-clockwise (R208). -/
def crossesHop (m h i : Nat) (cw : Bool) : Bool :=
  if m = 16 then decide (h ≤ 7) || (h == 8 && (decide (i < 136)) == cw) else true

/-- The weight line of a tile for its next hop. -/
def Plan.weightLine (p : Plan) (owner round h i : Nat) (cw poisoned : Bool) (bs : List Byte) : CLine :=
  let mask := match p.phaseOf round with | some (f, _, _) => f.wmask | none => 0
  { adapter := false, owner := owner, round := round, line := i, entry := 0, cw := cw, hop := h
    lane := laneOf mask (weightSlot p.m h i), poisoned := poisoned, bytes := bs }

/-- The lines of an own tile put on both links (R208, R209). -/
def Device.emitTile (d : Device) (c : Context) (p : Plan) (pos q : Nat) (t : CTile) : Device :=
  t.lines.foldl (fun d (i, bs) =>
    (d.putLine c pos (p.weightLine pos q 1 i true false bs)).putLine c pos (p.weightLine pos q 1 i false false bs)) d

/-- The staged lines of an adapter entry depart (R213). -/
def Device.emitEntry (d : Device) (c : Context) (p : Plan) (cd : Cd) (q i : Nat) (a : AEntry) : Device :=
  let mask := match p.phaseOf q with | some (f, _, _) => f.amask | none => 0
  let mine := d.dies[cd].course.adOut.filter fun l => l.1 == i
  let lines := mine.take a.lines
  let d1 := lines.zipIdx.foldl (fun d ((_, _, bs), k) =>
    d.putLine c (c.posOf cd)
      { adapter := true, owner := a.src, round := q, line := k, entry := i, cw := !a.ccw, hop := 1,
        lane := laneOf mask (a.slot + k), poisoned := false, bytes := bs }) d
  d1.modCourse cd fun k => { k with adOut := (k.adOut.filter fun l => l.1 ≠ i) ++ mine.drop a.lines }

/-- Round q starts at a CD: its own tile, the lines that it forwards in this round, and its adapter entries depart; the places of
the tiles it receives are taken in receipt order, its own tile whole (R203, R207 to R211, R213). -/
def Device.startRound (d : Device) (c : Context) (p : Plan) (cd : Cd) (q s : Nat) : Device :=
  let k := d.dies[cd].course
  let pos := c.posOf cd
  let own := k.out.find? fun t => t.round == q
  let places := (p.receipts pos q).map fun (o, r) =>
    if o = pos then own.getD { owner := pos, round := q, lines := [] } else { owner := o, round := r, lines := [] }
  let now := k.fwd.filter fun l => l.round + l.hop - 1 == q
  let d1 := d.modCourse cd fun k => { k with
    counter := some (max (k.counter.getD 0) s), round := q + 1, lead := none, recv := k.recv ++ places,
    out := k.out.filter fun t => t.round ≠ q, fwd := k.fwd.filter fun l => l.round + l.hop - 1 ≠ q }
  let d2 := match own with | some t => d1.emitTile c p pos q t | none => d1
  let d3 := now.foldl (fun d l => d.putLine c pos l) d2
  (p.sends' pos q).foldl (fun d (i, a) => d.emitEntry c p cd q i a) d3

/-- The schedule counter reaches start(q) of the next round (R203, R205, R227). -/
def Device.roundStart (d : Device) (cd : Cd) : Device :=
  match d.residentOf cd with
  | none => d
  | some c =>
    match c.plan with
    | none => d
    | some p =>
      let k := d.dies[cd].course
      match p.startOf k.round with
      | none => d
      | some s =>
        if k.counter.isSome && k.resume.isNone && !d.dies[cd].frozen && k.mayReach p s && k.notPaused k.round
        then (d.startRound c p cd k.round s).settle cd else d

/-- ROUND_START. -/
def execRoundStart (cd : Cd) (s : State) : Host.Outcome State Fault Refusal :=
  .next { s with dev := s.dev.roundStart cd }

/-- Island of a Course port. -/
def coursePort (cd : Cd) (i : Nat) : BitVec 16 := cdIsland cd 9 i

/-- A corrected line: the port's threshold counter and its COURSE_CE event (R200, R376). -/
def Device.courseCe (d : Device) (cd : Cd) (i : Fin 2) : Device :=
  let p := d.cports[cd][i]
  let (n, hit) := p.ce.hit p.ceThr 1
  let d1 := d.modCport cd i fun p => { p with ce := n }
  if hit then d1.event .admin 0x91 (bytesLE 2 (coursePort cd i.val).toNat ++ zeros 2 ++ bytesLE 4 n.count.toNat) else d1

/-- An uncorrectable line: the COURSE_UE record, and the context is FAULTED (R200, R225). -/
def Device.courseUe (d : Device) (c : Context) (cd : Cd) (i cls lane round : Nat) : Device :=
  d.fault c (d.err (coursePort cd i) 8 1 c.tag none (cls + lane * 2 ^ 8 + round % 2 ^ 32 * 2 ^ 32))

/-- A line of a tile placed in its receive slot. -/
def CTile.put (t : CTile) (l : CLine) : CTile :=
  if t.owner = l.owner ∧ t.round = l.round then { t with lines := t.lines ++ [(l.line, l.bytes)] } else t

/-- A checked line delivered and forwarded (R200, R208, R209, R213). A poisoned line is forwarded and never placed. -/
def Device.deliverLine (d : Device) (c : Context) (p : Plan) (cd : Cd) (l : CLine) : Device :=
  let pos := c.posOf cd
  let on := { l with hop := l.hop + 1 }
  if l.adapter then
    match p.aentries[l.entry]? with
    | none => d
    | some a =>
      let here := a.deliver.getLsbD (l.hop - 1) && !l.poisoned
      let d1 := if here then d.modCourse cd fun k => { k with adIn := k.adIn ++ [(l.entry, l.line, l.bytes)], adDue := k.adDue - 1 } else d
      if l.hop < a.hops then d1.putLine c pos on else d1
  else
    let d1 := if l.poisoned then d else d.modCourse cd fun k => { k with recv := k.recv.map fun t => t.put l }
    let w := p.weightLine l.owner l.round (l.hop + 1) l.line l.cw l.poisoned l.bytes
    if !crossesHop p.m (l.hop + 1) l.line l.cw || (nextPos p.m pos l.cw).isNone then d1
    else if l.round + l.hop < d.dies[cd].course.round then d1.putLine c pos w
    else d1.modCourse cd fun k => { k with fwd := k.fwd ++ [w] }

/-- A Ladle line handed to the next position of its way: into the buffers of its receiver, or toward a further hop (R216). -/
def Device.hopLadle (d : Device) (c : Context) (pos : Nat) (l : LLine) : Device :=
  match nextPos c.m pos l.down with
  | none => d
  | some n =>
    d.modDie (c.cdAt n) fun x =>
      if n = l.dest then { x with ladle := { x.ladle with wire := x.ladle.wire ++ [l] } }
      else if l.down then { x with course := { x.course with passCw := x.course.passCw ++ [l] } }
      else { x with course := { x.course with passCcw := x.course.passCcw ++ [l] } }

/-- The check of a Ladle line at a port: a corrected line is counted; the first port that finds it uncorrectable writes the record and
marks it poisoned (R200, R225). -/
def Device.checkLadle (d : Device) (c : Context) (cd : Cd) (l : LLine) (check : LineCheck) : Device × LLine :=
  let i : Fin 2 := if l.down then 0 else 1
  match check with
  | .clean => (d, l)
  | .corrected => (d.courseCe cd i, l)
  | .uncorrectable =>
    (if l.poisoned then d else d.courseUe c cd i.val 3 l.lane (d.dies[cd].course.round - 1), { l with poisoned := true })

/-- The oldest Ladle line that passes a CD completes its hop: discarded in a FAULTED context, else checked and passed on in the same cycle
(R200, R216, R226). -/
def Device.passLadle (d : Device) (c : Context) (cd : Cd) (cw : Bool) (check : LineCheck) : Device :=
  let k := d.dies[cd].course
  match (if cw then k.passCw else k.passCcw) with
  | [] => d
  | l :: t =>
    let d0 := d.modCourse cd fun k => if cw then { k with passCw := t } else { k with passCcw := t }
    if d.dies[cd].frozen then d0
    else
      let (d1, l1) := d0.checkLadle c cd l check
      d1.hopLadle c (c.posOf cd) l1

/-- The oldest weight or adapter line of a side has completed its hop: the context is FAULTED and discards it, or the round in which it
crossed the hop has started (R199, R226). -/
def Device.lineDue (d : Device) (cd : Cd) (cw : Bool) : Option (CLine × List CLine) :=
  let k := d.dies[cd].course
  match (if cw then k.inCw else k.inCcw) with
  | [] => none
  | l :: t => if d.dies[cd].frozen || decide ((if l.adapter then l.round else l.round + l.hop - 1) < k.round) then some (l, t) else none

/-- The oldest line from one side completes its hop: it is discarded in a FAULTED context, waits for the round in which it crossed
the hop, and is checked, delivered and forwarded (R199, R200, R226). A Ladle line travels on lanes of its own: it passes when no weight
or adapter line is due. -/
def Device.lineArrival (d : Device) (cd : Cd) (cw : Bool) (check : LineCheck) : Device :=
  match d.residentOf cd with
  | none => d
  | some c =>
    match c.plan with
    | none => d
    | some p =>
      let step : Device := match d.lineDue cd cw with
        | none => d.passLadle c cd cw check
        | some (l, t) =>
          let d0 := d.modCourse cd fun k => if cw then { k with inCw := t } else { k with inCcw := t }
          let i : Fin 2 := if cw then 0 else 1
          if d.dies[cd].frozen then d0
          else
            match check with
            | .clean => d0.deliverLine c p cd l
            | .corrected => (d0.courseCe cd i).deliverLine c p cd l
            | .uncorrectable =>
              let d1 := if l.poisoned then d0
                else d0.courseUe c cd i.val (if l.adapter then 2 else 1) l.lane (if l.adapter then l.round else l.round + l.hop - 1)
              d1.deliverLine c p cd { l with poisoned := true }
      step.settle cd

/-- COURSE_LINE_ARRIVAL. -/
def execCourseLineArrival (cd : Cd) (clockwise : Bool) (check : LineCheck) (s : State) : Host.Outcome State Fault Refusal :=
  .next { s with dev := s.dev.lineArrival cd clockwise check }

/-! ### Pauses (R227, R228) -/

/-- The first round whose start lies at least 1,536 cycles beyond the counter of position 0 (R227). -/
def Plan.pauseRound (p : Plan) (counter : Nat) : Nat :=
  ((List.range p.roundCount).find? fun q => match p.startOf q with | some s => decide (counter + 1536 ≤ s) | none => false).getD
    p.roundCount

/-- Position 0 chooses q and sends PAUSE(q), unless a pause is in force or a START is awaited; a one-CD arc has no Course (R227, R387). -/
def Device.sendPause (d : Device) (c : Context) : Device :=
  match c.plan with
  | none => d
  | some p => if c.m = 1 then d else d.modCourse (c.cdAt 0) fun k =>
    match k.counter, k.pause, k.resume with
    | some v, none, none => { k with pause := some (p.pauseRound v) }
    | _, _, _ => k

/-- PAUSE(q) arrives: it is the round that position 0 has chosen. It does not pass the START that position 0 sent before it (R227, R228). -/
def Device.pauseArrival (d : Device) (cd : Cd) (q : Nat) : Device :=
  match d.residentOf cd with
  | none => d
  | some c =>
    if d.dies[c.cdAt 0].course.pause = some q ∧ !d.dies[cd].course.awaitsStart then (d.modCourse cd fun k => { k with pause := some q }).settle cd else d

/-- PAUSE_ARRIVAL. -/
def execPauseArrival (cd : Cd) (round : Nat) (s : State) : Host.Outcome State Fault Refusal :=
  .next { s with dev := s.dev.pauseArrival cd round }

/-! ### Share reads (R207, R222) -/

/-- Field of a share-list entry: half 0 or 1. -/
def shareHalf (entry : List Byte) (h : Nat) : Nat := field entry (8 * h) 8

/-- Line i of the tile of a share-list index: the list is read under the Pantry, then the line (R207, R179). The answer of a
failure is the code and the line. -/
def Device.shareLine (d : Device) (c : Context) (cd : Cd) (base idx i : Nat) : Except (Nat × Nat) (Nat × Bool) :=
  match d.readBytes c cd .tongs (base + 16 * idx) 16 with
  | .error e => .error e
  | .ok e =>
    let h := shareHalf e (i / 136)
    .ok (wrap52 (h % 2 ^ 52 + 64 * (i % 136)), bits h 52 52 == 1)

/-- Gathered half-tiles before a half-tile of a list (R222). -/
def Device.gatherOrdinal (d : Device) (c : Context) (cd : Cd) (base idx half : Nat) : Nat :=
  ((List.range (2 * idx + half)).filter fun j =>
    match d.readBytes c cd .tongs (base + 16 * (j / 2)) 16 with
    | .ok e => bits (shareHalf e (j % 2)) 52 52 == 1
    | .error _ => false).length

end Sys2Proof.Machine
end

