-- ==== Sys2Proof/Machine/Packets.lean ====
section
/-! DEFINITION. Transport packets: the header line, its fields, and the waiting lines of a port (R343, R351, R435). -/

namespace Sys2Proof

open Sys2Proof.Machine

/-- Class of a packet. -/
def Packet.cls (p : Packet) : Nat := field p.header 1 1
/-- Kind. -/
def Packet.kind (p : Packet) : Nat := field p.header 2 1
/-- Payload lines named. -/
def Packet.nlines (p : Packet) : Nat := field p.header 3 1
/-- Job. -/
def Packet.job (p : Packet) : Nat := field p.header 4 4
/-- Epoch. -/
def Packet.epoch (p : Packet) : Nat := field p.header 8 4
/-- Sender's module rank. -/
def Packet.src (p : Packet) : Nat := field p.header 0xC 2
/-- Receiver's module rank. -/
def Packet.dst (p : Packet) : Nat := field p.header 0xE 2
/-- Destination arc position. -/
def Packet.pos (p : Packet) : Nat := field p.header 0x10 1
/-- Destination stream. -/
def Packet.stream (p : Packet) : Nat := field p.header 0x11 1
/-- Message sequence. -/
def Packet.mseq (p : Packet) : Nat := field p.header 0x14 4
/-- First line within the message. -/
def Packet.poff (p : Packet) : Nat := field p.header 0x18 4
/-- Lines of the message. -/
def Packet.mlines (p : Packet) : Nat := field p.header 0x1C 4
/-- Destination of payload line 0. -/
def Packet.dpa (p : Packet) : Nat := field p.header 0x20 8
/-- The aux bytes. -/
def Packet.aux (p : Packet) : List Byte := (p.header.drop 0x28).take 16

end Sys2Proof

namespace Sys2Proof.Machine

/-- The header line of a packet of transport version 1. -/
def packetHeader (cls kind lines job epoch src dst pos stream mseq poff mlines dpa : Nat) (aux : List Byte) : List Byte :=
  bytesLE 1 5 ++ bytesLE 1 cls ++ bytesLE 1 kind ++ bytesLE 1 lines ++ bytesLE 4 job ++ bytesLE 4 epoch ++ bytesLE 2 src
    ++ bytesLE 2 dst ++ bytesLE 1 pos ++ bytesLE 1 stream ++ zeros 2 ++ bytesLE 4 mseq ++ bytesLE 4 poff ++ bytesLE 4 mlines
    ++ bytesLE 8 dpa ++ pad 16 aux ++ zeros 8

/-- Payload lines that follow a header line on the link; a reserved count has none. -/
def headerLines (h : List Byte) : Nat := if field h 3 1 ≤ 64 then field h 3 1 else 0

/-- Direction bit of a class 2 packet header: the kind byte of its aux (R343, R436). -/
def headerDown (h : List Byte) : Bool := bits (field h 0x2F 1) 2 2 == 1

/-- Directions of some whole packets of class 2, line by line. -/
def lineDirs : Nat → List (List Byte) → List Bool
  | 0, _ => []
  | _, [] => []
  | fuel + 1, h :: t => List.replicate (1 + min (headerLines h) t.length) (headerDown h) ++ lineDirs fuel (t.drop (headerLines h))

/-- Directions of the lines of class 2 that wait at a port: the rest of the packet in progress, then the packets behind it. -/
def Port.c2Waiting (x : Port) : List Bool :=
  match x.txPart[(2 : Fin 5)] with
  | some (h, n) => List.replicate n (headerDown h) ++ lineDirs x.tx[(2 : Fin 5)].length (x.tx[(2 : Fin 5)].drop n)
  | none => lineDirs x.tx[(2 : Fin 5)].length x.tx[(2 : Fin 5)]

/-- Lines of each half of a C2 buffer (R433). -/
def c2Half : Nat := 1024

/-- Lines that a half of the partner's C2 buffer can still take beyond those that it may hold and those that wait for it (R436). -/
def Port.c2Room (x : Port) (down : Bool) : Nat := c2Half - ((x.c2Out ++ x.c2Waiting).filter (· == down)).length

/-- Lines put behind the waiting lines of a class of a port. -/
def Device.sendLines (d : Device) (p : PortNo) (cls : Fin 5) (ls : List (List Byte)) : Device :=
  d.modPort p fun x => { x with tx := upd x.tx cls fun t => t ++ ls }

/-- Lines of a class that a port has consumed: their buffer space is freed and owed as credit (R342). -/
def Device.freeLines (d : Device) (p : PortNo) (cls : Fin 5) (n : Nat) : Device :=
  d.modPort p fun x => { x with
    rxHeld := upd x.rxHeld cls fun h => h - n
    freed := upd x.freed cls fun f => f + n }

/-- Lines of a half of a C2 buffer freed: of the down half, or of the up half (R342, R436). -/
def Device.freeC2 (d : Device) (p : PortNo) (down : Bool) (n : Nat) : Device :=
  (d.freeLines p 2 n).modPort p fun x => if down then { x with c2Down := x.c2Down - n } else { x with c2Up := x.c2Up - n }

/-- The credit of a context's C2 lines is withheld: it is FAULTED, it pauses, or it is saved (R326, R330, R354). -/
def Context.withholds (c : Context) : Bool := !c.resident || c.pausing || c.cond == .faulted

/-- Lines of a half of a C2 buffer consumed for a context; their credit may be withheld. -/
def Device.consumeC2 (d : Device) (c : Context) (p : PortNo) (down : Bool) (n : Nat) : Device :=
  if c.withholds then d.modPort p fun x => { x with withheld := x.withheld ++ [(c.tag, down, n)] } else d.freeC2 p down n

/-- The withheld credit of a context returns. -/
def Device.releaseCredit (d : Device) (tag : BitVec 16) : Device :=
  (List.finRange 16).foldl (fun d p =>
    (d.ports[p].withheld.filter fun w => w.1 == tag).foldl (fun (d : Device) w => d.freeC2 p w.2.1 w.2.2)
      (d.modPort p fun x => { x with withheld := x.withheld.filter fun w => w.1 != tag })) d

/-- The waiting lines of a class without the packets whose header is to go; the lines of a packet in progress stay (R326, R351). -/
def dropPackets (gone : List Byte → Bool) : Nat → List (List Byte) → List (List Byte)
  | 0, ls => ls
  | _, [] => []
  | fuel + 1, h :: t =>
    let n := headerLines h
    if gone h then dropPackets gone fuel (t.drop n) else h :: t.take n ++ dropPackets gone fuel (t.drop n)

/-- Packets of a class taken out of the waiting lines of a port. -/
def Port.dropWaiting (x : Port) (cls : Fin 5) (gone : List Byte → Bool) : Port :=
  let rest := ((x.txPart[cls]).map (·.2)).getD 0
  { x with
    tx := upd x.tx cls fun ls => ls.take rest ++ dropPackets gone ls.length (ls.drop rest)
    c2Wait := if cls = 2 then dropPackets gone x.c2Wait.length x.c2Wait else x.c2Wait }

/-- A NAK enters the queue of 64, or is counted as dropped (R435). -/
def Port.pushNak (x : Port) (h : List Byte) : Port :=
  if x.nakQueue.length < 64 then { x with nakQueue := x.nakQueue ++ [{ header := h, payload := [] }] } else { x with nakDrop := x.nakDrop.add 1 }

/-- Destination stream of a send entry. -/
def SendEntry.dest (e : SendEntry) : MsgDest := { peer := e.peer.toNat, pos := e.pos, stream := e.stream }

/-- The module rank of a context, 0 without a reduction configuration (R303). -/
def Context.rank (c : Context) : Nat := (c.reduce.map (·.rank)).getD 0

/-- The route to a peer (R344). -/
def Context.routeTo (c : Context) (peer : Nat) : Option Route := c.routes.find? fun r => r.peer.toNat == peer

/-- A context has been reset or destroyed, or its reset has begun, and its routes answer CONTEXT_GONE (R355, R421). -/
def Device.isGone (d : Device) (tag : BitVec 16) : Bool := d.gone.any fun g => g.tag == tag

/-! ### The upper tree of a context (R302) -/

/-- The part of the tree that a fabric die holds for a context: module rank k, modules M, levels above c held, H. -/
structure FdNode where
  k : Nat
  modules : Nat
  c : Nat
  top : Nat
  h : Nat
  m : Nat
  root : Bool

/-- The node of a context's tree FD. -/
def Context.fdNode (c : Context) (r : ReduceConfig) : FdNode :=
  let h := ceilLog2 (r.modules * c.m)
  { k := r.rank, modules := r.modules, c := c.logM, h := h, m := c.m,
    top := c.logM + (if r.rank = 0 then h - c.logM else min (tz r.rank) (h - c.logM)), root := r.rank == 0 }

/-- Module whose payload of a level arrives here over Wyine (R302). -/
def FdNode.child (n : FdNode) (level : Nat) : Option Nat :=
  let k := n.k + pow2 (level - 1 - n.c)
  if n.c < level ∧ level ≤ n.top ∧ k < n.modules then some k else none

/-- Module of the parent of the highest node held. -/
def FdNode.parent (n : FdNode) : Option Nat := if n.root then none else some (n.k - pow2 (n.top - n.c))

end Sys2Proof.Machine
end

