-- ==== Sys2Proof/Machine/Digests.lean ====
section
/-! DEFINITION. The checksums of the spec: CRC-32C and CRC-64/ECMA-182 (R163, R236, R323, R383). -/

namespace Sys2Proof.Machine

/-- Eight steps of a reflected CRC. -/
def crcBitsDown (poly : Nat) : Nat → Nat → Nat
  | 0, c => c
  | n + 1, c => crcBitsDown poly n (if c % 2 = 1 then (c >>> 1) ^^^ poly else c >>> 1)

/-- CRC-32C, continued from a register value over bytes (log entry 10). -/
def crc32cFrom (c : Nat) (bs : List Byte) : Nat :=
  bs.foldl (fun c b => crcBitsDown 0x82F63B78 8 (c ^^^ b.toNat)) c

/-- CRC-32C of a byte string: reflected, initial value and final exclusive-or all ones (log entry 10). -/
def crc32c (bs : List Byte) : Nat := crc32cFrom 0xFFFFFFFF bs ^^^ 0xFFFFFFFF

/-- Eight steps of a CRC-64 that shifts up. -/
def crcBitsUp (poly : Nat) : Nat → Nat → Nat
  | 0, c => c
  | n + 1, c => crcBitsUp poly n (if c >>> 63 = 1 then ((c <<< 1) % 2 ^ 64) ^^^ poly else c <<< 1)

/-- CRC-64 with the ECMA-182 polynomial, most significant bit first, continued from a register value. -/
def crc64From (c : Nat) (bs : List Byte) : Nat :=
  bs.foldl (fun c b => crcBitsUp 0x42F0E1EBA9EA3693 8 (c ^^^ (b.toNat <<< 56))) c

end Sys2Proof.Machine
end

