-- ==== Sys2Proof/Machine/Matrix.lean ====
section
/-! DEFINITION. The matrix arrays: CHUNK, the commit of a tile, READOUT and what the Sieve takes from them (R57 to R88, R151,
R152, R289 to R291, R296). -/

namespace Sys2Proof.Machine

/-! ### Rows of memory -/

/-- Lines that a run of bytes touches. -/
def linesOf (a n : Nat) : Nat := if n = 0 then 0 else (a + n - 1) / 64 - a / 64 + 1

/-- Runs of bytes read in order; a failure gives the code, the line and the bytes of lines read before it (R193). -/
def Device.readRows (d : Device) (c : Context) (cd : Cd) (r : Requester) :
    List (Nat × Nat) → Nat → Except (Nat × Nat × Nat) (List (List Byte))
  | [], _ => .ok []
  | (a, n) :: t, lines =>
    match d.readBytes c cd r a n with
    | .error (e, l) => .error (e, l, 64 * lines + (l - lineOf a))
    | .ok bs =>
      match Device.readRows d c cd r t (lines + linesOf a n) with
      | .error e => .error e
      | .ok rest => .ok (bs :: rest)

/-- Element codes of a run of bytes in a byte-wide or 2-byte format. -/
def codesOf (f : Fmt) (bs : List Byte) (n : Nat) : List Nat :=
  (List.range n).map fun i => if f.width = 8 then field bs i 1 else field bs (2 * i) 2

/-- A non-finite value as the intake counts it (R54). -/
def intakeMeet : Val → Option Meet
  | .nan => some .nanIn
  | .inf _ => some .infIn
  | .fin _ _ _ => none

/-! ### Operand pairs (R58) -/

/-- The format may be streamed into an MA. -/
def streamable : Fmt → Bool
  | .bf16 | .fp16 | .e4m3 | .e5m2 | .int8 => true
  | _ => false

/-- The format is a 16-bit floating-point format. -/
def wideFloat : Fmt → Bool
  | .bf16 | .fp16 => true
  | _ => false

/-- Chunk depth of an operand pair; none for a refused pair. -/
def pairDepth (sta str : Fmt) : Option Nat :=
  if !streamable str then none
  else if !(streamable sta || sta == .q4) then none
  else if wideFloat sta || wideFloat str then some 128 else some 256

/-! ### CHUNK -/

/-- A fault of an MA of class 0x03 or 0x02 (R30, R85). -/
def Device.maFault (d : Device) (c : Context) (isl : BitVec 16) (cls code detail : Nat) : Engine :=
  .stopped (d.fault c (d.err isl cls code c.tag none detail))

/-- Fields of a CHUNK command (R151). -/
structure ChunkCmd where
  pair : Nat
  anchor : BitVec 10
  m : Nat
  k : Nat
  src : Nat
  stride : Nat
  tileId : BitVec 32
  first : Bool
  last : Bool

/-- The fields of a CHUNK from its word, its captured values and its record. -/
def Die.chunkCmd (x : Die) (e : QEntry) : ChunkCmd where
  pair := x.recField e 1 1
  anchor := BitVec.ofNat 10 (if cwFlag e.w 2 then e.gb.toNat else x.recField e 2 2)
  m := x.recField e 4 1 + 1
  k := (if cwImsel e.w = 0 then x.recField e 5 1 else e.imm.toNat) + 1
  src := x.recAddr e 8
  stride := x.recField e 0x10 4
  tileId := BitVec.ofNat 32 (x.recField e 0x14 4)
  first := cwFlag e.w 0
  last := cwFlag e.w 1

/-- The sums of one chunk added to the elements of a tile (R62, R66 to R68): the elements, products rounded, elements saturated. -/
def chunkSums (e0 : Int) (m k : Nat) (elems : List AccElem) (sta : Array Val) (rows : List (List Val)) :
    List AccElem × Nat × Nat :=
  let es := elems.toArray
  let rs := (rows.map List.toArray).toArray
  let out := (List.range (m * 128)).map fun n =>
    let i := n / 128
    let j := n % 128
    let row := rs.getD i #[]
    let qs := (List.range k).map fun kk => (row.getD kk (.fin false 0 0)).mul (sta.getD (kk * 128 + j) (.fin false 0 0))
    (es.getD n {}).addChunk e0 qs
  (out.map (·.1), (out.map (·.2.1)).sum, (out.filter (·.2.2)).length)

/-- Bytes that a captured stationary tile takes in the shadow store (R291). -/
def WTile.bytes (t : WTile) : Nat := if t.mixer then t.k * 256 else t.k * 64 + t.scales.length * 2

/-- The Sieve's share of a chunk: a first chunk advances the MA's tile counter and may open the sample (R289, R291). -/
def Sieve.firstChunk (v : Sieve) (ma : MaNo) (cmd : ChunkCmd) (hit : Option SieveArm) : Sieve :=
  match v.arms[ma] with
  | none => v
  | some a =>
    let v1 := { v with arms := v.arms.set ma (some { a with counter := a.counter + 1 }) }
    match hit with
    | none => v1
    | some h =>
      let s : Sample := { ma := ma, j := h.counter, tileId := cmd.tileId, rows := cmd.m, chunks := [], bytes := 0, arm := h }
      { v1 with sample := some s }

/-- One captured chunk added to the sample; beyond 16 MiB the sample is abandoned (R291). -/
def Sieve.capture (v : Sieve) (c : CapChunk) : Sieve :=
  match v.sample with
  | none => v
  | some s =>
    let n := s.bytes + c.tile.bytes + 2 * s.rows * c.k
    if 2 ^ 24 < n then { v with sample := none, oversize := v.oversize.add 1 }
    else { v with sample := some { s with chunks := s.chunks ++ [c], bytes := n } }

/-- K index of the next captured chunk: the sum of the K of the chunks captured before it. -/
def Sample.kDone (s : Sample) : Nat := (s.chunks.map (·.k)).sum

/-- The wide rows of a chunk: the streamed operand itself when it is BF16 or FP16, else the wide source (R290). -/
def Device.wideRows (d : Device) (c : Context) (cd : Cd) (s : Sample) (cmd : ChunkCmd) (str : Fmt) (codes : List (List Nat)) :
    Except (Nat × Nat × Nat) (List (List Nat)) :=
  if wideFloat str then .ok codes
  else
    let runs := (List.range cmd.m).map fun i =>
      (wrap52 (s.arm.area.toNat + i * s.arm.wstride.toNat + 2 * s.kDone), 2 * cmd.k)
    match d.readRows c cd .telemetry runs 0 with
    | .error e => .error e
    | .ok rows => .ok (rows.map fun r => codesOf .bf16 r cmd.k)

/-- The capture of a chunk of the sampled tile; a wide-source line outside the own bonded SRAM stops the sample (R290, R291). -/
def Device.captureChunk (d : Device) (c : Context) (cd : Cd) (ma : MaNo) (cmd : ChunkCmd) (t : WTile) (staCode : Nat) (str : Fmt)
    (codes : List (List Nat)) : Device :=
  match d.dies[cd].sieve.sample with
  | none => d
  | some s =>
    if s.ma ≠ ma ∨ s.readout.isSome then d
    else match d.wideRows c cd s cmd str codes with
      | .error (e, l, done) =>
        let d1 := d.modDie cd fun x => { x with sieve := { x.sieve with sample := none } }
        if e = eTarget ∨ e = eUnmapped then
          d1.fault c (d1.err (cdIsland cd 8 0) 10 2 c.tag none (ma.val + s.j * 2 ^ 32))
        else d1.memFault c (cdIsland cd 8 0) e l done false 0 0
      | .ok rows =>
        let cc : CapChunk := { k := cmd.k, wide := rows.map fun r => r.map (BitVec.ofNat 16), fp16 := str == .fp16,
                               tile := t, staFmt := staCode }
        d.modDie cd fun x => { x with sieve := x.sieve.capture cc }

/-- What a CHUNK leaves in its MA (R65, R67, R72, R73). A last chunk takes its buffer's place in the order of hand-over; a tile that opens
the sample is the only one so marked on its MA. -/
def Ma.chunkDone (m : Ma) (buf : Fin 2) (cmd : ChunkCmd) (used : WTile) (elems : List AccElem) (under sat : Nat) (sampled : Bool) : Ma :=
  let t0 : Tile := if cmd.first then
    { pair := BitVec.ofNat 8 cmd.pair, anchor := cmd.anchor, rows := BitVec.ofNat 8 (cmd.m - 1), tileId := cmd.tileId,
      sampled := sampled } else m.bufs[buf]
  let uw := t0.uwCount.toNat + under
  let t1 : Tile := { t0 with
    state := 1
    elems := elems
    chunks := satAdd32 t0.chunks 1
    uwCount := satAdd32 t0.uwCount under
    uwOvf := t0.uwOvf || decide (2 ^ 32 ≤ uw)
    wovFlag := t0.wovFlag || decide (0 < sat)
    wovCount := BitVec.ofNat 16 (t0.wovCount.toNat + sat)
    lastDone := t0.lastDone || cmd.last
    order := if cmd.last then m.order else t0.order }
  let bufs := if sampled then each (fun _ t => { t with sampled := false }) m.bufs else m.bufs
  { m with bufs := bufs.set buf t1, last := buf, weights := m.weights.erase used, order := if cmd.last then m.order + 1 else m.order }

/-- The oldest tile that a CHUNK of a stationary format uses: a channel-0 tile for Q4, else a Mixer tile (R245). -/
def Ma.tileFor (m : Ma) (sta : Fmt) : Option WTile := m.weights.find? fun t => t.mixer == (sta != .q4)

/-- CHUNK: one K chunk accumulated (R57, R62, R72, R151). Of several errors of R85 that hold at once it reports the first in the order
below (log entry 60). Only the chunks of the sampled tile are captured (R291). -/
def chunkEngine (cd : Cd) (ma : MaNo) (d : Device) (c : Context) (e : QEntry) : Engine :=
  let x := d.dies[cd]
  let m := x.mas[ma]
  let cmd := x.chunkCmd e
  let isl := cdIsland cd 1 ma.val
  match fmtOf (bits cmd.pair 3 0), fmtOf (bits cmd.pair 7 4) with
  | some sta, some str =>
    match m.tileFor sta with
    | none => .wait
    | some t =>
      let buf : Fin 2 := if cmd.first then (if m.last = 0 then 1 else 0) else m.last
      let tile := m.bufs[buf]
      let hit := if cmd.first then x.samples ma else none
      if cmd.first && tile.state ≠ 0 then .wait
      else if hit.isSome && x.sieve.sample.isSome then .wait
      else match pairDepth sta str with
        | none => d.maFault c isl 2 2 (bits cmd.pair 3 0 + bits cmd.pair 7 4 * 16)
        | some depth =>
          if cmd.k = 0 ∨ depth < cmd.k ∨ (sta = .q4 ∧ cmd.k % 64 ≠ 0) then d.maFault c isl 3 6 cmd.k
          else if !cmd.first && tile.state ≠ 1 then d.maFault c isl 3 4 tile.state.toNat
          else if !cmd.first && cmd.anchor != tile.anchor then
            d.maFault c isl 3 1 (tile.anchor.toNat + cmd.anchor.toNat * 2 ^ 16)
          else if !cmd.first && cmd.pair ≠ tile.pair.toNat then d.maFault c isl 3 2 (tile.pair.toNat + cmd.pair * 256)
          else if !cmd.first && cmd.m ≠ tile.rows.toNat + 1 then d.maFault c isl 3 3 (tile.rows.toNat + (cmd.m - 1) * 256)
          else
            let n := cmd.k * str.width / 8
            match d.readRows c cd .ma ((List.range cmd.m).map fun i => (wrap52 (cmd.src + i * cmd.stride), n)) 0 with
            | .error (er, l, done) => .stopped (d.memFault c isl er l done false 0 0)
            | .ok rows =>
              let codes := rows.map fun r => codesOf str r cmd.k
              let vals := codes.map fun r => r.map str.decode
              let staV := t.values sta cmd.k
              let (elems, under, sat) := chunkSums (cmd.anchor.toInt - 74) cmd.m cmd.k
                (if cmd.first then [] else tile.elems) staV vals
              let meets := (vals.flatten.map intakeMeet) ++ t.meets sta cmd.k
              let d1 := d.modDie cd fun x => { x with
                mas := upd x.mas ma fun m => m.chunkDone buf cmd t elems under sat hit.isSome
                tally := x.tally.notes meets
                sieve := if cmd.first then x.sieve.firstChunk ma cmd hit else x.sieve }
              .ran (if (if cmd.first then hit.isSome else tile.sampled) then d1.captureChunk c cd ma cmd t (bits cmd.pair 3 0) str codes else d1) [] true
  | _, _ => d.maFault c isl 2 1 (if (fmtOf (bits cmd.pair 3 0)).isNone then bits cmd.pair 3 0 else bits cmd.pair 7 4)

/-- CHUNK. -/
def execChunk (cd : Cd) (ma : MaNo) (s : State) : Host.Outcome State Fault Refusal :=
  .next { s with dev := s.dev.startHead cd (idx 12 ma.val) 1 (chunkEngine cd ma) }

/-! ### The commit of a tile (R72) -/

/-- The buffer of a kind whose last chunk came first. -/
def Ma.oldest (m : Ma) (p : Tile → Bool) : Option (Fin 2) :=
  match p m.bufs[0], p m.bufs[1] with
  | false, false => none
  | true, false => some 0
  | false, true => some 1
  | true, true => some (if m.bufs[0].order ≤ m.bufs[1].order then 0 else 1)

/-- The last chunk's sums of the tile are formed and wait for their commit. -/
def Tile.formed (t : Tile) : Bool := t.lastDone && t.state == 1

/-- The oldest tile whose last chunk's sums are formed passes to state 2. -/
def Ma.commit (m : Ma) : Ma :=
  match m.oldest Tile.formed with
  | none => m
  | some b => { m with bufs := upd m.bufs b fun t => { t with state := 2, lastDone := false } }

/-- LAST_CHUNK_COMMIT. -/
def execLastChunkCommit (cd : Cd) (ma : MaNo) (s : State) : Host.Outcome State Fault Refusal :=
  .next { s with dev := s.dev.modDie cd fun x => x.modMa ma Ma.commit }

/-! ### READOUT (R74 to R84, R151, R152) -/

/-- The oldest buffer awaiting readout. -/
def Ma.oldestReady (m : Ma) : Option (Fin 2) := m.oldest fun t => t.state == 2

/-- The counts of a tile that enters readout, added to the context's counters (R84, R296). -/
def Sieve.windowCounts (v : Sieve) (t : Tile) : Sieve :=
  let r := satAdd64 v.uwTotal v.uwTotalOvf t.uwCount.toNat
  { v with
    uwTotal := r.1, uwTotalOvf := r.2
    uwSat := v.uwSat.add (if t.uwOvf then 1 else 0)
    wovTiles := v.wovTiles.add (if t.wovFlag then 1 else 0)
    wovElems := v.wovElems.add t.wovCount.toNat }

/-- One stage value handed to a tap accumulator (R288). -/
def TapAcc.take (a : TapAcc) (v : Val) : TapAcc :=
  match v with
  | .fin _ _ _ => { a with sum := a.sum.addSq v.dy, count := a.count.add 1 }
  | _ => { a with nonfinite := true }

/-- The stage values of rows of a readout handed to the accumulator that the MA is armed for; its last rows use one of the readouts armed
(R288). -/
def Die.tap (x : Die) (ma : MaNo) (vs : List Val) (last : Bool) : Die :=
  let m := x.mas[ma]
  if m.tapLeft = 0 then x
  else
    { x with
      mas := if last then upd x.mas ma fun m => { m with tapLeft := m.tapLeft - 1 } else x.mas
      sieve := { x.sieve with taps := upd x.sieve.taps m.tapAcc fun a => vs.foldl TapAcc.take a } }

/-- The values that a readout has written join the sample of its tile; beyond 16 MiB the sample is abandoned (R291). -/
def Sieve.sampleReadout (v : Sieve) (t : Tile) (ma : MaNo) (p : OutParams) (ys : List Val) (bytes : Nat) : Sieve :=
  match v.sample with
  | none => v
  | some s =>
    if s.ma ≠ ma ∨ !t.sampled then v
    else if 2 ^ 24 < s.bytes + bytes then { v with sample := none, oversize := v.oversize.add 1 }
    else { v with sample := some { s with readout := some (p, ys), bytes := s.bytes + bytes } }

/-- Values that a readout has written before a stop point kept with the sample of its tile. -/
def Sieve.samplePart (v : Sieve) (t : Tile) (ma : MaNo) (ys : List Val) (adds : List (List Val)) : Sieve :=
  match v.sample with
  | none => v
  | some s => if s.ma ≠ ma ∨ !t.sampled then v else { v with sample := some { s with vals := s.vals ++ ys, adds := s.adds ++ adds } }

/-- Values and addend rows kept with the sample of a tile. -/
def Sieve.partOf (v : Sieve) (t : Tile) (ma : MaNo) : List Val × List (List Val) :=
  match v.sample with
  | some s => if s.ma = ma ∧ t.sampled then (s.vals, s.adds) else ([], [])
  | none => ([], [])

/-- A saturating value: larger than every format's largest finite value (R77). -/
def hugeVal (neg : Bool) : Val := .fin neg 1 2000

/-- What the output stage narrows for an element: the stage value, or a saturating value for an element with its V flag set
(R77). -/
def OutParams.outOf (p : OutParams) (t : Tile) (x : AccElem) (i j : Nat) : Val :=
  if x.ovf then hugeVal (decide (x.v.toInt < 0)) else p.stageOf (x.val t.anchor.toInt) x.s i j

/-- A row narrowed into a format other than SB16: bytes, values written, what was met. -/
def narrowRow (f : Fmt) (rs : Nat → Option Rounding) (vs : List Val) : List Byte × List Val × List (Option Meet) :=
  let out := vs.zipIdx.map fun (v, j) => f.encode ((rs j).getD .nearestEven) v
  (out.flatMap fun o => bytesLE (f.width / 8) o.1, out.map fun o => f.decode o.1, out.map (·.2))

/-- A row narrowed into SB16: mantissa bytes, exponent bytes, values written, what was met (R41, R81). -/
def narrowSb16 (rs : Nat → Option Rounding) (vs : List Val) : List Byte × List Byte × List Val × List (Option Meet) :=
  let blocks := (List.range (vs.length / 32)).map fun b =>
    sb16Block (((vs.drop (32 * b)).take 32).zipIdx.map fun (v, j) => (v, (rs (32 * b + j)).getD .nearestEven))
  (blocks.flatMap fun (_, ms) => ms.flatMap fun m => bytesLE 2 m.1,
   blocks.flatMap fun (e, _) => bytesLE 1 e,
   blocks.flatMap fun (e, ms) => ms.map fun m => sb16Value m.1 e,
   blocks.flatMap fun (_, ms) => ms.map (·.2))

/-- Fields of a READOUT command (R151). -/
structure OutCmd where
  act : Nat
  fmt : Nat
  mode : Nat
  int32 : Bool
  ladle : Bool
  shift : Nat
  opts : Nat
  dst : Nat
  rsc : Nat
  csc : Nat
  bias : Nat
  add : Nat
  tab : Nat
  tid : Nat
  base : Nat
  dstride : Nat
  exp : Nat

/-- The fields of a READOUT from its word, its captured values and its record. -/
def Die.outCmd (x : Die) (e : QEntry) : OutCmd where
  act := bits (x.recField e 1 1) 3 0
  fmt := bits (x.recField e 2 1) 3 0
  mode := bits (x.recField e 2 1) 5 4
  int32 := bits (x.recField e 2 1) 6 6 == 1
  ladle := bits (x.recField e 2 1) 7 7 == 1
  shift := x.recField e 3 1
  opts := x.recField e 4 1
  dst := x.recAddr e 8
  rsc := x.recField e 0x10 8 % 2 ^ 52
  csc := x.recField e 0x18 8 % 2 ^ 52
  bias := x.recField e 0x20 8 % 2 ^ 52
  add := x.recAddr e 0x28
  tab := x.recField e 0x30 4
  tid := x.recField e 0x34 4
  base := if cwFlag e.w 0 then e.gb.toNat % 2 ^ 32 else x.recField e 0x38 4
  dstride := if cwImsel e.w = 0 then x.recField e 0x3C 4 else e.imm.toNat
  exp := x.recAddr e 0x40

/-- A vector of 16-bit scales or biases, when the option bit names it. -/
def Device.outVector (d : Device) (c : Context) (cd : Cd) (cmd : OutCmd) (bit a n : Nat) : Except (Nat × Nat × Nat) (List Val) :=
  if bits cmd.opts bit bit = 0 then .ok []
  else
    let f : Fmt := if bits cmd.opts 4 4 = 1 then .fp16 else .bf16
    match d.readRows c cd .ma [(a, 2 * n)] 0 with
    | .error e => .error e
    | .ok rows => .ok ((codesOf f rows.flatten n).map f.decode)

/-- One output row: addend read, computed, narrowed and written; the values written and the stage values for the taps. The conversions of a
row that a fault stops are not tallied (DESIGN CHOICE, log entry 74). -/
def Device.outRow (d : Device) (c : Context) (cd : Cd) (isl : BitVec 16) (cmd : OutCmd) (f : Fmt) (t : Tile) (p : OutParams)
    (step : Nat) (i : Nat) : Except Device (Device × List Val × List Val × List Val) :=
  let af : Fmt := if bits cmd.opts 4 4 = 1 then .fp16 else .bf16
  let z := if bits cmd.opts 3 3 = 1 then d.readRows c cd .ma [(wrap52 (cmd.add + 256 * i), 256)] (4 * i) else .ok []
  match z with
  | .error (e, l, done) => .error (d.memFault c isl e l done false 0 0)
  | .ok zs =>
    let row := (codesOf af zs.flatten 128).map af.decode
    let q := if bits cmd.opts 3 3 = 1 then { p with add := List.replicate i [] ++ [row] } else p
    let es := (t.elems.drop (128 * i)).take 128
    let es := es ++ List.replicate (128 - es.length) ({} : AccElem)
    let vs := es.zipIdx.map fun (x, j) => q.outOf t x i j
    let taps := (es.zip vs).filterMap fun (x, v) => if x.ovf then none else some v
    let rs := fun j => roundingOf cmd.mode (srDraw c.seed step cmd.tid (cmd.base + i * cmd.dstride + j))
    let w := f.width / 8
    if f = .sb16 then
      let (ms, xs, ys, meets) := narrowSb16 rs vs
      match d.putBytes c cd .ma (wrap52 (cmd.dst + i * cmd.dstride * 2)) ms with
      | (d1, some (e, l, done)) => .error (d1.memFault c isl e l (256 * i + done) true 0 0)
      | (d1, none) =>
        match d1.putBytes c cd .ma (wrap52 (cmd.exp + i * cmd.dstride / 32)) xs with
        | (d2, some (e, l, _)) => .error (d2.memFault c isl e l (256 * (i + 1)) true 0 0)
        | (d2, none) => .ok (d2.modDie cd fun x => { x with tally := x.tally.notes meets }, ys, taps, row)
    else
      let (bs, ys, meets) := narrowRow f rs vs
      match d.putBytes c cd .ma (wrap52 (cmd.dst + i * cmd.dstride * w)) bs with
      | (d1, some (e, l, done)) => .error (d1.memFault c isl e l (128 * w * i + done) true 0 0)
      | (d1, none) => .ok (d1.modDie cd fun x => { x with tally := x.tally.notes meets }, ys, taps, row)

/-- The next row to be written of the tile that an MA reads out (R72, R87). -/
def Device.atRow (d : Device) (cd : Cd) (ma : MaNo) (i : Nat) : Device :=
  d.modDie cd fun x => x.modMa ma fun m => { m with bufs := each (fun _ t =>
    if t.state = 3 then { t with readoutRow := BitVec.ofNat 8 i } else t) m.bufs }

/-- The rows of a readout in order: values written, stage values for the taps, addend rows. -/
def Device.outRows (c : Context) (cd : Cd) (ma : MaNo) (isl : BitVec 16) (cmd : OutCmd) (f : Fmt) (t : Tile) (p : OutParams) (step : Nat) :
    List Nat → Device → Except Device (Device × List Val × List Val × List (List Val))
  | [], d => .ok (d, [], [], [])
  | i :: rest, d =>
    match d.outRow c cd isl cmd f t p step i with
    | .error d' => .error d'
    | .ok (d1, ys, taps, row) =>
      match Device.outRows c cd ma isl cmd f t p step rest (d1.atRow cd ma (i + 1)) with
      | .error d' => .error d'
      | .ok (d2, ys2, taps2, rows) => .ok (d2, ys ++ ys2, taps ++ taps2, row :: rows)

/-- The s value of a READOUT (R149). -/
def Tile.sValue (t : Tile) : Nat := t.uwCount.toNat + t.wovCount.toNat * 2 ^ 32 + (if t.uwOvf then 2 ^ 48 else 0)

/-- One element of an INT32 readout and what it met (R82). With its V flag set an element reads as the limit of its sign whatever its
non-finite code (log entry 61). -/
def int32Elem (shift : Nat) (x : AccElem) : Int × Option Meet :=
  let v := x.v.toInt
  if x.ovf then (if v < 0 then -(2 ^ 31) else 2 ^ 31 - 1, some .sat)
  else
    let k : Int := roundQuanta .nearestEven v.natAbs 0 shift
    let i := if v < 0 then -k else k
    if 2 ^ 31 ≤ i then (2 ^ 31 - 1, some .sat)
    else if i < -(2 ^ 31) then (-(2 ^ 31), some .sat)
    else (i, if i = 0 ∧ v ≠ 0 then some .zeroOut else none)

/-- A tile enters readout: its buffer is in state 3 and the Sieve takes its counts (R72, R84). -/
def Device.enterReadout (d : Device) (cd : Cd) (ma : MaNo) (buf : Fin 2) (t : Tile) : Device :=
  d.modDie cd fun x => { x with
    mas := upd x.mas ma fun m => { m with bufs := upd m.bufs buf fun t => { t with state := 3 } }
    sieve := x.sieve.windowCounts t }

/-- INT32 readout: the rows wait for the consumer that the record names (R82, R152). -/
def Device.int32Readout (d : Device) (c : Context) (cd : Cd) (ma : MaNo) (isl : BitVec 16) (cmd : OutCmd) (buf : Fin 2) (t : Tile)
    (e : QEntry) : Engine :=
  let n := (t.rows.toNat + 1) * 128
  let es := t.elems.take n
  let es := es ++ List.replicate (n - es.length) ({} : AccElem)
  if es.any fun x => !x.ovf && x.nf ≠ 0 then d.maFault c isl 2 2 0x77
  else
    let out : List (Int × Option Meet) := es.map (int32Elem cmd.shift)
    let ex : Int := t.anchor.toInt - 74 + cmd.shift
    let rows := (List.range (t.rows.toNat + 1)).map fun i => ((out.drop (128 * i)).take 128).map fun o => BitVec.ofInt 32 o.1
    let p : OutParams := { rs := [], cs := [], bias := [], add := [], act := 0, table := [] }
    let taps := es.zipIdx.filterMap fun (x, k) => if x.ovf then none else some (p.stageOf (x.val t.anchor.toInt) x.s (k / 128) (k % 128))
    .ran ((d.enterReadout cd ma buf t).modDie cd fun x =>
      let x1 := { x with
        intRows := x.intRows ++ [(⟨ma, cmd.ladle, ex, rows⟩ : IntRows)]
        tally := x.tally.notes (out.map Prod.snd) }
      x1.tap ma taps true) (e.sOf t.sValue) false

/-- Bytes that a readout of some rows writes: SB16 adds 4 exponent bytes a row (R81, R291). -/
def outBytes (f : Fmt) (rows : Nat) : Nat := rows * (128 * f.width / 8 + (if f = .sb16 then 4 else 0))

/-- The buffer that a READOUT takes: the one it was reading out at its stop point, else the oldest in state 2 (R72, R86). -/
def Ma.readBuf (m : Ma) (e : QEntry) : Option (Fin 2) := if e.started then m.oldest fun t => t.state == 3 else m.oldestReady

/-- READOUT: the oldest buffer in state 2 through scale, add, activation and narrowing (R74). While its context is being stopped it comes to
a stop point after each row, and goes on at the next row (R86, R387). -/
def readoutEngine (cd : Cd) (ma : MaNo) (d : Device) (c : Context) (e : QEntry) : Engine :=
  let x := d.dies[cd]
  let m := x.mas[ma]
  let cmd := x.outCmd e
  let isl := cdIsland cd 2 ma.val
  match m.readBuf e with
  | none => .wait
  | some buf =>
    let t := m.bufs[buf]
    if x.intRows.any fun r => r.ma == ma then .wait
    else if cmd.int32 then d.int32Readout c cd ma isl cmd buf t e
    else match fmtOf cmd.fmt with
      | none => d.maFault c isl 2 1 cmd.fmt
      | some f =>
        if f = .q4 ∨ f = .int32 then d.maFault c isl 2 2 (7 + cmd.fmt * 16)
        else if cmd.mode = 3 then d.maFault c isl 2 3 0
        else if f = .sb16 ∧ cmd.dstride % 32 ≠ 0 then d.maFault c isl 2 4 cmd.dstride
        else
          let rows := t.rows.toNat + 1
          let r0 := if e.started then t.readoutRow.toNat else 0
          let n := if d.stopping c then min 1 (rows - r0) else rows - r0
          let d := if e.started then d else d.enterReadout cd ma buf t
          match d.outVector c cd cmd 0 cmd.rsc rows, d.outVector c cd cmd 1 cmd.csc 128, d.outVector c cd cmd 2 cmd.bias 128 with
          | .ok rs, .ok cs, .ok bs =>
            let p : OutParams := ⟨rs, cs, bs, [], cmd.act, if cmd.act = 4 then x.planBytes cmd.tab 1032 else []⟩
            match Device.outRows c cd ma isl cmd f t p (d.stepNo c) ((List.range rows).drop r0 |>.take n) d with
            | .error d' => .stopped d'
            | .ok (d1, ys, taps, adds) =>
              if r0 + n < rows then
                .cut (d1.modDie cd fun x => ({ x with sieve := x.sieve.samplePart t ma ys adds } : Die).tap ma taps false) 0 []
              else
                let (ys0, adds0) := d.dies[cd].sieve.partOf t ma
                let p1 := if bits cmd.opts 3 3 = 1 then { p with add := adds0 ++ adds } else p
                .ran (d1.modDie cd fun x =>
                  let x1 := { x with
                    mas := upd x.mas ma fun m => { m with bufs := m.bufs.set buf {} }
                    sieve := x.sieve.sampleReadout t ma p1 (ys0 ++ ys) (outBytes f rows) }
                  x1.tap ma taps true) (e.sOf t.sValue) true
          | .error (er, l, done), _, _ => .stopped (d.memFault c isl er l done false 0 0)
          | _, .error (er, l, done), _ => .stopped (d.memFault c isl er l done false 0 0)
          | _, _, .error (er, l, done) => .stopped (d.memFault c isl er l done false 0 0)

/-- READOUT. -/
def execReadout (cd : Cd) (ma : MaNo) (s : State) : Host.Outcome State Fault Refusal :=
  .next { s with dev := s.dev.startHead cd (idx 12 ma.val) 2 (readoutEngine cd ma) }

/-- The values of INT32 rows join the sample of their tile, now that the last one has been taken (R291, R292). -/
def Sieve.sampleRows (v : Sieve) (m : Ma) (ma : MaNo) (r : IntRows) : Sieve :=
  match m.bufs.toList.find? fun t => t.state == 3 with
  | none => v
  | some t =>
    let ys := r.rows.flatten.map fun w => (Dy.mk w.toInt r.e).val
    v.sampleReadout t ma { rs := [], cs := [], bias := [], add := [], act := 0, table := [] } ys (4 * ys.length)

/-- The consumer of an INT32 readout has taken its rows: the readout has written its last row and its buffer is idle (R152). -/
def Die.rowsTaken (x : Die) (ma : MaNo) (ladle : Bool) : Die :=
  match x.rowsOf ma.val ladle with
  | none => x
  | some r =>
    let q : QueueId := idx 12 ma.val
    let no := (x.queues[q].find? fun e => e.started && !e.done && cwOp e.w == 2).map (·.no)
    let x1 := { x with
      sieve := x.sieve.sampleRows x.mas[ma] ma r
      intRows := x.intRows.erase r
      mas := upd x.mas ma fun m => { m with bufs := each (fun _ (t : Tile) => if t.state = 3 then {} else t) m.bufs } }
    match no with
    | none => x1
    | some n => x1.modQueue q fun l => setEntry l n fun e => { e with done := true, inputRead := true }

end Sys2Proof.Machine
end

