-- ==== Sys2Proof/Machine/Ladle.lean ====
section
/-! DEFINITION. The Ladle: ACCUM, BUCKET, the two-phase tree reduction on the Course, completion records and digests (R300 to R320, R322,
R323, R326 to R331). -/

namespace Sys2Proof.Machine

/-! ### Store and ACCUM (R304, R305) -/

/-- Island of the Ladle. -/
def ladleIsland (cd : Cd) : BitVec 16 := cdIsland cd 6 0

/-- A Ladle fault (R331). -/
def Device.ladleErr (d : Device) (c : Context) (cd : Cd) (code detail : Nat) : Engine :=
  .stopped (d.fault c (d.err (ladleIsland cd) 11 code c.tag none detail))

/-- A Ladle rewritten. -/
def Device.modLadle (d : Device) (cd : Cd) (f : Ladle → Ladle) : Device := d.modDie cd fun x => { x with ladle := f x.ladle }

/-- The bucket of a number, not yet completed. -/
def Ladle.bucket (k : Ladle) (n : Nat) : Option Bucket := k.buckets.find? fun b => b.number.toNat == n && b.state != .completed

/-- The outstanding bucket of a tag (R309, R310). -/
def Ladle.tagged (k : Ladle) (step : BitVec 32) (n : BitVec 16) : Option Bucket :=
  k.buckets.find? fun b => b.number == n && b.step == step && b.state == .outstanding

/-- A bucket that has not completed rewritten. -/
def Ladle.modBucket (k : Ladle) (n : BitVec 16) (f : Bucket → Bucket) : Ladle :=
  { k with buckets := k.buckets.map fun b => if b.number == n && b.state != .completed then f b else b }

/-- Element i of a bucket. -/
def Ladle.elem (k : Ladle) (b : Bucket) (i : Nat) : BitVec 64 := BitVec.ofNat 64 (le (memBytes 0 k.store (b.store + 8 * i) 8))

/-- One value added to element i (R305). -/
def addElem (x : Memory × Bucket) (i : Nat) (v : Val) : Memory × Bucket :=
  let m := x.1
  let b := x.2
  match v with
  | .fin neg mag e =>
    if b.satElems.contains i then (m, b)
    else
      let k := roundOdd mag e b.es
      let exact := mag = 0 ∨ b.es ≤ e ∨ mag % pow2 (b.es - e).toNat = 0
      let old := (BitVec.ofNat 64 (le (memBytes 0 m (b.store + 8 * i) 8))).toInt
      let sum := if neg then old - k else old + k
      let b1 := { b with present := true, under := if exact then b.under else satAdd32 b.under 1 }
      if 2 ^ 63 ≤ sum ∨ sum < -(2 ^ 63) then
        let s : Int := if sum < 0 then -(2 ^ 63) else 2 ^ 63 - 1
        (memStore 0 m (b.store + 8 * i) (bytesLE 8 (BitVec.ofInt 64 s).toNat),
          { b1 with sat := satAdd32 b1.sat 1, satElems := b1.satElems ++ [i] })
      else (memStore 0 m (b.store + 8 * i) (bytesLE 8 (BitVec.ofInt 64 sum).toNat), b1)
  | _ => (m, { b with present := true, nonfinite := satAdd32 b.nonfinite 1 })

/-- Values added, each to its element. -/
def addElems (x : Memory × Bucket) (vs : List (Nat × Val)) : Memory × Bucket := vs.foldl (fun (x : Memory × Bucket) (p : Nat × Val) => addElem x p.1 p.2) x

/-- What an ACCUM has read of a row of source 0: its values, the lines read, and the code and line of a failure. Of an SB16 row the
mantissas are read before the exponents, whose section follows that of the mantissas of every row (R193, R194, R305). DESIGN CHOICE (log entry 58): the record names
no address of the exponents; their section is taken to follow the mantissas of every row (R40). -/
def Device.accumRow (d : Device) (c : Context) (cd : Cd) (f : Fmt) (base rows sstride cols i : Nat) : List Val × Nat × Option (Nat × Nat) :=
  let w := f.width / 8
  let (bs, n, bad) := d.readUpTo c cd .ladle (wrap52 (base + w * i * sstride)) (w * cols)
  if f = .sb16 then
    match bad with
    | some e => ([], n, some e)
    | none =>
      let (xs, k, bad) := d.readUpTo c cd .ladle (wrap52 (base + 2 * rows * sstride + i * sstride / 32)) (cols / 32)
      ((List.range (min cols (32 * xs.length))).map fun j => sb16Value (field bs (2 * j) 2) (field xs (j / 32) 1), n + k, bad)
  else ((List.range (min cols (bs.length / w))).map fun j => f.decode (field bs (w * j) w), n, bad)

/-- What an ACCUM of source 0 has read from row `i` on: the values with their elements, the lines read, and the failure that ended it. -/
def Device.accumRows (d : Device) (c : Context) (cd : Cd) (f : Fmt) (base rows sstride cols : Nat) (place : Nat → Nat → Nat) :
    Nat → Nat → List (Nat × Val) × Nat × Option (Nat × Nat)
  | 0, _ => ([], 0, none)
  | n + 1, i =>
    let (vs, k, bad) := d.accumRow c cd f base rows sstride cols i
    let mine := vs.zipIdx.map fun (p : Val × Nat) => (place i p.2, p.1)
    match bad with
    | some e => (mine, k, some e)
    | none =>
      let (rest, k', bad) := d.accumRows c cd f base rows sstride cols place n (i + 1)
      (mine ++ rest, k + k', bad)

/-- Bucket named by an ACCUM: g[gb][47:32] is added to its number, and g[gb][31:0] to its first element (R305). -/
def accumBucket (x : Die) (e : QEntry) : Nat := (x.recField e 4 2 + bits e.gb.toNat 47 32) % 65536

/-- The result of an ACCUM on the store and its bucket. -/
def Device.accumDone (d : Device) (cd : Cd) (b : Bucket) (vs : List (Nat × Val)) : Device :=
  let (m, b1) := addElems (d.dies[cd].ladle.store, b) vs
  d.modLadle cd fun k => { k.modBucket b.number fun _ => b1 with store := m }

/-- An ACCUM into an aborted bucket is discarded without error; rows routed to it are taken when they are there (R152, R328). -/
def Device.accumAborted (d : Device) (cd : Cd) (src : Nat) : Engine :=
  if src = 0 then .ran d [] true
  else match d.dies[cd].rowsOf (src - 1) true with
    | none => .wait
    | some r => .ran (d.modDie cd fun x => x.rowsTaken r.ma true) [] true

/-- ACCUM: into an open bucket of the current step, or discarded when its bucket is aborted. A read fault leaves the elements read before it
added (R194, R305, R328, R331). Until the rows of an output stage are there it has not started (DESIGN CHOICE, log entry 77). -/
def accumEngine (cd : Cd) (d : Device) (c : Context) (e : QEntry) : Engine :=
  let x := d.dies[cd]
  let src := bits (x.recField e 1 1) 2 0
  let n := accumBucket x e
  let off := (x.recField e 8 4 + bits e.gb.toNat 31 0) % 2 ^ 32
  let rows := x.recField e 0xC 4
  let cols := x.recField e 0x10 4
  let ds := x.recField e 0x14 4
  match x.ladle.bucket n with
  | none => d.ladleErr c cd 1 (n + n * 65536)
  | some b =>
    if b.state = .aborted then d.accumAborted cd src
    else if b.state ≠ .isOpen ∨ b.step.toNat ≠ d.stepNo c then d.ladleErr c cd 1 (n + n * 65536)
    else
      let place := fun i j => off + i * ds + j
      let beyond := (List.range rows).findSome? fun i =>
        if place i 0 + cols ≤ b.elems then none else some (max (place i 0) b.elems)
      match beyond with
      | some a => d.ladleErr c cd 3 (a % 2 ^ 32)
      | none =>
        if src = 0 then
          match fmtOf (bits (x.recField e 2 1) 3 0) with
          | none => .stopped (d.fault c (d.err (ladleIsland cd) 2 1 c.tag none (bits (x.recField e 2 1) 3 0)))
          | some .q4 => .stopped (d.fault c (d.err (ladleIsland cd) 2 2 c.tag none 0))
          | some f =>
            match d.accumRows c cd f (x.recAddr e 0x18) rows (x.recField e 0x20 4) cols place rows 0 with
            | (vs, _, none) => .ran (d.accumDone cd b vs) [] true
            | (vs, k, some (er, l)) => .stopped ((d.accumDone cd b vs).memFault c (ladleIsland cd) er l (64 * k) false 0 n)
        else match x.rowsOf (src - 1) true with
          | none => .wait
          | some r =>
            let vs := ((r.rows.take rows).zipIdx).flatMap fun (row, i) =>
              (row.take cols).zipIdx.map fun (v, j) => (place i j, (Dy.mk v.toInt r.e).val)
            .ran ((d.accumDone cd b vs).modDie cd fun x => x.rowsTaken r.ma true) [] true

/-- ACCUM. -/
def execAccum (cd : Cd) (s : State) : Host.Outcome State Fault Refusal :=
  .next { s with dev := s.dev.startHead cd 10 1 (accumEngine cd) }

/-! ### Streams on the Course and their credits (R319, R320) -/

/-- The far end of a stream: the receiver of a position's up or down stream of a level, when the position sends it. -/
def ladleTarget (m pos level : Nat) (down : Bool) : Option Nat :=
  if down then (if pos % pow2 level = 0 ∧ pos + pow2 (level - 1) < m then some (pos + pow2 (level - 1)) else none)
  else if 0 < pos ∧ tz pos + 1 = level then some (pos - pow2 (level - 1)) else none

/-- The sender whose stream of a level ends at a position. -/
def ladleSource (m pos level : Nat) (down : Bool) : Option Nat :=
  if down then (if 0 < pos ∧ tz pos + 1 = level then some (pos - pow2 (level - 1)) else none)
  else if pos % pow2 level = 0 ∧ pos + pow2 (level - 1) < m then some (pos + pow2 (level - 1)) else none

/-- Place of a stream among the counts of a bucket. -/
def streamIdx (level : Fin 4) (down : Bool) : Fin 8 := idx 8 (level.val + if down then 4 else 0)

/-- The four levels, up and down. -/
def ladleStreams : List LadleStream := (List.finRange 4).flatMap fun l => [⟨l, false⟩, ⟨l, true⟩]

/-- Credits of a stream that a Ladle sends. -/
def Ladle.credit (k : Ladle) (st : LadleStream) : Nat := if st.down then k.downCredits[st.level] else k.upCredits[st.level]

/-- Those credits rewritten. -/
def Ladle.modCredit (k : Ladle) (st : LadleStream) (f : Nat → Nat) : Ladle :=
  if st.down then { k with downCredits := upd k.downCredits st.level f } else { k with upCredits := upd k.upCredits st.level f }

/-- Lines of a stream received for a bucket. -/
def Bucket.received (b : Bucket) (st : LadleStream) : Nat :=
  if st.down then b.downRecv.length else (b.upRecv.filter fun l => l.1 == st.level.val + 1).length

/-- The credits of a stream returned for a bucket rise to `n` lines (R320). -/
def Device.returnTo (d : Device) (c : Context) (cd : Cd) (b : Bucket) (st : LadleStream) (n : Nat) : Device :=
  match ladleSource c.m (c.posOf cd) (st.level.val + 1) st.down with
  | none => d
  | some src =>
    let was := b.credited[streamIdx st.level st.down]
    if n ≤ was then d
    else
      (d.modLadle cd fun k => k.modBucket b.number fun b => { b with credited := b.credited.set (streamIdx st.level st.down) n }).modLadle (c.cdAt src)
        fun k => k.modCredit st fun v => v + (n - was)

/-- Every stream of the outstanding buckets of a CD has returned a credit for each line consumed there (R320). -/
def Device.returnCredits (d : Device) (c : Context) (cd : Cd) : Device :=
  match c.reduce with
  | none => d
  | some r =>
    (d.dies[cd].ladle.buckets.filter fun b => b.state == .outstanding).foldl (fun d b =>
      ladleStreams.foldl (fun d st => d.returnTo c cd b st (b.consumed (c.node r (c.posOf cd)) (st.level.val + 1) st.down)) d) d

/-- A bucket that ends has consumed every line that it received. -/
def Device.returnAll (d : Device) (c : Context) (cd : Cd) (b : Bucket) : Device :=
  ladleStreams.foldl (fun d st => d.returnTo c cd b st (b.received st)) d

/-! ### Completion and digests (R311, R316, R322, R323) -/

/-- Digest of some lines in order (R322). -/
def linesDigest (ls : List (List Byte)) : Nat := ls.foldl crc64From 0

/-- A digest of a payload with its valid bit: whole when it has as many lines as are due, and some are (R323). -/
def payloadDigest (ls : List (List Byte)) (due : Nat × Nat) : Nat × Bool :=
  (linesDigest ls, !ls.isEmpty && ls.length == due.1 + due.2)

/-- Lines due in an up payload and in a down payload of a subtree, by its up header; none before it is known (R318). -/
def dueUp (elems : Nat) (h : Option (List Byte)) : Nat × Nat := (h.map fun h => upTotals elems (hdrPresent h)).getD (0, 0)
/-- Down. -/
def dueDown (elems : Nat) (h : Option (List Byte)) : Nat × Nat := (h.map (downTotals elems)).getD (0, 0)

/-- Digests d0 to d9 of a node with their valid bits (R323). -/
def Bucket.digests (b : Bucket) (t : LadleNode) : List (Nat × Bool) :=
  let own := b.topLine t 1 0
  let d0 := payloadDigest (b.upSent.map (·.2)) (if t.root then (0, 0) else dueUp b.elems own)
  let d1 := payloadDigest (b.downRecv.map (·.2)) (dueDown b.elems own)
  [d0, d1] ++ (List.range 4).flatMap fun k =>
    let l := k + 1
    let h := b.recvLine l 1 0
    [payloadDigest ((b.upRecv.filter fun x => x.1 == l).map (·.2.2)) (dueUp b.elems h),
     payloadDigest ((b.downSent.filter fun x => x.1 == l).map (·.2.2)) (dueDown b.elems h)]

/-- The digest log entry of a bucket (R323). -/
def Bucket.digestEntry (b : Bucket) (t : LadleNode) (code : Nat) : List Byte :=
  let ds := b.digests t
  let valid := (ds.zipIdx.map fun (x, i) => if x.2 then pow2 i else 0).sum
  pad 128 (bytesLE 1 5 ++ bytesLE 1 code ++ bytesLE 1 t.top ++ zeros 1 ++ bytesLE 4 b.step.toNat ++ bytesLE 2 b.number.toNat
    ++ bytesLE 2 valid ++ bytesLE 4 t.epoch ++ ds.flatMap fun x => bytesLE 8 x.1)

/-- The completion record (R311). -/
def Bucket.record (b : Bucket) (t : LadleNode) (ctx : BitVec 16) (code present : Nat) (counts : List Nat) : List Byte :=
  pad 64 (bytesLE 1 5 ++ bytesLE 1 code ++ bytesLE 2 ctx.toNat ++ bytesLE 4 b.step.toNat ++ bytesLE 2 b.number.toNat ++ bytesLE 1 t.h
    ++ zeros 1 ++ bytesLE 4 t.epoch ++ bytesLE 4 present ++ counts.flatMap (bytesLE 4))

/-- A write of the Ladle; a refused line faults with the bucket number in the detail (R331). -/
def Device.ladlePut (d : Device) (c : Context) (cd : Cd) (n a : Nat) (bs : List Byte) : Device × Bool :=
  match d.putBytes c cd .ladle a bs with
  | (d1, none) => (d1, true)
  | (d1, some (e, l, done)) => (d1.memFault c (ladleIsland cd) e l done true 0 n, false)

/-- A result segment of the record at an offset of the plan store. -/
def Die.segment (x : Die) (off s o n : Nat) : Nat := le (x.planBytes (off + 0x40 + 32 * s + o) n)

/-- The bytes of a result segment (R316, R40), and what the conversions met. -/
def segmentBytes (f : Fmt) (rs : Nat → Option Rounding) (vs : List Val) : List Byte × List (Option Meet) :=
  if f = .sb16 then
    let r := narrowSb16 rs vs
    let n := r.1.length + r.2.1.length
    (r.1 ++ r.2.1 ++ zeros (ceilDiv n 64 * 64 - n), r.2.2.2)
  else
    let r := narrowRow f rs vs
    (r.1, r.2.2)

/-- The values of a bucket's result: each sum at the shared quantum of its block (R314, R316). -/
def Bucket.results (b : Bucket) (t : LadleNode) : List Val :=
  let n := phase2Down b.elems
  let ls := (List.range n).map fun i => (b.downLine t 2 (i + 1)).getD []
  let exps := (ls.zipIdx.filter fun (_, i) => i % 65 == 0).flatMap fun (l, _) => lineExps l
  let sums := (ls.zipIdx.filter fun (_, i) => i % 65 != 0).flatMap fun (l, _) => lineSums l
  (sums.take b.elems).zipIdx.map fun (q, i) =>
    let x := exps.getD (i / 32) (-32768)
    if x = -32768 then .fin false 0 0 else (Dy.mk q (x - 31 + t.h)).val

/-- Result segments written, in order (R316); a refused line ends them. -/
def Device.writeSegments (d : Device) (c : Context) (cd : Cd) (b : Bucket) (vs : List Val) : List Nat → Device × Bool
  | [] => (d, true)
  | s :: t =>
    let x := d.dies[cd]
    let o := x.segment b.recordOff s 0 4
    let n := x.segment b.recordOff s 4 4
    let fm := x.segment b.recordOff s 8 1
    match fmtOf (bits fm 3 0) with
    | none => d.writeSegments c cd b vs t
    | some f =>
      let tid := x.segment b.recordOff s 0xC 4
      let base := x.segment b.recordOff s 0x10 4
      let dst := wrap52 (x.segment b.recordOff s 0x18 8 % 2 ^ 52 + b.ga.toNat)
      let rs := fun j => roundingOf (bits fm 5 4) (srDraw c.seed b.step.toNat tid (base + j))
      let (bs, ms) := segmentBytes f rs ((vs.drop o).take n)
      let d1 := d.modDie cd fun x => { x with tally := x.tally.notes ms }
      match d1.ladlePut c cd b.number.toNat dst bs with
      | (d2, true) => d2.writeSegments c cd b vs t
      | (d2, false) => (d2, false)

/-- All duties of this position for a bucket are done: its up payload has gone, its children are served, and what it waits for has
arrived (R310, R313, R314, R318). -/
def Bucket.complete (b : Bucket) (t : LadleNode) : Bool :=
  (t.root || (b.nextUp t).isNone) && ((List.range t.top).all fun k => (b.nextDown (k + 1)).isNone)
    && (match b.topLine t 1 0 with
      | none => false
      | some h =>
        (!hdrPresent h || ((List.range (1 + phase1Lines b.elems)).all fun i => (b.downLine t 1 i).isSome))
          && (!hdrWants h || ((List.range (1 + phase2Down b.elems)).all fun i => (b.downLine t 2 i).isSome)))

/-- Ranks and counts of the tree known here; free values where no down header has come (R311; log entry 27). -/
def Device.treeCounts (d : Device) (b : Bucket) (t : LadleNode) : Device × Nat × List Nat :=
  match (b.downLine t 2 0).orElse fun _ => b.downLine t 1 0 with
  | some h => (d, hdrCount h, hdrCounts h)
  | none =>
    let (v, d1) := d.draw
    let (w, d2) := d1.draw
    let (u, d3) := d2.draw
    (d3, bits v.toNat 31 0, [bits v.toNat 63 32, bits w.toNat 31 0, bits w.toNat 63 32, bits u.toNat 31 0])

/-- The s value of a CLOSE (R307). -/
def closeValue (code : Nat) (counts : List Nat) : Nat :=
  code + (counts.zipIdx.map fun (n, i) => if n = 0 then 0 else pow2 (8 + i)).sum

/-- The digest entry of a bucket written to the log of its position (R323); false when the write is refused (R331). -/
def Device.logDigest (d : Device) (c : Context) (cd : Cd) (b : Bucket) (t : LadleNode) (r : ReduceConfig) (code : Nat) : Device × Bool :=
  let n := b.number.toNat
  let log := sramOf cd.val + r.log.toNat + 128 * (if r.logEntries = 0 then 0 else n % r.logEntries)
  d.ladlePut c cd n log (b.digestEntry t code)

/-- The CLOSE of a bucket has stopped with a fault (R195). -/
def Die.closeStopped (x : Die) (b : Bucket) : Bool := x.queues[(10 : QueueId)].any fun e => isClose 10 e && e.stopped && e.no == b.closeNo

/-- The CLOSE of a bucket stops with a fault: the bucket is not completed (R195, R196). -/
def Device.stopClose (d : Device) (cd : Cd) (b : Bucket) : Device :=
  d.modDie cd fun x => x.modQueue 10 fun l => l.map fun e => if isClose 10 e && e.started && e.no == b.closeNo then { e with stopped := true } else e

/-- A bucket whose digest entry is in the log ended with a code: s value, its CLOSE done, and the credits of its lines (R311, R320, R323,
R328). Its record is written when the CLOSE reaches its completion point. -/
def Device.closeBucket (d : Device) (c : Context) (cd : Cd) (b : Bucket) (code present : Nat) (counts : List Nat) : Device :=
  (d.returnAll c cd b).modDie cd fun x =>
    let y := x.modQueue 10 fun l => l.map fun e =>
      if isClose 10 e && e.started && e.no == b.closeNo
      then { e with done := true, inputRead := true, svals := e.sOf (closeValue code counts) } else e
    { y with ladle := y.ladle.modBucket b.number fun _ =>
      { b with state := .completed, code := code, total := present, totals := counts, logged := true } }

/-- A bucket ended with a code: its digest entry is written unless the log has it, and it is closed; after a refused write it is not, and
its CLOSE has stopped (R196, R323, R331). The flag says that it has ended. -/
def Device.endBucket (d : Device) (c : Context) (cd : Cd) (b : Bucket) (t : LadleNode) (r : ReduceConfig) (code present : Nat)
    (counts : List Nat) : Device × Bool :=
  let (d1, ok) := if b.logged then (d, true) else d.logDigest c cd b t r code
  (if ok then d1.closeBucket c cd b code present counts else d1.stopClose cd b, ok)

/-- BUCKET_COMPLETE: an outstanding bucket whose duties are done writes its results and ends with DONE (R310, R311, R316). -/
def Device.bucketComplete (d : Device) (cd : Cd) (n : BitVec 16) : Device :=
  match d.residentOf cd with
  | none => d
  | some c =>
    match c.reduce, d.dies[cd].ladle.bucket n.toNat with
    | some r, some b =>
      let t := c.node r (c.posOf cd)
      if d.dies[cd].frozen || d.enginesHeld c || b.state != .outstanding || d.dies[cd].closeStopped b || !b.complete t then d
      else
        let segs := if b.want then List.range (bits (le (d.dies[cd].planBytes (b.recordOff + 1) 1)) 3 2 + 1) else []
        let (d1, ok) := d.writeSegments c cd b (b.results t) segs
        if !ok then d1.stopClose cd b
        else
          let (d2, present, counts) := d1.treeCounts b t
          (d2.endBucket c cd b t r 0 present counts).1
    | _, _ => d

/-- BUCKET_COMPLETE. -/
def execBucketComplete (cd : Cd) (bucket : BitVec 16) (s : State) : Host.Outcome State Fault Refusal :=
  .next { s with dev := s.dev.bucketComplete cd bucket }

/-- The completion record of a CLOSE at its completion point, when its bucket record asks for one; false when the write is refused
(R311). -/
def Device.closeRecord (d : Device) (c : Context) (cd : Cd) (b : Bucket) : Device × Bool :=
  match c.reduce with
  | none => (d, true)
  | some r =>
    let x := d.dies[cd]
    if bits (le (x.planBytes (b.recordOff + 1) 1)) 1 1 = 1 then
      d.ladlePut c cd b.number.toNat (wrap52 (le (x.planBytes (b.recordOff + 0x10) 8) % 2 ^ 52 + b.ga.toNat))
        (b.record (c.node r (c.posOf cd)) c.tag b.code b.total b.totals)
    else (d, true)

/-- The completion point of a command of a queue; that of a CLOSE first writes its record, and its bucket is no longer held (R310,
R311). -/
def Device.commandCompletion (d : Device) (cd : Cd) (q : QueueId) : Device :=
  match d.completing cd q with
  | none => d
  | some (c, e) =>
    if !isClose q e then d.completionPoint cd q
    else match d.dies[cd].ladle.buckets.find? fun b => b.state == .completed && b.closeNo == e.no with
      | none => d.completionPoint cd q
      | some b =>
        match d.closeRecord c cd b with
        | (d1, false) => d1.stopClose cd b
        | (d1, true) => (d1.modLadle cd fun k => { k with buckets := k.buckets.erase b }).completionPoint cd q

/-- COMMAND_COMPLETION_POINT. -/
def execCommandCompletionPoint (cd : Cd) (queue : Fin 12) (s : State) : Host.Outcome State Fault Refusal :=
  .next { s with dev := s.dev.commandCompletion cd queue }

/-! ### OPEN and CLOSE (R307 to R310) -/

/-- Bucket number of a BUCKET command: g[gb][15:0] is added. -/
def bucketNo (x : Die) (e : QEntry) : Nat := (x.recField e 2 2 + bits e.gb.toNat 15 0) % 65536

/-- The store range of a bucket is in use: it is open, or closed with its phase-2 contribution not yet read (R310). -/
def Die.holdsStore (x : Die) (b : Bucket) : Bool :=
  b.state == .isOpen || (b.state == .outstanding && (x.queues[(10 : QueueId)].any fun e => e.no == b.closeNo && isClose 10 e && !e.inputRead))

/-- OPEN: the store range and the counts are zero, and the bucket is open at the store exponent of its record (R308). -/
def openEngine (cd : Cd) (d : Device) (c : Context) (e : QEntry) : Engine :=
  if cwFlag e.w 0 then .wait
  else
    let x := d.dies[cd]
    let n := bucketNo x e
    let elems := x.recField e 4 4
    let store := x.recField e 8 4
    let live := x.ladle.buckets.filter fun b => b.state != .completed
    if live.any fun b => b.number.toNat == n && b.state != .aborted then d.ladleErr c cd 1 (n + n * 65536)
    else if 40 * 2 ^ 20 < store + 8 * elems ∨ (live.any fun b => x.holdsStore b && decide (store < b.store + 8 * b.elems) && decide (b.store < store + 8 * elems))
    then d.ladleErr c cd 2 (store % 2 ^ 26)
    else
      let b : Bucket :=
        { number := BitVec.ofNat 16 n, step := BitVec.ofNat 32 (d.stepNo c), elems := elems, store := store,
          es := signed 11 (x.recField e 0xC 2), recordOff := cwRec e.w, ga := e.ga,
          state := if c.aborted then .aborted else .isOpen }
      .ran (d.modLadle cd fun k => { k with
        store := memClear k.store store (store + 8 * elems)
        buckets := (k.buckets.filter fun o => o.number != b.number || o.state == .completed) ++ [b] }) [] true

/-- BUCKET_OPEN. -/
def execBucketOpen (cd : Cd) (s : State) : Host.Outcome State Fault Refusal :=
  .next { s with dev := s.dev.startHead cd 10 2 (openEngine cd) }

/-- The bucket number that a CLOSE of a step must name (R309). -/
def Ladle.nextClose (k : Ladle) (step : Nat) : Nat :=
  match k.lastClose with
  | some (t, n) => if t.toNat = step then n.toNat + 1 else 0
  | none => 0

/-- The CLOSEs whose phase-2 contribution has been read from the store: the rank is absent, or every shared exponent is known
(R310, R314). -/
def Die.closeInputs (x : Die) (c : Context) (pos : Nat) : Die :=
  match c.reduce with
  | none => x
  | some r =>
    let done := (x.ladle.buckets.filter fun b => b.state == .outstanding && (!b.present || b.expsKnown (c.node r pos))).map (·.closeNo)
    x.modQueue 10 fun l => l.map fun e => if isClose 10 e && e.started && done.contains e.no then { e with inputRead := true } else e

/-- CLOSE: the reduction of the bucket starts; in the aborted state, or of a bucket aborted while open, it completes with ABORTED (R309,
R310, R312, R328). -/
def closeEngine (cd : Cd) (d : Device) (c : Context) (e : QEntry) : Engine :=
  if !cwFlag e.w 0 then .wait
  else
    let x := d.dies[cd]
    let n := bucketNo x e
    let step := d.stepNo c
    let want := x.ladle.nextClose step
    match c.reduce with
    | none => d.ladleErr c cd 4 0
    | some r => match x.ladle.bucket n with
      | none => d.ladleErr c cd 1 (n + want % 65536 * 65536)
      | some b =>
        if ((b.state ≠ .isOpen ∨ b.step.toNat ≠ step) ∧ b.state ≠ .aborted) ∨ n ≠ want then d.ladleErr c cd 1 (n + want % 65536 * 65536)
        else
          let b1 := { b with want := bits (x.recField e 1 1) 0 0 == 1, recordOff := cwRec e.w, ga := e.ga, closeNo := e.no }
          let started := fun (d : Device) => (d.modLadle cd fun k => { k with lastClose := some (BitVec.ofNat 32 step, b.number) }).modCtx c.slot
            fun c => { c with fenced := false }
          if c.aborted ∨ b.state = .aborted then
            let t := c.node r (c.posOf cd)
            let (d1, total, totals) := d.treeCounts b1 t
            match d1.endBucket c cd b1 t r 1 total totals with
            | (d2, true) => .ran (started d2) (e.sOf (closeValue 1 totals)) true
            | (d2, false) => .stopped (started d2)
          else if 64 ≤ (x.ladle.buckets.filter fun b => b.state == .outstanding).length then .wait
          else
            let own := if b.present then (List.range b.elems).map (x.ladle.elem b) else []
            .ran (started (d.modLadle cd fun k => k.modBucket b.number fun _ => { b1 with state := .outstanding, own := own })) [] false

/-- The CLOSEs that have read their contribution release, and the lines that the position has consumed return their credits (R310,
R320). -/
def Device.ladleTurn (d : Device) (cd : Cd) : Device :=
  match d.residentOf cd with
  | none => d
  | some c => (d.modDie cd fun x => x.closeInputs c (c.posOf cd)).returnCredits c cd

/-- BUCKET_CLOSE. -/
def execBucketClose (cd : Cd) (s : State) : Host.Outcome State Fault Refusal :=
  .next { s with dev := (s.dev.startHead cd 10 2 (closeEngine cd)).ladleTurn cd }

/-! ### Lines on the Course (R318 to R320) -/

/-- The lanes that serve a level in the current phase: lane i, counting the set bits of lmask, serves level (i mod c) + 1 (R319). -/
def Device.levelLanes (d : Device) (c : Context) (cd : Cd) (level : Nat) : List Nat :=
  match c.plan with
  | none => []
  | some p =>
    let mask : BitVec 20 := match p.phaseOf (d.dies[cd].course.round - 1) with
      | some (f, _, _) => f.lmask
      | none => ((p.phases.getLast?).map Phase.lmask).getD 0
    (((List.range 20).filter fun j => mask.getLsbD j).zipIdx.filter fun (_, i) => i % c.logM == level - 1).map (·.1)

/-- The next line of a stream of a bucket. -/
def Bucket.nextOn (b : Bucket) (t : LadleNode) (level : Nat) (down : Bool) : Option (Nat × Nat) :=
  if down then b.nextDown level else b.nextUp t

/-- Outstanding buckets in CLOSE order. -/
def Ladle.inOrder (k : Ladle) : List Bucket :=
  (k.buckets.filter fun b => b.state == .outstanding).mergeSort fun a b => decide (a.closeNo ≤ b.closeNo)

/-- The first line due on a stream: phase 1 before phase 2, within a phase tags in CLOSE order, within a payload line order (R320). -/
def Ladle.due (k : Ladle) (t : LadleNode) (level : Nat) (down : Bool) : Option (Bucket × Nat × Nat) :=
  let first := fun (phase : Nat) => k.inOrder.findSome? fun b =>
    match b.nextOn t level down with
    | some (p, i) => if p = phase then some (b, p, i) else none
    | none => none
  (first 1).orElse fun _ => first 2

/-- The line that departs next on a stream: the first one due, once it is ready (R320). -/
def Ladle.pick (k : Ladle) (t : LadleNode) (level : Nat) (down : Bool) : Option (Bucket × Nat × List Byte) :=
  (k.due t level down).bind fun (b, p, i) =>
    (if down then b.readyDown t level p i else b.topLine t p i).map fun l => (b, p, l)

/-- Lines of a bucket sent on a stream. -/
def Bucket.sentOn (b : Bucket) (level : Nat) (down : Bool) : Nat :=
  if down then (b.downSent.filter fun l => l.1 == level).length else b.upSent.length

/-- A bucket that has sent a line on a stream. -/
def Bucket.send (b : Bucket) (level : Nat) (down : Bool) (phase : Nat) (l : List Byte) : Bucket :=
  if down then { b with downSent := b.downSent ++ [(level, phase, l)] } else { b with upSent := b.upSent ++ [(phase, l)] }

/-- A line of a stream departs with a credit, on a lane of its level, toward the next position of its way, before any pause (R216, R319,
R320, R326, R330). A level's lanes take the lines of a bucket in turn (log entry 54). -/
def Device.lineDepart (d : Device) (cd : Cd) (st : LadleStream) : Device :=
  match d.residentOf cd with
  | none => d
  | some c =>
    let level := st.level.val + 1
    let x := d.dies[cd]
    match c.reduce, ladleTarget c.m (c.posOf cd) level st.down with
    | some r, some dest =>
      let lanes := d.levelLanes c cd level
      if x.frozen || d.stopping c || c.cond == .faulted || x.ladle.credit st == 0 || lanes.isEmpty then d
      else match x.ladle.pick (c.node r (c.posOf cd)) level st.down with
        | none => d
        | some (b, phase, l) =>
          let line : LLine := { level := level, down := st.down, step := b.step, bucket := b.number, phase := phase, dest := dest
                                lane := lanes.getD (b.sentOn level st.down % lanes.length) 0, bytes := l }
          let d1 := d.modLadle cd fun k => (k.modBucket b.number fun b => b.send level st.down phase l).modCredit st fun n => n - 1
          (d1.hopLadle c (c.posOf cd) line).ladleTurn cd
    | _, _ => d

/-- LADLE_LINE_DEPART. -/
def execLadleLineDepart (cd : Cd) (stream : LadleStream) (s : State) : Host.Outcome State Fault Refusal :=
  .next { s with dev := s.dev.lineDepart cd stream }

/-- A line taken into its bucket. -/
def Bucket.takeLine (b : Bucket) (level : Nat) (down : Bool) (phase : Nat) (l : List Byte) : Bucket :=
  if down then { b with downRecv := b.downRecv ++ [(phase, l)] } else { b with upRecv := b.upRecv ++ [(level, phase, l)] }

/-- The line is the first of its payload at this position: its header. -/
def Bucket.awaitsHeader (b : Bucket) (level : Nat) (down : Bool) (phase : Nat) : Bool :=
  if down then (b.downLines phase).isEmpty else (b.recvLine level phase 0).isNone

/-- A line belongs to a stream. -/
def LLine.onStream (l : LLine) (st : LadleStream) : Bool := l.level == st.level.val + 1 && l.down == st.down

/-- The oldest line of a stream whose tag is outstanding here: any line in a FAULTED context (R310). -/
def Die.nextPayload (x : Die) (st : LadleStream) : Option LLine :=
  x.ladle.wire.find? fun w => w.onStream st && (x.frozen || (x.ladle.tagged w.step w.bucket).isSome)

/-- That line is taken into its bucket after the check of its last hop: discarded in a FAULTED context, and when it is poisoned; a header
with another elems stops the bucket (R200, R310, R318, R320, R326). -/
def Device.payloadArrival (d : Device) (cd : Cd) (st : LadleStream) (check : LineCheck) : Device :=
  match d.residentOf cd with
  | none => d
  | some c =>
    let x := d.dies[cd]
    match x.nextPayload st with
    | none => d
    | some w =>
      let d1 := d.modLadle cd fun k => { k with wire := k.wire.erase w }
      if x.frozen then d1
      else
        let (d2, l) := d1.checkLadle c cd w check
        match x.ladle.tagged w.step w.bucket with
        | none => d2
        | some b =>
          if l.poisoned then d2
          else if b.awaitsHeader w.level w.down w.phase && hdrElems l.bytes != b.elems then
            d2.fault c (d2.err (ladleIsland cd) 11 5 c.tag none (hdrElems l.bytes))
          else (d2.modLadle cd fun k => k.modBucket w.bucket fun b => b.takeLine w.level w.down w.phase l.bytes).ladleTurn cd

/-- LADLE_PAYLOAD_ARRIVAL. -/
def execLadlePayloadArrival (cd : Cd) (stream : LadleStream) (check : LineCheck) (s : State) : Host.Outcome State Fault Refusal :=
  .next { s with dev := s.dev.payloadArrival cd stream check }

end Sys2Proof.Machine
end

