-- ==== Sys2Proof/Machine/Tongs.lean ====
section
/-! DEFINITION. The Tongs: MOVE, WEIGHTIN and the placement of chunk tiles (R197, R215, R217 to R221, R306, R347 to R349). -/

namespace Sys2Proof.Machine

/-! ### MOVE (R218) -/

/-- An adapter entry takes a line from memory only when a region entry of role 0x3 decides it (R215). -/
def Context.courseLine (c : Context) (a : Nat) : Bool :=
  match c.decider a with
  | some i => decide (8 ≤ i.val) && c.roles[i] == 3
  | none => false

/-- The package destination of a line: the domain of the LPDDR entry that decides it (R410). -/
def Context.packageDest (c : Context) (a : Nat) : Option (Fin 64) :=
  match c.decider a with
  | some i => if pTarget c.pantry[i] = 0 then some (pDomain c.pantry[i]) else none
  | none => none

/-- Line `i` of the source: its bytes and the device after the read; a failure gives the code and the line. A line staged into an adapter
entry must be decided by a region entry of role 0x3, a check of the Pantry's order (R215, R490 step 3). A window line is served by the
package engine toward a kind-0 destination (R410, R411). -/
def Device.moveRead (d : Device) (c : Context) (cd : Cd) (m : MoveCmd) (i : Nat) : Except (Nat × Nat) (List Byte × Device) :=
  if m.sk = 0 then
    let a := wrap52 (m.src + 64 * i)
    let pkg := if m.dk = 0 then c.packageDest (wrap52 (m.dst + 64 * i)) else none
    let d := if pkg.isSome then d.servePackage a else d
    match d.allowed c cd .tongs false a with
    | .error e => .error (e, a)
    | .ok _ =>
      if m.dk = 1 ∧ !c.courseLine a then .error (eRight, a)
      else match d.readLine c cd .tongs pkg a with
        | .error e => .error (e, a)
        | .ok bs => .ok (bs, d.eccOf a (.ok bs))
  else if m.sk = 1 then
    match (d.dies[cd].course.delivered m.src).head? with
    | none => .ok (zeros 64, d)
    | some l => .ok (l.2.2, d.modDie cd fun x => { x with course := { x.course with adIn := x.course.adIn.erase l } })
  else .ok (memBytes 0 d.dies[cd].ladle.store (m.src + 64 * i) 64, d)

/-- Lines of an adapter entry staged so far. -/
def Course.staged (k : Course) (entry : Nat) : Nat := (k.adOut.filter fun l => l.1 == entry).length

/-- Elements of an open bucket that a byte range of the store covers lose their saturation mark, and the bucket is present (R305, R306,
R312 text). A range freed by a CLOSE is no bucket's any more (R310). -/
def Bucket.moved (b : Bucket) (off : Nat) : Bucket :=
  if b.state = .isOpen ∧ b.store ≤ off ∧ off < b.store + 8 * b.elems then
    { b with present := true, satElems := b.satElems.filter fun k => decide (k < (off - b.store) / 8 ∨ (off - b.store) / 8 + 8 ≤ k) }
  else b

/-- Line `i` of the destination written. -/
def Device.moveWrite (d : Device) (c : Context) (cd : Cd) (m : MoveCmd) (i : Nat) (bs : List Byte) : Except (Nat × Nat) Device :=
  if m.dk = 0 then
    let a := wrap52 (m.dst + 64 * i)
    match d.writeLine c cd .tongs a bs with
    | .error e => .error (e, a)
    | .ok d1 => .ok d1
  else if m.dk = 1 then
    .ok (d.modDie cd fun x => { x with course :=
      { x.course with adOut := x.course.adOut ++ [(m.dst, x.course.staged m.dst, bs)] } })
  else
    .ok (d.modDie cd fun x => { x with ladle :=
      { x.ladle with
        store := memStore 0 x.ladle.store (m.dst + 64 * i) bs
        buckets := x.ladle.buckets.map fun b => b.moved (m.dst + 64 * i) } })

/-- Lines moved from `i` on: the device, and the code, line, side and number of the first line that faults (R194). A line of an entry whose
write faults is not taken; a line read from memory has been read, and a corrected error of it counts (R176). -/
def Device.moveLines (c : Context) (cd : Cd) (m : MoveCmd) : Nat → Nat → Device → Device × Option (Nat × Nat × Bool × Nat)
  | 0, _, d => (d, none)
  | n + 1, i, d =>
    match d.moveRead c cd m i with
    | .error (e, l) => (d.eccOf l (.error e : Except Nat Unit), some (e, l, false, i))
    | .ok (bs, d1) =>
      match d1.moveWrite c cd m i bs with
      | .error (e, l) => (if m.sk = 0 then d1 else d, some (e, l, true, i))
      | .ok d2 => Device.moveLines c cd m n (i + 1) d2

/-- Island of a Tongs channel. -/
def tongsIsland (cd : Cd) (chan : Nat) : BitVec 16 := cdIsland cd 4 chan

/-- The lines of a MOVE moved from its restart offset on; while its context is being stopped it comes to a line boundary, a stop point,
after each line (R197, R387). -/
def Device.moveRun (d : Device) (c : Context) (cd : Cd) (chan : Nat) (q : QueueId) (e : QEntry) : Engine :=
  let m := d.dies[cd].moveCmd e
  let i := e.progress.toNat / 64
  let n := if d.stopping c then min 1 (m.lines - i) else m.lines - i
  match Device.moveLines c cd m n i d with
  | (d1, some (er, l, side, i)) => .stopped (d1.memFault c (tongsIsland cd chan) er l (64 * i) side 0 0)
  | (d1, none) =>
    if i + n < m.lines then .cut d1 (64 * (i + n)) []
    else .ran (d1.modDie cd fun x => x.noteProgress q e (64 * m.lines)) (e.sOf (64 * m.lines)) true

/-- A DPA lies in the own bonded SRAM of a CD. -/
def inOwnSram (cd : Cd) (a : Nat) : Bool := decide (sramOf cd.val ≤ a) && decide (a < sramOf cd.val + 0x80000000)

/-- A DPA lies in the own LPDDR5X window of a CD. -/
def inOwnLpddr (cd : Cd) (a : Nat) : Bool := decide (lpddrOf cd.val ≤ a) && decide (a < lpddrOf cd.val + 0x2000000000)

/-- A channel 3 MOVE that breaks R306: the store offset. -/
def Die.ladleMoveFault (x : Die) (cd : Cd) (m : MoveCmd) : Option Nat :=
  let n := 64 * m.lines
  let off := if m.dk = 2 then m.dst else m.src
  let inside := fun (b : Bucket) => decide (b.store ≤ off) && decide (off + n ≤ b.store + 8 * b.elems)
  let openB := x.ladle.buckets.any fun b => b.state == .isOpen && inside b
  let last := fun a => a + n - 64
  let side := if m.dk = 2 then
      m.sk == 0 && ((inOwnSram cd m.src && inOwnSram cd (last m.src)) || (inOwnLpddr cd m.src && inOwnLpddr cd (last m.src)))
    else m.sk == 2 && m.dk == 0 && inOwnSram cd m.dst && inOwnSram cd (last m.dst)
  if openB && side && off % 64 == 0 then none else some off

/-- The companion line that a MOVE first touches. -/
def Device.companionLine (d : Device) (m : MoveCmd) : Option Nat :=
  let isC : Nat → Bool := fun a => match d.place a with | .companion _ => true | _ => false
  if m.sk = 0 ∧ isC m.src then some m.src else if m.dk = 0 ∧ isC m.dst then some m.dst else none

/-- A gated MOVE counts as started (R348). -/
def Device.gateStart (d : Device) (c : Context) (cd : Cd) (q : QueueId) (e : QEntry) : Device :=
  if moveFlag q e 0 && !e.started then
    d.modCtx c.slot fun c => c.modRecv (c.posOf cd) (cwStream e.w) fun r => { r with gated := r.gated + 1 }
  else d

/-- Requester code of a channel's LPDDR5X accesses (R212). -/
def chanCode (chan : Nat) : Nat := if chan = 3 then 5 else chan + 1

/-- The LPDDR5X lines of a MOVE are served under the wheel in force (R212). -/
def Device.moveServed (d : Device) (c : Context) (cd : Cd) (chan : Nat) (m : MoveCmd) : Bool :=
  (m.sk != 0 || d.wheelServesRun c cd (chanCode chan) m.src (64 * m.lines))
    && (m.dk != 0 || d.wheelServesRun c cd (chanCode chan) m.dst (64 * m.lines))

/-- MOVE on a channel: it waits for its gate or its stream, for delivered lines of an entry it takes, for room for lines it stages and for
a wheel with a position of its code; one that stood at a stop point has passed its gate and stream. With the Yalken link down, an access
to companion memory waits for its answer (R212, R215, R218, R306, R348, R349, R359). -/
def moveEngine (cd : Cd) (chan : Nat) (q : QueueId) (d : Device) (c : Context) (e : QEntry) : Engine :=
  let x := d.dies[cd]
  let m := x.moveCmd e
  if !e.started && ((moveFlag q e 0 && c.gateWait cd e) || (moveFlag q e 6 && c.postWait cd e)) then .wait
  else
    let d0 := d.gateStart c cd q e
    if m.lines = 0 then .ran d0 (e.sOf 0) true
    else if chan = 3 ∧ (x.ladleMoveFault cd m).isSome then
      .stopped (d0.fault c (d0.err (tongsIsland cd 3) 11 6 c.tag none ((x.ladleMoveFault cd m).getD 0)))
    else if x.entryWait e then .wait
    else if !d.moveServed c cd chan m then .wait
    else match (if d.yalkenUp then none else d.companionLine m) with
      | some l => .ran { d0 with companion := d0.companion ++ [⟨c.slot, cd, q, BitVec.ofNat 52 l, 0⟩] } (e.sOf (64 * m.lines)) false
      | none => d0.moveRun c cd chan q e

/-- MOVE. -/
def execTongsMove (cd : Cd) (chan : Fin 3) (s : State) : Host.Outcome State Fault Refusal :=
  .next { s with dev := s.dev.startHead cd (idx 12 (6 + chan.val)) 1 (moveEngine cd (chan.val + 1) (idx 12 (6 + chan.val))) }

/-- A waiting companion access is answered: the MOVE that made it moves its lines, or, when only the answer to its last line was
missing, it is complete (R155, R359). -/
def Device.companionAnswer (d : Device) (a : CompanionAccess) : Device :=
  let d0 := { d with companion := d.companion.erase a }
  match d0.ctxAt a.slot with
  | none => d0
  | some c =>
    match d0.dies[a.cd].queues[a.queue].find? fun e => e.started && !e.done with
    | none => d0
    | some e =>
      match d0.moveRun c a.cd (a.queue.val - 5) a.queue e with
      | .ran d1 _ _ => d1.modDie a.cd fun x =>
          x.modQueue a.queue fun l => setEntry l e.no fun e => { e with done := true, inputRead := true }
      | .stopped d1 => d1.modDie a.cd fun x => x.markStop a.queue e
      | .cut d1 n svals => d1.modDie a.cd fun x => x.markCut a.queue e n svals
      | .wait => d0

/-- The MOVE of a queue that has written its last line to companion memory and has not reached its completion point: the address of that
line and the bytes before it (R155). -/
def Device.lastLineOut (d : Device) (cd : Cd) (q : QueueId) : Option (Nat × Nat) :=
  match d.dies[cd].queues[q].find? fun e => e.started && e.done && cwOp e.w == 1 with
  | none => none
  | some e =>
    let m := d.dies[cd].moveCmd e
    if m.lines = 0 ∨ m.dk ≠ 0 then none
    else
      let a := wrap52 (m.dst + 64 * (m.lines - 1))
      match d.place a with
      | .companion _ => some (a, 64 * (m.lines - 1))
      | _ => none

/-- The link goes down: the answers to the last lines of MOVEs that have not completed are outstanding (R155, R359; log entry 14). -/
def Device.linkLost (d : Device) : Device :=
  let accesses := (List.finRange 16).flatMap fun cd => [(6 : QueueId), 7].filterMap fun q =>
    match d.residentOf cd, d.lastLineOut cd q with
    | some c, some (a, n) => if d.companionWait c cd q then none else some (⟨c.slot, cd, q, BitVec.ofNat 52 a, n⟩ : CompanionAccess)
    | _, _ => none
  { d with companion := d.companion ++ accesses }

/-- A companion access has had no answer: COMPANION_ERR at its line, and its MOVE stops (R171, R195, R359). -/
def Device.companionTimeout (d : Device) (i : Nat) : Device :=
  match d.companion[i]? with
  | none => d
  | some a =>
    let d0 := { d with companion := d.companion.erase a }
    match d0.ctxAt a.slot with
    | none => d0
    | some c =>
      match d0.dies[a.cd].queues[a.queue].find? fun e => e.started && cwOp e.w == 1 with
      | none => d0
      | some e =>
        let m := d0.dies[a.cd].moveCmd e
        (d0.memFault c (tongsIsland a.cd (a.queue.val - 5)) eCompanion a.dpa.toNat a.before (decide (m.src ≠ a.dpa.toNat)) 0 0).modDie a.cd fun x =>
          x.markStop a.queue e

/-! ### WEIGHTIN and chunk tiles (R219 to R221) -/

/-- Course tiles that a WEIGHTIN takes. -/
def Die.weightCount (x : Die) (e : QEntry) : Nat := if cwImsel e.w = 0 then x.recField e 0xC 4 else e.imm.toNat

/-- WEIGHTIN: channel 0 takes up the command; a count of 0 completes when it starts. -/
def weightinEngine (cd : Cd) (d : Device) (_ : Context) (e : QEntry) : Engine :=
  let n := d.dies[cd].weightCount e
  if n = 0 then .ran d [] true
  else .ran (d.modDie cd fun x => { x with weightIn := { left := n, next := 0 } }) [] false

/-- WEIGHTIN. -/
def execWeightin (cd : Cd) (s : State) : Host.Outcome State Fault Refusal :=
  .next { s with dev := s.dev.startHead cd 5 2 (weightinEngine cd) }

/-- The bytes of half `h` of a Course tile, when all its lines have arrived. -/
def CTile.half (t : CTile) (h : Nat) : Option (List Byte) :=
  (List.range 136).foldlM (init := ([] : List Byte)) fun acc i =>
    ((t.lines.find? fun l => l.1 == 136 * h + i).map (·.2)).map fun bs => acc ++ bs

/-- Nibble (k, c) of a half-tile: groups column by column (log entry 22). -/
def halfNibble (bs : Array Byte) (k c : Nat) : BitVec 16 :=
  let b := (bs.getD ((c * 2 + k / 64) * 32 + k % 64 / 2) 0).toNat
  BitVec.ofNat 16 (if k % 2 = 0 then b % 16 else b / 16)

/-- Scale of group g of column c of a half-tile. -/
def halfScale (bs : Array Byte) (g c : Nat) : BitVec 16 :=
  let a := 8192 + 2 * (c * 2 + g)
  BitVec.ofNat 16 ((bs.getD a 0).toNat + 256 * (bs.getD (a + 1) 0).toNat)

/-- The elements and scales that a half-tile gives a chunk tile, plain or transposed (R220, R221). -/
def halfPart (bytes : List Byte) (transpose : Bool) : List (BitVec 16) × List (BitVec 16) :=
  let bs := bytes.toArray
  ((List.range (128 * 128)).map fun i => if transpose then halfNibble bs (i % 128) (i / 128) else halfNibble bs (i / 128) (i % 128),
   (List.range 256).map fun i => if transpose then halfScale bs (i % 2) (i / 2) else halfScale bs (i / 128) (i % 128))

/-- The chunk tile made of one or two half-tiles. -/
def chunkTile (halves : List (List Byte)) (transpose : Bool) : WTile :=
  let ps := halves.map fun h => halfPart h transpose
  { mixer := false, k := 128 * halves.length, transposed := transpose, elems := ps.flatMap (·.1), scales := ps.flatMap (·.2) }

/-- The next chunk tile of the WEIGHTIN in hand, when its lines have all arrived: its MA, the tile, and whether it ends its Course
tile. -/
def Die.readyChunk (x : Die) : Option (QEntry × MaNo × WTile × Bool) :=
  match x.queues[(5 : QueueId)].find? fun e => e.started && !e.done && cwOp e.w == 2, x.course.recv with
  | some e, t :: _ =>
    if x.weightIn.left = 0 then none
    else
      let mode := x.recField e 1 1
      let n := x.recField e 2 1
      let j := if n = 0 then 0 else x.weightIn.next % n
      let ma : MaNo := idx 4 (bits (x.recField e 4 8) (2 * j + 1) (2 * j))
      let tr := bits mode 0 0 == 1
      if bits mode 1 1 = 1 then
        match t.half 0, t.half 1 with
        | some a, some b => some (e, ma, chunkTile [a, b] tr, true)
        | _, _ => none
      else
        let h := x.weightIn.next % 2
        match t.half h with
        | some a => some (e, ma, chunkTile [a] tr, h == 1)
        | none => none
  | _, _ => none

/-- A chunk tile placed into a free slot of its MA (R60, R219). -/
def Die.placeChunk (x : Die) : Die :=
  match x.readyChunk with
  | none => x
  | some (e, ma, t, last) =>
    if 10 ≤ x.mas[ma].weights.length then x
    else
      let left := if last then x.weightIn.left - 1 else x.weightIn.left
      let x1 := { x with
        mas := upd x.mas ma fun m => { m with weights := m.weights ++ [t] }
        weightIn := { left := left, next := x.weightIn.next + 1 }
        course := { x.course with recv := if last then x.course.recv.tail else x.course.recv } }
      if left = 0 then x1.modQueue 5 fun l => setEntry l e.no fun e => { e with done := true, inputRead := true } else x1

/-- CHUNK_TILE_PLACE, for the resident context of a CD whose engines run. -/
def Device.placeChunk (d : Device) (cd : Cd) : Device :=
  match d.residentOf cd with
  | none => d
  | some c => if d.dies[cd].frozen || d.enginesHeld c then d else d.modDie cd Die.placeChunk

/-- CHUNK_TILE_PLACE. -/
def execChunkTilePlace (cd : Cd) (s : State) : Host.Outcome State Fault Refusal :=
  .next { s with dev := s.dev.placeChunk cd }

end Sys2Proof.Machine
end

