-- ==== Sys2Proof/Machine/Elements.lean ====
section
/-! DEFINITION. Block integers and the element instructions of the Whisk (R89 to R93, R99 to R104). -/

namespace Sys2Proof.Machine

/-! ### Block integers (R89, R90) -/

/-- The value of a lane of a block. -/
def EBlock.lane (b : EBlock) (j : Nat) : Val :=
  let nf := b.nf.getD j 0
  if nf = 3 then .nan else if nf = 1 then .inf false else if nf = 2 then .inf true
  else (Dy.mk (b.i.getD j 0).toInt b.e).val

/-- The lanes of a block. -/
def EBlock.vals (b : EBlock) : List Val := (List.range b.i.length).map b.lane

/-- The raw integers of a block. -/
def EBlock.raws (b : EBlock) : List Int := b.i.map BitVec.toInt

/-- The code of a non-finite value. -/
def nfOf : Val → BitVec 2
  | .nan => 3
  | .inf neg => if neg then 2 else 1
  | .fin _ _ _ => 0

/-- Signed quanta of a value at exponent e; zero for a non-finite value. -/
def quantaAt (r : Rounding) (e : Int) : Val → Int
  | .fin neg mag f =>
    let k : Int := roundQuanta r mag f e
    if neg then -k else k
  | _ => 0

/-- An integer saturated to 32 bits, and whether it saturated. -/
def sat32 (v : Int) : BitVec 32 × Bool :=
  if 2 ^ 31 ≤ v then (BitVec.ofInt 32 (2 ^ 31 - 1), true)
  else if v < -(2 ^ 31) then (BitVec.ofInt 32 (-(2 ^ 31)), true)
  else (BitVec.ofInt 32 v, false)

/-- Block normalisation of exact values, each with its rounding (R90): the block and what each element met. -/
def normBlock (xs : List (Val × Rounding)) : EBlock × List (Option Meet) :=
  let m := maxMag (xs.map (·.1))
  let clamp := fun (z : Int) => if 1023 < z then 1023 else if z < -1024 then -1024 else z
  let e0 : Int := if m.m = 0 then 0 else clamp (log2Of m.m.natAbs m.e - 30)
  let up := xs.any fun x => (quantaAt x.2 e0 x.1).natAbs = 2 ^ 31
  let e : Int := if up && decide (e0 < 1023) then e0 + 1 else e0
  let ks := xs.map fun x => (quantaAt x.2 e x.1, x.1)
  ({ e := e, i := ks.map fun k => (sat32 k.1).1, nf := ks.map fun k => nfOf k.2 },
   ks.map fun k => match k.2 with
     | .nan => some .nanIn
     | .inf _ => some .infIn
     | .fin _ mag _ => if (sat32 k.1).2 then some .sat else if k.1 = 0 ∧ mag ≠ 0 then some .zeroOut else none)

/-- Normalisation of results inside an element program: round-to-nearest-even; only saturations count (R93, R104). -/
def normResult (vs : List Val) : EBlock × Nat :=
  let r := normBlock (vs.map fun v => (v, .nearestEven))
  (r.1, (r.2.filter (· == some .sat)).length)

/-- A raw block of integers, saturated (R104). -/
def rawResult (vs : List Int) : EBlock × Nat :=
  let r := vs.map sat32
  ({ e := 0, i := r.map (·.1), nf := r.map fun _ => 0 }, (r.filter (·.2)).length)

/-! ### Element instructions (R104) -/

/-- Exact comparison of values; false with a NaN. -/
def Val.ltv (a b : Val) : Bool :=
  match a, b with
  | .nan, _ => false
  | _, .nan => false
  | .inf n, .inf m => n && !m
  | .inf n, _ => n
  | _, .inf m => !m
  | a, b => a.dy.lt b.dy

/-- Exact equality of values; false with a NaN. -/
def Val.eqv (a b : Val) : Bool :=
  match a, b with
  | .nan, _ => false
  | _, .nan => false
  | .inf n, .inf m => n == m
  | .inf _, _ => false
  | _, .inf _ => false
  | a, b => !(a.dy.lt b.dy) && !(b.dy.lt a.dy)

/-- A value scaled by 2^k. Beyond 4,096 every non-zero value saturates or rounds to zero in its block, so k is clamped there. -/
def Val.scale (v : Val) (k : Int) : Val :=
  match v with
  | .fin n m e => .fin n m (e + (if 4096 < k then 4096 else if k < -4096 then -4096 else k))
  | other => other

/-- The magnitude. -/
def Val.absv : Val → Val
  | .nan => .nan
  | .inf _ => .inf false
  | .fin _ m e => .fin false m e

/-- Floor of a finite value, unsaturated. -/
def floorVal : Val → Int
  | .fin neg m e =>
    let i : Int := if neg then -(m : Int) else m
    if 0 ≤ e then shlInt i e.toNat else floorShift i (-e).toNat
  | _ => 0

/-- A lookup table in the plan store (R102): its exponent and entries. -/
structure LookTable where
  te : Int
  t : List (BitVec 32)

/-- The table at a plan-store offset. -/
def Die.lookTable (x : Die) (off : Nat) : LookTable where
  te := signed 16 (le (x.planBytes off 2))
  t := (List.range 256).map fun j => BitVec.ofNat 32 (le (x.planBytes (off + 8 + 4 * j) 4))

/-- The kind rule of an instruction: the operands it reads are written and of the kinds of R104. -/
def kindOk (op : Nat) (a b c : EReg) : Bool :=
  let aw := a.written
  let bw := b.written
  if op = 0 then true
  else if op = 1 ∨ op = 5 ∨ op = 6 then aw
  else if op = 2 ∨ op = 3 ∨ op = 4 ∨ op = 13 ∨ op = 14 ∨ op = 15 ∨ op = 17 ∨ op = 18 then aw && bw && a.raw == b.raw
  else if op = 7 ∨ op = 8 then aw && bw && b.raw
  else if op = 9 ∨ op = 10 ∨ op = 11 then aw && bw && a.raw && b.raw
  else if op = 12 ∨ op = 19 ∨ op = 21 ∨ op = 22 ∨ op = 25 then aw && a.raw
  else if op = 16 then aw && bw && c.written && a.raw == b.raw
  else if op = 20 ∨ op = 24 ∨ op = 26 then aw && !a.raw
  else if op = 23 then aw && bw && !a.raw && !b.raw
  else false

/-- A register made block by block, with the number of saturations. -/
def byBlock (raw : Bool) (n : Nat) (f : Nat → EBlock × Nat) : EReg × Nat :=
  let bs := (List.range n).map f
  ({ raw := raw, written := true, blocks := bs.map (·.1) }, (bs.map (·.2)).sum)

/-- Block number `k` of a register. -/
def EReg.blk (r : EReg) (k : Nat) : EBlock := r.blocks.getD k {}

/-- A one-operand instruction on block or raw values. -/
def unary (fv : Val → Val) (fi : Int → Int) (a : EReg) : EReg × Nat :=
  byBlock a.raw a.blocks.length fun k =>
    if a.raw then rawResult ((a.blk k).raws.map fi) else normResult ((a.blk k).vals.map fv)

/-- A two-operand instruction whose operands have one kind. -/
def binary (fv : Val → Val → Val) (fi : Int → Int → Int) (a b : EReg) : EReg × Nat :=
  byBlock a.raw a.blocks.length fun k =>
    if a.raw then rawResult (List.zipWith fi (a.blk k).raws (b.blk k).raws)
    else normResult (List.zipWith fv (a.blk k).vals (b.blk k).vals)

/-- A comparison: −1 or 0. -/
def compare (fv : Val → Val → Bool) (fi : Int → Int → Bool) (a b : EReg) : EReg × Nat :=
  byBlock true a.blocks.length fun k =>
    rawResult (if a.raw then List.zipWith (fun x y => if fi x y then -1 else 0) (a.blk k).raws (b.blk k).raws
      else List.zipWith (fun x y => if fv x y then -1 else 0) (a.blk k).vals (b.blk k).vals)

/-- A bitwise instruction on raw values. -/
def bitwise (f : BitVec 32 → BitVec 32 → BitVec 32) (a b : EReg) : EReg × Nat :=
  byBlock true a.blocks.length fun k =>
    rawResult (List.zipWith (fun x y => (f x y).toInt) (a.blk k).i (b.blk k).i)

/-- A raw result of each lane of a block operand. -/
def toRaw (f : Val → Int) (a : EReg) : EReg × Nat :=
  byBlock true a.blocks.length fun k => rawResult ((a.blk k).vals.map f)

/-- Element NOP. -/
def elNop (old : EReg) : EReg × Nat := (old, 0)
/-- MOV. -/
def elMov (a : EReg) : EReg × Nat := unary id id a
/-- ADD. -/
def elAdd (a b : EReg) : EReg × Nat := binary Val.add (· + ·) a b
/-- SUB. -/
def elSub (a b : EReg) : EReg × Nat := binary (fun x y => x.add y.neg) (· - ·) a b
/-- MUL. -/
def elMul (a b : EReg) : EReg × Nat := binary Val.mul (· * ·) a b
/-- NEG. -/
def elNeg (a : EReg) : EReg × Nat := unary Val.neg (fun x => -x) a
/-- ABS. -/
def elAbs (a : EReg) : EReg × Nat := unary Val.absv (fun x => x.natAbs) a

/-- A raw shift left; a lost bit or a count outside 0 to 31 saturates to the limit of the operand's sign. -/
def shlRaw (x n : Int) : Int :=
  if x = 0 then 0
  else if n < 0 ∨ 31 < n then (if x < 0 then -(2 ^ 40) else 2 ^ 40)
  else shlInt x n.toNat

/-- A raw arithmetic shift right. -/
def shrRaw (x n : Int) : Int :=
  if n < 0 then x else if 31 < n then (if x < 0 then -1 else 0) else floorShift x n.toNat

/-- SHL. -/
def elShl (a b : EReg) : EReg × Nat :=
  byBlock a.raw a.blocks.length fun k =>
    if a.raw then rawResult (List.zipWith shlRaw (a.blk k).raws (b.blk k).raws)
    else normResult (List.zipWith Val.scale (a.blk k).vals (b.blk k).raws)

/-- SHR. -/
def elShr (a b : EReg) : EReg × Nat :=
  byBlock a.raw a.blocks.length fun k =>
    if a.raw then rawResult (List.zipWith shrRaw (a.blk k).raws (b.blk k).raws)
    else normResult (List.zipWith (fun v n => v.scale (-n)) (a.blk k).vals (b.blk k).raws)

/-- AND. -/
def elAnd (a b : EReg) : EReg × Nat := bitwise (· &&& ·) a b
/-- OR. -/
def elOr (a b : EReg) : EReg × Nat := bitwise (· ||| ·) a b
/-- XOR. -/
def elXor (a b : EReg) : EReg × Nat := bitwise (· ^^^ ·) a b
/-- NOT. -/
def elNot (a : EReg) : EReg × Nat := unary id (fun x => -x - 1) a
/-- CLT. -/
def elClt (a b : EReg) : EReg × Nat := compare Val.ltv (fun x y => decide (x < y)) a b
/-- CLE. -/
def elCle (a b : EReg) : EReg × Nat := compare (fun x y => x.ltv y || x.eqv y) (fun x y => decide (x ≤ y)) a b
/-- CEQ. -/
def elCeq (a b : EReg) : EReg × Nat := compare Val.eqv (fun x y => decide (x = y)) a b

/-- Lanes of a block that are non-zero or non-finite. -/
def EBlock.actives (b : EBlock) : List Bool :=
  (List.range b.i.length).map fun j => b.i.getD j 0 != 0 || b.nf.getD j 0 != 0

/-- SEL. -/
def elSel (a b c : EReg) : EReg × Nat :=
  byBlock a.raw a.blocks.length fun k =>
    let act := (c.blk k).actives
    if a.raw then rawResult (List.zipWith (fun p (q : Int × Int) => if p then q.1 else q.2) act ((a.blk k).raws.zip (b.blk k).raws))
    else normResult (List.zipWith (fun p (q : Val × Val) => if p then q.1 else q.2) act ((a.blk k).vals.zip (b.blk k).vals))

/-- MAX. -/
def elMax (a b : EReg) : EReg × Nat :=
  binary (fun x y => if x = .nan ∨ y = .nan then .nan else if x.ltv y then y else x) (fun x y => if x < y then y else x) a b
/-- MIN. -/
def elMin (a b : EReg) : EReg × Nat :=
  binary (fun x y => if x = .nan ∨ y = .nan then .nan else if x.ltv y then x else y) (fun x y => if x < y then x else y) a b

/-- Leading zero bits of a 32-bit value. -/
def clz32 (v : BitVec 32) : Int := if v = 0 then 32 else 31 - (log2 v.toNat : Int)

/-- CLZ. -/
def elClz (a : EReg) : EReg × Nat := byBlock true a.blocks.length fun k => rawResult ((a.blk k).i.map clz32)

/-- ILG. -/
def elIlg (a : EReg) : EReg × Nat := toRaw (fun v => match v with
  | .fin _ m e => if m = 0 then -(2 ^ 31) else log2Of m e
  | _ => 2 ^ 31 - 1) a

/-- LUTA and LUTB. -/
def elLut (t : LookTable) (a : EReg) : EReg × Nat :=
  byBlock false a.blocks.length fun k =>
    normResult ((a.blk k).i.map fun v => (Dy.mk (t.t.getD (v.toNat % 256) 0).toInt t.te).val)

/-- ALN: its out-of-range elements saturate and are not counted (R93, R104). -/
def elAln (a b : EReg) : EReg × Nat :=
  byBlock false a.blocks.length fun k =>
    let eb := (b.blk k).e
    let vs := (a.blk k).vals
    let r := vs.map fun v => sat32 (quantaAt .nearestEven eb v)
    ({ e := eb, i := r.map (·.1), nf := vs.map nfOf }, 0)

/-- TOI: non-finite values count as saturations (R93). -/
def elToi (a : EReg) : EReg × Nat :=
  let r := toRaw (fun v => match v with
    | .nan => 0
    | .inf neg => if neg then -(2 ^ 31) else 2 ^ 31 - 1
    | v => floorVal v) a
  (r.1, r.2 + ((a.blocks.flatMap EBlock.vals).filter fun v => !v.finite).length)

/-- TOF. -/
def elTof (a : EReg) : EReg × Nat :=
  byBlock false a.blocks.length fun k => normResult ((a.blk k).raws.map fun v => (Dy.mk v 0).val)

/-- NFC. -/
def elNfc (a : EReg) : EReg × Nat :=
  byBlock true a.blocks.length fun k => rawResult ((a.blk k).nf.map fun c => (c.toNat : Int))

/-- The result of an instruction from its operands (R104). -/
def elemOp (op : Nat) (ta tb : LookTable) (old a b c : EReg) : EReg × Nat :=
  match op with
  | 0x00 => elNop old | 0x01 => elMov a | 0x02 => elAdd a b | 0x03 => elSub a b | 0x04 => elMul a b
  | 0x05 => elNeg a | 0x06 => elAbs a | 0x07 => elShl a b | 0x08 => elShr a b | 0x09 => elAnd a b
  | 0x0A => elOr a b | 0x0B => elXor a b | 0x0C => elNot a | 0x0D => elClt a b | 0x0E => elCle a b
  | 0x0F => elCeq a b | 0x10 => elSel a b c | 0x11 => elMax a b | 0x12 => elMin a b | 0x13 => elClz a
  | 0x14 => elIlg a | 0x15 => elLut ta a | 0x16 => elLut tb a | 0x17 => elAln a b | 0x18 => elToi a
  | 0x19 => elTof a | 0x1A => elNfc a
  | _ => (old, 0)

/-! ### The rows of the table -/

/-- An element instruction on the registers of a Whisk: the result into vd, its saturations into the tally (R93). An instruction
whose operands break the kind rule is refused at load (R99) and does nothing here. -/
def Die.element (x : Die) (op : Nat) (w : ElemWord) (f : EReg → EReg → EReg → EReg × Nat) : Die :=
  let k := x.whisk
  let a := k.v[w.va]
  let b := k.v[w.vb]
  let c := k.v[w.vc]
  if !kindOk op a b c then x
  else
    let r := f a b c
    { x with
      whisk := { k with v := k.v.set w.vd r.1 }
      tally := { x.tally with sat := x.tally.sat.add r.2 } }

/-- An element instruction on the Whisk of a CD. -/
def Device.element (d : Device) (cd : Cd) (op : Nat) (w : ElemWord) (f : EReg → EReg → EReg → EReg × Nat) : Device :=
  d.modDie cd fun x => x.element op w f

/-- ELEM_NOP. -/
def execElemNop (cd : Cd) (w : ElemWord) (s : State) : Host.Outcome State Fault Refusal :=
  .next { s with dev := s.dev.element cd 0 w fun _ _ _ => elNop s.dev.dies[cd].whisk.v[w.vd] }

/-- ELEM_MOV. -/
def execElemMov (cd : Cd) (w : ElemWord) (s : State) : Host.Outcome State Fault Refusal :=
  .next { s with dev := s.dev.element cd 1 w fun a _ _ => elMov a }

/-- ELEM_ADD. -/
def execElemAdd (cd : Cd) (w : ElemWord) (s : State) : Host.Outcome State Fault Refusal :=
  .next { s with dev := s.dev.element cd 2 w fun a b _ => elAdd a b }

/-- ELEM_SUB. -/
def execElemSub (cd : Cd) (w : ElemWord) (s : State) : Host.Outcome State Fault Refusal :=
  .next { s with dev := s.dev.element cd 3 w fun a b _ => elSub a b }

/-- ELEM_MUL. -/
def execElemMul (cd : Cd) (w : ElemWord) (s : State) : Host.Outcome State Fault Refusal :=
  .next { s with dev := s.dev.element cd 4 w fun a b _ => elMul a b }

/-- ELEM_NEG. -/
def execElemNeg (cd : Cd) (w : ElemWord) (s : State) : Host.Outcome State Fault Refusal :=
  .next { s with dev := s.dev.element cd 5 w fun a _ _ => elNeg a }

/-- ELEM_ABS. -/
def execElemAbs (cd : Cd) (w : ElemWord) (s : State) : Host.Outcome State Fault Refusal :=
  .next { s with dev := s.dev.element cd 6 w fun a _ _ => elAbs a }

/-- ELEM_SHL. -/
def execElemShl (cd : Cd) (w : ElemWord) (s : State) : Host.Outcome State Fault Refusal :=
  .next { s with dev := s.dev.element cd 7 w fun a b _ => elShl a b }

/-- ELEM_SHR. -/
def execElemShr (cd : Cd) (w : ElemWord) (s : State) : Host.Outcome State Fault Refusal :=
  .next { s with dev := s.dev.element cd 8 w fun a b _ => elShr a b }

/-- ELEM_AND. -/
def execElemAnd (cd : Cd) (w : ElemWord) (s : State) : Host.Outcome State Fault Refusal :=
  .next { s with dev := s.dev.element cd 9 w fun a b _ => elAnd a b }

/-- ELEM_OR. -/
def execElemOr (cd : Cd) (w : ElemWord) (s : State) : Host.Outcome State Fault Refusal :=
  .next { s with dev := s.dev.element cd 10 w fun a b _ => elOr a b }

/-- ELEM_XOR. -/
def execElemXor (cd : Cd) (w : ElemWord) (s : State) : Host.Outcome State Fault Refusal :=
  .next { s with dev := s.dev.element cd 11 w fun a b _ => elXor a b }

/-- ELEM_NOT. -/
def execElemNot (cd : Cd) (w : ElemWord) (s : State) : Host.Outcome State Fault Refusal :=
  .next { s with dev := s.dev.element cd 12 w fun a _ _ => elNot a }

/-- ELEM_CLT. -/
def execElemClt (cd : Cd) (w : ElemWord) (s : State) : Host.Outcome State Fault Refusal :=
  .next { s with dev := s.dev.element cd 13 w fun a b _ => elClt a b }

/-- ELEM_CLE. -/
def execElemCle (cd : Cd) (w : ElemWord) (s : State) : Host.Outcome State Fault Refusal :=
  .next { s with dev := s.dev.element cd 14 w fun a b _ => elCle a b }

/-- ELEM_CEQ. -/
def execElemCeq (cd : Cd) (w : ElemWord) (s : State) : Host.Outcome State Fault Refusal :=
  .next { s with dev := s.dev.element cd 15 w fun a b _ => elCeq a b }

/-- ELEM_SEL. -/
def execElemSel (cd : Cd) (w : ElemWord) (s : State) : Host.Outcome State Fault Refusal :=
  .next { s with dev := s.dev.element cd 16 w fun a b c => elSel a b c }

/-- ELEM_MAX. -/
def execElemMax (cd : Cd) (w : ElemWord) (s : State) : Host.Outcome State Fault Refusal :=
  .next { s with dev := s.dev.element cd 17 w fun a b _ => elMax a b }

/-- ELEM_MIN. -/
def execElemMin (cd : Cd) (w : ElemWord) (s : State) : Host.Outcome State Fault Refusal :=
  .next { s with dev := s.dev.element cd 18 w fun a b _ => elMin a b }

/-- ELEM_CLZ. -/
def execElemClz (cd : Cd) (w : ElemWord) (s : State) : Host.Outcome State Fault Refusal :=
  .next { s with dev := s.dev.element cd 19 w fun a _ _ => elClz a }

/-- ILG. -/
def execIlg (cd : Cd) (w : ElemWord) (s : State) : Host.Outcome State Fault Refusal :=
  .next { s with dev := s.dev.element cd 20 w fun a _ _ => elIlg a }

/-- LUTA. -/
def execLuta (cd : Cd) (w : ElemWord) (s : State) : Host.Outcome State Fault Refusal :=
  .next { s with dev := s.dev.element cd 21 w fun a _ _ => elLut (s.dev.dies[cd].lookTable s.dev.dies[cd].whisk.tabA.toNat) a }

/-- LUTB. -/
def execLutb (cd : Cd) (w : ElemWord) (s : State) : Host.Outcome State Fault Refusal :=
  .next { s with dev := s.dev.element cd 22 w fun a _ _ => elLut (s.dev.dies[cd].lookTable s.dev.dies[cd].whisk.tabB.toNat) a }

/-- ALN. -/
def execAln (cd : Cd) (w : ElemWord) (s : State) : Host.Outcome State Fault Refusal :=
  .next { s with dev := s.dev.element cd 23 w fun a b _ => elAln a b }

/-- TOI. -/
def execToi (cd : Cd) (w : ElemWord) (s : State) : Host.Outcome State Fault Refusal :=
  .next { s with dev := s.dev.element cd 24 w fun a _ _ => elToi a }

/-- TOF. -/
def execTof (cd : Cd) (w : ElemWord) (s : State) : Host.Outcome State Fault Refusal :=
  .next { s with dev := s.dev.element cd 25 w fun a _ _ => elTof a }

/-- NFC. -/
def execNfc (cd : Cd) (w : ElemWord) (s : State) : Host.Outcome State Fault Refusal :=
  .next { s with dev := s.dev.element cd 26 w fun a _ _ => elNfc a }

end Sys2Proof.Machine
end

