-- ==== Sys2Proof/Machine/Whisk.lean ====
section
/-! DEFINITION. The Whisk: streams, element programs, summary and Colander modes, row reductions (R91 to R117). -/

namespace Sys2Proof.Machine

/-! ### Records (R94, R95, R100) -/

/-- A stream descriptor, with g[ga] added to the addresses of a source-0 stream (R95, R149). -/
structure WStream where
  base : Nat
  src : Nat
  fmt : Nat
  mode : Nat
  raw : Bool
  bcast : Nat
  reduce : Nat
  tid : Nat
  s1 : Int
  s2 : Int
  aux : Nat
  idxBase : Nat
  is1 : Nat
  is2 : Nat
  deriving DecidableEq, Repr

/-- An element program (R100). -/
structure WProg where
  mode : Nat
  k : Nat
  o : Nat
  outRegs : Nat
  sel : Fin 16
  selUsed : Bool
  split : Nat
  sumSrc : Fin 16
  sBase : Nat
  sumExp : Int
  fallback : Nat
  tabA : Nat
  tabB : Nat
  code : List Nat
  deriving DecidableEq, Repr

/-- A Whisk command record with its program. -/
structure WCmd where
  off : Nat
  e0 : Nat
  e1 : Nat
  e2 : Nat
  selMap : Nat
  prog : WProg
  streams : List WStream
  deriving DecidableEq, Repr

/-- The program image at a plan-store offset. -/
def Die.whiskProg (x : Die) (off : Nat) : WProg :=
  let h := fun a n => le (x.planBytes (off + a) n)
  { mode := bits (h 2 1) 1 0, k := bits (h 3 1) 3 0, o := bits (h 3 1) 7 4, outRegs := h 4 2,
    sel := idx 16 (bits (h 6 1) 3 0), selUsed := bits (h 6 1) 4 4 == 1, split := h 7 1,
    sumSrc := idx 16 (bits (h 8 1) 3 0), sBase := bits (h 9 1) 3 0, sumExp := signed 11 (h 10 2),
    fallback := h 12 2, tabA := h 16 4, tabB := h 20 4,
    code := (List.range (bits (h 1 1) 5 0 + 1)).map fun i => h (0x20 + 4 * i) 4 }

/-- The stream descriptor at a plan-store offset, `ga` the value added to its addresses. -/
def Die.whiskStream (x : Die) (off ga : Nat) : WStream :=
  let h := fun a n => le (x.planBytes (off + a) n)
  let src := bits (h 0 8) 54 52
  let add := fun a => if src = 0 then wrap52 (a % 2 ^ 52 + ga) else a % 2 ^ 52
  { base := add (h 0 8), src := src, fmt := bits (h 8 1) 3 0, mode := bits (h 8 1) 5 4, raw := bits (h 8 1) 6 6 == 1,
    bcast := bits (h 9 1) 1 0, reduce := bits (h 9 1) 3 2, tid := h 0xC 4, s1 := signed 32 (h 0x10 4),
    s2 := signed 32 (h 0x14 4), aux := add (h 0x18 8), idxBase := h 0x20 4, is1 := h 0x24 4, is2 := h 0x28 4 }

/-- The command that the record at a plan-store offset describes. -/
def Die.whiskCmd (x : Die) (off ga : Nat) : WCmd :=
  let h := fun a n => le (x.planBytes (off + a) n)
  let p := x.whiskProg (h 4 4)
  { off := off, e0 := h 8 4, e1 := h 0xC 4, e2 := h 0x10 4, selMap := wrap52 (h 0x18 8 % 2 ^ 52 + ga), prog := p,
    streams := (List.range (p.k + p.o)).map fun i => x.whiskStream (off + 0x20 + 64 * i) ga }

/-- Elements of the element space. -/
def WCmd.n (w : WCmd) : Nat := w.e0 * w.e1 * w.e2
/-- Input streams. -/
def WCmd.ins (w : WCmd) : List WStream := w.streams.take w.prog.k
/-- Output streams. -/
def WCmd.outs (w : WCmd) : List WStream := w.streams.drop w.prog.k
/-- Register of output j. -/
def WProg.outReg (p : WProg) (j : Nat) : Fin 16 := idx 16 (bits p.outRegs (4 * j + 3) (4 * j))
/-- Coordinates of an element in row-major order. -/
def WCmd.coord (w : WCmd) (x : Nat) : Nat × Nat × Nat := (x % w.e0, x / w.e0 % w.e1, x / w.e0 / w.e1)

/-- Memory element of an element of the space (R96, R98). -/
def WStream.elem (s : WStream) (p : Nat × Nat × Nat) : Int :=
  if s.reduce ≠ 0 ∨ s.bcast = 1 then p.2.1 * s.s1 + p.2.2 * s.s2
  else if s.bcast = 2 then 0
  else if s.bcast = 3 then p.1
  else p.1 + p.2.1 * s.s1 + p.2.2 * s.s2

/-- Stochastic index of an element (R96). -/
def WStream.index (s : WStream) (p : Nat × Nat × Nat) : Nat := (s.idxBase + p.1 + p.2.1 * s.is1 + p.2.2 * s.is2) % 2 ^ 32

/-- Elements of the stream that its pass has taken when it stands at element `x` of the space with `n` elements before it: a broadcasting
stream has one element for a row, for a column or for all (R96, R117). -/
def WStream.place (s : WStream) (w : WCmd) (x n : Nat) : Nat :=
  if s.bcast = 1 then x / w.e0 else if s.bcast = 2 then 0 else if s.bcast = 3 then x % w.e0 else n

/-- Bits of an element of the stream. -/
def WStream.width (s : WStream) : Nat := ((fmtOf s.fmt).map Fmt.width).getD 8

/-- Bytes of the aux section per entry and elements that share an entry; none for a format without one. -/
def WStream.auxGrain (s : WStream) : Option (Nat × Nat) :=
  if s.fmt = 0 then some (2, 64) else if s.fmt = 6 then some (1, 32) else none

/-- An address a signed number of bytes from a base, modulo 2^52. -/
def addrFrom (base : Nat) (off : Int) : Nat := (((base : Int) + off) % 2 ^ 52).toNat

/-! ### Spans (R98, R109) -/

/-- Lowest and highest memory element over the element space. -/
def WStream.extent (s : WStream) (w : WCmd) : Int × Int :=
  let row := s.reduce = 0 ∧ (s.bcast = 0 ∨ s.bcast = 3)
  let strided := s.reduce ≠ 0 ∨ s.bcast = 0 ∨ s.bcast = 1
  let a : Int := if strided then ((w.e1 : Int) - 1) * s.s1 else 0
  let b : Int := if strided then ((w.e2 : Int) - 1) * s.s2 else 0
  (min a 0 + min b 0, (if row then (w.e0 : Int) - 1 else 0) + max a 0 + max b 0)

/-- The byte ranges of a stream's span; none for an output stage source. -/
def WStream.span (s : WStream) (w : WCmd) : List (Int × Int) :=
  if s.src ≠ 0 then []
  else
    let r := s.extent w
    let main := ((s.base : Int) + Int.fdiv (r.1 * s.width) 8, (s.base : Int) + Int.fdiv (r.2 * s.width + s.width - 1) 8 + 1)
    match s.auxGrain with
    | none => [main]
    | some (b, g) => [main, ((s.aux : Int) + b * Int.fdiv r.1 g, (s.aux : Int) + b * Int.fdiv r.2 g + b)]

/-- Two spans share a byte. -/
def spansMeet (a b : List (Int × Int)) : Bool := a.any fun x => b.any fun y => decide (x.1 < y.2) && decide (y.1 < x.2)

/-- An output may overwrite an input: same base, strides and format, neither broadcasts (R98). -/
def WStream.inPlace (a b : WStream) : Bool :=
  a.bcast == 0 && b.bcast == 0 && a.fmt == b.fmt && a.base == b.base && a.s1 == b.s1 && a.s2 == b.s2

/-- The first refused overlap of a command: the detail field of STREAM_OVERLAP (R98, R109). -/
def WCmd.overlap (w : WCmd) : Option Nat :=
  let k := w.prog.k
  let all := w.streams.zipIdx
  let outs := all.drop k
  let first := outs.findSome? fun (a, i) => all.findSome? fun (b, j) =>
    if i = j then none
    else if w.prog.mode ≠ 2 && j < k && a.inPlace b then none
    else if spansMeet (a.span w) (b.span w) then some (i + j * 16) else none
  match first with
  | some x => some x
  | none =>
    if w.prog.mode ≠ 2 then none
    else
      let m : Int × Int := (w.selMap, w.selMap + ceilDiv (ceilDiv w.n 8) 64 * 64)
      all.findSome? fun (b, j) => if spansMeet [m] (b.span w) then some (0xF + j * 16) else none

/-! ### Reading elements (R91, R96, R98) -/

/-- One element code of `w` bits read from a section. -/
def Device.codeAt (d : Device) (c : Context) (cd : Cd) (base : Nat) (o : Int) (w : Nat) : Except (Nat × Nat) Nat :=
  let bit := o * w
  let lo := Int.fdiv bit 8
  match d.readBytes c cd .whisk (addrFrom base lo) (ceilDiv w 8) with
  | .error e => .error e
  | .ok bs => .ok (bits (le bs >>> (bit - 8 * lo).toNat) (w - 1) 0)

/-- The exact value of one element of an input stream: an element of bonded SRAM with its scale or exponent, or an element of
the readout that the stream takes. -/
def Device.whiskValue (d : Device) (c : Context) (cd : Cd) (w : WCmd) (s : WStream) (rows : Array (BitVec 32)) (e : Int) (x : Nat) :
    Except (Nat × Nat) Val :=
  if s.src ≠ 0 then
    .ok (Dy.mk (rows.getD x 0).toInt (if s.raw then 0 else e)).val
  else
    let o := s.elem (w.coord x)
    match d.codeAt c cd s.base o s.width with
    | .error er => .error er
    | .ok code =>
      match s.auxGrain with
      | none => .ok (((fmtOf s.fmt).getD .int8).decode code)
      | some (b, g) =>
        match d.codeAt c cd s.aux (Int.fdiv o g) (8 * b) with
        | .error er => .error er
        | .ok a => .ok (if s.fmt = 0 then q4Value code a else sb16Value code a)

/-- What the intake counts of an element beyond its value: a Q4 group with a non-finite scale (R38, R54). -/
def Device.whiskScaleMeet (d : Device) (c : Context) (cd : Cd) (w : WCmd) (s : WStream) (x : Nat) : Option Meet :=
  if s.fmt ≠ 0 then none
  else match d.codeAt c cd s.aux (Int.fdiv (s.elem (w.coord x)) 64) 16 with
    | .ok a => q4Meet a
    | .error _ => none

/-- A list cut into pieces of `n`. -/
def pieces {α : Type} (n : Nat) (l : List α) : List (List α) :=
  (List.range (ceilDiv l.length n)).map fun i => (l.drop (n * i)).take n

/-- A fault on a stream line: code, line, bytes done, stream number. -/
structure WFault where
  code : Nat
  line : Nat
  done : Nat
  write : Bool
  stream : Nat

/-- The elements `xs` of an input stream as an element register, with what their conversion met; `before` elements of the stream
have been read earlier in the pass. -/
def Device.loadStream (d : Device) (c : Context) (cd : Cd) (w : WCmd) (step : Nat) (j before : Nat) (s : WStream) (ro : Option IntRows)
    (xs : List Nat) : Except WFault (EReg × List (Option Meet)) :=
  let rows := ((ro.map fun r => r.rows.flatten).getD []).toArray
  let e := (ro.map (·.e)).getD 0
  let vals := xs.zipIdx.mapM fun (x, i) =>
    match d.whiskValue c cd w s rows e x with
    | .ok v => Except.ok (x, v)
    | .error (er, l) => Except.error (WFault.mk er l (s.place w x (before + i) * s.width / 8 / 64 * 64) false j)
  match vals with
  | .error f => .error f
  | .ok vs =>
    if s.raw then
      .ok ({ raw := true, written := true, blocks := (pieces 32 vs).map fun b =>
        { e := 0, i := b.map fun p => BitVec.ofInt 32 (floorVal p.2), nf := b.map fun _ => 0 } }, [])
    else
      let bs := (pieces 32 vs).map fun b => normBlock (b.map fun p =>
        (p.2, (roundingOf s.mode (srDraw c.seed step s.tid (s.index (w.coord p.1)))).getD .nearestEven))
      let meets := bs.flatMap (·.2)
      let scale := xs.map (d.whiskScaleMeet c cd w s)
      .ok ({ raw := false, written := true, blocks := bs.map (·.1) },
        List.zipWith (fun m q => if q.isSome then q else m) meets scale)

/-- The inputs of some elements loaded into v0 to v(k−1), stream by stream, with what the conversions met; a load that faults counts
nothing (log entry 62). -/
def Device.loadInputs (d : Device) (c : Context) (cd : Cd) (w : WCmd) (step before : Nat) (ro : WStream → Option IntRows)
    (xs : List Nat) (v : Vector EReg 16) : Except WFault (Vector EReg 16 × List (Option Meet)) :=
  w.ins.zipIdx.foldlM (init := (v, [])) fun (v, ms) (s, j) =>
    match d.loadStream c cd w step j before s (ro s) xs with
    | .error f => Except.error f
    | .ok (r, m) => Except.ok (v.set (idx 16 j) r, ms ++ m)

/-! ### Programs (R99, R103) -/

/-- The register fields of an element instruction (R103). -/
def elemWordOf (w : Nat) : ElemWord :=
  ⟨idx 16 (bits w 9 6), idx 16 (bits w 13 10), idx 16 (bits w 17 14), idx 16 (bits w 21 18)⟩

/-- Element instructions run in order over the registers of a group: the registers and the saturations (R93). -/
def runElems (ta tb : LookTable) : List Nat → Vector EReg 16 → Vector EReg 16 × Nat
  | [], v => (v, 0)
  | w :: t, v =>
    let f := elemWordOf w
    let r := elemOp (bits w 5 0) ta tb v[f.vd] v[f.va] v[f.vb] v[f.vc]
    let z := runElems ta tb t (v.set f.vd r.1)
    (z.1, r.2 + z.2)

/-- The values of a register in element order. -/
def EReg.vals (r : EReg) : List Val := r.blocks.flatMap EBlock.vals

/-- The elements that a selector register marks active (R106). -/
def EReg.actives (r : EReg) : List Bool := r.blocks.flatMap EBlock.actives

/-! ### Summary (R106) and row reductions (R113, R114) -/

/-- One value taken into a reduction. -/
def Reduction.take (r : Reduction) (v : Val) : Reduction :=
  match v with
  | .nan => { r with nan := true, count := r.count + 1 }
  | .inf false => { r with pos := true, count := r.count + 1 }
  | .inf true => { r with neg := true, count := r.count + 1 }
  | .fin _ _ _ =>
    let x := v.dy
    { r with
      sum := r.sum.add x
      hi := match r.hi with | none => some x | some m => some (if m.lt x then x else m)
      lo := match r.lo with | none => some x | some m => some (if x.lt m then x else m)
      count := r.count + 1 }

/-- The row value of reduce code 1 or 2 (R113). -/
def Reduction.value (r : Reduction) (code : Nat) : Val :=
  if r.nan then .nan
  else if code = 1 then
    if r.pos && r.neg then .nan else if r.pos then .inf false else if r.neg then .inf true else r.sum.val
  else if r.pos then .inf false
  else match r.hi with
    | some m => m.val
    | none => .inf true

/-- A summary value at an exponent, rounded to nearest even and saturated to 64 bits. -/
def summary64 (e : Int) (v : Dy) : BitVec 64 :=
  let k := quantaAt .nearestEven e v.val
  if 2 ^ 63 ≤ k then BitVec.ofInt 64 (2 ^ 63 - 1) else if k < -(2 ^ 63) then BitVec.ofInt 64 (-(2 ^ 63)) else BitVec.ofInt 64 k

/-- The five summary values (R106). -/
def Reduction.summary (r : Reduction) (e : Int) : List (BitVec 64) :=
  [BitVec.ofNat 64 r.count,
   match r.hi with | some m => summary64 e m | none => BitVec.ofInt 64 (-(2 ^ 63)),
   match r.lo with | some m => summary64 e m | none => BitVec.ofInt 64 (2 ^ 63 - 1),
   summary64 e r.sum,
   if r.nan || r.pos || r.neg then 1 else 0]

/-! ### Writing outputs (R92, R111, R113) -/

/-- The progress of a command: device, open rows and pending row values of each output, summary, registers. -/
structure WRun where
  d : Device
  rows : List Reduction
  pend : List (List (Val × Nat))
  sum : Reduction := {}
  v : Vector EReg 16

/-- The bytes of some values in a stream's format with the aux bytes of an SB16 stream, and what they met. -/
def WStream.bytes (s : WStream) (rs : Nat → Option Rounding) (vs : List Val) : List Byte × List Byte × List (Option Meet) :=
  match fmtOf s.fmt with
  | some .sb16 =>
    let r := narrowSb16 rs vs
    (r.1, r.2.1, r.2.2.2)
  | some f =>
    let r := narrowRow f rs vs
    (r.1, [], r.2.2)
  | none => ([], [], [])

/-- Bytes written to both sections of an output from memory element `o` on. -/
def Device.putStream (d : Device) (c : Context) (cd : Cd) (s : WStream) (j : Nat) (o : Int) (before : Nat) (main aux : List Byte) :
    Except (Device × WFault) Device :=
  let b := before * s.width / 8
  match d.putBytes c cd .whisk (addrFrom s.base (o * (s.width / 8))) main with
  | (d1, some (e, l, done)) => .error (d1, WFault.mk e l ((b + done) / 64 * 64) true j)
  | (d1, none) =>
    match d1.putBytes c cd .whisk (addrFrom s.aux (Int.fdiv o 32)) aux with
    | (d2, some (e, l, _)) => .error (d2, WFault.mk e l (b / 64 * 64) true j)
    | (d2, none) => .ok d2

/-- What an output met, in the conversion tally. -/
def Device.noteTally (d : Device) (cd : Cd) (ms : List (Option Meet)) : Device :=
  d.modDie cd fun x => { x with tally := x.tally.notes ms }

/-- One run of elements of a row written by an ordinary output: a broadcasting output keeps the run's last element. An SB16 run forms its
blocks from its own first element on (log entry 63), one with broadcast 1 or 2 too, of which it keeps the last mantissa and the last
exponent (DESIGN CHOICE, log entry 75). -/
def Device.putRun (d : Device) (c : Context) (cd : Cd) (w : WCmd) (step j : Nat) (s : WStream) (xs : List (Nat × Val)) :
    Except (Device × WFault) Device :=
  match xs with
  | [] => .ok d
  | (x0, _) :: _ =>
    let rs := fun i => roundingOf s.mode (srDraw c.seed step s.tid (s.index (w.coord (x0 + i))))
    let r := s.bytes rs (xs.map (·.2))
    let last := s.bcast = 1 ∨ s.bcast = 2
    let main := if last then r.1.drop (r.1.length - s.width / 8) else r.1
    let aux := if last then r.2.1.drop (r.2.1.length - 1) else r.2.1
    match d.putStream c cd s j (s.elem (w.coord x0)) (s.place w x0 x0) main aux with
    | .error e => .error e
    | .ok d1 => .ok (d1.noteTally cd r.2.2)

/-- Elements grouped into runs of one row, at most 256 elements of which never cross a row's end. -/
def rowRuns (e0 : Nat) : List (Nat × Val) → List (List (Nat × Val))
  | [] => []
  | p :: t =>
    match rowRuns e0 t with
    | [] => [[p]]
    | r :: rs => if (p.1 + 1) % e0 = 0 then [p] :: r :: rs else (p :: r) :: rs

/-- A finished row value of a reducing output, written at once or, for SB16, with its block of 32 rows. -/
def WRun.putRow (r : WRun) (c : Context) (cd : Cd) (w : WCmd) (step j : Nat) (s : WStream) (x : Nat) (v : Val) :
    Except (Device × WFault) WRun :=
  let p := w.coord x
  let at0 := (0, p.2)
  let idxNo := s.index at0
  let round := fun n => roundingOf s.mode (srDraw c.seed step s.tid n)
  if s.fmt = 6 then
    let q := r.pend.getD j [] ++ [(v, idxNo)]
    if q.length < 32 then .ok { r with pend := r.pend.set j q }
    else
      let out := s.bytes (fun i => round (q.getD i (v, 0)).2) (q.map (·.1))
      match r.d.putStream c cd s j (s.elem at0 - 31) (x / w.e0 - 31) out.1 out.2.1 with
      | .error e => .error e
      | .ok d1 => .ok { r with d := d1.noteTally cd out.2.2, pend := r.pend.set j [] }
  else
    let out := s.bytes (fun _ => round idxNo) [v]
    match r.d.putStream c cd s j (s.elem at0) (x / w.e0) out.1 [] with
    | .error e => .error e
    | .ok d1 => .ok { r with d := d1.noteTally cd out.2.2 }

/-- The elements of a group taken by a reducing output. -/
def WRun.reduceRow (c : Context) (cd : Cd) (w : WCmd) (step j : Nat) (s : WStream) :
    List (Nat × Val) → WRun → Except (Device × WFault) WRun
  | [], r => .ok r
  | (x, v) :: t, r =>
    let a := (r.rows.getD j {}).take v
    if (x + 1) % w.e0 = 0 then
      match ({ r with rows := r.rows.set j {} }).putRow c cd w step j s x (a.value s.reduce) with
      | .error e => .error e
      | .ok r1 => WRun.reduceRow c cd w step j s t r1
    else WRun.reduceRow c cd w step j s t { r with rows := r.rows.set j a }

/-- The elements of a group written by every output. -/
def WRun.putGroup (r : WRun) (c : Context) (cd : Cd) (w : WCmd) (step : Nat) (xs : List Nat) (vals : Nat → List Val) :
    Except (Device × WFault) WRun :=
  w.outs.zipIdx.foldlM (init := r) fun r (s, i) =>
    let j := w.prog.k + i
    let ps := xs.zip (vals i)
    if s.reduce ≠ 0 then WRun.reduceRow c cd w step j s ps r
    else match (rowRuns w.e0 ps).foldlM (init := r.d) fun d run => Device.putRun d c cd w step j s run with
      | .error e => Except.error e
      | .ok d1 => Except.ok { r with d := d1 }

/-! ### The passes (R105, R106, R108) -/

/-- The element numbers of the groups of 256 elements. -/
def WCmd.groups (w : WCmd) : List (List Nat) :=
  (List.range (ceilDiv w.n 256)).map fun g => (List.range (min 256 (w.n - 256 * g))).map fun i => 256 * g + i

/-- The values of an SB16 row-reduce output and the others are numbered by stream; output i reads its register. -/
def WProg.outVals (p : WProg) (v : Vector EReg 16) (i : Nat) : List Val := v[p.outReg i].vals

/-- One group of a plain or summary command. -/
def WRun.plainGroup (c : Context) (cd : Cd) (w : WCmd) (step : Nat) (ro : WStream → Option IntRows) (ta tb : LookTable)
    (xs : List Nat) (r : WRun) : Except (Device × WFault) WRun :=
  match r.d.loadInputs c cd w step (xs.headD 0) ro xs r.v with
  | .error f => .error (r.d, f)
  | .ok (v0, ms) =>
    let (v1, sat) := runElems ta tb w.prog.code v0
    let src := v1[w.prog.sumSrc].vals
    let act := if w.prog.selUsed then v1[w.prog.sel].actives else src.map fun _ => true
    let sum := if w.prog.mode = 1 then ((src.zip act).filter (·.2)).foldl (fun a p => a.take p.1) r.sum else r.sum
    WRun.putGroup { r with d := r.d.noteTally cd (ms ++ List.replicate sat (some .sat)), v := v1, sum := sum } c cd w step xs
      (w.prog.outVals v1)

/-- The bitmap bytes of a group's marks (R109). -/
def markBytes (act : List Bool) : List Byte :=
  (pieces 8 act).map fun b => BitVec.ofNat 8 ((b.zipIdx.map fun (a, i) => if a then pow2 i else 0).sum)

/-- One group of the mask pass: the marks written, the padding of the bitmap's last line left as it was (log entry 64); the loaded inputs
are kept for the expansion. -/
def WRun.maskGroup (c : Context) (cd : Cd) (w : WCmd) (step : Nat) (ro : WStream → Option IntRows) (ta tb : LookTable)
    (xs : List Nat) (r : WRun) : Except (Device × WFault) (WRun × List (List Val)) :=
  match r.d.loadInputs c cd w step (xs.headD 0) ro xs r.v with
  | .error f => .error (r.d, f)
  | .ok (v0, ms) =>
    let (v1, sat) := runElems ta tb (w.prog.code.take w.prog.split) v0
    let d1 := r.d.noteTally cd (ms ++ List.replicate sat (some .sat))
    match d1.putBytes c cd .whisk (wrap52 (w.selMap + xs.headD 0 / 8)) (markBytes v1[w.prog.sel].actives) with
    | (d2, some (e, l, done)) => .error (d2, WFault.mk e l ((xs.headD 0 / 8 + done) / 64 * 64) true 0xF)
    | (d2, none) => .ok ({ r with d := d2, v := v1 },
        (List.range w.prog.k).map fun j => v0[idx 16 j].vals)

/-- The active elements of a group, read back from the bitmap. -/
def Device.readMarks (d : Device) (c : Context) (cd : Cd) (w : WCmd) (xs : List Nat) : Except WFault (List Bool) :=
  let x0 := xs.headD 0
  match d.readBytes c cd .whisk (wrap52 (w.selMap + x0 / 8)) (ceilDiv xs.length 8) with
  | .error (e, l) => .error (WFault.mk e l (x0 / 8 / 64 * 64) false 0xF)
  | .ok bs => .ok ((List.range xs.length).map fun i => ((bs.getD (i / 8) 0).getLsbD (i % 8)))

/-- A pass over a list of groups. A fault gives what stood before its group, the groups completed, the device and the fault. -/
def overGroups {σ : Type} (f : List Nat → σ → Except (Device × WFault) σ) : List (List Nat) → σ → Except (σ × Nat × Device × WFault) σ
  | [], r => .ok r
  | g :: t, r =>
    match f g r with
    | .error (d, x) => .error (r, 0, d, x)
    | .ok r1 =>
      match overGroups f t r1 with
      | .error (r2, n, d, x) => .error (r2, n + 1, d, x)
      | .ok r2 => .ok r2

/-- A Colander command in progress: the run, the inputs of each group as the mask pass loaded them, the values of each output by dense
position, the dense elements run, those gathered and not run, and those expanded. -/
structure WDense where
  r : WRun
  loaded : List (List (List Val)) := []
  outs : List (List Val) := []
  n : Nat := 0
  rest : List Nat := []
  k : Nat := 0

/-- One group of the mask pass (R108). -/
def WDense.mask (c : Context) (cd : Cd) (w : WCmd) (step : Nat) (ro : WStream → Option IntRows) (ta tb : LookTable) (xs : List Nat)
    (b : WDense) : Except (Device × WFault) WDense :=
  (WRun.maskGroup c cd w step ro ta tb xs b.r).map fun (r, ins) => { b with r := r, loaded := b.loaded ++ [ins] }

/-- One group of the dense stream through the body (R110). -/
def WDense.run (c : Context) (cd : Cd) (w : WCmd) (step : Nat) (ro : WStream → Option IntRows) (ta tb : LookTable) (xs : List Nat)
    (b : WDense) : Except (Device × WFault) WDense :=
  match b.r.d.loadInputs c cd w step b.n ro xs b.r.v with
  | .error f => .error (b.r.d, f)
  | .ok (v0, meets) =>
    let (v1, sat) := runElems ta tb (w.prog.code.drop w.prog.split) v0
    .ok { b with
      r := { b.r with d := b.r.d.noteTally cd (meets ++ List.replicate sat (some .sat)), v := v1 }
      outs := (List.range w.prog.o).map fun i => b.outs.getD i [] ++ w.prog.outVals v1 i
      n := b.n + xs.length
      rest := b.rest.drop xs.length }

/-- One group of the element space gathered: its marks are read, then the stream lines of its active elements, and a full group of the
dense stream runs through the body (R108, R109). After the last group what is left runs too. -/
def WDense.gather (c : Context) (cd : Cd) (w : WCmd) (step : Nat) (ro : WStream → Option IntRows) (ta tb : LookTable) (last : Bool)
    (xs : List Nat) (b : WDense) : Except (Device × WFault) WDense :=
  match b.r.d.readMarks c cd w xs with
  | .error f => .error (b.r.d, f)
  | .ok act =>
    let on := ((xs.zip act).filter (·.2)).map (·.1)
    match b.r.d.loadInputs c cd w step (b.n + b.rest.length) ro on b.r.v with
    | .error f => .error (b.r.d, f)
    | .ok _ =>
      let b1 := { b with rest := b.rest ++ on }
      let full := if b1.rest.length < 256 then .ok b1 else b1.run c cd w step ro ta tb (b1.rest.take 256)
      match full with
      | .error f => .error f
      | .ok b2 => if last && b2.rest != [] then b2.run c cd w step ro ta tb b2.rest else .ok b2

/-- One group of the expansion pass: an active position takes the body's output, an inactive one the fallback (R108, R111). -/
def WDense.expand (c : Context) (cd : Cd) (w : WCmd) (step : Nat) (g : Nat) (xs : List Nat) (b : WDense) :
    Except (Device × WFault) WDense :=
  match b.r.d.readMarks c cd w xs with
  | .error f => .error (b.r.d, f)
  | .ok act =>
    let ins := b.loaded.getD g []
    let vals := fun i =>
      let fb := bits w.prog.fallback (4 * i + 3) (4 * i)
      let back := if fb = 8 then [] else ins.getD fb []
      let o := b.outs.getD i []
      (act.foldl (fun (acc : List Val × Nat × Nat) a =>
        let (l, pos, k) := acc
        (l ++ [if a then o.getD k (.fin false 0 0) else back.getD pos (.fin false 0 0)], pos + 1, if a then k + 1 else k))
        ([], 0, b.k)).1
    match b.r.putGroup c cd w step xs vals with
    | .error e => .error e
    | .ok r1 => .ok { b with r := r1, k := b.k + (act.filter id).length }

/-- One group of the current pass of a Colander command, and the pass and group that come next: pass 0 once it is complete (R108, R118). -/
def WDense.advance (c : Context) (cd : Cd) (w : WCmd) (step : Nat) (ro : WStream → Option IntRows) (ta tb : LookTable) (pass g : Nat)
    (b : WDense) : Except (Device × WFault) (WDense × Nat × Nat) :=
  let xs := w.groups.getD g []
  let last := decide (w.groups.length ≤ g + 1)
  if pass = 2 then (b.mask c cd w step ro ta tb xs).map fun b => (b, if last then (3, 0) else (2, g + 1))
  else if pass = 3 then (b.gather c cd w step ro ta tb last xs).map fun b => (b, if last then (4, 0) else (3, g + 1))
  else (b.expand c cd w step g xs).map fun b => (b, if last then (0, g + 1) else (4, g + 1))

/-- Groups of a Colander command from a pass and group on, at most `fuel` of them; a fault gives where it stood. -/
def WDense.steps (c : Context) (cd : Cd) (w : WCmd) (step : Nat) (ro : WStream → Option IntRows) (ta tb : LookTable) :
    Nat → Nat → Nat → WDense → Except ((WDense × Nat × Nat) × Device × WFault) (WDense × Nat × Nat)
  | 0, pass, g, b => .ok (b, pass, g)
  | n + 1, pass, g, b =>
    if pass = 0 then .ok (b, pass, g)
    else match b.advance c cd w step ro ta tb pass g with
      | .error f => .error ((b, pass, g), f)
      | .ok (b1, pass1, g1) => WDense.steps c cd w step ro ta tb n pass1 g1 b1

/-! ### RUN -/

/-- Whisk errors found at run time (R116). -/
def Device.whiskErr (d : Device) (c : Context) (cd : Cd) (code detail : Nat) : Engine :=
  .stopped (d.fault c (d.err (cdIsland cd 3 0) 4 code c.tag none detail))

/-- STREAM_SOURCE at run time: the first stream that breaks R97 or R109. -/
def Device.sourceFault (d : Device) (cd : Cd) (w : WCmd) : Option Nat :=
  let x := d.dies[cd]
  let own := sramOf cd.val
  let inSram := fun a => decide (sramBase ≤ a) && decide (a < 0x100800000000)
  let bad := w.streams.zipIdx.findSome? fun (s, j) => if s.src = 0 && !(inSram s.base && (s.auxGrain.isNone || inSram s.aux)) then some j else none
  match bad with
  | some j => some j
  | none =>
    if w.prog.mode = 2 ∧ ¬(own ≤ w.selMap ∧ w.selMap < own + 0x80000000) then some 0xF
    else w.ins.zipIdx.findSome? fun (s, j) =>
      if s.src ≠ 0 ∧ ((x.rowsOf (s.src - 1) false).map fun r => r.rows.length * 128) ≠ some w.n then some j else none

/-- The run of a command from what the Whisk holds of it; nothing for one that starts (R118). -/
def Whisk.resumed (k : Whisk) (d : Device) (w : WCmd) (going : Bool) : WDense :=
  if going then
    { r := { d := d, rows := List.replicate w.prog.k {} ++ k.reds.toList.take w.prog.o, pend := k.work.pend, sum := k.reds[4], v := k.v }
      loaded := k.work.loaded, outs := k.work.outs, n := k.work.ran, rest := k.work.rest, k := k.work.expanded }
  else
    { r := { d := d, rows := List.replicate (w.prog.k + w.prog.o) {}, pend := List.replicate (w.prog.k + w.prog.o) [],
             v := Vector.replicate 16 {} } }

/-- What the Whisk holds of a command at a group (R118). -/
def WDense.held (b : WDense) (w : WCmd) (pass g : Nat) : Whisk where
  v := b.r.v
  tabA := BitVec.ofNat 32 w.prog.tabA
  tabB := BitVec.ofNat 32 w.prog.tabB
  record := BitVec.ofNat 64 w.off
  groups := BitVec.ofNat 32 g
  gathered := BitVec.ofNat 32 (b.n + b.rest.length)
  pass := BitVec.ofNat 8 pass
  reds := each (fun i _ => if i.val = 4 then b.r.sum else b.r.rows.getD (w.prog.k + i.val) {}) (Vector.replicate 5 {})
  work := { pend := b.r.pend, loaded := b.loaded, outs := b.outs, rest := b.rest, ran := b.n, expanded := b.k }

/-- The Whisk of a die set to what it holds of a command. -/
def Device.holdWhisk (d : Device) (cd : Cd) (b : WDense) (w : WCmd) (pass g : Nat) : Device :=
  d.modDie cd fun x => { x with whisk := b.held w pass g }

/-- A stream line has faulted: the Whisk holds what it had after the last whole group, and the device what was written (R117). -/
def Device.whiskFault (d : Device) (c : Context) (cd : Cd) (b : WDense) (w : WCmd) (pass g : Nat) (f : WFault) : Engine :=
  .stopped ((d.holdWhisk cd b w pass g).memFault c (cdIsland cd 3 0) f.code f.line f.done f.write f.stream 0)

/-- The command has written its last output: the rows of output stages that it took are gone, and a summary gives its five values
(R106, R152). -/
def WDense.finish (b : WDense) (cd : Cd) (w : WCmd) (g : Nat) : Engine :=
  let sources := (w.ins.filter fun s => s.src ≠ 0).map fun s => s.src - 1
  let d := (b.r.d.holdWhisk cd b w 0 g).modDie cd fun x => sources.dedup.foldl (fun x m => x.rowsTaken (idx 4 m) false) x
  let raw := b.r.v[w.prog.sumSrc].raw
  .ran d (if w.prog.mode = 1 then
    (b.r.sum.summary (if raw then 0 else w.prog.sumExp)).zipIdx.map fun (v, i) => (idx 16 (w.prog.sBase + i), v) else []) true

/-- A command from its pass and group on, at most `n` groups: it completes, stops at a fault, or comes to a stop point (R105, R108, R118). -/
def Device.whiskGo (d : Device) (c : Context) (cd : Cd) (w : WCmd) (pass g n : Nat) (b : WDense) : Engine :=
  let x := d.dies[cd]
  let step := d.stepNo c
  let ro := fun (s : WStream) => if s.src = 0 then none else x.rowsOf (s.src - 1) false
  let ta := x.lookTable w.prog.tabA
  let tb := x.lookTable w.prog.tabB
  let total := w.groups.length
  if w.prog.mode = 2 then
    match WDense.steps c cd w step ro ta tb n pass g b with
    | .error ((b1, pass1, g1), d1, f) => d1.whiskFault c cd b1 w pass1 g1 f
    | .ok (b1, pass1, g1) => if pass1 = 0 then b1.finish cd w g1 else .cut (b1.r.d.holdWhisk cd b1 w pass1 g1) 0 []
  else
    match overGroups (WRun.plainGroup c cd w step ro ta tb) ((w.groups.drop g).take n) b.r with
    | .error (r, k, d1, f) => d1.whiskFault c cd { b with r := r } w 1 (g + k) f
    | .ok r =>
      let b1 := { b with r := r }
      if g + n < total then .cut (r.d.holdWhisk cd b1 w 1 (g + n)) 0 [] else b1.finish cd w total

/-- RUN: a Whisk command (R94 to R117). Until the rows that it takes from output stages are there it has not started (DESIGN CHOICE, log
entry 77). Of several errors found at its start it reports the first in the order below (DESIGN CHOICE, log entry 76). While its context is
being stopped it comes to a stop point after each group (R118, R387). -/
def whiskEngine (cd : Cd) (d : Device) (c : Context) (e : QEntry) : Engine :=
  let x := d.dies[cd]
  let w := x.whiskCmd (cwRec e.w) e.ga.toNat
  let sources := (w.ins.filter fun s => s.src ≠ 0).map fun s => s.src - 1
  let n := if d.stopping c then 1 else 3 * w.groups.length
  if e.started then d.whiskGo c cd w x.whisk.pass.toNat x.whisk.groups.toNat n (x.whisk.resumed d w true)
  else if sources.any fun m => (x.rowsOf m false).isNone then .wait
  else match d.sourceFault cd w with
    | some j => d.whiskErr c cd 6 j
    | none =>
      match (if cwGa e.w = 0 then none else w.overlap) with
      | some det => d.whiskErr c cd 5 det
      | none => d.whiskGo c cd w (if w.prog.mode = 2 then 2 else 1) 0 n (x.whisk.resumed d w false)

/-- RUN. -/
def execWhiskRun (cd : Cd) (s : State) : Host.Outcome State Fault Refusal :=
  .next { s with dev := s.dev.startHead cd 4 1 (whiskEngine cd) }

end Sys2Proof.Machine
end

