-- ==== Sys2Proof/Machine/PlanImage.lean ====
section
/-! DEFINITION. Plan images: header, section table, queues, strokes and command records, as the load checks them (R143 to R165,
R30, R85, R116, R136, R217 to R219, R254, R278, R280, R307, R347, R489). -/

namespace Sys2Proof.Machine

/-- A failed check of a load: class and code, the image offset of the failing field, and the index of its section, 0xFFFF for the
header and the section table, or the Pantry's code for PLAN_REGION (R489). -/
structure PlanErr where
  cls : Nat
  code : Nat
  off : Nat
  sect : Nat := 0xFFFF
  deriving DecidableEq, Repr

/-- A check: passed, or the first failure. -/
abbrev Chk := Except PlanErr

/-- A condition demanded by a check. -/
def demand (ok : Bool) (e : PlanErr) : Chk Unit := if ok then .ok () else .error e

/-- The generation and version of a structure: PLAN_GEN or PLAN_VERSION (R6, R7, R166). -/
def gvCheck (b : Nat) (e : Nat → PlanErr) : Chk Unit :=
  if b % 4 ≠ 1 then .error (e 2) else if 1 < b / 4 then .error (e 3) else .ok ()

/-- A DPA field holds no bit above 51. -/
def dpaField (v : Nat) : Bool := decide (v < 2 ^ 52)

/-! ### Header and section table (R161 to R163) -/

/-- A section entry. -/
structure Sect where
  idx : Nat
  typ : Nat
  gv : Nat
  mask : Nat
  off : Nat
  bytes : Nat
  load : Nat
  deriving DecidableEq, Repr

/-- Section entry i of an image. -/
def sectOf (img : List Byte) (i : Nat) : Sect :=
  let h := fun o n => field img (0x40 + 32 * i + o) n
  { idx := i, typ := h 0 2, gv := h 2 1, mask := h 4 2, off := h 8 8, bytes := h 0x10 8, load := h 0x18 8 }

/-- Image offset of a section's entry. -/
def Sect.entryOff (s : Sect) : Nat := 0x40 + 32 * s.idx

/-- The image's CRC-32C with its own field taken as zero (R161). -/
def imageCrc (img : List Byte) : Nat := crc32c (img.take 0x3C ++ zeros 4 ++ img.drop 0x40)

/-- A failure in the header or the section table. -/
def headErr (code off : Nat) : PlanErr := { cls := 6, code := code, off := off }

/-- Usable memory of a CD in MiB (R4). -/
def usableMib (c : OrderingCode) : Nat := usableOf c / 2 ^ 20

/-- Step 2 of R166: the header in field order, the CRC-32C, m and mem_mib. PLAN_SECTION for an nsect outside 1 to 64 is the model's choice
(log entry 65). -/
def headerCheck (img : List Byte) (m usable : Nat) : Chk Unit := do
  demand (field img 0 4 == 0x4C50584F) (headErr 1 0)
  gvCheck (field img 4 1) fun k => headErr k 4
  demand ([1, 2, 4, 8, 16].contains (field img 5 1)) (headErr 6 5)
  demand (decide (1 ≤ field img 6 2) && decide (field img 6 2 ≤ 64)) (headErr 5 6)
  demand (field img 8 8 == img.length && img.length % 64 == 0) (headErr 4 8)
  demand (decide (field img 0x10 4 ≤ 126976)) (headErr 7 0x10)
  demand (imageCrc img == field img 0x3C 4) (headErr 4 0x3C)
  demand (field img 5 1 == m) (headErr 6 5)
  demand (decide (field img 0x10 4 ≤ usable)) (headErr 7 0x10)

/-- The sections of an image, in table order. -/
def sectsOf (img : List Byte) : List Sect := (List.range (field img 6 2)).map (sectOf img)

/-- Section types of one position, and of all (R163, R346). -/
def perCdTypes : List Nat := [1, 2, 3]
def globalTypes : List Nat := [4, 5, 6, 7]

/-- One section entry in field order (R162, R163). -/
def sectCheck (m size : Nat) (s : Sect) : Chk Unit := do
  let o := s.entryOff
  demand (decide (1 ≤ s.typ) && decide (s.typ ≤ 7)) (headErr 5 o)
  gvCheck s.gv fun k => headErr k (o + 2)
  demand (decide (s.mask < pow2 m)) (headErr 5 (o + 4))
  demand (s.off % 64 == 0) (headErr 5 (o + 8))
  demand (decide (s.off + s.bytes ≤ size)) (headErr 5 (o + 0x10))
  if s.typ = 1 then
    demand (s.bytes % 64 == 0) (headErr 5 (o + 0x10))
    demand (s.load == 0) (headErr 8 (o + 0x18))
  if s.typ = 2 then
    demand (s.load % 64 == 0) (headErr 5 (o + 0x18))
    demand (decide (s.load + s.bytes ≤ 0x100000)) (headErr 8 (o + 0x18))

/-- Two ranges of an image overlap; an empty one overlaps nothing. -/
def rangesMeet (a n b k : Nat) : Bool := decide (0 < n) && decide (0 < k) && decide (a < b + k) && decide (b < a + n)

/-- No section overlaps the header, the section table or an earlier section. -/
def overlapCheck (head : Nat) : List Sect → List Sect → Chk Unit
  | _, [] => .ok ()
  | before, s :: rest => do
    demand (!(rangesMeet 0 head s.off s.bytes) && !(before.any fun b => rangesMeet b.off b.bytes s.off s.bytes))
      (headErr 5 (s.entryOff + 8))
    overlapCheck head (s :: before) rest

/-- The section of a per-CD type at a position. -/
def sectAt (ss : List Sect) (typ pos : Nat) : Option Sect := ss.find? fun s => s.typ == typ && bits s.mask pos pos == 1

/-- The section of a global type. -/
def globalSect (ss : List Sect) (typ : Nat) : Option Sect := ss.find? fun s => s.typ == typ

/-- Each position is covered once by each per-CD type, and each global type occurs once with its whole mask (R163). -/
def coverageCheck (m : Nat) (ss : List Sect) : Chk Unit := do
  for s in ss do
    let earlier := ss.filter fun b => decide (b.idx < s.idx) && b.typ == s.typ
    if perCdTypes.contains s.typ then demand (earlier.all fun b => (b.mask &&& s.mask) == 0) (headErr 5 (s.entryOff + 4))
    else demand (earlier.isEmpty && s.mask == pow2 m - 1) (headErr 5 (s.entryOff + 4))
  for t in perCdTypes do
    demand ((List.range m).all fun p => (sectAt ss t p).isSome) (headErr 5 0x40)
  for t in globalTypes do
    demand (globalSect ss t).isSome (headErr 5 0x40)

/-- CODE and RECORDS of every position: RECORDS at or above the end of CODE, the entry stroke inside CODE (R163). PLAN_STORE for RECORDS below
the end of CODE is the model's choice (log entry 65). -/
def storeCheck (img : List Byte) (m : Nat) (ss : List Sect) : Chk Unit := do
  for p in List.range m do
    match sectAt ss 1 p, sectAt ss 2 p with
    | some cs, some rs =>
      demand (decide (cs.bytes ≤ rs.load)) (headErr 8 (rs.entryOff + 0x18))
      demand (decide (64 * bits (field img 0x14 2) 13 0 + 64 ≤ cs.bytes)) (headErr 8 0x14)
    | _, _ => .ok ()

/-- Step 3 of R166. -/
def tableCheck (img : List Byte) (m : Nat) : Chk Unit := do
  let n := field img 6 2
  let head := 0x40 + 32 * n
  demand (decide (head ≤ img.length)) (headErr 5 6)
  let ss := sectsOf img
  for s in ss do sectCheck m img.length s
  overlapCheck head [] ss
  coverageCheck m ss
  storeCheck img m ss

/-! ### One position (R164) -/

/-- What the checks of a position rest on: its die with CODE and RECORDS in the plan store, its sections, and the streams that the
image declares for it. -/
structure PlanPos where
  x : Die
  cs : Sect
  rs : Sect
  cd : Cd
  /-- Receive streams: number and class. Send streams: number. -/
  recvs : List (Nat × Nat)
  sends : List Nat

/-- The plan store of a position as a load writes it: CODE, then RECORDS (R163). -/
def posStore (img : List Byte) (cs rs : Sect) : Memory :=
  memStore 0 (memStore 0 [] 0 ((img.drop cs.off).take cs.bytes)) rs.load ((img.drop rs.off).take rs.bytes)

/-- `n` bytes from a plan-store offset lie wholly inside RECORDS (R163). -/
def PlanPos.inRecords (p : PlanPos) (o n : Nat) : Bool := decide (p.rs.load ≤ o) && decide (o + n ≤ p.rs.load + p.rs.bytes)

/-- A failure at a plan-store offset inside RECORDS. -/
def PlanPos.recErr (p : PlanPos) (cls code o : Nat) : PlanErr :=
  { cls := cls, code := code, off := p.rs.off + o - p.rs.load, sect := p.rs.idx }

/-- A failure at a byte of a stroke. -/
def PlanPos.strokeErr (p : PlanPos) (cls code stroke byte : Nat) : PlanErr :=
  { cls := cls, code := code, off := p.cs.off + 64 * stroke + byte, sect := p.cs.idx }

/-- A field of a structure in the plan store. -/
def PlanPos.fld (p : PlanPos) (o n : Nat) : Nat := le (p.x.planBytes o n)

/-- The QUEUES section of a position (R164). -/
def queuesCheck (img : List Byte) (qs : Sect) : Chk Unit := do
  let e := fun o => ({ cls := 6, code := 0xA, off := qs.off + o, sect := qs.idx } : PlanErr)
  let h := fun o n => field img (qs.off + o) n
  demand (decide (0x150 ≤ qs.bytes)) (headErr 5 (qs.entryOff + 0x10))
  for q in List.range 12 do demand (decide (1 ≤ h q 1) && decide (h q 1 ≤ 64)) (e q)
  demand (decide (h 0x40 1 ≤ 32)) (e 0x40)
  for l in List.range (h 0x40 1) do
    let o := 0x50 + 8 * l
    demand (decide (h o 1 ≤ 11)) (e o)
    demand (decide (h (o + 1) 1 ≤ 11) && h (o + 1) 1 != h o 1) (e (o + 1))
    demand (h (o + 2) 1 != 0) (e (o + 2))

/-- The links that a QUEUES section declares, at the state in which a run starts (R154). -/
def linksOf (img : List Byte) (qs : Sect) : List Link :=
  (List.range (field img (qs.off + 0x40) 1)).map fun l =>
    let h := fun o => field img (qs.off + 0x50 + 8 * l + o) 1
    { producer := h 0, consumer := h 1, grant := h 2, credits := h 2, tokens := 0 }

/-! ### Slot 0 (R135, R136) -/

/-- The opcodes of the table "Scalar instructions" (R134, R135). -/
def scalarOps : List Nat :=
  (List.range 0x13) ++ [0x18, 0x19, 0x1A, 0x1B, 0x1C, 0x1D, 0x1E, 0x20, 0x21, 0x28, 0x29, 0x30, 0x31, 0x32, 0x33, 0x34, 0x35, 0x36,
    0x38, 0x39, 0x3C, 0x3D, 0x3E, 0x40, 0x41, 0x42, 0x48, 0x50, 0x51]

/-- The rule on the i field of an opcode (R134, R135). -/
def iRule (op : Nat) (i : Bool) : Bool :=
  if (0x30 ≤ op ∧ op ≤ 0x3E) ∨ op = 0x42 then i else if op = 0x21 then !i else true

/-- The slot-0 checks in the order of R136: opcode, immediate target, i field, RDC index. The answer is the code and the byte of
the word that failed. -/
def slot0Fault (w strokes : Nat) : Option (Nat × Nat) :=
  let op := slot0Op w
  let s := slot0Of w
  let target := signed 36 s.imm.toNat
  let immediate := op = 0x42 ∨ ((op = 0x40 ∨ op = 0x41) ∧ s.i)
  if !scalarOps.contains op then some (1, 0)
  else if immediate ∧ ¬(0 ≤ target ∧ target < strokes) then some (4, 3)
  else if !iRule op s.i then some (6, 3)
  else if op = 0x29 ∧ 0x10 ≤ s.imm.toNat % 256 then some (6, 3)
  else none

/-! ### Engine command words (R146 to R150) -/

/-- The opcodes of the table "Engine opcodes" besides SYNC, with whether the command may write an s-register. -/
def engineOp (slot op : Nat) : Option Bool :=
  match slot, op with
  | 1, 1 => some false
  | 1, 2 => some true
  | 2, 1 => some false
  | 3, 1 => some true
  | 3, 2 => some false
  | 4, 1 => some true
  | 4, 2 => some true
  | 5, 1 => some false
  | 5, 2 => some true
  | 6, 1 => some false
  | 6, 2 => some true
  | _, _ => none

/-- Bytes of the record that a command names, without the structures that it reaches. -/
def recBytes (slot op : Nat) : Nat := if slot = 2 then 32 else if slot = 5 ∧ op = 2 then 192 else 64

/-- A command word in field order (R146 to R150, R163, R217, R219, R347). -/
def commandCheck (p : PlanPos) (stroke slot w : Nat) : Chk Unit := do
  let e := fun code byte => p.strokeErr 6 code stroke (8 * slot + byte)
  let op := cwOp w
  let sync : Bool := op == 0x3F
  let q := (slotQueue slot w).val
  demand (sync || (engineOp slot op).isSome) (e 9 0)
  let mayWrite := !sync && (engineOp slot op).getD false && !(slot == 5 && op == 2 && !cwFlag w 0)
  demand (!cwSwr w || mayWrite) (e 9 2)
  let weightin : Bool := slot == 3 && op == 2
  demand (!weightin || (cwGa w == 0 && cwGb w == 0)) (e 0xF 2)
  let link := fun l => p.x.links[l]?
  demand (!cwGe w || (link (cwGl w)).any fun l => l.producer == q) (e 9 3)
  demand (!cwTe w || (link (cwTl w)).any fun l => l.consumer == q) (e 9 4)
  demand (slot == 1 || slot == 3 || cwUnit w == 0) (e 9 5)
  demand (!weightin || cwUnit w == 0) (e 0xF 5)
  demand (!(slot == 3 && op == 1 && cwUnit w == 0)) (e 0xF 5)
  demand (sync || p.inRecords (cwRec w) (recBytes slot op)) (e 8 5)
  if slot = 3 ∧ op = 1 ∧ cwUnit w ≠ 3 then
    let stream := bits w 61 57
    demand (!cwFlag w 7 && !(cwFlag w 0 && cwFlag w 6)) (e 0xF 7)
    demand (!cwFlag w 0 || p.recvs.any fun (r : Nat × Nat) => r.1 == stream && r.2 != 3) (e 0xF 7)
    demand (!cwFlag w 6 || p.sends.contains stream) (e 0xF 7)

/-- A stroke: its header, slot 0, and slots 1 to 6 (R144, R145). -/
def strokeCheck (p : PlanPos) (stroke : Nat) : Chk Unit := do
  let h := p.x.slotWord stroke 7
  gvCheck (bits h 7 0) fun k => p.strokeErr 6 k stroke 56
  demand (bits h 15 15 == 0) (p.strokeErr 6 9 stroke 57)
  if headerValid h 0 then
    match slot0Fault (p.x.slotWord stroke 0) p.x.codeStrokes with
    | some (code, byte) => .error (p.strokeErr 5 code stroke byte)
    | none => .ok ()
  for slot in [1, 2, 3, 4, 5, 6] do
    if headerValid h slot then commandCheck p stroke slot (p.x.slotWord stroke slot)

/-! ### Records of slots 1, 3, 4, 5 and 6 -/

/-- A command found in CODE: stroke, slot, word. -/
structure Found where
  stroke : Nat
  slot : Nat
  w : Nat

/-- The commands of a position's code that name a record, in stroke order. -/
def foundIn (x : Die) : List Found :=
  (List.range x.codeStrokes).flatMap fun s =>
    let h := x.slotWord s 7
    ([1, 2, 3, 4, 5, 6].filter fun j => headerValid h j && cwOp (x.slotWord s j) != 0x3F).map fun j =>
      { stroke := s, slot := j, w := x.slotWord s j }

/-- The pool value that a command names, if any. -/
def PlanPos.pool (p : PlanPos) (f : Found) : Option Nat :=
  if cwImsel f.w = 0 then none else some (headerPool (p.x.slotWord f.stroke 7) (cwImsel f.w))

/-- The place of a field that a pool entry replaces (R489). -/
def PlanPos.poolErr (p : PlanPos) (f : Found) (cls code o : Nat) : PlanErr :=
  if cwImsel f.w = 0 then p.recErr cls code o else p.strokeErr cls code f.stroke (56 + 2 * cwImsel f.w)

/-- A format code of a record (R30). -/
def formatCheck (code : Nat) (ok : List Nat) (e : Nat → PlanErr) : Chk Unit :=
  if 8 ≤ code then .error (e 1) else if ok.contains code then .ok () else .error (e 2)

/-- Codes of the memory formats and INT32 (R29 table). -/
def memFormats : List Nat := (List.range 8).filter fun k => (fmtOf k).isSome

/-- The operand pair of a chunk record (R58). -/
def pairOf (p : Nat) : Option Nat :=
  match fmtOf (bits p 3 0), fmtOf (bits p 7 4) with
  | some a, some b => pairDepth a b
  | _, _ => none

/-- A chunk record (R58, R85, R151). -/
def chunkCheck (p : PlanPos) (f : Found) : Chk Unit := do
  let o := cwRec f.w
  let e := fun cls code k => p.recErr cls code (o + k)
  gvCheck (p.fld o 1) fun k => e 6 k 0
  let pair := p.fld (o + 1) 1
  demand (decide (bits pair 3 0 < 8) && decide (bits pair 7 4 < 8)) (e 2 1 1)
  demand (pairOf pair).isSome (e 2 2 1)
  demand (decide (p.fld (o + 4) 1 ≤ 127)) (e 3 7 4)
  let k := (p.pool f).getD (p.fld (o + 5) 1) + 1
  demand (decide (k ≤ (pairOf pair).getD 0) && (fmtOf (bits pair 3 0) != some .q4 || k % 64 == 0)) (p.poolErr f 3 6 (o + 5))
  demand (p.fld (o + 0x10) 4 % 64 == 0) (e 3 7 0x10)

/-- An activation table (R79). -/
def actTableCheck (p : PlanPos) (o at' : Nat) : Chk Unit := do
  let tab := p.fld (o + at') 4
  demand (tab != 0) (p.recErr 3 5 (o + at'))
  demand (p.inRecords tab 1032) (p.recErr 6 8 (o + at'))
  let k := signed 8 (p.fld tab 1)
  demand (decide (-32 ≤ k) && decide (k ≤ 31)) (p.recErr 3 5 tab)
  for i in List.range 512 do
    demand (fBf16.decode (p.fld (tab + 8 + 2 * i) 2)).finite (p.recErr 3 5 (tab + 8 + 2 * i))

/-- A readout record (R74 to R82, R85, R152). -/
def readoutCheck (p : PlanPos) (f : Found) : Chk Unit := do
  let o := cwRec f.w
  let e := fun cls code k => p.recErr cls code (o + k)
  gvCheck (p.fld o 1) fun k => e 6 k 0
  let act := bits (p.fld (o + 1) 1) 3 0
  let fmt := p.fld (o + 2) 1
  let int32 := bits fmt 6 6 == 1
  demand (decide (act < 5)) (e 3 5 1)
  demand (!int32 || act == 0) (e 3 8 1)
  demand (int32 || bits fmt 7 7 == 0) (e 6 9 2)
  if !int32 then
    formatCheck (bits fmt 3 0) (memFormats.filter fun k => fmtOf k != some .q4 && fmtOf k != some .int32) fun k => e 2 k 2
    demand (bits fmt 5 4 != 3) (e 2 3 2)
  demand (decide (p.fld (o + 3) 1 ≤ 64)) (e 3 8 3)
  demand (!int32 || bits (p.fld (o + 4) 1) 3 0 == 0) (e 3 8 4)
  if act = 4 then actTableCheck p o 0x30
  if !int32 && fmtOf (bits fmt 3 0) == some .sb16 then
    demand ((p.pool f).getD (p.fld (o + 0x3C) 4) % 32 == 0) (p.poolErr f 2 4 (o + 0x3C))
    demand (p.inRecords o 128) (e 6 8 0x40)

/-- A Tongs move record on channel 1, 2 or 3 (R217, R218). -/
def moveCheck (p : PlanPos) (f : Found) : Chk Unit := do
  let o := cwRec f.w
  let e := fun k => p.recErr 6 0xF (o + k)
  gvCheck (p.fld o 1) fun k => p.recErr 6 k o
  let ks := bits (p.fld (o + 1) 1) 1 0
  let kd := bits (p.fld (o + 1) 1) 3 2
  let fits := if cwUnit f.w = 3 then ks == 2 || kd == 2 else ks != 2 && kd != 2 && !(ks == 1 && kd == 1)
  demand (ks != 3 && kd != 3 && fits) (e 1)
  demand (decide (p.fld (o + 4) 4 ≤ pow2 24)) (e 4)
  demand (ks != 0 || p.fld (o + 8) 8 % 64 == 0) (e 8)
  demand (kd != 0 || p.fld (o + 0x10) 8 % 64 == 0) (e 0x10)

/-- A weight-in record (R219). -/
def weightinCheck (p : PlanPos) (f : Found) : Chk Unit := do
  let o := cwRec f.w
  gvCheck (p.fld o 1) fun k => p.recErr 6 k o
  demand (decide (1 ≤ p.fld (o + 2) 1) && decide (p.fld (o + 2) 1 ≤ 32)) (p.recErr 6 0xF (o + 2))

/-- A merge record (R242, R254). -/
def mergeCheck (p : PlanPos) (f : Found) : Chk Unit := do
  let o := cwRec f.w
  let h := fun k n => p.fld (o + k) n
  let e := fun k => p.recErr 6 0x10 (o + k)
  gvCheck (h 0 1) fun k => p.recErr 6 k o
  let mode := h 1 1
  let build := bits mode 1 0 == 0
  demand (decide (bits mode 1 0 ≤ 1) && bits mode 7 5 == 0) (e 1)
  demand (bits mode 3 2 != 3) (p.recErr 2 3 (o + 1))
  demand (if build then h 2 1 == 0 else bits (h 2 1) 7 6 == 0) (e 2)
  demand (h 3 1 == 0) (e 3)
  demand (decide (1 ≤ h 4 4) && decide (h 4 4 ≤ pow2 20)) (e 4)
  demand (dpaField (h 8 8)) (e 8)
  demand (if build then dpaField (h 0x10 8) else h 0x10 8 == 0) (e 0x10)
  if build then
    for k in [0x18, 0x20, 0x28] do demand (dpaField (h k 8)) (e k)
    demand (decide (8 ≤ h 0x32 2) && decide (h 0x32 2 ≤ 256) && h 0x32 2 % 8 == 0) (e 0x32)
    demand (decide (1 ≤ h 0x3C 2) && decide (h 0x3C 2 ≤ 1024)) (e 0x3C)
    demand (decide (1 ≤ h 0x3E 2) && decide (h 0x3E 2 ≤ 1024)) (e 0x3E)

/-- An update record (R265, R254, R278). -/
def updateCheck (p : PlanPos) (f : Found) : Chk Unit := do
  let o := cwRec f.w
  let h := fun k n => p.fld (o + k) n
  let e := fun k => p.recErr 6 0x10 (o + k)
  gvCheck (h 0 1) fun k => p.recErr 6 k o
  demand (bits (h 1 1) 7 6 == 0) (e 1)
  demand (bits (h 1 1) 3 2 != 3 && bits (h 1 1) 5 4 != 3) (p.recErr 2 3 (o + 1))
  demand (h 2 2 == 0) (e 2)
  demand (decide (1 ≤ h 4 4) && decide (h 4 4 ≤ 65536)) (e 4)
  demand (dpaField (h 8 8)) (e 8)
  demand (if bits (h 1 1) 1 0 < 2 then dpaField (h 0x10 8) else h 0x10 8 == 0) (e 0x10)
  for k in [0x18, 0x20, 0x28, 0x30, 0x38] do demand (h k 8 == 0) (e k)

/-- An ACCUM record (R305, R307). -/
def accumCheck (p : PlanPos) (f : Found) : Chk Unit := do
  let o := cwRec f.w
  let h := fun k n => p.fld (o + k) n
  let e := fun k => p.recErr 6 0x12 (o + k)
  gvCheck (h 0 1) fun k => p.recErr 6 k o
  let src := bits (h 1 1) 2 0
  demand (decide (src ≤ 4)) (e 1)
  if src = 0 then
    formatCheck (bits (h 2 1) 3 0) (memFormats.filter fun k => fmtOf k != some .q4 && fmtOf k != some .int32) fun k => p.recErr 2 k (o + 2)
  else demand (h 2 1 == 0) (e 2)
  demand (decide (1 ≤ h 0xC 4) && decide (h 0xC 4 ≤ if src = 0 then pow2 20 else 128)) (e 0xC)
  demand (if src = 0 then h 0x10 4 % 32 == 0 && decide (32 ≤ h 0x10 4) && decide (h 0x10 4 ≤ pow2 20) else h 0x10 4 == 128) (e 0x10)
  demand (src != 0 || fmtOf (bits (h 2 1) 3 0) != some .sb16 || h 0x20 4 % 32 == 0) (p.recErr 2 4 (o + 0x20))
  demand (src == 0 || h 0x18 8 == 0) (e 0x18)
  demand (src == 0 || h 0x20 4 == 0) (e 0x20)

/-- A bucket record (R307). -/
def bucketCheck (p : PlanPos) (f : Found) : Chk Unit := do
  let o := cwRec f.w
  let h := fun k n => p.fld (o + k) n
  let e := fun k => p.recErr 6 0x12 (o + k)
  gvCheck (h 0 1) fun k => p.recErr 6 k o
  let n := h 4 4
  demand (n % 32 == 0 && decide (32 ≤ n) && decide (n ≤ 5242880)) (e 4)
  demand (h 8 4 % 256 == 0 && decide (h 8 4 + 8 * n ≤ 40 * pow2 20)) (e 8)
  let segs := (List.range (bits (h 1 1) 3 2 + 1)).map fun s => (0x40 + 32 * s, h (0x40 + 32 * s) 4, h (0x44 + 32 * s) 4)
  for (a, off, k) in segs do
    demand (off % 32 == 0 && !(segs.any fun (b : Nat × Nat × Nat) => decide (b.1 < a) && rangesMeet b.2.1 b.2.2 off k)) (e a)
    demand (k % 32 == 0 && decide (off + k ≤ n)) (e (a + 4))
    formatCheck (bits (h (a + 8) 1) 3 0)
      (memFormats.filter fun c => fmtOf c != some .q4 && fmtOf c != some .int32 && fmtOf c != some .int8) fun c => p.recErr 2 c (o + a + 8)
    demand (bits (h (a + 8) 1) 5 4 != 3) (p.recErr 2 3 (o + a + 8))

/-- A tap record (R280). -/
def tapCheck (p : PlanPos) (f : Found) : Chk Unit := do
  let o := cwRec f.w
  let h := fun k n => p.fld (o + k) n
  let e := fun k => p.recErr 6 0x11 (o + k)
  gvCheck (h 0 1) fun k => p.recErr 6 k o
  let mode := bits (h 1 1) 1 0
  let sieve := mode == 2
  demand (mode != 3) (e 1)
  demand (if mode = 0 then h 2 1 == 0 else bits (h 2 1) 3 0 != 0) (e 2)
  demand (if mode = 1 then decide (h 3 1 < 64) else h 3 1 == 0) (e 3)
  demand (if sieve then decide (4 ≤ h 4 1) && decide (h 4 1 ≤ 20) else h 4 1 == 0) (e 4)
  demand (if sieve then decide (1 ≤ h 5 1) && decide (h 5 1 ≤ 15) else h 5 1 == 0) (e 5)
  demand (if sieve then decide (1 ≤ h 6 2) && decide (h 6 2 ≤ 16384) else h 6 2 == 0) (e 6)
  demand (if sieve then decide (h 8 4 < pow2 (h 4 1)) else decide (1 ≤ h 8 4) && decide (h 8 4 ≤ pow2 20)) (e 8)
  demand (mode != 1 || h 0x10 8 == 0) (e 0x10)
  demand (if sieve then h 0x18 4 % 64 == 0 else h 0x18 4 == 0) (e 0x18)

/-- A report command record (R281). -/
def reportCheck (p : PlanPos) (f : Found) : Chk Unit := gvCheck (p.fld (cwRec f.w) 1) fun k => p.recErr 6 k (cwRec f.w)

end Sys2Proof.Machine
end

