-- ==== Sys2Proof/Machine/PlanWhisk.lean ====
section
/-! DEFINITION. Load checks of Whisk command records and of the element programs and tables that they reach (R94 to R110, R116). -/

namespace Sys2Proof.Machine

/-! ### Kinds of element registers (R99, R104) -/

/-- What an operand must be: any kind, raw, block, or the kind of va. -/
inductive Want where
  | any | raw | block | same
  deriving DecidableEq, Repr

/-- Kind of a result: none, that of va, raw, or block. -/
inductive Gives where
  | nothing | asVa | raw | block
  deriving DecidableEq, Repr

/-- Operand kinds and result kind of an element opcode (table "Element instructions"); none for an opcode above 0x1A. -/
def elemSig : Nat → Option (List Want × Gives)
  | 0x00 => some ([], .nothing)
  | 0x01 | 0x05 | 0x06 => some ([.any], .asVa)
  | 0x02 | 0x03 | 0x04 | 0x11 | 0x12 => some ([.any, .same], .asVa)
  | 0x07 | 0x08 => some ([.any, .raw], .asVa)
  | 0x09 | 0x0A | 0x0B => some ([.raw, .raw], .raw)
  | 0x0C | 0x13 => some ([.raw], .raw)
  | 0x0D | 0x0E | 0x0F => some ([.any, .same], .raw)
  | 0x10 => some ([.any, .same, .any], .asVa)
  | 0x14 | 0x18 | 0x1A => some ([.block], .raw)
  | 0x15 | 0x16 | 0x19 => some ([.raw], .block)
  | 0x17 => some ([.block, .block], .block)
  | _ => none

/-- Kinds of the registers written so far: true for raw. -/
abbrev Kinds := List (Nat × Bool)

/-- Kind of a register; none when it is not yet written. -/
def Kinds.of (k : Kinds) (r : Nat) : Option Bool := (k.find? fun p => p.1 == r).map (·.2)

/-- An operand meets its demand; `first` is the kind of va. -/
def Want.meets (w : Want) (first kind : Bool) : Bool :=
  match w with
  | .any => true
  | .raw => kind
  | .block => !kind
  | .same => kind == first

/-- One instruction at position `pos`: its opcode and its operands, and the kinds after it. `body` is set for a body instruction of a
Colander program, whose operands are inputs or registers of the body (R110); one that nothing earlier in the body has written gives
COLANDER_SPLIT there and not ELEM_KIND (log entry 66). -/
def elemCheck (e : Nat → Nat → Nat → PlanErr) (body : Bool) (pos w : Nat) (k : Kinds) : Chk Kinds :=
  let at' := 0x20 + 4 * pos
  match elemSig (bits w 5 0) with
  | none => .error (e 4 1 at')
  | some (wants, gives) =>
    let regs := [bits w 13 10, bits w 17 14, bits w 21 18]
    let first := (k.of (regs.getD 0 0)).getD false
    let bad := (wants.zip regs).findSome? fun (p : Want × Nat) =>
      match k.of p.2 with
      | none => some (if body then 7 else 2)
      | some kind => if p.1.meets first kind then none else some 2
    match bad with
    | some code => .error (e 4 code at')
    | none =>
      let vd := bits w 9 6
      match gives with
      | .nothing => .ok k
      | .asVa => .ok ((vd, first) :: k)
      | .raw => .ok ((vd, true) :: k)
      | .block => .ok ((vd, false) :: k)

/-- Instructions in order. -/
def elemsCheck (e : Nat → Nat → Nat → PlanErr) (body : Bool) : Nat → List Nat → Kinds → Chk Kinds
  | _, [], k => .ok k
  | pos, w :: t, k => do
    let k' ← elemCheck e body pos w k
    elemsCheck e body (pos + 1) t k'

/-- Registers that some instructions write. -/
def elemWrites (ws : List Nat) : List Nat := (ws.filter fun w => bits w 5 0 != 0).map fun w => bits w 9 6

/-! ### Element programs (R99 to R103, R108, R110) -/

/-- A lookup table named at a header field (R102). -/
def lookCheck (p : PlanPos) (off at' : Nat) (used : Bool) : Chk Unit := do
  let tab := p.fld (off + at') 4
  demand (tab != 0 || !used) (p.recErr 4 3 (off + at'))
  if tab ≠ 0 then
    demand (p.inRecords tab 1032) (p.recErr 6 8 (off + at'))
    let te := signed 16 (p.fld tab 2)
    demand (decide (-1024 ≤ te) && decide (te ≤ 1023)) (p.recErr 4 3 (off + at'))

/-- A program image at a plan-store offset, with the kinds of its input registers. -/
def programCheck (p : PlanPos) (off : Nat) (inputs : List Bool) : Chk Unit := do
  let e := fun cls code k => p.recErr cls code (off + k)
  gvCheck (p.fld off 1) fun k => e 6 k 0
  let n := bits (p.fld (off + 1) 1) 5 0 + 1
  demand (p.inRecords off (0x20 + 4 * n)) (e 6 8 1)
  let g := p.x.whiskProg off
  let colander := g.mode == 2
  demand (g.mode != 3) (e 4 3 2)
  demand (decide (g.k ≤ 8) && decide (g.o ≤ 4) && (g.o != 0 || g.mode == 1)) (e 4 3 3)
  demand (!colander || g.selUsed) (e 4 3 6)
  demand (!colander || (decide (1 ≤ g.split) && decide (g.split < n))) (e 4 7 7)
  demand (decide (g.sBase ≤ 11)) (e 4 3 9)
  demand (!colander || (List.range g.o).all fun j =>
    let f := bits g.fallback (4 * j + 3) (4 * j)
    f == 8 || decide (f < g.k)) (e 4 3 0xC)
  lookCheck p off 0x10 (g.code.any fun w => bits w 5 0 == 0x15)
  lookCheck p off 0x14 (g.code.any fun w => bits w 5 0 == 0x16)
  let start : Kinds := inputs.zipIdx.map fun (raw, i) => (i, raw)
  let outs := (List.range g.o).map fun j => (g.outReg j).val
  if colander then
    let mask := g.code.take g.split
    let body := g.code.drop g.split
    let _ ← elemsCheck e false 0 mask start
    let _ ← elemsCheck e true g.split body start
    demand ((elemWrites mask).contains g.sel.val) (e 4 3 6)
    demand (outs.all fun r => (elemWrites body).contains r) (e 4 7 4)
  else
    let k ← elemsCheck e false 0 g.code start
    demand (outs.all fun r => (k.of r).isSome) (e 4 3 4)
    demand (!g.selUsed || (k.of g.sel.val).isSome) (e 4 3 6)
    demand (g.mode != 1 || (k.of g.sumSrc.val).isSome) (e 4 3 8)

/-! ### Command records and stream descriptors (R94 to R98, R101, R109) -/

/-- An address lies in some bonded SRAM window. -/
def inSram (a : Nat) : Bool := decide (sramBase ≤ a) && decide (a < sramBase + 16 * 0x80000000)

/-- Stream descriptor j of a command record at `off`: `out` for an output, `fixed` when its base comes from the image alone. The table of
R116 names no code for a raw flag or a reduce code that R98 does not allow, nor for a broadcast Q4 stream, and no field for a source 1-4 input
of a wrong format or broadcast: the model's choices (log entries 65, 76). -/
def streamCheck (p : PlanPos) (off j : Nat) (out fixed : Bool) : Chk Unit := do
  let o := 0x20 + 64 * j
  let e := fun cls code k => p.recErr cls code (off + o + k)
  let s := p.x.whiskStream (off + o) 0
  let fmt := fmtOf s.fmt
  demand (decide (s.src ≤ 4) && (s.src == 0 || (!out && fmt == some .int32 && s.bcast == 0))) (e 4 6 0)
  demand (s.src != 0 || !fixed || inSram s.base) (e 4 6 0)
  demand (s.src != 0 || !fixed || s.auxGrain.isNone || inSram s.aux) (e 4 6 0x18)
  demand fmt.isSome (e 2 1 8)
  demand (s.mode != 3) (e 2 3 8)
  demand (!s.raw || (!out && (fmt == some .int8 || fmt == some .int32))) (e 4 3 8)
  demand (!(out && (fmt == some .q4 || fmt == some .int32)) && !(s.src == 0 && fmt == some .int32)) (e 2 2 8)
  demand (s.reduce != 3 && (out || s.reduce == 0) && !(fmt == some .q4 && s.bcast != 0)) (e 4 4 9)

/-- A Whisk command record with everything that it reaches (R116); a broken SB16 row-reduce rule is recorded at E1 or at stride1. N above
2^31 is recorded at E0, the model's choice (log entry 76). -/
def whiskCheck (p : PlanPos) (f : Found) : Chk Unit := do
  let o := cwRec f.w
  let h := fun k n => p.fld (o + k) n
  let e := fun cls code k => p.recErr cls code (o + k)
  gvCheck (h 0 1) fun k => e 6 k 0
  let prog := h 4 4
  demand (prog % 64 == 0 && p.inRecords prog 32) (e 6 8 4)
  let c := p.x.whiskCmd o 0
  let ext := fun n => decide (1 ≤ n) && decide (n ≤ pow2 20)
  demand (ext c.e0 && c.e0 % 32 == 0) (e 4 4 8)
  demand (ext c.e1) (e 4 4 0xC)
  demand (ext c.e2) (e 4 4 0x10)
  demand (decide (c.n ≤ pow2 31)) (e 4 4 8)
  demand (decide (c.prog.k ≤ 8) && decide (c.prog.o ≤ 4)) (p.recErr 4 3 (prog + 3))
  let fixed := cwGa f.w == 0
  for j in List.range (c.prog.k + c.prog.o) do
    demand (p.inRecords (o + 0x20 + 64 * j) 64) (e 6 8 (0x20 + 64 * j))
    streamCheck p o j (decide (c.prog.k ≤ j)) fixed
    let s := p.x.whiskStream (o + 0x20 + 64 * j) 0
    demand (fmtOf s.fmt != some .q4 || c.e0 % 64 == 0) (e 2 4 8)
    let rows := s.reduce != 0 && fmtOf s.fmt == some .sb16
    demand (!rows || c.e1 % 32 == 0) (e 4 4 0xC)
    demand (!rows || s.s1 == 1) (e 4 4 (0x30 + 64 * j))
  programCheck p prog (c.ins.map (·.raw))
  if fixed then
    demand (c.prog.mode != 2 || inOwnSram p.cd c.selMap) (e 4 6 0x18)
    match c.overlap with
    | none => .ok ()
    | some x => if x % 16 = 15 then .error (e 4 5 0x18) else .error (e 4 5 (0x20 + 64 * (x % 16)))

/-- The record of a command with everything that it reaches (R166 step 4). -/
def recordCheck (p : PlanPos) (f : Found) : Chk Unit :=
  match f.slot, cwOp f.w with
  | 1, 1 => chunkCheck p f
  | 1, _ => readoutCheck p f
  | 2, _ => whiskCheck p f
  | 3, 1 => moveCheck p f
  | 3, _ => weightinCheck p f
  | 4, 1 => mergeCheck p f
  | 4, _ => updateCheck p f
  | 5, 1 => accumCheck p f
  | 5, _ => bucketCheck p f
  | _, 1 => tapCheck p f
  | _, _ => reportCheck p f

/-- One position: CODE stroke by stroke, then every record reached by a command (R166 step 4). -/
def positionCheck (p : PlanPos) : Chk Unit := do
  for s in List.range p.x.codeStrokes do strokeCheck p s
  for f in foundIn p.x do recordCheck p f

end Sys2Proof.Machine
end

