-- ==== Sys2Proof/Machine/PlanSections.lean ====
section
/-! DEFINITION. Load checks of the global sections of a plan image: PLACEMENT, REGIONS, COURSE and FABRIC (R165, R184 to R186, R210,
R212 to R214, R223, R224, R319, R346), and of Pantry entries. -/

namespace Sys2Proof.Machine

/-! ### PLACEMENT (R21, R165) -/

/-- The PLACEMENT section. -/
def placementCheck (img : List Byte) (m : Nat) (s : Sect) : Chk Unit := do
  let n := field img s.off 4
  demand (decide (16 ≤ s.bytes) && decide (16 + 16 * n ≤ s.bytes)) (headErr 5 (s.entryOff + 0x10))
  for j in List.range n do
    let o := 16 + 16 * j
    let e := fun k => ({ cls := 6, code := 0xB, off := s.off + o + k, sect := s.idx } : PlanErr)
    let id := fun i => field img (s.off + 16 + 16 * i) 4
    demand (!((List.range j).any fun i => id i == id j)) (e 0)
    demand (decide (field img (s.off + o + 4) 1 < m)) (e 4)
    demand (decide (1 ≤ field img (s.off + o + 8) 4) && decide (field img (s.off + o + 8) 4 ≤ 65536)) (e 8)

/-! ### Pantry entries (R184, R186) -/

/-- The range of an entry lies inside one window that matches its target, in populated memory; the CD that owns the window. -/
def Device.entryWindow (d : Device) (e : BitVec 128) : Option (Option Nat) :=
  let lo := d.place (pBase e * 4096)
  let hi := d.place (pLimit e * 4096 + 4095)
  if pLimit e < pBase e then none
  else match pTarget e, lo, hi with
    | 0, .lpddr a _, .lpddr b _ => if a = b then some (some a) else none
    | 1, .sram a _, .sram b _ => if a = b then some (some a) else none
    | 2, .companion _, .companion _ => some none
    | _, _, _ => none

/-- The first four rows of the table "Pantry load checks" for a grant or region entry. -/
def Device.entryFault (d : Device) (onArc : Nat → Bool) (bound : Fin 64 → Bool) (region : Bool) (e : BitVec 128) : Option Nat :=
  if pTarget e = 3 ∨ pReserved e ≠ 0 ∨ (region && !pValid e) then some 0x16
  else match d.entryWindow e with
    | none => some 0x10
    | some own =>
      if own.any fun n => !onArc n then some 0x14
      else
        let dom := pDomain e
        let ok : Bool := if pTarget e = 2 then dom == 0 else dom != 0 && bound dom
        if ok then none else some 0x11

/-- A region entry lies inside a grant that allows it. -/
def underGrant (g e : BitVec 128) : Bool :=
  pValid g && pTarget g == pTarget e && pDomain g == pDomain e && decide (pBase g ≤ pBase e) && decide (pLimit e ≤ pLimit g)
    && (!pR e || pR g) && (!pW e || pW g) && (!pD g || pD e)

/-- The eight grants of a context. -/
def Context.grants (c : Context) : List (BitVec 128) := c.pantry.toList.take 8

/-- A region entry of the REGIONS section: index, role and Pantry entry. -/
structure Region where
  index : Nat
  role : Nat
  entry : BitVec 128
  deriving DecidableEq, Repr

/-- Region j of a REGIONS section. -/
def regionOf (img : List Byte) (s : Sect) (j : Nat) : Region :=
  let o := s.off + 16 + 32 * j
  { index := field img o 1, role := field img (o + 1) 1, entry := BitVec.ofNat 128 (field img (o + 8) 16) }

/-- The pages of two entries meet. -/
def entriesMeet (a b : BitVec 128) : Bool := decide (pBase a ≤ pLimit b) && decide (pBase b ≤ pLimit a)

/-- The role rules of R186 for region j. -/
def roleOk (rs : List Region) (j : Nat) (r : Region) : Bool :=
  match r.role with
  | 0 => true
  | 1 => pTarget r.entry == 0 && !pW r.entry && !(rs.zipIdx.any fun (x : Region × Nat) => x.2 != j && pW x.1.entry && entriesMeet x.1.entry r.entry)
  | 2 => pTarget r.entry == 0 && !(rs.zipIdx.any fun (x : Region × Nat) => decide (x.2 < j) && x.1.role == 2)
  | 3 => pTarget r.entry == 0
  | _ => false

/-- The first row of the table "Pantry load checks" that region j breaks. -/
def Device.regionFault (d : Device) (c : Context) (rs : List Region) (j : Nat) (r : Region) : Option Nat :=
  match d.entryFault (fun n => c.onArc (idx 16 n)) (fun dom => c.domains.contains dom) true r.entry with
  | some code => some code
  | none =>
    if pX r.entry || !(c.grants.any fun g => underGrant g r.entry) then some 0x12
    else if !roleOk rs j r then some 0x13
    else if r.index < 8 ∨ 64 ≤ r.index ∨ (rs.zipIdx.any fun (x : Region × Nat) => decide (x.2 < j) && x.1.index == r.index) then some 0x15
    else none

/-- The regions of a section. -/
def regionsOf (img : List Byte) (s : Sect) : List Region := (List.range (field img s.off 4)).map (regionOf img s)

/-- Byte of a region entry that a Pantry code names (R489). -/
def regionByte (code : Nat) : Nat := if code = 0x15 then 0 else if code = 0x13 then 1 else 8

/-- The REGIONS section (R185). ENTRY_INDEX in the record of a count above 56 is the model's choice (log entry 28). -/
def Device.regionsCheck (d : Device) (c : Context) (img : List Byte) (s : Sect) : Chk Unit := do
  let n := field img s.off 4
  demand (decide (16 ≤ s.bytes) && decide (16 + 32 * n ≤ s.bytes)) (headErr 5 (s.entryOff + 0x10))
  demand (decide (n ≤ 56)) { cls := 6, code := 0xC, off := s.off, sect := 0x15 }
  let rs := regionsOf img s
  for (r, j) in rs.zipIdx do
    match d.regionFault c rs j r with
    | some code => .error { cls := 6, code := 0xC, off := s.off + 16 + 32 * j + regionByte code, sect := code }
    | none => .ok ()

/-! ### COURSE (R203, R210, R212 to R214, R223, R224, R319) -/

/-- Phase i of a COURSE section at an image offset. -/
def phaseAt (img : List Byte) (off i : Nat) : Phase :=
  let h := fun k n => field img (off + 0xC0 + 64 * i + k) n
  { period := h 0 2, first := h 4 4, tiles := h 8 4, extra := h 0xC 4, wmask := BitVec.ofNat 20 (h 0x10 4),
    amask := BitVec.ofNat 20 (h 0x14 4), lmask := BitVec.ofNat 20 (h 0x18 4), wheel := BitVec.ofNat 64 (h 0x20 8) }

/-- The phases of a COURSE section. -/
def phasesOf (img : List Byte) (off : Nat) : List Phase := (List.range (field img (off + 4) 2)).map (phaseAt img off)

/-- Adapter entry i of a COURSE section. -/
def aentryAt (img : List Byte) (off i : Nat) : AEntry :=
  let h := fun k n => field img (off + 0xC0 + 64 * field img (off + 4) 2 + 32 * i + k) n
  { round := h 0 4, slot := h 4 4, lines := h 8 2, src := h 0xA 1, ccw := bits (h 0xB 1) 0 0 == 1, hops := h 0xC 1,
    deliver := BitVec.ofNat 16 (h 0xE 2) }

/-- The adapter entries of a COURSE section. -/
def aentriesOf (img : List Byte) (off : Nat) : List AEntry := (List.range (field img (off + 8) 4)).map (aentryAt img off)

/-- Lanes of a mask. -/
def lanesIn (mask : BitVec 20) : Nat := ((List.range 20).filter mask.getLsbD).length

/-- Weight lines of the busiest link-direction in a round (R208, R209). -/
def busiest (m : Nat) : Nat := if m = 16 then 2040 else 272 * (m - 1)

/-- Phase i in field order. -/
def phaseCheck (img : List Byte) (off sect m i : Nat) : Chk Unit := do
  let o := off + 0xC0 + 64 * i
  let e := fun k => ({ cls := 6, code := 0xE, off := o + k, sect := sect } : PlanErr)
  let h := fun k n => field img (o + k) n
  let wm := h 0x10 4
  let am := h 0x14 4
  let lm := h 0x18 4
  let p := phaseAt img off i
  demand (p.period % 25 == 0 && decide (100 ≤ p.period) && decide (p.period ≤ 6400)) (e 0)
  demand (decide (p.tiles ≤ pow2 24)) (e 8)
  demand (decide (wm < pow2 20)) (e 0x10)
  demand (p.tiles == 0 || decide (busiest m ≤ lanesIn p.wmask * p.period)) (e 0x10)
  demand (decide (am < pow2 20) && (wm &&& am) == 0) (e 0x14)
  demand (decide (lm < pow2 20) && (wm &&& lm) == 0 && (am &&& lm) == 0) (e 0x18)
  demand (lm == 0 || decide (log2 m ≤ lanesIn p.lmask)) (e 0x18)
  let codes := (List.range 16).map fun j => bits p.wheel.toNat (4 * j + 3) (4 * j)
  demand (codes.contains 0 && codes.all fun k => decide (k ≤ 6)) (e 0x20)

/-- Most hops of an entry from a position in a direction (R213). -/
def hopLimit (m src : Nat) (ccw : Bool) : Nat := if m = 16 then 8 else if ccw then src else m - 1 - src

/-- Counter value at which the phase of round q ends. -/
def Plan.phaseEnd (p : Plan) (q : Nat) : Nat :=
  match p.phaseOf q with
  | some (f, _, s0) => s0 + f.rounds p.m * f.period
  | none => 0

/-- Lanes of the adapter class in the phase of round q. -/
def Plan.adLanes (p : Plan) (q : Nat) : Nat := ((p.phaseOf q).map fun (f, _, _) => lanesIn f.amask).getD 0

/-- Counter value at which line i of an entry departs at hop j (R213). -/
def Plan.departs (p : Plan) (a : AEntry) (i j : Nat) : Nat :=
  (p.startOf a.round).getD 0 + (a.slot + i) / p.adLanes a.round + 64 * (j - 1)

/-- First slot of an entry at hop j, counted from counter value 0: two lines of one phase share a lane and a cycle when these numbers
are equal (R213). -/
def Plan.slotAt (p : Plan) (a : AEntry) (j : Nat) : Nat := a.slot + p.adLanes a.round * ((p.startOf a.round).getD 0 + 64 * (j - 1))

/-- Two entries use one lane of one link-direction in one cycle (R214). -/
def Plan.clash (p : Plan) (a b : AEntry) : Bool :=
  a.ccw == b.ccw && (p.phaseOf a.round).map (·.2.1) == (p.phaseOf b.round).map (·.2.1)
    && (List.range a.hops).any fun j => (List.range b.hops).any fun k =>
      a.posAt p.m j == b.posAt p.m k && rangesMeet (p.slotAt a (j + 1)) a.lines (p.slotAt b (k + 1)) b.lines

/-- Adapter entry i in field order (R213, R214). -/
def aentryCheck (p : Plan) (off nph sect i : Nat) (a : AEntry) (dir : Nat) : Chk Unit := do
  let e := fun k => ({ cls := 6, code := 0xE, off := off + 0xC0 + 64 * nph + 32 * i + k, sect := sect } : PlanErr)
  let before := p.aentries.take i
  demand (decide (a.round < p.roundCount)) (e 0)
  demand (decide (0 < p.adLanes a.round) && decide (p.departs a (a.lines - 1) a.hops < p.phaseEnd a.round)
    && !(before.any fun b => p.clash a b)) (e 4)
  let sent := ((before.filter fun b => b.round == a.round && b.src == a.src).map (·.lines)).sum
  demand (decide (1 ≤ a.lines) && decide (sent + a.lines ≤ 2048)) (e 8)
  demand (decide (a.src < p.m)) (e 0xA)
  demand (decide (dir ≤ 1)) (e 0xB)
  demand (decide (1 ≤ a.hops) && decide (a.hops ≤ hopLimit p.m a.src a.ccw)) (e 0xC)
  demand (a.deliver.getLsbD (a.hops - 1)) (e 0xE)
  let upTo := { p with aentries := before ++ [a] }
  demand ((List.range p.m).all fun pos => decide (upTo.delivers pos a.round ≤ 2048)) (e 0xE)

/-- The plan's schedule from a COURSE section, for the functions of the Course. -/
def scheduleOf (img : List Byte) (m off : Nat) : Plan :=
  { image := 0, bytes := img.length, planId := 0, m := m, entry := 0, crc := 0, phases := phasesOf img off,
    aentries := aentriesOf img off,
    shareBase := (List.range 16).map fun q => BitVec.ofNat 52 (field img (off + 0x40 + 8 * q) 8) }

/-- The COURSE section, in the order of R223: header, base table, phases, adapter entries. -/
def Device.courseCheck (d : Device) (c : Context) (img : List Byte) (m : Nat) (s : Sect) : Chk Unit := do
  let e := fun k => ({ cls := 6, code := 0xE, off := s.off + k, sect := s.idx } : PlanErr)
  let h := fun k n => field img (s.off + k) n
  demand (decide (0xC0 ≤ s.bytes)) (e 0)
  demand (gvOk (h 0 1) 1) (e 0)
  demand (decide (1 ≤ h 4 2) && decide (h 4 2 ≤ 256)) (e 4)
  demand (decide (h 8 4 ≤ 65536)) (e 8)
  demand (decide (0xC0 + 64 * h 4 2 + 32 * h 8 4 ≤ s.bytes)) (e 4)
  for q in List.range 16 do
    let a := h (0x40 + 8 * q) 8 % 2 ^ 52
    let own : Bool := match d.place a with
      | .lpddr n _ => n == (c.cdAt q).val
      | _ => false
    demand (if q < m then own else a == 0) (e (0x40 + 8 * q))
  for i in List.range (h 4 2) do phaseCheck img s.off s.idx m i
  let p := scheduleOf img m s.off
  for (a, i) in p.aentries.zipIdx do
    aentryCheck p s.off (h 4 2) s.idx i a (field img (s.off + 0xC0 + 64 * h 4 2 + 32 * i + 0xB) 1)

/-! ### FABRIC (R346) -/

/-- Offsets of the three tables of a FABRIC section. -/
def fabricSends (off i : Nat) : Nat := off + 64 + 32 * i
def fabricRecvs (img : List Byte) (off i : Nat) : Nat := off + 64 + 32 * (field img (off + 2) 2 + i)
def fabricEntries (img : List Byte) (off i : Nat) : Nat := off + 64 + 32 * (field img (off + 2) 2 + field img (off + 4) 2 + i)

/-- Send stream i. -/
def sendAt (img : List Byte) (off i : Nat) : SendStream :=
  let h := fun k n => field img (fabricSends off i + k) n
  { pos := h 0 1, stream := h 1 1, cls := h 2 1, depth := h 3 1, first := h 4 4, count := h 8 4 }

/-- Receive stream i; its peer holds its depth in message credits at run start (R349). -/
def recvAt (img : List Byte) (off i : Nat) : RecvStream :=
  let h := fun k n => field img (fabricRecvs img off i + k) n
  { pos := h 0 1, stream := h 1 1, cls := h 2 1, depth := h 3 1, peer := BitVec.ofNat 16 (h 4 2), held := h 3 1 }

/-- Send entry i. -/
def sendEntryAt (img : List Byte) (off i : Nat) : SendEntry :=
  let h := fun k n => field img (fabricEntries img off i + k) n
  { src := BitVec.ofNat 52 (h 0 8), lines := h 8 4, peer := BitVec.ofNat 16 (h 0xC 2), pos := h 0xE 1, stream := h 0xF 1,
    dst := BitVec.ofNat 52 (h 0x10 8), ordinal := h 0x18 4 }

/-- The streams and entries of a FABRIC section. -/
def sendsOf (img : List Byte) (off : Nat) : List SendStream := (List.range (field img (off + 2) 2)).map (sendAt img off)
def recvsOf (img : List Byte) (off : Nat) : List RecvStream := (List.range (field img (off + 4) 2)).map (recvAt img off)
def sendEntriesOf (img : List Byte) (off : Nat) : List SendEntry := (List.range (field img (off + 8) 4)).map (sendEntryAt img off)

/-- The message credits held at the start for each destination stream: the depth of the receive stream, which is that of the send stream
that serves it (R349). PRESUMED (log entry 59): the plans of both ends give one depth. -/
def creditsOf (ss : List SendStream) (es : List SendEntry) : List (MsgDest × Nat) :=
  ss.foldl (fun acc s => (List.range s.count).foldl (fun acc i =>
    match es[s.first + i]? with
    | some e => if acc.any fun x => x.1 == e.dest then acc else acc ++ [(e.dest, s.depth)]
    | none => acc) acc) []

/-- Send entries that a fabric die reads: those whose peer's route names one of its ports (R344, R349). -/
def Context.entriesOn (c : Context) (fd : Nat) (es : List SendEntry) : Nat :=
  (es.filter fun e => (c.routeTo e.peer.toNat).any fun r => r.port.val / 8 == fd).length

/-- The send entries of each fabric die can stay within 4,096: those whose peer has a route are on its die, and the others fit beside them on
the dies of which the context has ports (R346; log entry 59). -/
def Context.entriesFit (c : Context) (es : List SendEntry) : Bool :=
  let bound := (List.range 2).map fun fd => c.entriesOn fd es
  let open' := ((List.range 2).map fun fd =>
    if (List.range 8).any fun j => c.portMask.getLsbD (8 * fd + j) then 4096 - c.entriesOn fd es else 0).sum
  (bound.all fun n => decide (n ≤ 4096)) && decide (es.length - bound.sum ≤ open')

/-- A stream's place, number, class and depth in field order; `before` are the streams of its table ahead of it. -/
def streamRowCheck (e : Nat → PlanErr) (m pos stream cls depth : Nat) (before : List (Nat × Nat)) : Chk Unit := do
  demand (decide (pos < m)) (e 0)
  demand (decide (stream ≤ 31) && !(before.contains (pos, stream))) (e 1)
  demand (cls == 3 || cls == 4) (e 2)
  demand (decide (1 ≤ depth) && decide (depth ≤ 64)) (e 3)

/-- The FABRIC section. -/
def Context.fabricCheck (c : Context) (img : List Byte) (m : Nat) (s : Sect) : Chk Unit := do
  let e := fun o => ({ cls := 6, code := 0x13, off := o, sect := s.idx } : PlanErr)
  let h := fun k n => field img (s.off + k) n
  demand (decide (64 ≤ s.bytes) && gvOk (h 0 1) 1) (e s.off)
  demand (decide (64 + 32 * (h 2 2 + h 4 2 + h 8 4) ≤ s.bytes)) (e (s.off + 2))
  let es := sendEntriesOf img s.off
  let ss := sendsOf img s.off
  let rs := recvsOf img s.off
  demand (c.entriesFit es) (e (s.off + 8))
  for (x, i) in ss.zipIdx do
    let o := fabricSends s.off i
    streamRowCheck (fun k => e (o + k)) m x.pos x.stream x.cls x.depth ((ss.take i).map fun y => (y.pos, y.stream))
    demand (decide (1 ≤ x.count) && decide (x.first + x.count ≤ es.length)) (e (o + 4))
  for (x, i) in rs.zipIdx do
    let o := fabricRecvs img s.off i
    streamRowCheck (fun k => e (o + k)) m x.pos x.stream x.cls x.depth ((rs.take i).map fun y => (y.pos, y.stream))
  for (x, i) in es.zipIdx do
    let o := fabricEntries img s.off i
    let senders := ss.filter fun y => decide (y.first ≤ i) && decide (i < y.first + y.count)
    demand (senders.all fun y => inOwnSram (c.cdAt y.pos) x.src.toNat && decide (x.src.toNat + 64 * x.lines ≤ sramOf (c.cdAt y.pos).val + 0x80000000))
      (e o)
    demand (decide (1 ≤ x.lines) && decide (x.lines ≤ pow2 24)) (e (o + 8))
    demand (decide (x.pos < 16)) (e (o + 0xE))
    demand (decide (x.stream ≤ 31)) (e (o + 0xF))

end Sys2Proof.Machine
end

