-- ==== Sys2Proof/Machine/Rings.lean ====
section
/-! DEFINITION. The rings: doorbells, signals, taking and completing descriptors, binding and resuming a ring set (R357 to R376). -/

namespace Sys2Proof.Machine

/-- A companion range of `n` bytes. -/
def inCompanion (a n : Nat) : Bool := decide (companionBase ≤ a) && decide (a + n ≤ 2 ^ 52)

/-! ### Doorbells and signals (R361, R363 to R365) -/

/-- Stores that the companion makes to its own memory (R171, R358). -/
def Device.companionStores (d : Device) (ss : List Host.Cell) : Device :=
  ss.foldl (fun d (c : Host.Cell) =>
    if companionBase ≤ c.1 ∧ c.1 < 2 ^ 52 then d.modBytes fun m => memPut 0 m c.1 c.2 else d) d

/-- An index lies beyond its ring (R361). -/
def RingSet.outOfRange (r : RingSet) : Bool :=
  decide (pow2 r.sqN < gap r.sqTail r.sqHead) || decide (pow2 r.cqN < gap r.cqTail r.cqHead) || decide (pow2 r.eqN < gap r.eqTail r.eqHead)

/-- New indices taken from the driver: a ring set with an index out of range stops with TAIL_RANGE (R361), and events dropped before
are told once there is room (R376). -/
def ringIndices (sq cq eq : BitVec 32) (tag : BitVec 16) (x : RingIo) : RingIo :=
  let r := { x.2 with sqTail := sq, cqHead := cq, eqHead := eq }
  if r.outOfRange then (if r.stopped then (x.1, r) else ringStop 0xEE (x.1, r)) else ringEventsLost tag (x.1, r)

/-- Tag of a ring set: 0 for the admin ring. -/
def Device.ringTag (d : Device) (id : RingId) : BitVec 16 :=
  match id with
  | .admin => 0
  | .ctx slot => ((d.ctxAt slot).map (·.tag)).getD 0

/-- A read of a companion line by the HD for a ring set that has failed: its record is written, and the context is FAULTED (R171, R192, R410;
log entry 70). -/
def Device.readFailed (d : Device) (id : RingId) (code a : Nat) : Device :=
  let r := d.lineErr (d.ringTag id) code a false
  (d.report r).markTag r

/-- The control line of a ring set reread, when it can be read (R171, R360, R363, R410). -/
def Device.rereadControl (d : Device) (id : RingId) : Device :=
  match (d.ring id).bind fun r => (d.hdLineCode r.ctl.toNat).map fun e => (e, r.ctl.toNat) with
  | some (e, a) => d.readFailed id e a
  | none => d.onRing id fun tag x =>
    let w := fun o => BitVec.ofNat 32 (le (memBytes 0 d.mem.bytes (x.2.ctl.toNat + o) 4))
    ringIndices (w 0) (w 4) (w 8) tag x

/-- A snoop of the control line of a ring set bound in snooped mode (R363); none comes over a link that is down. -/
def Device.snoop (d : Device) (id : RingId) (stores : List Host.Cell) : Device :=
  let d1 := d.companionStores stores
  match d1.ring id with
  | some r => if r.mmio || !d1.yalkenUp then d1 else d1.rereadControl id
  | none => d1

/-- SNPINV. -/
def execSnpinv (ring : RingId) (stores : List Host.Cell) (s : State) : Host.Outcome State Fault Refusal :=
  .next { s with dev := s.dev.snoop ring stores }

/-- A stray register write counted (R364, R472). -/
def Device.stray (d : Device) : Device := { d with hd := { d.hd with dbStray := d.hd.dbStray.add 1 } }

/-- Ring set and index named by an offset of the doorbell page (R364). -/
def doorbellOf (off : Nat) : Option (RingId × Nat) :=
  let k := off % 0x40 / 4
  if off % 4 ≠ 0 ∨ 3 ≤ k then none
  else if off < 0x400 then some (.ctx (idx 16 (off / 0x40)), k)
  else if off < 0x440 then some (.admin, k)
  else none

/-- CFGRD and CFGWR of the driver are served: from start-up stage 0x6 on, over the Yalken link (R470). -/
def Device.driverServes (d : Device) : Bool := decide (6 ≤ d.start.stage.toNat) && d.yalkenUp

/-- A CFGWR to the doorbell page, on a path that serves: an index of a ring set bound in MMIO mode, or a stray (R364, R470). -/
def Device.doorbell (d : Device) (off : BitVec 12) (v : BitVec 32) (stores : List Host.Cell) : Device :=
  let d1 := d.companionStores stores
  if !d1.driverServes then d1
  else match doorbellOf off.toNat with
  | none => d1.stray
  | some (id, k) =>
    match d1.ring id with
    | none => d1.stray
    | some r =>
      if !r.mmio then d1.stray
      else d1.onRing id fun tag x =>
        ringIndices (if k = 0 then v else x.2.sqTail) (if k = 1 then v else x.2.cqHead) (if k = 2 then v else x.2.eqHead) tag x

/-- DOORBELL_WRITE. -/
def execDoorbellWrite (off : BitVec 12) (value : BitVec 32) (stores : List Host.Cell) (s : State) : Host.Outcome State Fault Refusal :=
  .next { s with dev := s.dev.doorbell off value stores }

/-- The holdoff ends: a signal that fell in it is written, and starts a holdoff of its own (R365). -/
def ringHoldoff (x : RingIo) : RingIo :=
  let r := x.2
  if !r.holdoff then x
  else if r.sigDue then (x.1 ++ [(r.sig.toNat, bytesLE 4 r.sigval.toNat)], { r with holdoff := r.coal != 0, sigDue := false })
  else (x.1, { r with holdoff := false })

/-- SIGNAL_HOLDOFF_EXPIRY. -/
def execSignalHoldoffExpiry (ring : RingId) (s : State) : Host.Outcome State Fault Refusal :=
  .next { s with dev := s.dev.onRing ring fun _ x => ringHoldoff x }

/-! ### Taking a descriptor (R366 to R369, R385) -/

/-- Opcodes listed for a context's ring (R372). -/
def contextOps : List Nat :=
  [0x01, 0x02, 0x03, 0x04, 0x05, 0x10, 0x11, 0x12, 0x13, 0x14, 0x15, 0x16, 0x20, 0x21, 0x22, 0x23, 0x28, 0x3F]
/-- Opcodes listed for the admin ring (R374). -/
def adminOps : List Nat := [0x40, 0x41, 0x42, 0x43, 0x44, 0x45, 0x48, 0x49, 0x4A, 0x4B, 0x50, 0x51, 0x7F]

/-- Opcodes listed for a ring set. -/
def listedOps : RingId → List Nat
  | .admin => adminOps
  | .ctx _ => contextOps

/-- The descriptor at the head of a ring set. -/
def Device.head (d : Device) (id : RingId) : Option Taken :=
  match id with
  | .admin => d.adminHead
  | .ctx slot => (d.ctxAt slot).bind (·.head)

/-- The head of a ring set rewritten. -/
def Device.setHead (d : Device) (id : RingId) (t : Option Taken) : Device :=
  match id with
  | .admin => { d with adminHead := t }
  | .ctx slot => d.modCtx slot fun c => { c with head := t }

/-- The ring set belongs to a context that a CONTEXT_RESET in progress names: its descriptors stand still (R421). -/
def Device.underReset (d : Device) (id : RingId) : Bool :=
  match id, d.resetting with
  | .ctx slot, some r => r.slot == slot
  | _, _ => false

/-- The DPA of the entry at sq_head of a ring set, when it can be taken (R366). -/
def Device.entryAddr (d : Device) (id : RingId) : Option Nat :=
  match d.ring id with
  | none => none
  | some r =>
    if d.underReset id ∨ r.sqTail = r.sqHead ∨ r.stopped ∨ (d.head id).isSome ∨ !d.yalkenUp ∨ pow2 r.cqN ≤ gap r.cqTail r.cqHead + r.reserved then none
    else some (r.sq.toNat + 64 * (r.sqHead.toNat % pow2 r.sqN))

/-- The entry at sq_head of a ring set, when it can be taken and read (R171, R366, R410). -/
def Device.waitingEntry (d : Device) (id : RingId) : Option (List Byte) :=
  (d.entryAddr id).bind fun a => if (d.hdLineCode a).isSome then none else some (memBytes 0 d.mem.bytes a 64)

/-- An entry whose line cannot be read: the record of the read. The entry stays, and is read again (DESIGN CHOICE, log entry 70). -/
def Device.entryError (d : Device) (id : RingId) : Device :=
  match d.entryAddr id with
  | none => d
  | some a => match d.hdLineCode a with
    | none => d
    | some e => d.readFailed id e a

/-- The first header check of R366 that an entry fails, for the expected number and the tag of its ring set. -/
def headerFails (id : RingId) (r : RingSet) (tag : BitVec 16) (e : List Byte) : Option Nat :=
  if field e 4 4 ≠ r.expected.toNat then some 0xED
  else if field e 1 1 % 4 ≠ 1 then some 0xE1
  else if 1 < field e 1 1 / 4 then some 0xE2
  else if field e 2 2 ≠ tag.toNat then some 0xE3
  else if !(listedOps id).contains (entOp e) then some 0xE0
  else none

/-- An entry taken on a ring set: sq_head and the expected number rise, a completion entry is reserved (R366). -/
def RingSet.take (r : RingSet) : RingSet := { r with sqHead := r.sqHead + 1, expected := r.expected + 1, reserved := r.reserved + 1 }

/-- The completion of a failed header check; SEQ_MISMATCH also stops the ring set (R366). -/
def ringRefuse (code : Nat) (e : List Byte) (tag : BitVec 16) (x : RingIo) : RingIo :=
  let r := x.2
  let r1 := if code = 0xED then { r with stopped := true, cause := 0xED, stopSeq := r.expected - 1 } else r
  ringComplete tag (BitVec.ofNat 8 (entOp e)) (BitVec.ofNat 32 (field e 4 4)) code 0 [] (x.1, r1)

/-- The waiting entry taken and its header checked: it is completed with the code of a failed check, or holds the head. -/
def Device.takeEntry (d : Device) (id : RingId) (e : List Byte) : Device :=
  match d.ring id with
  | none => d
  | some r =>
    let d1 := d.onRing id fun _ x => (x.1, x.2.take)
    match headerFails id r (d.ringTag id) e with
    | some code => d1.onRing id (ringRefuse code e)
    | none => d1.setHead id (some { op := BitVec.ofNat 8 (entOp e), seq := BitVec.ofNat 32 (field e 4 4), entry := e })

/-- The head descriptor completes: its completion entry is written and the head is free (R371). -/
def Device.finish (d : Device) (id : RingId) (t : Taken) (code flags : Nat) (result : List Byte) : Device :=
  (d.setHead id none).onRing id fun tag x => ringComplete tag t.op t.seq code flags result x

/-- The head descriptor completes with a code alone. -/
def Device.answer (d : Device) (id : RingId) (t : Taken) (code : Nat) : Device := d.finish id t code 0 []

/-- The head descriptor completes with an error record attached, which is also logged and posted (R15, R371). -/
def Device.answerErr (d : Device) (id : RingId) (t : Taken) (code : Nat) (r : ErrRec) (res16 : List Byte) : Device :=
  (d.report r).finish id t code 1 (pad 16 res16 ++ r.encode)

/-- Bytes of companion memory read by the HD for an admin descriptor, or the record of the first line that fails: outside companion
memory, inside a package window, or answered with an error (R171, R371, R410, R490). -/
def Device.adminRead (d : Device) (a n : Nat) : Except ErrRec (List Byte) :=
  let fail := fun (code l : Nat) => d.err hdIsland 7 code 0 (some l) (faultDetail (l - a) false 0 0)
  if n = 0 then .ok []
  else if !inCompanion a n then .error (fail (match (d.place a).target with | none => eUnmapped | _ => eTarget) (lineOf a))
  else
    let bad := (List.range (ceilDiv (a % 64 + n) 64)).findSome? fun k =>
      let l := lineOf a + 64 * k
      if (d.windowOf l).isSome then some (ePkgDest, l) else (d.dataCode l 64).map fun e => (e, l)
    match bad with
    | some (e, l) => .error (fail e l)
    | none => .ok (memBytes 0 d.mem.bytes a n)

/-- Some bytes cut at line boundaries: the writes of their lines, lowest first. -/
def lineWrites : Nat → Nat → List Byte → Writes
  | 0, _, _ => []
  | fuel + 1, a, bs => if bs = [] then [] else (a, bs.take (64 - a % 64)) :: lineWrites fuel (lineOf a + 64) (bs.drop (64 - a % 64))

/-- Bytes written to companion memory by the HD for an admin descriptor, lowest line first, or the record of the first line that fails: outside
companion memory, or answered with an error (R171, R192, R194, R371, R490). Lines below it are written; while the link is down all wait. -/
def Device.adminWrite (d : Device) (a : Nat) (bs : List Byte) : Device × Option ErrRec :=
  let n := bs.length
  let fail := fun (code l : Nat) => d.err hdIsland 7 code 0 (some l) (faultDetail (l - lineOf a) true 0 0)
  if n = 0 then (d, none)
  else if !inCompanion a n then (d, some (fail (match (d.place a).target with | none => eUnmapped | _ => eTarget) (lineOf a)))
  else if !d.yalkenUp then (d.companionPut 0 (lineWrites n a bs), none)
  else
    match (d.mem.errLines.filter fun l => decide (a / 64 ≤ l) && decide (64 * l < a + n)).min? with
    | none => (d.companionPut 0 [(a, bs)], none)
    | some l => (d.companionPut 0 [(a, bs.take (64 * l - a))], some (fail eCompanion (64 * l)))

/-- The row of an opcode takes the waiting entry that carries it. -/
def Device.takeOp (d : Device) (id : RingId) (op : Nat) : Device :=
  match d.waitingEntry id with
  | some e => if entOp e = op then d.takeEntry id e else d
  | none => d.entryError id

/-! ### Reads of companion memory by a descriptor (R359, R372, R374) -/

/-- The line of companion memory that the descriptor at the head of a ring set reads first, for one that reads companion memory: a list, a
table or a block that it names, the source of a fetch, or the arguments of the run that it starts. -/
def Device.readsFirst (d : Device) (id : RingId) (t : Taken) : Option Nat :=
  let line := fun (a : Nat) => if inCompanion a 1 then some (lineOf a) else none
  let op := t.op.toNat
  match id with
  | .admin =>
    if op = 0x40 then line (entDpa t.entry 0x28)
    else if op = 0x44 then line (entDpa t.entry 0x10)
    else if op = 0x48 ∨ op = 0x49 ∨ op = 0x4B then line (entDpa t.entry 8)
    else none
  | .ctx slot =>
    match d.ctxAt slot with
    | none => none
    | some c =>
      match c.run with
      | some u => if !u.begun && u.seq == t.seq && u.op == t.op then line u.args.toNat else none
      | none =>
        if op = 0x15 ∨ op = 0x16 ∨ (op = 0x28 ∧ field t.entry 0x10 1 ≠ 0) then line (entDpa t.entry 8)
        else if op = 0x11 then (d.dirRead c (field t.entry 8 4)).bind fun e => line (entDpa e 0x10)
        else none

/-- The descriptor waits for the link before its first read of companion memory (R359). -/
def Device.linkWaits (d : Device) (id : RingId) (t : Taken) : Bool := !d.yalkenUp && (d.readsFirst id t).isSome

/-- What a context descriptor does while a run is in progress (R372). -/
inductive DuringRun where
  | waits | acts | refused (code : Nat)
  deriving DecidableEq, Repr

/-- When a context descriptor acts: on a saved context (R385), on a resident FAULTED one (R369), and during a run (R372). -/
structure DescRule where
  saved : Bool := false
  faulted : Bool := false
  run : DuringRun := .waits
  deriving DecidableEq, Repr

/-- A context descriptor of an opcode: it is taken if it waits at sq_head; at the head it waits, is refused, or acts (R366 to R369,
R385). One whose own run is under way goes on by the end of that run. While the link is down one that reads companion memory waits (R359;
log entry 14). -/
def Device.descriptor (d : Device) (slot : CtxSlot) (op : Nat) (rule : DescRule) (body : Device → Context → Taken → Device) : Device :=
  let d1 := d.takeOp (.ctx slot) op
  match d1.ctxAt slot with
  | none => d1
  | some c =>
    match c.head with
    | none => d1
    | some t =>
      if t.op.toNat ≠ op ∨ d1.underReset (.ctx slot) then d1
      else if c.run.any fun u => u.seq == t.seq && u.op == t.op then d1
      else if !c.resident && !rule.saved then d1
      else if c.resident && c.cond == .faulted && !rule.faulted then d1.answer (.ctx slot) t 0xE5
      else if c.run.isSome then
        match rule.run with
        | .waits => d1
        | .acts => if d1.linkWaits (.ctx slot) t then d1 else body d1 c t
        | .refused code => d1.answer (.ctx slot) t code
      else if d1.linkWaits (.ctx slot) t then d1
      else body d1 c t

/-- An admin descriptor of an opcode (R374); one that reads companion memory waits while the link is down, as above. -/
def Device.adminDescriptor (d : Device) (op : Nat) (body : Device → Taken → Device) : Device :=
  let d1 := d.takeOp .admin op
  match d1.adminHead with
  | none => d1
  | some t => if t.op.toNat = op ∧ !d1.linkWaits .admin t then body d1 t else d1

/-- CONTEXT_NOP. -/
def execContextNop (slot : CtxSlot) (s : State) : Host.Outcome State Fault Refusal :=
  .next { s with dev := s.dev.descriptor slot 0x3F { saved := true, faulted := true, run := .acts } fun d _ t => d.answer (.ctx slot) t 0 }

/-- ADMIN_NOP. -/
def execAdminNop (s : State) : Host.Outcome State Fault Refusal :=
  .next { s with dev := s.dev.adminDescriptor 0x7F fun d t => d.answer .admin t 0 }

/-- The entry at sq_head with an opcode not listed for its ring: taken and completed with OPCODE, or with the code of an earlier check
(R366, R374). -/
def Device.refuseOpcode (d : Device) (id : RingId) : Device :=
  match d.waitingEntry id with
  | some e => if (listedOps id).contains (entOp e) then d else d.takeEntry id e
  | none => d.entryError id

/-- DESCRIPTOR_OPCODE_REFUSED. -/
def execDescriptorOpcodeRefused (ring : RingId) (s : State) : Host.Outcome State Fault Refusal :=
  .next { s with dev := s.dev.refuseOpcode ring }

/-! ### Accesses without an answer (R359) -/

/-- Ring sets whose head descriptor waits for the link, the admin ring set first, each with the line that it reads first. -/
def Device.waitingHeads (d : Device) : List (RingId × Nat) :=
  (RingId.admin :: (List.finRange 16).map RingId.ctx).filterMap fun id =>
    (d.head id).bind fun t => (d.readsFirst id t).map fun a => (id, a)

/-- A write that waited and that the link answers with an error, or not in time: a COMPANION_ERR record, and the context that it was made for
is FAULTED (R171, R192). -/
def Device.heldFailed (d : Device) (w : HeldWrite) : Device :=
  let r := d.lineErr w.ctx eCompanion w.dpa true
  (d.report r).markTag r

/-- A write that waited reaches its line. -/
def Device.landHeld (d : Device) (w : HeldWrite) : Device :=
  if d.mem.errLines.contains (w.dpa / 64) then d.heldFailed w else d.modBytes (Writes.land [(w.dpa, w.bytes)])

/-- A write that has waited too long is given up, with a COMPANION_ERR record; the context that it was made for is FAULTED (R171, R192, R359;
log entry 14). -/
def Device.writeTimeout (d : Device) (k : Nat) : Device :=
  match d.heldWrites[k]? with
  | none => d
  | some w => ({ d with heldWrites := d.heldWrites.eraseIdx k } : Device).heldFailed w

/-- A descriptor whose first read of companion memory has waited too long completes with FAULT and a COMPANION_ERR record of its line; the run
that it was to start does not (R171, R192, R359, R371). -/
def Device.headTimeout (d : Device) (k : Nat) : Device :=
  match d.waitingHeads[k]? with
  | none => d
  | some (id, a) =>
    match d.head id with
    | none => d
    | some t =>
      let r := d.lineErr (d.ringTag id) eCompanion a false
      match id with
      | .admin => d.answerErr id t 0xE6 r []
      | .ctx slot => match d.ctxAt slot with
        | some c => ((d.modCtx slot fun c => { c with run := none }).fault { c with run := none } r).finish id t 0xE6 1 (zeros 16 ++ r.encode)
        | none => d

/-- Companion access `i` has had no answer: the accesses of engines come first, then the waiting writes of the HD, then the descriptors
that wait for the link. -/
def Device.accessTimeout (d : Device) (i : Nat) : Device :=
  let n := d.companion.length
  if i < n then d.companionTimeout i
  else if d.yalkenUp then d
  else if i < n + d.heldWrites.length then d.writeTimeout (i - n)
  else d.headTimeout (i - n - d.heldWrites.length)

/-- COMPANION_TIMEOUT. -/
def execCompanionTimeout (access : Nat) (s : State) : Host.Outcome State Fault Refusal :=
  .next { s with dev := s.dev.accessTimeout access }

/-! ### Reads and writes of a descriptor (R358, R372) -/

/-- A memory fault of a descriptor's own access, as an error record of the management processor. -/
def Device.hdErr (d : Device) (c : Context) (code line done : Nat) (write : Bool) : ErrRec :=
  d.err hdIsland 7 code c.tag (some line) (faultDetail done write 0 0)

/-- Bytes of companion memory read for a context through its Pantry with DMA standing. -/
def Device.hdRead (d : Device) (c : Context) (a n : Nat) : Except ErrRec (List Byte) :=
  match (d.place a).target with
  | some (2, _) =>
    match d.readBytes c (c.cdAt 0) .record a n with
    | .ok bs => .ok bs
    | .error (e, l) => .error (d.hdErr c e l (l - lineOf a) false)
  | none => .error (d.hdErr c eUnmapped (lineOf a) 0 false)
  | _ => .error (d.hdErr c eTarget (lineOf a) 0 false)

/-- Bytes of companion memory written for a context through its Pantry with DMA standing. -/
def Device.hdWrite (d : Device) (c : Context) (a : Nat) (bs : List Byte) : Device × Option ErrRec :=
  match (d.place a).target with
  | some (2, _) =>
    match d.putBytes c (c.cdAt 0) .record a bs with
    | (d1, none) => (d1, none)
    | (d1, some (e, l, done)) => (d1, some (d.hdErr c e l done true))
  | none => (d, some (d.hdErr c eUnmapped (lineOf a) 0 true))
  | _ => (d, some (d.hdErr c eTarget (lineOf a) 0 true))

/-- The CD through which the HD reaches a device memory: the owner of the window. -/
def Device.hdCd (d : Device) (c : Context) (a : Nat) : Cd :=
  match d.place a with
  | .lpddr n _ => idx 16 n
  | .sram n _ => idx 16 n
  | _ => c.cdAt 0

/-- Bytes of LPDDR5X read by the HD for a context, under the checks of R490. -/
def Device.hdLine (d : Device) (c : Context) (a n : Nat) : Except ErrRec (List Byte) :=
  match d.readBytes c (d.hdCd c a) .planLoad a n with
  | .ok bs => .ok bs
  | .error (e, l) => .error (d.hdErr c e l 0 false)

/-- Bytes inside one LPDDR5X line changed by the HD for a context: the line is read and written whole (R175). -/
def Device.hdSplice (d : Device) (c : Context) (a : Nat) (bs : List Byte) : Except ErrRec Device :=
  match d.hdLine c (lineOf a) 64 with
  | .error r => .error r
  | .ok l =>
    match d.writeLine c (d.hdCd c a) .planLoad (lineOf a) (splice l (a % 64) bs) with
    | .ok d' => .ok d'
    | .error e => .error (d.hdErr c e (lineOf a) 0 true)

/-- Writes of a descriptor, each made by `f` on the device that the earlier ones left: the device after all of them, or at the first
that fails, with its record. -/
def Device.hdEach {α : Type} (d : Device) (l : List α) (f : Device → α → Except ErrRec Device) : Except (Device × ErrRec) Device :=
  l.foldlM (fun d x => match f d x with | .ok d' => .ok d' | .error r => .error (d, r)) d

/-- A memory fault of a context descriptor's own access: the context enters FAULTED, and the descriptor completes with FAULT and the
record (R192, R371). -/
def Device.answerFault (d : Device) (c : Context) (t : Taken) (r : ErrRec) (res16 : List Byte) : Device :=
  (d.fault c r).finish (.ctx c.slot) t 0xE6 1 (pad 16 res16 ++ r.encode)

/-- A descriptor that reads the commit line of its context: an error of its data is a fault of the descriptor's own access (R176, R192). -/
def Device.withCommit (d : Device) (c : Context) (t : Taken) (f : Device → Device) : Device :=
  match d.dataBad c.commitLine.toNat 64 with
  | some (e, l) => d.answerFault c t (d.hdErr c e l 0 false) []
  | none => f d

/-! ### Binding and resuming (R362, R375, R478) -/

/-- Two ranges do not meet. -/
def apart (a n b m : Nat) : Bool := decide (a + n ≤ b) || decide (b + m ≤ a)

/-- Every two ranges of a list are apart. -/
def allApart : List (Nat × Nat) → Bool
  | [] => true
  | (a, n) :: t => (t.all fun (r : Nat × Nat) => apart a n r.1 r.2) && allApart t

/-- The ring set that a ring block describes; none for a block that breaks R362. -/
def ringOfBlock (b : List Byte) : Option RingSet :=
  let n := fun o => field b o 1
  let sq := entDpa b 8
  let cq := entDpa b 0x10
  let eq := entDpa b 0x18
  let ctl := entDpa b 0x20
  let sts := entDpa b 0x28
  let sig := entDpa b 0x30
  let ranges := [(sq, 64 * pow2 (n 1)), (cq, 64 * pow2 (n 2)), (eq, 64 * pow2 (n 3)), (ctl, 64), (sts, 64)]
  if gvOk (n 0) 1 && ([1, 2, 3].all fun o => decide (6 ≤ n o) && decide (n o ≤ 16)) && (ranges.all fun (r : Nat × Nat) => inCompanion r.1 r.2 && r.1 % 64 == 0)
      && inCompanion sig 4 && sig % 4 == 0 && allApart ranges then
    some { sqN := n 1, cqN := n 2, eqN := n 3, sq := BitVec.ofNat 52 sq, cq := BitVec.ofNat 52 cq, eq := BitVec.ofNat 52 eq,
           ctl := BitVec.ofNat 52 ctl, sts := BitVec.ofNat 52 sts, sig := BitVec.ofNat 52 sig,
           sigval := BitVec.ofNat 32 (field b 0x38 4), coal := BitVec.ofNat 16 (field b 0x3C 2),
           mmio := bits (n 0x3E) 0 0 == 1, signals := bits (n 0x3E) 1 1 == 1, expected := BitVec.ofNat 32 (field b 4 4) }
  else none

/-- A ring set just bound: every index is zero in both lines, and in snooped mode the control line is read (R362, R363). -/
def Device.openRing (d : Device) (id : RingId) : Device :=
  let d1 := d.onRing id fun _ x => ringStatus (x.1 ++ [(x.2.ctl.toNat, zeros 12)], x.2)
  match d1.ring id with
  | some r => if r.mmio then d1 else d1.rereadControl id
  | none => d1

/-- RING_BIND of a context's ring set; a line of the block that cannot be read is a FAULT (R362, R371, R410). -/
def Device.ringBind (d : Device) (t : Taken) : Device :=
  match d.ctxTag (BitVec.ofNat 16 (field t.entry 8 2)) with
  | none => d.answer .admin t 0xEC
  | some c =>
    if c.head.isSome ∨ c.run.isSome then d.answer .admin t 0xEB
    else
      let a := entDpa t.entry 0x10
      if !inCompanion a 64 then d.answer .admin t 0xE4
      else match d.adminRead a 64 with
        | .error r => d.answerErr .admin t 0xE6 r []
        | .ok b =>
          match ringOfBlock b with
          | none => d.answer .admin t 0xE4
          | some r =>
            let d1 := d.modCtx c.slot fun c => { c with ring := some r }
            (d1.openRing (.ctx c.slot)).answer .admin t 0

/-- RING_BIND. -/
def execRingBind (s : State) : Host.Outcome State Fault Refusal := .next { s with dev := s.dev.adminDescriptor 0x44 Device.ringBind }

/-- A stopped ring set resumed: untaken entries are discarded (R375). -/
def ringResume (seq : BitVec 32) (tag : BitVec 16) (x : RingIo) : RingIo :=
  ringEventsLost tag (ringStatus (x.1, { x.2 with sqHead := x.2.sqTail, expected := seq, stopped := false, cause := 0 }))

/-- RING_RESUME (R375). -/
def Device.ringResumeOp (d : Device) (t : Taken) : Device :=
  let tag := BitVec.ofNat 16 (field t.entry 8 2)
  let seq := BitVec.ofNat 32 (field t.entry 0xC 4)
  let id : Option RingId := if tag = 0 then some .admin else (d.ctxTag tag).map fun c => .ctx c.slot
  match id with
  | none => d.answer .admin t 0xEC
  | some i =>
    match d.ring i with
    | none => d.answer .admin t 0xEB
    | some r => if r.stopped then (d.onRing i (ringResume seq)).answer .admin t 0 else d.answer .admin t 0xEB

/-- RING_RESUME. -/
def execRingResume (s : State) : Host.Outcome State Fault Refusal := .next { s with dev := s.dev.adminDescriptor 0x45 Device.ringResumeOp }

end Sys2Proof.Machine
end

