-- ==== Sys2Proof/Machine/Plan.lean ====
section
/-! DEFINITION. PLAN_LOAD: reading a plan image, checking it in order and writing it onto the dies (R121, R163, R166, R179, R180, R191,
R297, R489). -/

namespace Sys2Proof.Machine

/-! ### Reading the image (R179) -/

/-- The grant that decides a line for a plan load: the valid one of highest index that covers it. -/
def Context.grantFor (c : Context) (a : Nat) : Option (BitVec 128) := (c.grants.filter fun g => pCovers g a).getLast?

/-- One line of an image: grant entries only, with the rights r and x (R179, R490). -/
def Device.planLine (d : Device) (c : Context) (a : Nat) : Except Nat (List Byte) :=
  match (d.place a).target with
  | none => .error eUnmapped
  | some (t, own) =>
    if t ≠ 0 ∨ (own.any fun n => !c.onArc (idx 16 n)) then .error eTarget
    else match c.grantFor a with
      | none => .error eMiss
      | some g =>
        if pTarget g ≠ 0 then .error eTarget
        else if !(pR g && pX g) then .error eRight
        else match d.keyCheck a (pDomain g) with
          | some e => .error e
          | none => d.lineData (pDomain g) a

/-- `n` lines of an image from a line address on; a failure gives its code, its line and the bytes read before it. -/
def Device.planLines (d : Device) (c : Context) : Nat → Nat → Nat → Except (Nat × Nat × Nat) (List Byte)
  | 0, _, _ => .ok []
  | n + 1, a, done =>
    match d.planLine c (wrap52 a) with
    | .error e => .error (e, wrap52 a, done)
    | .ok bs =>
      match Device.planLines d c n (a + 64) (done + 64) with
      | .error e => .error e
      | .ok rest => .ok (bs ++ rest)

/-- The image of a plan: `n` bytes from a DPA on. -/
def Device.planImage (d : Device) (c : Context) (a n : Nat) : Except (Nat × Nat × Nat) (List Byte) :=
  (d.planLines c (ceilDiv (a % 64 + n) 64) (lineOf a) 0).map fun bs => (bs.drop (a % 64)).take n

/-! ### Checking (R166 steps 2 to 5) -/

/-- The die of a position as the image would load it: plan store, strokes, queue depths, stall bounds and links (R163, R164). -/
def loadDie (x : Die) (img : List Byte) (cs rs qs : Sect) : Die :=
  { x with
    loc := posStore img cs rs
    codeStrokes := cs.bytes / 64
    queues := Vector.replicate 12 []
    depth := each (fun q _ => field img (qs.off + q.val) 1) x.depth
    bound := each (fun q _ => field img (qs.off + 0x10 + 4 * q.val) 4) x.bound
    links := linksOf img qs }

/-- What the checks of position `pos` rest on. -/
def planPos (c : Context) (img : List Byte) (ss : List Sect) (pos : Nat) (cs rs qs : Sect) : PlanPos :=
  let fab := (globalSect ss 7).map (·.off)
  { x := loadDie {} img cs rs qs, cs := cs, rs := rs, cd := c.cdAt pos
    recvs := match fab with
      | some o => ((recvsOf img o).filter fun r => r.pos == pos).map fun r => (r.stream, r.cls)
      | none => []
    sends := match fab with
      | some o => ((sendsOf img o).filter fun r => r.pos == pos).map (·.stream)
      | none => [] }

/-- Step 4 of R166 for one position. -/
def posCheck (c : Context) (img : List Byte) (ss : List Sect) (pos : Nat) : Chk Unit :=
  match sectAt ss 1 pos, sectAt ss 2 pos, sectAt ss 3 pos with
  | some cs, some rs, some qs => do
    queuesCheck img qs
    positionCheck (planPos c img ss pos cs rs qs)
  | _, _, _ => .error (headErr 5 0x40)

/-- A check of a global section. -/
def globalCheck (ss : List Sect) (typ : Nat) (f : Sect → Chk Unit) : Chk Unit :=
  match globalSect ss typ with
  | some s => f s
  | none => .error (headErr 5 0x40)

/-- Steps 2 to 5 of R166 in order. -/
def Device.planCheck (d : Device) (c : Context) (img : List Byte) : Chk Unit := do
  headerCheck img c.m (usableMib d.code)
  tableCheck img c.m
  let ss := sectsOf img
  for pos in List.range c.m do posCheck c img ss pos
  globalCheck ss 5 (placementCheck img c.m)
  globalCheck ss 6 (d.regionsCheck c img)
  globalCheck ss 4 (d.courseCheck c img c.m)
  globalCheck ss 7 (c.fabricCheck img c.m)

/-! ### Loading (R166 step 6) -/

/-- The plan that an accepted image describes. -/
def planOf (img : List Byte) (ss : List Sect) (dpa : Nat) : Plan :=
  let off := fun t => ((globalSect ss t).map (·.off)).getD 0
  { scheduleOf img (field img 5 1) (off 4) with
    image := BitVec.ofNat 52 dpa
    planId := BitVec.ofNat 64 (field img 0x18 8)
    entry := BitVec.ofNat 14 (bits (field img 0x14 2) 13 0)
    crc := BitVec.ofNat 32 (field img 0x3C 4)
    sends := sendsOf img (off 7)
    recvs := recvsOf img (off 7)
    sendEntries := sendEntriesOf img (off 7)
    credits := creditsOf (sendsOf img (off 7)) (sendEntriesOf img (off 7)) }

/-- The die of a position after a load: its plan store, zero scratch, and cleared Sieve counters and tap accumulators (R121, R297). -/
def Die.loaded (x : Die) (img : List Byte) (ss : List Sect) (pos : Nat) : Die :=
  match sectAt ss 1 pos, sectAt ss 2 pos, sectAt ss 3 pos with
  | some cs, some rs, some qs => { loadDie x img cs rs qs with sieve := {} }
  | _, _, _ => x

/-- The Pantry after a load: grants as before, the region entries of the layout, every other entry invalid (R180). -/
def loadPantry (p : Vector (BitVec 128) 64) (rs : List Region) : Vector (BitVec 128) 64 :=
  each (fun i e => if i.val < 8 then e else ((rs.find? fun r => r.index == i.val).map (·.entry)).getD 0) p

/-- The roles of the region entries (R185). -/
def loadRoles (p : Vector (BitVec 8) 64) (rs : List Region) : Vector (BitVec 8) 64 :=
  each (fun i _ => ((rs.find? fun r => r.index == i.val).map fun r => BitVec.ofNat 8 r.role).getD 0) p

/-- An accepted image written onto the dies; the regions take effect and their pages pass (R166, R191). -/
def Device.install (d : Device) (c : Context) (img : List Byte) (dpa : Nat) : Device :=
  let ss := sectsOf img
  let rs := ((globalSect ss 6).map (regionsOf img)).getD []
  let d1 := d.modArc c fun cd x => x.loaded img ss (c.posOf cd)
  let d2 := d1.modMem fun m => m.takeEntries (rs.map (·.entry))
  d2.modCtx c.slot fun c => { c with
    plan := some (planOf img ss dpa)
    pantry := loadPantry c.pantry rs
    roles := loadRoles c.roles rs }

/-- The record of a refused load (R489). -/
def Device.loadErr (d : Device) (c : Context) (dpa : Nat) (e : PlanErr) : ErrRec :=
  d.err hdIsland e.cls e.code c.tag (some (wrap52 (dpa + e.off))) (e.off % 2 ^ 32 + e.sect % 65536 * 2 ^ 32)

/-- A load refused: LOAD_REFUSED with its record; the previous plan stays (R166). -/
def Device.refuseLoad (d : Device) (c : Context) (t : Taken) (dpa : Nat) (e : PlanErr) : Device :=
  d.answerErr (.ctx c.slot) t 0xE7 (d.loadErr c dpa e) []

/-- PLAN_LOAD at the head of its ring (R166). -/
def Device.planLoad (d : Device) (c : Context) (t : Taken) : Device :=
  let dpa := entDpa t.entry 8
  if c.run.isSome then d.refuseLoad c t dpa { cls := 6, code := 0xD, off := 0 }
  else match d.planImage c dpa (field t.entry 0x10 8) with
    | .error (e, l, done) => d.answerFault c t (d.hdErr c e l done false) []
    | .ok img =>
      match d.planCheck c img with
      | .error e => d.refuseLoad c t dpa e
      | .ok _ => (d.install c img dpa).finish (.ctx c.slot) t 0 0 (bytesLE 8 (field img 0x18 8))

/-- PLAN_LOAD. -/
def execPlanLoad (slot : CtxSlot) (s : State) : Host.Outcome State Fault Refusal :=
  .next { s with dev := s.dev.descriptor slot 1 { run := .acts } Device.planLoad }

end Sys2Proof.Machine
end

