-- ==== Sys2Proof/Machine/Runs.lean ====
section
/-! DEFINITION. Starting a run: PLAN_RUN and the start of a run on the Coxes (R264, R275, R285, R289, R368, R373). -/

namespace Sys2Proof.Machine

/-- The commit line rewritten whole (R263, R273). -/
def Device.putCommit (d : Device) (c : Context) (bs : List Byte) : Device :=
  d.writeAs (c.domOf c.commitLine.toNat) c.commitLine.toNat bs

/-- The flags byte of the commit line (R273). -/
def commitFlags (line : List Byte) : Nat := field line 1 1

/-- Roll-forward or rebuild is pending (R275). -/
def rebuildPending (line : List Byte) : Bool := decide (commitFlags line % 4 ≠ 0)

/-- The run that a PLAN_RUN entry describes (R372). -/
def planRunOf (e : List Byte) (seq : BitVec 32) (entry : BitVec 14) : Run where
  op := 2
  seq := seq
  tally := BitVec.ofNat 52 (entDpa e 0x10)
  stop := BitVec.ofNat 52 (entDpa e 0x18)
  args := BitVec.ofNat 52 (entDpa e 8)
  sramWin := bits (field e 0x24 1) 0 0 == 1
  attempt := BitVec.ofNat 32 (field e 0x20 4)
  entry := entry

/-- PLAN_RUN at the head of its ring: its checks, and the run waiting for its start (R275, R371, R373). -/
def Device.planRun (d : Device) (c : Context) (t : Taken) : Device :=
  match c.plan with
  | none => d.answer (.ctx c.slot) t 0xE9
  | some p =>
    let id := field t.entry 0x28 8
    if id ≠ 0 ∧ id ≠ p.planId.toNat then d.answer (.ctx c.slot) t 0xEA
    else d.withCommit c t fun d =>
      if rebuildPending (d.commitLine c) then d.answer (.ctx c.slot) t 0x24
      else d.modCtx c.slot fun c => { c with run := some (planRunOf t.entry t.seq p.entry) }

/-- PLAN_RUN. -/
def execPlanRun (slot : CtxSlot) (s : State) : Host.Outcome State Fault Refusal :=
  .next { s with dev := s.dev.descriptor slot 2 {} Device.planRun }

/-! ### The start (R264, R373) -/

/-- The arguments a0 to a7 of a block (R122). -/
def argsOf (bs : List Byte) : Vector (BitVec 64) 8 :=
  each (fun i _ => BitVec.ofNat 64 (field bs (8 * i.val) 8)) (Vector.replicate 8 0)

/-- A matrix array at the start of a run: the first chunk takes buffer 0, and no tap is armed (R73, R288). -/
def Ma.runStart (m : Ma) : Ma := { m with last := 1, tapLeft := 0, tapAcc := 0 }

/-- A link at the start of a run: the granted credits, no token (R154). -/
def Link.runStart (l : Link) : Link := { l with credits := l.grant, tokens := 0 }

/-- The Sieve and the Scales at the start of a run: nothing armed, no norm area bound; counters and taps stay, and so does a sample, whose
tile stays in its array (R285, R289, R292). -/
def Sieve.runStart (v : Sieve) : Sieve :=
  { v with area := none, group := none, arms := Vector.replicate 4 none, raised := false }

/-- The Course at the start of a run: nothing buffered, no counter; the gather counter and its marks are never cleared by a run (R222,
R438). -/
def Course.runStart (k : Course) : Course := { gather := k.gather, marks := k.marks }

/-- A die at the start of a run: the Cox at the entry stroke with its arguments, empty queues, cycle and wait counts at zero, k handed to
the Mixer (R28, R120, R122, R264). A new attempt at a step starts its CLOSE sequence again (R309). -/
def Die.runStart (x : Die) (entry : BitVec 14) (args : Vector (BitVec 64) 8) (k : BitVec 8) (fresh : Bool) : Die :=
  { x with
    cox := Cox.start entry args
    queues := Vector.replicate 12 []
    links := x.links.map Link.runStart
    mas := each (fun _ m => m.runStart) x.mas
    weightIn := {}
    course := x.course.runStart
    sieve := x.sieve.runStart
    mixerK := k
    touched := if fresh then [] else x.touched
    ladle := if fresh then { x.ladle with lastClose := none } else x.ladle
    waits := Vector.replicate 22 {}
    faultDue := none
    frozen := false }

/-- The attempt number that a run writes as a6: that of a PLAN_RUN, zero for a segment (R373). -/
def Run.a6 (u : Run) : BitVec 32 := if u.op = 2 then u.attempt else 0

/-- The commit line at the start of a PLAN_RUN: opened set, rollback available clear (R275). -/
def openLine (line : List Byte) : List Byte := splice line 1 (bytesLE 1 (commitFlags line % 256 / 16 * 16 + commitFlags line % 4 + 4))

/-- The message credits of a plan at the start of a run: each end counts from the depth of the receive stream (R349; log entries 29 and 59). -/
def Plan.runStart (p : Plan) : Plan :=
  { p with credits := creditsOf p.sends p.sendEntries, recvs := p.recvs.map fun r => { r with held := r.depth, owed := 0 } }

/-- The run begins on every position: the commit line of a PLAN_RUN, the dies, the START marker, and the head freed by a PLAN_RUN
(R264, R275, R368). In a signalled Easy-all episode its first stroke waits for the exit, and so does the START marker (R449). -/
def Device.runBegin (d : Device) (c : Context) (u : Run) (args : List Byte) : Device :=
  let line := d.commitLine c
  let k := BitVec.ofNat 8 (field line 8 1)
  let d1 := if u.op = 2 then d.putCommit c (openLine line) else d
  let fresh := decide (u.op = 2 ∧ u.attempt ≠ c.attempt)
  let d2 := d1.modArc c fun _ x => x.runStart u.entry (argsOf args) k fresh
  let d2 := d2.modCtx c.slot fun c => { c with
    run := some { u with begun := true }, cond := .running, attempt := (if u.op = 2 then u.attempt else c.attempt),
    held := d.pd.signalled, resumeDue := false, plan := if u.op = 2 then c.plan.map Plan.runStart else c.plan }
  let d3 := if d.pd.signalled then d2 else d2.sendStart c
  if u.op = 2 then (d3.setHead (.ctx c.slot) none).onRing (.ctx c.slot) fun _ x => ringStatus x else d3

/-- A run that cannot start: its descriptor completes with FAULT and the record of the access (R371). -/
def Device.runRefused (d : Device) (c : Context) (t : Taken) (r : ErrRec) : Device :=
  (d.modCtx c.slot fun c => { c with run := none }).answerFault { c with run := none } t r []

/-- The arguments block is written and read back, and the run starts (R373); while the link is down it waits (R359). -/
def Device.runStart (d : Device) (slot : CtxSlot) : Device :=
  match d.ctxAt slot with
  | none => d
  | some c =>
    match c.run, c.head with
    | some u, some t =>
      if u.begun || !c.resident || d.preempting c || d.underReset (.ctx slot) then d
      else if c.cond = .faulted then (d.modCtx slot fun c => { c with run := none }).answer (.ctx slot) t 0xE5
      else if d.linkWaits (.ctx slot) t then d
      else match d.dataBad c.commitLine.toNat 64 with
      | some (e, l) => d.runRefused c t (d.hdErr c e l 0 false)
      | none =>
        let line := d.commitLine c
        let tail := bytesLE 8 u.a6.toNat ++ bytesLE 8 (field line 4 4 + field line 8 1 * 2 ^ 32)
        match d.hdWrite c (wrap52 (u.args.toNat + 0x30)) tail with
        | (d1, some r) => d1.runRefused c t r
        | (d1, none) =>
          match d1.hdRead c u.args.toNat 64 with
          | .error r => d1.runRefused c t r
          | .ok args => d1.runBegin c u args
    | _, _ => d

/-- RUN_START. -/
def execRunStart (slot : CtxSlot) (s : State) : Host.Outcome State Fault Refusal := .next { s with dev := s.dev.runStart slot }

end Sys2Proof.Machine
end

