-- ==== Sys2Proof/Machine/Commit.lean ====
section
/-! DEFINITION. The end of a training step: STEP_COMMIT, STEP_ROLLBACK, their segments, the loss scale and the norm copy (R261 to R277,
R287). -/

namespace Sys2Proof.Machine

/-! ### The loss scale (R263) -/

/-- LOSS_SCALE_SET: bounds within 0 to 24 with kmin not above kmax, period within 100 to 65,535; taken up at the next commit. -/
def Device.lossScaleSet (d : Device) (c : Context) (t : Taken) : Device :=
  d.withCommit c t fun d =>
  let e := t.entry
  let line := d.commitLine c
  let mask := fun i => bits (field e 8 1) i i == 1
  let old := fun (o : Option (BitVec 8)) off => (o.map (·.toNat)).getD (field line off 1)
  let kmin := if mask 0 then field e 9 1 else old c.loss.kmin 9
  let kmax := if mask 1 then field e 0xA 1 else old c.loss.kmax 0xA
  let period := field e 0xC 2
  if (mask 0 = true ∧ 24 < kmin) ∨ (mask 1 = true ∧ 24 < kmax) ∨ kmax < kmin ∨ (mask 2 = true ∧ period < 100) then d.answer (.ctx c.slot) t 0xE4
  else
    (d.modCtx c.slot fun c => { c with loss := {
      kmin := if mask 0 then some (BitVec.ofNat 8 kmin) else c.loss.kmin
      kmax := if mask 1 then some (BitVec.ofNat 8 kmax) else c.loss.kmax
      period := if mask 2 then some (BitVec.ofNat 16 period) else c.loss.period
      pin := if mask 3 then some (bits (field e 0xB 1) 0 0 == 1) else c.loss.pin } }).answer (.ctx c.slot) t 0

/-- LOSS_SCALE_SET. -/
def execLossScaleSet (slot : CtxSlot) (s : State) : Host.Outcome State Fault Refusal :=
  .next { s with dev := s.dev.descriptor slot 5 { saved := true, run := .acts } Device.lossScaleSet }

/-- Exponent and clean count after a commit (R263): `met` when the step updated or skipped an adapter of the scaled set, `hot`
when the scaled-set count was non-zero. -/
def lossAfter (pin met hot : Bool) (k c kmin kmax period : Nat) : Nat × Nat :=
  if pin || !met then (k, c)
  else if hot then (max (k - 1) kmin, 0)
  else if c + 1 = period then (min (k + 1) kmax, 0)
  else (k, c + 1)

/-- The step before step `t`, modulo 2^32. -/
def stepBefore (t : Nat) : Nat := (t + (2 ^ 32 - 1)) % 2 ^ 32

/-! ### The commit log (R272) -/

/-- An entry of a commit log: position, address, handle, skipped and policy bits. -/
structure LogEntry where
  pos : Nat
  addr : Nat
  handle : Nat
  skipped : Bool
  scale : Bool
  deriving DecidableEq, Repr

/-- A log entry from its 16 bytes. -/
def logEntryOf (pos addr : Nat) (bs : List Byte) : LogEntry :=
  let w := field bs 0 4
  { pos := pos, addr := addr, handle := bits w 21 0, skipped := bits w 22 22 == 1, scale := bits w 23 23 == 1 }

/-- The entries of a position's log that belong to a step, or the record of the read that fails (R3, R192). -/
def Device.logOf (d : Device) (c : Context) (step pos : Nat) : Except ErrRec (List LogEntry) :=
  let base := wrap52 (lpddrOf (c.cdAt pos).val + field (d.commitLine c) 0x18 8 % 2 ^ 52)
  match d.hdLine c base 64 with
  | .error r => .error r
  | .ok h =>
    if field h 4 4 = step then
      (List.range (min (field h 0 4) 65536)).mapM fun i =>
        let a := wrap52 (base + 64 + 16 * i)
        (d.hdLine c a 16).map (logEntryOf pos a)
    else .ok []

/-- The entries of every position's log that belong to a step, in arc order. -/
def Device.logs (d : Device) (c : Context) (step : Nat) : Except ErrRec (List LogEntry) :=
  ((List.range c.m).mapM (d.logOf c step)).map List.flatten

/-- The masters header of an adapter, with its address (R265); none without a directory entry. Both reads may fail (R176, R192). -/
def Device.mastersLine (d : Device) (c : Context) (h : Nat) : Except ErrRec (Option (Nat × List Byte)) :=
  match (c.dirAddr h).bind fun a => d.dataBad a 64, d.dirRead c h with
  | some (e, l), _ => .error (d.hdErr c e l 0 false)
  | none, none => .ok none
  | none, some e => (d.hdLine c (dirMasters e) 64).map fun m => some (dirMasters e, m)

/-- The check of R273 step 3 that an entry fails against the masters header read for it, 0 for none; `skips` is what the scaled set does
in the step. -/
def Device.entryCheck (d : Device) (c : Context) (step : Nat) (skips : Bool) (x : LogEntry) (masters : Option (Nat × List Byte)) : Nat :=
  match d.dirRead c x.handle, masters with
  | some e, some (_, m) =>
    if bits (dirPolicy e) 1 1 = 0 then 1
    else if (bits (dirPolicy e) 0 0 == 1) != x.scale then 2
    else if !x.skipped && !(field m 0x10 4 == step && bits (field m 0x14 1) 0 0 == 1 && field m 0x18 4 == field m 2 2) then 3
    else if x.scale && x.skipped != skips then 4
    else 0
  | _, _ => 1

/-- The scaled set skips in a step: what its first entry says. -/
def scaledSkips (es : List LogEntry) : Bool := ((es.find? (·.scale)).map (·.skipped)).getD false

/-- The prior commit word of every entry written into its log (R273 step 3). -/
def Device.keepWords (d : Device) (c : Context) (es : List LogEntry) : Except (Device × ErrRec) Device :=
  d.hdEach es fun d x =>
    match d.dirRead c x.handle with
    | some e => d.hdSplice c (x.addr + 8) ((e.drop 8).take 8)
    | none => .ok d

/-- The commit word of a directory entry rewritten in one line write (R232). -/
def Device.putCommitWord (d : Device) (c : Context) (h : Nat) (w : List Byte) : Device :=
  match c.dirAddr h, d.dirRead c h with
  | some a, some e => d.writeAs (c.domOf a) a (splice e 8 w)
  | _, _ => d

/-! ### The commit line (R273 steps 4 and 5) -/

/-- The commit line of a committed step (R263, R273 step 4). -/
def commitLineAfter (line : List Byte) (p : LossPending) (es : List LogEntry) : List Byte :=
  let kmin := (p.kmin.map (·.toNat)).getD (field line 9 1)
  let kmax := (p.kmax.map (·.toNat)).getD (field line 0xA 1)
  let pin := p.pin.getD (bits (field line 0xB 1) 0 0 == 1)
  let period := (p.period.map (·.toNat)).getD (field line 0xC 2)
  let k := field line 8 1
  let c := field line 0xE 2
  let scaled := es.filter (·.scale)
  let (k', c') := lossAfter pin (!scaled.isEmpty) (scaledSkips es) k c kmin kmax period
  line.take 1 ++ bytesLE 1 0xB ++ zeros 2 ++ bytesLE 4 (field line 4 4 + 1) ++ bytesLE 1 k' ++ bytesLE 1 kmin ++ bytesLE 1 kmax
    ++ bytesLE 1 (if pin then 1 else 0) ++ bytesLE 2 period ++ bytesLE 2 c' ++ bytesLE 1 k ++ zeros 1 ++ bytesLE 2 c ++ zeros 4
    ++ (line.drop 0x18).take 8 ++ bytesLE 4 (es.filter fun x => !x.skipped).length ++ bytesLE 4 (es.filter (·.skipped)).length
    ++ zeros 24

/-- Flag bits of the commit line cleared by a line write of their own: those of `keep` stay. -/
def Device.keepFlags (d : Device) (c : Context) (keep : Nat → Nat) : Device :=
  let line := d.commitLine c
  d.putCommit c (splice line 1 (bytesLE 1 (keep (commitFlags line))))

/-- What every CD remembers of the attempt ends with a commit or a rollback: the adapters met and the CLOSE sequence (R309; log entry
23). -/
def Device.forgetAttempt (d : Device) (c : Context) : Device :=
  d.modArc c fun _ x => { x with touched := [], ladle := { x.ladle with lastClose := none } }

/-- The payload of STEP_COMMITTED (R376). -/
def committedPayload (line : List Byte) : List Byte := (line.drop 4).take 4 ++ (line.drop 0x20).take 8 ++ (line.drop 8).take 1

/-- Step 4 of R273: the line write that commits, and its event. -/
def Device.commitWrite (d : Device) (c : Context) (es : List LogEntry) : Device :=
  let line := commitLineAfter (d.commitLine c) c.loss es
  (((d.putCommit c line).modCtx c.slot fun c => { c with loss := {} }).forgetAttempt c).event (.ctx c.slot) 0x83 (committedPayload line)

/-- Step 5 of R273: every committed adapter's commit word names its pending bank and the new step. -/
def Device.rollForward (d : Device) (c : Context) : Except (Device × ErrRec) Device :=
  let line := d.commitLine c
  if commitFlags line % 2 = 0 then .ok d
  else
    let t := field line 4 4
    match d.logs c (stepBefore t) with
    | .error r => .error (d, r)
    | .ok es =>
      (d.hdEach (es.filter fun x => !x.skipped) fun d x =>
        (d.mastersLine c x.handle).map fun
          | some (_, m) => d.putCommitWord c x.handle (bytesLE 4 (bits (field m 0x14 1) 1 1) ++ bytesLE 4 t)
          | none => d).map fun d1 => d1.keepFlags c fun f => f / 2 * 2

/-! ### Segments (R273, R276) -/

/-- A stroke lies inside the CODE section of every position (R276). -/
def Device.inCode (d : Device) (c : Context) (stroke : Nat) : Bool := c.cds.all fun cd => decide (stroke < d.dies[cd].codeStrokes)

/-- The run of a segment (R372, R373). The counts of an update segment run on in the tally (R55, R273 step 6; log entry 51). -/
def segmentRun (t : Taken) (flags entry : Nat) (update : Bool) : Run where
  keepTally := update
  op := t.op
  seq := t.seq
  tally := BitVec.ofNat 52 (entDpa t.entry 0x28)
  stop := BitVec.ofNat 52 (entDpa t.entry 0x30)
  args := BitVec.ofNat 52 (entDpa t.entry 0x38)
  sramWin := bits flags 1 1 == 1
  attempt := 0
  entry := BitVec.ofNat 14 entry

/-- A segment waits for its start; the descriptor holds the head in a phase: the step of R273 that the segment is. -/
def Device.segment (d : Device) (c : Context) (t : Taken) (phase : Nat) (u : Run) : Device :=
  d.modCtx c.slot fun c => { c with run := some u, head := some { t with phase := phase } }

/-- Flags, U and B of a STEP_COMMIT entry. -/
def scFlags (t : Taken) : Nat := field t.entry 0xC 1
/-- The update entry stroke. -/
def scU (t : Taken) : Nat := field t.entry 0x10 2
/-- The rebuild entry stroke, of both descriptors. -/
def scB (t : Taken) : Nat := field t.entry 0x12 2

/-- Phase of the rebuild segment of a committed step and of one already committed. -/
def phaseRebuild : Nat := 6
/-- The rebuild segment on the RECOMMITTED path. -/
def phaseRecommit : Nat := 7
/-- The update segment. -/
def phaseUpdate : Nat := 2

/-- The tallies of the arc cleared: a segment of a STEP_COMMIT has ended, and no step commit follows it (R55). -/
def Device.clearTallies (d : Device) (c : Context) : Device := d.modArc c fun _ x => { x with tally := {} }

/-- Steps 5 and 6 of R273 up to the rebuild segment. -/
def Device.commitRebuild (d : Device) (c : Context) (t : Taken) (phase : Nat) : Device :=
  match d.rollForward c with
  | .error (d1, r) => (d1.clearTallies c).answerFault c t r []
  | .ok d1 => d1.segment c t phase (segmentRun t (scFlags t) (scB t) false)

/-- The first of some entries that fails step 3, with its check. -/
def Device.firstFailing (d : Device) (c : Context) (step : Nat) (skips : Bool) : List LogEntry → Except ErrRec (Option (LogEntry × Nat))
  | [] => .ok none
  | x :: t =>
    match d.mastersLine c x.handle with
    | .error r => .error r
    | .ok m =>
      let k := d.entryCheck c step skips x m
      if k ≠ 0 then .ok (some (x, k)) else d.firstFailing c step skips t

/-- Steps 3 to 6 of R273. A refusal ends the update segment without a step commit (R55). -/
def Device.commitVerify (d : Device) (c : Context) (t : Taken) : Device :=
  let step := field (d.commitLine c) 4 4
  match d.logs c step with
  | .error r => (d.clearTallies c).answerFault c t r []
  | .ok es =>
    match d.firstFailing c step (scaledSkips es) es with
    | .error r => (d.clearTallies c).answerFault c t r []
    | .ok (some (x, k)) => (d.clearTallies c).finish (.ctx c.slot) t 0x21 0 (bytesLE 4 x.handle ++ bytesLE 1 k ++ bytesLE 1 x.pos)
    | .ok none =>
      match d.keepWords c es with
      | .error (d1, r) => (d1.clearTallies c).answerFault c t r []
      | .ok d1 => (d1.commitWrite c es).commitRebuild c t phaseRebuild

/-- STEP_COMMIT at the head of its ring (R273 step 1, R276). -/
def Device.stepCommit (d : Device) (c : Context) (t : Taken) : Device :=
  d.withCommit c t fun d =>
    let id := RingId.ctx c.slot
    let named := bits (scFlags t) 0 0 == 1
    let td := field t.entry 8 4
    let step := field (d.commitLine c) 4 4
    match c.plan with
    | none => d.answer id t 0xE9
    | some _ =>
      if (named && !d.inCode c (scU t)) || !d.inCode c (scB t) then d.answer id t 0x25
      else if (td + 1) % 2 ^ 32 = step then d.commitRebuild c t phaseRecommit
      else if td ≠ step then d.answer id t 0x20
      else if named then d.segment c t phaseUpdate (segmentRun t (scFlags t) (scU t) true)
      else d.commitVerify c t

/-- STEP_COMMIT. -/
def execStepCommit (slot : CtxSlot) (s : State) : Host.Outcome State Fault Refusal :=
  .next { s with dev := s.dev.descriptor slot 3 {} Device.stepCommit }

/-! ### Rollback (R277) -/

/-- Step 1 of R277: the pending banks of the last commit are dropped and the prior commit words come back. -/
def Device.undoLog (d : Device) (c : Context) : Except (Device × ErrRec) Device :=
  match d.logs c (stepBefore (field (d.commitLine c) 4 4)) with
  | .error r => .error (d, r)
  | .ok es =>
    d.hdEach (es.filter fun x => !x.skipped) fun d x =>
      match d.mastersLine c x.handle with
      | .error r => .error r
      | .ok m =>
        match (match m with
          | some (a, m) => d.hdSplice c (a + 0x14) (bytesLE 1 (field m 0x14 1 / 2 * 2))
          | none => .ok d) with
        | .error r => .error r
        | .ok d1 => (d1.hdLine c (x.addr + 8) 8).map (d1.putCommitWord c x.handle)

/-- The commit line of R277 step 2. -/
def rollbackLine (line : List Byte) : List Byte :=
  let f := commitFlags line
  let l1 := splice line 1 (bytesLE 1 (f % 256 / 16 * 16 + f % 2 + 2 + f % 8 / 4 * 4))
  let l2 := splice l1 4 (bytesLE 4 (stepBefore (field line 4 4)))
  let l3 := splice l2 8 ((line.drop 0x10).take 1)
  splice l3 0xE ((line.drop 0x12).take 2)

/-- STEP_ROLLBACK at the head of its ring (R276, R277). -/
def Device.stepRollback (d : Device) (c : Context) (t : Taken) : Device :=
  d.withCommit c t fun d =>
    let id := RingId.ctx c.slot
    match c.plan with
    | none => d.answer id t 0xE9
    | some _ =>
      if !d.inCode c (scB t) then d.answer id t 0x25
      else if bits (commitFlags (d.commitLine c)) 3 3 = 0 then d.answer id t 0x23
      else
        match d.undoLog c with
        | .error (d1, r) => d1.answerFault c t r []
        | .ok d1 =>
          ((d1.putCommit c (rollbackLine (d1.commitLine c))).forgetAttempt c).segment c t phaseRebuild
            (segmentRun t (field t.entry 8 1) (scB t) false)

/-- STEP_ROLLBACK. -/
def execStepRollback (slot : CtxSlot) (s : State) : Host.Outcome State Fault Refusal :=
  .next { s with dev := s.dev.descriptor slot 4 {} Device.stepRollback }

/-! ### The norm copy (R287) -/

/-- An exact sum from a norm value: mantissa and 16-bit exponent (R284). -/
def sumOf (m x : Nat) : ExactSum :=
  let e := signed 16 x
  if 0 ≤ e then { num := m <<< e.toNat, den := 0 } else { num := m, den := (-e).toNat }

/-- The norm copy in hand: entries copied, flags, and the three sums. -/
structure NormCopy where
  n : Nat := 0
  noArea : Bool := false
  dropped : Bool := false
  small : Bool := false
  faulted : Bool := false
  w : ExactSum := {}
  g : ExactSum := {}
  u : ExactSum := {}
  deriving DecidableEq, Repr

/-- One norm entry copied to the report buffer. -/
def Device.normEntry (d : Device) (c : Context) (pos src : Nat) (t : Taken) (x : NormCopy) : Device × NormCopy :=
  if x.faulted then (d, x)
  else if field t.entry 0x20 4 ≤ x.n then (d, { x with small := true })
  else match d.readBytes c (c.cdAt pos) .record src 48 with
    | .error (e, l) => (d.fault c (d.hdErr c e l 0 false), { x with faulted := true })
    | .ok e =>
      match d.hdWrite c (wrap52 (entDpa t.entry 0x18 + 48 * x.n)) e with
      | (d1, some r) => (d1.fault c r, { x with faulted := true })
      | (d1, none) =>
        let s := fun k => sumOf (field e (8 + 8 * k) 8) (field e (0x20 + 2 * k) 2)
        (d1, { x with n := x.n + 1, w := x.w.plus (s 0), g := x.g.plus (s 1), u := x.u.plus (s 2) })

/-- The norm area of one position copied, when it is of the committed step. -/
def Device.normArea (d : Device) (c : Context) (step : Nat) (t : Taken) (pos : Nat) (x : NormCopy) : Device × NormCopy :=
  let a := wrap52 (sramOf (c.cdAt pos).val + field t.entry 0x24 4)
  if x.faulted then (d, x)
  else match d.readBytes c (c.cdAt pos) .record a 64 with
    | .error (e, l) => (d.fault c (d.hdErr c e l 0 false), { x with faulted := true })
    | .ok h =>
      if gvOk (field h 0 1) 1 ∧ field h 8 4 = step then
        let y := { x with dropped := x.dropped || decide (field h 0x14 4 ≠ 0) }
        (List.range (field h 4 4)).foldl (fun (p : Device × NormCopy) i => p.1.normEntry c pos (wrap52 (a + 64 + 48 * i)) t p.2) (d, y)
      else (d, { x with noArea := true })

/-- The norm areas of every position copied in arc order. -/
def Device.normCopy (d : Device) (c : Context) (step : Nat) (t : Taken) : Device × NormCopy :=
  (List.range c.m).foldl (fun (p : Device × NormCopy) pos => p.1.normArea c step t pos p.2) (d, {})

/-- The norm fields of the completion. -/
def NormCopy.encode (x : NormCopy) : List Byte :=
  bytesLE 1 ((if x.noArea then 1 else 0) + (if x.dropped then 2 else 0) + (if x.small then 4 else 0) + (if x.faulted then 8 else 0))
    ++ x.w.mant ++ x.w.expo ++ x.g.mant ++ x.g.expo ++ x.u.mant ++ x.u.expo

/-- The result of a committed step (R373). -/
def commitResult (line : List Byte) (x : NormCopy) : List Byte :=
  (line.drop 4).take 4 ++ (line.drop 0x20).take 8 ++ bytesLE 4 x.n ++ (line.drop 8).take 1 ++ x.encode

/-! ### The end of a segment (R273, R277) -/

/-- The rebuild segment has halted: rebuild pending clears, and the descriptor completes. -/
def Device.rebuilt (d : Device) (c : Context) (t : Taken) : Device :=
  let d1 := d.keepFlags c fun f => f % 256 / 4 * 4 + f % 2
  let line := d1.commitLine c
  let step := field line 4 4
  if t.op = 4 then d1.finish (.ctx c.slot) t 2 0 (bytesLE 4 step)
  else
    let (d2, x) := d1.normCopy c (stepBefore step) t
    d2.finish (.ctx c.slot) t (if t.phase = phaseRecommit then 1 else 0) 0 (commitResult line x)

/-- The segment ended otherwise than by HALT: the result of a STEP_ROLLBACK names the new step, that of a STEP_COMMIT is the run's (R373). -/
def Device.segmentFault (d : Device) (c : Context) (t : Taken) (u : Run) : Device :=
  let run := runResult u ((c.plan.map (·.planId)).getD 0)
  d.finish (.ctx c.slot) t 0x22 (if u.firstErr.isSome then 1 else 0)
    (if t.op = 4 then (d.commitLine c |>.drop 4).take 4 ++ zeros 12 ++ run.drop 16 else run)

/-- A segment of a STEP_COMMIT or STEP_ROLLBACK has stopped on every position: the descriptor goes on or ends. -/
def Device.segmentHalt (d : Device) (slot : CtxSlot) : Device :=
  match d.ctxAt slot with
  | none => d
  | some c =>
    match c.run, c.head with
    | some u, some t =>
      if u.op = 2 ∨ !u.begun ∨ u.reason = 0 ∨ !d.arcIdle c ∨ !c.resident ∨ d.underReset (.ctx slot) then d
      else
        let d1 := d.modCtx slot fun c => { c with run := none }
        if u.reason ≠ 5 then (d1.clearTallies c).segmentFault c t u
        else match d1.dataBad c.commitLine.toNat 64 with
        | some (e, l) => (d1.clearTallies c).answerFault c t (d1.hdErr c e l 0 false) []
        | none => if t.phase = phaseUpdate then d1.commitVerify c t else d1.rebuilt c t
    | _, _ => d

/-- SEGMENT_HALT. -/
def execSegmentHalt (slot : CtxSlot) (s : State) : Host.Outcome State Fault Refusal := .next { s with dev := s.dev.segmentHalt slot }

end Sys2Proof.Machine
end

