-- ==== Sys2Proof/Machine/Adapters.lean ====
section
/-! DEFINITION. The adapter descriptors: registering, fetching, evicting, policies and slots (R229 to R241, R262). -/

namespace Sys2Proof.Machine

/-! ### The directory entry of a descriptor (R231, R234) -/

/-- The result of an adapter descriptor (R373). -/
def adapterResult (h tag : Nat) : List Byte := bytesLE 4 h ++ zeros 4 ++ bytesLE 8 tag

/-- An adapter descriptor completes with a code and the tag of its entry. -/
def Device.adapterAnswer (d : Device) (c : Context) (t : Taken) (code h tag : Nat) : Device :=
  d.finish (.ctx c.slot) t code 0 (adapterResult h tag)

/-- The directory entry of a handle below 2²² (R231). -/
def Device.entryOf (d : Device) (c : Context) (h : Nat) : Option (Nat × List Byte) :=
  if 2 ^ 22 ≤ h then none
  else match c.dirAddr h, d.dirRead c h with
    | some a, some e => some (a, e)
    | _, _ => none

/-- The opaque tag of an entry. -/
def dirTag (e : List Byte) : Nat := field e 0x30 8
/-- The commit word of an entry. -/
def dirCommit (e : List Byte) : Nat := field e 8 8
/-- DPA of the registered body. -/
def dirSrc (e : List Byte) : Nat := field e 0x10 8 % 2 ^ 52
/-- Body size. -/
def dirBytes (e : List Byte) : Nat := field e 0x20 8

/-- A directory entry written in one line write. -/
def Device.putEntry (d : Device) (c : Context) (a : Nat) (e : List Byte) : Device := d.writeAs (c.domOf a) a e

/-- A descriptor reads some ranges for its context, in order: an error of the data of one is a fault of the descriptor's own access (R172,
R176, R192). -/
def Device.withReads (d : Device) (c : Context) (t : Taken) (rs : List (Nat × Nat)) (res : List Byte) (f : Device → Device) : Device :=
  let d1 := d.eccReads rs
  match d.readsBad rs with
  | some (e, l) => d1.answerFault c t (d1.hdErr c e l 0 false) res
  | none => f d1

/-- The descriptor's handle looked up: HANDLE_RANGE without an entry, FAULT when its line cannot be read, else `f`. -/
def Device.withEntry (d : Device) (c : Context) (t : Taken) (f : Device → Nat → Nat → List Byte → Device) : Device :=
  let h := field t.entry 8 4
  match d.entryOf c h with
  | none => d.adapterAnswer c t 0x14 h 0
  | some (a, e) => d.withReads c t [(a, 64)] (adapterResult h 0) fun d => f d h a e

/-- Adapters of the scaled set by policy bits: trained, and policy SCALE (R261). -/
def scaledPolicy (p : Nat) : Bool := p % 4 == 3

/-- A change of policy asks the commit line only where it changes what the next step trains. -/
def policyReads (c : Context) (old new : Nat) : List (Nat × Nat) := if old % 4 ≠ new % 4 then [(c.commitLine.toNat, 64)] else []

/-- A change of policy from one entry to another: the codes of R262, 0 when it is allowed. -/
def Device.policyCode (d : Device) (c : Context) (old new : Nat) : Nat :=
  if old % 4 ≠ new % 4 ∧ bits (commitFlags (d.commitLine c)) 2 2 = 1 then 0x1B
  else if scaledPolicy new && !scaledPolicy old && decide (256 ≤ c.scaled) then 0x1C
  else 0

/-- The count of the scaled set after a policy change. -/
def Device.countScaled (d : Device) (c : Context) (old new : Nat) : Device :=
  d.modCtx c.slot fun c => { c with scaled := c.scaled + (if scaledPolicy new then 1 else 0) - (if scaledPolicy old then 1 else 0) }

/-! ### Register, unregister, policy, evict (R234, R262) -/

/-- ADAPTER_REGISTER at the head of its ring. -/
def Device.adapterRegister (d : Device) (c : Context) (t : Taken) : Device :=
  d.withEntry c t fun d h a e =>
    let pol := field t.entry 0xC 1 % 8
    let tag := field t.entry 0x28 8
    if dirState e ≠ 0 then d.adapterAnswer c t 0x15 h (dirTag e)
    else d.withReads c t (policyReads c (dirPolicy e) pol) (adapterResult h (dirTag e)) fun d =>
      let code := d.policyCode c (dirPolicy e) pol
      if code ≠ 0 then d.adapterAnswer c t code h (dirTag e)
      else
        let e' := dirEntry 1 pol 0 0 (dirCommit e) (entDpa t.entry 0x10) 0 (field t.entry 0x18 8) (entDpa t.entry 0x20) tag
        ((d.putEntry c a e').countScaled c (dirPolicy e) pol).adapterAnswer c t 0 h tag

/-- ADAPTER_REGISTER. -/
def execAdapterRegister (slot : CtxSlot) (s : State) : Host.Outcome State Fault Refusal :=
  .next { s with dev := s.dev.descriptor slot 0x10 {} Device.adapterRegister }

/-- ADAPTER_UNREGISTER at the head of its ring; it lowers the resident count (R237; log entry 38). -/
def Device.adapterUnregister (d : Device) (c : Context) (t : Taken) : Device :=
  d.withEntry c t fun d h a e =>
    if dirSlots e ≠ 0 then d.adapterAnswer c t 0x17 h (dirTag e)
    else if dirState e ≠ 1 then d.adapterAnswer c t 0x15 h (dirTag e)
    else d.withReads c t (policyReads c (dirPolicy e) 0) (adapterResult h (dirTag e)) fun d =>
      let code := d.policyCode c (dirPolicy e) 0
      if code ≠ 0 then d.adapterAnswer c t code h (dirTag e)
      else
        let d1 := ((d.putEntry c a (zeros 64)).countScaled c (dirPolicy e) 0).modCtx c.slot fun c => { c with residents := c.residents - 1 }
        d1.adapterAnswer c t 0 h (dirTag e)

/-- ADAPTER_UNREGISTER. -/
def execAdapterUnregister (slot : CtxSlot) (s : State) : Host.Outcome State Fault Refusal :=
  .next { s with dev := s.dev.descriptor slot 0x13 {} Device.adapterUnregister }

/-- ADAPTER_POLICY at the head of its ring. -/
def Device.adapterPolicy (d : Device) (c : Context) (t : Taken) : Device :=
  d.withEntry c t fun d h a e =>
    let pol := field t.entry 0xC 1 % 8
    if dirState e = 0 ∨ dirState e = 3 then d.adapterAnswer c t 0x15 h (dirTag e)
    else d.withReads c t (policyReads c (dirPolicy e) pol) (adapterResult h (dirTag e)) fun d =>
      let code := d.policyCode c (dirPolicy e) pol
      if code ≠ 0 then d.adapterAnswer c t code h (dirTag e)
      else ((d.putEntry c a (splice e 2 (bytesLE 1 pol))).countScaled c (dirPolicy e) pol).adapterAnswer c t 0 h (dirTag e)

/-- ADAPTER_POLICY. -/
def execAdapterPolicy (slot : CtxSlot) (s : State) : Host.Outcome State Fault Refusal :=
  .next { s with dev := s.dev.descriptor slot 0x14 {} Device.adapterPolicy }

/-- An entry moved between registered and resident: state, home and cache (R234). -/
def dirMoved (e : List Byte) (state home cache : Nat) : List Byte :=
  splice (splice (splice e 1 (bytesLE 1 state)) 3 (bytesLE 1 home)) 0x18 (bytesLE 8 cache)

/-- ADAPTER_EVICT at the head of its ring. -/
def Device.adapterEvict (d : Device) (c : Context) (t : Taken) : Device :=
  d.withEntry c t fun d h a e =>
    if dirSlots e ≠ 0 then d.adapterAnswer c t 0x17 h (dirTag e)
    else if dirState e ≠ 2 then d.adapterAnswer c t 0x15 h (dirTag e)
    else
      let d1 := (d.putEntry c a (dirMoved e 1 0 0)).modCtx c.slot fun c => { c with residents := c.residents - 1 }
      d1.adapterAnswer c t 0 h (dirTag e)

/-- ADAPTER_EVICT. -/
def execAdapterEvict (slot : CtxSlot) (s : State) : Host.Outcome State Fault Refusal :=
  .next { s with dev := s.dev.descriptor slot 0x12 {} Device.adapterEvict }

/-! ### The body (R229, R230, R240) -/

/-- Items of a body by number, read from its place in memory. -/
def Device.bodyItems (d : Device) (c : Context) (a : Nat) : List BodyItem :=
  let rd := fun a n => d.readAs (c.domOf a) a n
  (List.range (field (rd a 64) 2 2)).map fun i => bodyItemOf (rd (wrap52 (a + 64 + 32 * i)) 32)

/-- The reads of a body's header and of its item table (R229). -/
def Device.tableReads (d : Device) (c : Context) (a : Nat) : List (Nat × Nat) :=
  [(a, 64), (wrap52 (a + 64), 32 * field (d.readAs (c.domOf a) a 64) 2 2)]

/-- A matrix dimension of an item. -/
def dimOk (n : Nat) : Bool := n % 128 == 0 && decide (128 ≤ n) && decide (n ≤ 131072)

/-- A block range of an item: from line `off`, `n` bytes, past the item table and inside the body. -/
def blockOk (items bytes off n : Nat) : Bool := decide (64 + ceilDiv (32 * items) 64 * 64 ≤ 64 * off) && decide (64 * off + n ≤ bytes)

/-- An item that R229 and R230 allow. -/
def itemOk (items bytes : Nat) (i : BodyItem) : Bool :=
  decide (i.layer ≤ 255) && decide (i.target ≤ 7) && (i.expert == 0xFFFF || decide (i.expert ≤ 511)) && dimOk i.din && dimOk i.dout
    && (if i.rank = 0 then i.bOff == 0 && blockOk items bytes i.aOff (2 * i.din * i.dout)
        else i.rank % 8 == 0 && decide (i.rank ≤ 256) && blockOk items bytes i.aOff (2 * i.rank * i.din)
          && blockOk items bytes i.bOff (2 * i.rank * i.dout))

/-- The item names an extra expert (R240). -/
def BodyItem.extra (i : BodyItem) : Bool := decide (256 ≤ i.expert) && decide (i.expert ≤ 511)

/-- At most 4 extra experts at each layer (R240). -/
def expertsOk (is : List BodyItem) : Bool :=
  is.all fun i => decide (((is.filter fun j => j.layer == i.layer && j.extra).map (·.expert)).eraseDups.length ≤ 4)

/-- The copied body meets R229, R230 and R240. -/
def Device.bodyOk (d : Device) (c : Context) (a bytes : Nat) : Bool :=
  let h := d.readAs (c.domOf a) a 64
  let n := field h 2 2
  decide (64 ≤ bytes) && decide (bytes ≤ 2 ^ 40) && gvOk (field h 0 1) 1 && decide (1 ≤ n) && decide (n ≤ 16384)
    && field h 8 8 == bytes && bytes % 64 == 0 && decide (64 + 32 * n ≤ bytes)
    && (let is := d.bodyItems c a
        (is.all fun i => itemOk n bytes i) && expertsOk is)

/-! ### Fetch (R236) -/

/-- One line of a body copied: read from companion memory, a window line for the domain of the destination, and written into the
cache (R187, R236, R410). -/
def Device.fetchLine (d : Device) (c : Context) (cd : Cd) (src dst : Nat) : Except (Nat × Nat × Bool) Device :=
  match (d.place src).target with
  | some (2, _) =>
    let pkg := c.packageDest dst
    let d1 := if pkg.isSome then d.servePackage src else d
    match d1.readLine c cd .record pkg src with
    | .error e => .error (e, src, false)
    | .ok bs =>
      match d1.writeLine c cd .arrival dst bs with
      | .error e => .error (e, dst, true)
      | .ok d2 => .ok d2
  | none => .error (eUnmapped, src, false)
  | _ => .error (eTarget, src, false)

/-- `n` lines of a body copied in order; a fault gives its code, line, direction and the bytes copied. -/
def Device.fetchLines (d : Device) (c : Context) (cd : Cd) : Nat → Nat → Nat → Nat → Device × Option (Nat × Nat × Bool × Nat)
  | 0, _, _, _ => (d, none)
  | n + 1, src, dst, done =>
    match d.fetchLine c cd (wrap52 src) (wrap52 dst) with
    | .error (e, l, w) => (d, some (e, l, w, done))
    | .ok d1 => Device.fetchLines d1 c cd n (src + 64) (dst + 64) (done + 64)

/-- ADAPTER_FETCH at the head of its ring. -/
def Device.adapterFetch (d : Device) (c : Context) (t : Taken) : Device :=
  d.withEntry c t fun d h a e =>
    let pos := field t.entry 0xC 1
    let cache := entDpa t.entry 0x10
    let n := dirBytes e
    if dirState e = 2 then d.adapterAnswer c t 1 h (dirTag e)
    else if dirState e ≠ 1 then d.adapterAnswer c t 0x15 h (dirTag e)
    else if c.m ≤ pos ∨ cache % 64 ≠ 0 ∨ !c.roleCovers 3 pos cache n then d.adapterAnswer c t 0x19 h (dirTag e)
    else if c.quota ≤ c.residents then d.adapterAnswer c t 0x13 h (dirTag e)
    else
      match d.fetchLines c (c.cdAt pos) (ceilDiv n 64) (lineOf (dirSrc e)) cache 0 with
      | (d1, some (code, l, w, done)) => d1.answerFault c t (d1.hdErr c code l done w) (adapterResult h (dirTag e))
      | (d1, none) => d1.withReads c t (d1.tableReads c cache) (adapterResult h (dirTag e)) fun d1 =>
        if !d1.bodyOk c cache n then d1.adapterAnswer c t 0x16 h (dirTag e)
        else
          let d2 := (d1.putEntry c a (dirMoved e 2 pos cache)).modCtx c.slot fun c => { c with residents := c.residents + 1 }
          d2.adapterAnswer c t 0 h (dirTag e)

/-- ADAPTER_FETCH. -/
def execAdapterFetch (slot : CtxSlot) (s : State) : Host.Outcome State Fault Refusal :=
  .next { s with dev := s.dev.descriptor slot 0x11 {} Device.adapterFetch }

/-! ### Slots (R238 to R241) -/

/-- Address of offset `x` of the slot area of an arc position. -/
def Context.areaAt (c : Context) (o pos x : Nat) : Nat := wrap52 (sramOf (c.cdAt pos).val + o + x)

/-- The slot entry of a position and slot. -/
def Device.slotEntry (d : Device) (c : Context) (o pos slot : Nat) : List Byte :=
  let a := c.areaAt o pos (32 * slot)
  d.readAs (c.domOf a) a 32

/-- The slot entry is valid. -/
def slotValid (e : List Byte) : Bool := bits (field e 0 4) 31 31 == 1

/-- Offset of an expert-map entry and of a home-list entry in the slot area. -/
def expertOff (layer expert : Nat) : Nat := 0x8000 + 2 * (256 * layer + (expert - 256))
/-- Offset of a home-list entry. -/
def homeOff (pos slot : Nat) : Nat := 0x28000 + 8 * (1024 * pos + slot)

/-- A list in progress: the device, the status bytes so far, the change of bound slots, and a fault that ends the descriptor. -/
structure ClaimRun where
  d : Device
  status : List Byte := []
  bad : Option ErrRec := none

/-- Bytes of the slot area written under the Pantry's write right; a refused line is the fault of the descriptor (R238). -/
def ClaimRun.put (r : ClaimRun) (c : Context) (o pos x : Nat) (bs : List Byte) : ClaimRun :=
  if r.bad.isSome then r
  else
    let a := c.areaAt o pos x
    match r.d.putBytes c (c.cdAt pos) .record a bs with
    | (d1, none) => { r with d := d1 }
    | (d1, some (e, l, done)) => { r with d := d1, bad := some (d1.hdErr c e l done true) }

/-- Ranges that a list reads; an error of the data of one is the fault of the descriptor (R172, R176, R192). -/
def ClaimRun.look (r : ClaimRun) (c : Context) (rs : List (Nat × Nat)) : ClaimRun :=
  if r.bad.isSome then r
  else
    let d1 := r.d.eccReads rs
    { r with d := d1, bad := (r.d.readsBad rs).map fun (b : Nat × Nat) => d1.hdErr c b.1 b.2 0 false }

/-- The status byte of the claim in hand, unless a fault ended it. -/
def ClaimRun.tell (r : ClaimRun) (code : Nat) : ClaimRun := if r.bad.isSome then r else { r with status := r.status ++ bytesLE 1 code }

/-- Slots of a directory entry and the bound slots of the context changed by one claim or release. -/
def ClaimRun.count (r : ClaimRun) (c : Context) (a : Nat) (e : List Byte) (up : Bool) : ClaimRun :=
  if r.bad.isSome then r
  else
    let n := if up then dirSlots e + 1 else dirSlots e - 1
    { r with d := (r.d.putEntry c a (splice e 4 (bytesLE 2 n))).modCtx c.slot fun c =>
        { c with slotsBound := if up then c.slotsBound + 1 else c.slotsBound - 1 } }

/-- The reads of the expert-map entries of a body at a position. -/
def expertReads (c : Context) (o pos : Nat) (is : List BodyItem) : List (Nat × Nat) :=
  (is.filter (·.extra)).map fun i => (c.areaAt o pos (expertOff i.layer i.expert), 2)

/-- The extra experts of a body that some slot owns at a position. -/
def Device.expertBusy (d : Device) (c : Context) (o pos : Nat) (is : List BodyItem) : Bool :=
  is.any fun i => i.extra && (let a := c.areaAt o pos (expertOff i.layer i.expert)
    decide (field (d.readAs (c.domOf a) a 2) 0 2 ≠ 0))

/-- The expert-map entries of a body at a position set to a value. -/
def ClaimRun.experts (r : ClaimRun) (c : Context) (o pos : Nat) (is : List BodyItem) (v : Nat) : ClaimRun :=
  (is.filter (·.extra)).foldl (fun r i => r.put c o pos (expertOff i.layer i.expert) (bytesLE 2 v)) r

/-- A claim that a refused write has ended leaves nothing but its fault (R239). -/
def ClaimRun.orNone (before after : ClaimRun) : ClaimRun := if after.bad.isSome then { before with bad := after.bad } else after

/-- The writes of a claim that holds: the slot entry, the expert-map entries, the home-list entry and the directory entry (R239). -/
def ClaimRun.bind (r : ClaimRun) (c : Context) (o h pos slot a : Nat) (e : List Byte) (is : List BodyItem) : ClaimRun :=
  let entry := bytesLE 4 (h + 2 ^ 31) ++ bytesLE 1 (dirHome e) ++ zeros 3 ++ bytesLE 8 (dirCache e) ++ bytesLE 8 (dirCommit e) ++ zeros 8
  let r1 := (r.put c o pos (32 * slot) entry).experts c o pos is (slot + 1)
  let r2 := r1.put c o (dirHome e) (homeOff pos slot) (bytesLE 8 (dirCache e + 2 ^ 63))
  r.orNone ((r2.count c a e true).tell 0)

/-- One claim of a SLOT_BIND (R239). Each check reads what it needs; a read in error ends the list (R172, R176, R192). -/
def ClaimRun.claim (r : ClaimRun) (c : Context) (o w : Nat) : ClaimRun :=
  if r.bad.isSome then r
  else
    let h := bits w 21 0
    let pos := bits w 27 24
    let slot := bits w 41 32
    match r.d.entryOf c h with
    | none => r.tell 0x14
    | some (a, e) =>
      let r0 := r.look c [(a, 64)]
      if dirState e = 1 then r0.tell 0x12
      else if dirState e ≠ 2 then r0.tell 0x15
      else if c.m ≤ pos then r0.tell 0x18
      else
        let old := r.d.slotEntry c o pos slot
        let r1 := r0.look c [(c.areaAt o pos (32 * slot), 32)]
        if slotValid old ∧ bits (field old 0 4) 21 0 = h then r1.tell 1
        else if slotValid old then r1.tell 0x10
        else
          let is := r.d.bodyItems c (dirCache e)
          let r2 := (r1.look c (r.d.tableReads c (dirCache e))).look c (expertReads c o pos is)
          if r2.bad.isSome then r2
          else if r.d.expertBusy c o pos is then r2.tell 0x11
          else r2.bind c o h pos slot a e is

/-- The writes of a release: the slot entry, the expert-map entries, the home-list entry and the directory entry (R241). -/
def ClaimRun.free (r : ClaimRun) (c : Context) (o pos slot : Nat) (old : List Byte) (is : List BodyItem) : ClaimRun :=
  let r1 := (r.put c o pos (32 * slot) (zeros 32)).experts c o pos is 0
  let r2 := r1.put c o (bits (field old 4 1) 3 0) (homeOff pos slot) (zeros 8)
  match r2.d.entryOf c (bits (field old 0 4) 21 0) with
  | some (a, e) => r.orNone (((r2.look c [(a, 64)]).count c a e false).tell 0)
  | none => r.orNone (({ r2 with d := r2.d.modCtx c.slot fun c => { c with slotsBound := c.slotsBound - 1 } } : ClaimRun).tell 0)

/-- One pair of a SLOT_RELEASE (R241). -/
def ClaimRun.release (r : ClaimRun) (c : Context) (o w : Nat) : ClaimRun :=
  if r.bad.isSome then r
  else
    let pos := bits w 7 0
    let slot := bits w 31 16
    if c.m ≤ pos ∨ 1023 < slot then r.tell 0x18
    else
      let old := r.d.slotEntry c o pos slot
      let r0 := r.look c [(c.areaAt o pos (32 * slot), 32)]
      if !slotValid old then r0.tell 0x18
      else
        let a := field old 8 8 % 2 ^ 52
        let r1 := r0.look c (r.d.tableReads c a)
        if r1.bad.isSome then r1 else r1.free c o pos slot old (r.d.bodyItems c a)

/-- A slot list has been processed: the status list is written, and the descriptor completes (R239, R373). -/
def ClaimRun.close (r : ClaimRun) (c : Context) (t : Taken) (list : Nat) : Device :=
  let ok := (r.status.filter fun b => decide (b.toNat ≤ 1)).length
  let res := bytesLE 2 ok ++ bytesLE 2 (r.status.length - ok)
  match r.d.hdWrite c list r.status with
  | (d1, some e) => d1.answerFault c t (r.bad.getD e) res
  | (d1, none) =>
    match r.bad with
    | some e => d1.answerFault c t e res
    | none => d1.finish (.ctx c.slot) t (if ok = r.status.length then 0 else 2) 0 res

/-- The words of a list of `k` bytes each. -/
def wordsOf (bs : List Byte) (n k : Nat) : List Nat := (List.range n).map fun i => field bs (k * i) k

/-- SLOT_BIND at the head of its ring. -/
def Device.slotBind (d : Device) (c : Context) (t : Taken) : Device :=
  let n := field t.entry 0x10 2
  let o := field t.entry 0x14 4
  if (c.roleEntry 2).isNone then d.answer (.ctx c.slot) t 0x14
  else if n = 0 ∨ 4096 < n then d.answer (.ctx c.slot) t 0xE4
  else if 0 < c.slotsBound ∧ c.slotArea ≠ some (BitVec.ofNat 32 o) then d.answer (.ctx c.slot) t 0x1A
  else match d.hdRead c (entDpa t.entry 8) (8 * n) with
    | .error r => d.answerFault c t r []
    | .ok bs =>
      let d1 := d.modCtx c.slot fun c => { c with slotArea := some (BitVec.ofNat 32 o) }
      ((wordsOf bs n 8).foldl (fun (r : ClaimRun) w => r.claim c o w) ({ d := d1 } : ClaimRun)).close c t (entDpa t.entry 0x18)

/-- SLOT_BIND. -/
def execSlotBind (slot : CtxSlot) (s : State) : Host.Outcome State Fault Refusal :=
  .next { s with dev := s.dev.descriptor slot 0x15 {} Device.slotBind }

/-- SLOT_RELEASE at the head of its ring; without a slot area every slot is free. Without a directory region every adapter descriptor
answers HANDLE_RANGE (R423). -/
def Device.slotRelease (d : Device) (c : Context) (t : Taken) : Device :=
  let n := field t.entry 0x10 2
  if (c.roleEntry 2).isNone then d.answer (.ctx c.slot) t 0x14
  else match d.hdRead c (entDpa t.entry 8) (4 * n) with
  | .error r => d.answerFault c t r []
  | .ok bs =>
    let go := fun (r : ClaimRun) (w : Nat) =>
      match c.slotArea with
      | some o => r.release c o.toNat w
      | none => r.tell 0x18
    ((wordsOf bs n 4).foldl go ({ d := d } : ClaimRun)).close c t (entDpa t.entry 0x18)

/-- SLOT_RELEASE. -/
def execSlotRelease (slot : CtxSlot) (s : State) : Host.Outcome State Fault Refusal :=
  .next { s with dev := s.dev.descriptor slot 0x16 {} Device.slotRelease }

end Sys2Proof.Machine
end

