-- ==== Sys2Proof/Machine/Identity.lean ====
section
/-! DEFINITION. The device identity (R392, R394). -/

namespace Sys2Proof.Machine

/-- SHA-384 of an elliptic-curve public key (R392). -/
def keyDigest (pub : BitVec 768) : BitVec 384 := Config.sha384 ([0x04] ++ bytesBE 96 pub.toNat)

/-- Order of the group of P-384 (R394). -/
def p384Order : Nat :=
  0xFFFFFFFFFFFFFFFFFFFFFFFFFFFFFFFFFFFFFFFFFFFFFFFFC7634D81F4372DDF581A0DB248B0A77AECEC196ACCC52973

/-- The identity private key: 56 bytes of HKDF of the UDS, as a number, brought into 1 to n - 1 (R394). -/
def identityPriv : BitVec 384 :=
  BitVec.ofNat 384 (beOf (Config.hkdf384 Config.uds 0 ("ONX20-ID".toUTF8.toList.map fun b => BitVec.ofNat 8 b.toNat) 56) % (p384Order - 1) + 1)

/-- The identity public key (R394). -/
def identityPub : BitVec 768 := Config.p384Public identityPriv

end Sys2Proof.Machine
end

