-- ==== Sys2Proof/Machine/Power.lean ====
section
/-! DEFINITION. The PD: input protection, rails, Easy-all, overtemperature shutdown and telemetry (R390, R448 to R455, R463, R482). -/

namespace Sys2Proof.Machine

/-- What the module keeps through a turn-off of its rails: flash, fuses, companion memory, and the model's own counts of free values and of
key pairs drawn, so that the next boot draws a new pair; nothing else (R401, R453). -/
def Device.allOff (d : Device) : Device :=
  { Device.reset with
    code := d.code
    fresh := d.fresh
    mem := { bytes := d.mem.bytes.filter fun c => decide (companionBase ≤ c.1), errLines := d.mem.errLines }
    hd := { flash := d.hd.flash }
    boat := { revoke := d.boat.revoke, fuseSvn := d.boat.fuseSvn, lifecycle := d.boat.lifecycle, jtagLock := d.boat.jtagLock
              keysDrawn := d.boat.keysDrawn } }

/-- Every rail turned off, with the input left in a state (R452, R453, R463). -/
def Device.turnOff (d : Device) (input : Input) (locked : Bool) (seqFails : Nat) (trip : Bool) : Device :=
  { d.allOff with pd := { ({} : Pd) with input := input, locked := locked, seqFails := seqFails, thermTrip := trip } }

/-- The input of the power stage is present. -/
def Pd.fed (p : Pd) : Bool := p.input != .removed

/-! ### Input (R453, R463) -/

/-- 60 V applied: qualification begins, and a lock of the last power cycle is gone. -/
def Device.inputApplied (d : Device) : Device :=
  if d.pd.input = .removed then { d with pd := { d.pd with input := .applied, locked := false, seqFails := 0, thermTrip := false } } else d

/-- INPUT_APPLIED. -/
def execInputApplied (s : State) : Host.Outcome State Fault Refusal := .next { s with dev := s.dev.inputApplied }

/-- The input has stayed in range for 10 ms: rail 1 starts, unless a lock or THERM_TRIP holds the module off (R452, R453, R455). -/
def Device.inputQualified (d : Device) : Device :=
  if (d.pd.input = .applied ∨ d.pd.input = .protectedOff) ∧ !d.pd.locked ∧ !d.pd.thermTrip then
    { d with pd := { d.pd with input := .qualified, ramping := true, rails := 0 } }
  else d

/-- INPUT_QUALIFIED. -/
def execInputQualified (s : State) : Host.Outcome State Fault Refusal := .next { s with dev := s.dev.inputQualified }

/-- A protective turn-off for the input (R453). -/
def Device.protect (d : Device) : Device :=
  if d.pd.input = .applied ∨ d.pd.input = .qualified then d.turnOff .protectedOff d.pd.locked d.pd.seqFails d.pd.thermTrip else d

/-- INPUT_UNDERVOLTAGE. -/
def execInputUndervoltage (s : State) : Host.Outcome State Fault Refusal := .next { s with dev := s.dev.protect }

/-- INPUT_OVERVOLTAGE. -/
def execInputOvervoltage (s : State) : Host.Outcome State Fault Refusal := .next { s with dev := s.dev.protect }

/-- The input removed: every rail is off and nothing is stored; THERM_TRIP is released (R463, R464 text). -/
def execInputRemoved (s : State) : Host.Outcome State Fault Refusal :=
  .next { s with dev := s.dev.turnOff .removed false 0 false }

/-! ### Rails (R455, R456) -/

/-- The sessions that the FDs start from at power-on: a value of the random source each, which the ports of the die take (R338). -/
def Device.firstSessions (d : Device) : Device :=
  let (a, d1) := d.drawRandom
  let (b, d2) := d1.drawRandom
  let s : Fin 2 → BitVec 32 := fun f => if f = 0 then a.truncate 32 else b.truncate 32
  { d2 with
    fds := each (fun f x => { x with session := s f }) d2.fds
    ports := each (fun p x => { x with session := s (idx 2 (p.val / 8)) }) d2.ports }

/-- The rail in hand is good: the next one starts, and with rail 12 PWR_GOOD rises and stage 0x2 begins. -/
def Device.railGood (d : Device) : Device :=
  if d.pd.ramping then
    if d.pd.rails + 1 < 12 then { d with pd := { d.pd with rails := d.pd.rails + 1 } }
    else ({ d with
      pd := { d.pd with rails := 12, ramping := false, seqFails := 0, pwrGood := true }
      start := { d.start with stage := 2 } } : Device).firstSessions
  else d

/-- RAIL_POWER_GOOD. -/
def execRailPowerGood (s : State) : Host.Outcome State Fault Refusal := .next { s with dev := s.dev.railGood }

/-- A rail has missed its window: every rail is turned off, and the third failure in a row is final. -/
def Device.railTimeout (d : Device) : Device :=
  if d.pd.ramping then d.turnOff .qualified (decide (3 ≤ d.pd.seqFails + 1)) (d.pd.seqFails + 1) d.pd.thermTrip else d

/-- RAIL_SEQUENCE_TIMEOUT. -/
def execRailSequenceTimeout (s : State) : Host.Outcome State Fault Refusal := .next { s with dev := s.dev.railTimeout }

/-- One second after a failure the PD starts again from rail 1. -/
def Device.sequenceRetry (d : Device) : Device :=
  if d.pd.input = .qualified ∧ !d.pd.ramping ∧ !d.pd.pwrGood ∧ !d.pd.locked ∧ 0 < d.pd.seqFails then
    { d with pd := { d.pd with ramping := true, rails := 0 } }
  else d

/-- SEQUENCE_RETRY. -/
def execSequenceRetry (s : State) : Host.Outcome State Fault Refusal := .next { s with dev := s.dev.sequenceRetry }

/-! ### Overtemperature (R452) -/

/-- Overtemperature shutdown: every rail off, THERM_TRIP asserted until the input is removed. -/
def Device.shutdown (d : Device) : Device := d.turnOff .protectedOff d.pd.locked d.pd.seqFails true

/-- The island is an LPDDR5X controller. -/
def isController (i : BitVec 16) : Bool := decide (bits i.toNat 15 10 < 16) && decide (bits i.toNat 9 4 = 10)

/-- A sensor reads 110 °C or more, or an LPDDR5X device is beyond its range. -/
def Device.overtemperature (d : Device) (source : BitVec 16) (tenths : Int) : Device :=
  if 0 < d.pd.rails ∧ (isController source ∨ 1100 ≤ tenths) then d.shutdown else d

/-- OVERTEMPERATURE_SHUTDOWN. -/
def execOvertemperatureShutdown (source : BitVec 16) (tenths : Int) (s : State) : Host.Outcome State Fault Refusal :=
  .next { s with dev := s.dev.overtemperature source tenths }

/-! ### In-band interrupts (R467) -/

/-- The waiting cause of lowest code becomes the pending one, when interrupts are enabled and none is pending. -/
def I3c.raise (i : I3c) : I3c :=
  if i.ibiOn && i.pending.isNone then
    match i.causes with
    | [] => i
    | c :: t =>
      let m := t.foldl (fun a b => if b.toNat < a.toNat then b else a) c
      { i with pending := some m, causes := i.causes.erase m }
  else i

/-- A cause arises. -/
def Device.cause (d : Device) (code : BitVec 8) : Device :=
  { d with i3c := ({ d.i3c with causes := if d.i3c.causes.contains code then d.i3c.causes else d.i3c.causes ++ [code] } : I3c).raise }

/-! ### Easy-all (R448 to R451) -/

/-- Entry: the average exceeds the entry level; the PD latches the mask of CDs over their budgets. -/
def Device.easyEntry (d : Device) (average : Nat) : Device :=
  if 0 < d.pd.rails ∧ !d.pd.easyAll ∧ d.loops[0].high.toNat < average then
    ({ d with
      pd := { d.pd with easyAll := true, signalled := false, episode := d.pd.episode + 1, entryCycle := d.cycle pdIsland, restart := none
                        mask := (List.finRange 16).foldl (fun m i => if d.pd.overNow[i] then m ||| BitVec.ofNat 16 (pow2 i.val) else m) 0 }
      start := { d.start with eaSeen := true } } : Device).cause 4
  else d

/-- EASY_ALL_ENTRY. -/
def execEasyAllEntry (average : Nat) (s : State) : Host.Outcome State Fault Refusal :=
  .next { s with dev := s.dev.easyEntry average }

/-- An EASY_ALL event on the admin ring set and on every context's ring set that is bound and running, with the PD cycle of the entry or of
the exit (R451). -/
def Device.easyEvents (d : Device) (kind : Nat) (cycle : BitVec 64) : Device :=
  let p := bytesLE 1 kind ++ zeros 3 ++ bytesLE 4 d.pd.episode.toNat ++ bytesLE 8 cycle.toNat
  let running := fun (r : Option RingSet) => r.any fun r => !r.stopped
  let d1 := if running d.admin then d.event .admin 0x87 p else d
  (d.ctxs.filter fun c => running c.ring).foldl (fun d c => d.event (.ctx c.slot) 0x87 p) d1

/-- The signal reaches the HD and the CDs: partitions whose resident context runs stop as at pre-emption (R449). -/
def Device.easySignal (d : Device) : Device :=
  if d.pd.easyAll ∧ !d.pd.signalled then
    let d1 := { d with pd := { d.pd with signalled := true } }
    let d2 := (d1.ctxs.filter fun c => c.resident && c.cond == .running).foldl (fun (d : Device) c =>
      (d.modCtx c.slot fun c => { c with held := true, resumeDue := false }).sendPause c) d1
    d2.easyEvents 0 d.pd.entryCycle
  else d

/-- EASY_ALL_SIGNAL. -/
def execEasyAllSignal (s : State) : Host.Outcome State Fault Refusal := .next { s with dev := s.dev.easySignal }

/-- A held partition resumes, at once or when its Course has come to stand still (R450, R451). -/
def Device.easyResume (d : Device) (c : Context) : Device :=
  if d.courseStill c then d.resumeRun c else d.modCtx c.slot fun c => { c with resumeDue := true }

/-- A LOOP_SET that has changed the exit level in the episode has restarted the count of 65,536 cycles, and they have not passed since
(R448). -/
def Device.exitCounting (d : Device) : Bool := d.pd.restart.any fun t => decide ((d.cycle pdIsland - t).toNat < 65536)

/-- Exit: the average has stayed at or below the exit level for 65,536 cycles (R448, R450). -/
def Device.easyExit (d : Device) (average : Nat) : Device :=
  if d.pd.easyAll ∧ average ≤ d.loops[0].low.toNat ∧ !d.exitCounting then
    let d1 := { d with pd := { d.pd with easyAll := false, signalled := false, restart := none } }
    ((d1.ctxs.filter fun c => c.held).foldl (fun d c => d.easyResume c) d1).easyEvents 1 (d.cycle pdIsland)
  else d

/-- EASY_ALL_EXIT. -/
def execEasyAllExit (average : Nat) (s : State) : Host.Outcome State Fault Refusal :=
  .next { s with dev := s.dev.easyExit average }

/-! ### Telemetry (R482) -/

/-- A table filled from a list, by number; entries beyond the list keep their value. -/
def fill {α : Type} {n : Nat} (v : Vector α n) (l : List α) : Vector α n :=
  each (fun i a => (l[i.val]?).getD a) v

/-- A completed sample: the registers take it, and each CD's power is compared with its budget (R390, R483). -/
def Device.telemetry (d : Device) (t : Telemetry) : Device :=
  if d.pd.rails < 2 then d
  else
    let pwr := fill d.pd.cdPwr t.cdPwr
    { d with pd := { d.pd with
        vin := t.vin, iin := t.iin, pin := t.pin, cdPwr := pwr
        overNow := each (fun i _ => decide (d.pd.budget[i].toNat * 10 < pwr[i].toNat)) d.pd.overNow
        temp := fill d.pd.temp t.temps
        coolant := t.coolant.getD d.pd.coolant } }

/-- TELEMETRY_SAMPLE. -/
def execTelemetrySample (sample : Telemetry) (s : State) : Host.Outcome State Fault Refusal :=
  .next { s with dev := s.dev.telemetry sample }

end Sys2Proof.Machine
end

