-- ==== Sys2Proof/Machine/Lpddr.lean ====
section
/-! DEFINITION. The LPDDR5X controllers: the wheel, refresh windows, patrol scrub, share reads, MR4 (R173 to R177, R207, R212,
R222, R445, R446), and the package engine (R411). -/

namespace Sys2Proof.Machine

/-- Window offset of device line `l` of a controller (R173). -/
def windowLine (i : Fin 2) (l : Nat) : Nat := (64 * l / 256) * 512 + i.val * 256 + 64 * l % 256

/-- A code-0 window: the refresh multiplier in force leaves it unused when its number is not one of the windows that carry refresh
at that multiplier; the windows of a wheel carry refresh at x4 (R177, R446). -/
def Lpc.windowFree (l : Lpc) : Bool := decide (l.windows % (pow2 (2 - l.mult.toNat)) ≠ 0)

/-- Lines of one device that are addressable (R174). -/
def deviceLines (c : OrderingCode) : Nat := usableOf c / 128

/-- What the environment does to the stored bits at an address, found by the next access there: an LPDDR5X line that its code corrects or
cannot correct, a bonded SRAM word that its code cannot correct, a companion line that the link answers with an error; a clean report takes
the damage away (R171, R172, R174; log entry 55). -/
def Mem.decay (m : Mem) (p : Place) (e : MemError) : Mem :=
  let line := e.dpa.toNat / 64
  let word := e.dpa.toNat / 8
  match p, e.check with
  | .lpddr _ _, .corrected => if m.ceLines.contains line || m.ueLines.contains line then m else { m with ceLines := m.ceLines ++ [line] }
  | .lpddr _ _, .uncorrectable =>
    { m with ceLines := m.ceLines.filter (· ≠ line), ueLines := if m.ueLines.contains line then m.ueLines else m.ueLines ++ [line] }
  | .lpddr _ _, .clean => { m with ceLines := m.ceLines.filter (· ≠ line), ueLines := m.ueLines.filter (· ≠ line) }
  | .sram _ _, .uncorrectable => { m with ueWords := if m.ueWords.contains word then m.ueWords else m.ueWords ++ [word] }
  | .sram _ _, _ => { m with ueWords := m.ueWords.filter (· ≠ word) }
  | .companion _, .uncorrectable => { m with errLines := if m.errLines.contains line then m.errLines else m.errLines ++ [line] }
  | .companion _, _ => { m with errLines := m.errLines.filter (· ≠ line) }
  | _, _ => m

/-- One line of patrol scrub: a correctable line is corrected and written back, an uncorrectable one gives an ECC_UE record with context
tag 0 (R177). -/
def Device.scrubLine (d : Device) (cd : Cd) (i : Fin 2) (l : Nat) : Device :=
  let a := lpddrOf cd.val + windowLine i l
  if d.mem.ueLines.contains (a / 64) then
    (d.eccUe cd i).report (d.err (lpcIsland cd i) 7 eEcc 0 (some a) (faultDetail 0 false 0 0))
  else if d.mem.ceLines.contains (a / 64) then
    d.modMem fun m => { m with ceLines := m.ceLines.filter (· ≠ a / 64) }
  else d

/-- An unused refresh window: the corrected lines that wait are written back, and 16 lines are scrubbed in address order (R176, R177). -/
def Device.scrubWindow (d : Device) (cd : Cd) (i : Fin 2) : Device :=
  let l := d.lpcs[cd][i]
  let first := l.scrub.toNat
  let n := deviceLines d.code
  let d1 := (d.modMem fun m => { m with ceLines := m.ceLines.filter fun x => !l.writeBack.contains x }).modLpc cd i fun l =>
    { l with writeBack := [], scrub := BitVec.ofNat 32 ((first + 16) % n) }
  (List.range 16).foldl (fun d k => d.scrubLine cd i ((first + k) % n)) d1

/-- A code-0 position (R177, R212, R446). -/
def Device.refreshWindow (d : Device) (cd : Cd) (i : Fin 2) : Device :=
  let free := d.lpcs[cd][i].windowFree
  let d1 := d.modLpc cd i fun l => { l with windows := (l.windows + 1) % 4 }
  if free then d1.scrubWindow cd i else d1

/-- The Course-out tile that channel 0 reads next: the tile being read, or a new one while a slot is free (R207); none once a fault of a share
read has stopped the channel (R195). -/
def Course.reading (k : Course) (p : Plan) (pos : Nat) : Option (CTile × Nat) :=
  if k.out.any (·.cut) then none
  else match p.shareAt k.share with
  | none => none
  | some (r, i) =>
    match k.out.find? fun t => t.round == r with
    | some t => some (t, i)
    | none => if k.out.length < 8 then some ({ owner := pos, round := r, lines := [] }, i) else none

/-- A tile put back into the Course-out buffer. -/
def Course.setTile (k : Course) (t : CTile) : Course :=
  { k with out := if k.out.any fun o => o.round == t.round then k.out.map fun o => if o.round = t.round then t else o else k.out ++ [t] }

/-- The tile under reading put back with a further line; once whole, channel 0 goes on to the next (R207). -/
def Course.readLine (k : Course) (t : CTile) (i : Nat) (bs : List Byte) : Course :=
  let t1 := { t with lines := t.lines ++ [(i, bs)] }
  { k.setTile t1 with share := if t1.full then k.share + 1 else k.share }

/-- A fault of a share read at line `n` of a tile: the lines below it stay, what a device has read ahead is dropped (R194, R196). -/
def Device.shareFault (d : Device) (c : Context) (cd : Cd) (t : CTile) (n code line : Nat) : Device :=
  (d.modCourse cd fun k => { k.setTile { t with lines := t.lines.filter fun l => decide (l.1 < n), cut := true } with gatherAt := none }).memFault
    c (cdIsland cd 4 0) code line (64 * n) false 0 0

/-- The credit of a gathered half-tile returns once its last line has been read (R348). -/
def Context.gatherCredit (c : Context) (pos ordinal : Nat) : Context :=
  { c with plan := c.plan.map fun p =>
    { p with recvs := p.recvs.map fun r =>
        if r.pos == pos && r.cls == 3 && r.ordinals.contains ordinal then { r with ordinals := r.ordinals.erase ordinal, owed := r.owed + 1 }
        else r } }

/-- The share list read for the first line of a tile counts the errors of its lines (R176, R484). -/
def Device.shareEcc (d : Device) (c : Context) (cd : Cd) (t : CTile) (base idx : Nat) : Device :=
  if t.lines.isEmpty then d.eccRun c cd .tongs (base + 16 * idx) 16 else d

/-- One share line served at a code-1 position: the first missing line of the tile that lies on this device. A gathered half-tile
waits for the gather counter. A fault stands once every lower line has been read, with 64 times its line number as done; one on the other
device's lower lines comes before it (R193, R194, R207, R212, R222, R440). -/
def Device.shareServe (d : Device) (cd : Cd) (i : Fin 2) : Device :=
  match d.residentOf cd with
  | none => d
  | some c =>
    let k := d.dies[cd].course
    match c.plan with
    | none => d
    | some p =>
      if !c.runsNow || d.dies[cd].frozen || d.enginesHeld c then d
      else match k.reading p (c.posOf cd) with
        | none => d
        | some (t, ix) =>
          let base := ((p.shareBase[c.posOf cd]?).getD 0).toNat
          let todo := (List.range 272).filter fun n => !t.lines.any fun l => l.1 == n
          let lowest := fun n => todo.head? == some n
          let pick := todo.findSome? fun n =>
            match d.shareLine c cd base ix n with
            | .ok (a, g) => if ctlOf (a % 0x2000000000) = i.val then some (n, Except.ok (a, g)) else none
            | .error e => some (n, Except.error e)
          match pick with
          | none => d
          | some (n, .error (e, l)) => if lowest n then (d.shareEcc c cd t base ix).shareFault c cd t n e l else d
          | some (n, .ok (a, gathered)) =>
            let ord := if gathered then d.gatherOrdinal c cd base ix (n / 136) else 0
            if gathered && !seqBefore (BitVec.ofNat 32 ord) k.gather then d.modCourse cd fun k => { k with gatherAt := some ord }
            else
              let r := d.readLine c cd .tongs none a
              match r with
              | .error e => if lowest n then (d.eccOf a r).shareFault c cd t n e a else d
              | .ok bs =>
                let d0 := ((d.shareEcc c cd t base ix).modCourse cd fun k => { k with gatherAt := none }).eccOf a r
                let d1 := d0.modCourse cd fun k => k.readLine t n bs
                let last := (todo.filter fun j => j / 136 == n / 136).length == 1
                if gathered && last then d1.modCtx c.slot fun c => c.gatherCredit (c.posOf cd) ord else d1

/-- One controller cycle: what has happened to the stored bits is there to be found, the current wheel position is served, and the wheel
moves on (R174, R212; log entry 55). -/
def Device.wheelServe (d : Device) (cd : Cd) (i : Fin 2) (decay : List MemError) : Device :=
  if !d.lpcs[cd][i].trained || d.lpcs[cd][i].selfRefresh then d
  else
    let d0 := d.modMem fun m => decay.foldl (fun m e => m.decay (d.place e.dpa.toNat) e) m
    let code := d.wheelCode cd i
    let d1 := if code = 0 then d0.refreshWindow cd i else if code = 1 then d0.shareServe cd i else d0
    d1.modLpc cd i fun l => { l with wheelPos := l.wheelPos + 1 }

/-- LPDDR_WHEEL_SERVE. -/
def execLpddrWheelServe (cd : Cd) (ctl : Fin 2) (decay : List MemError) (s : State) : Host.Outcome State Fault Refusal :=
  .next { s with dev := s.dev.wheelServe cd ctl decay }

/-! ### MR4 (R445, R446) -/

/-- Multiplier code that an MR4 refresh-rate field requires, rounded up to x1, x2 or x4; none beyond the x4 range (log entry 26). -/
def mr4Needs (f : BitVec 3) : Option Nat :=
  if f.toNat ≤ 3 then some 0 else if f.toNat = 4 then some 1 else if f.toNat ≤ 6 then some 2 else none

/-- Some controller holds the refresh loop above its software bound. -/
def Device.refreshOverride (d : Device) : Bool :=
  (List.finRange 16).any fun cd => (List.finRange 2).any fun i => d.lpcs[cd][i].override

/-- The highest multiplier code applied: the present value of loop 0x01. -/
def Device.refreshValue (d : Device) : Nat :=
  (List.finRange 16).foldl (fun a cd => (List.finRange 2).foldl (fun a i => max a d.lpcs[cd][i].mult.toNat) a) 0

/-- A read of MR4: the multiplier rises at once and falls after two reads that require less, inside the bounds of loop 0x01 unless
the temperature requires more; beyond the range the module shuts down. -/
def Device.mr4Read (d : Device) (cd : Cd) (i : Fin 2) (f : BitVec 3) : Device :=
  if !d.lpcs[cd][i].trained then d
  else match mr4Needs f with
    | none => d.shutdown
    | some need =>
      let lo := d.loops[1].low.toNat
      let hi := d.loops[1].high.toNat
      let want := max need (min lo hi)
      let step := fun (l : Lpc) =>
        if l.mult.toNat ≤ want then { l with mult := BitVec.ofNat 2 want, lower := 0 }
        else if l.lower + 1 < 2 then { l with lower := l.lower + 1 }
        else { l with mult := BitVec.ofNat 2 want, lower := 0 }
      let d1 := d.modLpc cd i fun l =>
        let l1 := step l
        { l1 with mr4 := f, override := decide (hi < l1.mult.toNat) }
      let on := d1.refreshOverride
      let d2 : Device := { d1 with loops := d1.loops.set 1 { d1.loops[1] with override := on } }
      if on && !d.loops[1].override then d2.event .admin 0x93 (bytesLE 1 1 ++ zeros 3 ++ bytesLE 4 hi ++ bytesLE 4 d2.lpcs[cd][i].mult.toNat)
      else d2

/-- MR4_READ. -/
def execMr4Read (cd : Cd) (ctl : Fin 2) (field : BitVec 3) (s : State) : Host.Outcome State Fault Refusal :=
  .next { s with dev := s.dev.mr4Read cd ctl field }

/-! ### The package engine (R411) -/

/-- A record of a registered window read, verified and put in the buffer. -/
def Device.packageVerify (d : Device) (dom : Fin 64) (k i : Nat) : Device :=
  match d.boat.domains[dom].windows[k]? with
  | none => d
  | some w => if 65536 * i < w.len then d.serveRecord dom k w i else d

/-- PACKAGE_RECORD_VERIFY. -/
def execPackageRecordVerify (domain window : Fin 64) (record : Nat) (s : State) : Host.Outcome State Fault Refusal :=
  .next { s with dev := s.dev.packageVerify domain window.val record }

end Sys2Proof.Machine
end

