-- ==== Sys2Proof/Machine/Loops.lean ====
section
/-! DEFINITION. Control loops: LOOP_SET and what HD.LOOPj shows (R444, R445, R447, R480). -/

namespace Sys2Proof.Machine

/-- The register index of a loop ID; none for an ID that is not listed (R444, "Loop settings"). -/
def loopIndex (id : Nat) : Option (Fin 18) :=
  if id = 0 then some 0 else if id = 1 then some 1
  else if 0x10 ≤ id ∧ id ≤ 0x1F then some (idx 18 (id - 14)) else none

/-- Range of a loop's values (table "Control loops"). -/
def loopRange (j : Fin 18) : Nat × Nat := if j.val = 0 then (1000, 5800) else if j.val = 1 then (0, 2) else (0, 15)

/-- Default of a loop (table "Control loops"), as mode 2 restores it. -/
def loopDefault (j : Fin 18) : LoopReg :=
  if j.val = 0 then { low := 5300, high := 5500, mode := 2 }
  else if j.val = 1 then { low := 0, high := 2, mode := 2 }
  else { low := 0, high := 15, mode := 2 }

/-- A value lies in a loop's range. -/
def inLoopRange (j : Fin 18) (v : Nat) : Bool := decide ((loopRange j).1 ≤ v) && decide (v ≤ (loopRange j).2)

/-- The checks of R444 on a mode, low and high, the same for every mode; a pin names its value in low. -/
def loopOk (j : Fin 18) (mode low high : Nat) : Bool :=
  decide (mode < 3) && (mode != 1 || j != 0) && decide (low ≤ high) && inLoopRange j low
    && (inLoopRange j high || (j == 0 && decide (5800 < high))) && (j != 0 || decide (low + 100 ≤ high))

/-- What a loop holds once a request that passes the checks is applied (R444, R445). -/
def loopApplied (j : Fin 18) (mode low high : Nat) : LoopReg :=
  if mode = 2 then loopDefault j
  else if mode = 1 then { low := BitVec.ofNat 16 low, high := BitVec.ofNat 16 low, mode := 1 }
  else { low := BitVec.ofNat 16 low, high := BitVec.ofNat 16 (min high (loopRange j).2), mode := 0 }

/-- The present value of a loop: the input current, the highest refresh multiplier applied, or a port's CTLE code. -/
def Device.loopValue (d : Device) (j : Fin 18) : Nat :=
  if j.val = 0 then d.pd.iin.toNat else if j.val = 1 then d.refreshValue else d.ports[idx 16 (j.val - 2)].ctle.toNat

/-- The LOOP_OVERRIDE event (R376): loop, value asked, value applied. -/
def Device.overrideEvent (d : Device) (loop asked applied : Nat) : Device :=
  d.event .admin 0x93 (bytesLE 1 loop ++ zeros 3 ++ bytesLE 4 asked ++ bytesLE 4 applied)

/-- A request that passes the checks takes effect: an entry level above 5,800 begins an override, a change of the exit level in an episode
restarts its count, and a pinned equaliser takes its code (R444, R445, R447, R448). -/
def Device.applyLoop (d : Device) (j : Fin 18) (mode low high : Nat) : Device :=
  let was := d.loops[j]
  let asks : Bool := j == 0 && mode == 0 && decide (5800 < high)
  let now : LoopReg := { loopApplied j mode low high with override := if j = 0 then asks else was.override }
  let d0 : Device := { d with loops := upd d.loops j fun _ => now }
  let d1 := if j = 0 ∧ d.pd.easyAll ∧ now.low ≠ was.low then { d0 with pd := { d0.pd with restart := some (d.cycle pdIsland) } } else d0
  let d2 := if 2 ≤ j.val ∧ mode = 1 then d1.modPort (idx 16 (j.val - 2)) fun x => { x with ctle := BitVec.ofNat 4 low } else d1
  if asks && !was.override then d2.overrideEvent 0 high 5800 else d2

/-- LOOP_SET at the head of the admin ring (R374, R444). -/
def Device.loopSet (d : Device) (t : Taken) : Device :=
  let mode := field t.entry 9 1
  let low := field t.entry 0xC 4
  let high := field t.entry 0x10 4
  match loopIndex (field t.entry 8 1) with
  | none => d.answer .admin t 0x70
  | some j =>
    if !loopOk j mode low high then d.answer .admin t 0x70
    else
      let d1 := d.applyLoop j mode low high
      d1.finish .admin t 0 0 (bytesLE 4 d1.loops[j].low.toNat ++ bytesLE 4 d1.loops[j].high.toNat ++ bytesLE 4 (d1.loopValue j))

/-- LOOP_SET. -/
def execLoopSet (s : State) : Host.Outcome State Fault Refusal := .next { s with dev := s.dev.adminDescriptor 0x51 Device.loopSet }

end Sys2Proof.Machine
end

