-- ==== Sys2Proof/Machine/Ports.lean ====
section
/-! DEFINITION. Wyine ports: training, negotiation, equalisation and the link layer (R335 to R342, R353, R435, R438, R447). -/

namespace Sys2Proof.Machine

/-! ### Records of a port (R351, R353) -/

/-- Cycles in which a port repeats no record of a code and context. -/
def recordWindow : Nat := 2 ^ 20

/-- A record of class 0x0C for a context, or for none: at most one per code and context in each window (R353). -/
def Device.portRecord (d : Device) (p : PortNo) (code : Nat) (ctx : BitVec 16) (detail : Nat) : Device :=
  let now := d.cycle (portIsland p)
  let k : BitVec 8 := BitVec.ofNat 8 code
  let fresh := d.ports[p].recent.all fun r => r.code != k || r.ctx != ctx || decide (recordWindow ≤ (now - r.cycle).toNat)
  if !fresh then d
  else
    (d.report (d.err (portIsland p) 12 code ctx none detail)).modPort p fun x =>
      { x with recent := (x.recent.filter fun r => r.code != k || r.ctx != ctx) ++ [{ code := k, ctx := ctx, cycle := now }] }

/-! ### Training (R334, R336, R447) -/

/-- The state codes of `FD.PORT_STS`. -/
def PortState.code : PortState → Nat
  | .off => 0
  | .detect => 1
  | .eq => 2
  | .align => 3
  | .negotiate => 4
  | .active => 5
  | .backoff => 6

/-- A port fails: a record unless the code has been recorded since the last ACTIVE, the PORT_TRAIN counter, and the back-off (R336). -/
def Device.portFail (d : Device) (p : PortNo) (code detail : Nat) : Device :=
  let x := d.ports[p]
  let k : BitVec 16 := BitVec.ofNat 16 code
  let told := x.told.contains k
  let (n, hit) := x.train.hit x.trainThr 1
  let d1 := d.modPort p fun x => { x with
    state := .backoff, fails := min 6 (x.fails + 1), lastFail := BitVec.ofNat 8 code, told := if told then x.told else x.told ++ [k]
    train := n, discarding := false, nakDue := false, replaySeq := none, replays := 0 }
  let d2 := if told then d1 else d1.report (d1.err (portIsland p) 12 code 0 none detail)
  if hit then d2.event .admin 0x92 (bytesLE 2 (portIsland p).toNat ++ bytesLE 2 code ++ bytesLE 4 n.count.toNat) else d2

/-- The loop of a port. -/
def Device.portLoop (d : Device) (p : PortNo) : LoopReg := d.loops[idx 18 (p.val + 2)]

/-- A CTLE code brought inside the loop's bounds; a pinned port keeps its own (R447). -/
def Device.ctleFor (d : Device) (p : PortNo) (v : BitVec 4) : BitVec 4 :=
  let l := d.portLoop p
  if l.mode = 1 then d.ports[p].ctle else BitVec.ofNat 4 (min l.high.toNat (max l.low.toNat v.toNat))

/-- Every lane meets its own number; every lane i meets lane 7 - i. -/
def laneStraight : BitVec 32 := 0x76543210
/-- The map of a whole-port reversal. -/
def laneReversed : BitVec 32 := 0x01234567

/-- A training state completes: signal on every lane; every lane at its target; an order of lanes that can be corrected. Any other order
fails at once (R334, R336). -/
def Device.trainStep (d : Device) (p : PortNo) (f : TrainReport) : Device :=
  match d.ports[p].state with
  | .detect => if f.lanesBad = 0 then d.modPort p fun x => { x with state := .eq } else d
  | .eq =>
    if f.lanesBad = 0 then d.modPort p fun x => { x with state := .align, ctle := d.ctleFor p f.ctle, asked := f.asked, txp := f.preset } else d
  | .align =>
    if f.laneMap = laneStraight ∨ f.laneMap = laneReversed then
      d.modPort p fun x => { x with
        state := .negotiate, reversed := f.laneMap == laneReversed, polarity := f.polarity, echoed := false, heard := false
        negTx := none, gen := 0, ver := 0 }
    else d.portFail p 0x12 f.laneMap.toNat
  | _ => d

/-- PORT_TRAINING_STEP. -/
def execPortTrainingStep (port : PortNo) (found : TrainReport) (s : State) : Host.Outcome State Fault Refusal :=
  .next { s with dev := s.dev.trainStep port found }

/-- A training state exceeds its limit (R336). -/
def Device.trainTimeout (d : Device) (p : PortNo) (f : TrainReport) : Device :=
  match d.ports[p].state with
  | .detect => d.portFail p 0x10 1
  | .eq => d.portFail p 0x11 f.lanesBad.toNat
  | .align => d.portFail p 0x12 f.laneMap.toNat
  | .negotiate => d.portFail p 0x14 0
  | _ => d

/-- PORT_TRAINING_TIMEOUT. -/
def execPortTrainingTimeout (port : PortNo) (found : TrainReport) (s : State) : Host.Outcome State Fault Refusal :=
  .next { s with dev := s.dev.trainTimeout port found }

/-- The back-off ends: training starts again at DETECT. -/
def Device.backoffEnd (d : Device) (p : PortNo) : Device :=
  if d.ports[p].state = .backoff then d.modPort p fun x => { x with state := .detect } else d

/-- BACKOFF_EXPIRY. -/
def execBackoffExpiry (port : PortNo) (s : State) : Host.Outcome State Fault Refusal := .next { s with dev := s.dev.backoffEnd port }

/-- The receiver of a port adapts inside its loop's bounds; a pinned loop changes nothing (R335, R447). -/
def Device.adapt (d : Device) (p : PortNo) (ctle : BitVec 4) (dfe : BitVec 48) : Device :=
  if d.ports[p].state = .active ∧ (d.portLoop p).mode ≠ 1 then d.modPort p fun x => { x with ctle := d.ctleFor p ctle, dfe := dfe } else d

/-- EQUALISER_ADAPT. -/
def execEqualiserAdapt (port : PortNo) (ctle : BitVec 4) (dfe : BitVec 48) (s : State) : Host.Outcome State Fault Refusal :=
  .next { s with dev := s.dev.adapt port ctle dfe }

/-! ### Negotiation (R337, R338, R342) -/

/-- Receive buffer lines of a class. -/
def classLines (c : Fin 5) : Nat := if c = 0 then 64 else if c = 1 then 256 else 2048

/-- The link resumes: each end replays from the partner's rx_next. -/
def Port.resume (x : Port) (rxNext : BitVec 32) : Port :=
  { x with txAck := rxNext, replay := x.replay.filter fun f => !seqBefore f.seq rxNext, replaySeq := if rxNext = x.txSeq then none else some rxNext }

/-- A link with a new partner session starts from the beginning, with full buffers; `lost` says that messages were in flight. -/
def Port.fresh (x : Port) (lost : Bool) : Port :=
  { x with
    txSeq := 0, txAck := 0, rxSeq := 0, replay := [], replaySeq := none
    credits := each (fun c _ => classLines c) x.credits
    rxHeld := Vector.replicate 5 0, freed := Vector.replicate 5 0, rx := Vector.replicate 5 [], c2Up := 0, c2Down := 0
    c2Out := [], withheld := []
    tx := if lost then Vector.replicate 5 [] else x.tx, txPart := if lost then Vector.replicate 5 none else x.txPart
    c2Wait := if lost then [] else x.c2Wait, nakQueue := if lost then [] else x.nakQueue }

/-- The lines received at a level without those that no addition has used: `a` of phase 1 and `b` of phase 2 stay. -/
def keepMade (level : Nat) : Nat → Nat → List (Nat × Nat × List Byte) → List (Nat × Nat × List Byte)
  | _, _, [] => []
  | a, b, l :: t =>
    if l.1 ≠ level then l :: keepMade level a b t
    else if l.2.1 = 1 then (if a = 0 then keepMade level a b t else l :: keepMade level (a - 1) b t)
    else if b = 0 then keepMade level a b t else l :: keepMade level a (b - 1) t

/-- A tag entry without the lines of a level that wait in a C2 buffer for their addition. -/
def TreeTag.lose (t : TreeTag) (level : Nat) : TreeTag :=
  let made := fun (ph : Nat) => (t.up.filter fun l => l.1 == level && l.2.1 == ph).length
  { t with upRecv := keepMade level (made 1) (made 2) t.upRecv }

/-- The lines of Wyine children that wait in the C2 buffer of a port for their addition are lost with the session of its partner: the port
starts with an empty buffer (R338, R342; log entry 45). -/
def Device.loseTree (d : Device) (p : PortNo) : Device :=
  d.ctxs.foldl (fun d c =>
    match c.reduce with
    | none => d
    | some r =>
      let n := c.fdNode r
      let levels := (List.range (n.top + 1)).filter fun level => (n.child level).any fun peer => (c.routeTo peer).any fun o => o.port == p
      d.modFd r.treeFd fun f => { f with tags := f.tags.map fun t => if t.ctx == c.tag then levels.foldl TreeTag.lose t else t }) d

/-- PORT_RESET for each context whose route table names the port (R338, R376). -/
def Device.portReset (d : Device) (p : PortNo) (old new : BitVec 32) : Device :=
  d.ctxs.foldl (fun d c =>
    (c.routes.filter fun r => r.port == p).foldl (fun (d : Device) r =>
      d.event (.ctx c.slot) 0x86 (bytesLE 1 p.val ++ zeros 1 ++ bytesLE 2 r.peer.toNat ++ bytesLE 4 old.toNat ++ bytesLE 4 new.toNat)) d) d

/-- Both ends have each other's flit: the port is ACTIVE. A partner that kept its session resumes; another session loses what was in
flight. -/
def Device.goActive (d : Device) (p : PortNo) (f : NegFlit) : Device :=
  let x := d.ports[p]
  let up := fun (x : Port) => { x with
    state := .active, fails := 0, told := [], partner := some f.session, partnerModule := f.module, echoed := true, heard := true
    replays := 0, discarding := false, nakDue := false }
  match x.partner with
  | some old =>
    if old = f.session then d.modPort p fun x => up (x.resume f.rxNext)
    else ((d.loseTree p).modPort p fun x => up (x.fresh true)).portReset p old f.session
  | none => d.modPort p fun x => up (x.fresh false)

/-- A negotiation flit arrives: the generation agreed is the lower gen_max, at or above both gen_min values (R337). -/
def Device.negotiate (d : Device) (p : PortNo) (f : NegFlit) : Device :=
  if d.ports[p].state ≠ .negotiate then d
  else
    let gen := min 1 f.genMax.toNat
    if gen < 1 ∨ gen < f.genMin.toNat then d.portFail p 0x13 (f.genMax.toNat + 4 * f.genMin.toNat)
    else
      let d1 := d.modPort p fun x => { x with gen := BitVec.ofNat 2 gen, ver := BitVec.ofNat 6 (min 1 f.ver.toNat), heard := true }
      if f.echo then d1.goActive p f else d1

/-- The port's own negotiation flit: generation 1 alone, link version 1, and whether the partner's flit has been received (R337). -/
def Device.negFlit (d : Device) (p : PortNo) : NegFlit :=
  let x := d.ports[p]
  { genMax := 1, genMin := 1, ver := 1, port := BitVec.ofNat 8 p.val, echo := x.heard, session := x.session, rxNext := x.rxSeq
    module := (keyDigest identityPub).setWidth 64 }

/-- NEGOTIATION_FLIT. -/
def execNegotiationFlit (port : PortNo) (flit : NegFlit) (s : State) : Host.Outcome State Fault Refusal :=
  .next { s with dev := s.dev.negotiate port flit }

/-! ### Limits of the link (R341) -/

/-- The port leaves ACTIVE with LINK_DOWN and retrains; session, replay buffer and credits stay. -/
def Device.linkDown (d : Device) (p : PortNo) (why : Nat) : Device := d.portFail p 0x15 why

/-- The port replays from a flit; a ninth replay of one flit takes it out of ACTIVE. -/
def Device.replayFrom (d : Device) (p : PortNo) (seq : BitVec 32) : Device :=
  if 8 ≤ d.ports[p].replays then d.linkDown p 1
  else d.modPort p fun x => { x with replaySeq := some seq, replays := x.replays + 1 }

/-- The oldest unacknowledged flit has waited for 16,384 cycles. -/
def Device.replayTimeout (d : Device) (p : PortNo) : Device :=
  let x := d.ports[p]
  if x.state = .active ∧ !x.replay.isEmpty then d.replayFrom p x.txAck else d

/-- REPLAY_TIMEOUT. -/
def execReplayTimeout (port : PortNo) (s : State) : Host.Outcome State Fault Refusal := .next { s with dev := s.dev.replayTimeout port }

/-- No flit for 65,536 cycles. -/
def Device.keepalive (d : Device) (p : PortNo) : Device := if d.ports[p].state = .active then d.linkDown p 2 else d

/-- KEEPALIVE_TIMEOUT. -/
def execKeepaliveTimeout (port : PortNo) (s : State) : Host.Outcome State Fault Refusal := .next { s with dev := s.dev.keepalive port }

/-! ### Sending flits (R339, R341, R342, R435, R438) -/

/-- The 272 bytes of a flit with its crc field zero. -/
def flitBytes (f : Flit) : List Byte :=
  bytesLE 4 f.seq.toNat ++ bytesLE 4 f.ack.toNat ++ bytesLE 2 (f.cc.toNat + 8 * f.cred.toNat) ++ bytesLE 2 ((if f.idle then 1 else 0) + (if f.nak then 2 else 0))
    ++ zeros 4 ++ pad 256 (f.lines.flatMap fun l => pad 64 l.2)

/-- The check word of a flit. -/
def flitCrc (f : Flit) : BitVec 32 := BitVec.ofNat 32 (crc32c (flitBytes f))

/-- A flit with its check word. -/
def sealFlit (f : Flit) : Flit := { f with crc := flitCrc f }

/-- Search order of a flit (R438). -/
def searchOrder (seq : BitVec 32) : List (Fin 5) := if seq.toNat % 4 = 3 then [3, 4, 2, 0, 1] else [0, 1, 2, 3, 4]

/-- A receive stream of a context that owes credits to a peer reached over a port; credits of a context that pauses are withheld, and one that
is being reset returns none (R348, R354, R421). -/
def Device.owing (d : Device) (p : PortNo) : Option (Context × RecvStream × Route) :=
  d.ctxs.findSome? fun c =>
    if !c.resident || c.pausing || d.isGone c.tag then none
    else (c.plan.map (·.recvs)).getD [] |>.findSome? fun r =>
      if r.owed = 0 then none
      else match c.routeTo r.peer.toNat with
        | some o => if o.port = p then some (c, r, o) else none
        | none => none

/-- The MCREDIT packet of a stream (R435). -/
def mcreditHeader (c : Context) (r : RecvStream) (o : Route) (n : Nat) : List Byte :=
  packetHeader 1 1 0 o.job.toNat 0 c.rank r.peer.toNat r.pos r.stream 0 0 0 0 (bytesLE 1 r.stream ++ zeros 1 ++ bytesLE 2 n)

/-- The C1 line that waits at a port: a line in the queue, the oldest NAK, or an MCREDIT made of what a stream owes (R435). -/
def Device.fillC1 (d : Device) (p : PortNo) : Device :=
  let x := d.ports[p]
  if x.tx[(1 : Fin 5)] ≠ [] then d
  else match x.nakQueue with
    | k :: t => d.modPort p fun x => { x with nakQueue := t, tx := upd x.tx 1 fun _ => [k.header] }
    | [] =>
      match d.owing p with
      | none => d
      | some (c, r, o) =>
        let n := min 64 r.owed
        let d1 := d.modCtx c.slot fun c => c.modRecv r.pos r.stream fun r => { r with owed := r.owed - n, held := r.held + n }
        d1.modPort p fun y => { y with tx := upd y.tx 1 fun _ => [mcreditHeader c r o n] }

/-- Direction of the next line of class 2 that waits. -/
def Port.c2Next (x : Port) : Bool := x.c2Waiting.headD false

/-- A class is eligible: it has a line ready and holds credit for it; a line of class 2 needs space in its half of the partner's buffer
(R436, R438). -/
def Port.eligible (x : Port) (c : Fin 5) : Bool :=
  decide (x.tx[c] ≠ []) && decide (0 < x.credits[c]) && (c != 2 || decide ((x.c2Out.filter (· == x.c2Next)).length < c2Half))

/-- The first line of a class leaves; a header line begins a packet of as many payload lines as it names. -/
def Port.popLine (x : Port) (c : Fin 5) : Port :=
  match x.tx[c] with
  | [] => x
  | l :: t =>
    let part := match x.txPart[c] with
      | some (h, n + 1) => if n = 0 then none else some (h, n)
      | _ => if headerLines l = 0 then none else some (l, headerLines l)
    { x with
      tx := upd x.tx c fun _ => t, txPart := upd x.txPart c fun _ => part, credits := upd x.credits c fun n => n - 1
      c2Out := if c = 2 then x.c2Out ++ [x.c2Next] else x.c2Out }

/-- The lines of a flit: each is the next line of the first eligible class (R438). -/
def Device.flitLines (p : PortNo) (order : List (Fin 5)) : Nat → Device → List (Fin 5 × List Byte) → Device × List (Fin 5 × List Byte)
  | 0, d, ls => (d, ls)
  | n + 1, d, ls =>
    let held := d.ports[p].credits[(1 : Fin 5)]
    let e := if held = 0 then d else d.fillC1 p
    match order.find? e.ports[p].eligible with
    | none => (d, ls)
    | some c =>
      let d1 := if c = 1 then e else d
      Device.flitLines p order n (d1.modPort p fun x => x.popLine c) (ls ++ [(c, (d1.ports[p].tx[c]).headD [])])

/-- The class whose freed lines a flit reports: the first with any. -/
def Port.report (x : Port) : Option (Fin 5) := (List.finRange 5).find? fun c => decide (0 < x.freed[c])

/-- A new flit of some lines, or an idle one, goes out with ack, credit and nak fields. -/
def Device.newFlit (d : Device) (p : PortNo) (ls : List (Fin 5 × List Byte)) : Device :=
  d.modPort p fun x =>
    let cc := x.report
    let cred := match cc with
      | some c => min 8191 x.freed[c]
      | none => 0
    let f : Flit := {
      seq := x.txSeq, ack := x.rxSeq, cc := BitVec.ofNat 3 ((cc.map (·.val)).getD 0), cred := BitVec.ofNat 13 cred
      idle := ls.isEmpty, nak := x.nakDue, crc := 0, lines := ls }
    { x with
      lastTx := some (sealFlit f), nakDue := false
      freed := match cc with
        | some c => upd x.freed c fun n => n - cred
        | none => x.freed
      txSeq := if ls.isEmpty then x.txSeq else x.txSeq + 1
      replay := if ls.isEmpty then x.replay else x.replay ++ [sealFlit f] }

/-- A kept flit goes out again with the present ack and nak. -/
def Port.again (x : Port) (q : BitVec 32) : Port :=
  match x.replay.find? fun f => f.seq == q with
  | none => { x with replaySeq := none }
  | some f =>
    { x with lastTx := some (sealFlit { f with ack := x.rxSeq, nak := x.nakDue }), nakDue := false, replaySeq := if q + 1 = x.txSeq then none else some (q + 1) }

/-- Flits that a port keeps for replay. -/
def replayDepth : Nat := 1024

/-- The waiting C2 packets of FAULTED contexts go: no further line of such a context leaves (R326). -/
def Device.dropFaulted (d : Device) (p : PortNo) : Device :=
  let gone := fun (h : List Byte) => d.ctxs.any fun c => c.cond == .faulted &&
    c.routes.any fun r => r.port == p && r.job.toNat == field h 4 4 && r.peer.toNat == field h 0xE 2
  if d.ctxs.any fun c => c.cond == .faulted then d.modPort p fun x => x.dropWaiting 2 gone else d

/-- A port sends one flit: in NEGOTIATE its negotiation flit; in ACTIVE a replayed one, a new one, or an idle one; with 1,024 flits
unacknowledged it sends idle flits (R337, R341, R438). -/
def Device.transmit (d : Device) (p : PortNo) : Device :=
  let x := d.ports[p]
  if x.state = .negotiate then d.modPort p fun x => { x with negTx := some (d.negFlit p) }
  else if x.state ≠ .active then d
  else
    let d1 := d.dropFaulted p
    match x.replaySeq with
    | some q => d1.modPort p fun x => x.again q
    | none =>
      if replayDepth ≤ x.replay.length then d1.newFlit p []
      else
        let (d2, ls) := Device.flitLines p (searchOrder x.txSeq) 4 d1 []
        d2.newFlit p ls

/-- FLIT_TRANSMIT. -/
def execFlitTransmit (port : PortNo) (s : State) : Host.Outcome State Fault Refusal := .next { s with dev := s.dev.transmit port }

/-! ### Receiving flits (R340, R342, R436) -/

/-- The header of the packet that the received lines of a class leave open; none when a header comes next. -/
def openPacket : Nat → List (List Byte) → Option (List Byte)
  | 0, _ => none
  | _, [] => none
  | fuel + 1, h :: t =>
    let n := headerLines h
    if t.length < n then some h else openPacket fuel (t.drop n)

/-- A received line placed in its class's buffer, one of class 2 in the half of its direction; none when it lies beyond the credit that the
partner held, which counts the lines held and those freed whose credit has not been returned (R342, R436). -/
def Port.place (x : Port) (c : Fin 5) (l : List Byte) : Option Port :=
  let down := c == 2 && headerDown ((openPacket (x.rx[c].length + 1) x.rx[c]).getD l)
  if classLines c + (if c = 0 then x.echoReserved else 0) ≤ x.rxHeld[c] + x.freed[c] then none
  else some { x with
    rx := upd x.rx c fun q => q ++ [l], rxHeld := upd x.rxHeld c fun n => n + 1
    c2Down := if c = 2 ∧ down = true then x.c2Down + 1 else x.c2Down
    c2Up := if c = 2 ∧ down = false then x.c2Up + 1 else x.c2Up }

/-- The lines of a flit placed in order, with the surplus lines of each class. -/
def Port.takeLines (x : Port) (ls : List (Fin 5 × List Byte)) : Port × List (Fin 5) :=
  ls.foldl (fun (a : Port × List (Fin 5)) l =>
    match a.1.place l.1 l.2 with
    | some y => (y, a.2)
    | none => (a.1, a.2 ++ [l.1])) (x, [])

/-- LINK_CREDIT: the record and the statistics counter (R342). -/
def Device.linkCredit (d : Device) (p : PortNo) (c surplus : Nat) : Device :=
  if surplus = 0 then d
  else (d.modPort p fun x => { x with credit := x.credit.add 1 }).portRecord p 0x16 0 (c + surplus % 8192 * 8)

/-- Credit of C2 returned: the lines sent longest ago no longer stand in the partner's buffer, and lines refused with PAUSED go out again
(R351, R354, R436; log entry 54). -/
def Port.c2Returned (x : Port) (n : Nat) : Port :=
  if n = 0 then x
  else { x with c2Out := x.c2Out.drop n, tx := upd x.tx 2 fun t => t ++ x.c2Wait, c2Wait := [] }

/-- Credit returned by the partner; what exceeds the lines outstanding is ignored, and so is credit of a reserved class: each is a
LINK_CREDIT (R10, R342). -/
def Device.takeCredit (d : Device) (p : PortNo) (cc : BitVec 3) (n : Nat) : Device :=
  if 5 ≤ cc.toNat then d.linkCredit p cc.toNat n
  else
    let c : Fin 5 := idx 5 cc.toNat
    let out := classLines c - d.ports[p].credits[c]
    (d.modPort p fun x =>
      let y := { x with credits := upd x.credits c fun k => k + min n out }
      if c = 2 then y.c2Returned (min n out) else y).linkCredit p c.val (n - min n out)

/-- Everything before `ack` has been received by the partner: those flits leave the replay buffer. -/
def Port.acked (x : Port) (ack : BitVec 32) : Port :=
  if ack = x.txAck then x
  else { x with txAck := ack, replays := 0, replay := x.replay.filter fun f => !seqBefore f.seq ack }

/-- A flit with the expected sequence is taken: acknowledgement, credit, a replay that the partner asks for, and its lines. -/
def Device.acceptFlit (d : Device) (p : PortNo) (f : Flit) : Device :=
  let d1 := (d.modPort p fun x => { x.acked f.ack with discarding := false }).takeCredit p f.cc f.cred.toNat
  let d2 :=
    if f.idle then d1
    else
      let (y, extra) := d1.ports[p].takeLines f.lines
      (List.finRange 5).foldl (fun d c => d.linkCredit p c.val (extra.filter (· == c)).length)
        (d1.modPort p fun _ => { y with rxSeq := y.rxSeq + 1 })
  if f.nak && !d2.ports[p].replay.isEmpty then d2.replayFrom p f.ack else d2

/-- A flit arrives: one that fails its check is discarded with every later one until the expected sequence arrives again (R340). -/
def Device.receive (d : Device) (p : PortNo) (f : Flit) : Device :=
  let x := d.ports[p]
  if x.state ≠ .active then d
  else if f.crc ≠ flitCrc f then d.modPort p fun x => { x with discarding := true, nakDue := true }
  else if f.seq ≠ x.rxSeq then d
  else d.acceptFlit p f

/-- FLIT_RECEIVE. -/
def execFlitReceive (port : PortNo) (flit : Flit) (s : State) : Host.Outcome State Fault Refusal :=
  .next { s with dev := s.dev.receive port flit }

end Sys2Proof.Machine
end

