-- ==== Sys2Proof/Machine/UpperTree.lean ====
section
/-! DEFINITION. The upper-tree Ladles: tag entries, additions, down payloads and their digests (R302, R310, R318, R321, R323, R326, R330,
R436, R437). -/

namespace Sys2Proof.Machine

/-! ### The upper tree (R302, R310, R321, R323, R436) -/

/-- A tag entry's line of a level: computed here, or of the Course below. -/
def TreeTag.upLine (t : TreeTag) (level phase i : Nat) : Option (List Byte) :=
  ((t.up.filter fun l => l.1 == level && l.2.1 == phase)[i]?).map (·.2.2)

/-- Line i of an up payload received over Wyine. -/
def TreeTag.recvLine (t : TreeTag) (level phase i : Nat) : Option (List Byte) :=
  ((t.upRecv.filter fun l => l.1 == level && l.2.1 == phase)[i]?).map (·.2.2)

/-- Lines of the down payload of a phase. -/
def TreeTag.downLines (t : TreeTag) (phase : Nat) : List (List Byte) := (t.down.filter fun l => l.1 == phase).map (·.2)

/-- A tag entry is that of a context's bucket. -/
def TreeTag.isOf (t : TreeTag) (ctx : BitVec 16) (step : BitVec 32) (bucket : BitVec 16) : Bool :=
  t.ctx == ctx && t.step == step && t.bucket == bucket

/-- The tag entry of a context's bucket at a fabric die. -/
def FabricDie.tag (f : FabricDie) (ctx : BitVec 16) (step : BitVec 32) (bucket : BitVec 16) : Option TreeTag :=
  f.tags.find? fun t => t.isOf ctx step bucket

/-- A tag entry rewritten. -/
def FabricDie.modTag (f : FabricDie) (t : TreeTag) (g : TreeTag → TreeTag) : FabricDie :=
  { f with tags := f.tags.map fun x => if x.isOf t.ctx t.step t.bucket then g x else x }

/-- The tag entry made, when a context holds fewer than 64 (R310). -/
def FabricDie.openTag (f : FabricDie) (ctx : BitVec 16) (step : BitVec 32) (bucket : BitVec 16) : FabricDie :=
  if (f.tag ctx step bucket).isSome || 64 ≤ (f.tags.filter fun t => t.ctx == ctx).length then f
  else { f with tags := f.tags ++ [{ ctx := ctx, step := step, bucket := bucket }] }

/-- The route by which reduction lines go to a peer module; none toward one where a NAK has stopped them (R344, R351). -/
def Context.treeRoute (c : Context) (peer : Nat) : Option Route := if c.treeStopped.any fun p => p.toNat == peer then none else c.routeTo peer

/-- The packet of one line of a payload: its header line, then the line (R321, R343; log entry 27). -/
def reductionPacket (r : ReduceConfig) (o : Route) (peer : Nat) (t : TreeTag) (level phase : Nat) (down : Bool) (i total : Nat) (hdr line : List Byte) :
    List (List Byte) :=
  let kind := phase + (if down then 4 else 0) + (if hdrPresent hdr then 8 else 0) + (if hdrWants hdr then 16 else 0)
  [packetHeader 2 0 1 o.job.toNat r.epoch.toNat r.rank peer 0 0 t.bucket.toNat i total 0
    (bytesLE 4 t.step.toNat ++ bytesLE 2 t.bucket.toNat ++ bytesLE 1 level ++ bytesLE 1 kind), line]

/-- One line of a payload sent to a peer module in the reduction class (R321, R343). -/
def Device.sendReduction (d : Device) (c : Context) (r : ReduceConfig) (peer : Nat) (t : TreeTag) (level phase : Nat) (down : Bool) (i total : Nat)
    (hdr line : List Byte) : Device :=
  match c.treeRoute peer with
  | none => d
  | some o => d.sendLines o.port 2 (reductionPacket r o peer t level phase down i total hdr line)

/-- The half of the next hop's C2 buffer toward a peer has space for `n` more lines (R436, R437). -/
def Device.c2Ready (d : Device) (c : Context) (peer : Nat) (down : Bool) (n : Nat) : Bool :=
  match c.treeRoute peer with
  | none => true
  | some o => decide (n ≤ d.ports[o.port].c2Room down)

/-- The down halves toward every Wyine child of a fabric die have space for `n` lines. -/
def Device.childrenReady (d : Device) (c : Context) (n : FdNode) (lines : Nat) : Bool :=
  (List.range (n.top - n.c)).all fun k => (n.child (n.c + 1 + k)).all fun peer => d.c2Ready c peer true lines

/-- The next hop of a level's line, a packet of two lines, has space for it: that of the parent module above the highest node, and at the
root those of the children, to which the line turns down (R436, R437). -/
def Device.hopReady (d : Device) (c : Context) (n : FdNode) (level : Nat) : Bool :=
  if level < n.top then true
  else match n.parent with
    | some peer => d.c2Ready c peer false 2
    | none => d.childrenReady c n 2

/-- One down line passed on: to position 0 of the arc, and to each Wyine child that the phase serves. Its header becomes that of the node of
this die that sends it (R314, R318, R321). -/
def Device.passDown (d : Device) (c : Context) (r : ReduceConfig) (n : FdNode) (t : TreeTag) (elems phase i : Nat) (line : List Byte) : Device :=
  let fd := r.treeFd
  let serves := fun (h : List Byte) => if phase = 1 then hdrPresent h else hdrWants h
  let from' := fun (level : Nat) => if i = 0 then downHeader phase level (n.k * n.m) line else line
  let d0 := d.modFd fd fun f => f.modTag t fun t => { t with down := t.down ++ [(phase, line)] }
  let cd0 := c.cdAt 0
  let own := match t.upLine n.c 1 0 with | some h => serves h | none => false
  let d1 := if own then
      (d0.modLadle cd0 fun k => k.modBucket t.bucket fun b => b.takeLine 0 true phase (from' (n.c + 1))).ladleTurn cd0
    else d0
  (List.range (n.top - n.c)).foldl (fun d k =>
    let level := n.c + 1 + k
    match n.child level, t.recvLine level 1 0 with
    | some peer, some h =>
      if serves h then
        let total := if phase = 1 then 1 + phase1Lines elems else 1 + phase2Down elems
        (d.sendReduction c r peer t level phase true i total h (from' level)).modFd fd fun f =>
          f.modTag t fun t => { t with downSent := t.downSent ++ [(level, phase, from' level)] }
      else d
    | _, _ => d) d1

/-- The lines of the root's down payload that its up payload makes ready are passed down in order. -/
def Device.rootDown (c : Context) (r : ReduceConfig) (n : FdNode) (tag : TreeTag) (elems : Nat) : Nat → Device → Device
  | 0, d => d
  | fuel + 1, d =>
    match d.fds[r.treeFd].tag c.tag tag.step tag.bucket with
    | none => d
    | some t =>
      match nextOf (dueDown elems (t.upLine n.top 1 0)) t.down.length with
      | none => d
      | some (phase, i) =>
        match rootLine elems n.top (n.k * n.m) phase i (t.upLine n.top) with
        | none => d
        | some l => Device.rootDown c r n tag elems fuel (d.passDown c r n t elems phase i l)

/-- An ended tag entry kept among the 64 most recent of its context (R323). -/
def FabricDie.keep (f : FabricDie) (t : TreeTag) : FabricDie :=
  let mine := f.digests.filter fun x => x.ctx == t.ctx
  { f with tags := f.tags.filter fun x => !x.isOf t.ctx t.step t.bucket
           digests := (f.digests.filter fun x => x.ctx != t.ctx) ++ mine.drop (mine.length - 63) ++ [t] }

/-- A tag entry that has served its bucket is retired (R310, R323). -/
def FabricDie.retire (f : FabricDie) (n : FdNode) (tag : TreeTag) (elems : Nat) : FabricDie :=
  match f.tag tag.ctx tag.step tag.bucket with
  | none => f
  | some t =>
    match t.upLine n.top 1 0 with
    | none => f
    | some h =>
      let ups := upTotals elems (hdrPresent h)
      let dt := downTotals elems h
      if (t.up.filter fun l => l.1 == n.top).length == ups.1 + ups.2 && t.down.length == dt.1 + dt.2 then f.keep t else f

/-- Line i of the payload that position 0 of the arc hands to its tree FD (R302). -/
def Device.baseLine (d : Device) (c : Context) (r : ReduceConfig) (t : TreeTag) (phase i : Nat) : Option (List Byte) :=
  (d.dies[c.cdAt 0].ladle.tagged t.step t.bucket).bind fun b => b.topLine (c.node r 0) phase i

/-- The computed line of a level put in the tag entry and handed on: over Wyine from the highest node held, and at the root down again
(R302, R321, R437). -/
def Device.raiseLine (d : Device) (c : Context) (r : ReduceConfig) (n : FdNode) (t : TreeTag) (elems level phase i : Nat) (line : List Byte) : Device :=
  let fd := r.treeFd
  let d1 := d.modFd fd fun f => f.modTag t fun t => { t with up := t.up ++ [(level, phase, line)] }
  let d2 := if level = c.logM then
      d1.modLadle (c.cdAt 0) fun k => k.modBucket t.bucket fun b => { b with upSent := b.upSent ++ [(phase, line)] }
    else d1
  if level < n.top then d2
  else match n.parent with
    | some peer =>
      let hdr := (t.upLine level 1 0).getD line
      let total := if phase = 1 then (upTotals elems (hdrPresent hdr)).1 else (upTotals elems (hdrPresent hdr)).2
      (d2.sendReduction c r peer t level phase false i total hdr line).modFd fd fun f =>
        f.modTag t fun t => { t with sent := t.sent ++ [(phase, line)] }
    | none => Device.rootDown c r n t elems (2 + phase1Lines elems + phase2Down elems) d2

/-- A C2 line of a Wyine child consumed by the addition: its buffer is freed (R342, R436). -/
def Device.freeUp (d : Device) (c : Context) (peer : Nat) : Device :=
  match c.routeTo peer with
  | none => d
  | some o => d.consumeC2 c o.port false 1

/-- The line that a level makes of its children's lines of a phase (R301, R313, R314, R321): the Course part's own line, the sum of two
children, or the line of an only child. -/
def Device.levelLine (d : Device) (c : Context) (r : ReduceConfig) (n : FdNode) (t : TreeTag) (level phase i : Nat) : Option (List Byte) :=
  if level = n.c then d.baseLine c r t phase i
  else if (n.child level).isNone then t.upLine (level - 1) phase i
  else match t.upLine (level - 1) 1 0, t.recvLine level 1 0 with
    | some ha, some hb =>
      joinNode phase i level (n.k * n.m) ha hb (t.upLine (level - 1) phase i) (t.recvLine level phase i)
    | _, _ => none

/-- The two children of a level have sent headers with other elems (R318). -/
def TreeTag.mismatch (t : TreeTag) (n : FdNode) (level : Nat) : Bool :=
  n.c < level && (match t.upLine (level - 1) 1 0, t.recvLine level 1 0 with
    | some ha, some hb => hdrElems ha != hdrElems hb
    | _, _ => false)

/-- The header of a Wyine child, met by another elems, is answered with SHAPE, and the bucket is stopped here (R318, R351). -/
def Device.stopTag (d : Device) (c : Context) (r : ReduceConfig) (n : FdNode) (t : TreeTag) (level : Nat) : Device :=
  let d1 := d.modFd r.treeFd fun f => f.modTag t fun t => { t with stopped := true }
  match (n.child level).bind fun peer => c.routeTo peer with
  | none => d1
  | some o =>
    let nak := packetHeader 1 0 0 o.job.toNat r.epoch.toNat r.rank o.peer.toNat 0 0 0 0 0 0
      (bytesLE 2 11 ++ bytesLE 4 t.bucket.toNat ++ bytesLE 1 2 ++ bytesLE 1 0)
    (d1.modPort o.port fun x => let y := x.pushNak nak; { y with refuse := upd y.refuse 10 fun n => n.add 1 }).portRecord o.port 11 c.tag
      (o.peer.toNat + 2 * 2 ^ 16 + t.bucket.toNat * 2 ^ 32)

/-- An upper-tree Ladle adds line i of a level once both children's lines are there; a node with one child passes it on (R301, R321).
Lines of a level and phase are made in order, and one that leaves the die waits for space in the next hop's half (R436). -/
def Device.treeAdd (d : Device) (fd : Fin 2) (slot : CtxSlot) (bucket : BitVec 16) (level phase i : Nat) : Device :=
  match d.ctxAt slot with
  | none => d
  | some c =>
    match c.reduce with
    | none => d
    | some r =>
      let n := c.fdNode r
      if r.treeFd ≠ fd ∨ r.modules = 1 ∨ c.withholds ∨ c.aborted ∨ d.isGone c.tag ∨ level < n.c ∨ n.top < level then d
      else if !d.hopReady c n level then d
      else
        let step := BitVec.ofNat 32 (d.stepNo c)
        let d0 := d.modFd fd fun f => f.openTag c.tag step bucket
        match d0.fds[fd].tag c.tag step bucket with
        | none => d
        | some t =>
          if t.stopped then d
          else if t.mismatch n level then d0.stopTag c r n t level
          else if (t.up.filter fun l => l.1 == level && l.2.1 == phase).length ≠ i then d
          else match d0.levelLine c r n t level phase i with
            | none => d
            | some l =>
              let elems := hdrElems ((t.upLine n.c 1 0).getD l)
              let used := (n.child level).bind fun peer => if (t.recvLine level phase i).isSome then some peer else none
              let d1 := match used with | some peer => d0.freeUp c peer | none => d0
              (d1.raiseLine c r n t elems level phase i l).modFd fd fun f => f.retire n t elems

/-- UPPER_TREE_LINE_ADD. -/
def execUpperTreeLineAdd (fd : Fin 2) (slot : CtxSlot) (bucket : BitVec 16) (level : Fin 17) (phase : Fin 2) (line : Nat) (s : State) :
    Host.Outcome State Fault Refusal :=
  .next { s with dev := s.dev.treeAdd fd slot bucket level.val (phase.val + 1) line }

/-- Elements of the tag's bucket, where this module knows them. -/
def Device.tagElems (d : Device) (c : Context) (n : FdNode) (t : TreeTag) : Option Nat :=
  match d.dies[c.cdAt 0].ladle.tagged t.step t.bucket with
  | some b => some b.elems
  | none => (t.upLine n.c 1 0).map hdrElems

/-- Down lines of a tag passed on in order, each with its number; a line already passed on is dropped (R321, R351). -/
def Device.takeDown (d : Device) (c : Context) (r : ReduceConfig) (n : FdNode) (tag : TreeTag) (phase : Nat) (ls : List (Nat × List Byte)) : Device :=
  (ls.foldl (fun d (i, l) =>
    match d.fds[r.treeFd].tag c.tag tag.step tag.bucket with
    | none => d
    | some t => if (t.downLines phase).length ≠ i then d else d.passDown c r n t ((d.tagElems c n t).getD (hdrElems l)) phase i l) d).modFd
    r.treeFd fun f => f.retire n tag ((d.tagElems c n tag).getD 0)

/-- The down lines that a tree FD has kept for a context while its credit was withheld go on, and the credit returns (R330). -/
def Device.resumeTree (d : Device) (c : Context) : Device :=
  let d1 := d.releaseCredit c.tag
  match c.reduce with
  | none => d1
  | some r =>
    (d1.fds[r.treeFd].tags.filter fun t => t.ctx == c.tag).foldl (fun d t =>
      t.downHeld.foldl (fun d (phase, i, l) => d.takeDown c r (c.fdNode r) t phase [(i, l)])
        (d.modFd r.treeFd fun f => f.modTag t fun t => { t with downHeld := [] })) d1

end Sys2Proof.Machine
end

