-- ==== Sys2Proof/Machine/Arrivals.lean ====
section
/-! DEFINITION. Transport: packets that arrive, messages that land, sends, NAKs, message credits, PING and ECHO (R318, R321, R324, R327,
R328, R343 to R355, R434, R435). -/

namespace Sys2Proof

open Sys2Proof.Machine

/-- The class of a header. -/
def Packet.code (k : Packet) : Nat := k.cls % 8
/-- Lines of a packet. -/
def Packet.lines (k : Packet) : List (List Byte) := k.header :: k.payload
/-- Step, bucket, level and kind of a class 2 packet. -/
def Packet.rStep (k : Packet) : Nat := field k.aux 0 4
/-- Bucket of the tag. -/
def Packet.rBucket (k : Packet) : Nat := field k.aux 4 2
/-- Level of the sending node. -/
def Packet.rLevel (k : Packet) : Nat := field k.aux 6 1
/-- Phase, 1 or 2. -/
def Packet.rPhase (k : Packet) : Nat := bits (field k.aux 7 1) 1 0
/-- The payload goes down. -/
def Packet.rDown (k : Packet) : Bool := bits (field k.aux 7 1) 2 2 == 1
/-- A line is a Ladle header of the tag, phase and direction that the packet names. -/
def Packet.ladleHeaderOk (k : Packet) (l : List Byte) : Bool :=
  gvOk (field l 0 1) 1 && field l 1 1 % 8 == field k.aux 7 1 % 8 && field l 4 4 == k.rStep && field l 8 2 == k.rBucket
/-- The packet has a row of its own: PING, ECHO, NAK, MCREDIT. -/
def Packet.ownRow (k : Packet) : Bool := decide (k.code ≤ 1) && decide (k.kind ≤ 1)
/-- Code that a NAK carries. -/
def Packet.nakCode (k : Packet) : Nat := field k.aux 0 2
/-- Refused message. -/
def Packet.nakMseq (k : Packet) : Nat := field k.aux 2 4
/-- Refused class. -/
def Packet.nakClass (k : Packet) : Nat := field k.aux 6 1
/-- Refused stream. -/
def Packet.nakStream (k : Packet) : Nat := field k.aux 7 1
/-- A NAK whose aux holds a value that the tables do not list is malformed (R10, R343, R351). -/
def Packet.nakBad (k : Packet) : Bool := k.nakCode == 0 || decide (13 < k.nakCode) || decide (4 < k.nakClass) || decide (31 < k.nakStream)

/-- Messages credited by an MCREDIT. -/
def Packet.credited (k : Packet) : Nat := field k.aux 2 2

end Sys2Proof

namespace Sys2Proof.Machine

/-! ### Packets in the receive buffers -/

/-- The packet is the oldest of a class's buffer. -/
def Port.isFront (x : Port) (c : Fin 5) (k : Packet) : Bool := decide (x.rx[c].take k.lines.length = k.lines)

/-- The buffer class that holds a packet at its front; a header with a reserved class may lie in any. -/
def Port.classOf (x : Port) (k : Packet) : Option (Fin 5) :=
  if k.payload.length ≠ headerLines k.header then none
  else (List.finRange 5).find? fun c => (c.val == k.code || decide (5 ≤ k.code)) && x.isFront c k

/-- A packet taken out of the receive buffer of its port: its class, and the device without it. -/
def Device.takePacket (d : Device) (p : PortNo) (k : Packet) : Option (Fin 5 × Device) :=
  (d.ports[p].classOf k).map fun c => (c, d.modPort p fun x => { x with rx := upd x.rx c fun q => q.drop k.lines.length })

/-- A route carries a packet that arrives at a port. -/
def routeMatches (p : PortNo) (k : Packet) (r : Route) : Bool := r.port == p && r.job.toNat == k.job && r.peer.toNat == k.src

/-- The context to which a packet of a route belongs, whose C2 credit may be withheld. -/
def Device.routeContext (d : Device) (p : PortNo) (k : Packet) : Option Context :=
  d.ctxs.find? fun c => c.routes.any (routeMatches p k)

/-- `n` lines of a packet consumed: their space is owed as credit, and leaves its half of a C2 buffer; the credit of C2 is withheld while
the context is FAULTED, pauses or is saved (R326, R330, R342, R354, R436). -/
def Device.freePart (d : Device) (p : PortNo) (c : Fin 5) (k : Packet) (n : Nat) : Device :=
  if c ≠ 2 then d.freeLines p c n
  else match d.routeContext p k with
    | some x => d.consumeC2 x p (headerDown k.header) n
    | none => d.freeC2 p (headerDown k.header) n

/-- Every line of a packet consumed. -/
def Device.freePacket (d : Device) (p : PortNo) (c : Fin 5) (k : Packet) : Device := d.freePart p c k k.lines.length

/-! ### Matching (R345, R352, R355) -/

/-- The context to which a packet belongs. -/
def Device.packetContext (d : Device) (p : PortNo) (k : Packet) : Option Context :=
  d.ctxs.find? fun c => c.routes.any (routeMatches p k) && !d.isGone c.tag

/-- Tag for the record of a refusal: 0 when no context matches. -/
def Device.packetTag (d : Device) (p : PortNo) (k : Packet) : BitVec 16 := ((d.packetContext p k).map (·.tag)).getD 0

/-- GEN, or MALFORMED, of a header: a generation or version not agreed; a reserved class, kind or line count; lines beyond the message. -/
def Device.headerFault (d : Device) (p : PortNo) (k : Packet) : Option Nat :=
  let gv := field k.header 0 1
  if gv % 4 ≠ d.ports[p].gen.toNat ∨ 1 < gv / 4 then some 2
  else if 4 < k.code ∨ (if k.code ≤ 1 then decide (1 < k.kind) else decide (0 < k.kind)) ∨ 64 < k.nlines then some 1
  else if k.code = 1 ∧ 0 < k.nlines then some 1
  else if 2 ≤ k.code ∧ k.mlines < k.poff + k.nlines then some 1
  else none

/-! ### Refusals (R351, R353, R435) -/

/-- The NAK packet that answers a refused packet. -/
def nakHeader (k : Packet) (code : Nat) : List Byte :=
  packetHeader 1 0 0 k.job k.epoch k.dst k.src 0 0 0 0 0 0 (bytesLE 2 code ++ bytesLE 4 k.mseq ++ bytesLE 1 k.code ++ bytesLE 1 k.stream)

/-- A packet refused: its buffer is freed, the refusal is counted and recorded, and a NAK answers it; NO_CREDIT closes the class for the
context (R352). -/
def Device.refuse (d : Device) (p : PortNo) (c : Fin 5) (k : Packet) (code : Nat) (ctx : BitVec 16) : Device :=
  let d1 := (d.freePacket p c k).modPort p fun x =>
    let y := x.pushNak (nakHeader k code)
    { y with
      refuse := upd y.refuse (idx 13 (code - 1)) fun n => n.add 1
      closed := if code = 5 && !y.closed.contains (ctx, BitVec.ofNat 3 k.code) then y.closed ++ [(ctx, BitVec.ofNat 3 k.code)] else y.closed }
  d1.portRecord p code ctx (k.src + k.code * 2 ^ 16 + k.stream * 2 ^ 24 + k.mseq * 2 ^ 32)

/-- Arrivals of the context are refused with PAUSED: it is saved, or the limit of its pause has passed (R354). -/
def Context.refusesArrivals (c : Context) : Bool := !c.resident || (c.pausing && c.pauseOver)

/-- Reduction lines of the context are refused with PAUSED: it pauses or is saved, and the limit of its pause has passed. Before that its tree
FD keeps them (R330, R354; log entry 54). -/
def Context.refusesReduction (c : Context) : Bool := c.pauseOver && (c.pausing || !c.resident)

/-! ### Landing data (R348, R350, R354) -/

/-- Payload lines written through the Pantry, in order: the device after the lines written, their numbers in the message, and the code and
line of a fault. -/
def Device.landLines (d : Device) (c : Context) (cd : Cd) (dpa : Nat) : Nat → List (List Byte) → List Nat → Device × List Nat × Option (Nat × Nat)
  | _, [], done => (d, done, none)
  | i, l :: t, done =>
    let a := wrap52 (dpa + 64 * done.length)
    match d.writeLine c cd .arrival a l with
    | .error e => (d, done, some (e, a))
    | .ok d1 => Device.landLines d1 c cd dpa (i + 1) t (done ++ [i])

/-- Lines of a message noted as written. -/
def Landing.add (l : Landing) (ns : List Nat) : Landing := { l with written := l.written ++ ns.filter fun n => !l.written.contains n }

/-- A receive stream after lines of a message: the message's first packet takes one of the credits that the peer held. -/
def RecvStream.land (r : RecvStream) (k : Packet) (ord : Nat) (ns : List Nat) : RecvStream :=
  let m : BitVec 32 := BitVec.ofNat 32 k.mseq
  if r.landing.any fun l => l.mseq == m then { r with landing := r.landing.map fun l => if l.mseq == m then l.add ns else l }
  else { r with held := r.held - 1, landing := r.landing ++ [({ mseq := m, mlines := k.mlines, ordinal := ord, written := [] } : Landing).add ns] }

/-- A receive stream after a message refused with PAUSED: it owes the message's credit again. -/
def RecvStream.pauseMessage (r : RecvStream) (k : Packet) : RecvStream :=
  let m : BitVec 32 := BitVec.ofNat 32 k.mseq
  if r.landing.any fun l => l.mseq == m then { r with landing := r.landing.filter fun l => l.mseq != m, owed := r.owed + 1 }
  else if k.poff = 0 ∧ 0 < r.held then { r with held := r.held - 1, owed := r.owed + 1 }
  else r

/-- An ordinal that the marks of a position cover: one of the 4,096 that the gather counter has not passed (R222, R348). -/
def Course.ordinalOk (k : Course) (ord : Nat) : Bool := decide ((BitVec.ofNat 32 ord - k.gather).toNat < 4096)

/-- The lines of an admitted data packet land; a line fault stops the packet with NAK PANTRY and the context FAULTED. -/
def Device.land (d : Device) (p : PortNo) (cls : Fin 5) (k : Packet) (c : Context) : Device :=
  let cd := c.cdAt k.pos
  let (d1, ns, bad) := d.landLines c cd (k.dpa % 2 ^ 52) k.poff k.payload []
  let d2 := d1.modCtx c.slot fun c => c.modRecv k.pos k.stream fun r => r.land k (field k.aux 0 4) ns
  match bad with
  | none => d2.freePacket p cls k
  | some (e, a) => (d2.memFault c (portIsland p) e a (64 * ns.length) true 0 0).refuse p cls k 10 c.tag

/-- A packet of class 3 or 4: its stream, ordinal and credit are checked, and it lands. With no wheel position of code 0x6 for its LPDDR5X
lines it stays in its buffer (R212, R350): `held` is the device with the packet still there. -/
def Device.arriveData (d held : Device) (p : PortNo) (cls : Fin 5) (k : Packet) (c : Context) : Device :=
  match c.recv k.pos k.stream with
  | none => d.refuse p cls k 4 c.tag
  | some r =>
    let going := r.landing.any fun l => l.mseq.toNat == k.mseq
    if r.cls ≠ cls.val ∨ r.peer.toNat ≠ k.src then d.refuse p cls k 4 c.tag
    else if c.refusesArrivals then (d.modCtx c.slot fun c => c.modRecv k.pos k.stream fun r => r.pauseMessage k).refuse p cls k 12 c.tag
    else if cls = 3 ∧ !going ∧ !(d.dies[c.cdAt k.pos].course.ordinalOk (field k.aux 0 4)) then d.refuse p cls k 1 c.tag
    else if !going ∧ r.held = 0 then d.refuse p cls k 5 c.tag
    else if !d.wheelServesRun c (c.cdAt k.pos) 6 (k.dpa % 2 ^ 52) (64 * k.payload.length) then held
    else d.land p cls k c

/-! ### Reduction packets (R310, R318, R321, R324, R328) -/

/-- The sender is the tree neighbour of its level and direction, and a payload begins with a Ladle header. -/
def reductionOk (n : FdNode) (k : Packet) : Bool :=
  (k.rPhase == 1 || k.rPhase == 2)
    && (if k.rDown then n.parent == some k.src else n.child (k.rLevel + 1) == some k.src)
    && (decide (k.poff ≠ 0) || (match k.payload with | l :: _ => k.ladleHeaderOk l | [] => true))

/-- The packet's header line names other elements (SHAPE). -/
def Device.wrongShape (d : Device) (c : Context) (n : FdNode) (t : TreeTag) (k : Packet) : Bool :=
  k.poff == 0 && (match k.payload, d.tagElems c n t with
    | l :: _, some e => hdrElems l != e
    | _, _ => false)

/-- An up packet's lines that the tag does not hold yet, in order: a line sent again is dropped, and so is one that follows a line which has
not been taken (R321, R351; log entry 46). -/
def newLines (k : Packet) (t : TreeTag) : List (List Byte) :=
  let held := (t.upRecv.filter fun l => l.1 == k.rLevel + 1 && l.2.1 == k.rPhase).length
  if held < k.poff then [] else k.payload.drop (held - k.poff)

/-- The lines of a taken packet lie beyond the tree credit of their direction: the half of the C2 buffer that the tree edge may fill (R342,
R351, R436; log entry 46). -/
def Port.overHalf (x : Port) (down : Bool) : Bool :=
  let half := if down then x.c2Down else x.c2Up
  decide (c2Half + ((lineDirs x.rx[(2 : Fin 5)].length x.rx[(2 : Fin 5)]).filter (· == down)).length < half)

/-- An accepted reduction packet: up lines wait for their addition in the C2 buffer, down lines pass on; while the context's credit is
withheld its tree FD keeps them (R321, R326, R330). A packet of down lines stays in its buffer, as in `held`, until every next hop has
space for them (R436, R437). -/
def Device.takeReduction (d held : Device) (p : PortNo) (cls : Fin 5) (k : Packet) (c : Context) (r : ReduceConfig) (n : FdNode) (t : TreeTag) :
    Device :=
  if k.rDown then
    let ls := k.payload.zipIdx.map fun (l, j) => (k.poff + j, l)
    let d1 := d.freePacket p cls k
    if !c.withholds && !d.childrenReady c n (2 * k.payload.length) then held
    else if c.withholds then d1.modFd r.treeFd fun f => f.modTag t fun t => { t with downHeld := t.downHeld ++ ls.map fun (i, l) => (k.rPhase, i, l) }
    else d1.takeDown c r n t k.rPhase ls
  else
    let new := newLines k t
    (d.freePart p cls k (k.lines.length - new.length)).modFd r.treeFd fun f => f.modTag t fun t =>
      { t with upRecv := t.upRecv ++ new.map fun l => (k.rLevel + 1, k.rPhase, l) }

/-- A packet of class 2: epoch, abort, form, pause, tree credit, tag and shape are checked in this order (log entry 46). A bucket that a header of
another shape has stopped takes nothing more (R318, R351). `held` is the device with the packet still in its buffer. -/
def Device.arriveReduction (d held : Device) (p : PortNo) (cls : Fin 5) (k : Packet) (c : Context) : Device :=
  match c.reduce with
  | none => d.refuse p cls k 4 c.tag
  | some r =>
    let n := c.fdNode r
    if r.modules ≤ 1 then d.refuse p cls k 4 c.tag
    else if k.epoch ≠ r.epoch.toNat then d.refuse p cls k 7 c.tag
    else if c.aborted then d.refuse p cls k 8 c.tag
    else if !reductionOk n k then d.refuse p cls k 1 c.tag
    else if c.refusesReduction then d.refuse p cls k 12 c.tag
    else if d.ports[p].overHalf (headerDown k.header) then d.refuse p cls k 5 c.tag
    else
      let d1 := d.modFd r.treeFd fun f => f.openTag c.tag (BitVec.ofNat 32 k.rStep) (BitVec.ofNat 16 k.rBucket)
      match d1.fds[r.treeFd].tag c.tag (BitVec.ofNat 32 k.rStep) (BitVec.ofNat 16 k.rBucket) with
      | none => d.refuse p cls k 13 c.tag
      | some t =>
        if t.stopped || d.wrongShape c n t k then
          (d1.modFd r.treeFd fun f => f.modTag t fun t => { t with stopped := true }).refuse p cls k 11 c.tag
        else d1.takeReduction held p cls k c r n t

/-! ### PACKET_ARRIVAL -/

/-- The code that answers a packet of no context: CONTEXT_GONE for a route of one that has been reset or destroyed (R345, R355). -/
def Device.unmatched (d : Device) (p : PortNo) (k : Packet) : Nat := if d.gone.any fun g => routeMatches p k g.route then 9 else 3

/-- A packet that has left its buffer is refused for its header, or goes to its context (R345, R352, R355). `held` is the device with the
packet still in its buffer. -/
def Device.arrive (d held : Device) (p : PortNo) (cls : Fin 5) (k : Packet) (body : Device → Context → Device) : Device :=
  match d.headerFault p k with
  | some code => d.refuse p cls k code (d.packetTag p k)
  | none =>
    match held.packetContext p k with
    | none => d.refuse p cls k (d.unmatched p k) 0
    | some c => if d.ports[p].closed.contains (c.tag, BitVec.ofNat 3 k.code) then d.refuse p cls k 6 c.tag else body d c

/-- A data packet at the front of its class's buffer. -/
def Device.packetArrival (d : Device) (p : PortNo) (k : Packet) : Device :=
  match d.takePacket p k with
  | none => d
  | some (cls, d1) =>
    if k.ownRow then d
    else d1.arrive d p cls k fun d1 c => if cls = 2 then d1.arriveReduction d p cls k c else d1.arriveData d p cls k c

/-- PACKET_ARRIVAL. -/
def execPacketArrival (port : PortNo) (packet : Packet) (s : State) : Host.Outcome State Fault Refusal :=
  .next { s with dev := s.dev.packetArrival port packet }

/-! ### MESSAGE_LANDED (R348) -/

/-- The gather counter passes every ordinal that is marked in turn. -/
def Course.advance : Nat → Course → Course
  | 0, k => k
  | n + 1, k => if k.marks.contains k.gather.toNat then Course.advance n { k with gather := k.gather + 1, marks := k.marks.erase k.gather.toNat } else k

/-- An ordinal marked as landed. -/
def Course.mark (k : Course) (ord : Nat) : Course := Course.advance (k.marks.length + 1) { k with marks := k.marks ++ [ord] }

/-- A stream whose message has landed. -/
def RecvStream.landedMessage (r : RecvStream) (l : Landing) : RecvStream :=
  let r1 := { r with landing := r.landing.filter fun x => x.mseq != l.mseq }
  if r.cls = 3 then { r1 with ordinals := r1.ordinals ++ [l.ordinal] } else { r1 with landed := r1.landed + 1 }

/-- Every line of a message is written: the landed count rises, or the ordinal is marked. -/
def Device.messageLanded (d : Device) (slot : CtxSlot) (pos stream : Nat) (mseq : BitVec 32) : Device :=
  match d.ctxAt slot with
  | none => d
  | some c =>
    match c.recv pos stream with
    | none => d
    | some r =>
      match r.landing.find? fun l => l.mseq == mseq with
      | none => d
      | some l =>
        if l.written.length < l.mlines then d
        else
          let d1 := d.modCtx slot fun c => c.modRecv pos stream fun r => r.landedMessage l
          if r.cls = 3 then d1.modCourse (c.cdAt pos) fun k => k.mark l.ordinal else d1

/-- MESSAGE_LANDED. -/
def execMessageLanded (slot : CtxSlot) (pos : Fin 16) (stream : Fin 32) (mseq : BitVec 32) (s : State) : Host.Outcome State Fault Refusal :=
  .next { s with dev := s.dev.messageLanded slot pos.val stream.val mseq }

/-! ### SEND_ENTRY_DEPART (R343, R349, R354) -/

/-- The packets of a message from a line on: headers and payload lines in order. -/
def messageLines (job rank cls mseq : Nat) (e : SendEntry) : Nat → Nat → List (List Byte) → List (List Byte)
  | 0, _, _ => []
  | _, _, [] => []
  | fuel + 1, poff, ls =>
    let now := ls.take 64
    packetHeader cls 0 now.length job 0 rank e.peer.toNat e.pos e.stream mseq poff e.lines (wrap52 (e.dst.toNat + 64 * poff))
        (if cls = 3 then bytesLE 4 e.ordinal else [])
      :: now ++ messageLines job rank cls mseq e fuel (poff + 64) (ls.drop 64)

/-- A byte string cut into lines. -/
def cutLines : Nat → List Byte → List (List Byte)
  | 0, _ => []
  | n + 1, bs => bs.take 64 :: cutLines n (bs.drop 64)

/-- The message that a stream sends next, by entry and sequence: a refused one whose credit has returned, with the lines that it carried,
else the oldest released entry, whose lines are still to be read (R349, R354). -/
def SendStream.due (r : SendStream) : Option (Nat × BitVec 32 × Option (List (List Byte))) :=
  match r.resend.find? fun x => x.2 with
  | some (m, _) => some (m.entry, m.mseq, some m.lines)
  | none => r.unread.head?.map fun e => (e, r.mseq, none)

/-- A stream after a message of these lines has gone out. -/
def SendStream.gone (r : SendStream) (e : Nat) (m : BitVec 32) (ls : List (List Byte)) (again : Bool) : SendStream :=
  if again then { r with resend := r.resend.filter fun x => x.1.mseq != m }
  else { r with unread := r.unread.tail, mseq := m + 1, sent := r.sent ++ [{ mseq := m, entry := e, lines := ls }] }

/-- Message credits held for a destination stream (R349). -/
def Plan.credit (p : Plan) (t : MsgDest) : Option Nat := (p.credits.find? fun x => x.1 == t).map (·.2)

/-- Those credits rewritten. -/
def Context.modCredit (c : Context) (t : MsgDest) (f : Nat → Nat) : Context :=
  { c with plan := c.plan.map fun p => { p with credits := p.credits.map fun x => if x.1 == t then (x.1, f x.2) else x } }

/-- A released entry with a message credit is read over the spur and goes to the port of its peer's route; a refused message goes out again with
the bytes that it carried (R349, R354). A context that is being reset sends nothing (R421). -/
def Device.sendDepart (d : Device) (slot : CtxSlot) (pos stream : Nat) : Device :=
  match d.ctxAt slot with
  | none => d
  | some c =>
    match c.send pos stream with
    | none => d
    | some r =>
      match r.due with
      | none => d
      | some (no, m, kept) =>
        match c.plan.bind fun q => (q.sendEntries[no]?).map fun e => (e, (q.credit e.dest).getD 0) with
        | none => d
        | some (e, credit) =>
          match c.routeTo e.peer.toNat with
          | none => d
          | some o =>
            if !c.resident || c.cond == .faulted || d.isGone c.tag || r.stopped || credit == 0 then d
            else
              let go := fun (d : Device) (ls : List (List Byte)) =>
                (d.modCtx slot fun c => (c.modSend pos stream fun r => r.gone no m ls kept.isSome).modCredit e.dest fun n => n - 1).sendLines o.port
                  (idx 5 r.cls) (messageLines o.job.toNat c.rank r.cls m.toNat e (e.lines + 1) 0 ls)
              match kept with
              | some ls => go d ls
              | none =>
                let d1 := d.eccRun c (c.cdAt pos) .send e.src.toNat (64 * e.lines)
                match d.readBytes c (c.cdAt pos) .send e.src.toNat (64 * e.lines) with
                | .error (x, l) => d1.memFault c (portIsland o.port) x l (l - lineOf e.src.toNat) false 0 0
                | .ok bs => go d1 (cutLines e.lines bs)

/-- SEND_ENTRY_DEPART. -/
def execSendEntryDepart (slot : CtxSlot) (pos : Fin 16) (stream : Fin 32) (s : State) : Host.Outcome State Fault Refusal :=
  .next { s with dev := s.dev.sendDepart slot pos.val stream.val }

/-! ### NAKs, message credits, PING and ECHO (R327, R351, R434, R435) -/

/-- A row of class 0 or 1: a packet of that kind at the front of its buffer, with a header that is accepted. -/
def Device.controlPacket (d : Device) (p : PortNo) (k : Packet) (code kind : Nat) (body : Device → Fin 5 → Device) : Device :=
  match d.takePacket p k with
  | none => d
  | some (cls, d1) =>
    if k.code ≠ code ∨ k.kind ≠ kind then d
    else match d1.headerFault p k with
      | some f => d1.refuse p cls k f (d1.packetTag p k)
      | none => body d1 cls

/-- The FABRIC_NAK event. -/
def Device.fabricNak (d : Device) (c : Context) (p : PortNo) (k : Packet) : Device :=
  d.event (.ctx c.slot) 0x85 (bytesLE 1 p.val ++ bytesLE 1 k.nakCode ++ bytesLE 2 k.src ++ bytesLE 1 k.nakClass ++ bytesLE 1 k.nakStream ++ zeros 2
    ++ bytesLE 4 k.nakMseq)

/-- An entry of a plan goes to a peer's stream. -/
def entryTo (es : List SendEntry) (e peer stream : Nat) : Bool := (es[e]?).any fun x => x.peer.toNat == peer && x.stream == stream

/-- The send stream whose message a NAK refuses, with the message. -/
def Context.refusedSend (c : Context) (k : Packet) : Option (SendStream × SentMsg) :=
  c.plan.bind fun q => q.sends.findSome? fun r =>
    if r.cls ≠ k.nakClass then none
    else ((r.sent.filter fun s => s.mseq.toNat == k.nakMseq && entryTo q.sendEntries s.entry k.src k.nakStream).getLast?).map fun s => (r, s)

/-- A refused message waits to be sent again until its credit returns (R351, R354). -/
def SendStream.again (r : SendStream) (m : SentMsg) : SendStream :=
  if r.resend.any fun x => x.1.mseq == m.mseq then r else { r with resend := r.resend ++ [(m, false)] }

/-- The first `n` refused messages to a destination that wait for their credit have it back; with those still to be told. -/
def armFirst (to' : Nat → Bool) : Nat → List (SentMsg × Bool) → List (SentMsg × Bool) × Nat
  | n, [] => ([], n)
  | 0, l => (l, 0)
  | n + 1, x :: t =>
    if !x.2 && to' x.1.entry then
      let y := armFirst to' n t
      ((x.1, true) :: y.1, y.2)
    else
      let y := armFirst to' (n + 1) t
      (x :: y.1, y.2)

/-- Message credits returned for a destination stream: the refused messages to it, oldest first, may go out again (R354). -/
def Plan.arm (p : Plan) (t : MsgDest) (n : Nat) : Plan :=
  let to' := fun (e : Nat) => (p.sendEntries[e]?).any fun x => x.dest == t
  let go := p.sends.foldl (fun (a : List SendStream × Nat) r =>
    let y := armFirst to' a.2 r.resend
    (a.1 ++ [{ r with resend := y.1 }], y.2)) ([], n)
  { p with sends := go.1 }

/-- A waiting packet header is of the stream to which a NAK answers: of the reduction toward the peer, or of the send stream's entries. -/
def nakNames (es : List SendEntry) (r : SendStream) (k : Packet) (h : List Byte) : Bool :=
  field h 4 4 == k.job && field h 0xE 2 == k.src && (k.nakClass == 2 || (List.range r.count).any fun i =>
    (es[r.first + i]?).any fun e => e.dest == { peer := field h 0xE 2, pos := field h 0x10 1, stream := field h 0x11 1 })

/-- The stream that a NAK names is stopped, or the reduction toward the peer: nothing more of it is sent (R351). -/
def Device.stopStream (d : Device) (c : Context) (p : PortNo) (k : Packet) : Device :=
  let es := (c.plan.map fun q => q.sendEntries).getD []
  let drop := fun (d : Device) (r : SendStream) => d.modPort p fun x => x.dropWaiting (idx 5 k.nakClass) (nakNames es r k)
  if k.nakClass = 2 then drop (d.modCtx c.slot fun c => { c with treeStopped := c.treeStopped ++ [BitVec.ofNat 16 k.src] }) { pos := 0, stream := 0, cls := 2, depth := 0, first := 0, count := 0 }
  else match c.refusedSend k with
    | some (r, _) => drop (d.modCtx c.slot fun c => c.modSend r.pos r.stream fun r => { r with stopped := true }) r
    | none => d

/-- The tag entry of a context that a NAK of class 2 names by its bucket: a live one, else the latest that has ended. -/
def FabricDie.named (f : FabricDie) (ctx bucket : BitVec 16) : Option TreeTag :=
  (f.tags ++ f.digests.reverse).find? fun t => t.ctx == ctx && t.bucket == bucket

/-- REDUCE_PEER_GONE, once for the tag that the refused packet names (R327). -/
def Device.peerGone (d : Device) (c : Context) (p : PortNo) (k : Packet) : Device :=
  match c.reduce with
  | none => d
  | some r =>
    match d.fds[r.treeFd].named c.tag (BitVec.ofNat 16 k.nakMseq) with
    | none => d
    | some t =>
      if t.goneTold then d
      else
        let told := fun (x : TreeTag) => if x = t then { x with goneTold := true } else x
        (d.modFd r.treeFd fun f => { f with tags := f.tags.map told, digests := f.digests.map told }).event (.ctx c.slot) 0x84
          (bytesLE 4 t.step.toNat ++ bytesLE 2 t.bucket.toNat ++ bytesLE 2 k.src ++ bytesLE 1 p.val)

/-- Lines of class 2 that wait at a port until credit returns, unless they wait already (R351, R354). -/
def Port.holdC2 (x : Port) (ls : List (List Byte)) : Port :=
  if x.c2Wait.contains (ls.headD []) then x else { x with c2Wait := x.c2Wait ++ ls }

/-- The lines that a tag has sent to a peer wait to be sent again from the first: those of its parent, or of the Wyine child of a level
(R351). -/
def Device.resendTree (d : Device) (c : Context) (k : Packet) : Device :=
  match c.reduce with
  | none => d
  | some r =>
    match d.fds[r.treeFd].named c.tag (BitVec.ofNat 16 k.nakMseq) with
    | none => d
    | some t =>
      let n := c.fdNode r
      let again := fun (level : Nat) (down : Bool) (ls : List (Nat × List Byte)) (d : Device) =>
        match c.treeRoute k.src with
        | none => d
        | some o => d.modPort o.port fun x => x.holdC2 (([1, 2] : List Nat).flatMap fun ph =>
            let mine := (ls.filter fun l => l.1 == ph).map (·.2)
            mine.zipIdx.flatMap fun (l, i) => reductionPacket r o k.src t level ph down i mine.length (mine.headD []) l)
      if n.parent = some k.src then again n.top false t.sent d
      else (List.range (n.top + 1)).foldl (fun d level =>
        if n.child level = some k.src then again level true ((t.downSent.filter fun l => l.1 == level).map fun l => l.2) d else d) d

/-- The sender's action on a NAK (R351, R431). -/
def Device.nakAction (d : Device) (c : Context) (p : PortNo) (k : Packet) : Device :=
  if k.nakCode = 12 then
    if k.nakClass = 2 then d.resendTree c k
    else match c.refusedSend k with
      | some (r, m) => d.modCtx c.slot fun c => c.modSend r.pos r.stream fun r => r.again m
      | none => d
  else if k.nakCode = 9 ∧ k.nakClass = 2 then d.peerGone c p k
  else if k.nakCode = 8 then d.fabricNak c p k
  else (d.stopStream c p k).fabricNak c p k

/-- A NAK at the front of the C1 buffer. -/
def Device.nakArrival (d : Device) (p : PortNo) (k : Packet) : Device :=
  d.controlPacket p k 1 0 fun d1 cls =>
    match d1.packetContext p k with
    | none => d1.refuse p cls k (d1.unmatched p k) 0
    | some c => if k.nakBad then d1.refuse p cls k 1 c.tag else (d1.nakAction c p k).freePacket p cls k

/-- NAK_ARRIVAL. -/
def execNakArrival (port : PortNo) (packet : Packet) (s : State) : Host.Outcome State Fault Refusal :=
  .next { s with dev := s.dev.nakArrival port packet }

/-- The destination stream that an MCREDIT names: a receive stream of its sender. -/
def creditDest (k : Packet) : MsgDest := { peer := k.src, pos := k.pos, stream := field k.aux 0 1 }

/-- Message credits return for the destination stream (R435). -/
def Device.mcreditArrival (d : Device) (p : PortNo) (k : Packet) : Device :=
  d.controlPacket p k 1 1 fun d1 cls =>
    match d1.packetContext p k with
    | none => d1.refuse p cls k (d1.unmatched p k) 0
    | some c =>
      if k.credited = 0 ∨ 64 < k.credited then d1.refuse p cls k 1 c.tag
      else match c.plan.bind fun q => q.credit (creditDest k) with
        | none => d1.refuse p cls k 4 c.tag
        | some _ => (d1.modCtx c.slot fun c =>
            let c1 := c.modCredit (creditDest k) fun n => n + k.credited
            { c1 with plan := c1.plan.map fun q => q.arm (creditDest k) k.credited }).freePacket p cls k

/-- MCREDIT. -/
def execMcredit (port : PortNo) (packet : Packet) (s : State) : Host.Outcome State Fault Refusal :=
  .next { s with dev := s.dev.mcreditArrival port packet }

/-- The ECHO that answers a PING. -/
def echoHeader (k : Packet) : List Byte := packetHeader 0 1 0 k.job k.epoch k.dst k.src 0 0 k.mseq 0 0 0 k.aux

/-- A PING of a context is answered against the credit that it carries (R345, R434). -/
def Device.pingArrival (d : Device) (p : PortNo) (k : Packet) : Device :=
  d.controlPacket p k 0 0 fun d1 cls =>
    if (d1.packetContext p k).isNone then d1.refuse p cls k (d1.unmatched p k) 0
    else ((d1.freePacket p cls k).modPort p fun x => { x with credits := upd x.credits 0 fun n => n + 1 }).sendLines p 0 [echoHeader k]

/-- PING. -/
def execPing (port : PortNo) (packet : Packet) (s : State) : Host.Outcome State Fault Refusal :=
  .next { s with dev := s.dev.pingArrival port packet }

/-- An ECHO of a context arrives into the buffer reserved for it, which returns no credit (R345, R434). -/
def Device.echoArrival (d : Device) (p : PortNo) (k : Packet) : Device :=
  d.controlPacket p k 0 1 fun d1 cls =>
    if (d1.packetContext p k).isNone then d1.refuse p cls k (d1.unmatched p k) 0
    else if d1.ports[p].echoReserved = 0 then d1.freePacket p cls k
    else d1.modPort p fun x => { x with echoReserved := x.echoReserved - 1, rxHeld := upd x.rxHeld 0 fun n => n - k.lines.length }

/-- ECHO. -/
def execEcho (port : PortNo) (packet : Packet) (s : State) : Host.Outcome State Fault Refusal :=
  .next { s with dev := s.dev.echoArrival port packet }

end Sys2Proof.Machine
end

