-- ==== Sys2Proof/Machine/Reduce.lean ====
section
/-! DEFINITION. The reduction descriptors: configuration, fence, abort, digests (R303, R323, R325, R328, R373, R386). -/

namespace Sys2Proof.Machine

/-! ### Configuration (R303, R325) -/

/-- The configuration that a REDUCE_CONFIG entry names; none for a field out of range. -/
def reduceOf (e : List Byte) : Option ReduceConfig :=
  let m := field e 8 2
  let rank := field e 0xA 2
  let fd := field e 0x10 1
  let log := field e 0x14 4
  let n := field e 0x18 2
  if 1 ≤ m ∧ m ≤ 4096 ∧ rank < m ∧ fd ≤ 1 ∧ 1 ≤ n ∧ n ≤ 4096 ∧ log + 128 * n ≤ 0x80000000 then
    some { modules := m, rank := rank, epoch := BitVec.ofNat 32 (field e 0xC 4), treeFd := idx 2 fd, log := BitVec.ofNat 32 log, logEntries := n }
  else none

/-- A configuration changes epoch, modules or rank. -/
def reduceChanges (o : Option ReduceConfig) (r : ReduceConfig) : Bool :=
  match o with
  | some x => x.epoch != r.epoch || x.modules != r.modules || x.rank != r.rank
  | none => true

/-- REDUCE_CONFIG at the head of its ring. -/
def Device.reduceConfig (d : Device) (c : Context) (t : Taken) : Device :=
  match reduceOf t.entry with
  | none => d.answer (.ctx c.slot) t 0x32
  | some r =>
    if reduceChanges c.reduce r && !c.fenced then d.answer (.ctx c.slot) t 0x30
    else (d.modCtx c.slot fun c => { c with reduce := some r }).answer (.ctx c.slot) t 0

/-- REDUCE_CONFIG. -/
def execReduceConfig (slot : CtxSlot) (s : State) : Host.Outcome State Fault Refusal :=
  .next { s with dev := s.dev.descriptor slot 0x20 { run := .refused 0x31 } Device.reduceConfig }

/-! ### Fence (R325) -/

/-- No bucket of the context is open or outstanding, and its tree FD holds no tag entry. -/
def Device.drained (d : Device) (c : Context) : Bool :=
  (c.cds.all fun cd => d.dies[cd].ladle.buckets.all fun b => b.state == .aborted || b.state == .completed)
    && (match c.reduce with
      | some r => d.fds[r.treeFd].tags.all fun t => t.ctx != c.tag
      | none => true)

/-- A fence whose condition holds completes and ends the aborted state; another one keeps the head. -/
def Device.fenceTry (d : Device) (c : Context) (t : Taken) : Device :=
  if d.drained c then (d.modCtx c.slot fun c => { c with aborted := false, fenced := true }).answer (.ctx c.slot) t 0 else d

/-- REDUCE_FENCE. -/
def execReduceFence (slot : CtxSlot) (s : State) : Host.Outcome State Fault Refusal :=
  .next { s with dev := s.dev.descriptor slot 0x21 { run := .acts } Device.fenceTry }

/-- The fence that holds the head of a resident context's ring completes once its condition holds. -/
def Device.fenceComplete (d : Device) (slot : CtxSlot) : Device :=
  match d.ctxAt slot with
  | none => d
  | some c =>
    match c.head with
    | none => d
    | some t => if t.op = 0x21 ∧ c.resident ∧ c.cond ≠ .faulted ∧ !d.underReset (.ctx slot) then d.fenceTry c t else d

/-- REDUCE_FENCE_COMPLETE. -/
def execReduceFenceComplete (slot : CtxSlot) (s : State) : Host.Outcome State Fault Refusal :=
  .next { s with dev := s.dev.fenceComplete slot }

/-! ### Abort (R328, R386) -/

/-- The completion code ABORTED of a bucket (R311). -/
def codeAborted : Nat := 1

/-- One bucket ended by an abort: an outstanding one ends ABORTED, an open one is marked; both log their digests (R323, R328). -/
def Device.abortBucket (d : Device) (c : Context) (cd : Cd) (b : Bucket) : Device :=
  match c.reduce with
  | none => d.modLadle cd fun k => k.modBucket b.number fun b => { b with state := .aborted }
  | some r =>
    let t := c.node r (c.posOf cd)
    if b.state = .outstanding then
      let (d1, present, counts) := d.treeCounts b t
      (d1.endBucket c cd b t r codeAborted present counts).1
    else
      let (d1, ok) := d.logDigest c cd b t r codeAborted
      d1.modLadle cd fun k => k.modBucket b.number fun b => { b with state := .aborted, logged := ok }

/-- The Course streams of an arc without the lines of the buckets that an abort has ended: every line is dropped, and every stream
holds its 512 credits (R320, R328). -/
def Device.clearStreams (d : Device) (c : Context) : Device :=
  d.modArc c fun _ x => { x with
    ladle := { x.ladle with wire := [], upCredits := Vector.replicate 4 512, downCredits := Vector.replicate 4 512 }
    course := { x.course with passCw := [], passCcw := [] } }

/-- Every open and outstanding bucket of the context ended. -/
def Device.abortBuckets (d : Device) (c : Context) : Device :=
  (c.cds.foldl (fun d cd =>
    (d.dies[cd].ladle.buckets.filter fun b => b.state == .isOpen || b.state == .outstanding).foldl (fun d b => d.abortBucket c cd b) d)
    d).clearStreams c

/-- Lines of a level received over Wyine and not yet added. -/
def TreeTag.unread (t : TreeTag) (level : Nat) : Nat :=
  (([1, 2] : List Nat).map fun p =>
    let got := (t.upRecv.filter fun l => l.1 == level && l.2.1 == p).length
    got - (t.up.filter fun l => l.1 == level && l.2.1 == p).length).sum

/-- The C2 buffers of a tag entry's unread lines are freed (R342, R421). -/
def Device.freeTag (d : Device) (c : Context) (n : FdNode) (t : TreeTag) : Device :=
  (List.range (n.top + 1)).foldl (fun d level =>
    match n.child level with
    | some peer => (List.range (t.unread level)).foldl (fun d _ => d.freeUp c peer) d
    | none => d) d

/-- The tag entries of a context at its tree FD ended with a code; their digests stay among the 64 most recent, and their C2 lines are freed
(R323, R328, R386). -/
def Device.endTags (d : Device) (c : Context) (code : Nat) : Device :=
  match c.reduce with
  | none => d
  | some r =>
    let mine := d.fds[r.treeFd].tags.filter fun t => t.ctx == c.tag
    (mine.foldl (fun d t => d.freeTag c (c.fdNode r) t) d).modFd r.treeFd fun f =>
      mine.foldl (fun f t => f.keep { t with code := BitVec.ofNat 8 code, downHeld := [] }) f

/-- REDUCE_ABORT at the head of its ring: the aborted state begins; buckets of a saved context end at its restore (R328, R386). -/
def Device.reduceAbort (d : Device) (c : Context) (t : Taken) : Device :=
  let d1 := d.modCtx c.slot fun c => { c with aborted := true }
  let d2 := d1.endTags c codeAborted
  (if c.resident then d2.abortBuckets c else d2).answer (.ctx c.slot) t 0

/-- REDUCE_ABORT. -/
def execReduceAbort (slot : CtxSlot) (s : State) : Host.Outcome State Fault Refusal :=
  .next { s with dev := s.dev.descriptor slot 0x22 { saved := true, faulted := true, run := .acts } Device.reduceAbort }

/-! ### Digests (R323, R373) -/

/-- The 26 digests of a tag entry (R373). -/
def TreeTag.digests (t : TreeTag) (n : FdNode) : List (Nat × Bool) :=
  let own := t.upLine n.top 1 0
  let elems := (own.map hdrElems).getD 0
  let d0 := payloadDigest (t.sent.map (·.2)) (if n.root then (0, 0) else dueUp elems own)
  let d1 := payloadDigest (if n.root then [] else t.down.map (·.2)) (if n.root then (0, 0) else dueDown elems own)
  [d0, d1] ++ (List.range 12).flatMap fun k =>
    let level := n.c + 1 + k
    let h := t.recvLine level 1 0
    let size := (h.map hdrElems).getD 0
    [payloadDigest ((t.upRecv.filter fun l => l.1 == level).map (·.2.2)) (dueUp size h),
     payloadDigest ((t.downSent.filter fun l => l.1 == level).map (·.2.2)) (dueDown size h)]

/-- The 256-byte digest record (R373). -/
def digestRecord (code top step bucket epoch : Nat) (ds : List (Nat × Bool)) : List Byte :=
  let valid := (ds.zipIdx.map fun (x, i) => if x.2 then pow2 i else 0).sum
  pad 256 (bytesLE 1 5 ++ bytesLE 1 code ++ bytesLE 1 top ++ zeros 1 ++ bytesLE 4 step ++ bytesLE 2 bucket ++ zeros 2 ++ bytesLE 4 epoch
    ++ bytesLE 4 valid ++ zeros 12 ++ ds.flatMap fun x => bytesLE 8 x.1)

/-- The tag entry, live or ended, of a step and bucket of a context. -/
def FabricDie.find (f : FabricDie) (ctx : BitVec 16) (step bucket : Nat) : Option TreeTag :=
  (f.tags ++ f.digests.reverse).find? fun t => t.ctx == ctx && t.step.toNat == step && t.bucket.toNat == bucket

/-- REDUCE_DIGEST at the head of its ring. -/
def Device.reduceDigest (d : Device) (c : Context) (t : Taken) : Device :=
  let step := field t.entry 8 4
  let bucket := field t.entry 0xC 2
  let rec' := match c.reduce with
    | none => digestRecord 0xFF 0 step bucket 0 []
    | some r =>
      match d.fds[r.treeFd].find c.tag step bucket with
      | none => digestRecord 0xFF (c.fdNode r).top step bucket r.epoch.toNat []
      | some g => digestRecord g.code.toNat (c.fdNode r).top step bucket r.epoch.toNat (g.digests (c.fdNode r))
  match d.hdWrite c (entDpa t.entry 0x10) rec' with
  | (d1, none) => d1.answer (.ctx c.slot) t 0
  | (d1, some r) => d1.answerFault c t r []

/-- REDUCE_DIGEST. -/
def execReduceDigest (slot : CtxSlot) (s : State) : Host.Outcome State Fault Refusal :=
  .next { s with dev := s.dev.descriptor slot 0x23 { saved := true, faulted := true, run := .acts } Device.reduceDigest }

end Sys2Proof.Machine
end

