-- ==== Sys2Proof/Machine/Scan.lean ====
section
/-! DEFINITION. The images of the module's units: the layouts of the Cox, the Whisk, a queue entry and a tile header, and the data of each unit
in a dump (R87, R118, R142, R383, R429). -/

namespace Sys2Proof.Machine

/-! ### Layouts of the save area (R87, R118, R142, R383) -/

/-- Run state code of a Cox (R142). -/
def CoxRun.code : CoxRun → Nat
  | .idle => 0
  | .running => 1
  | .haltWait => 2

/-- Bits of a list as a number, first bit lowest. -/
def bitsOf (l : List Bool) : Nat := (l.zipIdx.map fun (b, i) => if b then pow2 i else 0).sum

/-- Bytes 0x000 to 0x3FF of the Cox save image (R142); p0 is always 1 (R120). -/
def Cox.image (k : Cox) : List Byte :=
  bytesLE 1 5 ++ bytesLE 1 k.run.code ++ bytesLE 2 k.pc.toNat ++ zeros 12 ++ k.pend.toList.flatMap (fun b => bytesLE 1 b.toNat) ++ zeros 32
    ++ k.g.toList.flatMap (fun v => bytesLE 8 v.toNat) ++ bytesLE 1 (bitsOf (k.p.set 0 true).toList) ++ zeros 63
    ++ k.s.toList.flatMap (fun v => bytesLE 8 v.toNat) ++ k.counters.toList.flatMap (fun v => bytesLE 8 v.toNat)
    ++ bytesLE 2 (bitsOf k.ovf.toList) ++ zeros 398

/-- A queue entry in the layout of the save area (R383). -/
def QEntry.image (e : QEntry) : List Byte :=
  bytesLE 8 e.word.toNat ++ bytesLE 8 e.ga.toNat ++ bytesLE 8 e.gb.toNat ++ bytesLE 2 e.imm.toNat
    ++ bytesLE 1 (if e.started then 1 else 0) ++ bytesLE 5 e.progress.toNat

/-- The queues of a die in the layout of the save area (R383). -/
def Die.queueImage (x : Die) : List Byte := x.queues.toList.flatMap fun q => pad 0x800 (q.flatMap QEntry.image)

/-- The links of a die in the layout of the save area (R383). -/
def Die.linkImage (x : Die) : List Byte := pad 0x100 (x.links.flatMap fun l => bytesLE 1 l.credits ++ bytesLE 1 l.tokens ++ zeros 6)

/-- An element register in the Whisk save image: 256 lanes of 4 bytes (R118). -/
def EReg.image (r : EReg) : List Byte := pad 0x400 (r.blocks.flatMap fun b => pad 128 (b.i.flatMap fun v => bytesLE 4 v.toNat))

/-- Non-finite codes of an element register, 2 bits a lane (R118). -/
def EReg.codes (r : EReg) : List Byte :=
  let v := (((r.blocks.flatMap fun b => (b.nf ++ List.replicate 32 0).take 32).zipIdx).map fun (c, i) => c.toNat * 4 ^ i).sum
  bytesLE 64 v

/-- Block exponents of an element register (R118). -/
def EReg.exps (r : EReg) : List Byte := pad 16 (r.blocks.flatMap fun b => bytesLE 2 (b.e % 65536).toNat)

/-- A flag with the value that it has when set. -/
def flagAt (b : Bool) (v : Nat) : Nat := if b then v else 0

/-- The flags of a reduction state (R118): NaN, infinities and finite values met, and the exponents of the largest and the smallest finite
value (DESIGN CHOICE, log entry 16). -/
def Reduction.flags (r : Reduction) : Nat :=
  flagAt r.nan 1 + flagAt r.pos 2 + flagAt r.neg 4 + flagAt r.hi.isSome 8 + flagAt r.lo.isSome 16
    + 32 * (((r.hi.map Dy.e).getD 0) % 2048).toNat + 65536 * (((r.lo.map Dy.e).getD 0) % 2048).toNat

/-- A reduction state: its exact sum as a two's complement integer in units of 2⁻¹⁰²⁴, then count, largest, smallest and flags (R114, R118;
the unit and the use of the flags are a DESIGN CHOICE, log entry 16). -/
def Reduction.image (r : Reduction) : List Byte :=
  let word := fun (v : Option Dy) => bytesLE 4 (((v.map Dy.m).getD 0) % 2 ^ 32).toNat
  bytesLE 272 (shlInt r.sum.m (r.sum.e + 1024).toNat % 2 ^ 2176).toNat ++ bytesLE 4 r.count ++ word r.hi ++ word r.lo ++ bytesLE 4 r.flags

/-- The Whisk save image (R118). -/
def Whisk.image (w : Whisk) : List Byte :=
  bytesLE 8 w.record.toNat ++ bytesLE 4 w.groups.toNat ++ bytesLE 4 w.gathered.toNat ++ bytesLE 1 w.pass.toNat ++ zeros 47
    ++ w.reds.toList.flatMap Reduction.image ++ zeros 0x20 ++ w.v.toList.flatMap EReg.image ++ w.v.toList.flatMap EReg.codes
    ++ w.v.toList.flatMap EReg.exps

/-- The header of a tile; `last` says that the MA's most recent first chunk took its buffer (R87). -/
def Tile.header (t : Tile) (last : Bool) : List Byte :=
  bytesLE 1 t.state.toNat ++ bytesLE 1 t.pair.toNat ++ bytesLE 2 t.anchor.toNat ++ bytesLE 1 t.rows.toNat
    ++ bytesLE 1 ((if t.uwOvf then 1 else 0) + (if t.wovFlag then 2 else 0) + (if last then 4 else 0)) ++ bytesLE 2 t.wovCount.toNat
    ++ bytesLE 4 t.chunks.toNat ++ bytesLE 4 t.uwCount.toNat ++ bytesLE 4 t.tileId.toNat ++ bytesLE 1 t.readoutRow.toNat ++ zeros 11

/-- The eight tiles of a CD by index 2 x MA + buffer, each with the mark of the most recent first chunk. -/
def Die.tiles (x : Die) : List (Tile × Bool) :=
  (List.finRange 4).flatMap fun a => (List.finRange 2).map fun b => (x.mas[a].bufs[b], x.mas[a].last == b)

/-! ### Unit data of a dump (R429)

The table names what each unit's data holds and, but for the layouts above and the domain states, not where: the fields stand in the table's
order, each in whole bytes, and the rest of the data is zero (DESIGN CHOICE, log entry 20). -/

/-- The head command of a queue in the layout of R383; zero for an empty queue. -/
def Die.headImage (x : Die) (q : QueueId) : List Byte := pad 32 ((((headOf x.queues[q]).orElse fun _ => oldestOf x.queues[q]).map QEntry.image).getD [])

/-- A 32-bit counter with its overflow bit. -/
def Counter.image (k : Counter) : List Byte := bytesLE 4 k.count.toNat ++ bytesLE 1 (flagAt k.ovf 1)

/-- MA: the headers of both buffers and the slot map of the weight buffer. -/
def Die.maImage (x : Die) (a : Fin 4) : List Byte :=
  let m := x.mas[a]
  m.bufs[(0 : Fin 2)].header (m.last == 0) ++ m.bufs[(1 : Fin 2)].header (m.last == 1)
    ++ bytesLE 2 ((List.range m.weights.length).map pow2).sum

/-- Output stage: the buffer in readout (0xFF for none), its rows written and its tile_id. -/
def Die.stageImage (x : Die) (a : Fin 4) : List Byte :=
  match (List.finRange 2).find? fun b => x.mas[a].bufs[b].state == 3 with
  | none => [0xFF]
  | some b => let t := x.mas[a].bufs[b]; bytesLE 1 b.val ++ bytesLE 1 t.readoutRow.toNat ++ bytesLE 4 t.tileId.toNat

/-- Tongs channel: the head queue entry with its progress, and its current wait reason. -/
def Device.channelImage (d : Device) (cd : Cd) (ch : Nat) : List Byte :=
  let q : QueueId := idx 12 (5 + ch)
  d.dies[cd].headImage q ++ bytesLE 1 (((d.residentOf cd).bind fun c => (d.hop c cd q).map (·.1)).getD 0)

/-- Mixer: the head command with the items completed, the loss-scale exponent and the conversion tally. -/
def Die.mixerImage (x : Die) : List Byte :=
  let t := x.tally
  x.headImage 9 ++ bytesLE 1 x.mixerK.toNat ++ [t.nanIn, t.infIn, t.sat, t.zeroOut].flatMap Counter.image

/-- Scales: the head command, the open group and the counts of the taps. -/
def Die.scalesImage (x : Die) : List Byte :=
  let g := x.sieve.group
  x.headImage 11 ++ bytesLE 1 (flagAt g.isSome 1)
    ++ (match g with
        | some g => bytesLE 4 g.handle.toNat ++ bytesLE 2 g.layer.toNat ++ bytesLE 1 g.targets.toNat ++ bytesLE 1 g.flags.toNat
        | none => zeros 8)
    ++ x.sieve.taps.toList.flatMap fun t => bytesLE 3 t.count.count.toNat

/-- Sieve: the head command, the sampled tile and the counters. -/
def Die.sieveImage (x : Die) : List Byte :=
  let k := x.sieve
  x.headImage 11
    ++ (match k.sample with
        | some s => bytesLE 1 1 ++ bytesLE 1 s.ma.val ++ bytesLE 4 s.tileId.toNat ++ bytesLE 1 s.rows ++ bytesLE 4 s.bytes
        | none => zeros 11)
    ++ (k.bins.toList ++ [k.samples, k.oversize, k.crossings, k.wovTiles, k.wovElems, k.uwSat]).flatMap Counter.image
    ++ bytesLE 8 k.uwTotal.toNat ++ bytesLE 1 (flagAt k.uwTotalOvf 1) ++ bytesLE 1 (flagAt k.raised 1)

/-- State code of a bucket. -/
def BucketState.code : BucketState → Nat
  | .isOpen => 0
  | .outstanding => 1
  | .completed => 2
  | .aborted => 3

/-- An entry of the bucket table in 64 bytes: tag, state, counts, stream positions. -/
def Bucket.image (b : Bucket) : List Byte :=
  bytesLE 4 b.step.toNat ++ bytesLE 2 b.number.toNat ++ bytesLE 1 (b.state.code) ++ bytesLE 1 (flagAt b.present 1 + flagAt b.want 2)
    ++ bytesLE 4 b.elems ++ bytesLE 4 b.nonfinite.toNat ++ bytesLE 4 b.under.toNat ++ bytesLE 4 b.sat.toNat
    ++ b.credited.toList.flatMap (bytesLE 4) ++ bytesLE 4 b.upSent.length ++ bytesLE 4 b.downSent.length

/-- Course port: schedule counter, round, READY and PAUSE state, buffer occupancy. A counter that holds no value, and no PAUSE, are all ones. -/
def Die.courseImage (x : Die) (side : Nat) : List Byte :=
  let k := x.course
  let wire := if side = 0 then k.inCw.length + k.passCw.length else k.inCcw.length + k.passCcw.length
  bytesLE 8 (k.counter.getD (2 ^ 64 - 1)) ++ bytesLE 4 k.round ++ bytesLE 4 k.readyNo
    ++ bytesLE 2 (((List.finRange 16).map fun i => flagAt (decide (k.round < k.flagNo[i])) (pow2 i.val)).sum)
    ++ bytesLE 4 (k.pause.getD (2 ^ 32 - 1))
    ++ [k.out.length, k.recv.length, k.fwd.length, k.adOut.length, k.adIn.length, wire].flatMap (bytesLE 4)

/-- LPDDR5X controller: the states of the 64 domains, the wheel position, and the ECC and refresh counters. -/
def Device.lpddrImage (d : Device) (k : Lpc) : List Byte :=
  (d.boat.domains.toList.map fun x => match x.state with
    | .absent => (0 : Byte)
    | .installed => 1
    | .destroyed => 2)
    ++ bytesLE 1 k.wheelPos.val ++ k.ce.image ++ k.ue.image ++ bytesLE 4 k.scrub.toNat ++ bytesLE 1 k.mult.toNat ++ bytesLE 1 k.mr4.toNat
    ++ bytesLE 1 k.lower ++ bytesLE 4 k.windows

/-- Bonded SRAM interface: no zeroing is in progress between two commands; then domain and count of pages of the domains above 0 that own any. -/
def Device.sramImage (d : Device) (cd : Cd) : List Byte :=
  let own := d.mem.owner.filter fun p => decide (sramOf cd.val ≤ 4096 * p.1) && decide (4096 * p.1 < sramOf cd.val + 0x80000000)
  [0] ++ (List.finRange 64).flatMap fun s =>
    let n := (own.filter fun p => p.2 == s).length
    if n = 0 then [] else bytesLE 1 s.val ++ bytesLE 3 n

/-- Fabric port: training state, session, seq and ack, and the classes closed per context; lines and credits by class between them. -/
def Port.image (p : Port) : List Byte :=
  bytesLE 1 p.state.code ++ bytesLE 4 p.session.toNat ++ bytesLE 4 p.txSeq.toNat ++ bytesLE 4 p.txAck.toNat ++ bytesLE 4 p.rxSeq.toNat
    ++ p.credits.toList.flatMap (bytesLE 2) ++ p.rxHeld.toList.flatMap (bytesLE 2)
    ++ p.closed.flatMap fun k => bytesLE 2 k.1.toNat ++ bytesLE 1 k.2.toNat

/-- Upper-tree Ladle: the tag entries with their lines held. -/
def FabricDie.treeImage (f : FabricDie) : List Byte :=
  f.tags.flatMap fun t =>
    bytesLE 2 t.ctx.toNat ++ bytesLE 4 t.step.toNat ++ bytesLE 2 t.bucket.toNat
      ++ [t.up.length, t.upRecv.length, t.sent.length, t.down.length, t.downSent.length].flatMap (bytesLE 2)

/-- Management processor: start-up, the admin ring set and the loops. -/
def Device.managementImage (d : Device) : List Byte :=
  let s := d.start
  bytesLE 1 s.stage.toNat ++ bytesLE 1 (flagAt s.ready 1 + flagAt s.cfgFallback 2 + flagAt s.fwNone 4 + flagAt s.fillDone 8 + flagAt s.slot 16)
    ++ bytesLE 1 s.fail.toNat ++ bytesLE 1 s.failArg.toNat ++ bytesLE 1 s.cfgWhy.toNat ++ bytesLE 4 s.cfgSeq.toNat
    ++ bytesLE 8 d.hd.adminBlk.toNat ++ bytesLE 1 d.hd.adminErr.toNat ++ bytesLE 4 d.hd.adminSeq.toNat ++ d.hd.dbStray.image
    ++ (match d.admin with
        | some r => [r.sqHead, r.sqTail, r.cqHead, r.cqTail, r.eqHead, r.eqTail, r.wseq].flatMap fun v => bytesLE 4 v.toNat
        | none => zeros 28)
    ++ d.loops.toList.flatMap fun l => bytesLE 2 l.low.toNat ++ bytesLE 2 l.high.toNat ++ bytesLE 1 (l.mode.toNat + flagAt l.override 4)

/-- Boathouse: its states and sequence numbers; never a key (R428). -/
def Boathouse.image (b : Boathouse) : List Byte :=
  bytesLE 1 (flagAt b.entropyFailed 1 + flagAt b.jtagLock 2 + flagAt b.debugOpen 4 + flagAt b.tenantsDestroyed 8 + flagAt b.debugOnce 16 + flagAt b.certBad 32)
    ++ bytesLE 1 b.lifecycle.toNat ++ bytesLE 1 b.revoke.toNat ++ bytesLE 4 b.fuseSvn ++ bytesLE 4 b.rseq.toNat ++ bytesLE 4 b.ephNext.toNat
    ++ b.domains.toList.flatMap fun x => bytesLE 1 x.windows.length

/-- PD controller: input, rails, measured values, budgets and the easy-all episode. -/
def Pd.image (p : Pd) : List Byte :=
  bytesLE 1 p.rails ++ bytesLE 1 (flagAt p.ramping 1 + flagAt p.locked 2 + flagAt p.pwrGood 4 + flagAt p.thermTrip 8 + flagAt p.easyAll 16 + flagAt p.signalled 32)
    ++ bytesLE 1 p.seqFails ++ bytesLE 2 p.vin.toNat ++ bytesLE 2 p.iin.toNat ++ bytesLE 2 p.pin.toNat
    ++ p.budget.toList.flatMap (fun v => bytesLE 1 v.toNat) ++ p.cdPwr.toList.flatMap (fun v => bytesLE 2 v.toNat)
    ++ p.temp.toList.flatMap (fun v => bytesLE 8 v.toNat) ++ bytesLE 4 p.coolant.toNat ++ bytesLE 4 p.episode.toNat ++ bytesLE 2 p.mask.toNat
    ++ bytesLE 8 p.entryCycle.toNat

/-- Length of a unit's data by die and unit code. -/
def unitBytes (die unit : Nat) : Nat :=
  if 16 ≤ die then 256
  else (([25856, 128, 64, 19200, 64, 256, 4096, 256, 256, 64, 256, 64] : List Nat)[unit]?).getD 0

/-- What the data of a unit of a CD holds, by unit code and instance. -/
def Device.cdUnitImage (d : Device) (cd : Cd) (unit inst : Nat) : List Byte :=
  let x := d.dies[cd]
  if unit = 0 then x.cox.image ++ x.queueImage ++ x.linkImage
  else if unit = 1 then x.maImage (idx 4 inst)
  else if unit = 2 then x.stageImage (idx 4 inst)
  else if unit = 3 then x.whisk.image
  else if unit = 4 then d.channelImage cd inst
  else if unit = 5 then x.mixerImage
  else if unit = 6 then x.ladle.buckets.flatMap Bucket.image
  else if unit = 7 then x.scalesImage
  else if unit = 8 then x.sieveImage
  else if unit = 9 then x.courseImage inst
  else if unit = 10 then d.lpddrImage d.lpcs[cd][idx 2 inst]
  else d.sramImage cd

/-- What the data of a unit of a fabric die holds. -/
def Device.fdUnitImage (d : Device) (f : Fin 2) (unit inst : Nat) : List Byte :=
  let x := d.fds[f]
  if unit = 0 then bytesLE 1 x.portEn.toNat ++ bytesLE 4 x.session.toNat ++ bytesLE 2 d.gone.length
  else if unit = 1 then d.ports[idx 16 (8 * f.val + inst)].image
  else x.treeImage

/-- What the data of a unit of the HD holds. -/
def Device.hdUnitImage (d : Device) (unit : Nat) : List Byte :=
  let h := d.hd
  if unit = 0 then d.managementImage
  else if unit = 1 then d.boat.image
  else if unit = 2 then bytesLE 1 (flagAt d.yalkenUp 1) ++ bytesLE 2 d.companion.length ++ bytesLE 2 d.heldWrites.length
  else if unit = 3 then
    bytesLE 1 (flagAt d.dump.p12 1 + flagAt d.dump.held 2 + flagAt d.dump.overrun 4) ++ bytesLE 2 d.dump.log.length ++ bytesLE 1 d.dump.stops.length
  else if unit = 5 then
    bytesLE 4 h.flashAddr.toNat ++ bytesLE 1 h.flashOp.toNat ++ bytesLE 1 (flagAt h.flashBusy 1 + flagAt h.flashHeld 2) ++ bytesLE 1 h.flashResult.toNat
      ++ bytesLE 4 h.flashDone.toNat
  else if unit = 6 then
    bytesLE 1 ((d.i3c.dynamic.map fun a => a.toNat + 128).getD 0) ++ bytesLE 1 (flagAt d.i3c.ibiOn 1) ++ bytesLE 1 ((d.i3c.pending.map (·.toNat)).getD 0)
      ++ bytesLE 1 d.i3c.causes.length
  else if unit = 7 then bytesLE 1 (flagAt d.boat.jtagLock 1 + flagAt d.boat.jtagOpen 2)
  else []

/-- The data of one unit, read without a change to it (R426, R429). -/
def Device.unitData (d : Device) (i : BitVec 16) : List Byte :=
  let die := bits i.toNat 15 10
  let unit := bits i.toNat 9 4
  let inst := bits i.toNat 3 0
  pad (unitBytes die unit)
    (if die < 16 then d.cdUnitImage (idx 16 die) unit inst
     else if die < 18 then d.fdUnitImage (idx 2 (die - 16)) unit inst
     else if die = 18 then d.hdUnitImage unit
     else d.pd.image)

end Sys2Proof.Machine
end

