-- ==== Sys2Proof/Machine/Dump.lean ====
section
/-! DEFINITION. Crash dumps: unit states, the native format, P12 dump format version 3, DUMP_TAKE (R426 to R430). -/

namespace Sys2Proof.Machine

/-- Free bytes of the spec, drawn in words (log entry 9). -/
def Device.drawBytes (d : Device) (n : Nat) : List Byte × Device :=
  let k := ceilDiv n 8
  (((List.range k).flatMap fun i => bytesLE 8 (Config.free (d.fresh + i)).toNat).take n, { d with fresh := d.fresh + k })

/-! ### Reading the units (R426, R427) -/

/-- A unit as the collector read it. -/
structure UnitRead where
  island : BitVec 16
  /-- 0 read, 1 no answer, 2 scan check, 3 in reset. -/
  why : Nat
  ctx : BitVec 16
  took : Nat
  cycle : BitVec 64
  data : List Byte

/-- Why a unit cannot be read (R427). -/
def Device.readWhy (d : Device) (i : BitVec 16) : Nat :=
  if d.dump.silent.contains i then 1 else if !d.islandRuns i then 3 else if d.dump.scanBad.contains i then 2 else 0

/-- Tag of the context resident on a unit. -/
def Device.unitCtx (d : Device) (i : BitVec 16) : BitVec 16 :=
  let die := bits i.toNat 15 10
  if die < 16 then ((d.residentOf (idx 16 die)).map (·.tag)).getD 0 else 0

/-- One unit read: 64 cycles of setup, then 8 bytes a cycle, or the bound of 65,536 cycles. What a read whose scan check fails twice takes is
free (log entry 20). -/
def Device.readUnit (d : Device) (i : BitVec 16) : UnitRead × Device :=
  let n := unitBytes (bits i.toNat 15 10) (bits i.toNat 9 4)
  let why := d.readWhy i
  let gone := fun (took : Nat) => ({ island := i, why := why, ctx := d.unitCtx i, took := took, cycle := 0, data := zeros n } : UnitRead)
  if why = 0 then ({ island := i, why := 0, ctx := d.unitCtx i, took := 64 + n / 8, cycle := d.cycle i, data := d.unitData i }, d)
  else if why = 1 then (gone (64 + 65536), d)
  else if why = 2 then (gone d.draw.1.toNat, d.draw.2)
  else (gone 64, d)

/-- Every unit read in island-ID order. -/
def Device.readUnits (d : Device) : List UnitRead × Device :=
  allIslands.foldl (fun (p : List UnitRead × Device) i =>
    let (u, d1) := p.2.readUnit i
    (p.1 ++ [u], d1)) ([], d)

/-- UNREADABLE units of a list. -/
def unreadable (us : List UnitRead) : Nat := (us.filter fun u => u.why ≠ 0).length

/-! ### The native format -/

/-- Unit table entries, with the offset of each unit's data. -/
def unitTable : Nat → List UnitRead → List Byte
  | _, [] => []
  | off, u :: t =>
    bytesLE 2 u.island.toNat ++ bytesLE 1 (if u.why = 0 then 0 else 1) ++ bytesLE 1 u.why ++ bytesLE 2 u.ctx.toNat ++ zeros 2
      ++ bytesLE 8 off ++ bytesLE 4 u.data.length ++ bytesLE 4 u.took ++ bytesLE 8 u.cycle.toNat ++ unitTable (off + u.data.length) t

/-- Size of a native dump. -/
def nativeBytes : Nat := 978720

/-- The native dump header. -/
def nativeHeader (reason : Nat) (ctx : BitVec 16) (us : List UnitRead) (log : Nat) (boot : BitVec 128) (start : BitVec 64) : List Byte :=
  [0x4F, 0x58, 0x44, 0x4D] ++ bytesLE 1 5 ++ bytesLE 1 reason ++ bytesLE 2 ctx.toNat ++ bytesLE 2 397 ++ bytesLE 2 (unreadable us)
    ++ bytesLE 4 log ++ bytesLE 8 nativeBytes ++ bytesBE 16 boot.toNat ++ bytesLE 8 start.toNat
    ++ bytesLE 8 (start.toNat + (us.map (·.took)).sum) ++ bytesLE 4 0x80 ++ bytesLE 4 0x3220 ++ bytesLE 4 0x23220 ++ bytesLE 4 0x23620
    ++ zeros 56

/-- The held stop record of a CD, zero where none is held. -/
def Dump.stopOf (x : Dump) (cd : Nat) : List Byte := ((x.stops.find? fun s => s.1 == cd).map (·.2)).getD (zeros 64)

/-- A native dump. -/
def Device.nativeDump (d : Device) (reason : Nat) (ctx : BitVec 16) (us : List UnitRead) : List Byte :=
  nativeHeader reason ctx us d.dump.log.length d.boat.bootId (d.cycle 0x4830)
    ++ unitTable 0x23620 us ++ pad (4096 * 32) (d.dump.log.flatMap ErrRec.encode)
    ++ (List.range 16).flatMap d.dump.stopOf ++ us.flatMap (·.data)

/-! ### P12 dump format version 3 (R430) -/

/-- One record: kind, why, source, length, cycle, data. -/
def p12Record (kind why : Nat) (src : BitVec 16) (cycle : Nat) (data : List Byte) : List Byte :=
  bytesLE 1 kind ++ bytesLE 1 why ++ bytesLE 2 src.toNat ++ bytesLE 4 data.length ++ bytesLE 8 cycle ++ data

/-- A dump of the P12 format; stop records stand in the native order, by CD (R8). -/
def Device.p12Dump (d : Device) (reason : Nat) (us : List UnitRead) : List Byte :=
  let units := us.map fun u => if u.why = 0 then p12Record 1 0 u.island u.cycle.toNat u.data else p12Record 3 u.why u.island 0 []
  let errs := d.dump.log.map fun r => p12Record 2 0 r.island r.cycle.toNat r.encode
  let stops := ((List.range 16).flatMap fun cd => d.dump.stops.filter fun s => s.1 == cd).map fun s =>
    p12Record 4 0 (island s.1 0 0) (field s.2 0x10 8) s.2
  let recs := units ++ errs ++ stops
  let body := recs.flatten
  [0x50, 0x31, 0x32, 0x44] ++ bytesLE 2 3 ++ bytesLE 2 reason ++ bytesLE 4 recs.length ++ bytesLE 4 (32 + body.length)
    ++ bytesBE 16 d.boat.bootId.toNat ++ body

/-- A new dump with its count of unreadable units; the units' answers to it are used up. -/
def Device.newDump (d : Device) (p12 : Bool) (reason : Nat) (ctx : BitVec 16) : List Byte × Nat × Device :=
  let (us, d1) := d.readUnits
  let bs := if p12 then d.p12Dump reason us else d.nativeDump reason ctx us
  (bs, unreadable us, { d1 with dump := { d1.dump with silent := [], scanBad := [] } })

/-- An automatic dump into the retained area, when `HD.DUMP_CFG.p12` is set (R421, R425, R430). -/
def Device.autoDump (d : Device) (reason : Nat) (ctx : BitVec 16) : Device :=
  if d.dump.p12 then
    let (bs, n, d1) := d.newDump true reason ctx
    { d1 with dump := { d1.dump with retained := some (bs, n), overrun := d1.dump.overrun || d1.dump.held, held := true } }
  else d

/-! ### DUMP_TAKE (R429) -/

/-- A dump delivered to the buffer of a DUMP_TAKE, or refused for its size; `taken` is the device once it is delivered. -/
def Device.deliver (d : Device) (t : Taken) (bs : List Byte) (n : Nat) (taken : Device) : Device :=
  let a := entDpa t.entry 8
  if field t.entry 0x10 8 < bs.length then d.finish .admin t 0x5E 0 (bytesLE 8 bs.length)
  else match d.adminWrite a bs with
    | (d1, some r) => d1.answerErr .admin t 0xE6 r []
    | (_, none) =>
      (({ taken with dump := { taken.dump with stops := [] } } : Device).adminWrite a bs).1.finish .admin t 0 0
        (bytesLE 8 bs.length ++ bytesLE 2 n)

/-- DUMP_TAKE at the head of the admin ring. -/
def Device.dumpTake (d : Device) (t : Taken) : Device :=
  let flags := field t.entry 0x18 1
  if bits flags 1 1 = 1 then
    match d.dump.retained with
    | none => d.answer .admin t 0x5E
    | some (bs, n) => d.deliver t bs n { d with dump := { d.dump with retained := none, held := false } }
  else
    let (bs, n, d1) := d.newDump (bits flags 0 0 == 1) 0 0
    d.deliver t bs n d1

/-- DUMP_TAKE. -/
def execDumpTake (s : State) : Host.Outcome State Fault Refusal :=
  .next { s with dev := s.dev.adminDescriptor 0x50 Device.dumpTake }

/-- A unit has not answered the collector, or its scan check has failed twice: the next dump records it as UNREADABLE (R427). -/
def Device.unitUnread (d : Device) (u : UnitFailure) : Device :=
  if !allIslands.contains u.island then d
  else if u.scanCheck then
    if d.dump.scanBad.contains u.island then d else { d with dump := { d.dump with scanBad := d.dump.scanBad ++ [u.island] } }
  else if d.dump.silent.contains u.island then d
  else { d with dump := { d.dump with silent := d.dump.silent ++ [u.island] } }

/-- UNIT_READ_TIMEOUT. -/
def execUnitReadTimeout (unit : UnitFailure) (s : State) : Host.Outcome State Fault Refusal :=
  .next { s with dev := s.dev.unitUnread unit }

end Sys2Proof.Machine
end

