-- ==== Sys2Proof/Machine/SaveArea.lean ====
section
/-! DEFINITION. The save area of a position: the image of each section, and a die written to it and read from it (R86, R87, R118, R142, R382,
R383). The bytes of a section for which the spec gives no layout are free (log entry 16). -/

namespace Sys2Proof.Machine

/-- Offset and size of each section, in table order (R383). -/
def saveTable : List (Nat × Nat) :=
  [(0, 0x1000), (0x1000, 0x6000), (0x7000, 0x100), (0x8000, 0x40400), (0x50000, 0x4B00), (0x60000, 0x191000), (0x200000, 0x140000),
   (0x340000, 0x200000), (0x540000, 0x10000), (0x600000, 0x1000000), (0x1600000, 0x100000), (0x1700000, 0x2800000),
   (0x4000000, 0x80000000)]

/-- Offset and size of section j. -/
def saveSect (j : Nat) : Nat × Nat := (saveTable[j]?).getD (0, 0)

/-! ### Cells -/

/-- The cells of a byte string. -/
def cellsOf (bs : List Byte) : Memory := bs.zipIdx.filterMap fun (b, i) => if b = 0 then none else some (i, b)

/-- Cells moved up by an offset. -/
def shiftCells (off : Nat) (m : Memory) : Memory := m.map fun c => (off + c.1, c.2)

/-! ### Images -/

/-- A condition as its code (R383, R477). -/
def Cond.code : Cond → Nat
  | .idle => 0
  | .running => 1
  | .faulted => 2

/-- The first line of a save header (R383). -/
def saveHeader (saved : Bool) (cond pos : Nat) (tag : BitVec 16) (gen valid wslots : Nat) : List Byte :=
  bytesLE 1 5 ++ bytesLE 1 (if saved then 1 else 0) ++ bytesLE 1 cond ++ bytesLE 1 pos ++ bytesLE 2 tag.toNat ++ zeros 2
    ++ bytesLE 4 gen ++ bytesLE 4 valid ++ bytesLE 8 wslots ++ zeros 40

/-- The Cox section: the image and the scratch (R124, R142). -/
def Die.coxCells (x : Die) : Memory := cellsOf x.cox.image ++ shiftCells 0x400 (memSlice x.loc 0x100000 0x40000)

/-- The flag nibble of an element (R65). -/
def AccElem.nibble (e : AccElem) : Nat := (if e.s then 1 else 0) + (if e.ovf then 2 else 0) + 4 * e.nf.toNat

/-- The value plane of a tile (R87). -/
def Tile.valuePlane (t : Tile) : List Byte := t.elems.flatMap fun e => bytesLE 12 e.v.toNat

/-- Two nibbles to a byte, the low one first. -/
def nibbleBytes : List Nat → List Byte
  | [] => []
  | [a] => [BitVec.ofNat 8 a]
  | a :: b :: t => BitVec.ofNat 8 (a + 16 * b) :: nibbleBytes t

/-- The flag plane of a tile (R87). -/
def Tile.flagPlane (t : Tile) : List Byte := nibbleBytes (t.elems.map AccElem.nibble)

/-- The accumulator section (R87). -/
def Die.bankCells (x : Die) : Memory :=
  let ts := x.tiles.zipIdx
  cellsOf (ts.flatMap fun ((t, l), _) => t.header l)
    ++ (ts.flatMap fun ((t, _), i) => shiftCells (0x1000 + i * 0x30000) (cellsOf t.valuePlane))
    ++ ts.flatMap fun ((t, _), i) => shiftCells (0x181000 + i * 0x2000) (cellsOf t.flagPlane)

/-- Weight slots that hold a tile: bit 10a + i for slot i of MA a (R383). -/
def Die.wslots (x : Die) : Nat :=
  ((List.finRange 4).map fun a => ((List.range x.mas[a].weights.length).map fun i => pow2 (10 * a.val + i)).sum).sum

/-- A bucket is open at this CD. -/
def Bucket.opened (b : Bucket) : Bool := b.state == .isOpen

/-- Valid bits of a saved position, by section: Course and Tongs state only without a fault, the shadow store only with a sample in
progress, the Ladle store only with an open bucket, bonded SRAM only with a grant (R226, R383). -/
def Die.validBits (x : Die) (cond : Cond) (sram : Bool) : Nat :=
  0x57F + (if cond = .faulted then 0 else 0x80) + (if x.sieve.sample.isSome then 0x200 else 0)
    + (if x.ladle.buckets.any Bucket.opened then 0x800 else 0) + (if sram then 0x1000 else 0)

/-- The stop points of the matrix arrays and the Course of a FAULTED context: sums that are formed are committed, and no Course state is
saved (R86, R226). -/
def Die.stopPoint (x : Die) (cond : Cond) : Die :=
  { x with
    mas := each (fun _ m => m.commit.commit) x.mas
    course := if cond = .faulted then {} else x.course
    weightIn := if cond = .faulted then {} else x.weightIn }

/-! ### Writing -/

/-- A section written under the save domain. -/
def Device.putSect (d : Device) (dom : Fin 64) (base j : Nat) (cells : Memory) : Device :=
  d.writeBlock dom (base + (saveSect j).1) (saveSect j).2 cells

/-- A section without a layout written: its bytes are free (log entry 16). -/
def Device.freeSect (d : Device) (dom : Fin 64) (base j : Nat) : Device :=
  let (bs, d1) := d.drawBytes (saveSect j).2
  d1.putSect dom base j (cellsOf bs)

/-- Bonded SRAM of a CD that the SRAM grants of a context cover, as byte ranges of the DPA space. -/
def Context.sramSpans (c : Context) (cd : Cd) : List (Nat × Nat) :=
  c.grants.filterMap fun g =>
    let lo := max (pBase g * 4096) (sramOf cd.val)
    let hi := min ((pLimit g + 1) * 4096) (sramOf cd.val + 0x80000000)
    if pValid g && pTarget g == 1 && decide (lo < hi) then some (lo, hi) else none

/-! ### Lines in error (R172, R176, R194) -/

/-- The first line of a range whose read gives ECC_UE: an LPDDR5X line, or one of bonded SRAM with a word in error (R172, R176). -/
def Device.badIn (d : Device) (a n : Nat) : Option Nat :=
  (((d.mem.ueLines.map fun l => 64 * l) ++ d.mem.ueWords.map fun w => 8 * w / 64 * 64).filter fun l => decide (a / 64 * 64 ≤ l) && decide (l < a + n)).min?

/-- Bytes of a range below its first line in error. -/
def Device.goodBytes (d : Device) (a n : Nat) : Nat := match d.badIn a n with
  | some l => l - a
  | none => n

/-- The LPDDR5X errors met by a read of a range, up to the first line that gives ECC_UE (R176, R484). -/
def Device.eccRange (d : Device) (a n : Nat) : Device :=
  let d1 := (d.mem.ceLines.filter fun l => decide (a / 64 ≤ l) && decide (64 * l < a + d.goodBytes a n)).foldl
    (fun d l => d.eccOf (64 * l) (.ok () : Except Nat Unit)) d
  match d.badIn a n with
  | some l => d1.eccOf l (.error eEcc : Except Nat Unit)
  | none => d1

/-- Address of bonded SRAM in a save area. -/
def sramSave (base : Nat) (cd : Cd) (lo : Nat) : Nat := base + (saveSect 12).1 + (lo - sramOf cd.val)

/-- The Ladle store of the open buckets, and the covered pages of bonded SRAM, written (R383); a span of pages is read up to its first line in
error (R172, R194). -/
def Device.putLadle (d : Device) (dom : Fin 64) (base : Nat) (k : Ladle) : Device :=
  (k.buckets.filter Bucket.opened).foldl (fun d b =>
    d.writeBlock dom (base + (saveSect 11).1 + b.store) (8 * b.elems) (memSlice k.store b.store (8 * b.elems))) d
def Device.putSram (d : Device) (dom : Fin 64) (base : Nat) (c : Context) (cd : Cd) : Device :=
  (c.sramSpans cd).foldl (fun d (lo, hi) =>
    let n := d.goodBytes lo (hi - lo)
    d.writeBlock dom (sramSave base cd lo) n (memSlice d.mem.bytes lo n)) d

/-- The sections of a position written in table order, the header after them (R383, R387 step 4). -/
def Device.saveDie (d : Device) (c : Context) (dom : Fin 64) (base pos gen : Nat) (cd : Cd) (x : Die) : Device :=
  let d1 := d.putSect dom base 1 (cellsOf x.queueImage)
  let d2 := d1.putSect dom base 2 (cellsOf x.linkImage)
  let d3 := d2.putSect dom base 3 x.coxCells
  let d4 := d3.putSect dom base 4 (cellsOf x.whisk.image)
  let d5 := d4.putSect dom base 5 x.bankCells
  let d6 := d5.freeSect dom base 6
  let d7 := if c.cond = .faulted then d6 else d6.freeSect dom base 7
  let d8 := d7.freeSect dom base 8
  let d9 := if x.sieve.sample.isSome then d8.freeSect dom base 9 else d8
  let d10 := (d9.freeSect dom base 10).putLadle dom base x.ladle
  (d10.putSram dom base c cd).writeAs dom base
    (saveHeader true c.cond.code pos c.tag gen (x.validBits c.cond !(c.sramSpans cd).isEmpty) x.wslots)

/-! ### Reading (R388) -/

/-- A block read under the save domain, up to its first line in error (R176, R194). -/
def Device.goodBlock (d : Device) (dom : Fin 64) (a n : Nat) : Memory := d.readBlock dom a (d.goodBytes a n)

/-- A section read under the save domain. -/
def Device.getSect (d : Device) (dom : Fin 64) (base j : Nat) : Memory := d.goodBlock dom (base + (saveSect j).1) (saveSect j).2

/-- What a section holds: the state that was saved where its bytes are still those written, else what its bytes say. -/
def fromSect {α : Type} (same : Bool) (kept parsed : α) : α := if same then kept else parsed

/-- A queue entry with the fields of its 32 bytes. -/
def QEntry.parse (e : QEntry) (bs : List Byte) : QEntry :=
  { e with
    word := BitVec.ofNat 64 (field bs 0 8), ga := BitVec.ofNat 64 (field bs 8 8), gb := BitVec.ofNat 64 (field bs 0x10 8)
    imm := BitVec.ofNat 16 (field bs 0x18 2), started := bits (field bs 0x1A 1) 0 0 == 1, progress := BitVec.ofNat 40 (field bs 0x1B 5) }

/-- The queues of a position from their section. -/
def queuesFrom (kept : Vector (List QEntry) 12) (m : Memory) : Vector (List QEntry) 12 :=
  each (fun q l => l.zipIdx.map fun (e, i) => e.parse (memBytes 0 m (0x800 * q.val + 32 * i) 32)) kept

/-- The links of a position from their section: the plan gives the ends and the grant. -/
def linksFrom (links : List Link) (m : Memory) : List Link :=
  links.zipIdx.map fun (l, i) => { l with credits := (memGet 0 m (8 * i)).toNat, tokens := (memGet 0 m (8 * i + 1)).toNat }

/-- A vector of 64-bit words from a byte string. -/
def words {n : Nat} (bs : List Byte) (off : Nat) (v : Vector (BitVec 64) n) : Vector (BitVec 64) n :=
  each (fun i _ => BitVec.ofNat 64 (field bs (off + 8 * i.val) 8)) v

/-- A Cox from its image (R142). -/
def Cox.parse (k : Cox) (bs : List Byte) : Cox :=
  { k with
    run := (match field bs 1 1 with | 1 => .running | 2 => .haltWait | _ => .idle)
    pc := BitVec.ofNat 14 (field bs 2 2)
    pend := each (fun i _ => BitVec.ofNat 3 (field bs (0x10 + i.val) 1)) k.pend
    g := words bs 0x40 k.g
    p := each (fun i _ => bits (field bs 0x140 1) i.val i.val == 1) k.p
    s := words bs 0x180 k.s
    counters := words bs 0x200 k.counters
    ovf := each (fun i _ => bits (field bs 0x270 2) i.val i.val == 1) k.ovf }

/-- An element register from the Whisk image (R118). -/
def EReg.parse (r : EReg) (i : Nat) (bs : List Byte) : EReg :=
  { r with blocks := (List.range 8).map fun b =>
      { e := signed 16 (field bs (0x4A00 + 16 * i + 2 * b) 2)
        i := (List.range 32).map fun l => BitVec.ofNat 32 (field bs (0x600 + 1024 * i + 128 * b + 4 * l) 4)
        nf := (List.range 32).map fun l => BitVec.ofNat 2 (field bs (0x4600 + 64 * i + 8 * b + l / 4) 1 >>> (2 * (l % 4))) } }

/-- A reduction state from its 288 bytes (R118; log entry 16). -/
def reductionOf (bs : List Byte) : Reduction :=
  let flags := field bs 0x11C 4
  let value := fun (at' bit off : Nat) =>
    if flags.testBit bit then some ({ m := signed 32 (field bs at' 4), e := signed 11 (bits flags (off + 10) off) } : Dy) else none
  { sum := { m := signed 2176 (field bs 0 272), e := -1024 }, hi := value 0x114 3 5, lo := value 0x118 4 16
    nan := flags.testBit 0, pos := flags.testBit 1, neg := flags.testBit 2, count := field bs 0x110 4 }

/-- The Whisk from its section; what the image does not hold of a command in progress stays with the context (R118; log entry 16). -/
def Whisk.parse (w : Whisk) (bs : List Byte) : Whisk :=
  fromSect (w.image == bs) w
    { w with
      record := BitVec.ofNat 64 (field bs 0 8), groups := BitVec.ofNat 32 (field bs 8 4), gathered := BitVec.ofNat 32 (field bs 0xC 4)
      pass := BitVec.ofNat 8 (field bs 0x10 1), reds := each (fun i _ => reductionOf ((bs.drop (0x40 + 0x120 * i.val)).take 0x120)) w.reds
      v := each (fun i r => r.parse i.val bs) w.v }

/-- A tile from its header and planes (R87). -/
def Tile.parse (t : Tile) (h : List Byte) (elem : Nat → AccElem) : Tile :=
  { t with
    state := BitVec.ofNat 2 (field h 0 1), pair := BitVec.ofNat 8 (field h 1 1), anchor := BitVec.ofNat 10 (field h 2 2)
    rows := BitVec.ofNat 8 (field h 4 1), uwOvf := bits (field h 5 1) 0 0 == 1, wovFlag := bits (field h 5 1) 1 1 == 1
    wovCount := BitVec.ofNat 16 (field h 6 2), chunks := BitVec.ofNat 32 (field h 8 4), uwCount := BitVec.ofNat 32 (field h 0xC 4)
    tileId := BitVec.ofNat 32 (field h 0x10 4), readoutRow := BitVec.ofNat 8 (field h 0x14 1)
    elems := (List.range 16384).map elem }

/-- Element k of tile i of the accumulator section. -/
def elemFrom (m : Memory) (i k : Nat) : AccElem :=
  let f := (memGet 0 m (0x181000 + i * 0x2000 + k / 2)).toNat >>> (4 * (k % 2))
  { v := BitVec.ofNat 96 (le (memBytes 0 m (0x1000 + i * 0x30000 + 12 * k) 12)), s := bits f 0 0 == 1, ovf := bits f 1 1 == 1
    nf := BitVec.ofNat 2 (bits f 3 2) }

/-- The banks of the four MAs from their section. -/
def banksFrom (mas : Vector Ma 4) (m : Memory) : Vector Ma 4 :=
  each (fun a x =>
    let head := fun (b : Fin 2) => memBytes 0 m (32 * (2 * a.val + b.val)) 32
    { x with
      bufs := each (fun b t => t.parse (head b) (elemFrom m (2 * a.val + b.val))) x.bufs
      last := if bits (field (head 1) 5 1) 2 2 = 1 then 1 else 0 }) mas

/-- The weight buffers: slots that the header marks hold their tile. -/
def slotsFrom (mas : Vector Ma 4) (wslots : Nat) : Vector Ma 4 :=
  each (fun a x => { x with weights := (x.weights.zipIdx.filter fun w => wslots.testBit (10 * a.val + w.2)).map (·.1) }) mas

/-- A die as its valid sections give it: `base` is the die with its plan store reloaded, `kept` what was saved, for the state that has no
layout (R388; log entry 16). -/
def Die.restore (kept base : Die) (valid wslots : Nat) (sec : Nat → Memory) : Die :=
  let on {α : Type} (j : Nat) (a b : α) : α := if valid.testBit j then a else b
  let cox := memBytes 0 (sec 3) 0 0x400
  let banks := fromSect (sec 5 == kept.bankCells) kept.mas (banksFrom kept.mas (sec 5))
  { kept with
    codeStrokes := base.codeStrokes, depth := base.depth, bound := base.bound
    loc := on 3 (memPlace base.loc 0x100000 0x40000 ((sec 3).filterMap fun c => if 0x400 ≤ c.1 then some (c.1 - 0x400, c.2) else none)) base.loc
    cox := on 3 (fromSect (cox == kept.cox.image) kept.cox (kept.cox.parse cox)) base.cox
    queues := on 1 (queuesFrom kept.queues (sec 1)) base.queues
    links := on 2 (linksFrom kept.links (sec 2)) base.links
    whisk := on 4 (kept.whisk.parse (memBytes 0 (sec 4) 0 0x4B00)) base.whisk
    mas := slotsFrom (on 5 banks (each (fun a x => { base.mas[a] with weights := x.weights }) kept.mas)) (on 6 wslots 0)
    weightIn := on 7 kept.weightIn base.weightIn
    course := on 7 kept.course base.course
    sieve := on 8 { kept.sieve with sample := on 9 kept.sieve.sample none } base.sieve
    ladle := on 10 { kept.ladle with store := on 11 (sec 11) [] } base.ladle }

/-- The Ladle store of some buckets as the save area holds it. -/
def Device.getLadle (d : Device) (dom : Fin 64) (base : Nat) (bs : List Bucket) : Memory :=
  (bs.filter Bucket.opened).foldl (fun m b =>
    memPlace m b.store (8 * b.elems) (d.goodBlock dom (base + (saveSect 11).1 + b.store) (8 * b.elems))) []

/-- Covered pages of bonded SRAM of a CD written from the save area, up to a line of it in error; the words written hold no error (R172,
R388 step 1). -/
def Device.getSram (d : Device) (dom : Fin 64) (base : Nat) (c : Context) (cd : Cd) : Device :=
  (c.sramSpans cd).foldl (fun d (lo, hi) =>
    let n := d.goodBytes (sramSave base cd lo) (hi - lo)
    let cells := d.readBlock dom (sramSave base cd lo) n
    d.modMem fun m => { m with
      bytes := memPlace m.bytes lo n cells, ueWords := m.ueWords.filter fun w => !wordsCovered lo n w }) d

/-- The ranges that a save reads in the DPA space: the covered bonded SRAM of each position (R383). -/
def Context.saveReads (c : Context) : List (Nat × Nat) := c.cds.flatMap fun cd => (c.sramSpans cd).map fun s => (s.1, s.2 - s.1)

/-- The ranges of a save area that a restore reads: its valid sections, and of the Ladle store and of bonded SRAM what was written. -/
def Die.restoreReads (kept : Die) (c : Context) (cd : Cd) (base valid : Nat) : List (Nat × Nat) :=
  (List.range 13).flatMap fun j =>
    if j = 0 ∨ !valid.testBit j then []
    else if j = 11 then (kept.ladle.buckets.filter Bucket.opened).map fun b => (base + (saveSect 11).1 + b.store, 8 * b.elems)
    else if j = 12 then (c.sramSpans cd).map fun s => (sramSave base cd s.1, s.2 - s.1)
    else [(base + (saveSect j).1, (saveSect j).2)]

/-- The first line in error of some ranges, with the bytes of its range below it (R193). -/
def Device.rangesBad (d : Device) (rs : List (Nat × Nat)) : Option (Nat × Nat) :=
  rs.findSome? fun (r : Nat × Nat) => (d.badIn r.1 r.2).map fun l => (l, l - r.1)

end Sys2Proof.Machine
end

