-- ==== Sys2Proof/Machine/Contexts.lean ====
section
/-! DEFINITION. Contexts: creating, switching, saving, restoring, destroying and resetting them (R354, R377 to R389, R421 to R424). -/

namespace Sys2Proof.Machine

/-! ### CONTEXT_CREATE (R379, R380) -/

/-- What a CONTEXT_CREATE entry names. -/
structure NewContext where
  tag : Nat
  slot : Nat
  first : Nat
  logM : Nat
  quota : Nat
  seed : Nat
  line : Nat
  save : Nat
  block : Nat
  ports : Nat
  log : Nat

/-- The fields of the entry (R374). -/
def newContextOf (e : List Byte) : NewContext where
  tag := field e 8 2
  slot := field e 0xA 1
  first := bits (field e 0xB 1) 3 0
  logM := bits (field e 0xB 1) 6 4
  quota := field e 0xC 4
  seed := field e 0x10 8
  line := entDpa e 0x18
  save := entDpa e 0x20
  block := entDpa e 0x28
  ports := field e 0x30 2
  log := entDpa e 0x38

/-- Partition size of the entry. -/
def NewContext.m (n : NewContext) : Nat := pow2 n.logM

/-- Two arcs are the same. -/
def NewContext.sameArc (n : NewContext) (c : Context) : Bool := c.first == n.first && c.logM == n.logM

/-- Bytes of one save area (R382). -/
def saveBytes : Nat := 0x84000000

/-- The pages of an entry meet a byte range. -/
def entryMeets (e : BitVec 128) (a n : Nat) : Bool :=
  pValid e && decide (pBase e * 4096 < a + n) && decide (a < (pLimit e + 1) * 4096)

/-- Checks 1 to 7 of R379: the code of the first that fails. -/
def Device.createCode (d : Device) (n : NewContext) : Option Nat :=
  if 16 ≤ d.ctxs.length then some 0x5A
  else if n.tag = 0 ∨ (d.ctxs.any fun c => c.tag.toNat == n.tag) then some 0x50
  else if 15 < n.slot ∨ (d.ctxs.any fun c => c.slot.val == n.slot) then some 0x51
  else if 4 < n.logM ∨ n.first % n.m ≠ 0 then some 0x52
  else if d.ctxs.any fun c => !n.sameArc c && decide (c.first < n.first + n.m) && decide (n.first < c.first + c.m) then some 0x53
  else if d.ctxs.any fun c => if n.sameArc c then c.portMask.toNat != n.ports else (c.portMask &&& BitVec.ofNat 16 n.ports) != 0 then some 0x54
  else if 65536 < (d.ctxs.map (·.quota)).sum + n.quota then some 0x55
  else none

/-- Check 8: the first valid grant that breaks R184, with its Pantry code. -/
def Device.grantFault (d : Device) (n : NewContext) (gs : List (BitVec 128)) : Option (Nat × Nat) :=
  gs.zipIdx.findSome? fun (g, i) =>
    if pValid g then (d.entryFault (fun cd => decide (n.first ≤ cd) && decide (cd < n.first + n.m)) (fun _ => true) false g).map fun k => (i, k)
    else none

/-- Domains named by the valid LPDDR and SRAM grants, in domain order. -/
def grantDomains (gs : List (BitVec 128)) : List (Fin 64) :=
  (List.finRange 64).filter fun dom => gs.any fun g => pValid g && pTarget g != 2 && pDomain g == dom

/-- Checks 9 to 11 of R379. The save areas and the grants of the contexts of a partition stay apart, both ways (R382). -/
def Device.createCode2 (d : Device) (n : NewContext) (gs : List (BitVec 128)) : Option Nat :=
  let g0 := gs.headD 0
  let spans := (List.range n.m).map fun p => lpddrOf (n.first + p) + n.save
  let mine := fun a => gs.any fun g => entryMeets g a saveBytes
  let others := d.ctxs.filter n.sameArc
  let theirs := others.any fun c => c.cds.any fun cd => gs.any fun g => entryMeets g (lpddrOf cd.val + c.saveArea.toNat) saveBytes
  let taken := fun (a : Nat) => others.any fun c =>
    (c.grants.any fun g => entryMeets g a saveBytes)
      || (c.cds.any fun cd => !apart (lpddrOf cd.val + c.saveArea.toNat) saveBytes a saveBytes)
  if !((grantDomains gs).all fun dom => d.boat.domains[dom].state == .installed) ∨ !(pValid g0 && pTarget g0 == 0) then some 0x57
  else if n.save % 0x10000 ≠ 0 ∨ usableOf d.code < n.save + saveBytes ∨ theirs ∨ (spans.any fun a => mine a || taken a) then some 0x58
  else if n.line % 64 ≠ 0 ∨ !(gs.any fun g => pCovers g n.line && pTarget g == 0 && pR g && pW g) then some 0x59
  else none

/-- The eight grants of a grant block. -/
def grantsOf (bs : List Byte) : List (BitVec 128) := (List.range 8).map fun i => BitVec.ofNat 128 (field bs (16 * i) 16)

/-- The new context (R380). -/
def newContext (n : NewContext) (gs : List (BitVec 128)) (resident : Bool) : Context where
  tag := BitVec.ofNat 16 n.tag
  slot := idx 16 n.slot
  first := n.first
  logM := n.logM
  quota := n.quota
  seed := BitVec.ofNat 64 n.seed
  commitLine := BitVec.ofNat 52 n.line
  saveArea := BitVec.ofNat 52 n.save
  pantry := each (fun i _ => (gs[i.val]?).getD 0) (Vector.replicate 64 0)
  portMask := BitVec.ofNat 16 n.ports
  domains := grantDomains gs
  resident := resident
  gens := List.replicate n.m 0

/-- The commit line at creation: step 0, the loss-scale values of R263, the commit-log offset (R380). -/
def freshCommitLine (log : Nat) : List Byte :=
  bytesLE 1 5 ++ zeros 3 ++ zeros 4 ++ bytesLE 1 16 ++ bytesLE 1 0 ++ bytesLE 1 24 ++ bytesLE 1 0 ++ bytesLE 2 2000 ++ zeros 2 ++ zeros 8
    ++ bytesLE 8 log ++ zeros 32

/-! ### Save headers (R383) -/

/-- The save domain: that of grant 0 (R383). -/
def Context.saveDom (c : Context) : Fin 64 := pDomain c.pantry[(0 : Fin 64)]

/-- Address of the save header of a position. -/
def Context.headerAt (c : Context) (pos : Nat) : Nat := lpddrOf (c.cdAt pos).val + c.saveArea.toNat

/-- Every position's save header written; `f` gives its bytes by position. -/
def Device.putHeaders (d : Device) (c : Context) (f : Nat → List Byte) : Device :=
  (List.range c.m).foldl (fun d pos => d.writeAs c.saveDom (c.headerAt pos) (f pos)) d

/-- The save generation of a position that the HD keeps. -/
def Context.gen (c : Context) (pos : Nat) : Nat := ((c.gens[pos]?).map (·.toNat)).getD 0

/-- Page intervals of a context by domain, added to those since boot (R413). -/
def Device.noteIntervals (d : Device) (c : Context) : Device :=
  let grants := c.grants.filterMap fun g =>
    if pValid g && pTarget g == 0 then some (pDomain g, pBase g * 4096 / 0x2000000000, pBase g, pLimit g) else none
  let saves := c.cds.map fun cd =>
    let a := lpddrOf cd.val + c.saveArea.toNat
    (c.saveDom, cd.val, a / 4096, (a + saveBytes) / 4096 - 1)
  { d with boat := { d.boat with domains := each (fun dom x =>
      { x with intervals := x.intervals ++ ((grants ++ saves).filter fun r => r.1 == dom).map fun r => r.2 }) d.boat.domains } }

/-- The effects of CONTEXT_CREATE (R380). -/
def Device.create (d : Device) (n : NewContext) (gs : List (BitVec 128)) : Device :=
  let resident := !(d.ctxs.any n.sameArc)
  let c := newContext n gs resident
  let d1 := ({ d with ctxs := d.ctxs ++ [c], gone := d.gone.filter fun g => g.tag != c.tag }).noteIntervals c
  let d2 := if resident then d1.modMem fun m => m.takeEntries gs else d1
  let d3 := d2.writeAs (c.domOf n.line) n.line (freshCommitLine n.log)
  d3.putHeaders c fun pos => saveHeader false 0 pos c.tag 0 0 0

/-- CONTEXT_CREATE at the head of the admin ring. -/
def Device.contextCreate (d : Device) (t : Taken) : Device :=
  let n := newContextOf t.entry
  match d.createCode n with
  | some code => d.answer .admin t code
  | none =>
    match d.adminRead n.block 128 with
    | .error r => d.answerErr .admin t 0xE6 r []
    | .ok block =>
      let gs := grantsOf block
      match d.grantFault n gs with
      | some (i, k) => d.answerErr .admin t 0x56 (d.err hdIsland 7 k 0 none i) []
      | none =>
        match d.createCode2 n gs with
        | some code => d.answer .admin t code
        | none => (d.create n gs).answer .admin t 0

/-- CONTEXT_CREATE. -/
def execContextCreate (s : State) : Host.Outcome State Fault Refusal :=
  .next { s with dev := s.dev.adminDescriptor 0x40 Device.contextCreate }

/-! ### Leaving the dies (R387, R389) -/

/-- Every on-die structure of the arc's CDs zeroed (R387 step 5, R421 step 5). -/
def Device.zeroDies (d : Device) (c : Context) : Device := d.modArc c fun _ _ => {}

/-- A memory fault of a switch's own transfer: its record, and the context in FAULTED (R15, R192). -/
def Device.switchFault (d : Device) (c : Context) (line done : Nat) (write : Bool) : Device × ErrRec :=
  let r := d.hdErr c eEcc line done write
  (d.fault c r, r)

/-- Step 4 of R387: every position writes its save area with the next generation, which the HD keeps; what has no layout in it stays with
the context (log entry 16). -/
def Device.saveDies (d : Device) (c : Context) : Device :=
  let dies := c.cds.map fun cd => d.dies[cd].stopPoint c.cond
  let c1 := { c with gens := c.gens.map fun g => g + 1, resident := false, saved := some dies, held := false, resumeDue := false }
  let d1 := (dies.zipIdx).foldl (fun d (x, pos) =>
    d.saveDie c1 c.saveDom (c.headerAt pos) pos (c1.gen pos) (c.cdAt pos) x) d
  (d1.modCtx c.slot fun _ => c1).zeroDies c

/-- The save of a context: the accesses of its Coxes in flight land first (R142). A line of its bonded SRAM in error puts it in FAULTED before
it is saved (R172, R192; log entry 80). -/
def Device.saveContext (d : Device) (c : Context) : Device × Option ErrRec :=
  let d0 := c.cds.foldl Device.busFlush d
  match d0.rangesBad c.saveReads with
  | none => (d0.saveDies c, none)
  | some (l, done) =>
    let (d1, r) := d0.switchFault c l done false
    (d1.saveDies ((d1.ctxAt c.slot).getD c), some r)

/-! ### Restore (R388) -/

/-- The header of a position as the device reads it; a line in error gives no data (R176). -/
def Device.headerOf (d : Device) (c : Context) (pos : Nat) : List Byte :=
  if (d.dataCode (c.headerAt pos) 64).isSome then zeros 64 else d.readAs c.saveDom (c.headerAt pos) 64

/-- The first header in error (R176, R388). -/
def Device.headerBad (d : Device) (c : Context) : Option Nat :=
  ((List.range c.m).map c.headerAt).find? fun a => (d.dataCode a 64).isSome

/-- Every header can be read under the save domain and carries the generation that the HD kept (R189, R388; log entry 16). -/
def Device.gensMatch (d : Device) (c : Context) : Bool :=
  (List.range c.m).all fun pos => (d.keyCheck (c.headerAt pos) c.saveDom).isNone && field (d.headerOf c pos) 8 4 == c.gen pos

/-- A header marked saved. -/
def headerSaved (h : List Byte) : Bool := field h 1 1 == 1

/-- The image of the loaded plan still passes the check of R167: its bytes and their CRC-32C; the image, where a plan is loaded and it
does. -/
def Device.intactImage (d : Device) (c : Context) : Option (List Byte) :=
  match c.plan with
  | none => none
  | some p =>
    match d.planImage c p.image.toNat p.bytes with
    | .ok img => if imageCrc img == p.crc.toNat then some img else none
    | .error _ => none

/-- A zeroed die of a position with the plan store reloaded (R388 step 2). -/
def planDie (img : Option (List Byte)) (pos : Nat) : Die :=
  match img with
  | none => {}
  | some img =>
    let ss := sectsOf img
    match sectAt ss 1 pos, sectAt ss 2 pos, sectAt ss 3 pos with
    | some cs, some rs, some qs => loadDie {} img cs rs qs
    | _, _, _ => {}

/-- The die of a position from its save area: zeroed for a header marked empty (R388 steps 2 and 3). -/
def Device.loadedDie (d : Device) (c : Context) (img : Option (List Byte)) (pos : Nat) : Die :=
  let h := d.headerOf c pos
  let base := c.headerAt pos
  let dom := c.saveDom
  if !headerSaved h then {}
  else
    let kept : Die := (c.saved.bind fun l => l[pos]?).getD {}
    kept.restore (planDie img pos) (field h 0xC 4) (field h 0x10 8) fun j =>
      if j = 11 then d.getLadle dom base kept.ladle.buckets else d.getSect dom base j

/-- The dies of the arc loaded from their save areas. -/
def Device.loadDies (d : Device) (c : Context) (img : Option (List Byte)) : Device :=
  d.modArc c fun cd _ => d.loadedDie c img (c.posOf cd)

/-- The covered bonded SRAM of every position whose header marks the section valid (R388 step 1). -/
def Device.loadSram (d : Device) (c : Context) : Device :=
  (List.range c.m).foldl (fun d pos =>
    let h := d.headerOf c pos
    if headerSaved h && (field h 0xC 4).testBit 12 then d.getSram c.saveDom (c.headerAt pos) c (c.cdAt pos) else d) d

/-- The context is resident after its restore; without a saved header it has no plan. -/
def Context.restored (c : Context) (saved : Bool) : Context :=
  { c with resident := true, saved := none, pausing := false, pauseOver := false, plan := if saved then c.plan else none }

/-- Steps 4 and 5 of R388: the ports grant again, and a run that was in progress goes on, unless an Easy-all episode holds it (R449). -/
def Device.resumeIssue (d : Device) (c : Context) : Device :=
  let d1 := d.resumeTree c
  if c.cond ≠ .running ∨ !c.runsNow then d1
  else if d.pd.signalled then d1.modCtx c.slot fun c => { c with held := true }
  else d1.resumeRun c

/-- The ranges of the save areas that a restore reads behind the headers. -/
def Device.restoreReads (d : Device) (c : Context) : List (Nat × Nat) :=
  (List.range c.m).flatMap fun pos =>
    let h := d.headerOf c pos
    if headerSaved h then ((c.saved.bind fun l => l[pos]?).getD {}).restoreReads c (c.cdAt pos) (c.headerAt pos) (field h 0xC 4) else []

/-- A context that becomes resident in the FAULTED condition with nothing loaded (R388). -/
def Context.unrestored (c : Context) : Context :=
  { c with resident := true, saved := none, cond := .faulted, pausing := false, pauseOver := false }

/-- Restore of the incoming context; the answer is the switch's code, with the record of a memory fault of its own reads (R388). A plan image
that has changed puts the context in FAULTED, and its run stops (R167, R195). A header line in error counts as one that cannot be read: no
state is loaded; a later line in error leaves the context FAULTED with what was read before it (R176, R192, R194; log entry 80). -/
def Device.restoreContext (d : Device) (c : Context) : Device × Nat × Option ErrRec :=
  match d.headerBad c with
  | some l =>
    let (d1, r) := ((d.eccRange l 64).modCtx c.slot Context.unrestored).switchFault c.unrestored l 0 false
    (d1, 0xE6, some r)
  | none =>
  if !d.gensMatch c then (d.modCtx c.slot Context.unrestored, 0x5C, none)
  else
    let reads := d.restoreReads c
    let saved := (List.range c.m).all fun pos => headerSaved (d.headerOf c pos)
    let d0 := reads.foldl (fun d (r : Nat × Nat) => d.eccRange r.1 r.2) d
    let d1 := (d0.modMem fun m => m.takeEntries c.grants).loadSram c
    let img := d1.intactImage c
    let c1 := c.restored saved
    let d2 := (d1.loadDies c img).modCtx c.slot fun _ => c1
    let d3 := if c1.aborted then d2.abortBuckets c1 else d2
    match d.rangesBad reads with
    | some (l, done) =>
      let (d4, r) := d3.switchFault c1 l done false
      (d4, 0xE6, some r)
    | none =>
      if c1.plan.isSome && img.isNone then (d3.fault c1 (d3.err hdIsland 6 4 c1.tag (c1.plan.map (·.image.toNat)) 0), 0, none)
      else (d3.resumeIssue c1, 0, none)

/-! ### CONTEXT_SWITCH (R354, R387) -/

/-- A descriptor of the context is in execution, other than a run in progress: a run that has not begun, or a fence. -/
def Context.executing (c : Context) : Bool :=
  match c.head with
  | none => false
  | some t => t.op == 0x21 || c.run.any fun u => !u.begun

/-- Every message granted to the context's peers has landed (R354). -/
def Context.messagesLanded (c : Context) : Bool :=
  match c.plan with
  | none => true
  | some p => p.recvs.all fun r => r.held == 0 && r.landing.isEmpty

/-- The checks of R387: a code, or the outgoing and incoming contexts. -/
def Device.switchCheck (d : Device) (out inn : BitVec 16) : Except Nat (Option Context × Option Context) :=
  let o := d.ctxTag out
  let i := d.ctxTag inn
  if out = 0 ∧ inn = 0 then .error 0xE4
  else if (out ≠ 0 ∧ o.isNone) ∨ (inn ≠ 0 ∧ i.isNone) then .error 0xEC
  else
    let o := if out = 0 then none else o
    let i := if inn = 0 then none else i
    match o, i with
    | some a, some b =>
      if a.first ≠ b.first ∨ a.logM ≠ b.logM then .error 0x5B else if !a.resident || b.resident then .error 0xEB else .ok (o, i)
    | some a, none => if a.resident then .ok (o, i) else .error 0xEB
    | none, some b =>
      if b.resident || (d.ctxs.any fun c => c.resident && c.first == b.first && c.logM == b.logM) then .error 0xEB else .ok (o, i)
    | none, none => .error 0xE4

/-- The completion of a switch: a code, and FAULT with its record where a transfer of its own has faulted (R371, R387). -/
def Device.switchAnswer (d : Device) (t : Taken) (code : Nat) (r : Option ErrRec) : Device :=
  match r with
  | none => d.answer .admin t code
  | some r => d.finish .admin t 0xE6 1 (zeros 16 ++ r.encode)

/-- Steps 4 to 7 of R387. -/
def Device.switchGo (d : Device) (t : Taken) (o i : Option Context) : Device :=
  let (d1, r) := match o with
    | some a => d.saveContext a
    | none => (d, none)
  let d2 := { d1 with switching := none }
  match i with
  | none => d2.switchAnswer t 0 r
  | some b =>
    let (d3, code, r3) := d2.restoreContext b
    d3.switchAnswer t code (if r.isSome then r else r3)

/-- Steps 1 and 2 of R387: PREEMPT and PAUSE(q) are sent, and the ports stop granting credit. -/
def Device.switchBegin (d : Device) (t : Taken) (o : Option Context) (out inn : BitVec 16) : Device :=
  match o with
  | none => d
  | some a =>
    let d1 := { d with switching := some { out := out, inn := inn, seq := t.seq } }
    let d2 := d1.modCtx a.slot fun c => { c with pausing := true, pauseOver := false }
    if a.cond = .running then d2.sendPause a else d2

/-- CONTEXT_SWITCH at the head of the admin ring: it waits while the outgoing context executes a descriptor, for the lines that are
scheduled before its pause, and for granted messages (R227, R354, R387). -/
def Device.contextSwitch (d : Device) (t : Taken) : Device :=
  let out := BitVec.ofNat 16 (field t.entry 8 2)
  let inn := BitVec.ofNat 16 (field t.entry 0xA 2)
  match d.switchCheck out inn with
  | .error code => d.answer .admin t code
  | .ok (o, i) =>
    if d.switching.isNone && o.any (·.executing) then d
    else
      let d1 := if d.switching.isSome then d else d.switchBegin t o out inn
      match o.bind fun a => d1.ctxAt a.slot with
      | some a => if d1.courseStill a && (a.messagesLanded || a.pauseOver) then d1.switchGo t (some a) i else d1
      | none => d1.switchGo t none i

/-- CONTEXT_SWITCH. -/
def execContextSwitch (s : State) : Host.Outcome State Fault Refusal :=
  .next { s with dev := s.dev.adminDescriptor 0x43 Device.contextSwitch }

/-- The limit of the wait for granted messages passes (R354). -/
def Device.pauseExpiry (d : Device) (slot : CtxSlot) : Device :=
  match d.ctxAt slot with
  | some c => if c.pausing then d.modCtx slot fun c => { c with pauseOver := true } else d
  | none => d

/-- PAUSE_LIMIT_EXPIRY. -/
def execPauseLimitExpiry (slot : CtxSlot) (s : State) : Host.Outcome State Fault Refusal := .next { s with dev := s.dev.pauseExpiry slot }

/-! ### Leaving the fabric (R355, R389, R421 step 1) -/

/-- A waiting packet header belongs to a route of the context. -/
def Context.ownsHeader (c : Context) (p : PortNo) (h : List Byte) : Bool :=
  c.routes.any fun r => r.port == p && r.job.toNat == field h 4 4 && r.peer.toNat == field h 0xE 2

/-- A port after the context's packets are dropped: one partly sent stops at a line boundary. -/
def Port.without (x : Port) (mine : List Byte → Bool) : Port :=
  { x with
    tx := each (fun i ls =>
      match x.txPart[i] with
      | some (h, n) => if mine h then dropPackets mine ls.length (ls.drop n) else ls.take n ++ dropPackets mine ls.length (ls.drop n)
      | none => dropPackets mine ls.length ls) x.tx
    txPart := each (fun _ o => if o.any fun (p : List Byte × Nat) => mine p.1 then none else o) x.txPart
    c2Wait := dropPackets mine x.c2Wait.length x.c2Wait }

/-- A plan without its send and receive streams (R421 step 1). -/
def Plan.noStreams (p : Plan) : Plan := { p with sends := [], recvs := [], credits := [] }

/-- The context is gone from the fabric: its routes answer CONTEXT_GONE, its waiting packets and tag entries are dropped, and its
streams are discarded. -/
def Device.leaveFabric (d : Device) (c : Context) : Device :=
  let d1 := ((d.endTags c codeAborted).releaseCredit c.tag).modCtx c.slot fun c => { c with plan := c.plan.map Plan.noStreams }
  { d1 with
    gone := d1.gone ++ c.routes.map fun r => { tag := c.tag, route := r }
    ports := each (fun p x => x.without (c.ownsHeader p)) d1.ports
    fds := each (fun _ f => { f with digests := f.digests.filter fun t => t.ctx != c.tag }) d1.fds
    companion := d1.companion.filter fun a => a.slot != c.slot }

/-! ### CONTEXT_DESTROY (R389) -/

/-- CONTEXT_DESTROY at the head of the admin ring. -/
def Device.contextDestroy (d : Device) (t : Taken) : Device :=
  match d.ctxTag (BitVec.ofNat 16 (field t.entry 8 2)) with
  | none => d.answer .admin t 0xEC
  | some c =>
    if c.cond = .running then d.answer .admin t 0xEB
    else
      let d1 := d.leaveFabric c
      let d2 := if c.resident then d1.zeroDies c else d1
      ({ d2 with ctxs := d2.ctxs.filter fun x => x.slot != c.slot }).answer .admin t 0

/-- CONTEXT_DESTROY. -/
def execContextDestroy (s : State) : Host.Outcome State Fault Refusal :=
  .next { s with dev := s.dev.adminDescriptor 0x41 Device.contextDestroy }

/-! ### CONTEXT_RESET (R421 to R424) -/

/-- Islands of the units of the arc (R421 step 3). -/
def Context.islands (c : Context) : List (BitVec 16) := c.cds.flatMap fun cd => dieIslands cd.val cdUnits

/-- A Cox that runs stops with reason CONTEXT_RESET: its tally record is written, and its stop record is held for the next dump (R55, R139,
R140). -/
def Device.resetCox (d : Device) (c : Context) (cd : Cd) : Device :=
  let d := d.busFlush cd
  let x := d.dies[cd]
  if x.cox.run = .idle then d
  else
    let r := x.cox.stopRecord cd.val c.tag 4 0 x.cox.pc.toNat (d.cycle (cdIsland cd 0 0)) none
    let d1 := { d with dump := { d.dump with stops := (d.dump.stops.filter fun (s : Nat × List Byte) => s.1 != cd.val) ++ [(cd.val, r)] } }.modDie cd
      fun x => { x with cox := { x.cox with run := .idle, waiting := none }, tally := {} }
    match c.run with
    | none => d1
    | some u => d1.putRecord c cd (cdIsland cd 0 0) (recordAddr u.tally u.sramWin cd (32 * c.posOf cd)) (x.tally.encode cd.val c.tag (d.stepNo c))

/-- Identifier of the loaded plan, zero for none. -/
def Context.planNo (c : Context) : Nat := match c.plan with
  | some p => p.planId.toNat
  | none => 0

/-- Steps 6 and 7 of R421 on the context: regions, plan, reduction and routes are gone; the reset counts as a fence (R423). -/
def Context.afterReset (c : Context) : Context :=
  { c with
    cond := .idle
    pantry := each (fun i e => if i.val < 8 then e else 0) c.pantry
    roles := Vector.replicate 64 0
    plan := none, run := none, head := none, reduce := none, routes := [], treeStopped := [], aborted := false, fenced := true
    pausing := false, pauseOver := false, held := false, resumeDue := false, attempt := 0, saved := none }

/-- Descriptors of the context in execution: the run that has left the head, and the head. -/
def Context.inExecution (c : Context) : Nat :=
  (if c.run.any fun u => u.begun && u.op == 2 then 1 else 0) + (if c.head.isSome then 1 else 0)

/-- Step 7 of R421: the run and the descriptor at the head complete with RESET, and the ring set stops (R421). -/
def Device.resetRings (d : Device) (c : Context) : Device :=
  let id := RingId.ctx c.slot
  let d1 := match c.run with
    | some u =>
      if u.begun && u.op == 2 then d.onRing id fun tag x =>
        ringComplete tag u.op u.seq 0xEF 0 (runResult { u with reason := 4, firstErr := none } (BitVec.ofNat 64 c.planNo)) x
      else d
    | none => d
  let d2 := match c.head with
    | some t => d1.onRing id fun tag x => ringComplete tag t.op t.seq 0xEF 0 [] x
    | none => d1
  d2.onRing id fun _ x => ringStop 0xEF x

/-- The result of a CONTEXT_RESET (R424). -/
def resetResult (line : List Byte) (forced n : Nat) (isl : BitVec 16) (cycles : Nat) : List Byte :=
  (line.drop 4).take 4 ++ (line.drop 1).take 1 ++ bytesLE 1 forced ++ bytesLE 2 n ++ bytesLE 2 isl.toNat ++ zeros 6 ++ bytesLE 8 cycles

/-- Steps 6 to 8 of R421: the context is idle, its descriptors complete, and so does the reset. -/
def Device.resetEnd (d : Device) (c : Context) (t : Taken) (forced : Nat) (start : BitVec 64) : Device :=
  let d1 := (d.resetRings c).modCtx c.slot Context.afterReset
  let line := d1.commitLine c
  ({ d1 with resetting := none }).finish .admin t 0 0 (resetResult line forced c.inExecution 0 (d1.cycle hdIsland - start).toNat)

/-- A saved context is reset without touching a die: its headers keep only the bonded SRAM section (R424). -/
def Device.resetSaved (d : Device) (c : Context) (t : Taken) : Device :=
  let c1 := { c with gens := c.gens.map fun g => g + 1 }
  let d1 := (d.leaveFabric c).putHeaders c1 fun pos =>
    let h := d.headerOf c pos
    saveHeader (headerSaved h) 0 pos c.tag (c1.gen pos) (field h 0xC 4 &&& 0x1000) 0
  (d1.modCtx c.slot fun _ => c1).resetEnd c1 t 0 (d.cycle hdIsland)

/-- FD and HD units that do not answer the management scan path: they cannot take their part in a reset (R421, R422; log entry 79). -/
def Device.silentServers (d : Device) : List (BitVec 16) := d.dump.silent.filter fun i => let die := bits i.toNat 15 10; decide (16 ≤ die) && decide (die ≤ 18)

/-- Steps 1 to 3 of R421: the context leaves the fabric, an automatic dump is taken, every unit of the arc is told to stop; the open norm
groups close with the run (R283). -/
def Device.resetBegin (d : Device) (c : Context) (t : Taken) : Device :=
  let d1 := (d.leaveFabric c).autoDump 1 c.tag
  let d2 := c.cds.foldl (fun d cd => (d.resetCox c cd).closeGroup c cd) d1
  let d3 := d2.modArc c fun _ x => { x with frozen := true }
  { d3 with resetting := some { slot := c.slot, seq := t.seq, waiting := c.islands ++ d.silentServers, start := d.cycle hdIsland } }

/-- CONTEXT_RESET at the head of the admin ring. -/
def Device.contextReset (d : Device) (t : Taken) : Device :=
  if d.resetting.isSome then d
  else match d.ctxTag (BitVec.ofNat 16 (field t.entry 8 2)) with
    | none => d.answer .admin t 0xEC
    | some c => if c.resident then d.resetBegin c t else d.resetSaved c t

/-- CONTEXT_RESET. -/
def execContextReset (s : State) : Host.Outcome State Fault Refusal :=
  .next { s with dev := s.dev.adminDescriptor 0x42 Device.contextReset }

/-- The reset ends after step 4 with RESET_INCOMPLETE, the unit that did not answer, and the context FAULTED (R422). -/
def Device.resetIncomplete (d : Device) (r : Resetting) (c : Context) (t : Taken) (i : BitVec 16) : Device :=
  let d1 := ({ d with resetting := none } : Device).modCtx r.slot fun c => { c with cond := .faulted }
  d1.finish .admin t 0x5D 0 (resetResult (d1.commitLine c) r.nForced 0 i (d1.cycle hdIsland - r.start).toNat)

/-- Step 5 and later of R421, once every unit has stopped and none is held in reset; with a unit that is never forced and has not answered, the
reset ends there (R422). -/
def Device.resetStep (d : Device) : Device :=
  match d.resetting, d.adminHead with
  | some r, some t =>
    if r.waiting.isEmpty && r.forced.isEmpty then
      match d.ctxAt r.slot, r.stuck with
      | some c, none => (d.zeroDies c).resetEnd c t r.nForced r.start
      | some c, some i => d.resetIncomplete r c t i
      | none, _ => d
    else d
  | _, _ => d

/-- A unit acknowledges that it has stopped (R421). -/
def Device.resetAck (d : Device) (i : BitVec 16) : Device :=
  match d.resetting with
  | none => d
  | some r =>
    if r.waiting.contains i then
      ({ d with resetting := some { r with waiting := r.waiting.filter (· != i) } } : Device).resetStep
    else d

/-- UNIT_RESET_ACK. -/
def execUnitResetAck (island : BitVec 16) (s : State) : Host.Outcome State Fault Refusal :=
  .next { s with dev := s.dev.resetAck island }

/-- A unit that is never forced: an LPDDR5X controller, a bonded SRAM interface, or a unit of an FD or of the HD (R422). -/
def neverForced (i : BitVec 16) : Bool := decide (16 ≤ bits i.toNat 15 10) || decide (10 ≤ bits i.toNat 9 4)

/-- The bound of step 4 passes: every other silent unit is forced; one that is never forced ends the reset after that (R422). -/
def Device.resetTimeout (d : Device) : Device :=
  match d.resetting with
  | none => d
  | some r =>
    if r.waiting.isEmpty then d
    else
      let now := r.waiting.filter fun i => !neverForced i
      ({ d with resetting := some { r with waiting := [], forced := now, nForced := now.length, stuck := r.waiting.find? neverForced } } : Device).resetStep

/-- RESET_ACK_TIMEOUT. -/
def execResetAckTimeout (s : State) : Host.Outcome State Fault Refusal := .next { s with dev := s.dev.resetTimeout }

/-- A forced island is released: its local cycle counter starts at zero (R14, R422). -/
def Device.forcedRelease (d : Device) (i : BitVec 16) : Device :=
  match d.resetting with
  | none => d
  | some r =>
    if r.forced.contains i then
      (({ d with resetting := some { r with forced := r.forced.filter (· != i) } } : Device).restart (· == i)).resetStep
    else d

/-- FORCED_RESET_RELEASE. -/
def execForcedResetRelease (island : BitVec 16) (s : State) : Host.Outcome State Fault Refusal :=
  .next { s with dev := s.dev.forcedRelease island }

end Sys2Proof.Machine
end

