-- ==== Sys2Proof/Machine/Cox.lean ====
section
/-! DEFINITION. The Cox: scalar instructions, the issue of strokes, stops and stalls (R120 to R142, R159). -/

namespace Sys2Proof.Machine

/-! ### Operands -/

/-- The second operand y (R134). -/
def Cox.y (k : Cox) (w : Slot0) : BitVec 64 := if w.i then w.simm else k.rd w.b

/-- A shift count (R134). -/
def Cox.sh (k : Cox) (w : Slot0) : Nat := (k.y w).toNat % 64

/-- The guard (R134). -/
def Cox.guard (k : Cox) (w : Slot0) : Bool := k.rdp w.gp != w.gn

/-- Leading zero bits, 0 to 64. -/
def leadingZeros (v : BitVec 64) : Nat := if v = 0 then 64 else 63 - log2 v.toNat

/-- Number of one bits. -/
def popCount (v : BitVec 64) : Nat := (List.range 64).foldl (fun n i => if v.getLsbD i then n + 1 else n) 0

/-- What slot 0 does: the device afterwards, and whether the stroke has stopped at a fault. -/
abbrev Scalar := Slot0 → Context → Cd → Device → Device × Bool

/-- An instruction that acts on the Cox alone. -/
def onCox (f : Slot0 → Cox → Cox) : Scalar := fun w _ cd d => (d.modCox cd (f w), false)

/-- An instruction with no effect of its own on the registers. -/
def onNothing : Scalar := fun _ _ _ d => (d, false)

/-- A stroke that stops with a Cox error (R139, R141). -/
def stopWith (code : Nat) (dpa : Option Nat) (detail : Nat) : Scalar := fun _ c cd d =>
  (d.coxFault c cd (d.coxErr c cd code dpa detail) none, true)

/-- A row of the table: a running Cox whose guard holds executes the instruction, while its context is neither being pre-empted nor held by
Easy-all (R129, R134). -/
def Device.scalar (d : Device) (cd : Cd) (w : Slot0) (f : Scalar) : Device :=
  match d.residentOf cd with
  | none => d
  | some c =>
    let k := d.dies[cd].cox
    if k.run = .running ∧ !d.stopping c ∧ k.guard w then (f w c cd d).1 else d

/-! ### Integer, compare and predicate instructions (R134) -/

/-- NOP: Scalar NOP does nothing. -/
def opNopS (_w : Slot0) (k : Cox) : Cox := k

/-- ADD: Scalar add of g[a] and y into g[d]. -/
def opAdd (w : Slot0) (k : Cox) : Cox := k.wr w.d (k.rd w.a + k.y w) 1

/-- SUB: Scalar subtract of y from g[a] into g[d]. -/
def opSub (w : Slot0) (k : Cox) : Cox := k.wr w.d (k.rd w.a - k.y w) 1

/-- MUL: Scalar multiply keeping the low 64 bits. -/
def opMul (w : Slot0) (k : Cox) : Cox := k.wr w.d (k.rd w.a * k.y w) 3

/-- MULH: Scalar multiply keeping the high 64 bits of the signed product. -/
def opMulh (w : Slot0) (k : Cox) : Cox := k.wr w.d (BitVec.ofInt 64 (((k.rd w.a).toInt * (k.y w).toInt) / 2 ^ 64)) 3

/-- DIVU: Unsigned divide, giving all ones when the divisor is zero. -/
def opDivu (w : Slot0) (k : Cox) : Cox := k.wr w.d (if k.y w = 0 then BitVec.allOnes 64 else k.rd w.a / k.y w) 34

/-- REMU: Unsigned remainder, giving g[a] when the divisor is zero. -/
def opRemu (w : Slot0) (k : Cox) : Cox := k.wr w.d (if k.y w = 0 then k.rd w.a else k.rd w.a % k.y w) 34

/-- AND: Bitwise and of g[a] and y. -/
def opAndS (w : Slot0) (k : Cox) : Cox := k.wr w.d (k.rd w.a &&& k.y w) 1

/-- OR: Bitwise or of g[a] and y. -/
def opOrS (w : Slot0) (k : Cox) : Cox := k.wr w.d (k.rd w.a ||| k.y w) 1

/-- XOR: Bitwise exclusive or of g[a] and y. -/
def opXorS (w : Slot0) (k : Cox) : Cox := k.wr w.d (k.rd w.a ^^^ k.y w) 1

/-- SHL: Shift left by y[5:0]. -/
def opShl (w : Slot0) (k : Cox) : Cox := k.wr w.d (k.rd w.a <<< (k.sh w)) 1

/-- SHR: Logical shift right by y[5:0]. -/
def opShr (w : Slot0) (k : Cox) : Cox := k.wr w.d (k.rd w.a >>> (k.sh w)) 1

/-- SHA: Arithmetic shift right by y[5:0]. -/
def opSha (w : Slot0) (k : Cox) : Cox := k.wr w.d ((k.rd w.a).sshiftRight (k.sh w)) 1

/-- MIN: Signed minimum of g[a] and y. -/
def opMin (w : Slot0) (k : Cox) : Cox := k.wr w.d (if (k.rd w.a).slt (k.y w) then k.rd w.a else k.y w) 1

/-- MAX: Signed maximum of g[a] and y. -/
def opMax (w : Slot0) (k : Cox) : Cox := k.wr w.d (if (k.rd w.a).slt (k.y w) then k.y w else k.rd w.a) 1

/-- CLZ: Counts the leading zero bits of g[a]. -/
def opClz (w : Slot0) (k : Cox) : Cox := k.wr w.d (BitVec.ofNat 64 (leadingZeros (k.rd w.a))) 1

/-- POPC: Counts the one bits of g[a]. -/
def opPopc (w : Slot0) (k : Cox) : Cox := k.wr w.d (BitVec.ofNat 64 (popCount (k.rd w.a))) 1

/-- LI: Loads the sign-extended immediate into g[d]. -/
def opLi (w : Slot0) (k : Cox) : Cox := k.wr w.d w.simm 1

/-- LIH: Replaces the upper 32 bits of g[d] with imm[31:0]. -/
def opLih (w : Slot0) (k : Cox) : Cox := k.wr w.d ((k.rd w.d &&& 0xFFFFFFFF) ||| ((w.imm.setWidth 64 &&& 0xFFFFFFFF) <<< 32)) 1

/-- CMPEQ: Sets p[d] to g[a] = y. -/
def opCmpeq (w : Slot0) (k : Cox) : Cox := k.wrp w.pd (k.rd w.a == k.y w)

/-- CMPNE: Sets p[d] to g[a] != y. -/
def opCmpne (w : Slot0) (k : Cox) : Cox := k.wrp w.pd (k.rd w.a != k.y w)

/-- CMPLT: Sets p[d] to the signed g[a] < y. -/
def opCmplt (w : Slot0) (k : Cox) : Cox := k.wrp w.pd ((k.rd w.a).slt (k.y w))

/-- CMPLE: Sets p[d] to the signed g[a] <= y. -/
def opCmple (w : Slot0) (k : Cox) : Cox := k.wrp w.pd ((k.rd w.a).sle (k.y w))

/-- CMPLTU: Sets p[d] to the unsigned g[a] < y. -/
def opCmpltu (w : Slot0) (k : Cox) : Cox := k.wrp w.pd ((k.rd w.a).ult (k.y w))

/-- CMPLEU: Sets p[d] to the unsigned g[a] <= y. -/
def opCmpleu (w : Slot0) (k : Cox) : Cox := k.wrp w.pd ((k.rd w.a).ule (k.y w))

/-- PLOG: Sets p[d] from a two-input truth table held in the immediate. -/
def opPlog (w : Slot0) (k : Cox) : Cox := k.wrp w.pd (w.imm.getLsbD ((if k.rdp w.pa then 2 else 0) + (if k.rdp w.pb then 1 else 0)))

/-- MOVP: Copies predicate p[a] into g[d] as 1 or 0. -/
def opMovp (w : Slot0) (k : Cox) : Cox := k.wr w.d (if k.rdp w.pa then 1 else 0) 1

/-- SEL: Scalar select of g[a] or g[b] by a predicate. -/
def opSel (w : Slot0) (k : Cox) : Cox := k.wr w.d (if k.rdp (idx 8 (bits w.imm.toNat 2 0)) then k.rd w.a else k.rd w.b) 1

/-- RDS: the s-register into g[d]. -/
def opRds (w : Slot0) (k : Cox) : Cox := k.wr w.d k.s[w.sa] 1

/-! ### Run constants (R122) -/

/-- A run constant; none for a reserved index. -/
def Device.runConst (d : Device) (c : Context) (cd : Cd) (i : Nat) : Option (BitVec 64) :=
  match i with
  | 0 => some (c.tag.setWidth 64)
  | 1 => some (BitVec.ofNat 64 cd.val)
  | 2 => some (BitVec.ofNat 64 (c.posOf cd))
  | 3 => some (BitVec.ofNat 64 c.m)
  | 4 => some (BitVec.ofNat 64 (d.stepNo c))
  | 5 => some (BitVec.ofNat 64 ((c.reduce.map (·.rank)).getD 0))
  | 6 => some (BitVec.ofNat 64 (usableOf d.code / 2 ^ 20))
  | 7 => some 5
  | n => if n < 16 then some d.dies[cd].cox.args[idx 8 n] else none

/-- RDC: a run constant into g[d]; a reserved index breaks a field rule (R122, R136). -/
def opRdc : Scalar := fun w c cd d =>
  match d.runConst c cd (bits w.imm.toNat 7 0) with
  | some v => (d.modCox cd fun k => k.wr w.d v 1, false)
  | none => stopWith 6 none 0 w c cd d

/-! ### Local memory (R124, R126) -/

/-- The address of a load or store. -/
def Cox.addr (k : Cox) (w : Slot0) : Nat := (k.rd w.a + w.simm).toNat

/-- Error of a local address: bounds before alignment (R124, R126). -/
def localErr (a n : Nat) (write : Bool) : Option Nat :=
  if !((a < 0x100000 && !write) || (0x100000 ≤ a && a < 0x140000)) then some 2
  else if a % n ≠ 0 then some 3 else none

/-- A local fault: the address stands in the record without the DPA-valid flag (R141). -/
def stopLocal (code a : Nat) : Scalar := fun _ c cd d =>
  (d.coxFault c cd { d.coxErr c cd code none 0 with dpa := BitVec.ofNat 52 a } none, true)

/-- A load of `n` bytes from a local address, extended by `f`. -/
def opLd (n : Nat) (f : Nat → BitVec 64) : Scalar := fun w c cd d =>
  let x := d.dies[cd]
  let a := x.cox.addr w
  if !w.i then stopWith 6 none 0 w c cd d
  else match localErr a n false with
    | some e => stopLocal e a w c cd d
    | none => (d.modCox cd fun k => k.wr w.d (f (le (memBytes 0 x.loc a n))) 3, false)

/-- A store of the low `n` bytes of g[b] to scratch. -/
def opSt (n : Nat) : Scalar := fun w c cd d =>
  let x := d.dies[cd]
  let a := x.cox.addr w
  if !w.i then stopWith 6 none 0 w c cd d
  else match localErr a n true with
    | some e => stopLocal e a w c cd d
    | none => (d.modDie cd fun x => { x with loc := memStore 0 x.loc a (bytesLE n (x.cox.rd w.b).toNat) }, false)

/-! ### Bonded SRAM (R125 to R128, R130) -/

/-- The checks of a DPA access of the Cox, in order: window, alignment, Pantry (R125, R126). -/
def Device.coxAccess (d : Device) (c : Context) (cd : Cd) (a n : Nat) (write : Bool) : Except ErrRec (Fin 64) :=
  if !(sramOf cd.val ≤ a && a < sramOf cd.val + 0x80000000) then .error (d.coxErr c cd 2 (some a) 0)
  else if a % n ≠ 0 then .error (d.coxErr c cd 3 (some a) 0)
  else match d.allowed c cd .cox write (lineOf a) with
    | .error e => .error (d.err (cdIsland cd 0 0) 7 e c.tag (some (lineOf a)) (faultDetail 0 write 0 0))
    | .ok i => .ok (pDomain c.pantry[i])

/-- LDD as a row of its own: a load of `n` bytes from bonded SRAM, whole in one step (log entry 71). A line that answers with an error writes
nothing; its response comes later (R128). -/
def opLdd (n : Nat) : Scalar := fun w c cd d =>
  let k := d.dies[cd].cox
  let a := k.addr w
  if !w.i then stopWith 6 none 0 w c cd d
  else match d.coxAccess c cd a n false with
    | .error r => (d.coxFault c cd r none, true)
    | .ok dom =>
      match d.dataCode a n with
      | some e => (d.modCox cd fun k =>
          { k.loadFails k.pc a e with ready := if w.d = 0 then k.ready else k.ready.set w.d (k.now + 20) }, false)
      | none => (d.modCox cd fun k => k.wr w.d (BitVec.ofNat 64 (le (d.readAs dom a n))) 20, false)

/-- STD as a row of its own: a store of the low `n` bytes of g[b] to bonded SRAM, whole in one step; strokes see it as landed 20 cycles later
(R127, R130; log entry 71). -/
def opStd (n : Nat) : Scalar := fun w c cd d =>
  let k := d.dies[cd].cox
  let a := k.addr w
  if !w.i then stopWith 6 none 0 w c cd d
  else match d.coxAccess c cd a n true with
    | .error r => (d.coxFault c cd r none, true)
    | .ok dom =>
      ((d.writeAs dom a (bytesLE n (k.rd w.b).toNat)).modCox cd fun k =>
        { k with landed := if k.landed < k.now + 20 then k.now + 20 else k.landed }, false)

/-- LDD in a stroke: the checks are made as it issues, and the bytes are read 19 cycles later, as they stand then (R130). An engine command
that names the register before is given the bytes as they stand now (DESIGN CHOICE, log entry 71). -/
def opLddBus (n : Nat) : Scalar := fun w c cd d =>
  let k := d.dies[cd].cox
  let a := k.addr w
  if !w.i then stopWith 6 none 0 w c cd d
  else match d.coxAccess c cd a n false with
    | .error r => (d.coxFault c cd r none, true)
    | .ok dom => (d.modCox cd fun k =>
        let k1 := k.wr w.d (BitVec.ofNat 64 (le (d.readAs dom a n))) 20
        { k1 with bus := k1.bus ++ [⟨k.now + 19, BitVec.ofNat 52 a, n, dom, none, w.d, k.pc⟩] }, false)

/-- STD in a stroke: the checks are made as it issues, and the bytes are written 19 cycles later (R127, R130). -/
def opStdBus (n : Nat) : Scalar := fun w c cd d =>
  let k := d.dies[cd].cox
  let a := k.addr w
  if !w.i then stopWith 6 none 0 w c cd d
  else match d.coxAccess c cd a n true with
    | .error r => (d.coxFault c cd r none, true)
    | .ok dom => (d.modCox cd fun k =>
        { k with
          landed := if k.landed < k.now + 20 then k.now + 20 else k.landed
          bus := k.bus ++ [⟨k.now + 19, BitVec.ofNat 52 a, n, dom, some (bytesLE n (k.rd w.b).toNat), 0, k.pc⟩] }, false)

/-! ### Branches, waits and stops -/

/-- A taken branch: the pc at the target and two bubble cycles (R131). -/
def Cox.jump (k : Cox) (t : Nat) : Cox := { k with pc := BitVec.ofNat 14 t, bubble := k.now + 3 }

/-- BR: the target, checked against the code section (R136). -/
def opBr : Scalar := fun w c cd d =>
  let t := (if w.i then w.simm else d.dies[cd].cox.rd w.a).toNat
  if t < d.dies[cd].codeStrokes then (d.modCox cd fun k => k.jump t, false)
  else stopWith 4 none (t % 2 ^ 14) w c cd d

/-- CALL: the return stroke into g[d], then as BR: a target register is read after that write (R134). -/
def opCall : Scalar := fun w c cd d =>
  let k := d.dies[cd].cox
  let k1 := k.wr w.d (BitVec.ofNat 64 (k.pc.toNat + 1)) 1
  let t := (if w.i then w.simm else k1.rd w.a).toNat
  if t < d.dies[cd].codeStrokes then (d.modCox cd fun _ => k1.jump t, false)
  else stopWith 4 none (t % 2 ^ 14) w c cd d

/-- DBNZ: g[d] lowered by one, and a branch while the new g[d], as it reads, is not zero (R134). -/
def opDbnz : Scalar := fun w c cd d =>
  let k := d.dies[cd].cox
  let k1 := k.wr w.d (k.rd w.d - 1) 1
  let t := w.simm.toNat
  if !w.i then stopWith 6 none 0 w c cd d
  else if k1.rd w.d = 0 then (d.modCox cd fun _ => k1, false)
  else if t < d.dies[cd].codeStrokes then (d.modCox cd fun _ => k1.jump t, false)
  else stopWith 4 none (t % 2 ^ 14) w c cd d

/-- WAITQ: the wait of the named queues for the commands issued so far. The WAITQ stroke itself issues, and the next one waits (DEDUCED, log
entry 52). -/
def opWaitq (w : Slot0) (k : Cox) : Cox := { k with waiting := some (w.imm.setWidth 6, k.issued) }

/-- HALT: the wait of all six queues, after which the run ends (R139). -/
def opHalt (_w : Slot0) (k : Cox) : Cox := { k with run := .haltWait, waiting := some (0x3F, k.issued) }

/-- TRAP: the run stops with the plan code and the context is FAULTED (R139). -/
def opTrap : Scalar := fun w c cd d =>
  let t := bits w.imm.toNat 15 0
  (d.coxFault c cd (d.coxErr c cd 5 none t) (some t), true)

/-- SEL: i must be 0 (R134). -/
def opSelWord : Scalar := fun w c cd d => if w.i then stopWith 6 none 0 w c cd d else onCox opSel w c cd d

/-- Sign extension of a 4-byte value. -/
def sext32 (v : Nat) : BitVec 64 := (BitVec.ofNat 32 v).signExtend 64

/-- The instruction of an opcode, with the g-registers it reads; none for a reserved opcode (R134, R135). -/
def scalarOf (op : Nat) (w : Slot0) : Option (Scalar × List (Fin 32)) :=
  let ay := if w.i then [w.a] else [w.a, w.b]
  let t := if w.i then [] else [w.a]
  match op with
  | 0x00 => some (onCox opNopS, [])
  | 0x01 => some (onCox opAdd, ay)
  | 0x02 => some (onCox opSub, ay)
  | 0x03 => some (onCox opMul, ay)
  | 0x04 => some (onCox opMulh, ay)
  | 0x05 => some (onCox opDivu, ay)
  | 0x06 => some (onCox opRemu, ay)
  | 0x07 => some (onCox opAndS, ay)
  | 0x08 => some (onCox opOrS, ay)
  | 0x09 => some (onCox opXorS, ay)
  | 0x0A => some (onCox opShl, ay)
  | 0x0B => some (onCox opShr, ay)
  | 0x0C => some (onCox opSha, ay)
  | 0x0D => some (onCox opMin, ay)
  | 0x0E => some (onCox opMax, ay)
  | 0x0F => some (onCox opClz, [w.a])
  | 0x10 => some (onCox opPopc, [w.a])
  | 0x11 => some (onCox opLi, [])
  | 0x12 => some (onCox opLih, [w.d])
  | 0x18 => some (onCox opCmpeq, ay)
  | 0x19 => some (onCox opCmpne, ay)
  | 0x1A => some (onCox opCmplt, ay)
  | 0x1B => some (onCox opCmple, ay)
  | 0x1C => some (onCox opCmpltu, ay)
  | 0x1D => some (onCox opCmpleu, ay)
  | 0x1E => some (onCox opPlog, [])
  | 0x20 => some (onCox opMovp, [])
  | 0x21 => some (opSelWord, [w.a, w.b])
  | 0x28 => some (onCox opRds, [])
  | 0x29 => some (opRdc, [])
  | 0x30 => some (opLd 8 (BitVec.ofNat 64), [w.a])
  | 0x31 => some (opLd 4 sext32, [w.a])
  | 0x32 => some (opLd 4 (BitVec.ofNat 64), [w.a])
  | 0x33 => some (opLd 2 (BitVec.ofNat 64), [w.a])
  | 0x34 => some (opSt 8, [w.a, w.b])
  | 0x35 => some (opSt 4, [w.a, w.b])
  | 0x36 => some (opSt 2, [w.a, w.b])
  | 0x38 => some (opLddBus 8, [w.a])
  | 0x39 => some (opLddBus 4, [w.a])
  | 0x3C => some (opStdBus 8, [w.a, w.b])
  | 0x3D => some (opStdBus 4, [w.a, w.b])
  | 0x3E => some (opStdBus 2, [w.a, w.b])
  | 0x40 => some (opBr, t)
  | 0x41 => some (opCall, t)
  | 0x42 => some (opDbnz, [w.d])
  | 0x48 => some (onCox opWaitq, [])
  | 0x50 => some (onCox opHalt, [])
  | 0x51 => some (opTrap, [])
  | _ => none

/-! ### The rows of the scalar table -/

/-- NOP (R134). -/
def execNopS (cd : Cd) (w : Slot0) (s : State) : Host.Outcome State Fault Refusal :=
  .next { s with dev := s.dev.scalar cd w (onCox opNopS) }

/-- ADD (R134). -/
def execAdd (cd : Cd) (w : Slot0) (s : State) : Host.Outcome State Fault Refusal :=
  .next { s with dev := s.dev.scalar cd w (onCox opAdd) }

/-- SUB (R134). -/
def execSub (cd : Cd) (w : Slot0) (s : State) : Host.Outcome State Fault Refusal :=
  .next { s with dev := s.dev.scalar cd w (onCox opSub) }

/-- MUL (R134). -/
def execMul (cd : Cd) (w : Slot0) (s : State) : Host.Outcome State Fault Refusal :=
  .next { s with dev := s.dev.scalar cd w (onCox opMul) }

/-- MULH (R134). -/
def execMulh (cd : Cd) (w : Slot0) (s : State) : Host.Outcome State Fault Refusal :=
  .next { s with dev := s.dev.scalar cd w (onCox opMulh) }

/-- DIVU (R134). -/
def execDivu (cd : Cd) (w : Slot0) (s : State) : Host.Outcome State Fault Refusal :=
  .next { s with dev := s.dev.scalar cd w (onCox opDivu) }

/-- REMU (R134). -/
def execRemu (cd : Cd) (w : Slot0) (s : State) : Host.Outcome State Fault Refusal :=
  .next { s with dev := s.dev.scalar cd w (onCox opRemu) }

/-- AND (R134). -/
def execAndS (cd : Cd) (w : Slot0) (s : State) : Host.Outcome State Fault Refusal :=
  .next { s with dev := s.dev.scalar cd w (onCox opAndS) }

/-- OR (R134). -/
def execOrS (cd : Cd) (w : Slot0) (s : State) : Host.Outcome State Fault Refusal :=
  .next { s with dev := s.dev.scalar cd w (onCox opOrS) }

/-- XOR (R134). -/
def execXorS (cd : Cd) (w : Slot0) (s : State) : Host.Outcome State Fault Refusal :=
  .next { s with dev := s.dev.scalar cd w (onCox opXorS) }

/-- SHL (R134). -/
def execShl (cd : Cd) (w : Slot0) (s : State) : Host.Outcome State Fault Refusal :=
  .next { s with dev := s.dev.scalar cd w (onCox opShl) }

/-- SHR (R134). -/
def execShr (cd : Cd) (w : Slot0) (s : State) : Host.Outcome State Fault Refusal :=
  .next { s with dev := s.dev.scalar cd w (onCox opShr) }

/-- SHA (R134). -/
def execSha (cd : Cd) (w : Slot0) (s : State) : Host.Outcome State Fault Refusal :=
  .next { s with dev := s.dev.scalar cd w (onCox opSha) }

/-- MIN (R134). -/
def execMin (cd : Cd) (w : Slot0) (s : State) : Host.Outcome State Fault Refusal :=
  .next { s with dev := s.dev.scalar cd w (onCox opMin) }

/-- MAX (R134). -/
def execMax (cd : Cd) (w : Slot0) (s : State) : Host.Outcome State Fault Refusal :=
  .next { s with dev := s.dev.scalar cd w (onCox opMax) }

/-- CLZ (R134). -/
def execClz (cd : Cd) (w : Slot0) (s : State) : Host.Outcome State Fault Refusal :=
  .next { s with dev := s.dev.scalar cd w (onCox opClz) }

/-- POPC (R134). -/
def execPopc (cd : Cd) (w : Slot0) (s : State) : Host.Outcome State Fault Refusal :=
  .next { s with dev := s.dev.scalar cd w (onCox opPopc) }

/-- LI (R134). -/
def execLi (cd : Cd) (w : Slot0) (s : State) : Host.Outcome State Fault Refusal :=
  .next { s with dev := s.dev.scalar cd w (onCox opLi) }

/-- LIH (R134). -/
def execLih (cd : Cd) (w : Slot0) (s : State) : Host.Outcome State Fault Refusal :=
  .next { s with dev := s.dev.scalar cd w (onCox opLih) }

/-- CMPEQ (R134). -/
def execCmpeq (cd : Cd) (w : Slot0) (s : State) : Host.Outcome State Fault Refusal :=
  .next { s with dev := s.dev.scalar cd w (onCox opCmpeq) }

/-- CMPNE (R134). -/
def execCmpne (cd : Cd) (w : Slot0) (s : State) : Host.Outcome State Fault Refusal :=
  .next { s with dev := s.dev.scalar cd w (onCox opCmpne) }

/-- CMPLT (R134). -/
def execCmplt (cd : Cd) (w : Slot0) (s : State) : Host.Outcome State Fault Refusal :=
  .next { s with dev := s.dev.scalar cd w (onCox opCmplt) }

/-- CMPLE (R134). -/
def execCmple (cd : Cd) (w : Slot0) (s : State) : Host.Outcome State Fault Refusal :=
  .next { s with dev := s.dev.scalar cd w (onCox opCmple) }

/-- CMPLTU (R134). -/
def execCmpltu (cd : Cd) (w : Slot0) (s : State) : Host.Outcome State Fault Refusal :=
  .next { s with dev := s.dev.scalar cd w (onCox opCmpltu) }

/-- CMPLEU (R134). -/
def execCmpleu (cd : Cd) (w : Slot0) (s : State) : Host.Outcome State Fault Refusal :=
  .next { s with dev := s.dev.scalar cd w (onCox opCmpleu) }

/-- PLOG (R134). -/
def execPlog (cd : Cd) (w : Slot0) (s : State) : Host.Outcome State Fault Refusal :=
  .next { s with dev := s.dev.scalar cd w (onCox opPlog) }

/-- MOVP (R134). -/
def execMovp (cd : Cd) (w : Slot0) (s : State) : Host.Outcome State Fault Refusal :=
  .next { s with dev := s.dev.scalar cd w (onCox opMovp) }

/-- SEL (R134). -/
def execSel (cd : Cd) (w : Slot0) (s : State) : Host.Outcome State Fault Refusal :=
  .next { s with dev := s.dev.scalar cd w (opSelWord) }

/-- RDS: it waits while the register is marked, then reads it (R132). -/
def execRds (cd : Cd) (w : Slot0) (s : State) : Host.Outcome State Fault Refusal :=
  .next { s with dev := if s.dev.dies[cd].cox.pend[w.sa] ≠ 0 then s.dev else s.dev.scalar cd w (onCox opRds) }

/-- RDC (R134). -/
def execRdc (cd : Cd) (w : Slot0) (s : State) : Host.Outcome State Fault Refusal :=
  .next { s with dev := s.dev.scalar cd w (opRdc) }

/-- LD64 (R134). -/
def execLd64 (cd : Cd) (w : Slot0) (s : State) : Host.Outcome State Fault Refusal :=
  .next { s with dev := s.dev.scalar cd w (opLd 8 (BitVec.ofNat 64)) }

/-- LD32 (R134). -/
def execLd32 (cd : Cd) (w : Slot0) (s : State) : Host.Outcome State Fault Refusal :=
  .next { s with dev := s.dev.scalar cd w (opLd 4 sext32) }

/-- LD32U (R134). -/
def execLd32u (cd : Cd) (w : Slot0) (s : State) : Host.Outcome State Fault Refusal :=
  .next { s with dev := s.dev.scalar cd w (opLd 4 (BitVec.ofNat 64)) }

/-- LD16U (R134). -/
def execLd16u (cd : Cd) (w : Slot0) (s : State) : Host.Outcome State Fault Refusal :=
  .next { s with dev := s.dev.scalar cd w (opLd 2 (BitVec.ofNat 64)) }

/-- ST64 (R134). -/
def execSt64 (cd : Cd) (w : Slot0) (s : State) : Host.Outcome State Fault Refusal :=
  .next { s with dev := s.dev.scalar cd w (opSt 8) }

/-- ST32 (R134). -/
def execSt32 (cd : Cd) (w : Slot0) (s : State) : Host.Outcome State Fault Refusal :=
  .next { s with dev := s.dev.scalar cd w (opSt 4) }

/-- ST16 (R134). -/
def execSt16 (cd : Cd) (w : Slot0) (s : State) : Host.Outcome State Fault Refusal :=
  .next { s with dev := s.dev.scalar cd w (opSt 2) }

/-- LDD64 (R134). -/
def execLdd64 (cd : Cd) (w : Slot0) (s : State) : Host.Outcome State Fault Refusal :=
  .next { s with dev := s.dev.scalar cd w (opLdd 8) }

/-- LDD32U (R134). -/
def execLdd32u (cd : Cd) (w : Slot0) (s : State) : Host.Outcome State Fault Refusal :=
  .next { s with dev := s.dev.scalar cd w (opLdd 4) }

/-- STD64 (R134). -/
def execStd64 (cd : Cd) (w : Slot0) (s : State) : Host.Outcome State Fault Refusal :=
  .next { s with dev := s.dev.scalar cd w (opStd 8) }

/-- STD32 (R134). -/
def execStd32 (cd : Cd) (w : Slot0) (s : State) : Host.Outcome State Fault Refusal :=
  .next { s with dev := s.dev.scalar cd w (opStd 4) }

/-- STD16 (R134). -/
def execStd16 (cd : Cd) (w : Slot0) (s : State) : Host.Outcome State Fault Refusal :=
  .next { s with dev := s.dev.scalar cd w (opStd 2) }

/-- BR (R134). -/
def execBr (cd : Cd) (w : Slot0) (s : State) : Host.Outcome State Fault Refusal :=
  .next { s with dev := s.dev.scalar cd w (opBr) }

/-- CALL (R134). -/
def execCall (cd : Cd) (w : Slot0) (s : State) : Host.Outcome State Fault Refusal :=
  .next { s with dev := s.dev.scalar cd w (opCall) }

/-- DBNZ (R134). -/
def execDbnz (cd : Cd) (w : Slot0) (s : State) : Host.Outcome State Fault Refusal :=
  .next { s with dev := s.dev.scalar cd w (opDbnz) }

/-- WAITQ (R134). -/
def execWaitq (cd : Cd) (w : Slot0) (s : State) : Host.Outcome State Fault Refusal :=
  .next { s with dev := s.dev.scalar cd w (onCox opWaitq) }

/-- HALT (R134). -/
def execHalt (cd : Cd) (w : Slot0) (s : State) : Host.Outcome State Fault Refusal :=
  .next { s with dev := s.dev.scalar cd w (onCox opHalt) }

/-- TRAP (R134). -/
def execTrap (cd : Cd) (w : Slot0) (s : State) : Host.Outcome State Fault Refusal :=
  .next { s with dev := s.dev.scalar cd w (opTrap) }

/-! ### Issue (R129 to R132, R137, R138) -/

/-- A command word of a stroke that is present, with its slot and queue. -/
structure Present where
  slot : Nat
  word : Nat
  queue : QueueId

/-- The commands of a stroke that are present under the predicates of `k` (R147). -/
def Die.present (x : Die) (k : Cox) (stroke : Nat) : List Present :=
  let h := x.slotWord stroke 7
  (List.range 6).filterMap fun j =>
    let w := x.slotWord stroke (j + 1)
    if headerValid h (j + 1) && (k.rdp (cwGp w) != cwGn w) then some ⟨j + 1, w, slotQueue (j + 1) w⟩ else none

/-- The s-registers that a command writes: its sreg, or s_base to s_base + 4 of a summary program (R106, R149). -/
def Die.regsOf (x : Die) (slot w : Nat) : List (Fin 16) :=
  let own := if cwSwr w then [cwSreg w] else []
  if slot = 2 ∧ cwOp w = 1 then
    let prog := le (x.planBytes (cwRec w + 4) 4)
    let mode := bits (le (x.planBytes (prog + 2) 1)) 1 0
    let base := bits (le (x.planBytes (prog + 9) 1)) 3 0
    if mode = 1 then own ++ (List.range 5).map fun j => idx 16 (base + j) else own
  else own

/-- Condition 5 fails for an s-register (R129, R149). -/
def Cox.marked (k : Cox) (slot : Nat) (r : Fin 16) : Bool :=
  k.pend[r] ≠ 0 && (k.pend[r].toNat ≠ slot || slot = 1 || slot = 3)

/-- What a cycle does. -/
inductive Cycle where
  /-- No stroke issues: counter, item and slot of R137, and whether the wait is external (R138). -/
  | stall (counter : Fin 14) (item slot : Nat) (ext : Bool)
  | issue
  deriving DecidableEq, Repr

/-- The queue entry of a command at issue (R148). A register that slot 0 of this or of an earlier stroke is still producing gives its new
value at once (DESIGN CHOICE, log entry 71: condition 1 of R129 names only the registers that slot 0 reads). -/
def Cox.entry (k : Cox) (h : Nat) (p : Present) (no : Nat) : QEntry where
  word := BitVec.ofNat 64 p.word
  ga := k.rd (cwGa p.word)
  gb := k.rd (cwGb p.word)
  imm := BitVec.ofNat 16 (if cwImsel p.word = 0 then 0 else headerPool h (cwImsel p.word))
  no := no

/-- One present command placed in its queue, with its pending-writer marks (R132). -/
def Die.place (x : Die) (h : Nat) (p : Present) : Die :=
  let no := x.cox.issued
  let e := x.cox.entry h p no
  let rs := x.regsOf p.slot p.word
  let k := rs.foldl (fun (k : Cox) (r : Fin 16) =>
    { k with pend := k.pend.set r (BitVec.ofNat 3 p.slot), pendNo := k.pendNo.set r no }) x.cox
  { (x.modQueue p.queue fun l => l ++ [e]) with cox := { k with issued := no + 1 } }

/-- The entry that has marked an s-register. -/
def Die.marker (x : Die) (r : Fin 16) : Option (QueueId × QEntry) :=
  (slotQueues x.cox.pend[r].toNat).findSome? fun q => (x.queues[q].find? fun e => e.no == x.cox.pendNo[r]).map fun e => (q, e)

/-- The wait for an entry is external. -/
def Device.extOf (d : Device) (c : Context) (cd : Cd) (p : Option (QueueId × QEntry)) : Bool :=
  match p with
  | some (q, e) => d.extWait c cd q e
  | none => false

/-- What the current cycle of a running Cox does, in the order of R137. `ready` are the g-registers slot 0 reads, `ps` the
commands present, `rds` the s-register it reads. -/
def Device.cycleOf (d : Device) (c : Context) (cd : Cd) (ready : List (Fin 32)) (ps : List Present) (rds : Option (Fin 16)) : Cycle :=
  let x := d.dies[cd]
  let k := x.cox
  if k.now < k.bubble then .stall 11 2 0 false
  else if (ready.any fun r => k.now < k.ready[r]) || (!ps.isEmpty && k.now < k.landed) then .stall 2 3 0 false
  else
    let s4 := rds.bind fun r => if k.pend[r] ≠ 0 then some r else none
    let s5 := (ps.flatMap fun p => (x.regsOf p.slot p.word).filter (k.marked p.slot)).head?
    match s4.orElse fun _ => s5 with
    | some r => .stall 9 4 0 (d.extOf c cd (x.marker r))
    | none =>
      match ps.find? fun p => decide (x.depth[p.queue] ≤ x.queues[p.queue].length) with
      | some p => .stall (idx 14 (2 + p.slot)) 5 p.slot (d.extOf c cd ((oldestOf x.queues[p.queue]).map fun e => (p.queue, e)))
      | none =>
        match k.waiting with
        | some (m, n) =>
          let es := x.waitedFor m n
          if es.isEmpty then .issue else .stall 10 6 0 (es.any fun (q, e) => d.extWait c cd q e)
        | none => .issue

/-- A stall cycle counted (R137, R138), with the run of credit stalls of one slot (R159). -/
def Cox.stall (k : Cox) (ctr : Fin 14) (item slot : Nat) (ext : Bool) : Cox :=
  let k1 := (k.count ctr 1).count 1 1
  let k2 := if ext then k1.count 12 1 else k1
  { k2 with
    now := k.now + 1
    creditRun := if item ≠ 5 then 0 else if k.creditRun ≠ 0 ∧ k.stallSlot.toNat = slot then k.creditRun + 1 else 1
    stallItem := BitVec.ofNat 3 item
    stallSlot := BitVec.ofNat 3 slot }

/-- A cycle of Easy-all: item 1 of R137. A run of credit stalls goes on after it (R450). -/
def Cox.easyCycle (k : Cox) : Cox := { k.count 13 1 with stallItem := 1 }

/-- The stroke has issued: counters, the next pc unless slot 0 has branched or halted, the next cycle. A HALT waits for the engine commands
of its own stroke too (DEDUCED, log entry 52). -/
def Cox.issued' (k : Cox) (pc0 : BitVec 14) (branched : Bool) (strokes : Nat) : Cox :=
  let k1 := (k.count 0 1).count 1 1
  { k1 with
    now := k.now + 1
    creditRun := 0
    stallTold := false
    pc := if branched ∨ k.run = .haltWait then k.pc else pc0 + 1
    fell := !branched && k.run = .running && decide (strokes ≤ pc0.toNat + 1)
    waiting := if k.run = .haltWait then some (0x3F, k.issued) else k.waiting }

/-- What a Cox does in a cycle of its run that is neither paused nor held (R129): the stroke at the pc issues whole, or the cycle is counted
under R137. -/
def Device.coxCycle (d : Device) (c : Context) (cd : Cd) : Device :=
  let x := d.dies[cd]
  let k := x.cox
  if k.run = .haltWait then
    match k.waiting with
    | some (m, n) =>
      let es := x.waitedFor m n
      if es.isEmpty then d
      else d.modCox cd fun k => k.stall 10 6 0 (es.any fun (q, e) => d.extWait c cd q e)
    | none => d
  else if k.fell then
    match d.cycleOf c cd [] [] none with
    | .stall i item slot ext => d.modCox cd fun k => k.stall i item slot ext
    | .issue => d.coxFault c cd (d.coxErr c cd 4 none k.pc.toNat) none
  else
    let pc := k.pc.toNat
    let h := x.slotWord pc 7
    let word := if headerValid h 0 then x.slotWord pc 0 else 0
    let w := slot0Of word
    let go := k.guard w
    let sc := scalarOf (slot0Op word) w
    let run : Device × Bool :=
      let d0 := d.modCox cd fun k => { k with waiting := none }
      if !go then (d0, false)
      else match sc with
        | some (f, _) => f w c cd d0
        | none => stopWith 1 none (slot0Op word) w c cd d
    let after := if run.2 then k else run.1.dies[cd].cox
    let ps := x.present after pc
    let ready := if go then (sc.map (·.2)).getD [] else []
    let rds := if go && slot0Op word == 0x28 then some w.sa else none
    match d.cycleOf c cd ready ps rds with
    | .stall i item slot ext => d.modCox cd fun k => k.stall i item slot ext
    | .issue =>
      if run.2 then run.1
      else
        let branched := go && (slot0Op word == 0x40 || slot0Op word == 0x41 ||
          (slot0Op word == 0x42 && after.bubble != k.bubble))
        run.1.modDie cd fun y =>
          let z : Die := ps.foldl (fun (z : Die) p => z.place h p) y
          { z with cox := z.cox.issued' k.pc branched x.codeStrokes }

/-- One Cox cycle of a run (R129). Accesses that reach bonded SRAM in it are made first (R130); under Easy-all the cycle counts alone, and
the accesses in flight complete (R142, R450); in the resume lead nothing is counted (R228). -/
def Device.strokeIssue (d : Device) (cd : Cd) : Device :=
  match d.residentOf cd with
  | none => d
  | some c =>
    let k := d.dies[cd].cox
    if k.run = .idle || d.preempting c then d
    else if c.held then (d.busFlush cd).modCox cd Cox.easyCycle
    else if d.inLead c cd then d
    else (d.busUntil cd k.now).coxCycle c cd

/-- STROKE_ISSUE. -/
def execStrokeIssue (cd : Cd) (s : State) : Host.Outcome State Fault Refusal :=
  .next { s with dev := s.dev.strokeIssue cd }

/-! ### Stops (R128, R139, R195) -/

/-- The error response of a DPA load arrives: no stroke issues after it (R128). -/
def Device.lddError (d : Device) (cd : Cd) : Device :=
  match d.residentOf cd with
  | none => d
  | some c =>
    match d.dies[cd].cox.loadErr with
    | none => d
    | some l =>
      let r := d.err (cdIsland cd 0 0) 7 l.code.toNat c.tag (some l.dpa.toNat) (faultDetail 0 false 0 0)
      let d1 := d.fault c r
      match d1.ctxAt c.slot with
      | none => d1
      | some c1 => d1.coxStop c1 cd 2 0 l.pc.toNat (some r)

/-- LDD_ERROR_RESPONSE. -/
def execLddErrorResponse (cd : Cd) (s : State) : Host.Outcome State Fault Refusal :=
  .next { s with dev := s.dev.lddError cd }

/-- The HALT wait is over: the run ends on this CD (R139). -/
def Device.runComplete (d : Device) (cd : Cd) : Device :=
  match d.residentOf cd with
  | none => d
  | some c =>
    let x := d.dies[cd]
    if x.cox.run ≠ .haltWait ∨ d.stopping c then d
    else match x.cox.waiting with
      | some (m, n) => if (x.waitedFor m n).isEmpty then d.coxStop c cd 5 0 x.cox.pc.toNat none else d
      | none => d.coxStop c cd 5 0 x.cox.pc.toNat none

/-- RUN_COMPLETE. -/
def execRunComplete (cd : Cd) (s : State) : Host.Outcome State Fault Refusal :=
  .next { s with dev := s.dev.runComplete cd }

/-- A fault of the context reaches a CD: its Cox stops with ENGINE_FAULT and its engines stop (R139, R195, R226). -/
def Device.faultReaches (d : Device) (cd : Cd) : Device :=
  match d.residentOf cd with
  | none => d
  | some c =>
    let x := d.dies[cd]
    match x.faultDue with
    | none => d
    | some r =>
      let d1 := d.modDie cd fun x => { x with faultDue := none, frozen := true }
      if x.cox.run = .idle then d1 else d1.coxStop c cd 3 0 x.cox.pc.toNat (some r)

/-- FAULT_REACHES_COX. -/
def execFaultReachesCox (cd : Cd) (s : State) : Host.Outcome State Fault Refusal :=
  .next { s with dev := s.dev.faultReaches cd }

/-! ### Stall records (R159, R160) -/

/-- The PLAN_STALL record (R160). -/
def Device.stallRecord (d : Device) (c : Context) (cd : Cd) (slot : Nat) (q : QueueId) : List Byte :=
  let hs := d.hops c cd 4 q
  bytesLE 1 5 ++ bytesLE 1 cd.val ++ bytesLE 2 c.tag.toNat ++ bytesLE 4 d.dies[cd].cox.pc.toNat
    ++ bytesLE 8 (d.cycle (cdIsland cd 0 0)).toNat ++ bytesLE 1 slot ++ bytesLE 1 hs.length ++ zeros 6
    ++ pad 16 (hs.flatMap fun (q, r, l) => bytesLE 1 q ++ bytesLE 1 r ++ bytesLE 1 l ++ zeros 1) ++ zeros 8

/-- The queue whose credit the stalled stroke lacks. -/
def Die.stalledQueue (x : Die) : QueueId :=
  slotQueue x.cox.stallSlot.toNat (x.slotWord x.cox.pc.toNat x.cox.stallSlot.toNat)

/-- A credit stall has exceeded its queue's bound: one PLAN_STALL event until a stroke issues (R159). -/
def Device.planStall (d : Device) (cd : Cd) : Device :=
  match d.residentOf cd with
  | none => d
  | some c =>
    let x := d.dies[cd]
    let q := x.stalledQueue
    if x.cox.run = .running ∧ x.cox.stallItem = 5 ∧ x.bound[q] ≠ 0 ∧ x.bound[q] < x.cox.creditRun ∧ !x.cox.stallTold then
      (d.modCox cd fun k => { k with stallTold := true }).event (.ctx c.slot) 0x81
        (d.stallRecord c cd x.cox.stallSlot.toNat q)
    else d

/-- PLAN_STALL. -/
def execPlanStall (cd : Cd) (s : State) : Host.Outcome State Fault Refusal :=
  .next { s with dev := s.dev.planStall cd }

end Sys2Proof.Machine
end

