-- ==== Sys2Proof/Machine/RegisterMap.lean ====
section
/-! DEFINITION. The map of the set-up window: the registers that have a writer, their writers and fields, and what they read (R470, R472, R475
to R480, R482, R484, R485). -/

namespace Sys2Proof.Machine

/-! ### The map (R470, R477, R482, R484, R485) -/

/-- The registers that some writer reaches. -/
inductive Reg where
  | status | adminRing | adminSeq | dbStray | dumpCfg | moduleReset | flashCmd
  | loop (j : Fin 18)
  | flashBuf (k : Fin 512)
  | budget (n : Fin 16)
  | cpCe (cd : Cd) (i : Fin 2)
  | cpThr (cd : Cd) (i : Fin 2)
  | lpCe (cd : Cd) (i : Fin 2)
  | lpThr (cd : Cd) (i : Fin 2)
  | lpUe (cd : Cd) (i : Fin 2)
  | portEn (f : Fin 2)
  | train (p : PortNo)
  | trainThr (p : PortNo)
  | credit (p : PortNo)
  | nakDrop (p : PortNo)
  | refuse (p : PortNo) (c : Fin 13)
  deriving DecidableEq, Repr

/-- Registers of the HD block. -/
def hdReg (o : Nat) : Option Reg :=
  if o = 0x08 then some .status else if o = 0x10 then some .adminRing else if o = 0x18 then some .adminSeq
  else if o = 0x20 then some .dbStray else if o = 0x28 then some .dumpCfg else if o = 0x30 then some .moduleReset
  else if o = 0x100 then some .flashCmd
  else if 0x200 ≤ o ∧ o < 0x290 then some (.loop (idx 18 ((o - 0x200) / 8)))
  else if 0x1000 ≤ o ∧ o < 0x2000 then some (.flashBuf (idx 512 ((o - 0x1000) / 8)))
  else none

/-- Registers of the PD block. -/
def pdReg (o : Nat) : Option Reg := if 0x100 ≤ o ∧ o < 0x180 then some (.budget (idx 16 ((o - 0x100) / 8))) else none

/-- Registers of a CD block. -/
def cdReg (cd : Cd) (o : Nat) : Option Reg :=
  let i := o / 0x1000 % 16
  let r := o % 0x1000
  if 2 ≤ i then none
  else if o / 0x10000 = 9 then
    if r = 0 then some (.cpCe cd (idx 2 i)) else if r = 8 then some (.cpThr cd (idx 2 i)) else none
  else if o / 0x10000 = 10 then
    if r = 0 then some (.lpCe cd (idx 2 i)) else if r = 8 then some (.lpThr cd (idx 2 i)) else if r = 0x10 then some (.lpUe cd (idx 2 i))
    else none
  else none

/-- Registers of an FD block. -/
def fdReg (f : Fin 2) (o : Nat) : Option Reg :=
  let i := o / 0x1000 % 16
  let r := o % 0x1000
  let p : PortNo := idx 16 (8 * f.val + i)
  if o = 0 then some (.portEn f)
  else if o / 0x10000 = 1 ∧ i < 8 then
    if r = 0x10 then some (.train p) else if r = 0x18 then some (.trainThr p) else if r = 0x20 then some (.credit p)
    else if r = 0x28 then some (.nakDrop p)
    else if 0x100 ≤ r ∧ r < 0x168 then some (.refuse p (idx 13 ((r - 0x100) / 8)))
    else none
  else none

/-- The register with a writer that an 8-byte slot of the window holds. -/
def regAt (off : Nat) : Option Reg :=
  let die := off / 0x1000000
  let o := off % 0x1000000
  if off % 8 ≠ 0 then none
  else if die < 16 then cdReg (idx 16 die) o
  else if die < 18 then fdReg (idx 2 (die - 16)) o
  else if die = 18 then hdReg o
  else if die = 19 then pdReg o
  else none

/-- The Writers column names the board controller. -/
def Reg.board : Reg → Bool
  | .status | .moduleReset | .flashCmd | .flashBuf _ => true
  | _ => false

/-- The Writers column names the set-up image (R475). -/
def Reg.image : Reg → Bool
  | .dumpCfg | .loop _ | .budget _ | .cpThr _ _ | .lpThr _ _ | .portEn _ | .trainThr _ => true
  | _ => false

/-- The register is a statistics or threshold counter (R476). -/
def Reg.counter : Reg → Bool
  | .dbStray | .cpCe _ _ | .lpCe _ _ | .lpUe _ _ | .train _ | .credit _ | .nakDrop _ | .refuse _ _ => true
  | _ => false

/-- Bits of a register that are not RO. -/
def Reg.writable : Reg → Nat
  | .status => 0x3000000
  | .adminRing => 2 ^ 54 - 1
  | .dumpCfg => 5
  | .flashCmd => 2 ^ 36 - 1
  | .flashBuf _ => 2 ^ 64 - 1
  | .loop _ => 2 ^ 34 - 1
  | .budget _ | .portEn _ => 0xFF
  | .moduleReset => 2 ^ 64 - 1
  | _ => 2 ^ 32 - 1

/-! ### What the registers read -/

/-- A counter register (R476). -/
def Counter.read (c : Counter) : Nat := c.count.toNat + (if c.ovf then 2 ^ 32 else 0)

/-- A flag as a number. -/
def flag (b : Bool) : Nat := if b then 1 else 0

/-- `HD.STATUS` (R477). -/
def Startup.read (s : Startup) : Nat :=
  s.stage.toNat + flag s.ready * 2 ^ 4 + s.fail.toNat * 2 ^ 5 + s.failArg.toNat * 2 ^ 8 + flag s.cfgFallback * 2 ^ 16 + flag s.fwNone * 2 ^ 17
    + flag s.fillDone * 2 ^ 18 + flag s.slot * 2 ^ 19 + s.cfgWhy.toNat * 2 ^ 20 + flag s.eaSeen * 2 ^ 24 + flag s.resetSeen * 2 ^ 25
    + s.cfgSeq.toNat * 2 ^ 32

/-- `HD.ADMIN_RING.state`. -/
def Device.adminState (d : Device) : Nat :=
  match d.admin with
  | none => 0
  | some r => if r.stopped then 2 else 1

/-- What a register with a writer reads. -/
def Device.regRead (d : Device) : Reg → Nat
  | .status => d.start.read
  | .adminRing => d.hd.adminBlk.toNat + d.adminState * 2 ^ 54 + d.hd.adminErr.toNat * 2 ^ 56
  | .adminSeq => d.hd.adminSeq.toNat
  | .dbStray => d.hd.dbStray.read
  | .dumpCfg => flag d.dump.p12 + flag d.dump.held * 2 + flag d.dump.overrun * 4
  | .moduleReset => 0
  | .flashCmd => d.hd.flashAddr.toNat + d.hd.flashOp.toNat * 2 ^ 32
  | .flashBuf k => le (memBytes 0 d.hd.flashBuf (8 * k.val) 8)
  | .loop j => d.loops[j].low.toNat + d.loops[j].high.toNat * 2 ^ 16 + d.loops[j].mode.toNat * 2 ^ 32 + d.loopValue j * 2 ^ 48
  | .budget n => d.pd.budget[n].toNat
  | .cpCe cd i => d.cports[cd][i].ce.read
  | .cpThr cd i => d.cports[cd][i].ceThr.toNat
  | .lpCe cd i => d.lpcs[cd][i].ce.read
  | .lpThr cd i => d.lpcs[cd][i].ceThr.toNat
  | .lpUe cd i => d.lpcs[cd][i].ue.read
  | .portEn f => d.fds[f].portEn.toNat
  | .train p => d.ports[p].train.read
  | .trainThr p => d.ports[p].trainThr.toNat
  | .credit p => d.ports[p].credit.read
  | .nakDrop p => d.ports[p].nakDrop.read
  | .refuse p c => d.ports[p].refuse[c].read

end Sys2Proof.Machine
end

