-- ==== Sys2Proof/Machine/Views.lean ====
section
/-! DEFINITION. What the set-up window reads: every register and view of its tables by offset (R5, R443, R470 to R472, R476 to R485). -/

namespace Sys2Proof.Machine

/-- `HD.IDENT` (R5, R477): ordering code, generation H1, stepping 0x01, and the 397 units of a full dump. -/
def Device.identView (d : Device) : Nat := memCapOf d.code + fabFormOf d.code * 2 + 1 * 2 ^ 2 + 1 * 2 ^ 8 + 0x18D * 2 ^ 16

/-- `HD.FLASH_STS` (R479). -/
def HdRegs.flashView (h : HdRegs) : Nat :=
  flag h.flashBusy + flag h.flashHeld * 2 + h.flashResult.toNat * 2 ^ 4 + h.flashDone.toNat * 2 ^ 32

/-- `HD.CTXs`: the context that holds a slot. -/
def Context.view (c : Context) : Nat :=
  1 + flag c.resident * 2 + c.cond.code * 2 ^ 2 + c.first % 16 * 2 ^ 4 + c.logM % 8 * 2 ^ 8 + c.tag.toNat * 2 ^ 16
    + c.portMask.toNat * 2 ^ 32 + c.saveDom.val * 2 ^ 48

/-- `HD.CTXs` of every slot; a slot with no context reads zero. -/
def Device.ctxView (d : Device) (s : CtxSlot) : Nat := match d.ctxAt s with
  | none => 0
  | some c => c.view

/-- `HD.PANTRY`: half `h` of entry `e` of the context in slot `s` (R481). -/
def Device.pantryView (d : Device) (s : CtxSlot) (e : Fin 64) (h : Nat) : Nat := match d.ctxAt s with
  | none => 0
  | some c => c.pantry[e].toNat / 2 ^ (64 * h) % 2 ^ 64

/-- What the HD block reads at an offset that no writer reaches (R477). -/
def Device.hdView (d : Device) (o : Nat) : Nat :=
  if o = 0 then d.identView
  else if o = 0x108 then d.hd.flashView
  else if 0x400 ≤ o ∧ o < 0x480 then d.ctxView (idx 16 ((o - 0x400) / 8))
  else if 0x4000 ≤ o ∧ o < 0x8000 then
    d.pantryView (idx 16 ((o - 0x4000) / 0x400)) (idx 64 ((o - 0x4000) % 0x400 / 16)) ((o - 0x4000) % 16 / 8)
  else 0

/-- `PD.EA`: episode, the mask latched at its entry, and whether Easy-all is active (R451, R482). -/
def Pd.easyAllView (p : Pd) : Nat := p.episode.toNat + p.mask.toNat * 2 ^ 32 + flag p.easyAll * 2 ^ 48

/-- What the PD block reads at an offset that no writer reaches (R482). -/
def Pd.view (p : Pd) (o : Nat) : Nat :=
  if o = 0 then p.vin.toNat
  else if o = 8 then p.iin.toNat
  else if o = 0x10 then p.pin.toNat
  else if o = 0x18 then p.easyAllView
  else if 0x200 ≤ o ∧ o < 0x280 then
    let n : Fin 16 := idx 16 ((o - 0x200) / 8)
    p.cdPwr[n].toNat + flag p.overNow[n] * 2 ^ 16
  else if 0x300 ≤ o ∧ o < 0x388 then p.temp[(idx 17 ((o - 0x300) / 8) : Fin 17)].toNat
  else if o = 0x400 then p.coolant.toNat
  else 0

/-- `CD.CP_LAT`: latency, the hold that brings it to 64 cycles, and whether the port is trained (R199, R484). -/
def CoursePort.view (c : CoursePort) : Nat :=
  c.lat.toNat + (if c.trained then 64 - c.lat.toNat else 0) * 2 ^ 8 + flag c.trained * 2 ^ 16

/-- `CD.LP_STS` (R484). -/
def Lpc.view (l : Lpc) : Nat :=
  l.mult.toNat + l.mr4.toNat * 2 ^ 2 + flag l.selfRefresh * 2 ^ 8 + flag l.trained * 2 ^ 9 + flag l.override * 2 ^ 10 + l.scrub.toNat * 2 ^ 32

/-- What a CD block reads at an offset that no writer reaches. -/
def Device.cdView (d : Device) (cd : Cd) (o : Nat) : Nat :=
  let i := o / 0x1000 % 16
  let r := o % 0x1000
  if 2 ≤ i then 0
  else if o / 0x10000 = 9 ∧ r = 0x10 then d.cports[cd][(idx 2 i : Fin 2)].view
  else if o / 0x10000 = 10 ∧ r = 0x18 then d.lpcs[cd][(idx 2 i : Fin 2)].view
  else 0

/-- `FD.PORT_STS` (R485); the generation and version agreed read 0 before NEGOTIATE ends (R486). -/
def Port.view (x : Port) : Nat :=
  x.state.code + flag x.reversed * 2 ^ 3 + x.polarity.toNat * 2 ^ 4 + x.fails % 16 * 2 ^ 12 + x.lastFail.toNat * 2 ^ 16
    + (if x.state = .active then x.gen.toNat * 2 ^ 24 + x.ver.toNat * 2 ^ 26 else 0) + x.session.toNat * 2 ^ 32

/-- `FD.PORT_EQ` (R447, R485). -/
def Device.eqView (d : Device) (p : PortNo) : Nat :=
  let x := d.ports[p]
  x.ctle.toNat + x.asked.toNat * 2 ^ 4 + x.txp.toNat * 2 ^ 8 + flag ((d.portLoop p).mode == 1) * 2 ^ 12

/-- What an FD block reads at an offset that no writer reaches. -/
def Device.fdView (d : Device) (f : Fin 2) (o : Nat) : Nat :=
  let i := o / 0x1000 % 16
  let r := o % 0x1000
  let p : PortNo := idx 16 (8 * f.val + i)
  if o / 0x10000 = 1 ∧ i < 8 then (if r = 0 then d.ports[p].view else if r = 8 then d.eqView p else 0) else 0

/-- The 8 bytes of the slot at a window offset: a register with a writer, a read-only register or view, or zero where no table lists one
(R472). -/
def Device.windowRead (d : Device) (off : Nat) : Nat :=
  match regAt off with
  | some r => d.regRead r
  | none =>
    let die := off / 0x1000000
    let o := off % 0x1000000
    if off % 8 ≠ 0 then 0
    else if die < 16 then d.cdView (idx 16 die) o
    else if die < 18 then d.fdView (idx 2 (die - 16)) o
    else if die = 18 then d.hdView o
    else if die = 19 then d.pd.view o
    else 0

/-- What an access of 4 bytes returns from the register itself: the half of the slot that it names (R443, R471). -/
def Device.windowHalf (d : Device) (off : Nat) : Nat := d.windowRead (off / 8 * 8) / 2 ^ (8 * (off % 8 / 4 * 4)) % 2 ^ 32

end Sys2Proof.Machine
end

