-- ==== Sys2Proof/Machine/Registers.lean ====
section
/-! DEFINITION. Accesses to the set-up window: the reads and writes of the driver and the board controller, and what each register does with a
value (R443, R466, R470 to R480, R483 to R486). -/

namespace Sys2Proof.Machine

/-! ### Accesses (R466, R470 to R472) -/

/-- A path serves: the driver's from stage 0x6 on over the Yalken link, the board controller's from the end of stage 0x1 until the rails
turn off (R465, R470). The set-up image writes only at stage 0x3. -/
def Device.pathServes (d : Device) : RegPath → Bool
  | .driver => d.driverServes
  | .board => d.pd.pwrGood
  | .image => false

/-- What a write access comes to. -/
inductive RegEvent where
  /-- Not served, or refused with a NACK: nothing changes. -/
  | nothing
  /-- Ignored and counted in `HD.DB_STRAY`. -/
  | stray
  /-- The low word of a register, latched by its path. -/
  | latch (r : Reg) (off low : Nat)
  /-- A register takes a value. -/
  | write (r : Reg) (v : Nat)
  deriving DecidableEq, Repr

/-- Latch of a path. -/
def HdRegs.latch (h : HdRegs) : RegPath → Option (BitVec 32 × BitVec 32)
  | .driver => h.latchD
  | .board => h.latchB
  | .image => none

/-- The latch of a path rewritten. -/
def HdRegs.setLatch (h : HdRegs) (p : RegPath) (l : Option (BitVec 32 × BitVec 32)) : HdRegs :=
  match p with
  | .driver => { h with latchD := l }
  | .board => { h with latchB := l }
  | .image => h

/-- An offset of the doorbell page, whose writes are doorbells (R364, R477). -/
def inDoorbells (off : Nat) : Bool := decide (0x12FFF000 ≤ off) && decide (off ≤ 0x12FFFFFF)

/-- The low word that a high-word write combines with: the one its path has latched for this register, else the register's current low
word (R471). -/
def Device.lowWord (d : Device) (p : RegPath) (r : Reg) (off : Nat) : Nat :=
  match d.hd.latch p with
  | some (o, v) => if o.toNat = off then v.toNat else d.regRead r % 2 ^ 32
  | none => d.regRead r % 2 ^ 32

/-- A write access resolved. The board controller makes 4-byte writes only. Its writes outside the registers that name it get a NACK and are
strays (R466, R472; log entry 39). -/
def Device.regEvent (d : Device) (a : RegAccess) : RegEvent :=
  let off := a.off.toNat
  let slot := off / 8 * 8
  let board : Bool := a.path == .board
  if !d.pathServes a.path ∨ a.read ∨ (board ∧ a.wide) ∨ (!board ∧ inDoorbells off) then .nothing
  else if off % (if a.wide then 8 else 4) ≠ 0 then .stray
  else match regAt slot with
    | none => .stray
    | some r =>
      if board && !r.board then .stray
      else if a.wide then .write r a.data.toNat
      else if off = slot then .latch r slot (a.data.toNat % 2 ^ 32)
      else .write r (d.lowWord a.path r slot + a.data.toNat % 2 ^ 32 * 2 ^ 32)

/-- The latched low word of a path used up by the high word of its register; the path keeps one that belongs to another register (R471). -/
def HdRegs.useLatch (h : HdRegs) (a : RegAccess) : HdRegs :=
  if !a.wide && (h.latch a.path).any fun l => l.1.toNat == a.off.toNat / 8 * 8 then h.setLatch a.path none else h

/-- A write of the register `r` with an RO field not zero is ignored and counted (R472); otherwise `act` follows. -/
def Device.regTake (d : Device) (a : RegAccess) (r : Reg) (v : Nat) (act : Device → Reg → Nat → Device) : Device :=
  let d1 := { d with hd := d.hd.useLatch a }
  if v / 2 ^ 64 ≠ 0 ∨ v &&& r.writable ≠ v then d1.stray else act d1 r v

/-- One row of the register family: the access is taken when it addresses a register of the row (`own` names the register, and the value
once it is complete); the row of the registers without one of their own also counts the strays. -/
def Device.regRow (d : Device) (a : RegAccess) (strays : Bool) (own : Reg → Option Nat → Bool) (act : Device → Reg → Nat → Device) : Device :=
  match d.regEvent a with
  | .nothing => d
  | .stray => if strays then d.stray else d
  | .latch r off low =>
    if own r none then { d with hd := d.hd.setLatch a.path (some (BitVec.ofNat 32 off, BitVec.ofNat 32 low)) } else d
  | .write r v => if own r (some v) then d.regTake a r v act else d

/-! ### Reads (R443, R466, R470, R471) -/

/-- The read latch of a path: the slot whose low word it has read last, and its high word. -/
def HdRegs.readLatch (h : HdRegs) : RegPath → Option (BitVec 32 × BitVec 32)
  | .driver => h.readD
  | .board => h.readB
  | .image => none

/-- The read latch of a path rewritten, and the data of a read. -/
def HdRegs.setRead (h : HdRegs) (p : RegPath) (l : Option (BitVec 32 × BitVec 32)) (v : Nat) : HdRegs :=
  let h1 := { h with readData := BitVec.ofNat 64 v }
  match p with
  | .driver => { h1 with readD := l }
  | .board => { h1 with readB := l }
  | .image => h1

/-- An offset of the HD or PD block (R466, R470). -/
def inBoardBlocks (off : Nat) : Bool := off / 0x1000000 == 18 || off / 0x1000000 == 19

/-- A read access: 8 bytes whole, or 4 bytes, where the low word latches the high word and the next read of that high word returns the latch
(R443). The board controller reads aligned words of the HD and PD blocks; any other read of its gets a NACK (R466). -/
def Device.readAccess (d : Device) (a : RegAccess) : Device :=
  let off := a.off.toNat
  let slot := off / 8 * 8
  let put := fun (l : Option (BitVec 32 × BitVec 32)) (v : Nat) => { d with hd := d.hd.setRead a.path l v }
  let kept := d.hd.readLatch a.path
  if !d.pathServes a.path ∨ (a.path = .board ∧ (a.wide ∨ off % 4 ≠ 0 ∨ !inBoardBlocks off)) then d
  else if off % (if a.wide then 8 else 4) ≠ 0 then put kept 0
  else if a.wide then put kept (d.windowRead off)
  else if off = slot then put (some (BitVec.ofNat 32 slot, BitVec.ofNat 32 (d.windowRead slot / 2 ^ 32))) (d.windowHalf off)
  else match kept with
    | some (o, v) => if o.toNat = slot then put none v.toNat else put kept (d.windowHalf off)
    | none => put kept (d.windowHalf off)

/-- The command writes a register in full. -/
def bit1 (v : Option Nat) (k : Nat) : Bool := match v with
  | none => true
  | some v => bits v k k == 1

/-! ### HD.ADMIN_RING (R478) -/

/-- Bind and resume bits together: FIELD, and nothing changes. -/
def bothBits (v : Nat) : Bool := bits v 53 52 == 3

/-- The outcome of a bind or resume. -/
def Device.adminErr (d : Device) (code : Nat) : Device := { d with hd := { d.hd with adminErr := BitVec.ofNat 8 code } }

/-- The block address stored. -/
def Device.adminBlk (d : Device) (v : Nat) : Device := { d with hd := { d.hd with adminBlk := BitVec.ofNat 52 v } }

/-- A ring set bound as the admin ring set: its indices start at zero and the records held before it are posted (R362, R418, R478). -/
def Device.bindAdmin (d : Device) (r : RingSet) : Device :=
  let d1 := ({ d with admin := some r } : Device).openRing .admin
  let d2 := d1.boat.heldRecords.foldl (fun (d : Device) e => d.event .admin 0x80 e.encode) d1
  { d2 with boat := { d2.boat with heldRecords := [] } }

/-- A write with the bind bit (R478). A block that cannot be read gives its record and FIELD (R171, R410; log entry 70). -/
def Device.adminBind (d : Device) (v : Nat) : Device :=
  if bothBits v then d.adminErr 0xE4
  else if !d.start.ready ∨ d.adminHead.isSome then d.adminErr 0xEB
  else
    let d1 := d.adminBlk v
    let a := v % 2 ^ 52
    match (if inCompanion a 64 then d1.hdLineCode a else none) with
    | some e => (d1.report (d1.lineErr 0 e a false)).adminErr 0xE4
    | none =>
      match (if inCompanion a 64 then ringOfBlock (memBytes 0 d.mem.bytes a 64) else none) with
      | none => d1.adminErr 0xE4
      | some r => (d1.bindAdmin r).adminErr 0

/-- ADMIN_RING_BIND: the block that the companion wrote is in place when the write arrives. -/
def execAdminRingBind (a : RegAccess) (stores : List Host.Cell) (s : State) : Host.Outcome State Fault Refusal :=
  .next { s with dev := (s.dev.companionStores stores).regRow a false (fun r v => r == .adminRing && bit1 v 52) fun d _ v => d.adminBind v }

/-- A write with the resume bit (R375, R478). -/
def Device.adminResume (d : Device) (v : Nat) : Device :=
  if bothBits v then d.adminErr 0xE4
  else
    let d1 := d.adminBlk v
    if d1.admin.any (·.stopped) then (d1.onRing .admin (ringResume d1.hd.adminSeq)).adminErr 0 else d1.adminErr 0xEB

/-- ADMIN_RING_RESUME. -/
def execAdminRingResume (a : RegAccess) (s : State) : Host.Outcome State Fault Refusal :=
  .next { s with dev := s.dev.regRow a false (fun r v => r == .adminRing && bit1 v 53) fun d _ v => d.adminResume v }

/-! ### HD.LOOPj (R480) -/

/-- A write acts as a LOOP_SET of the loop; one that LOOP_SET would refuse changes nothing. -/
def Device.putLoop (d : Device) (j : Fin 18) (v : Nat) : Device :=
  if loopOk j (bits v 33 32) (bits v 15 0) (bits v 31 16) then d.applyLoop j (bits v 33 32) (bits v 15 0) (bits v 31 16) else d.stray

/-- The register is a loop. -/
def Reg.isLoop : Reg → Bool
  | .loop _ => true
  | _ => false

/-- A loop register takes a value. -/
def Device.writeLoop (d : Device) (r : Reg) (v : Nat) : Device := match r with
  | .loop j => d.putLoop j v
  | _ => d

/-- LOOP_REGISTER_WRITE. -/
def execLoopRegisterWrite (a : RegAccess) (s : State) : Host.Outcome State Fault Refusal :=
  .next { s with dev := s.dev.regRow a false (fun r _ => r.isLoop) fun d r v => d.writeLoop r v }

/-! ### PD.BUDGETn (R483) -/

/-- Sum of the sixteen budgets. -/
def Pd.budgets (p : Pd) : Nat := (p.budget.toList.map (·.toNat)).sum

/-- A budget of 20 to 150 W that keeps the sum at 2,168 W or less. -/
def Pd.budgetOk (p : Pd) (n : Fin 16) (w : Nat) : Bool :=
  decide (20 ≤ w) && decide (w ≤ 150) && decide (({ p with budget := p.budget.set n (BitVec.ofNat 8 w) } : Pd).budgets ≤ 2168)

/-- A budget set: the comparison behind `PD.CD_PWRn` bit 16 follows it. -/
def Pd.setBudget (p : Pd) (n : Fin 16) (w : Nat) : Pd :=
  { p with budget := p.budget.set n (BitVec.ofNat 8 w), overNow := p.overNow.set n (decide (w * 10 < p.cdPwr[n].toNat)) }

/-- A budget register takes a value. -/
def Device.writeBudget (d : Device) (r : Reg) (v : Nat) : Device := match r with
  | .budget n => if d.pd.budgetOk n v then { d with pd := d.pd.setBudget n v } else d.stray
  | _ => d

/-- The register is a budget. -/
def Reg.isBudget : Reg → Bool
  | .budget _ => true
  | _ => false

/-- BUDGET_WRITE. -/
def execBudgetWrite (a : RegAccess) (s : State) : Host.Outcome State Fault Refusal :=
  .next { s with dev := s.dev.regRow a false (fun r _ => r.isBudget) fun d r v => d.writeBudget r v }

/-! ### FD.PORT_EN (R486) -/

/-- A port enabled: it starts at DETECT from stage 0x7 on. -/
def Port.enable (x : Port) (fabric : Bool) : Port := { x with enabled := true, state := if fabric then .detect else .off }

/-- A port disabled: it sends no further flit and its back-off count is cleared; session, replay buffer and credits stay. -/
def Port.disable (x : Port) : Port := { x with enabled := false, state := .off, fails := 0 }

/-- The enables of an FD written: each bit that changes starts or stops its port. -/
def Device.setPortEn (d : Device) (f : Fin 2) (v : Nat) : Device :=
  let fabric := decide (7 ≤ d.start.stage.toNat)
  let d1 := d.modFd f fun x => { x with portEn := BitVec.ofNat 8 v }
  { d1 with ports := each (fun p x =>
      if p.val / 8 ≠ f.val then x
      else
        let on := bits v (p.val % 8) (p.val % 8) == 1
        if on && !x.enabled then x.enable fabric else if !on && x.enabled then x.disable else x) d1.ports }

/-- The register is a port enable. -/
def Reg.isPortEn : Reg → Bool
  | .portEn _ => true
  | _ => false

/-- A port-enable register takes a value. -/
def Device.writePortEn (d : Device) (r : Reg) (v : Nat) : Device := match r with
  | .portEn f => d.setPortEn f v
  | _ => d

/-- PORT_EN_WRITE. -/
def execPortEnWrite (a : RegAccess) (s : State) : Host.Outcome State Fault Refusal :=
  .next { s with dev := s.dev.regRow a false (fun r _ => r.isPortEn) fun d r v => d.writePortEn r v }

/-! ### Counters (R476) -/

/-- A counter cleared with its overflow bit. -/
def Device.clearCounter (d : Device) : Reg → Device
  | .dbStray => { d with hd := { d.hd with dbStray := {} } }
  | .cpCe cd i => d.modCport cd i fun x => { x with ce := {} }
  | .lpCe cd i => d.modLpc cd i fun x => { x with ce := {} }
  | .lpUe cd i => d.modLpc cd i fun x => { x with ue := {} }
  | .train p => d.modPort p fun x => { x with train := {} }
  | .credit p => d.modPort p fun x => { x with credit := {} }
  | .nakDrop p => d.modPort p fun x => { x with nakDrop := {} }
  | .refuse p c => d.modPort p fun x => { x with refuse := x.refuse.set c {} }
  | _ => d

/-- A counter register takes a value: zero clears it, any other is refused. -/
def Device.writeCounter (d : Device) (r : Reg) (v : Nat) : Device := if v = 0 then d.clearCounter r else d.stray

/-- COUNTER_CLEAR_WRITE. -/
def execCounterClearWrite (a : RegAccess) (s : State) : Host.Outcome State Fault Refusal :=
  .next { s with dev := s.dev.regRow a false (fun r _ => r.counter) fun d r v => d.writeCounter r v }

/-! ### The remaining registers (R472, R477) -/

/-- A register with no row of its own takes a value: the block address alone, the resume number, the W1C flags, the dump setting, a
threshold, a word of the flash buffer. -/
def Device.writeOther (d : Device) (r : Reg) (v : Nat) : Device :=
  match r with
  | .status => { d with start := { d.start with eaSeen := d.start.eaSeen && bits v 24 24 == 0, resetSeen := d.start.resetSeen && bits v 25 25 == 0 } }
  | .adminRing => d.adminBlk v
  | .adminSeq => { d with hd := { d.hd with adminSeq := BitVec.ofNat 32 v } }
  | .dumpCfg => { d with dump := { d.dump with p12 := bits v 0 0 == 1, overrun := d.dump.overrun && bits v 2 2 == 0 } }
  | .cpThr cd i => d.modCport cd i fun x => { x with ceThr := BitVec.ofNat 32 v }
  | .lpThr cd i => d.modLpc cd i fun x => { x with ceThr := BitVec.ofNat 32 v }
  | .trainThr q => d.modPort q fun x => { x with trainThr := BitVec.ofNat 32 v }
  | .flashBuf k => { d with hd := { d.hd with flashBuf := memStore 0 d.hd.flashBuf (8 * k.val) (bytesLE 8 v) } }
  | .flashCmd =>
    if bits v 35 32 = 0 ∧ !d.hd.flashBusy then { d with hd := { d.hd with flashAddr := BitVec.ofNat 32 v, flashOp := 0 } }
    else if bits v 35 32 = 0 then d
    else d.stray
  | _ => d

/-- The registers that SETUP_REGISTER_WRITE serves, with the values that have no row of their own. -/
def Reg.other (r : Reg) (v : Option Nat) : Bool :=
  match r with
  | .moduleReset => false
  | .adminRing => match v with
    | none => true
    | some v => bits v 53 52 == 0
  | .flashCmd => match v with
    | none => true
    | some v => bits v 35 32 == 0 || decide (4 ≤ bits v 35 32)
  | r => !(r.isLoop || r.isBudget || r.isPortEn || r.counter)

/-- SETUP_REGISTER_WRITE. The table has no row of its own for a read: an access of this row that reads is one (DESIGN CHOICE, log entry 48). -/
def execSetupRegisterWrite (a : RegAccess) (s : State) : Host.Outcome State Fault Refusal :=
  .next { s with dev := if a.read then s.dev.readAccess a else s.dev.regRow a true (fun r v => r.other v) fun d r v => d.writeOther r v }

end Sys2Proof.Machine
end

