-- ==== Sys2Proof/Machine/Security.lean ====
section
/-! DEFINITION. Boathouse: attestation, key release, domain release, debug unlock and the random source (R392 to R418). -/

namespace Sys2Proof.Machine

/-! ### Byte strings and records (R392, R418) -/

/-- Bytes of a structure as a number, most significant first (R392). -/
def beField (bs : List Byte) (off n : Nat) : Nat := beOf ((bs.drop off).take n)

/-- A byte range of a structure is zero. -/
def zeroAt (bs : List Byte) (off n : Nat) : Bool := ((bs.drop off).take n).all (· == 0)

/-- A structure begins with four magic bytes. -/
def magicIs (bs m : List Byte) : Bool := bs.take 4 == m

/-- A record of Boathouse: posted when the admin ring set is bound, else held, up to 16 (R418). -/
def Device.boatRecord (d : Device) (code detail : Nat) : Device :=
  let r := d.err boatIsland 13 code 0 none detail
  if d.admin.isSome then d.report r
  else
    let d1 := d.logErr r
    if d1.boat.heldRecords.length < 16 then { d1 with boat := { d1.boat with heldRecords := d1.boat.heldRecords ++ [r] } } else d1

/-- Flash bytes; an erased byte is 0xFF. -/
def Device.flashBytes (d : Device) (a n : Nat) : List Byte := memBytes 0xFF d.hd.flash a n

/-- Length of the certificate chain as flash holds it (R395). -/
def Device.chainRead (d : Device) : Nat := le (d.flashBytes 0x2000000 4)
/-- The chain length of reports: zero when the area could not be read or its length is too large (R395). -/
def Device.chainLen (d : Device) : Nat := if !d.boat.certBad && decide (d.chainRead ≤ 65532) then d.chainRead else 0

/-! ### Firmware images (R396, R397) -/

/-- Bytes of a slot. -/
def slotBytes : Nat := 0x1000000

/-- Header of the image in a slot. -/
def Device.fwHeader (d : Device) (slot : Nat) : List Byte := d.flashBytes (slot * slotBytes) 0x160

/-- A component of the image of slot `slot`: it lies in the slot behind the header and matches its digest (R397 check 5). -/
def Device.fwPart (d : Device) (slot off len most digest : Nat) : Bool :=
  off % 4096 == 0 && decide (len ≤ most) && decide (0x160 ≤ off) && decide (off + len ≤ slotBytes)
    && (Config.sha384 (d.flashBytes (slot * slotBytes + off) len)).toNat == digest

/-- The fused digest of a signing key. -/
def fwKeyIs (key : Nat) (pub : BitVec 768) : Bool := decide (key < 4) && keyDigest pub == Config.fwKey (idx 4 key)

/-- The first check of R397 that the image of a slot fails; none for a valid image. -/
def Device.fwCheck (d : Device) (slot : Nat) : Option Nat :=
  let h := d.fwHeader slot
  let key := field h 6 1
  let pub : BitVec 768 := BitVec.ofNat 768 (beField h 0x80 96)
  let bo := field h 0x10 4
  let bl := field h 0x14 4
  let mo := field h 0x18 4
  let ml := field h 0x1C 4
  if !(magicIs h [0x4F, 0x58, 0x46, 0x57] && gvOk (field h 4 1) 1 && zeroAt h 5 1 && zeroAt h 7 1 && zeroAt h 0xA 2 && zeroAt h 0xE0 32) then some 1
  else if d.boat.revoke.getLsbD key then some 2
  else if !fwKeyIs key pub then some 3
  else if !Config.ecdsaVerify pub (Config.sha384 (h.take 0x100)) (BitVec.ofNat 768 (beField h 0x100 96)) then some 4
  else if !(d.fwPart slot bo bl (2 ^ 20) (beField h 0x20 48) && d.fwPart slot mo ml (2 ^ 23) (beField h 0x50 48) && apart bo bl mo ml) then some 5
  else if field h 8 2 < d.boat.fuseSvn then some 6
  else none

/-- A security descriptor: ENTROPY_FAIL once the random source has failed (R393). -/
def Device.secure (d : Device) (t : Taken) (body : Device → Taken → Device) : Device :=
  if d.boat.entropyFailed then d.answer .admin t 0x6D else body d t

/-! ### ENTROPY_FAIL (R393, R456) -/

/-- A health test fails: the record, the state until power-on, and at stage 0x2 the end of start-up. -/
def Device.entropyFail (d : Device) (test : BitVec 8) : Device :=
  if !d.pd.pwrGood ∨ d.boat.entropyFailed then d
  else
    let d1 := { d with boat := { d.boat with entropyFailed := true, entropyTest := test } }.boatRecord 3 test.toNat
    if d1.start.stage = 2 then ({ d1 with start := { d1.start with fail := 2, failArg := test } } : Device).cause 2 else d1

/-- ENTROPY_FAIL. -/
def execEntropyFail (test : BitVec 8) (s : State) : Host.Outcome State Fault Refusal := .next { s with dev := s.dev.entropyFail test }

/-! ### ATTEST (R403, R404) -/

/-- State code of a domain in a report. -/
def DomState.code : DomState → Nat
  | .absent => 0
  | .installed => 1
  | .destroyed => 2

/-- A domain entry of a report; entry 0 reads installed. -/
def domainEntry (i : Nat) (x : Domain) : List Byte :=
  if i = 0 then bytesLE 1 1 ++ zeros 7
  else bytesLE 1 x.state.code ++ bytesLE 1 (bitsOf (x.pkg.toList.map (·.isSome))) ++ bytesLE 1 x.windows.length ++ zeros 1
    ++ bytesLE 4 x.dgen.toNat

/-- A context entry of a report, zero for a free slot. -/
def Device.contextEntry (d : Device) (slot : Nat) : List Byte :=
  match d.ctxs.find? fun c => c.slot.val == slot with
  | none => zeros 32
  | some c =>
    let comp := fun (f : BitVec 128 → Bool) => c.grants.any fun g => pValid g && pTarget g == 2 && f g
    bytesLE 1 1 ++ bytesLE 1 slot ++ bytesLE 2 c.tag.toNat ++ bytesLE 1 (c.first + 16 * c.logM)
      ++ bytesLE 1 ((if c.resident then 1 else 0) + 2 * c.cond.code) ++ bytesLE 2 c.portMask.toNat
      ++ bytesLE 8 (bitsOf ((List.finRange 64).map fun i => c.domains.contains i)) ++ bytesLE 1 c.saveDom.val
      ++ bytesLE 1 (bitsOf [comp pR, comp pW]) ++ zeros 14

/-- The report body, bytes 0x000 to 0x5FF (R404). -/
def Device.reportBody (d : Device) (nonce : List Byte) (eph : BitVec 768) (index : BitVec 32) : List Byte :=
  let b := d.boat
  let h := b.booted
  [0x4F, 0x58, 0x41, 0x52] ++ bytesLE 1 5 ++ bytesLE 1 (bitsOf [d.start.cfgFallback, b.debugOpen, b.tenantsDestroyed, (d.fwCheck (if d.start.slot then 0 else 1)).isNone]) ++ zeros 2
    ++ nonce ++ bytesLE 4 b.rseq.toNat ++ bytesLE 1 (memCapOf d.code) ++ bytesLE 1 (fabFormOf d.code)
    ++ bytesLE 1 (if d.start.slot then 1 else 0) ++ zeros 1 ++ bytesBE 16 b.bootId.toNat ++ bytesLE 2 (field h 8 2) ++ bytesLE 2 b.fuseSvn
    ++ bytesLE 1 (field h 6 1) ++ bytesLE 1 b.revoke.toNat ++ bytesLE 1 b.lifecycle.toNat ++ bytesLE 1 (bitsOf [b.jtagLock, b.jtagOpen || !b.jtagLock || b.lifecycle == 0])
    ++ pad 48 (h.drop 0x20) ++ pad 48 (h.drop 0x50) ++ bytesBE 48 Config.romDigest.toNat ++ bytesBE 48 b.setupDigest.toNat
    ++ bytesBE 96 identityPub.toNat ++ bytesBE 96 eph.toNat ++ bytesLE 4 index.toNat ++ zeros 12
    ++ (b.domains.toList.zipIdx.flatMap fun (x, i) => domainEntry i x) ++ (List.range 16).flatMap d.contextEntry
    ++ bytesBE 48 (Config.sha384 (d.flashBytes 0x2000004 d.chainLen)).toNat ++ zeros 16

/-- A whole report: body, signature, chain (R404, R405). -/
def Device.reportOf (d : Device) (body : List Byte) : List Byte :=
  body ++ bytesBE 96 (Config.ecdsaSign identityPriv (Config.sha384 body)).toNat ++ bytesLE 4 d.chainLen ++ zeros 28
    ++ d.flashBytes 0x2000004 d.chainLen

/-- An ephemeral pair kept: at most 16, the lowest index discarded (R403). -/
def keepPair (l : List Ephemeral) (e : Ephemeral) : List Ephemeral := let m := l ++ [e]; m.drop (m.length - 16)

/-- ATTEST at the head of the admin ring. -/
def Device.attest (d : Device) (t : Taken) : Device :=
  let size := 0x680 + d.chainLen
  let a := entDpa t.entry 0x10
  if field t.entry 0x18 4 < size then d.finish .admin t 0x60 0 (bytesLE 4 size)
  else
    let (priv, d1) := d.drawRandom
    let index := d1.boat.ephNext
    let d2 := { d1 with boat := { d1.boat with rseq := d1.boat.rseq + 1, ephNext := index + 1 } }
    let body := d2.reportBody ((t.entry.drop 8).take 8) (Config.p384Public priv) index
    let pair : Ephemeral := { index := index, priv := priv, body := Config.sha384 body }
    let d3 := { d2 with boat := { d2.boat with ephemerals := keepPair d2.boat.ephemerals pair } }
    match d3.adminWrite a (d3.reportOf body) with
    | (d4, some r) => d4.answerErr .admin t 0xE6 r []
    | (d4, none) => d4.finish .admin t 0 0 (bytesLE 4 size ++ bytesLE 4 index.toNat)

/-- ATTEST. -/
def execAttest (s : State) : Host.Outcome State Fault Refusal :=
  .next { s with dev := s.dev.adminDescriptor 0x48 fun d t => d.secure t Device.attest }

/-! ### KEY_RELEASE (R406 to R409) -/

/-- Kind of a release message. -/
def relKind (m : List Byte) : Nat := field m 5 1
/-- Package key index. -/
def relKidx (m : List Byte) : Nat := field m 6 1
/-- Packages listed. -/
def relNpkg (m : List Byte) : Nat := field m 0x100 2
/-- Install generation named. -/
def relDgen (m : List Byte) : Nat := field m 0xC 4

/-- A release message of the right form: its first 0x110 bytes, and its package list (R406, R408 step 3). -/
def releaseOk (m list : List Byte) (bytes : Nat) : Bool :=
  magicIs m [0x4F, 0x58, 0x4B, 0x52] && gvOk (field m 4 1) 1 && decide (relKind m ≤ 2) && decide (relKidx m ≤ 3) && zeroAt m 7 1
    && zeroAt m 0xD0 48 && zeroAt m 0x102 14 && decide (relNpkg m ≤ 16) && decide (bytes = 0x110 + 16 * relNpkg m)
    && ((List.range (relNpkg m)).all fun i => decide (field list (16 * i) 16 < 2 ^ 52))

/-- Step 4 of R408: domain, generation and key index are in the state that the kind needs. -/
def domainReady (x : Domain) (m : List Byte) : Bool :=
  let free := x.pkg[idx 4 (relKidx m)].isNone
  if relKind m = 0 then x.state != .installed && relDgen m == 0 && free
  else x.state == .installed && relDgen m == x.dgen.toNat && (if relKind m = 1 then free else !free)

/-- The wrapped package key of a message, unwrapped with an ephemeral private key; none when its tag fails (R407). -/
def unwrapKey (priv : BitVec 384) (dom : Nat) (m : List Byte) : Option (BitVec 256) :=
  let info := ([0x4F, 0x4E, 0x58, 0x32, 0x30, 0x2D, 0x4B, 0x52] : List Byte) ++ bytesLE 1 dom ++ bytesLE 1 (relKidx m) ++ (m.drop 8).take 8
  let k := Config.hkdf384 (Config.ecdhX priv (BitVec.ofNat 768 (beField m 0x40 96))) (BitVec.ofNat 384 (beField m 0x10 48)) info 44
  (Config.gcmOpen (BitVec.ofNat 256 (beOf (k.take 32))) (BitVec.ofNat 96 (beOf (k.drop 32))) (m.take 0x40) ((m.drop 0xA0).take 32) (BitVec.ofNat 128 (beField m 0xC0 16))).map
    fun bs => BitVec.ofNat 256 (beOf bs)

/-- The window of a package with header line `h` at `a`, when it is accepted under R409. -/
def packageWindow (h : List Byte) (key : BitVec 256) (kidx a : Nat) : Option Window :=
  let len := field h 0x10 8
  let ctOff := field h 0x18 8
  let tagOff := field h 0x20 8
  let pid := (h.drop 8).take 8
  let recs := 16 * ceilDiv len 65536
  let iv := BitVec.ofNat 96 (beOf (pid ++ bytesLE 4 0xFFFFFFFF))
  let ok : Bool := inCompanion a 4096 && magicIs h [0x4F, 0x58, 0x50, 0x4B] && gvOk (field h 4 1) 1 && field h 5 1 == kidx && zeroAt h 6 2
    && zeroAt h 0x28 8 && len % 64 == 0 && decide (64 ≤ len) && decide (len ≤ 2 ^ 40) && ctOff % 4096 == 0 && tagOff % 64 == 0
    && inCompanion (a + ctOff) len && inCompanion (a + tagOff) recs
    && allApart [(a, 4096), (a + ctOff, len), (a + tagOff, recs)]
    && (Config.gcmOpen key iv (h.take 0x30) [] (BitVec.ofNat 128 (beField h 0x30 16))).isSome
  if ok then some { base := BitVec.ofNat 52 (a + ctOff), len := len, header := BitVec.ofNat 52 a, tagOff := tagOff,
                    pid := BitVec.ofNat 64 (field h 8 8), key := key }
  else none

/-- Why a package list is not taken: a header cannot be read (R410), or is refused, with its list index. -/
inductive PackageErr where
  | fault (r : ErrRec)
  | refused (i : Nat)

/-- The windows of a package list, or what stops at the first header that is not accepted. -/
def Device.packageWindows (d : Device) (key : BitVec 256) (kidx : Nat) (list : List Byte) (n : Nat) : Except PackageErr (List Window) :=
  (List.range n).mapM fun i =>
    let a := field list (16 * i) 16
    if !inCompanion a 4096 then .error (.refused i)
    else match d.adminRead a 64 with
      | .error r => .error (.fault r)
      | .ok h =>
        match packageWindow h key kidx a with
        | some w => .ok w
        | none => .error (.refused i)

/-- Every window registered on the module. -/
def Boathouse.allWindows (b : Boathouse) : List Window := b.domains.toList.flatMap (·.windows)

/-- Step 8 of R408: no overlap, at most 64 windows in the domain and 512 on the module. -/
def windowsFit (b : Boathouse) (x : Domain) (ws : List Window) : Bool :=
  allApart ((b.allWindows ++ ws).map fun w => (w.base.toNat, w.len)) && decide (x.windows.length + ws.length ≤ 64)
    && decide (b.allWindows.length + ws.length ≤ 512)

/-- A release committed (R402, R408 step 9). -/
def Device.installRelease (d : Device) (dom : Fin 64) (m : List Byte) (key : BitVec 256) (ws : List Window) : Device :=
  let fresh := relKind m = 0
  let no := d.boat.keysDrawn + 1
  let x := d.boat.domains[dom]
  let y : Domain := if fresh then { x with state := .installed, key := no, dgen := x.dgen + 1 } else x
  let z : Domain := if relKind m = 2 then y else { y with pkg := upd y.pkg (idx 4 (relKidx m)) fun _ => some key }
  let w : Domain := { z with windows := z.windows ++ ws }
  { d with boat := { d.boat with
      domains := upd d.boat.domains dom fun _ => w
      keysDrawn := if fresh then no else d.boat.keysDrawn
      keyDomain := if fresh then setKey d.boat.keyDomain no dom.val else d.boat.keyDomain } }

/-- Steps 7 to 9 of R408 with the package key. -/
def Device.releasePackages (d : Device) (t : Taken) (dom : Fin 64) (m list : List Byte) (key : BitVec 256) : Device :=
  match d.packageWindows key (relKidx m) list (relNpkg m) with
  | .error (.fault r) => d.answerErr .admin t 0xE6 r []
  | .error (.refused i) => d.finish .admin t 0x67 0 (zeros 10 ++ bytesLE 2 i)
  | .ok ws =>
    if !windowsFit d.boat d.boat.domains[dom] ws then d.answer .admin t 0x68
    else
      let d1 := d.installRelease dom m key ws
      d1.finish .admin t 0 0 (bytesLE 1 dom.val ++ bytesLE 1 (relKidx m) ++ zeros 2 ++ bytesLE 4 d1.boat.domains[dom].dgen.toNat ++ bytesLE 2 ws.length)

/-- Steps 5 and 6 of R408, and what follows. -/
def Device.releaseKey (d : Device) (t : Taken) (dom : Fin 64) (m list : List Byte) : Device :=
  if relKind m = 2 then
    match d.boat.domains[dom].pkg[idx 4 (relKidx m)] with
    | some key => d.releasePackages t dom m list key
    | none => d.answer .admin t 0x64
  else
    match d.boat.ephemerals.find? fun e => e.index.toNat == field m 8 4 with
    | none => d.answer .admin t 0x62
    | some e =>
      let d1 := { d with boat := { d.boat with ephemerals := d.boat.ephemerals.filter fun x => x.index != e.index } }
      if e.body.toNat ≠ beField m 0x10 48 then d1.answer .admin t 0x62
      else match unwrapKey e.priv dom.val m with
        | none => d1.answer .admin t 0x63
        | some key => d1.releasePackages t dom m list key

/-- KEY_RELEASE at the head of the admin ring (R408 steps 1 to 4). -/
def Device.keyRelease (d : Device) (t : Taken) : Device :=
  let a := entDpa t.entry 8
  let n := field t.entry 0x14 1
  if d.boat.lifecycle ≠ 1 then d.answer .admin t 0x6C
  else if d.boat.debugOnce then d.answer .admin t 0x69
  else if n = 0 ∨ 63 < n then d.answer .admin t 0x66
  else match d.adminRead a 0x110 with
    | .error r => d.answerErr .admin t 0xE6 r []
    | .ok m =>
      match d.adminRead (a + 0x110) (16 * min 16 (relNpkg m)) with
      | .error r => d.answerErr .admin t 0xE6 r []
      | .ok list =>
        if !releaseOk m list (field t.entry 0x10 4) then d.answer .admin t 0x61
        else if !domainReady d.boat.domains[idx 64 n] m then d.answer .admin t 0x64
        else d.releaseKey t (idx 64 n) m list

/-- KEY_RELEASE. -/
def execKeyRelease (s : State) : Host.Outcome State Fault Refusal :=
  .next { s with dev := s.dev.adminDescriptor 0x49 fun d t => d.secure t Device.keyRelease }

/-! ### DOMAIN_RELEASE (R413) -/

/-- A domain's keys destroyed with its package keys and windows (R402). -/
def Domain.destroy (x : Domain) : Domain := { x with state := .destroyed, pkg := Vector.replicate 4 none, windows := [] }

/-- Bonded SRAM pages owned by a domain set to zero and returned to domain 0; with their number (R191). -/
def Mem.freePages (m : Mem) (dom : Fin 64) : Mem × Nat :=
  let pages := (m.owner.filter fun p => p.2 == dom).map (·.1)
  (pages.foldl (fun m p => m.takePage 0 p) m, pages.length)

/-- A page is covered by a grant or a save area of a live context (R413). -/
def Device.pageLive (d : Device) (p : Nat) : Bool :=
  d.ctxs.any fun c => (c.grants.any fun g => pValid g && decide (pBase g ≤ p) && decide (p ≤ pLimit g))
    || (c.cds.any fun cd => !apart (lpddrOf cd.val + c.saveArea.toNat) saveBytes (p * 4096) 4096)

/-- The interval of a domain on a CD: lowest and highest page. -/
def Domain.span (x : Domain) (cd : Nat) : Option (Nat × Nat) :=
  match x.intervals.filter fun r => r.1 == cd with
  | [] => none
  | r :: t => some (t.foldl (fun m s => min m s.2.1) r.2.1, t.foldl (fun m s => max m s.2.2) r.2.2)

/-- Pages of a domain's intervals that the scrub writes. -/
def Device.scrubPages (d : Device) (x : Domain) : List Nat :=
  (List.range 16).flatMap fun cd =>
    match x.span cd with
    | some (lo, hi) => ((List.range (hi + 1 - lo)).map (lo + ·)).filter fun p => !d.pageLive p
    | none => []

/-- Lines of some LPDDR5X pages written as zero under a key. -/
def Mem.scrub (m : Mem) (key : Nat) (pages : List Nat) : Mem :=
  let inPage := fun l => pages.contains (l / 64)
  { m with
    bytes := m.bytes.filter fun c => !inPage (c.1 / 64)
    ceLines := m.ceLines.filter fun l => !inPage l
    ueLines := m.ueLines.filter fun l => !inPage l
    lineKey := m.lineKey.filter fun p => !inPage p.1
    rangeKey := (pages.map fun p => (64 * p, 64 * p + 64, key)) ++ m.rangeKey }

/-- DOMAIN_RELEASE at the head of the admin ring. -/
def Device.domainRelease (d : Device) (t : Taken) : Device :=
  let n := field t.entry 8 1
  if n = 0 ∨ 63 < n then d.answer .admin t 0x66
  else
    let dom : Fin 64 := idx 64 n
    let x := d.boat.domains[dom]
    if x.state ≠ .installed then d.answer .admin t 0x64
    else if d.ctxs.any fun c => c.domains.contains dom then d.answer .admin t 0x65
    else
      let d1 := { d with boat := { d.boat with
        domains := upd d.boat.domains dom Domain.destroy, package := d.boat.package.filter fun r => r.domain != dom.val } }
      let (m1, zeroed) := d1.mem.freePages dom
      let pages := d1.scrubPages x
      ({ d1 with mem := m1.scrub d1.boat.domains[(0 : Fin 64)].key pages }).finish .admin t 0 0
        (bytesLE 4 zeroed ++ zeros 4 ++ bytesLE 8 (64 * pages.length))

/-- DOMAIN_RELEASE. -/
def execDomainRelease (s : State) : Host.Outcome State Fault Refusal :=
  .next { s with dev := s.dev.adminDescriptor 0x4A fun d t => d.secure t Device.domainRelease }

/-! ### DEBUG_UNLOCK (R415) -/

/-- The token is valid on this module in this boot (R415 step 2). -/
def Device.tokenOk (d : Device) (k : List Byte) : Bool :=
  let pub := BitVec.ofNat 768 (beField k 0x60 96)
  magicIs k [0x4F, 0x58, 0x44, 0x55] && gvOk (field k 4 1) 1 && decide (field k 5 1 ≤ 1) && zeroAt k 6 2 && zeroAt k 0x48 24
    && beField k 8 48 == (keyDigest identityPub).toNat && beField k 0x38 16 == d.boat.bootId.toNat
    && keyDigest pub == Config.dbgKey
    && Config.ecdsaVerify pub (Config.sha384 (k.take 0xC0)) (BitVec.ofNat 768 (beField k 0xC0 96))

/-- Every bonded SRAM page of every CD zeroed and returned to domain 0. -/
def Mem.zeroSram (m : Mem) : Mem :=
  { m with bytes := memClear m.bytes sramBase 0x100800000000
           ueWords := []
           owner := [] }

/-- Steps 3 to 6 of R415. -/
def Device.openDebug (d : Device) (jtag : Bool) : Device :=
  let no := d.boat.keysDrawn + 1
  { d with
    mem := d.mem.zeroSram
    dies := Vector.replicate 16 {}
    boat := { d.boat with
      domains := each (fun i x => if i = 0 then { x with key := no } else if x.state = .installed then x.destroy else x) d.boat.domains
      ephemerals := [], package := [], keysDrawn := no, keyDomain := setKey d.boat.keyDomain no 0, debugOpen := true, debugOnce := true, tenantsDestroyed := true, jtagOpen := d.boat.jtagOpen || jtag } }

/-- DEBUG_UNLOCK at the head of the admin ring. -/
def Device.debugUnlock (d : Device) (t : Taken) : Device :=
  let a := entDpa t.entry 8
  if !d.ctxs.isEmpty then d.answer .admin t 0x6B
  else if field t.entry 0x10 4 ≠ 288 then d.answer .admin t 0x6A
  else match d.adminRead a 288 with
  | .error r => d.answerErr .admin t 0xE6 r []
  | .ok k =>
    if !d.tokenOk k then d.answer .admin t 0x6A
    else
      let mask := bitsOf (d.boat.domains.toList.map fun x => x.state == .installed)
      (d.openDebug (bits (field k 5 1) 0 0 == 1)).finish .admin t 0 0 (bytesLE 8 (mask / 2 * 2))

/-- DEBUG_UNLOCK. -/
def execDebugUnlock (s : State) : Host.Outcome State Fault Refusal :=
  .next { s with dev := s.dev.adminDescriptor 0x4B fun d t => d.secure t Device.debugUnlock }

end Sys2Proof.Machine
end

