-- ==== Sys2Proof/Machine/Flash.lean ====
section
/-! DEFINITION. Module flash and its interface registers (R400, R461, R479). -/

namespace Sys2Proof.Machine

/-- First byte of the certificate area. -/
def certBase : Nat := 0x2000000
/-- First byte of the set-up area. -/
def setupBase : Nat := 0x2010000
/-- First byte of the reserved range. -/
def flashReserved : Nat := 0x2050000
/-- Bytes of module flash. -/
def flashSize : Nat := 0x4000000

/-- Bytes that a flash command covers: 4 KiB, or a sector of 64 KiB for an erase. -/
def flashUnit (op : Nat) : Nat := if op = 3 then 65536 else 4096

/-- The command writes flash. -/
def flashWrites (op : Nat) : Bool := op == 2 || op == 3

/-- RANGE: a misaligned address, or the reserved range for a program or erase. -/
def flashRange (op addr : Nat) : Bool := addr % flashUnit op != 0 || (flashWrites op && decide (flashReserved ≤ addr))

/-- The management processor runs: a firmware image has been booted. -/
def Device.mpRuns (d : Device) : Bool := !d.boat.booted.isEmpty

/-- PROTECTED: the booted slot while the management processor runs, the certificate area outside the manufacturing lifecycle. -/
def Device.flashProtected (d : Device) (op addr : Nat) : Bool :=
  flashWrites op && ((d.mpRuns && addr / slotBytes == flag d.start.slot) || (decide (certBase ≤ addr) && decide (addr < setupBase) && d.boat.lifecycle != 0))

/-- A program or erase of the set-up area, which stage 0x3 holds. -/
def flashSetup (op addr : Nat) : Bool := flashWrites op && decide (setupBase ≤ addr) && decide (addr < flashReserved)

/-- A flash command written: refused while one is in progress, refused by its address, or started. -/
def Device.flashStart (d : Device) (op addr : Nat) : Device :=
  let h := d.hd
  if h.flashBusy then ({ d with hd := { h with flashResult := 1 } } : Device).stray
  else
    let h1 : HdRegs := { h with flashAddr := BitVec.ofNat 32 addr, flashOp := BitVec.ofNat 4 op }
    if flashRange op addr then { d with hd := { h1 with flashResult := 3 } }
    else if d.flashProtected op addr then { d with hd := { h1 with flashResult := 2 } }
    else { d with hd := { h1 with flashBusy := true, flashHeld := flashSetup op addr && d.start.stage == 3 } }

/-- A write of `HD.FLASH_CMD` with an op. -/
def Device.writeFlash (d : Device) (v : Nat) : Device := d.flashStart (bits v 35 32) (bits v 31 0)

/-- The register and op of a flash row. -/
def flashRow (op : Nat) (r : Reg) (v : Option Nat) : Bool := r == .flashCmd && (match v with
  | none => true
  | some v => bits v 35 32 == op)

/-- FLASH_READ. -/
def execFlashRead (a : RegAccess) (s : State) : Host.Outcome State Fault Refusal :=
  .next { s with dev := s.dev.regRow a false (flashRow 1) fun d _ v => d.writeFlash v }

/-- FLASH_PROGRAM. -/
def execFlashProgram (a : RegAccess) (s : State) : Host.Outcome State Fault Refusal :=
  .next { s with dev := s.dev.regRow a false (flashRow 2) fun d _ v => d.writeFlash v }

/-- FLASH_ERASE. -/
def execFlashErase (a : RegAccess) (s : State) : Host.Outcome State Fault Refusal :=
  .next { s with dev := s.dev.regRow a false (flashRow 3) fun d _ v => d.writeFlash v }

/-- What a flash command leaves when it ends without error: a read fills the buffer, a program clears bits, an erase sets a sector to
0xFF. Bytes beyond the device read as free values. -/
def Device.flashDo (d : Device) (op addr : Nat) : Device :=
  let h := d.hd
  if op = 1 then
    if flashSize ≤ addr then
      let (bs, d1) := d.drawBytes 4096
      { d1 with hd := { h with flashBuf := memStore 0 [] 0 bs } }
    else { d with hd := { h with flashBuf := memStore 0 [] 0 (memBytes 0xFF h.flash addr 4096) } }
  else if op = 2 then
    let page := ((memBytes 0xFF h.flash addr 4096).zip (memBytes 0 h.flashBuf 0 4096)).map fun (o, n) => o &&& n
    { d with hd := { h with flash := memStore 0xFF h.flash addr page } }
  else { d with hd := { h with flash := memClear h.flash addr (addr + 65536) } }

/-- What a command that the device fails leaves: free values where it would have written. -/
def Device.flashFail (d : Device) (op addr : Nat) : Device :=
  let (bs, d1) := d.drawBytes (flashUnit op)
  if op = 1 then { d1 with hd := { d1.hd with flashBuf := memStore 0 [] 0 bs } }
  else { d1 with hd := { d1.hd with flash := memStore 0xFF d1.hd.flash addr bs } }

/-- The command in progress ends, unless stage 0x3 holds it. -/
def Device.flashEnd (d : Device) (ok : Bool) : Device :=
  if !d.hd.flashBusy ∨ d.hd.flashHeld then d
  else
    let op := d.hd.flashOp.toNat
    let addr := d.hd.flashAddr.toNat
    let d1 := if ok then d.flashDo op addr else d.flashFail op addr
    { d1 with hd := { d1.hd with flashBusy := false, flashResult := if ok then 0 else 4, flashDone := d1.hd.flashDone + 1 } }

/-- FLASH_COMMAND_DONE. -/
def execFlashCommandDone (deviceOk : Bool) (s : State) : Host.Outcome State Fault Refusal := .next { s with dev := s.dev.flashEnd deviceOk }

end Sys2Proof.Machine
end

