-- ==== Sys2Proof/Machine/Mixer.lean ====
section
/-! DEFINITION. The Mixer: MERGE in both modes and UPDATE in all four (R242 to R246, R258, R264 to R272, R278). -/

namespace Sys2Proof.Machine

/-! ### Accesses -/

/-- Island of the Mixer. -/
def mixerIsland (cd : Cd) : BitVec 16 := cdIsland cd 5 0

/-- An error of class 0x09 stops the command. -/
def Device.mixerErr (d : Device) (c : Context) (cd : Cd) (code detail : Nat) : Device :=
  d.fault c (d.err (mixerIsland cd) 9 code c.tag none detail)

/-- Bytes read by the Mixer for an item, and the device with the errors of their lines counted (R176); `done` bytes of lines were counted
before (R193). -/
def Device.mixRead (d : Device) (c : Context) (cd : Cd) (item done a n : Nat) : Except Device (List Byte × Device) :=
  let d1 := d.eccRun c cd .mixer a n
  match d.readBytes c cd .mixer a n with
  | .ok bs => .ok (bs, d1)
  | .error (e, l) => .error (d1.memFault c (mixerIsland cd) e l (done + (l - lineOf a)) false 0 item)

/-- Bytes written by the Mixer for an item. -/
def Device.mixWrite (d : Device) (c : Context) (cd : Cd) (item done a : Nat) (bs : List Byte) : Except Device Device :=
  match d.putBytes c cd .mixer a bs with
  | (d1, none) => .ok d1
  | (d1, some (e, l, n)) => .error (d1.memFault c (mixerIsland cd) e l (done + n) true 0 item)

/-- The reads by which the Mixer finds the item of a resident body, counted; an error of their data faults (R172, R176). -/
def Device.mixBody (d : Device) (c : Context) (cd : Cd) (item handle i : Nat) : Except Device Device :=
  let rs := d.bodyReads c handle i
  match d.readsBad rs with
  | some (e, l) => .error ((d.eccReads rs).memFault c (mixerIsland cd) e l 0 false 0 item)
  | none => .ok (d.eccReads rs)

/-- The commit line read by the Mixer (R272). -/
def Device.mixCommit (d : Device) (c : Context) (cd : Cd) (item : Nat) : Except Device (List Byte × Device) :=
  let a := c.commitLine.toNat
  match d.plainRead (c.domOf a) a 64 with
  | .error (e, l) => .error ((d.eccPlain a 64).memFault c (mixerIsland cd) e l 0 false 0 item)
  | .ok bs => .ok (bs, d.eccPlain a 64)

/-! ### Stop points (R383, R387) -/

/-- Tiles or items that a Mixer command has completed, and blocks of 4,096 elements of the item in hand (R383). -/
def QEntry.mixItems (e : QEntry) : Nat := bits e.progress.toNat 20 0
def QEntry.mixBlocks (e : QEntry) : Nat := bits e.progress.toNat 34 21

/-- The progress of a Mixer command (R383). -/
def mixProgress (items blocks : Nat) : Nat := items % 2 ^ 21 + blocks % 2 ^ 14 * 2 ^ 21

/-- The count that a command has formed for its s-register before a stop point. -/
def QEntry.counted (e : QEntry) : Nat := (e.svals.head?.map (·.2.toNat)).getD 0

/-- Tiles or items of a command done in order from item `i`, block `b` on: `f` does one item, or the blocks that it may do before its next
stop point, and says what it counts and how many blocks are done when some are left. With `stop` the command comes to a stop point after
each item. The answer is the device, the count, and where the command stands when work is left. -/
def mixRun (stop : Bool) (f : Device → Nat → Nat → Except Device (Device × Nat × Option Nat)) :
    Nat → Nat → Nat → Device × Nat → Except Device (Device × Nat × Option (Nat × Nat))
  | 0, _, _, (d, n) => .ok (d, n, none)
  | k + 1, i, b, (d, n) =>
    match f d i b with
    | .error d1 => .error d1
    | .ok (d1, m, some b1) => .ok (d1, n + m, some (i, b1))
    | .ok (d1, m, none) => if stop && k != 0 then .ok (d1, n + m, some (i + 1, 0)) else mixRun stop f k (i + 1) 0 (d1, n + m)

/-- What the Mixer answers for a command: `s` gives its s value from its count. -/
def mixAnswer (e : QEntry) (s : Nat → Nat) : Except Device (Device × Nat × Option (Nat × Nat)) → Engine
  | .error d => .stopped d
  | .ok (d, n, none) => .ran d (e.sOf (s n)) true
  | .ok (d, n, some (i, b)) => .cut d (mixProgress i b) (e.sOf n)

/-- A Mixer command of `total` tiles or items, from where it stands. -/
def Device.mixItemsRun (d : Device) (c : Context) (e : QEntry) (total : Nat) (s : Nat → Nat)
    (f : Device → Nat → Nat → Except Device (Device × Nat × Option Nat)) : Engine :=
  mixAnswer e s (mixRun (d.stopping c) f (total - e.mixItems) e.mixItems e.mixBlocks (d, e.counted))

/-! ### Transfers (R194, R196) -/

/-- A piece of a transfer's destination: its address, its bytes, and the source runs that they need. -/
structure MixLine where
  at' : Nat
  bytes : List Byte
  srcs : List (Nat × Nat)

/-- A run of bytes cut into the lines of its destination; `srcs` gives the source runs that some bytes need, by their offset and number. -/
def mixLines (a : Nat) (bs : List Byte) (srcs : Nat → Nat → List (Nat × Nat)) : List MixLine :=
  (List.range (ceilDiv bs.length 64)).map fun l =>
    ⟨wrap52 (a + 64 * l), (bs.drop (64 * l)).take 64, srcs (64 * l) (min 64 (bs.length - 64 * l))⟩

/-- The first of some source runs that cannot be read: code and line. -/
def Device.firstBad (d : Device) (c : Context) (cd : Cd) (runs : List (Nat × Nat)) : Option (Nat × Nat) :=
  runs.findSome? fun r => match d.readBytes c cd .mixer r.1 r.2 with | .error e => some e | .ok _ => none

/-- Bytes of a run as far as its lines can be read, zeros for the others: bytes that no written line takes (R194). -/
def Device.softRead (d : Device) (c : Context) (cd : Cd) (a n : Nat) : List Byte :=
  let lines := if n = 0 then 0 else (a + n - 1) / 64 - a / 64 + 1
  let bs := (List.range lines).flatMap fun k => match d.readBytes c cd .mixer (wrap52 (lineOf a + 64 * k)) 64 with
    | .ok l => l
    | .error _ => zeros 64
  (bs.drop (a - lineOf a)).take n

/-- The lines of a transfer written in destination order, `n` of which are written already: it stops at the first line of which a source
cannot be read or the write is refused; a read wins (R194, R196). -/
def Device.mixPut (d : Device) (c : Context) (cd : Cd) (item : Nat) : List MixLine → Nat → Except Device Device
  | [], _ => .ok d
  | l :: t, n =>
    match d.firstBad c cd l.srcs with
    | some (e, a) => .error ((d.eccOf a (.error e : Except Nat Unit)).memFault c (mixerIsland cd) e a (64 * n) false 0 item)
    | none =>
      match d.putBytes c cd .mixer l.at' l.bytes with
      | (_, some (e, a, _)) => .error (d.memFault c (mixerIsland cd) e a (64 * n) true 0 item)
      | (d1, none) => d1.mixPut c cd item t (n + 1)

/-- The lines of a run that can be read, counted (R176). -/
def Device.eccGood (d : Device) (c : Context) (cd : Cd) (a n : Nat) : Device :=
  if n = 0 then d
  else (List.range ((a + n - 1) / 64 - a / 64 + 1)).foldl (fun d k =>
    let l := wrap52 (lineOf a + 64 * k)
    match d.readLine c cd .mixer none l with
    | .ok bs => d.eccOf l (.ok bs)
    | .error _ => d) d

/-- A transfer of an item, from the line of a number on: its source runs are read ahead and the lines that can be read counted, and its lines
written; of the lines that cannot be read, only the one recorded is counted (R176, R194). -/
def Device.mixMove (d : Device) (c : Context) (cd : Cd) (item : Nat) (runs : List (Nat × Nat)) (lines : List MixLine) (from' : Nat) : Except Device Device :=
  let d1 := runs.foldl (fun (d : Device) r => d.eccGood c cd r.1 r.2) d
  match d.firstBad c cd runs with
  | none => d1.mixPut c cd item (lines.map fun l => { l with srcs := [] }) from'
  | some _ => d1.mixPut c cd item lines from'

/-- Lines of the given addresses are served to the Mixer under the wheel in force (R212). -/
def Device.mixServed (d : Device) (c : Context) (cd : Cd) (as : List Nat) : Bool := as.all (d.wheelServes c cd 4)

/-- What conversions met, in the tally. -/
def Device.mixNote (d : Device) (cd : Cd) (ms : List (Option Meet)) : Device :=
  d.modDie cd fun x => { x with tally := x.tally.notes ms }

/-- A BF16 value at an offset of a byte string. -/
def bf16At (bs : List Byte) (off : Nat) : Val := fBf16.decode (field bs off 2)

/-! ### BUILD (R242, R243) -/

/-- A BUILD. -/
structure BuildCmd where
  mode : Nat
  fp16 : Bool
  tiles : Nat
  w : Nat
  sc : Nat
  a : Nat
  b : Nat
  dst : Nat
  s : Nat
  r : Nat
  tid : Nat
  first : Nat
  kt : Nat
  ct : Nat

/-- Tiles of a MERGE: imm16, when present, overrides the record. -/
def Die.mergeTiles (x : Die) (e : QEntry) : Nat := if cwImsel e.w = 0 then x.recField e 4 4 else e.imm.toNat

/-- The fields of a BUILD; g[ga] is added to dst and g[gb] to a and b. -/
def Die.buildCmd (x : Die) (e : QEntry) : BuildCmd where
  mode := bits (x.recField e 1 1) 3 2
  fp16 := bits (x.recField e 1 1) 4 4 == 1
  tiles := x.mergeTiles e
  w := x.recField e 8 8 % 2 ^ 52
  sc := x.recField e 0x10 8 % 2 ^ 52
  a := wrap52 (x.recField e 0x18 8 % 2 ^ 52 + e.gb.toNat)
  b := wrap52 (x.recField e 0x20 8 % 2 ^ 52 + e.gb.toNat)
  dst := x.recAddr e 0x28
  s := x.recField e 0x30 2
  r := x.recField e 0x32 2
  tid := x.recField e 0x34 4
  first := x.recField e 0x38 4
  kt := x.recField e 0x3C 2
  ct := x.recField e 0x3E 2

/-- Width of column group g of rank r. -/
def groupWidth (r g : Nat) : Nat := min 128 (r - 128 * g)

/-- One W' tile: its elements in row-major order, with what each met: a NaN before an infinite group scale (R54, R243). -/
def buildTile (m : BuildCmd) (seed : BitVec 64) (step tile : Nat) (nib sc a b : List (List Byte)) : List (Nat × Option Meet) :=
  let kt := tile % m.kt
  let ct := tile / m.kt
  let nibs := (nib.map List.toArray).toArray
  let scs := (sc.map List.toArray).toArray
  let as := (a.map fun l => l.toArray).toArray
  let bs := (b.flatten).toArray
  let code := fun (x : Array Byte) (i : Nat) => (x.getD i 0).toNat + 256 * (x.getD (i + 1) 0).toNat
  let s := fBf16.decode m.s
  (List.range (128 * 128)).map fun n =>
    let k := n / 128
    let c := n % 128
    let byte := ((nibs.getD c #[]).getD (k / 64 * 32 + k % 64 / 2) 0).toNat
    let scale := code (scs.getD c #[]) (2 * (k / 64))
    let w := q4Value (if k % 2 = 0 then byte % 16 else byte / 16) scale
    let terms := (List.range m.r).map fun j =>
      let g := j / 128
      let av := fBf16.decode (code (as.getD g #[]) (2 * (k * groupWidth m.r g + j % 128)))
      let bv := fBf16.decode (code bs (2 * (j * 128 + c)))
      av.mul bv
    let v := w.add (s.mul (terms.foldl Val.add (.fin false 0 0)))
    let ix := (kt * 128 + k) * (m.ct * 128) + ct * 128 + c
    let r := (roundingOf m.mode (srDraw seed step m.tid ix)).getD .nearestEven
    let out := (if m.fp16 then fFp16 else fBf16).encode r v
    (out.1, if out.2 = some .nanIn then out.2 else (q4Meet scale).orElse fun _ => out.2)

/-- Source runs of columns `c0` to `c0 + n - 1` of a W tile: nibbles, then group scales. -/
def BuildCmd.columns (m : BuildCmd) (tile c0 n : Nat) : List (Nat × Nat) :=
  let col := fun c => (tile / m.kt * 128 + c) * (m.kt * 128 / 64) + tile % m.kt * 2
  (List.range n).map (fun k => (wrap52 (m.w + col (c0 + k) * 32), 64)) ++ (List.range n).map fun k => (wrap52 (m.sc + col (c0 + k) * 2), 4)

/-- Source runs of rows `k0` to `k0 + n - 1` of the A part that a tile uses, by column group. -/
def BuildCmd.aRows (m : BuildCmd) (tile k0 n : Nat) : List (Nat × Nat) :=
  (List.range (ceilDiv m.r 128)).map fun g =>
    let w := groupWidth m.r g
    (wrap52 (m.a + 2 * (g * 128 * (m.kt * 128) + (tile % m.kt * 128 + k0) * w)), 2 * n * w)

/-- First byte of the B part that a tile uses. -/
def BuildCmd.bBase (m : BuildCmd) (tile : Nat) : Nat := wrap52 (m.b + 2 * (tile / m.kt * m.r * 128))

/-- The source runs of line `l` of a W' tile: row l / 4, columns 32 · (l mod 4) and the 31 after it. -/
def BuildCmd.lineRuns (m : BuildCmd) (tile l : Nat) : List (Nat × Nat) :=
  let c0 := l % 4 * 32
  m.columns tile c0 32 ++ m.aRows tile (l / 4) 1 ++ (List.range m.r).map fun j => (wrap52 (m.bBase tile + 2 * (128 * j + c0)), 64)

/-- One tile of a BUILD read, computed and written line by line (R194). Its conversions are tallied when the tile is written: a tile that a
fault stops counts none (DESIGN CHOICE, log entry 74). -/
def Device.buildOne (d : Device) (c : Context) (cd : Cd) (m : BuildCmd) (i : Nat) : Except Device Device :=
  let tile := m.first + i
  let soft := fun (runs : List (Nat × Nat)) => runs.map fun r => d.softRead c cd r.1 r.2
  let cols := m.columns tile 0 128
  let as := m.aRows tile 0 128
  let b := (m.bBase tile, 256 * m.r)
  let out := buildTile m c.seed (d.stepNo c) tile (soft (cols.take 128)) (soft (cols.drop 128)) (soft as) (soft [b])
  let lines := mixLines (wrap52 (m.dst + 32768 * i)) (out.flatMap fun o => bytesLE 2 o.1) fun off _ => m.lineRuns tile (off / 64)
  (d.mixMove c cd i (cols ++ as ++ [b]) lines 0).map fun d1 => d1.mixNote cd (out.map (·.2))

/-- BUILD: the private copy of a merge group's target (R243); a tile's end is its stop point (R387). -/
def buildEngine (cd : Cd) (d : Device) (c : Context) (e : QEntry) : Engine :=
  let x := d.dies[cd]
  let m := x.buildCmd e
  if bits (x.recField e 1 1) 1 0 ≠ 0 then .wait
  else if !d.mixServed c cd [m.w, m.sc, m.a, m.b, m.dst] then .wait
  else if m.kt * m.ct < m.first + m.tiles then .stopped (d.mixerErr c cd 2 (m.first + m.tiles * 2 ^ 32))
  else d.mixItemsRun c e m.tiles (fun _ => 1) fun d i _ => (d.buildOne c cd m i).map fun d1 => (d1, 0, none)

/-- MERGE_BUILD. -/
def execMergeBuild (cd : Cd) (s : State) : Host.Outcome State Fault Refusal :=
  .next { s with dev := s.dev.startHead cd 9 1 (buildEngine cd) }

/-! ### FEED (R244, R245) -/

/-- The first entry of a tile's pack list that breaks R244. -/
def packFault (es : List Nat) : Option Nat :=
  let off := fun x => bits x 55 52 * 8
  let wid := fun x => bits x 60 56 * 8
  let orient := fun x => bits x 61 61
  (es.zipIdx.find? fun (x, i) =>
    wid x == 0 || decide (128 < wid x) || decide (128 < off x + wid x) || orient x != orient (es.headD 0)
      || (es.take i).any fun y => decide (off y < off x + wid x) && decide (off x < off y + wid y)).map (·.2)

/-- The tile that packed blocks make, row-major (R244). -/
def packTile (es : List Nat) (blocks : List (List Byte)) : List (BitVec 16) :=
  let bs := ((es.zip blocks).map fun p => (bits p.1 55 52 * 8, bits p.1 60 56 * 8, bits p.1 61 61, p.2.toArray))
  (List.range (128 * 128)).map fun n =>
    let k := n / 128
    let c := n % 128
    match bs.find? fun (o, w, r, _) => if r = 0 then decide (o ≤ c) && decide (c < o + w) else decide (o ≤ k) && decide (k < o + w) with
    | none => 0
    | some (o, w, r, b) =>
      let i := if r = 0 then k * w + (c - o) else (k - o) * 128 + c
      BitVec.ofNat 16 ((b.getD (2 * i) 0).toNat + 256 * (b.getD (2 * i + 1) 0).toNat)

/-- Slots of an MA that the Mixer may fill: a slot that channel 0 waits for is channel 0's (R60, R245). -/
def Die.feedRoom (x : Die) (ma : MaNo) : Nat :=
  let used := x.mas[ma].weights.length + (match x.readyChunk with | some (_, m, _, _) => if m = ma then 1 else 0 | none => 0)
  10 - used

/-- One tile of a FEED read and placed. -/
def Device.feedOne (d : Device) (c : Context) (cd : Cd) (e : QEntry) (i : Nat) : Except Device Device := do
  let x := d.dies[cd]
  let f := x.recField e 2 1
  let n := bits f 5 2 + 1
  let ma : MaNo := idx 4 (bits f 1 0)
  let a := wrap52 (x.recAddr e 8 + 8 * (n * i))
  let (list, d) ← d.mixRead c cd i 0 a (8 * n)
  let es := (List.range n).map fun j => field list (8 * j) 8
  match packFault es with
  | some j => Except.error (d.mixerErr c cd 1 (i % 2 ^ 20 + j * 2 ^ 20))
  | none =>
    let lines0 := (a + 8 * n - 1) / 64 - a / 64 + 1
    let (blocks, _, d) ← es.foldlM (fun (acc : List (List Byte) × Nat × Device) x => do
      let (b, d) ← acc.2.2.mixRead c cd i (64 * acc.2.1) (x % 2 ^ 52) (2 * 128 * (bits x 60 56 * 8))
      return (acc.1 ++ [b], acc.2.1 + 4 * (bits x 60 56 * 8), d)) ([], lines0, d)
    let t : WTile := { mixer := true, k := 128, transposed := false, elems := packTile es blocks, scales := [] }
    return d.modDie cd fun x => (x.modMa ma fun m => { m with weights := m.weights ++ [t] }).modQueue 9 fun l =>
      setEntry l e.no fun e => { e with progress := e.progress + 1 }

/-- The lines of a FEED's tile are served to the Mixer under the wheel in force (R212). -/
def Device.feedServed (d : Device) (c : Context) (cd : Cd) (e : QEntry) (i : Nat) : Bool :=
  let x := d.dies[cd]
  let n := bits (x.recField e 2 1) 5 2 + 1
  let a := wrap52 (x.recAddr e 8 + 8 * (n * i))
  d.mixServed c cd (a :: match d.readBytes c cd .mixer a (8 * n) with
    | .ok l => (List.range n).map fun j => field l (8 * j) 8 % 2 ^ 52
    | .error _ => [])

/-- Tiles of a FEED fed while slots are free: the device, and whether all tiles are placed. -/
def Device.feedTiles (c : Context) (cd : Cd) (e : QEntry) (tiles : Nat) : Nat → Nat → Device → Except Device (Device × Bool)
  | 0, i, d => .ok (d, decide (tiles ≤ i))
  | n + 1, i, d =>
    if tiles ≤ i then .ok (d, true)
    else if d.dies[cd].feedRoom (idx 4 (bits (d.dies[cd].recField e 2 1) 1 0)) = 0 then .ok (d, false)
    else if !d.feedServed c cd e i then .ok (d, false)
    else match d.feedOne c cd e i with
      | .error d1 => .error d1
      | .ok d1 => Device.feedTiles c cd e tiles n (i + 1) d1

/-- Tiles that a FEED feeds before its next stop point: it comes to one after each tile while its context is being stopped (R387). -/
def Device.feedLimit (d : Device) (c : Context) : Nat := if d.stopping c then 1 else 10

/-- FEED starts and feeds what its MA has room for. -/
def feedEngine (cd : Cd) (d : Device) (c : Context) (e : QEntry) : Engine :=
  let x := d.dies[cd]
  if bits (x.recField e 1 1) 1 0 ≠ 1 then .wait
  else match Device.feedTiles c cd e (x.mergeTiles e) (d.feedLimit c) 0 d with
    | .error d1 => .stopped d1
    | .ok (d1, all) => .ran d1 (e.sOf 1) all

/-- A FEED in progress feeds further tiles; a fault stops it (R195). -/
def Device.feedOn (d : Device) (c : Context) (cd : Cd) (e : QEntry) : Device :=
  match Device.feedTiles c cd e (d.dies[cd].mergeTiles e) (d.feedLimit c) e.progress.toNat d with
  | .error d1 => d1.modDie cd fun x => x.modQueue 9 fun l => setEntry l e.no fun e => { e with stopped := true }
  | .ok (d1, all) =>
    if all then d1.modDie cd fun x => x.modQueue 9 fun l => setEntry l e.no fun e => { e with done := true, inputRead := true } else d1

/-- MERGE_FEED on a CD: the FEED in progress goes on, else the head command starts. -/
def Device.mergeFeed (d : Device) (cd : Cd) : Device :=
  let x := d.dies[cd]
  match d.residentOf cd, x.queues[(9 : QueueId)].find? fun e => e.started && !e.done && !e.stopped && cwOp e.w == 1 && bits (x.recField e 1 1) 1 0 == 1 with
  | some c, some e => if x.frozen || d.enginesHeld c then d else d.feedOn c cd e
  | _, _ => d.startHead cd 9 1 (feedEngine cd)

/-- MERGE_FEED. -/
def execMergeFeed (cd : Cd) (s : State) : Host.Outcome State Fault Refusal :=
  .next { s with dev := s.dev.mergeFeed cd }

/-! ### Masters (R265, R266) -/

/-- The masters header. -/
structure Masters where
  gv : Nat
  opt : Nat
  nitems : Nat
  base : Nat
  lstep : Nat
  lvalid : Bool
  lskip : Bool
  pstep : Nat
  pvalid : Bool
  pbank : Nat
  count : Nat
  deriving DecidableEq, Repr

/-- The masters header decoded. -/
def mastersOf (b : List Byte) : Masters :=
  { gv := field b 0 1, opt := bits (field b 1 1) 1 0, nitems := field b 2 2, base := bits (field b 4 1) 0 0, lstep := field b 8 4,
    lvalid := bits (field b 0xC 1) 0 0 == 1, lskip := bits (field b 0xC 1) 1 1 == 1, pstep := field b 0x10 4,
    pvalid := bits (field b 0x14 1) 0 0 == 1, pbank := bits (field b 0x14 1) 1 1, count := field b 0x18 4 }

/-- The 64 bytes of a masters header. -/
def Masters.encode (h : Masters) : List Byte :=
  bytesLE 1 h.gv ++ bytesLE 1 h.opt ++ bytesLE 2 h.nitems ++ bytesLE 4 h.base ++ bytesLE 4 h.lstep
    ++ bytesLE 1 ((if h.lvalid then 1 else 0) + (if h.lskip then 2 else 0)) ++ zeros 3 ++ bytesLE 4 h.pstep
    ++ bytesLE 1 ((if h.pvalid then 1 else 0) + 2 * h.pbank) ++ zeros 3 ++ bytesLE 4 h.count ++ zeros 36

/-- The active bank at step t (R266). -/
def Masters.active (h : Masters) (t : Nat) : Nat := if h.pvalid ∧ h.pstep < t then h.pbank else h.base

/-! ### Update items (R267) -/

/-- An update item. -/
structure UItem where
  handle : Nat
  policy : Nat
  item : Nat
  r : Nat
  mst : Nat
  off : Nat
  bank : Nat
  kt : Nat
  ct : Nat
  tid : Nat
  grad : Nat
  ovf : Nat
  gsa : Val
  gsb : Val

/-- An update item decoded. -/
def uitemOf (b : List Byte) : UItem :=
  { handle := bits (field b 0 4) 21 0, policy := bits (field b 0 4) 22 22, item := field b 4 2, r := field b 6 2,
    mst := entDpa b 8, off := field b 0x10 4, bank := field b 0x14 4, kt := field b 0x18 2, ct := field b 0x1A 2,
    tid := field b 0x1C 4, grad := entDpa b 0x20, ovf := entDpa b 0x28, gsa := bf16At b 0x30, gsb := bf16At b 0x32 }

/-- Extents and elements of an item. -/
def UItem.din (u : UItem) : Nat := u.kt * 128
/-- Output extent. -/
def UItem.dout (u : UItem) : Nat := u.ct * 128
/-- Elements of the item. -/
def UItem.n (u : UItem) : Nat := u.r * (u.din + u.dout)
/-- Bytes of a section: mantissas, then exponents padded to a line (R40). -/
def UItem.section' (u : UItem) : Nat := 2 * u.n + ceilDiv (u.n / 32) 64 * 64
/-- Address of section `j` of the item in a bank. -/
def UItem.at' (u : UItem) (bank j : Nat) : Nat := wrap52 (u.mst + 64 + bank * u.bank * 64 + u.off * 64 + j * u.section')

/-- Element index of section position p (R265): Aᵀ first, then B, both blocked as R230 blocks B. -/
def UItem.index (u : UItem) (p : Nat) : Nat :=
  let na := u.r * u.din
  let q := if p < na then p else p - na
  let j := q % (u.r * 128) / 128
  let c := q / (u.r * 128) * 128 + q % 128
  if p < na then j * u.din + c else na + j * u.dout + c

/-- The hyperparameters (BF16 but for k). -/
structure Hyper where
  eta : Val
  b1 : Val
  b2 : Val
  eps : Val
  lam : Val
  c1 : Val
  c2 : Val
  k : Nat

/-- The hyperparameter block decoded. -/
def hyperOf (b : List Byte) : Hyper :=
  ⟨bf16At b 0, bf16At b 2, bf16At b 4, bf16At b 6, bf16At b 8, bf16At b 10, bf16At b 12, field b 0x10 1⟩

/-- Offset of the first hyperparameter that R268 refuses: non-finite, or ε zero where AdamW divides. -/
def Hyper.fault (h : Hyper) (adamw : Bool) : Option Nat :=
  match [h.eta, h.b1, h.b2, h.eps, h.lam, h.c1, h.c2].zipIdx.find? fun p => !p.1.finite with
  | some p => some (2 * p.2)
  | none => if adamw && h.eps.isZero then some 6 else none

/-! ### The arithmetic of R268 -/

/-- A magnitude rounded to a stage value by round-to-nearest-even (R75, R268). -/
def stageNear (neg : Bool) (mag : Nat) (e : Int) : Val :=
  if mag = 0 then .fin false 0 0
  else
    let q := log2Of mag e - 55
    .fin neg (roundQuanta .nearestEven mag e q) q

/-- Integer square root, bit by bit from bit `b - 1`. -/
def isqrtFrom : Nat → Nat → Nat → Nat
  | 0, _, r => r
  | b + 1, n, r =>
    let t := r + pow2 b
    isqrtFrom b n (if t * t ≤ n then t else r)

/-- The square root rounded once to a stage value; the root of a negative number is a free value (log entry 24). -/
def rootVal : Val → Val
  | .nan => .nan
  | .inf false => .inf false
  | .inf true => let f := Config.rootOfNegative (-1) 4096; .fin f.1 f.2.1 f.2.2
  | .fin neg mag e =>
    if mag = 0 then .fin false 0 0
    else if neg then let f := Config.rootOfNegative (-(mag : Int)) e; .fin f.1 f.2.1 f.2.2
    else
      let s := 128 + (e % 2).toNat
      let n := mag <<< s
      let r := isqrtFrom (log2 n / 2 + 1) n 0
      stageNear false (2 * r + (if r * r = n then 0 else 1)) ((e - s) / 2 - 1)

/-- A quotient rounded once to a stage value; a finite quotient by zero is a free value (log entry 24). -/
def quotVal (a b : Val) : Val :=
  match a, b with
  | .nan, _ => .nan
  | _, .nan => .nan
  | .inf _, .inf _ => .nan
  | .inf n, .fin m _ _ => .inf (n != m)
  | .fin _ _ _, .inf _ => .fin false 0 0
  | .fin n p e, .fin m q f =>
    if q = 0 then let r := Config.quotientByZero (if n then -(p : Int) else p) e; .fin r.1 r.2.1 r.2.2
    else
      let s := 128 + log2 q
      let k := (p <<< s) / q
      let rest := (p <<< s) % q
      stageNear (n != m) (2 * k + (if rest = 0 then 0 else 1)) (e - f - s - 1)

/-- 1 − x. -/
def oneLess (x : Val) : Val := (Val.fin false 1 0).add x.neg

/-- New first moment, exact. -/
def momentOne (h : Hyper) (adamw : Bool) (m g : Val) : Val :=
  (h.b1.mul m).add (if adamw then (oneLess h.b1).mul g else g)

/-- New second moment, exact (AdamW). -/
def momentTwo (h : Hyper) (v g : Val) : Val := (h.b2.mul v).add ((oneLess h.b2).mul (g.mul g))

/-- New master, exact, from the stored moments. -/
def newMaster (h : Hyper) (adamw : Bool) (w m v : Val) : Val :=
  let d := if adamw then quotVal (m.mul h.c1) ((rootVal (v.mul h.c2)).add h.eps) else m
  w.add (h.eta.mul (d.add (h.lam.mul w))).neg

/-- The two runs of elements `lo` to `hi - 1` of an SB16 section of `n` elements, whole blocks of 32. -/
def sectionRuns (n lo hi a : Nat) : List (Nat × Nat) := [(wrap52 (a + 2 * lo), 2 * (hi - lo)), (wrap52 (a + 2 * n + lo / 32), (hi - lo) / 32)]

/-- The lines of block `b` of 4,096 elements among the lines of an SB16 section of `n` elements: mantissas, then exponents. -/
def sectionBlock (n b : Nat) (ls : List MixLine) : List MixLine :=
  ((ls.take (n / 32)).drop (128 * b)).take 128 ++ ((ls.drop (n / 32)).drop (2 * b)).take 2

/-- Blocks of 4,096 elements of an item of `n` elements (R387). -/
def blocksOf (n : Nat) : Nat := ceilDiv n 4096

/-- The block before which an item that stands at block `b` comes to its next stop point: the next one while the context is being stopped,
else the item's end (R387). -/
def Device.blockEnd (d : Device) (c : Context) (n b : Nat) : Nat := if d.stopping c then min (b + 1) (blocksOf n) else blocksOf n

/-- The lines of some streams of an item, block by block from `b` to the one before `b1`; `cut` takes a block's lines from a stream. -/
def blockLines {α : Type} (cut : Nat → List α → List α) (streams : List (List α)) (b b1 : Nat) : List α :=
  (List.range (b1 - b)).flatMap fun k => streams.flatMap (cut (b + k))

/-- The values of an SB16 section by position, from its mantissa and exponent bytes. -/
def sectionValues (n : Nat) (m x : List Byte) : Array Val :=
  let ma := m.toArray
  let xa := x.toArray
  ((List.range n).map fun p =>
    sb16Value ((ma.getD (2 * p) 0).toNat + 256 * (ma.getD (2 * p + 1) 0).toNat) (xa.getD (p / 32) 0).toNat).toArray

/-- An SB16 section as far as its lines can be read. -/
def Device.softSection (d : Device) (c : Context) (cd : Cd) (n a : Nat) : Array Val :=
  sectionValues n (d.softRead c cd a (2 * n)) (d.softRead c cd (wrap52 (a + 2 * n)) (n / 32))

/-- An SB16 section read: its values by position. -/
def Device.readSection (d : Device) (c : Context) (cd : Cd) (item a n : Nat) : Except Device (Array Val × Device) := do
  let (m, d) ← d.mixRead c cd item 0 a (2 * n)
  let (x, d) ← d.mixRead c cd item (2 * n / 64 * 64) (wrap52 (a + 2 * n)) (n / 32)
  return (sectionValues n m x, d)

/-- The runs of some sections at `as` that `len` bytes at offset `off` of a section of `n` elements are computed from: the blocks that the
bytes hold. -/
def sectionSrcs (n : Nat) (as : List Nat) (off len : Nat) : List (Nat × Nat) :=
  let b0 := if off < 2 * n then off / 64 else off - 2 * n
  let nb := min (if off < 2 * n then ceilDiv len 64 else len) (n / 32 - b0)
  as.flatMap fun a => [(wrap52 (a + 64 * b0), 64 * nb), (wrap52 (a + 2 * n + b0), nb)]

/-- Values rounded into an SB16 section, block by block: bytes with their padding, stored values, what was met (R40). -/
def sectionOf (rs : Nat → Rounding) (vs : List Val) : List Byte × Array Val × List (Option Meet) :=
  let r := narrowSb16' rs vs
  (r.1 ++ r.2.1 ++ zeros (ceilDiv r.2.1.length 64 * 64 - r.2.1.length), r.2.2.1.toArray, r.2.2.2)
where
  /-- SB16 blocks of 32 consecutive values: mantissa bytes, exponent bytes, values, what was met. -/
  narrowSb16' (rs : Nat → Rounding) (vs : List Val) : List Byte × List Byte × List Val × List (Option Meet) :=
    let blocks := (List.range (vs.length / 32)).map fun b =>
      sb16Block (((vs.drop (32 * b)).take 32).zipIdx.map fun (v, j) => (v, rs (32 * b + j)))
    (blocks.flatMap fun (_, ms) => ms.flatMap fun m => bytesLE 2 m.1,
     blocks.flatMap fun (e, _) => bytesLE 1 e,
     blocks.flatMap fun (e, ms) => ms.map fun m => sb16Value m.1 e,
     blocks.flatMap fun (_, ms) => ms.map (·.2))

/-- The exact sum of the squares of finite values. -/
def sumSquares (vs : List Val) : ExactSum := vs.foldl (fun s v => if v.finite then s.addSq v.dy else s) {}

/-! ### The commit log (R272) -/

/-- An append to the position's commit log: the entry's line is read and written whole, then the header (R175, R272). -/
def Device.logAppend (d : Device) (c : Context) (cd : Cd) (i t : Nat) (u : UItem) (skipped : Bool) : Except Device Device := do
  let (cl, d) ← d.mixCommit c cd i
  let base := wrap52 (lpddrOf cd.val + field cl 0x18 8 % 2 ^ 52)
  let (h, d) ← d.mixRead c cd i 0 base 64
  let count := if field h 4 4 = t then field h 0 4 else 0
  if 65536 ≤ count then Except.error (d.mixerErr c cd 7 i)
  else do
    let word := u.handle + (if skipped then 2 ^ 22 else 0) + u.policy * 2 ^ 23
    let a := wrap52 (base + 64 + 16 * count)
    let (l, d) ← d.mixRead c cd i 0 (lineOf a) 64
    let d1 ← d.mixWrite c cd i 0 (lineOf a) (splice l (a % 64) (bytesLE 4 word ++ zeros 12))
    d1.mixWrite c cd i 0 base (bytesLE 4 (count + 1) ++ bytesLE 4 t ++ zeros 56)

/-! ### UPDATE in modes SGD and AdamW (R267, R268) -/

/-- UPDATE_ITEM and MASTERS_STATE: the error code and detail of an item that R278 refuses. -/
def Device.itemFault (d : Device) (c : Context) (cd : Cd) (mode i : Nat) (u : UItem) (h : Masters) : Option (Nat × Nat) :=
  let item := fun (off : Nat) => some (3, i % 65536 + off * 65536)
  if mode < 2 ∧ !inOwnSram cd u.grad then item 0x20
  else if mode < 2 ∧ !inOwnSram cd u.ovf then item 0x28
  else if mode ≠ 2 ∧ (!gvOk h.gv 1 ∨ (mode < 2 ∧ h.opt ≠ mode)) then some (4, i % 65536)
  else match d.bodyItem c u.handle u.item with
    | none => item 4
    | some (_, b) =>
      if mode ≠ 2 ∧ h.nitems ≤ u.item then item 4
      else if b.rank ≠ u.r then item 6
      else if b.din ≠ u.din then item 0x18
      else if b.dout ≠ u.dout then item 0x1A
      else if u.bank * 64 < u.off * 64 + 3 * u.section' then item 0x10
      else none

/-- The rounding of a section: draws by the element index with a tensor identifier (R265, R268). -/
def UItem.rounding (u : UItem) (seed : BitVec 64) (t mode tid : Nat) (p : Nat) : Rounding :=
  (roundingOf mode (srDraw seed t tid (u.index p))).getD .nearestEven

/-- The unscaled gradient of an item by position: G × f × 2^(−κ) (R264, R268). -/
def UItem.gradient (u : UItem) (g : Array Val) (k : Nat) : List Val :=
  (List.range u.n).map fun p =>
    ((g.getD p (.fin false 0 0)).mul (if p < u.r * u.din then u.gsa else u.gsb)).scale (-(k : Int))

/-- Blocks of one item computed into the inactive bank from block `b` on, up to the next stop point (R268, R387), line by line in the order
masters, first moments, second moments of each block (R194, R196; log entry 67), with their sums handed to the Scales (R271): the device, and
the blocks done when some are left. Their conversions are tallied when they are written: blocks that a fault stops count none (DESIGN CHOICE,
log entry 74). -/
def Device.updateBank (d : Device) (c : Context) (cd : Cd) (mode rmode i t kappa b : Nat) (hy : Hyper) (u : UItem) (h : Masters) :
    Except Device (Device × Option Nat) :=
  let adamw := mode == 1
  let act := h.active t
  let soft := d.softSection c cd u.n
  let w := soft (u.at' act 0)
  let m := soft (u.at' act 1)
  let v := if adamw then soft (u.at' act 2) else #[]
  let graw := soft u.grad
  let zero : Val := .fin false 0 0
  let gs := u.gradient graw kappa
  let ga := gs.toArray
  let mm := bits rmode 5 4
  let (mb, m1, me) := sectionOf (u.rounding c.seed t mm (u.tid + 1)) ((List.range u.n).map fun p => momentOne hy adamw (m.getD p zero) (ga.getD p zero))
  let (vb, v1, ve) := if adamw then
      sectionOf (u.rounding c.seed t mm (u.tid + 2)) ((List.range u.n).map fun p => momentTwo hy (v.getD p zero) (ga.getD p zero))
    else ([], #[], [])
  let (wb, w1, we) := sectionOf (u.rounding c.seed t (bits rmode 3 2) u.tid)
    ((List.range u.n).map fun p => newMaster hy adamw (w.getD p zero) (m1.getD p zero) (v1.getD p zero))
  let bank := 1 - act
  let ms := [u.at' act 1, u.grad]
  let vs := if adamw then [u.at' act 2, u.grad] else []
  let srcs := sectionSrcs u.n
  let streams := [mixLines (u.at' bank 0) wb (srcs (u.at' act 0 :: ms ++ vs)), mixLines (u.at' bank 1) mb (srcs ms), mixLines (u.at' bank 2) vb (srcs vs)]
  let b1 := d.blockEnd c u.n b
  let lo := 4096 * b
  let hi := min u.n (4096 * b1)
  let part := fun {α : Type} (l : List α) => (l.take hi).drop lo
  let us := (List.range u.n).map fun p => (w1.getD p zero).add (w.getD p zero).neg
  let item := d.bodyItem c u.handle u.item
  let moved := d.mixMove c cd i ((u.at' act 0 :: ms ++ vs.take 1).flatMap (sectionRuns u.n lo hi)) (blockLines (sectionBlock u.n) streams b b1)
    (blockLines (sectionBlock u.n) streams 0 b).length
  moved.map fun d3 =>
    let d4 := (d3.mixNote cd (part me ++ part ve ++ part we)).normItem c cd (u.handle + u.policy * 2 ^ 22) ((item.map (·.2.layer)).getD 0)
      ((item.map (·.2.target)).getD 0) false ((part gs).any fun g => !g.finite) (sumSquares (part w1.toList)) (sumSquares (part gs))
      (sumSquares (part us))
    (d4, if b1 < blocksOf u.n then some b1 else none)

/-- A skipped item: its gradient is read for the Scales alone (R271, R282). -/
def Device.skipNorm (d : Device) (c : Context) (cd : Cd) (i kappa : Nat) (u : UItem) : Except Device Device := do
  match d.dies[cd].sieve.area with
  | none => return d
  | some _ =>
    let (g, d) ← d.readSection c cd i u.grad u.n
    let gs := u.gradient g kappa
    let b := d.bodyItem c u.handle u.item
    return d.normItem c cd (u.handle + u.policy * 2 ^ 22) ((b.map (·.2.layer)).getD 0) ((b.map (·.2.target)).getD 0) true
      (gs.any fun g => !g.finite) {} (sumSquares gs) {}

/-- A handle marked as met in this attempt. -/
def Device.touch (d : Device) (cd : Cd) (h : Nat) : Device :=
  d.modDie cd fun x => { x with touched := if x.touched.contains h then x.touched else x.touched ++ [h] }

/-- The header of an adapter as the first item of step `t` leaves it before its count, and that of a later item (R267). -/
def Masters.begun (h : Masters) (first : Bool) (t : Nat) : Masters :=
  let stale := !(h.lvalid && h.lstep == t)
  let h1 := if first && stale && h.pvalid && decide (h.pstep < t) then { h with base := h.pbank, pvalid := false } else h
  if first then { h1 with pstep := t, pbank := 1 - h1.active t, pvalid := true, count := 0, lstep := t, lvalid := true, lskip := false } else h1

/-- The header that the skipped first item of step `t` writes (R267). -/
def Masters.skipped (h : Masters) (t : Nat) : Masters :=
  let stale := !(h.lvalid && h.lstep == t)
  let h1 := if stale && h.pvalid && decide (h.pstep < t) then { h with base := h.pbank, pvalid := false } else h
  { h1 with lstep := t, lvalid := true, lskip := true }

/-- One item of an UPDATE in mode SGD or AdamW from block `b` on: the device, whether it appended a skipped log entry, and the blocks done
when it stands at a stop point (R267, R387). The masters header is written once, after every section line of the item, and not before the
append that LOG_FULL may refuse (R278); then its handle has been met. -/
def Device.updateItem (d : Device) (c : Context) (cd : Cd) (mode rmode t i b : Nat) (hy : Hyper) (u : UItem) :
    Except Device (Device × Nat × Option Nat) := do
  let (hb, d) ← d.mixRead c cd i 0 u.mst 64
  let h := mastersOf hb
  let d ← d.mixBody c cd i u.handle u.item
  match d.itemFault c cd mode i u h with
  | some (code, det) => Except.error (d.mixerErr c cd code det)
  | none =>
    let kappa := if u.policy = 1 then d.dies[cd].mixerK.toNat else 0
    let first := !(d.dies[cd].touched.contains u.handle)
    let (ov, d) ← if b = 0 then d.mixRead c cd i 0 u.ovf 2 else pure (zeros 2, d)
    if !(bf16At ov 0).isZero then
      if first then do
        let d1 ← d.logAppend c cd i t u true
        let d2 ← d1.mixWrite c cd i 0 u.mst (h.skipped t).encode
        let d3 ← (d2.touch cd u.handle).skipNorm c cd i kappa u
        return (d3, 1, none)
      else do
        let d1 ← d.skipNorm c cd i kappa u
        return (d1, 0, none)
    else do
      let h2 := h.begun first t
      let d2 ← if first && b == 0 then d.logAppend c cd i t u false else pure d
      let (d3, left) ← d2.updateBank c cd mode rmode i t kappa b hy u h2
      if left.isSome then return (d3, 0, left)
      else do
        let d4 ← d3.mixWrite c cd i 0 u.mst ({ h2 with count := h2.count + 1 }).encode
        return (d4.touch cd u.handle, 0, none)

/-- Items of an UPDATE. -/
def Die.updateCount (x : Die) (e : QEntry) : Nat := if cwImsel e.w = 0 then x.recField e 4 4 else e.imm.toNat

/-- Address of update item `i`: g[ga] is added to the list's DPA. -/
def Die.itemAddr (x : Die) (e : QEntry) (i : Nat) : Nat := wrap52 (x.recAddr e 8 + 64 * i)

/-- UPDATE in mode 0 or 1. -/
def updateEngine (cd : Cd) (mode : Nat) (d : Device) (c : Context) (e : QEntry) : Engine :=
  let x := d.dies[cd]
  let rmode := x.recField e 1 1
  if bits rmode 1 0 ≠ mode ∨ !d.mixServed c cd [lpddrOf cd.val] then .wait
  else
    match d.mixRead c cd 0 0 (wrap52 (x.recField e 0x10 8 % 2 ^ 52 + e.gb.toNat)) 64 with
    | .error d1 => .stopped d1
    | .ok (hb, d) =>
      let hy := hyperOf hb
      if hy.k ≠ x.mixerK.toNat then .stopped (d.mixerErr c cd 5 (hy.k + x.mixerK.toNat * 256))
      else match hy.fault (mode == 1) with
        | some off => .stopped (d.mixerErr c cd 6 off)
        | none => d.mixItemsRun c e (x.updateCount e) id fun d i b => do
            let (ib, d) ← d.mixRead c cd i 0 (x.itemAddr e i) 64
            d.updateItem c cd mode rmode (d.stepNo c) i b hy (uitemOf ib)

/-- UPDATE_SGD. -/
def execUpdateSgd (cd : Cd) (s : State) : Host.Outcome State Fault Refusal :=
  .next { s with dev := s.dev.startHead cd 9 2 (updateEngine cd 0) }

/-- UPDATE_ADAMW. -/
def execUpdateAdamw (cd : Cd) (s : State) : Host.Outcome State Fault Refusal :=
  .next { s with dev := s.dev.startHead cd 9 2 (updateEngine cd 1) }

/-! ### INIT and REFRESH (R270) -/

/-- Linear element of element (k, j) of an A part stored in column groups, with `ext` K rows (R230). -/
def aLinear (r ext k j : Nat) : Nat := j / 128 * 128 * ext + k * groupWidth r (j / 128) + j % 128

/-- Element (k, j) at a linear place of an A part. -/
def aCoord (r ext q : Nat) : Nat × Nat :=
  let g := q / (128 * ext)
  let w := groupWidth r g
  let rem := q % (128 * ext)
  if w = 0 then (0, 0) else (rem / w, 128 * g + rem % w)

/-- Address of the B blocks of an item whose first block is at `a`. -/
def bodyB (a : Nat) (b : BodyItem) : Nat := wrap52 (a + 64 * (b.bOff - b.aOff))

/-- INIT of one item from block `b` on: body blocks into bank 0, moments zeroed; at the end of the last item the header, with `opt` from the
record's mode field (log entry 68). The body is read again by an item that goes on from a stop point (R387). -/
def Device.initItem (d : Device) (c : Context) (cd : Cd) (opt i b : Nat) (last : Bool) (u : UItem) : Except Device (Device × Nat × Option Nat) := do
  match d.itemFault c cd 2 i u (mastersOf []) with
  | some (code, det) => Except.error (d.mixerErr c cd code det)
  | none =>
    let body := d.bodyItem c u.handle u.item
    let item := (body.map (·.2)).getD (bodyItemOf [])
    let na := u.r * u.din
    let bAt := bodyB u.grad item
    let aa := (d.softRead c cd u.grad (2 * na)).toArray
    let ba := (d.softRead c cd bAt (2 * u.r * u.dout)).toArray
    let place := fun (p : Nat) => aLinear u.r u.din (p / (u.r * 128) * 128 + p % 128) (p % (u.r * 128) / 128)
    let code := fun (x : Array Byte) (q : Nat) => fBf16.decode ((x.getD (2 * q) 0).toNat + 256 * (x.getD (2 * q + 1) 0).toNat)
    let vals := (List.range u.n).map fun p =>
      if p < na then code aa (place p) else code ba (p - na)
    let (wb, _, we) := sectionOf (fun _ => .nearestEven) vals
    let elem := fun (p : Nat) => if p < na then (wrap52 (u.grad + 2 * place p), 2) else (wrap52 (bAt + 2 * (p - na)), 2)
    let srcs := fun (off len : Nat) =>
      let b0 := if off < 2 * u.n then off / 64 else off - 2 * u.n
      (List.range (if off < 2 * u.n then 32 else 32 * min len (u.n / 32 - b0))).map fun k => elem (32 * b0 + k)
    let blank := fun (j : Nat) => mixLines (u.at' 0 j) (zeros u.section') fun _ _ => []
    let streams := [mixLines (u.at' 0 0) wb srcs, blank 1, blank 2]
    let b1 := d.blockEnd c u.n b
    let d3 ← d.mixMove c cd i [(u.grad, 2 * na), (bAt, 2 * u.r * u.dout)] (blockLines (sectionBlock u.n) streams b b1)
      (blockLines (sectionBlock u.n) streams 0 b).length
    let d5 := d3.mixNote cd ((we.take (4096 * b1)).drop (4096 * b))
    if b1 < blocksOf u.n then return (d5, 0, some b1)
    else if last then do
      let h : Masters := { gv := 5, opt := opt, nitems := (body.map (·.1)).getD (u.item + 1), base := 0, lstep := 0,
                           lvalid := false, lskip := false, pstep := 0, pvalid := false, pbank := 0, count := 0 }
      let d6 ← d5.mixWrite c cd i 0 u.mst h.encode
      return (d6, 0, none)
    else return (d5, 0, none)

/-- REFRESH of one item from block `b` on: body blocks and backward-copy blocks from the active bank. A block of the item is 128 lines of the
body, in the order A, B, and the same lines of the copy, in the order Bᵀ, Aᵀ (R387). -/
def Device.refreshItem (d : Device) (c : Context) (cd : Cd) (t i b : Nat) (u : UItem) : Except Device (Device × Nat × Option Nat) := do
  let (hb, d) ← d.mixRead c cd i 0 u.mst 64
  let h := mastersOf hb
  let d ← d.mixBody c cd i u.handle u.item
  match d.itemFault c cd 3 i u h with
  | some (code, det) => Except.error (d.mixerErr c cd code det)
  | none =>
    let item := ((d.bodyItem c u.handle u.item).map (·.2)).getD (bodyItemOf [])
    let sec := u.at' (h.active t) 0
    let w := d.softSection c cd u.n sec
    let na := u.r * u.din
    let nb := u.r * u.dout
    let out := ((List.range u.n).map fun p => fBf16.encode .nearestEven (w.getD p (.fin false 0 0))).toArray
    let bytes := fun (ps : List Nat) => ps.flatMap fun p => bytesLE 2 (out.getD p (0, none)).1
    let aPart := (List.range na).map fun q => let k := aCoord u.r u.din q; k.1 / 128 * (u.r * 128) + k.2 * 128 + k.1 % 128
    let bPart := (List.range nb).map fun q => na + q
    let btPart := (List.range nb).map fun q => let k := aCoord u.r u.dout q; na + k.1 / 128 * (u.r * 128) + k.2 * 128 + k.1 % 128
    let atPart := List.range na
    let part := fun (a : Nat) (ps : List Nat) => mixLines a (bytes ps) fun off len =>
      ((ps.drop (off / 2)).take (len / 2)).flatMap fun p => [(wrap52 (sec + 2 * p), 2), (wrap52 (sec + 2 * u.n + p / 32), 1)]
    let streams := [part u.grad aPart ++ part (bodyB u.grad item) bPart, part u.ovf btPart ++ part (wrap52 (u.ovf + 2 * nb)) atPart]
    let cut := fun b (ls : List MixLine) => (ls.drop (128 * b)).take 128
    let b1 := d.blockEnd c u.n b
    let d4 ← d.mixMove c cd i (sectionRuns u.n 0 u.n sec) (blockLines cut streams b b1) (blockLines cut streams 0 b).length
    return (d4.mixNote cd (((out.toList.map (·.2)).take (4096 * b1)).drop (4096 * b)), 0, if b1 < blocksOf u.n then some b1 else none)

/-- UPDATE in mode INIT. -/
def initEngine (cd : Cd) (d : Device) (c : Context) (e : QEntry) : Engine :=
  let x := d.dies[cd]
  if bits (x.recField e 1 1) 1 0 ≠ 2 ∨ !d.mixServed c cd [lpddrOf cd.val] then .wait
  else
    d.mixItemsRun c e (x.updateCount e) id fun d i b => do
      let (ib, d) ← d.mixRead c cd i 0 (x.itemAddr e i) 64
      let u := uitemOf ib
      let d ← d.mixBody c cd i u.handle u.item
      let total := (d.bodyItem c u.handle u.item).map (·.1)
      d.initItem c cd (bits (x.recField e 1 1) 1 0) i b (total == some (u.item + 1)) u

/-- UPDATE in mode REFRESH. -/
def refreshEngine (cd : Cd) (d : Device) (c : Context) (e : QEntry) : Engine :=
  let x := d.dies[cd]
  if bits (x.recField e 1 1) 1 0 ≠ 3 ∨ !d.mixServed c cd [lpddrOf cd.val] then .wait
  else
    d.mixItemsRun c e (x.updateCount e) id fun d i b => do
      let (ib, d) ← d.mixRead c cd i 0 (x.itemAddr e i) 64
      d.refreshItem c cd (d.stepNo c) i b (uitemOf ib)

/-- UPDATE_INIT. -/
def execUpdateInit (cd : Cd) (s : State) : Host.Outcome State Fault Refusal :=
  .next { s with dev := s.dev.startHead cd 9 2 (initEngine cd) }

/-- UPDATE_REFRESH. -/
def execUpdateRefresh (cd : Cd) (s : State) : Host.Outcome State Fault Refusal :=
  .next { s with dev := s.dev.startHead cd 9 2 (refreshEngine cd) }

end Sys2Proof.Machine
end

