-- ==== Sys2Proof/Machine/Routes.lean ====
section
/-! DEFINITION. FABRIC_ROUTE: the route table of a context (R344, R352, R355). -/

namespace Sys2Proof.Machine

/-- The route entries of a table. -/
def routesOf (bs : List Byte) (n : Nat) : List (Nat × Nat × Nat) :=
  (List.range n).map fun i => (field bs (8 * i) 2, field bs (8 * i + 2) 1, field bs (8 * i + 4) 4)

/-- Module ranks next to this one in the tree above level c (R302). -/
def Context.treePeers (c : Context) : List Nat :=
  match c.reduce with
  | none => []
  | some r =>
    if r.modules ≤ 1 then []
    else
      let n := c.fdNode r
      (n.parent.toList) ++ (List.range (n.top + 1)).filterMap n.child

/-- Two entries name one peer. -/
def peersRepeat : List (Nat × Nat × Nat) → Bool
  | [] => false
  | r :: t => (t.any fun o => o.1 == r.1) || peersRepeat t

/-- The code of a route table that is refused, 0 for one that is bound (R344, R371). -/
def Context.routeCode (c : Context) (rs : List (Nat × Nat × Nat)) : Nat :=
  if rs.any fun r => decide (16 ≤ r.2.1) || !c.portMask.getLsbD r.2.1 then 0x40
  else if peersRepeat rs || (c.treePeers.any fun p => rs.all fun r => r.1 != p) then 0x42
  else 0

/-- The route table of a context replaced: its closed classes open, and it is no longer gone (R352, R355). -/
def Device.bindRoutes (d : Device) (c : Context) (rs : List (Nat × Nat × Nat)) : Device :=
  let d1 := d.modCtx c.slot fun c => { c with
    routes := rs.map fun r => { peer := BitVec.ofNat 16 r.1, port := idx 16 r.2.1, job := BitVec.ofNat 32 r.2.2 } }
  { d1 with
    gone := d1.gone.filter fun g => g.tag != c.tag
    ports := each (fun _ p => { p with closed := p.closed.filter fun x => x.1 != c.tag }) d1.ports }

/-- FABRIC_ROUTE at the head of its ring. -/
def Device.fabricRoute (d : Device) (c : Context) (t : Taken) : Device :=
  let n := field t.entry 0x10 1
  let id := RingId.ctx c.slot
  if 16 < n then d.answer id t 0xE4
  else
    match (if n = 0 then .ok [] else d.hdRead c (entDpa t.entry 8) (8 * n)) with
    | .error r => d.answerFault c t r []
    | .ok bs =>
      let rs := routesOf bs n
      let code := c.routeCode rs
      if code ≠ 0 then d.answer id t code else (d.bindRoutes c rs).answer id t 0

/-- FABRIC_ROUTE. -/
def execFabricRoute (slot : CtxSlot) (s : State) : Host.Outcome State Fault Refusal :=
  .next { s with dev := s.dev.descriptor slot 0x28 { run := .refused 0x41 } Device.fabricRoute }

end Sys2Proof.Machine
end

