-- ==== Sys2Proof/Machine/Scales.lean ====
section
/-! DEFINITION. Scales and Sieve: TAP in its three modes, REPORT and the comparison of a sample (R280 to R299). -/

namespace Sys2Proof.Machine

/-- An error of class 0x0A stops the command (R299). -/
def Device.scalesErr (d : Device) (c : Context) (cd : Cd) (code detail : Nat) : Device :=
  d.fault c (d.err (scalesIsland cd) 10 code c.tag none detail)

/-! ### TAP (R280) -/

/-- Mode of a tap record. -/
def Die.tapMode (x : Die) (e : QEntry) : Nat := bits (x.recField e 1 1) 1 0

/-- The MAs that a tap record names. -/
def Die.tapMas (x : Die) (e : QEntry) : List MaNo := (List.finRange 4).filter fun i => bits (x.recField e 2 1) i.val i.val == 1

/-- TAP of mode NORM: it binds the norm area (R285). -/
def tapNormEngine (cd : Cd) (d : Device) (c : Context) (e : QEntry) : Engine :=
  let x := d.dies[cd]
  let area := x.recAddr e 0x10
  let cap := x.recField e 8 4
  if x.tapMode e ≠ 0 then .wait
  else if !(inOwnSram cd area) ∨ sramOf cd.val + 0x80000000 < area + 64 + 48 * cap then .stopped (d.scalesErr c cd 1 area)
  else .ran (d.modDie cd fun x => { x with sieve := { x.sieve with
      area := some (BitVec.ofNat 52 area, BitVec.ofNat 32 cap, BitVec.ofNat 32 (e.gb.toNat % 2 ^ 32)) } }) [] true

/-- TAP of mode SCALES: it arms the MAs of its mask for their next readouts (R288). -/
def tapScalesEngine (cd : Cd) (d : Device) (_ : Context) (e : QEntry) : Engine :=
  let x := d.dies[cd]
  if x.tapMode e ≠ 1 then .wait
  else
    let acc : Fin 64 := idx 64 (x.recField e 3 1)
    let n := x.recField e 8 4
    .ran (d.modDie cd fun x => (x.tapMas e).foldl (fun x i => x.modMa i fun m => { m with tapLeft := n, tapAcc := acc }) x) [] true

/-- The arming that a SIEVE TAP gives MA `i` (R289). -/
def Die.sieveArm (x : Die) (e : QEntry) (i : MaNo) : SieveArm :=
  let nlog := x.recField e 4 1
  { nlog := nlog, phase := (x.recField e 8 4 + i.val * pow2 nlog / 4) % pow2 nlog, bin := x.recField e 5 1, cnt := x.recField e 6 2,
    area := BitVec.ofNat 52 (x.recAddr e 0x10), wstride := BitVec.ofNat 32 (x.recField e 0x18 4), counter := 0 }

/-- TAP of mode SIEVE: it arms every MA of its mask (R289). -/
def tapSieveEngine (cd : Cd) (d : Device) (_ : Context) (e : QEntry) : Engine :=
  let x := d.dies[cd]
  if x.tapMode e ≠ 2 then .wait
  else .ran (d.modDie cd fun x => { x with sieve := { x.sieve with
      arms := (x.tapMas e).foldl (fun v (i : MaNo) => v.set i (some (x.sieveArm e i))) x.sieve.arms } }) [] true

/-- TAP_NORM. -/
def execTapNorm (cd : Cd) (s : State) : Host.Outcome State Fault Refusal :=
  .next { s with dev := s.dev.startHead cd 11 1 (tapNormEngine cd) }

/-- TAP_SCALES. -/
def execTapScales (cd : Cd) (s : State) : Host.Outcome State Fault Refusal :=
  .next { s with dev := s.dev.startHead cd 11 1 (tapScalesEngine cd) }

/-- TAP_SIEVE. -/
def execTapSieve (cd : Cd) (s : State) : Host.Outcome State Fault Refusal :=
  .next { s with dev := s.dev.startHead cd 11 1 (tapSieveEngine cd) }

/-! ### REPORT (R281, R297) -/

/-- The telemetry record. -/
def Sieve.record (v : Sieve) (cd : Nat) (tag : BitVec 16) (step : Nat) : List Byte :=
  let n := fun (c : Counter) => bytesLE 4 c.count.toNat
  let o := fun (b : Bool) (k : Nat) => if b then pow2 k else 0
  let binOvf := (v.bins.toList.zipIdx.map fun (c, i) => o c.ovf i).sum
  let ovf := binOvf + o v.samples.ovf 16 + o v.oversize.ovf 17 + o v.crossings.ovf 18 + o v.wovTiles.ovf 19 + o v.uwTotalOvf 20
    + o v.wovElems.ovf 21 + o v.uwSat.ovf 22
  bytesLE 1 5 ++ bytesLE 1 cd ++ bytesLE 2 tag.toNat ++ bytesLE 4 step ++ v.bins.toList.flatMap n ++ n v.samples ++ n v.oversize
    ++ n v.crossings ++ n v.wovTiles ++ bytesLE 8 v.uwTotal.toNat ++ n v.wovElems ++ n v.uwSat ++ bytesLE 4 ovf
    ++ bytesLE 1 (if v.raised then 1 else 0) ++ zeros 19
    ++ v.taps.toList.flatMap fun a =>
        a.sum.mant ++ a.sum.expo ++ bytesLE 1 ((if a.nonfinite then 1 else 0) + (if a.count.ovf then 2 else 0)) ++ zeros 1
          ++ bytesLE 4 a.count.count.toNat

/-- The Sieve's counters and the tap accumulators cleared (R297). -/
def Sieve.cleared (v : Sieve) : Sieve :=
  { area := v.area, group := v.group, arms := v.arms, sample := v.sample, raised := v.raised }

/-- REPORT: it waits for the sample in progress, then writes the record (R281). -/
def reportEngine (cd : Cd) (d : Device) (c : Context) (e : QEntry) : Engine :=
  let x := d.dies[cd]
  let dst := x.recAddr e 8
  if x.sieve.sample.isSome then .wait
  else if !(inOwnSram cd dst) ∨ sramOf cd.val + 0x80000000 < dst + 1152 then .stopped (d.scalesErr c cd 3 dst)
  else match d.putBytes c cd .telemetry dst (x.sieve.record cd.val c.tag (d.stepNo c)) with
    | (d1, some (er, l, done)) => .stopped (d1.memFault c (scalesIsland cd) er l done true 0 0)
    | (d1, none) =>
      let raised := x.sieve.raised
      .ran (d1.modDie cd fun x =>
        let v := if bits (x.recField e 1 1) 0 0 = 1 then x.sieve.cleared else x.sieve
        { x with sieve := { v with raised := false } }) (e.sOf (if raised then 1 else 0)) true

/-- REPORT. -/
def execReport (cd : Cd) (s : State) : Host.Outcome State Fault Refusal :=
  .next { s with dev := s.dev.startHead cd 11 2 (reportEngine cd) }

/-! ### The comparison (R292 to R294) -/

/-- The exact dot product of element (i, j) over the captured chunks. -/
def Sample.dot (s : Sample) (i j : Nat) : Val :=
  s.chunks.foldl (fun acc c =>
    let row := c.wide.getD i []
    let sta := c.tile.values ((fmtOf c.staFmt).getD .q4) c.k
    (List.range c.k).foldl (fun acc k =>
      acc.add (((if c.fp16 then fFp16 else fBf16).decode (row.getD k 0).toNat).mul (sta.getD (k * 128 + j) (.fin false 0 0)))) acc)
    (.fin false 0 0)

/-- Disagreement bin of a narrowed and a wide value (R293). -/
def disagreeBin (yn yw : Val) : Nat :=
  match yn, yw with
  | .nan, .nan => 0
  | .inf a, .inf b => if a = b then 0 else 15
  | .fin _ _ _, .fin _ m _ =>
    if m = 0 then (if yn.isZero then 0 else 15)
    else
      let diff := (yn.dy.sub yw.dy).abs
      let w := yw.dy.abs
      if diff.m = 0 then 0
      else match (List.range 14).find? fun (i : Nat) => diff.lt ⟨w.m, w.e + (i : Int) - 14⟩ with | some i => i + 1 | none => 15
  | _, _ => 15

/-- Bins of every element of a sampled tile, row-major. -/
def Sample.binList (s : Sample) (p : OutParams) (ys : List Val) : List Nat :=
  (List.range (s.rows * 128)).map fun n => disagreeBin (ys.getD n .nan) (p.stageOf (s.dot (n / 128) (n % 128)) false (n / 128) (n % 128))

/-- The payload of SIEVE_THRESHOLD (R294). -/
def sievePayload (cd : Nat) (tag : BitVec 16) (s : Sample) (overCount : Nat) (cycle : BitVec 64) : List Byte :=
  bytesLE 1 5 ++ bytesLE 1 cd ++ bytesLE 2 tag.toNat ++ bytesLE 1 s.ma.val ++ bytesLE 1 s.arm.bin ++ bytesLE 2 overCount
    ++ bytesLE 4 s.tileId.toNat ++ bytesLE 4 s.j ++ bytesLE 8 cycle.toNat ++ zeros 8

/-- The comparison of a sample whose readout is written. -/
def Device.sieveCompare (d : Device) (cd : Cd) : Device :=
  match d.residentOf cd with
  | none => d
  | some c =>
    let v := d.dies[cd].sieve
    if d.dies[cd].frozen || d.enginesHeld c then d
    else match v.sample with
      | none => d
      | some s =>
        match s.readout with
        | none => d
        | some (p, ys) =>
          let bl := s.binList p ys
          let n := (bl.filter fun b => decide (s.arm.bin ≤ b)).length
          let crossed := decide (s.arm.cnt ≤ n)
          let tell := crossed && !v.raised
          let v1 := { v with
            sample := none
            samples := v.samples.add 1
            bins := each (fun i (c : Counter) => c.add (bl.filter (· == i.val)).length) v.bins
            crossings := v.crossings.add (if crossed then 1 else 0)
            raised := v.raised || crossed }
          let d1 := d.modDie cd fun x => { x with sieve := v1 }
          if tell then d1.event (.ctx c.slot) 0x82 (sievePayload cd.val c.tag s n (d1.cycle (cdIsland cd 8 0))) else d1

/-- SIEVE_COMPARISON. -/
def execSieveComparison (cd : Cd) (s : State) : Host.Outcome State Fault Refusal :=
  .next { s with dev := s.dev.sieveCompare cd }

end Sys2Proof.Machine
end

