-- ==== Sys2Proof/Machine/Sideband.lean ====
section
/-! DEFINITION. The I3C sideband: dynamic addresses and in-band interrupts (R465, R467). -/

namespace Sys2Proof.Machine

/-- The static address. -/
def i3cStatic : BitVec 7 := 0x3A

/-- The target serves from the end of stage 0x1 until the rails turn off. -/
def Device.onI3c (d : Device) (f : I3c → I3c) : Device := if d.pd.pwrGood then { d with i3c := f d.i3c } else d

/-- A dynamic address assigned to a target that has none. -/
def I3c.assign (i : I3c) (a : BitVec 7) : I3c := if i.dynamic.isNone then { i with dynamic := some a } else i

/-- SETDASA: by the static address. -/
def execSetdasa (static dynamic : BitVec 7) (s : State) : Host.Outcome State Fault Refusal :=
  .next { s with dev := s.dev.onI3c fun i => if static = i3cStatic then i.assign dynamic else i }

/-- The provisional ID: the low 32 bits of the module's identity digest in the vendor-defined bits (R337, R465; log entry 81). -/
def provisionalId : BitVec 48 := Config.i3cMaker ++ (keyDigest identityPub).setWidth 32

/-- A target without a dynamic address gives its provisional ID and takes the address assigned; one that has an address does not answer. -/
def I3c.enter (i : I3c) (a : BitVec 7) : I3c :=
  if i.dynamic.isNone then { i with dynamic := some a, pid := some provisionalId } else i

/-- ENTDAA: by the provisional ID, with one target on the bus. -/
def execEntdaa (dynamic : BitVec 7) (s : State) : Host.Outcome State Fault Refusal :=
  .next { s with dev := s.dev.onI3c fun i => i.enter dynamic }

/-- RSTDAA. -/
def execRstdaa (s : State) : Host.Outcome State Fault Refusal := .next { s with dev := s.dev.onI3c fun i => { i with dynamic := none } }

/-- ENEC: in-band interrupts are enabled, and a cause that waits is raised. -/
def execEnec (s : State) : Host.Outcome State Fault Refusal :=
  .next { s with dev := s.dev.onI3c fun i => ({ i with ibiOn := true } : I3c).raise }

/-- IBI: the pending interrupt is accepted, and the next cause is raised in code order. -/
def execIbi (s : State) : Host.Outcome State Fault Refusal :=
  .next { s with dev := s.dev.onI3c fun i => ({ i with pending := none } : I3c).raise }

end Sys2Proof.Machine
end

