-- ==== Sys2Proof/Machine/Startup.lean ====
section
/-! DEFINITION. Start-up: firmware, the set-up image, memory, Course and Yalken bring-up, ready, and MODULE_RESET (R395 to R401, R425,
R456 to R462, R338, R199). -/

namespace Sys2Proof.Machine

/-! ### Firmware (R396 to R399) -/

/-- The slot that ROM boots: the valid image of higher sequence, slot A of two equal ones (R398). -/
def Device.bootSlot (d : Device) : Option Nat :=
  match d.fwCheck 0, d.fwCheck 1 with
  | none, none => some (if field (d.fwHeader 0) 0xC 4 < field (d.fwHeader 1) 0xC 4 then 1 else 0)
  | none, some _ => some 0
  | some _, none => some 1
  | some _, some _ => none

/-- FW_SLOT of a slot whose image fails (R397, R418). -/
def Device.fwRecord (d : Device) (slot : Nat) : Device :=
  match d.fwCheck slot with
  | some k => d.boatRecord 1 (slot + k * 256)
  | none => d

/-- A start-up stage fails: the code, its argument and the interrupt (R456, R467). -/
def Device.startFail (d : Device) (code : BitVec 3) (arg : BitVec 8) : Device :=
  ({ d with start := { d.start with fail := code, failArg := arg } } : Device).cause 2

/-- The domain 0 key and the boot identifier drawn (R401). -/
def Device.drawBoot (d : Device) : Device :=
  let (r, d1) := d.drawRandom
  let no := d1.boat.keysDrawn + 1
  { d1 with boat := { d1.boat with
      bootId := r.truncate 128, keysDrawn := no, keyDomain := setKey d1.boat.keyDomain no 0, domains := each (fun i x => if i = 0 then { x with key := no } else x) d1.boat.domains } }

/-- The fused svn after a boot of `slot` (R399). -/
def Device.newSvn (d : Device) (slot : Nat) : Nat :=
  let svn := field (d.fwHeader slot) 8 2
  if (d.fwCheck (1 - slot)).isNone ∧ svn ≤ field (d.fwHeader (1 - slot)) 8 2 then max d.boat.fuseSvn (min 64 svn) else d.boat.fuseSvn

/-- The certificate area is read: CERT_AREA with the length read when that is too large, or when the area cannot be read. Whether it can be
read, and the length that an unreadable area gives, are free values (R395, R418; DESIGN CHOICE, log entry 69). -/
def Device.certArea (d : Device) : Device :=
  let (v, d1) := d.draw
  let bad := v.getLsbD 63
  let d2 : Device := { d1 with boat := { d1.boat with certBad := bad } }
  if bad then d2.boatRecord 4 (v.truncate 32).toNat
  else if 65532 < d2.chainRead then d2.boatRecord 4 d2.chainRead
  else d2

/-- A slot booted: keys are drawn and stage 0x3 begins. -/
def Device.bootFrom (d : Device) (slot : Nat) : Device :=
  let d1 := d.drawBoot
  let d2 := { d1 with
    boat := { d1.boat with booted := d.fwHeader slot, fuseSvn := d.newSvn slot }
    start := { d1.start with slot := slot == 1, stage := 3 } }
  d2.certArea

/-- Stage 0x2 with a random source that works. -/
def Device.firmware (d : Device) : Device :=
  let d1 := (d.fwRecord 0).fwRecord 1
  match d.bootSlot with
  | some slot => d1.bootFrom slot
  | none => ({ d1 with start := { d1.start with fwNone := true } }.boatRecord 2 0).startFail 1 0

/-- Stage 0x2: a failed random source ends start-up, as does the lack of a valid image. -/
def Device.firmwareBoot (d : Device) : Device :=
  if d.start.stage ≠ 2 ∨ d.start.fail ≠ 0 ∨ !d.pd.pwrGood then d
  else if d.boat.entropyFailed then d.startFail 2 d.boat.entropyTest
  else d.firmware

/-- FIRMWARE_BOOT. -/
def execFirmwareBoot (s : State) : Host.Outcome State Fault Refusal := .next { s with dev := s.dev.firmwareBoot }

/-! ### The set-up image (R460 to R462) -/

/-- The fused defaults (R462). -/
def Device.fusedDefaults (d : Device) : Device :=
  let thr : BitVec 32 := 64
  let pd := (List.finRange 16).foldl (fun p n => p.setBudget n 135) d.pd
  { d with
    pd := pd
    loops := each (fun j _ => { loopDefault j with mode := if j = 0 then 0 else 2 }) d.loops
    cports := each (fun _ v => each (fun _ x => { x with ceThr := thr }) v) d.cports
    lpcs := each (fun _ v => each (fun _ x => { x with ceThr := thr }) v) d.lpcs
    fds := each (fun _ x => { x with portEn := 0 }) d.fds
    ports := each (fun _ x => { x with enabled := false, trainThr := 16 }) d.ports
    dump := { d.dump with p12 := false } }

/-- An entry of the image: offset and value. -/
def imageEntry (img : List Byte) (k : Nat) : Nat × Nat := (field img (64 + 16 * k) 4, field img (72 + 16 * k) 8)

/-- The register of an entry, when it is image-writable (check 5). -/
def entryReg (off : Nat) : Option Reg := (regAt off).bind fun r => if r.image then some r else none

/-- A value that check 6 accepts for a register (R460, R475). -/
def imageValueOk (r : Reg) (v : Nat) : Bool :=
  (v &&& r.writable) == v && (match r with
    | .loop j => loopOk j (bits v 33 32) (bits v 15 0) (bits v 31 16)
    | .budget _ => decide (20 ≤ v) && decide (v ≤ 150)
    | _ => true)

/-- An entry written at stage 0x3. -/
def Device.imageWrite (d : Device) (e : Nat × Nat) : Device :=
  match entryReg e.1 with
  | some (.loop j) => d.putLoop j e.2
  | some (.budget n) => { d with pd := d.pd.setBudget n e.2 }
  | some (.portEn f) => d.setPortEn f e.2
  | some r => d.writeOther r e.2
  | none => d

/-- Budgets in force after some entries (check 7). -/
def budgetsAfter (p : Pd) (es : List (Nat × Nat)) : Nat :=
  (es.foldl (fun (p : Pd) e => match entryReg e.1 with
    | some (.budget n) => p.setBudget n e.2
    | _ => p) p).budgets

/-- Checks 2 to 7 of an image over the fused defaults, from its header and its bytes: the code of the first that fails. -/
def imageWhy (p : Pd) (h img : List Byte) (es : List (Nat × Nat)) : Nat :=
  let bytes := field h 8 4
  if !(magicIs h [0x4F, 0x58, 0x53, 0x55] && gvOk (field h 4 1) 1) then 2
  else if bytes ≠ 64 + 16 * field h 6 2 + 4 ∨ 262144 < bytes then 3
  else if field img (bytes - 4) 4 ≠ crc32c (img.take (bytes - 4)) then 4
  else if !(es.all fun e => (entryReg e.1).isSome) then 5
  else if !(es.all fun e => (entryReg e.1).all fun r => imageValueOk r e.2) then 6
  else if 2168 < budgetsAfter p es then 7
  else 0

/-- Stage 0x3 ends: a held flash command runs, and stage 0x4 begins with the bonded SRAM zeroed (R191, R461). -/
def Device.endSetup (d : Device) : Device :=
  { d with start := { d.start with stage := 4 }, hd := { d.hd with flashHeld := false }, mem := d.mem.zeroSram }

/-- Every image-writable register with its offset in the set-up window, by ascending offset (R475). -/
def imageRegs : List (Nat × Reg) :=
  ((List.finRange 16).flatMap fun cd =>
    (List.finRange 2).map (fun i => (cd.val * 0x1000000 + 0x90008 + 0x1000 * i.val, Reg.cpThr cd i))
      ++ (List.finRange 2).map fun i => (cd.val * 0x1000000 + 0xA0008 + 0x1000 * i.val, Reg.lpThr cd i))
  ++ ((List.finRange 2).flatMap fun f =>
    (0x10000000 + f.val * 0x1000000, Reg.portEn f)
      :: (List.range 8).map fun i => (0x10000000 + f.val * 0x1000000 + 0x10018 + 0x1000 * i, Reg.trainThr (idx 16 (8 * f.val + i))))
  ++ [(0x12000028, Reg.dumpCfg)] ++ ((List.finRange 18).map fun j => (0x12000200 + 8 * j.val, Reg.loop j))
  ++ (List.finRange 16).map fun n => (0x13000100 + 8 * n.val, Reg.budget n)

/-- Bits of an image-writable register that hold a setting: of `HD.DUMP_CFG` p12 alone, since over is status that a write clears (R462, R480). -/
def Reg.setting (r : Reg) : Nat := if r == .dumpCfg then 1 else r.writable

/-- The canonical image of the values in force: header, entries in ascending order, check word; sequence 0 (R460, R462). -/
def Device.canonicalImage (d : Device) : List Byte :=
  let n := imageRegs.length
  let body := [0x4F, 0x58, 0x53, 0x55] ++ bytesLE 1 5 ++ zeros 1 ++ bytesLE 2 n ++ bytesLE 4 (64 + 16 * n + 4) ++ zeros 52
    ++ imageRegs.flatMap fun (off, r) => bytesLE 4 off ++ zeros 4 ++ bytesLE 8 (d.regRead r &&& r.setting)
  body ++ bytesLE 4 (crc32c body)

/-- The image refused: the fused defaults stay in force, and their canonical image is measured (R462). -/
def Device.setupFallback (d : Device) (why : Nat) : Device :=
  ({ d with
    start := { d.start with cfgFallback := true, cfgWhy := BitVec.ofNat 4 why, cfgSeq := 0 }
    boat := { d.boat with setupDigest := Config.sha384 d.canonicalImage } } : Device).cause 3

/-- The image accepted: its entries are written in list order. -/
def Device.setupAccept (d : Device) (img : List Byte) (es : List (Nat × Nat)) : Device :=
  let d1 := es.foldl Device.imageWrite d
  { d1 with
    start := { d1.start with cfgFallback := false, cfgWhy := 0, cfgSeq := BitVec.ofNat 32 (field img 0xC 4) }
    boat := { d1.boat with setupDigest := Config.sha384 img } }

/-- Stage 0x3: the fused defaults, then the image. -/
def Device.setupApply (d : Device) (readOk : Bool) : Device :=
  if d.start.stage ≠ 3 then d
  else
    let d0 := d.fusedDefaults
    let h := d.flashBytes setupBase 64
    let img := d.flashBytes setupBase (min 262144 (field h 8 4))
    let es := (List.range (field h 6 2)).map (imageEntry img)
    let why := if readOk then imageWhy d0.pd h img es else 1
    (if why = 0 then d0.setupAccept img es else d0.setupFallback why).endSetup

/-- SETUP_IMAGE_APPLY. -/
def execSetupImageApply (readOk : Bool) (s : State) : Host.Outcome State Fault Refusal := .next { s with dev := s.dev.setupApply readOk }

/-! ### Memory (R456, R458, R459) -/

/-- Every device is trained. -/
def Device.allTrained (d : Device) : Bool := d.lpcs.toList.all fun v => v.toList.all fun l => l.trained

/-- A device fails to train: the record of the HD error log has a class and a code that the spec does not state (log entry 9), and the
module goes on at stage 0x6 (R456, R457). -/
def Device.trainFail (d : Device) (cd : Cd) (i : Fin 2) : Device :=
  let (v, d1) := d.draw
  let arg := 2 * cd.val + i.val
  let d2 := d1.logErr (d1.err (lpcIsland cd i) (v.truncate 8).toNat (v.extractLsb' 8 16).toNat 0 none arg)
  ({ d2 with start := { d2.start with stage := 6 } } : Device).startFail 3 (BitVec.ofNat 8 arg)

/-- Training of a device ends at stage 0x4; after the last one, the fill is skipped when its flag survives (R459). -/
def Device.lpddrTrain (d : Device) (cd : Cd) (i : Fin 2) (ok : Bool) : Device :=
  if d.start.stage ≠ 4 ∨ d.lpcs[cd][i].trained then d
  else if !ok then d.trainFail cd i
  else
    let d1 := d.modLpc cd i fun l => { l with trained := true, selfRefresh := false }
    if d1.allTrained && d1.start.fillDone then { d1 with start := { d1.start with stage := 5 } } else d1

/-- LPDDR_TRAIN. -/
def execLpddrTrain (cd : Cd) (ctl : Fin 2) (ok : Bool) (s : State) : Host.Outcome State Fault Refusal :=
  .next { s with dev := s.dev.lpddrTrain cd ctl ok }

/-- Every usable LPDDR5X line written as zero under the domain 0 key (R458). -/
def Mem.filled (m : Mem) (key : Nat) : Mem :=
  { m with bytes := memClear m.bytes 0 0x20000000000, lineKey := [], rangeKey := [], fillKey := key, ceLines := [], ueLines := [] }

/-- The fill of every controller has ended. -/
def Device.memoryFilled (d : Device) : Device :=
  if d.start.stage = 4 ∧ d.allTrained ∧ !d.start.fillDone then
    { d with mem := d.mem.filled d.boat.domains[(0 : Fin 64)].key, start := { d.start with fillDone := true, stage := 5 } }
  else d

/-- MEMORY_FILL_DONE. -/
def execMemoryFillDone (s : State) : Host.Outcome State Fault Refusal := .next { s with dev := s.dev.memoryFilled }

/-! ### Course and Yalken (R199, R456, R457) -/

/-- The measured latency of the link-direction that ends at a port, in CD order with instance 0 first; none when it has not trained. -/
def linkLatency (l : List (BitVec 16)) (cd : Cd) (i : Fin 2) : Option Nat := (l[2 * cd.val + i.val]?).map (·.toNat)

/-- A link-direction meets its limit: it is trained and its hop can be held to 64 cycles (R199). -/
def linkOk (l : List (BitVec 16)) (cd : Cd) (i : Fin 2) : Bool := (linkLatency l cd i).any fun v => decide (v ≤ 56)

/-- The first port, in order, whose link-direction fails. -/
def firstBadLink (l : List (BitVec 16)) : Option (Cd × Fin 2) :=
  ((List.finRange 16).flatMap fun cd => [(cd, (0 : Fin 2)), (cd, 1)]).find? fun p => !linkOk l p.1 p.2

/-- COURSE_LINK: the record and the failure, and the module goes on at stage 0x6. A link that has not trained shows a free latency. -/
def Device.courseFail (d : Device) (l : List (BitVec 16)) (cd : Cd) (i : Fin 2) : Device :=
  let (v, d1) := d.draw
  let lat := (linkLatency l cd i).getD (v.truncate 16).toNat
  let d2 := d1.logErr (d1.err (cdIsland cd 9 i.val) 8 2 0 none lat)
  ({ d2 with start := { d2.start with stage := 6 } } : Device).startFail 4 (BitVec.ofNat 8 (cd.val + 16 * i.val))

/-- A port whose link-direction has trained shows the latency measured, within the limit or above it (R199, R484). -/
def CoursePort.measured (x : CoursePort) (lat : Option Nat) : CoursePort :=
  match lat with
  | some v => { x with lat := BitVec.ofNat 8 v, trained := true }
  | none => x

/-- Stage 0x5: every link-direction is trained and measured. -/
def Device.courseUp (d : Device) (l : List (BitVec 16)) : Device :=
  if d.start.stage ≠ 5 then d
  else
    let d1 := { d with cports := each (fun cd v => each (fun i x => x.measured (linkLatency l cd i)) v) d.cports }
    match firstBadLink l with
    | none => { d1 with start := { d1.start with stage := 6 } }
    | some (cd, i) => d1.courseFail l cd i

/-- COURSE_BRINGUP. -/
def execCourseBringup (latency : List (BitVec 16)) (s : State) : Host.Outcome State Fault Refusal :=
  .next { s with dev := s.dev.courseUp latency }

/-- Stage 0x7: enabled ports start at DETECT (R336, R456). -/
def Device.startPorts (d : Device) : Device :=
  { d with start := { d.start with stage := 7 }, ports := each (fun _ x => if x.enabled then { x with state := .detect } else x) d.ports }

/-- A training attempt of the Yalken link at stage 0x6; after a failure of stage 0x4 or 0x5 stage 0x7 does not run (R456, R457). -/
def Device.yalkenTrain (d : Device) (answered : Bool) : Device :=
  if d.start.stage ≠ 6 ∨ d.yalkenUp ∨ !answered then d
  else
    let d1 := { d with yalkenUp := true }
    if d.start.fail = 0 then d1.startPorts else d1

/-- YALKEN_TRAINING. -/
def execYalkenTraining (answered : Bool) (s : State) : Host.Outcome State Fault Refusal := .next { s with dev := s.dev.yalkenTrain answered }

/-- Stage 0x8: ready. -/
def Device.reachReady (d : Device) : Device :=
  if d.start.stage = 7 then ({ d with start := { d.start with stage := 8, ready := true } } : Device).cause 1 else d

/-- READY. -/
def execReadyReached (s : State) : Host.Outcome State Fault Refusal := .next { s with dev := s.dev.reachReady }

/-- The Yalken link goes down while the module runs, or has retrained: the writes that waited land in order and the accesses are answered
(R155, R359). -/
def Device.yalkenRetrain (d : Device) (up : Bool) : Device :=
  if d.start.stage ≠ 8 then d
  else if up then
    let d1 := d.heldWrites.foldl Device.landHeld { d with yalkenUp := true, heldWrites := [] }
    d1.companion.foldl Device.companionAnswer d1
  else if d.yalkenUp then { d.linkLost with yalkenUp := false }
  else d

/-- YALKEN_LINK_RETRAIN. -/
def execYalkenLinkRetrain (up : Bool) (s : State) : Host.Outcome State Fault Refusal := .next { s with dev := s.dev.yalkenRetrain up }

/-! ### MODULE_RESET (R425, R459) -/

/-- The key of `HD.MODULE_RESET`. -/
def resetKey : Nat := 0xA5C30F12

/-- A flash command that the reset cuts off leaves free values where it was writing. -/
def Device.flashCut (d : Device) : Device :=
  if d.hd.flashBusy && !d.hd.flashHeld && flashWrites d.hd.flashOp.toNat then d.flashFail d.hd.flashOp.toNat d.hd.flashAddr.toNat else d

/-- The PD through a MODULE_RESET: input, rails and pins stay, the registers take their reset values (R425, R474). -/
def Pd.keep (p : Pd) : Pd :=
  { ({} : Pd) with input := p.input, rails := p.rails, ramping := p.ramping, seqFails := p.seqFails, locked := p.locked, pwrGood := p.pwrGood, thermTrip := p.thermTrip }

/-- Every die but the PD held in reset and released: what stays is the PD, LPDDR5X bits under their old keys, companion memory, flash,
fuses, the retained dump, and the error log when `HD.DUMP_CFG.p12` is set; each FD's session is the next (R338, R401, R425, R430, R459). -/
def Device.resetDies (d : Device) : Device :=
  let d1 := (d.autoDump 2 0).flashCut
  let b := d1.boat
  { Device.reset with
    code := d1.code
    cycles := (d1.restart (· != pdIsland)).cycles
    fresh := d1.fresh
    mem := { d1.mem.zeroSram with owner := [] }
    lpcs := each (fun _ v => each (fun _ l => { l with selfRefresh := true }) v) Device.reset.lpcs
    fds := each (fun f x => { x with session := d1.fds[f].session + 1 }) Device.reset.fds
    ports := each (fun p x => { x with session := d1.fds[idx 2 (p.val / 8)].session + 1 }) Device.reset.ports
    hd := { flash := d1.hd.flash }
    start := { stage := 2, fillDone := d1.start.fillDone, resetSeen := true }
    pd := d1.pd.keep
    boat := { revoke := b.revoke, fuseSvn := b.fuseSvn, lifecycle := b.lifecycle, jtagLock := b.jtagLock, keysDrawn := b.keysDrawn,
              keyDomain := b.keyDomain, debugOnce := b.debugOnce,
              entropyFailed := b.entropyFailed, entropyTest := b.entropyTest }
    dump := { log := if d.dump.p12 then d1.dump.log else [], retained := d1.dump.retained, held := d1.dump.held, overrun := d1.dump.overrun } }

/-- A value written to `HD.MODULE_RESET`: the key in [31:0] resets the module whatever [63:32] hold, any other value is a stray
(R425, R472). -/
def Device.moduleReset (d : Device) (v : Nat) : Device := if v % 2 ^ 32 = resetKey then d.resetDies else d.stray

/-- MODULE_RESET. -/
def execModuleReset (a : RegAccess) (s : State) : Host.Outcome State Fault Refusal :=
  .next { s with dev := s.dev.regRow a false (fun r _ => r == .moduleReset) fun d _ v => d.moduleReset v }

end Sys2Proof.Machine
end

