-- ==== Sys2Proof/Machine/Dispatch.lean ====
section
/-! DEFINITION. The dispatch: every command and its meaning. -/

namespace Sys2Proof.Machine

/-- The effect of one command on everything but the queue. -/
def exec (i : Instr) (s : State) : Host.Outcome State Fault Refusal :=
  match i with
  | .strokeIssue cd => Sys2Proof.Machine.execStrokeIssue cd s
  | .nopS cd w => Sys2Proof.Machine.execNopS cd w s
  | .add cd w => Sys2Proof.Machine.execAdd cd w s
  | .sub cd w => Sys2Proof.Machine.execSub cd w s
  | .mul cd w => Sys2Proof.Machine.execMul cd w s
  | .mulh cd w => Sys2Proof.Machine.execMulh cd w s
  | .divu cd w => Sys2Proof.Machine.execDivu cd w s
  | .remu cd w => Sys2Proof.Machine.execRemu cd w s
  | .andS cd w => Sys2Proof.Machine.execAndS cd w s
  | .orS cd w => Sys2Proof.Machine.execOrS cd w s
  | .xorS cd w => Sys2Proof.Machine.execXorS cd w s
  | .shl cd w => Sys2Proof.Machine.execShl cd w s
  | .shr cd w => Sys2Proof.Machine.execShr cd w s
  | .sha cd w => Sys2Proof.Machine.execSha cd w s
  | .min cd w => Sys2Proof.Machine.execMin cd w s
  | .max cd w => Sys2Proof.Machine.execMax cd w s
  | .clz cd w => Sys2Proof.Machine.execClz cd w s
  | .popc cd w => Sys2Proof.Machine.execPopc cd w s
  | .li cd w => Sys2Proof.Machine.execLi cd w s
  | .lih cd w => Sys2Proof.Machine.execLih cd w s
  | .cmpeq cd w => Sys2Proof.Machine.execCmpeq cd w s
  | .cmpne cd w => Sys2Proof.Machine.execCmpne cd w s
  | .cmplt cd w => Sys2Proof.Machine.execCmplt cd w s
  | .cmple cd w => Sys2Proof.Machine.execCmple cd w s
  | .cmpltu cd w => Sys2Proof.Machine.execCmpltu cd w s
  | .cmpleu cd w => Sys2Proof.Machine.execCmpleu cd w s
  | .plog cd w => Sys2Proof.Machine.execPlog cd w s
  | .movp cd w => Sys2Proof.Machine.execMovp cd w s
  | .sel cd w => Sys2Proof.Machine.execSel cd w s
  | .rds cd w => Sys2Proof.Machine.execRds cd w s
  | .rdc cd w => Sys2Proof.Machine.execRdc cd w s
  | .ld64 cd w => Sys2Proof.Machine.execLd64 cd w s
  | .ld32 cd w => Sys2Proof.Machine.execLd32 cd w s
  | .ld32u cd w => Sys2Proof.Machine.execLd32u cd w s
  | .ld16u cd w => Sys2Proof.Machine.execLd16u cd w s
  | .st64 cd w => Sys2Proof.Machine.execSt64 cd w s
  | .st32 cd w => Sys2Proof.Machine.execSt32 cd w s
  | .st16 cd w => Sys2Proof.Machine.execSt16 cd w s
  | .ldd64 cd w => Sys2Proof.Machine.execLdd64 cd w s
  | .ldd32u cd w => Sys2Proof.Machine.execLdd32u cd w s
  | .std64 cd w => Sys2Proof.Machine.execStd64 cd w s
  | .std32 cd w => Sys2Proof.Machine.execStd32 cd w s
  | .std16 cd w => Sys2Proof.Machine.execStd16 cd w s
  | .br cd w => Sys2Proof.Machine.execBr cd w s
  | .call cd w => Sys2Proof.Machine.execCall cd w s
  | .dbnz cd w => Sys2Proof.Machine.execDbnz cd w s
  | .waitq cd w => Sys2Proof.Machine.execWaitq cd w s
  | .halt cd w => Sys2Proof.Machine.execHalt cd w s
  | .trap cd w => Sys2Proof.Machine.execTrap cd w s
  | .lddErrorResponse cd => Sys2Proof.Machine.execLddErrorResponse cd s
  | .runComplete cd => Sys2Proof.Machine.execRunComplete cd s
  | .faultReachesCox cd => Sys2Proof.Machine.execFaultReachesCox cd s
  | .planStall cd => Sys2Proof.Machine.execPlanStall cd s
  | .chunk cd ma => Sys2Proof.Machine.execChunk cd ma s
  | .lastChunkCommit cd ma => Sys2Proof.Machine.execLastChunkCommit cd ma s
  | .readout cd ma => Sys2Proof.Machine.execReadout cd ma s
  | .whiskRun cd => Sys2Proof.Machine.execWhiskRun cd s
  | .elemNop cd w => Sys2Proof.Machine.execElemNop cd w s
  | .elemMov cd w => Sys2Proof.Machine.execElemMov cd w s
  | .elemAdd cd w => Sys2Proof.Machine.execElemAdd cd w s
  | .elemSub cd w => Sys2Proof.Machine.execElemSub cd w s
  | .elemMul cd w => Sys2Proof.Machine.execElemMul cd w s
  | .elemNeg cd w => Sys2Proof.Machine.execElemNeg cd w s
  | .elemAbs cd w => Sys2Proof.Machine.execElemAbs cd w s
  | .elemShl cd w => Sys2Proof.Machine.execElemShl cd w s
  | .elemShr cd w => Sys2Proof.Machine.execElemShr cd w s
  | .elemAnd cd w => Sys2Proof.Machine.execElemAnd cd w s
  | .elemOr cd w => Sys2Proof.Machine.execElemOr cd w s
  | .elemXor cd w => Sys2Proof.Machine.execElemXor cd w s
  | .elemNot cd w => Sys2Proof.Machine.execElemNot cd w s
  | .elemClt cd w => Sys2Proof.Machine.execElemClt cd w s
  | .elemCle cd w => Sys2Proof.Machine.execElemCle cd w s
  | .elemCeq cd w => Sys2Proof.Machine.execElemCeq cd w s
  | .elemSel cd w => Sys2Proof.Machine.execElemSel cd w s
  | .elemMax cd w => Sys2Proof.Machine.execElemMax cd w s
  | .elemMin cd w => Sys2Proof.Machine.execElemMin cd w s
  | .elemClz cd w => Sys2Proof.Machine.execElemClz cd w s
  | .ilg cd w => Sys2Proof.Machine.execIlg cd w s
  | .luta cd w => Sys2Proof.Machine.execLuta cd w s
  | .lutb cd w => Sys2Proof.Machine.execLutb cd w s
  | .aln cd w => Sys2Proof.Machine.execAln cd w s
  | .toi cd w => Sys2Proof.Machine.execToi cd w s
  | .tof cd w => Sys2Proof.Machine.execTof cd w s
  | .nfc cd w => Sys2Proof.Machine.execNfc cd w s
  | .tongsMove cd chan => Sys2Proof.Machine.execTongsMove cd chan s
  | .weightin cd => Sys2Proof.Machine.execWeightin cd s
  | .chunkTilePlace cd => Sys2Proof.Machine.execChunkTilePlace cd s
  | .mergeBuild cd => Sys2Proof.Machine.execMergeBuild cd s
  | .mergeFeed cd => Sys2Proof.Machine.execMergeFeed cd s
  | .updateSgd cd => Sys2Proof.Machine.execUpdateSgd cd s
  | .updateAdamw cd => Sys2Proof.Machine.execUpdateAdamw cd s
  | .updateInit cd => Sys2Proof.Machine.execUpdateInit cd s
  | .updateRefresh cd => Sys2Proof.Machine.execUpdateRefresh cd s
  | .accum cd => Sys2Proof.Machine.execAccum cd s
  | .bucketOpen cd => Sys2Proof.Machine.execBucketOpen cd s
  | .bucketClose cd => Sys2Proof.Machine.execBucketClose cd s
  | .bucketComplete cd bucket => Sys2Proof.Machine.execBucketComplete cd bucket s
  | .ladleLineDepart cd stream => Sys2Proof.Machine.execLadleLineDepart cd stream s
  | .ladlePayloadArrival cd stream check => Sys2Proof.Machine.execLadlePayloadArrival cd stream check s
  | .upperTreeLineAdd fd slot bucket level phase line => Sys2Proof.Machine.execUpperTreeLineAdd fd slot bucket level phase line s
  | .tapNorm cd => Sys2Proof.Machine.execTapNorm cd s
  | .tapScales cd => Sys2Proof.Machine.execTapScales cd s
  | .tapSieve cd => Sys2Proof.Machine.execTapSieve cd s
  | .sieveComparison cd => Sys2Proof.Machine.execSieveComparison cd s
  | .report cd => Sys2Proof.Machine.execReport cd s
  | .sync cd queue => Sys2Proof.Machine.execSync cd queue s
  | .commandCompletionPoint cd queue => Sys2Proof.Machine.execCommandCompletionPoint cd queue s
  | .commandReleasePoint cd queue => Sys2Proof.Machine.execCommandReleasePoint cd queue s
  | .startMarker cd => Sys2Proof.Machine.execStartMarker cd s
  | .readySend cd => Sys2Proof.Machine.execReadySend cd s
  | .readyArrival cd pos => Sys2Proof.Machine.execReadyArrival cd pos s
  | .roundStart cd => Sys2Proof.Machine.execRoundStart cd s
  | .courseLineArrival cd clockwise check => Sys2Proof.Machine.execCourseLineArrival cd clockwise check s
  | .pauseArrival cd round => Sys2Proof.Machine.execPauseArrival cd round s
  | .lpddrWheelServe cd ctl decay => Sys2Proof.Machine.execLpddrWheelServe cd ctl decay s
  | .mr4Read cd ctl field => Sys2Proof.Machine.execMr4Read cd ctl field s
  | .packageRecordVerify domain window record => Sys2Proof.Machine.execPackageRecordVerify domain window record s
  | .companionTimeout access => Sys2Proof.Machine.execCompanionTimeout access s
  | .snpinv ring stores => Sys2Proof.Machine.execSnpinv ring stores s
  | .doorbellWrite off value stores => Sys2Proof.Machine.execDoorbellWrite off value stores s
  | .signalHoldoffExpiry ring => Sys2Proof.Machine.execSignalHoldoffExpiry ring s
  | .runStart slot => Sys2Proof.Machine.execRunStart slot s
  | .planLoad slot => Sys2Proof.Machine.execPlanLoad slot s
  | .planRun slot => Sys2Proof.Machine.execPlanRun slot s
  | .stepCommit slot => Sys2Proof.Machine.execStepCommit slot s
  | .segmentHalt slot => Sys2Proof.Machine.execSegmentHalt slot s
  | .stepRollback slot => Sys2Proof.Machine.execStepRollback slot s
  | .lossScaleSet slot => Sys2Proof.Machine.execLossScaleSet slot s
  | .adapterRegister slot => Sys2Proof.Machine.execAdapterRegister slot s
  | .adapterFetch slot => Sys2Proof.Machine.execAdapterFetch slot s
  | .adapterEvict slot => Sys2Proof.Machine.execAdapterEvict slot s
  | .adapterUnregister slot => Sys2Proof.Machine.execAdapterUnregister slot s
  | .adapterPolicy slot => Sys2Proof.Machine.execAdapterPolicy slot s
  | .slotBind slot => Sys2Proof.Machine.execSlotBind slot s
  | .slotRelease slot => Sys2Proof.Machine.execSlotRelease slot s
  | .reduceConfig slot => Sys2Proof.Machine.execReduceConfig slot s
  | .reduceFence slot => Sys2Proof.Machine.execReduceFence slot s
  | .reduceFenceComplete slot => Sys2Proof.Machine.execReduceFenceComplete slot s
  | .reduceAbort slot => Sys2Proof.Machine.execReduceAbort slot s
  | .reduceDigest slot => Sys2Proof.Machine.execReduceDigest slot s
  | .fabricRoute slot => Sys2Proof.Machine.execFabricRoute slot s
  | .contextNop slot => Sys2Proof.Machine.execContextNop slot s
  | .contextCreate => Sys2Proof.Machine.execContextCreate s
  | .contextDestroy => Sys2Proof.Machine.execContextDestroy s
  | .contextReset => Sys2Proof.Machine.execContextReset s
  | .unitResetAck island => Sys2Proof.Machine.execUnitResetAck island s
  | .resetAckTimeout => Sys2Proof.Machine.execResetAckTimeout s
  | .forcedResetRelease island => Sys2Proof.Machine.execForcedResetRelease island s
  | .contextSwitch => Sys2Proof.Machine.execContextSwitch s
  | .pauseLimitExpiry slot => Sys2Proof.Machine.execPauseLimitExpiry slot s
  | .ringBind => Sys2Proof.Machine.execRingBind s
  | .ringResume => Sys2Proof.Machine.execRingResume s
  | .attest => Sys2Proof.Machine.execAttest s
  | .keyRelease => Sys2Proof.Machine.execKeyRelease s
  | .domainRelease => Sys2Proof.Machine.execDomainRelease s
  | .debugUnlock => Sys2Proof.Machine.execDebugUnlock s
  | .dumpTake => Sys2Proof.Machine.execDumpTake s
  | .unitReadTimeout unit => Sys2Proof.Machine.execUnitReadTimeout unit s
  | .loopSet => Sys2Proof.Machine.execLoopSet s
  | .adminNop => Sys2Proof.Machine.execAdminNop s
  | .adminRingBind a stores => Sys2Proof.Machine.execAdminRingBind a stores s
  | .adminRingResume a => Sys2Proof.Machine.execAdminRingResume a s
  | .moduleReset a => Sys2Proof.Machine.execModuleReset a s
  | .flashRead a => Sys2Proof.Machine.execFlashRead a s
  | .flashProgram a => Sys2Proof.Machine.execFlashProgram a s
  | .flashErase a => Sys2Proof.Machine.execFlashErase a s
  | .flashCommandDone deviceOk => Sys2Proof.Machine.execFlashCommandDone deviceOk s
  | .loopRegisterWrite a => Sys2Proof.Machine.execLoopRegisterWrite a s
  | .budgetWrite a => Sys2Proof.Machine.execBudgetWrite a s
  | .portEnWrite a => Sys2Proof.Machine.execPortEnWrite a s
  | .counterClearWrite a => Sys2Proof.Machine.execCounterClearWrite a s
  | .setupRegisterWrite a => Sys2Proof.Machine.execSetupRegisterWrite a s
  | .setdasa static dynamic => Sys2Proof.Machine.execSetdasa static dynamic s
  | .entdaa dynamic => Sys2Proof.Machine.execEntdaa dynamic s
  | .rstdaa => Sys2Proof.Machine.execRstdaa s
  | .flitTransmit port => Sys2Proof.Machine.execFlitTransmit port s
  | .flitReceive port flit => Sys2Proof.Machine.execFlitReceive port flit s
  | .replayTimeout port => Sys2Proof.Machine.execReplayTimeout port s
  | .keepaliveTimeout port => Sys2Proof.Machine.execKeepaliveTimeout port s
  | .portTrainingStep port found => Sys2Proof.Machine.execPortTrainingStep port found s
  | .portTrainingTimeout port found => Sys2Proof.Machine.execPortTrainingTimeout port found s
  | .backoffExpiry port => Sys2Proof.Machine.execBackoffExpiry port s
  | .negotiationFlit port flit => Sys2Proof.Machine.execNegotiationFlit port flit s
  | .equaliserAdapt port ctle dfe => Sys2Proof.Machine.execEqualiserAdapt port ctle dfe s
  | .packetArrival port packet => Sys2Proof.Machine.execPacketArrival port packet s
  | .messageLanded slot pos stream mseq => Sys2Proof.Machine.execMessageLanded slot pos stream mseq s
  | .sendEntryDepart slot pos stream => Sys2Proof.Machine.execSendEntryDepart slot pos stream s
  | .nakArrival port packet => Sys2Proof.Machine.execNakArrival port packet s
  | .mcredit port packet => Sys2Proof.Machine.execMcredit port packet s
  | .ping port packet => Sys2Proof.Machine.execPing port packet s
  | .echo port packet => Sys2Proof.Machine.execEcho port packet s
  | .easyAllEntry average => Sys2Proof.Machine.execEasyAllEntry average s
  | .easyAllSignal => Sys2Proof.Machine.execEasyAllSignal s
  | .easyAllExit average => Sys2Proof.Machine.execEasyAllExit average s
  | .overtemperatureShutdown source tenths => Sys2Proof.Machine.execOvertemperatureShutdown source tenths s
  | .inputApplied => Sys2Proof.Machine.execInputApplied s
  | .inputQualified => Sys2Proof.Machine.execInputQualified s
  | .inputUndervoltage => Sys2Proof.Machine.execInputUndervoltage s
  | .inputOvervoltage => Sys2Proof.Machine.execInputOvervoltage s
  | .inputRemoved => Sys2Proof.Machine.execInputRemoved s
  | .railPowerGood => Sys2Proof.Machine.execRailPowerGood s
  | .railSequenceTimeout => Sys2Proof.Machine.execRailSequenceTimeout s
  | .sequenceRetry => Sys2Proof.Machine.execSequenceRetry s
  | .entropyFail test => Sys2Proof.Machine.execEntropyFail test s
  | .firmwareBoot => Sys2Proof.Machine.execFirmwareBoot s
  | .setupImageApply readOk => Sys2Proof.Machine.execSetupImageApply readOk s
  | .lpddrTrain cd ctl ok => Sys2Proof.Machine.execLpddrTrain cd ctl ok s
  | .memoryFillDone => Sys2Proof.Machine.execMemoryFillDone s
  | .courseBringup latency => Sys2Proof.Machine.execCourseBringup latency s
  | .yalkenTraining answered => Sys2Proof.Machine.execYalkenTraining answered s
  | .readyReached => Sys2Proof.Machine.execReadyReached s
  | .yalkenLinkRetrain up => Sys2Proof.Machine.execYalkenLinkRetrain up s
  | .telemetrySample sample => Sys2Proof.Machine.execTelemetrySample sample s
  | .enec => Sys2Proof.Machine.execEnec s
  | .ibi => Sys2Proof.Machine.execIbi s
  | .descriptorOpcodeRefused ring => Sys2Proof.Machine.execDescriptorOpcodeRefused ring s

end Sys2Proof.Machine
end

