-- ==== Sys2Proof/Safety.lean ====
section
/-! DEFINITION. What a sound state is, and the words the claims use: the memories in their canonical form, the power stage, and the
parts of a state that a command may change. -/

namespace Sys2Proof.Safety

open Sys2Proof.Machine

/-! ### Sound states -/

/-- The memories of a die are in canonical form: plan store with scratch, and the Ladle store. -/
def DieOk (x : Die) : Prop := x.loc.wf 0 = true ∧ x.ladle.store.wf 0 = true

/-- What a context keeps beside its save areas is in canonical form. -/
def ContextOk (c : Context) : Prop := ∀ ds ∈ c.saved, ∀ x ∈ ds, DieOk x

/-- Every memory of the device is in canonical form. -/
def MemoriesOk (d : Device) : Prop :=
  d.mem.bytes.wf 0 = true ∧ (∀ cd : Cd, DieOk d.dies[cd]) ∧ (∀ c ∈ d.ctxs, ContextOk c)
    ∧ d.hd.flash.wf 0xFF = true ∧ d.hd.flashBuf.wf 0 = true

/-- The power stage (R452, R453, R455): at most twelve rails; PWR_GOOD only with all twelve, with a qualified input and no rail ramping; a
rail ramps only on a qualified input, with neither a lock nor THERM_TRIP, and not after the twelfth; rails are on only while they ramp or
are all good; THERM_TRIP never stands beside a qualified input. -/
def PowerOk (p : Pd) : Prop :=
  p.rails ≤ 12
    ∧ (p.pwrGood = true → p.rails = 12 ∧ p.input = .qualified ∧ p.ramping = false)
    ∧ (p.ramping = true → p.input = .qualified ∧ p.rails < 12 ∧ p.locked = false)
    ∧ (0 < p.rails → p.pwrGood = true ∨ p.ramping = true)
    ∧ (p.thermTrip = true → p.input ≠ .qualified)

/-- A sound state. -/
def Sound (s : State) : Prop := MemoriesOk s.dev ∧ PowerOk s.dev.pd

/-! ### A Cox and its registers (R120) -/

/-- What g-register `r` reads as: g0 as zero. -/
def gRead (s : State) (cd : Cd) (r : Fin 32) : W64 := if r = 0 then 0 else s.dev.dies[cd].cox.g[r]

/-- What predicate `r` reads as: p0 as 1. -/
def pRead (s : State) (cd : Cd) (r : Nat) : Bool := if r % 8 = 0 then true else s.dev.dies[cd].cox.p[idx 8 r]

/-- The second operand y of R134. -/
def secondOperand (s : State) (cd : Cd) (w : Slot0) : W64 :=
  if w.i then BitVec.ofInt 64 w.imm.toInt else gRead s cd w.b

/-- The 64-bit sum g[a] + imm that the loads and stores use (R125, R134). -/
def localAddress (s : State) (cd : Cd) (w : Slot0) : Nat := (gRead s cd w.a + BitVec.ofInt 64 w.imm.toInt).toNat

/-- A byte of the plan store and scratch of a die by local address (R124). -/
def localByte (s : State) (cd : Cd) (a : Nat) : Byte := memGet 0 s.dev.dies[cd].loc a

/-- The state with the Cox of one die replaced, and nothing else. -/
def withCox (s : State) (cd : Cd) (k : Cox) : State :=
  { s with dev := { s.dev with dies := s.dev.dies.set cd { s.dev.dies[cd] with cox := k } } }

/-- The state with the plan store and scratch of one die replaced, and nothing else. -/
def withLocal (s : State) (cd : Cd) (m : Memory) : State :=
  { s with dev := { s.dev with dies := s.dev.dies.set cd { s.dev.dies[cd] with loc := m } } }

/-- The loads in flight of a Cox once a later result goes to g[r]: those to r have no register any more (the model's choice, log entry 71). -/
def overtaken (bus : List BusOp) (r : Fin 32) : List BusOp :=
  bus.map fun b => if b.store.isNone ∧ b.d = r then { b with d := 0 } else b

/-- The state with `v` in g[r], ready `lat` cycles on (R130), and no other change but that a load to r in flight no longer lands; a write to
g0 is discarded. -/
def withG (s : State) (cd : Cd) (r : Fin 32) (v : W64) (lat : Nat) : State :=
  let k := s.dev.dies[cd].cox
  if r = 0 then s else withCox s cd { k with g := k.g.set r v, ready := k.ready.set r (k.now + lat), bus := overtaken k.bus r }

/-- The state with `v` in p[r], and nothing else; a write to p0 is discarded. -/
def withP (s : State) (cd : Cd) (r : Nat) (v : Bool) : State :=
  let k := s.dev.dies[cd].cox
  if r % 8 = 0 then s else withCox s cd { k with p := k.p.set (idx 8 r) v }

/-- The state with the pc at stroke `t` and no issue in the next two cycles (R131), and nothing else. -/
def jumped (s : State) (cd : Cd) (t : Nat) : State :=
  let k := s.dev.dies[cd].cox
  withCox s cd { k with pc := BitVec.ofNat 14 t, bubble := k.now + 3 }

/-- A Cox of the resident context `c`, neither pre-empted nor held, runs and the guard of `w` holds (R129, R134, R449). -/
def ScalarRunsIn (s : State) (cd : Cd) (w : Slot0) (c : Context) : Prop :=
  s.dev.residentOf cd = some c ∧ s.dev.dies[cd].cox.run = .running ∧ (s.dev.preempting c = false ∧ c.held = false)
    ∧ pRead s cd w.gp.val ≠ w.gn

/-- A Cox runs a resident context that is neither pre-empted nor held, and the guard of `w` holds (R129, R134, R449). -/
def ScalarRuns (s : State) (cd : Cd) (w : Slot0) : Prop := ∃ c, ScalarRunsIn s cd w c

/-- An error record of the Cox of a die for the context (R15, R141): class 0x05, the pc in detail[45:32]. -/
def coxRecord (s : State) (cd : Cd) (c : Context) (code : Nat) (dpaOk : Bool) (dpa detail : Nat) : ErrRec where
  island := BitVec.ofNat 16 (cd.val * 1024)
  cls := 5
  dpaOk := dpaOk
  ctxOk := decide (c.tag ≠ 0)
  code := BitVec.ofNat 16 code
  ctx := c.tag
  cycle := s.dev.cycle (BitVec.ofNat 16 (cd.val * 1024))
  dpa := BitVec.ofNat 52 dpa
  detail := BitVec.ofNat 64 (detail + s.dev.dies[cd].cox.pc.toNat * 2 ^ 32)

/-- The commands of the scalar table for one Cox and one slot-0 word. -/
def scalarRows (cd : Cd) (w : Slot0) : List Instr :=
  [.nopS cd w, .add cd w, .sub cd w, .mul cd w, .mulh cd w, .divu cd w, .remu cd w, .andS cd w, .orS cd w, .xorS cd w, .shl cd w,
    .shr cd w, .sha cd w, .min cd w, .max cd w, .clz cd w, .popc cd w, .li cd w, .lih cd w, .cmpeq cd w, .cmpne cd w, .cmplt cd w,
    .cmple cd w, .cmpltu cd w, .cmpleu cd w, .plog cd w, .movp cd w, .sel cd w]
  ++ [.rds cd w, .rdc cd w, .ld64 cd w, .ld32 cd w, .ld32u cd w, .ld16u cd w, .st64 cd w, .st32 cd w, .st16 cd w, .ldd64 cd w,
    .ldd32u cd w, .std64 cd w, .std32 cd w, .std16 cd w, .br cd w, .call cd w, .dbnz cd w, .waitq cd w, .halt cd w, .trap cd w]

/-- Word `j` of the stroke at an index of the plan store (R143): eight little-endian words of 8 bytes, the header last. -/
def strokeWord (s : State) (cd : Cd) (stroke j : Nat) : Nat := le ((List.range 8).map fun i => localByte s cd (stroke * 64 + 8 * j + i))

/-- The Cox is in a cycle of its run that is neither paused nor held nor part of a resume lead (R129, R228, R449). -/
def CoxCycles (s : State) (cd : Cd) (c : Context) : Prop :=
  s.dev.residentOf cd = some c ∧ s.dev.dies[cd].cox.run = .running ∧ s.dev.preempting c = false ∧ c.held = false ∧ s.dev.inLead c cd = false

/-- A running Cox that has neither a branch bubble nor a WAITQ behind it and whose context is not held nor being switched out: its
stroke issues if the stroke itself holds nothing back (R129). No access in flight reaches bonded SRAM in the cycle; what one that does
changes before the stroke is said by DpaAccessesReachSramAfterTheirIssue. -/
def CoxIssues (s : State) (cd : Cd) (c : Context) : Prop :=
  let k := s.dev.dies[cd].cox
  CoxCycles s cd c ∧ k.fell = false ∧ k.bubble ≤ k.now ∧ k.waiting = none ∧ ∀ b ∈ k.bus, k.now < b.due

/-- The s-registers that the command word `v` of a slot writes: its sreg with swr, and s_base to s_base + 4 of the program of a Whisk RUN in
summary mode (R106, R149). -/
def sNamed (s : State) (cd : Cd) (slot v : Nat) : List (Fin 16) :=
  let own : List (Fin 16) := if v / 2 ^ 16 % 2 = 1 then [idx 16 (v / 2 ^ 12)] else []
  let num := fun (a n : Nat) => le ((List.range n).map fun i => localByte s cd (a + i))
  let prog := num (v / 2 ^ 42 % 2 ^ 14 * 64 + 4) 4
  if slot = 2 ∧ v % 64 = 1 ∧ num (prog + 2) 1 % 4 = 1 then own ++ (List.range 5).map fun i => idx 16 (num (prog + 9) 1 % 16 + i) else own

/-- A finite exact value as a rational number. -/
def exactly : Val → ℚ
  | .fin neg mag e => (if neg then -1 else 1) * mag * (2 : ℚ) ^ e
  | _ => 0

/-! ### Engines and their queues (R153 to R156) -/

/-- The command of a queue that starts: resident context `c`, entry `e` (R154, R156, R195). -/
def Starts (s : State) (cd : Cd) (q : QueueId) (op : Nat) (c : Context) (e : QEntry) : Prop := s.dev.startable cd q op = some (c, e)

/-- A command that has neither started nor made progress towards its result. -/
def Fresh (e : QEntry) : Prop := e.started = false ∧ e.progress = 0 ∧ e.svals = []

/-- The command has written its last result, with its s value when it names an s-register (R149). -/
def DoneIn (t : State) (cd : Cd) (q : QueueId) (e : QEntry) (v : Nat) : Prop :=
  ∀ b ∈ t.dev.dies[cd].queues[q], b.no = e.no → b.started = true ∧ b.done = true ∧ b.cut = false
    ∧ (cwSwr e.w = true → b.svals = [(cwSreg e.w, BitVec.ofNat 64 v)])

/-- The command stands at a stop point with this progress and work left (R197, R383, R387). -/
def CutIn (t : State) (cd : Cd) (q : QueueId) (e : QEntry) (progress : Nat) : Prop :=
  ∀ b ∈ t.dev.dies[cd].queues[q], b.no = e.no → b.started = true ∧ b.done = false ∧ b.cut = true ∧ b.progress = BitVec.ofNat 40 progress

/-- A gated MOVE has a message to start on, and a posting one room among the unread entries of its stream (R348, R349). -/
def GatesOpen (c : Context) (cd : Cd) (q : QueueId) (e : QEntry) : Prop :=
  (moveFlag q e 0 = true → ∃ r, c.recv (c.posOf cd) (cwStream e.w) = some r ∧ r.gated < r.landed)
    ∧ (moveFlag q e 6 = true → ∃ r, c.send (c.posOf cd) (cwStream e.w) = some r ∧ r.unread.length < r.depth)

/-- `n` bytes of memory from `a` on hold no error: a read gives their data and counts nothing (R171, R172, R176). -/
def CleanAt (d : Device) (a n : Nat) : Prop := d.dataBad a n = none ∧ ∀ l ∈ d.mem.ceLines, l < a / 64 ∨ (a + n - 1) / 64 < l

/-- Line `k` of a MOVE's kind-0 source can be read as `bs`, outside package windows and without a corrected error (R176, R411). -/
def MoveReads (s : State) (c : Context) (cd : Cd) (m : MoveCmd) (k : Nat) (bs : List Byte) : Prop :=
  let a := wrap52 (m.src + 64 * k)
  s.dev.windowOf a = none ∧ s.dev.mem.ceLines.contains (a / 64) = false
    ∧ s.dev.readLine c cd .tongs (if m.dk = 0 then c.packageDest (wrap52 (m.dst + 64 * k)) else none) a = .ok bs

/-- Line `k` of a MOVE's kind-0 destination can be written (R490). -/
def MoveWrites (s : State) (c : Context) (cd : Cd) (m : MoveCmd) (k : Nat) : Prop :=
  let a := wrap52 (m.dst + 64 * k)
  s.dev.mem.errLines.contains (a / 64) = false ∧ ∃ i, s.dev.allowed c cd .tongs true a = .ok i ∧ s.dev.keyCheck a (pDomain c.pantry[i]) = none

/-- Memory `m'` after the lines `bs 0` to `bs (n - 1)` have been stored from line address `dst` on into `m`, and nothing else. -/
def LinesStored (m m' : Memory) (dst n : Nat) (bs : Nat → List Byte) : Prop :=
  (∀ k < n, ∀ j < 64, memGet 0 m' (wrap52 (dst + 64 * k) + j) = (bs k).getD j 0)
    ∧ ∀ a, (∀ k < n, a < wrap52 (dst + 64 * k) ∨ wrap52 (dst + 64 * k) + 64 ≤ a) → memGet 0 m' a = memGet 0 m a

/-- The queue after its command `no` has started, and written its last result when `done` says so (R155). -/
def StartedIn (t : State) (cd : Cd) (q : QueueId) (no : Nat) (done : Bool) : Prop :=
  ∀ e ∈ t.dev.dies[cd].queues[q], e.no = no → e.started = true ∧ e.done = done

/-! ### The Whisk and its element registers (R89, R99, R104) -/

/-- The integer of lane `j` of block `k` of a register. -/
def laneInt (r : EReg) (k j : Nat) : Int := ((r.blocks.getD k {}).i.getD j 0).toInt

/-- The exact value of lane `j` of block `k` of a register: its integer at the block's exponent, or what its non-finite code says (R89). -/
def laneVal (r : EReg) (k j : Nat) : Val := (r.blocks.getD k {}).lane j

/-- Lane `j` of block `k` is non-zero or non-finite (R106). -/
def laneActive (r : EReg) (k j : Nat) : Bool := decide (laneInt r k j ≠ 0) || decide ((r.blocks.getD k {}).nf.getD j 0 ≠ 0)

/-- A written register of `n` full blocks. -/
def Blocks (r : EReg) (raw : Bool) (n : Nat) : Prop :=
  r.written = true ∧ r.raw = raw ∧ r.blocks.length = n ∧ ∀ b ∈ r.blocks, b.i.length = 32 ∧ b.nf.length = 32

/-- An integer saturated to 32 bits (R104). -/
def clamp32 (v : Int) : Int := Max.max (-(2 ^ 31)) (Min.min (2 ^ 31 - 1) v)

/-- The state with one element register replaced and `m` saturations counted in the tally (R93), and nothing else. -/
def withElement (s : State) (cd : Cd) (vd : Fin 16) (r : EReg) (m : Nat) : State :=
  let x := s.dev.dies[cd]
  let y : Die := { x with whisk := { x.whisk with v := x.whisk.v.set vd r }, tally := { x.tally with sat := x.tally.sat.add m } }
  { s with dev := { s.dev with dies := s.dev.dies.set cd y } }

/-- An element instruction writes vd with a raw register whose lanes are the integers `v`, saturated; each lane that saturates counts
(R93, R104). -/
def GivesRaw (s : State) (cd : Cd) (i : Instr) (vd : Fin 16) (n : Nat) (v : Nat → Nat → Int) : Prop :=
  ∃ r : EReg, exec i s = .next (withElement s cd vd r
      (((List.range n).map fun k => ((List.range 32).filter fun j => decide (clamp32 (v k j) ≠ v k j)).length).sum))
    ∧ r.raw = true ∧ r.written = true ∧ r.blocks.length = n ∧ ∀ k < n, ∀ j < 32, laneInt r k j = clamp32 (v k j)

/-- An element instruction writes vd with a block register whose block `k` is the normalised block of the exact values `v k 0` to
`v k 31`, with round-to-nearest-even (R90, R104). -/
def GivesBlocks (s : State) (cd : Cd) (i : Instr) (vd : Fin 16) (n : Nat) (v : Nat → Nat → Val) : Prop :=
  ∃ (r : EReg) (m : Nat), exec i s = .next (withElement s cd vd r m)
    ∧ r.raw = false ∧ r.written = true ∧ r.blocks.length = n
    ∧ ∀ k < n, r.blocks.getD k {} = (normBlock ((List.range 32).map fun j => (v k j, .nearestEven))).1

/-! ### Rings and descriptors (R360 to R376) -/

/-- The parts of a ring set that the device writes lie in companion memory and apart from each other (R362), the word of its signal too. -/
def RingApart (r : RingSet) : Prop :=
  let ranges := [(r.cq.toNat, 64 * 2 ^ r.cqN), (r.eq.toNat, 64 * 2 ^ r.eqN), (r.sts.toNat, 64), (r.sig.toNat, 4)]
  ranges.Pairwise (fun x y => x.1 + x.2 ≤ y.1 ∨ y.1 + y.2 ≤ x.1) ∧ ∀ x ∈ ranges, 0x200000000000 ≤ x.1 ∧ x.1 + x.2 ≤ 2 ^ 52

/-- The 64 bytes of the status line of a ring set (the table of R360). -/
def statusLine (r : RingSet) : List Byte :=
  bytesLE 4 r.sqHead.toNat ++ bytesLE 4 r.cqTail.toNat ++ bytesLE 4 r.eqTail.toNat ++ bytesLE 4 r.eqLost.count.toNat
    ++ [if r.stopped then 1 else 0, r.cause, 0, 0] ++ bytesLE 4 r.stopSeq.toNat ++ bytesLE 4 r.wseq.toNat ++ List.replicate 36 0

/-- The 64 bytes of a ring entry: the header of R361 and a payload filled with zeros. -/
def ringEntry (op : Nat) (tag : BitVec 16) (seq : BitVec 32) (payload : List Byte) : List Byte :=
  [BitVec.ofNat 8 op, 5] ++ bytesLE 2 tag.toNat ++ bytesLE 4 seq.toNat ++ (payload ++ List.replicate 56 0).take 56

/-- A status line has followed an entry, and the signal that it makes (R360, R365): what the memory `m'` holds at both places, and what the ring
set has become from `r`. -/
def Told (m' : Memory) (r r' : RingSet) : Prop :=
  memBytes 0 m' r.sts.toNat 64 = statusLine { r with wseq := r.wseq + 1 }
    ∧ (r.signals = true → r.holdoff = false → memBytes 0 m' r.sig.toNat 4 = bytesLE 4 r.sigval.toNat)
    ∧ r' = { r with
        wseq := r.wseq + 1
        holdoff := if r.signals = true ∧ r.holdoff = false then decide (r.coal ≠ 0) else r.holdoff
        sigDue := if r.signals = true ∧ r.holdoff = true then true else r.sigDue }

/-- The link answers with an error no line that a completion, the status line or the signal of a ring set writes (R171). -/
def RingWritable (d : Device) (r : RingSet) : Prop :=
  ∀ l ∈ d.mem.errLines, l ≠ r.sts.toNat / 64 ∧ l ≠ r.sig.toNat / 64 ∧ l ≠ (r.cq.toNat + 64 * (r.cqTail.toNat % 2 ^ r.cqN)) / 64

/-- The Yalken link answers no access of the module with an error (R171). -/
def NoLinkErrors (s : State) : Prop := s.dev.mem.errLines = []

/-- A completion has landed (R370, R371): its entry lies at cq_tail, with the header of its descriptor, the code, the flags and the result; cq_tail
has risen, one reserved entry has been given back, status line and signal have followed, and every other byte of memory is as before. -/
def CompletionLanded (m m' : Memory) (r r' : RingSet) (tag : BitVec 16) (op : BitVec 8) (seq : BitVec 32) (code flags : Nat) (result : List Byte) :
    Prop :=
  let slot := r.cq.toNat + 64 * (r.cqTail.toNat % 2 ^ r.cqN)
  memBytes 0 m' slot 64 = ringEntry op.toNat tag seq ([BitVec.ofNat 8 code, BitVec.ofNat 8 flags] ++ List.replicate 6 0 ++ result)
    ∧ Told m' { r with cqTail := r.cqTail + 1, reserved := r.reserved - 1 } r'
    ∧ ∀ a, (a < slot ∨ slot + 64 ≤ a) → (a < r.sts.toNat ∨ r.sts.toNat + 64 ≤ a) → (a < r.sig.toNat ∨ r.sig.toNat + 4 ≤ a) →
        memGet 0 m' a = memGet 0 m a

/-- The state with the ring set of a context slot and the memory replaced, and nothing else. -/
def withRing (s : State) (slot : CtxSlot) (r : RingSet) (m : Memory) : State :=
  { s with dev := { s.dev with
      ctxs := s.dev.ctxs.map fun c => if c.slot = slot then { c with ring := some r } else c
      mem := { s.dev.mem with bytes := m } } }

/-- A resident context that is not FAULTED and has no run holds its ring's head with a descriptor of an opcode, and the link is up (R359,
R368, R369, R385). -/
def AtHead (s : State) (slot : CtxSlot) (op : Nat) (c : Context) (t : Taken) : Prop :=
  s.dev.ctxAt slot = some c ∧ c.head = some t ∧ t.op.toNat = op ∧ s.dev.underReset (.ctx slot) = false ∧ c.run = none ∧ c.resident = true
    ∧ c.cond ≠ .faulted ∧ s.dev.yalkenUp = true

/-- A descriptor of an opcode holds the head of the admin ring, and the link is up (R359, R374). -/
def AtAdmin (s : State) (op : Nat) (t : Taken) : Prop := s.dev.adminHead = some t ∧ t.op.toNat = op ∧ s.dev.yalkenUp = true

/-- The descriptor at the head of a ring has completed, on the device `d`, with a code, flags and a result (R371). -/
def Completed (s : State) (d : Device) (id : RingId) (t : Taken) (code flags : Nat) (result : List Byte) : State :=
  { s with dev := d.finish id t code flags result }

/-! ### Register writes (R470 to R472) -/

/-- An 8-byte write of the driver. -/
def driverWrite (off : Nat) (v : Nat) : RegAccess := { path := .driver, off := BitVec.ofNat 32 off, wide := true, data := BitVec.ofNat 64 v }

/-- The driver's path serves (R470). -/
def DriverServes (s : State) : Prop := 6 ≤ s.dev.start.stage.toNat ∧ s.dev.yalkenUp = true

/-- The state after a write that is ignored and counted in `HD.DB_STRAY` (R472). -/
def strayed (s : State) : State :=
  { s with dev := { s.dev with hd := { s.dev.hd with dbStray := s.dev.hd.dbStray.add 1 } } }

/-! ### Ports (R336, R353) -/

/-- A port has failed with a code: it waits for its back-off, the code is recorded unless it has been since the last ACTIVE, and session,
replay buffer, credits and the other ports stay (R336, R341). -/
def PortFailed (s t : State) (p : PortNo) (code detail : Nat) : Prop :=
  let x := s.dev.ports[p]
  let y := t.dev.ports[p]
  let told := x.told.contains (BitVec.ofNat 16 code)
  y.state = .backoff ∧ y.fails = Min.min 6 (x.fails + 1) ∧ y.lastFail = BitVec.ofNat 8 code ∧ y.train = (x.train.hit x.trainThr 1).1
    ∧ y.told = (if told then x.told else x.told ++ [BitVec.ofNat 16 code])
    ∧ (told = true → t.dev.dump.log = s.dev.dump.log)
    ∧ (told = false → t.dev.dump.log.getLast? = some (s.dev.err (portIsland p) 12 code 0 none detail))
    ∧ y.session = x.session ∧ y.partner = x.partner ∧ y.replay = x.replay ∧ y.txSeq = x.txSeq ∧ y.rxSeq = x.rxSeq ∧ y.credits = x.credits
    ∧ (∀ o : PortNo, o ≠ p → t.dev.ports[o] = s.dev.ports[o]) ∧ t.dev.dies = s.dev.dies

/-! ### Packets (R342, R351, R353) -/

/-- A packet has left the buffer of its class at a port, and its lines are freed; the credit of class 2 is withheld instead while the context of
its route is saved, pauses or is FAULTED (R326, R330, R342, R354). -/
def PacketFreed (s t : State) (p : PortNo) (k : Packet) (cls : Fin 5) : Prop :=
  let x := s.dev.ports[p]
  let y := t.dev.ports[p]
  let n := k.payload.length + 1
  let kept := fun (c : Context) => cls = 2 ∧ s.dev.routeContext p k = some c ∧ (c.resident = false ∨ c.pausing = true ∨ c.cond = .faulted)
  y.rx[cls] = x.rx[cls].drop n ∧ (∀ o : PortNo, o ≠ p → t.dev.ports[o] = s.dev.ports[o])
    ∧ ((∀ c, ¬ kept c) → y.freed[cls] = x.freed[cls] + n ∧ y.rxHeld[cls] = x.rxHeld[cls] - n)
    ∧ ∀ c, kept c → y.freed[cls] = x.freed[cls] ∧ y.rxHeld[cls] = x.rxHeld[cls] ∧ y.withheld = x.withheld ++ [(c.tag, headerDown k.header, n)]

/-- A packet has been refused with code `code + 1`: its lines are freed, the refusal is counted, and a NAK that names job, peer, message, class and
stream waits in C1, unless 64 wait already (R351, R353, R435). -/
def PacketRefused (s t : State) (p : PortNo) (k : Packet) (cls : Fin 5) (code : Fin 13) : Prop :=
  let x := s.dev.ports[p]
  let y := t.dev.ports[p]
  PacketFreed s t p k cls ∧ (NoLinkErrors s → t.dev.dies = s.dev.dies) ∧ y.refuse = x.refuse.set code (x.refuse[code].add 1)
    ∧ (x.nakQueue.length < 64 → ∃ h, y.nakQueue = x.nakQueue ++ [{ header := h, payload := [] }] ∧ field h 1 2 = 1 ∧ field h 3 1 = 0
        ∧ field h 4 4 = k.job ∧ field h 8 4 = k.epoch ∧ field h 0xC 2 = k.dst ∧ field h 0xE 2 = k.src ∧ field h 0x28 2 = code.val + 1
        ∧ field h 0x2A 4 = k.mseq ∧ field h 0x2E 1 = k.code ∧ field h 0x2F 1 = k.stream)
    ∧ (64 ≤ x.nakQueue.length → y.nakQueue = x.nakQueue ∧ y.nakDrop = x.nakDrop.add 1)

end Sys2Proof.Safety
end

