-- ==== Sys2Proof/Certificates/Slice0/Obligations.lean ====
section
/-! DEFINITION. The statements about the module, one family of commands after another. -/

open Sys2Proof Sys2Proof.Machine Sys2Proof.Safety

/-! ### The Cox: scalar instructions (R120 to R136) -/

/-- R134, the integer rows ADD, SUB, MUL, MULH, DIVU and REMU: when the guard holds on a running Cox, g[d] takes the result of
exact arithmetic brought into 64 bits, and nothing else of the state changes but the cycle from which g[d] is ready (R130: 1, 3 or
34 cycles on); a write to g0 changes nothing (R120). -/
def Sys2Proof.Claims.ScalarArithmeticWritesItsResult : Prop :=
  ∀ (s : State) (cd : Cd) (w : Slot0), ScalarRuns s cd w →
    let a := gRead s cd w.a
    let y := secondOperand s cd w
    exec (.add cd w) s = .next (withG s cd w.d (BitVec.ofNat 64 (a.toNat + y.toNat)) 1)
    ∧ exec (.sub cd w) s = .next (withG s cd w.d (BitVec.ofInt 64 (a.toInt - y.toInt)) 1)
    ∧ exec (.mul cd w) s = .next (withG s cd w.d (BitVec.ofNat 64 (a.toNat * y.toNat)) 3)
    ∧ exec (.mulh cd w) s = .next (withG s cd w.d (BitVec.ofInt 64 (a.toInt * y.toInt / 2 ^ 64)) 3)
    ∧ (y ≠ 0 → exec (.divu cd w) s = .next (withG s cd w.d (BitVec.ofNat 64 (a.toNat / y.toNat)) 34)
        ∧ exec (.remu cd w) s = .next (withG s cd w.d (BitVec.ofNat 64 (a.toNat % y.toNat)) 34))
    ∧ (y = 0 → exec (.divu cd w) s = .next (withG s cd w.d 0xFFFFFFFFFFFFFFFF 34)
        ∧ exec (.remu cd w) s = .next (withG s cd w.d a 34))

/-- R134, the rows AND, OR, XOR, SHL, SHR, SHA, CLZ and POPC: the result bit by bit, or by exact arithmetic with the count
y[5:0]; the frame is that of the integer rows. -/
def Sys2Proof.Claims.ScalarLogicAndShiftWriteTheirResult : Prop :=
  ∀ (s : State) (cd : Cd) (w : Slot0), ScalarRuns s cd w →
    let a := gRead s cd w.a
    let y := secondOperand s cd w
    let n := y.toNat % 64
    (∃ v : W64, exec (.andS cd w) s = .next (withG s cd w.d v 1) ∧ ∀ i < 64, v.getLsbD i = (a.getLsbD i && y.getLsbD i))
    ∧ (∃ v : W64, exec (.orS cd w) s = .next (withG s cd w.d v 1) ∧ ∀ i < 64, v.getLsbD i = (a.getLsbD i || y.getLsbD i))
    ∧ (∃ v : W64, exec (.xorS cd w) s = .next (withG s cd w.d v 1) ∧ ∀ i < 64, v.getLsbD i = (a.getLsbD i != y.getLsbD i))
    ∧ exec (.shl cd w) s = .next (withG s cd w.d (BitVec.ofNat 64 (a.toNat * 2 ^ n)) 1)
    ∧ exec (.shr cd w) s = .next (withG s cd w.d (BitVec.ofNat 64 (a.toNat / 2 ^ n)) 1)
    ∧ exec (.sha cd w) s = .next (withG s cd w.d (BitVec.ofInt 64 (a.toInt / 2 ^ n)) 1)
    ∧ exec (.clz cd w) s = .next (withG s cd w.d (BitVec.ofNat 64 (64 - a.toNat.size)) 1)
    ∧ exec (.popc cd w) s = .next (withG s cd w.d (BitVec.ofNat 64 ((List.finRange 64).countP fun i => a.getLsbD i)) 1)

/-- R134, the rows MIN, MAX, LI, LIH, MOVP and SEL; SEL with i = 0 as its row asks. -/
def Sys2Proof.Claims.ScalarSelectsAndImmediatesWriteTheirResult : Prop :=
  ∀ (s : State) (cd : Cd) (w : Slot0), ScalarRuns s cd w →
    let a := gRead s cd w.a
    let y := secondOperand s cd w
    exec (.min cd w) s = .next (withG s cd w.d (BitVec.ofInt 64 (Min.min a.toInt y.toInt)) 1)
    ∧ exec (.max cd w) s = .next (withG s cd w.d (BitVec.ofInt 64 (Max.max a.toInt y.toInt)) 1)
    ∧ exec (.li cd w) s = .next (withG s cd w.d (BitVec.ofInt 64 w.imm.toInt) 1)
    ∧ exec (.lih cd w) s
        = .next (withG s cd w.d (BitVec.ofNat 64 ((gRead s cd w.d).toNat % 2 ^ 32 + w.imm.toNat % 2 ^ 32 * 2 ^ 32)) 1)
    ∧ exec (.movp cd w) s = .next (withG s cd w.d (if pRead s cd (w.a.val % 8) then 1 else 0) 1)
    ∧ (w.i = false → exec (.sel cd w) s
        = .next (withG s cd w.d (if pRead s cd (w.imm.toNat % 8) then a else gRead s cd w.b) 1))

/-- The slot-0 arithmetic, logic, shift, select and immediate rows write their result and change nothing else. -/
def Obligations.ScalarArithmeticLogicAndSelects : Prop :=
  Sys2Proof.Claims.ScalarArithmeticWritesItsResult ∧ Sys2Proof.Claims.ScalarLogicAndShiftWriteTheirResult ∧ Sys2Proof.Claims.ScalarSelectsAndImmediatesWriteTheirResult

/-- R134, the compares and PLOG: p[d[2:0]] takes the truth of the comparison, or the bit of the immediate that the two predicates
name, and nothing else of the state changes; a write to p0 changes nothing (R120). NOP changes nothing. -/
def Sys2Proof.Claims.ScalarComparesWriteTheirPredicate : Prop :=
  ∀ (s : State) (cd : Cd) (w : Slot0), ScalarRuns s cd w →
    let a := gRead s cd w.a
    let y := secondOperand s cd w
    let d := w.d.val % 8
    exec (.cmpeq cd w) s = .next (withP s cd d (decide (a = y)))
    ∧ exec (.cmpne cd w) s = .next (withP s cd d (decide (a ≠ y)))
    ∧ exec (.cmplt cd w) s = .next (withP s cd d (decide (a.toInt < y.toInt)))
    ∧ exec (.cmple cd w) s = .next (withP s cd d (decide (a.toInt ≤ y.toInt)))
    ∧ exec (.cmpltu cd w) s = .next (withP s cd d (decide (a.toNat < y.toNat)))
    ∧ exec (.cmpleu cd w) s = .next (withP s cd d (decide (a.toNat ≤ y.toNat)))
    ∧ exec (.plog cd w) s
        = .next (withP s cd d (w.imm.getLsbD (2 * (pRead s cd (w.a.val % 8)).toNat + (pRead s cd (w.b.val % 8)).toNat)))
    ∧ exec (.nopS cd w) s = .next s

/-- R132 and R134: RDS of a register without a mark copies it into g[d]; RDS of a marked register waits, so the state stays. -/
def Sys2Proof.Claims.RdsReadsAnUnmarkedRegister : Prop :=
  ∀ (s : State) (cd : Cd) (w : Slot0), ScalarRuns s cd w →
    let k := s.dev.dies[cd].cox
    let r : Fin 16 := ⟨w.a.val % 16, Nat.mod_lt _ (by decide)⟩
    (k.pend[r] = 0 → exec (.rds cd w) s = .next (withG s cd w.d k.s[r] 1))
    ∧ (k.pend[r] ≠ 0 → exec (.rds cd w) s = .next s)

/-- R122: RDC of a listed index writes the run constant of the table (the rank where a reduction is configured). -/
def Sys2Proof.Claims.RdcReadsRunConstants : Prop :=
  ∀ (s : State) (cd : Cd) (w : Slot0) (c : Context), ScalarRunsIn s cd w c →
    let r := fun (n : Nat) (v : W64) => w.imm.toNat % 256 = n → exec (.rdc cd w) s = .next (withG s cd w.d v 1)
    r 0 (BitVec.ofNat 64 c.tag.toNat)
    ∧ r 1 (BitVec.ofNat 64 cd.val)
    ∧ r 2 (BitVec.ofNat 64 (cd.val - c.first))
    ∧ r 3 (BitVec.ofNat 64 (2 ^ c.logM))
    ∧ r 4 (BitVec.ofNat 64 (le (s.dev.readAs (c.domOf c.commitLine.toNat) (c.commitLine.toNat + 4) 4)))
    ∧ (∀ q, c.reduce = some q → r 5 (BitVec.ofNat 64 q.rank))
    ∧ r 6 (if s.dev.code = .a2b ∨ s.dev.code = .a2c then 126976 else 63488)
    ∧ r 7 5
    ∧ ∀ j : Fin 8, r (8 + j.val) s.dev.dies[cd].cox.args[j]

/-- R134: a scalar instruction whose guard does not hold has no effect, whichever it is. -/
def Sys2Proof.Claims.ScalarWithoutItsGuardDoesNothing : Prop :=
  ∀ (s : State) (cd : Cd) (w : Slot0), pRead s cd w.gp.val = w.gn →
    ∀ i ∈ scalarRows cd w, exec i s = .next s

/-- Compares, PLOG and NOP, RDS and RDC, and a guard that does not hold. -/
def Obligations.ScalarComparesAndSpecialReads : Prop :=
  Sys2Proof.Claims.ScalarComparesWriteTheirPredicate ∧ Sys2Proof.Claims.RdsReadsAnUnmarkedRegister ∧ Sys2Proof.Claims.RdcReadsRunConstants ∧ Sys2Proof.Claims.ScalarWithoutItsGuardDoesNothing

/-! ### The Cox: memory, branches, waits and stops (R124 to R139) -/

/-- R124, R126, R134: with i = 1 and an aligned address in the plan store or scratch, a load writes g[d] with the bytes there,
zero-extended, or sign-extended for LD32; memory stays. -/
def Sys2Proof.Claims.LocalLoadsReadPlanStoreAndScratch : Prop :=
  ∀ (s : State) (cd : Cd) (w : Slot0), ScalarRuns s cd w → w.i = true →
    let a := localAddress s cd w
    let v := fun n => le ((List.range n).map fun j => localByte s cd (a + j))
    (a < 0x140000 → a % 8 = 0 → exec (.ld64 cd w) s = .next (withG s cd w.d (BitVec.ofNat 64 (v 8)) 3))
    ∧ (a < 0x140000 → a % 4 = 0 →
        exec (.ld32 cd w) s = .next (withG s cd w.d (BitVec.ofInt 64 (BitVec.ofNat 32 (v 4)).toInt) 3)
        ∧ exec (.ld32u cd w) s = .next (withG s cd w.d (BitVec.ofNat 64 (v 4)) 3))
    ∧ (a < 0x140000 → a % 2 = 0 → exec (.ld16u cd w) s = .next (withG s cd w.d (BitVec.ofNat 64 (v 2)) 3))

/-- R125, R130, R134: an LDD with i = 1 whose address is aligned in the Cox's own bonded SRAM window and admitted by the Pantry, in a word
without an error (R172), writes g[d] with the bytes there, ready 20 cycles on. -/
def Sys2Proof.Claims.BondedSramLoadsReadTheirBytes : Prop :=
  ∀ (s : State) (cd : Cd) (w : Slot0) (c : Context), ScalarRunsIn s cd w c → w.i = true →
    let a := localAddress s cd w
    sramOf cd.val ≤ a → a < sramOf cd.val + 0x80000000 → s.dev.mem.ueWords.contains (a / 8) = false →
    (∃ i, s.dev.allowed c cd .cox false (a / 64 * 64) = .ok i) →
    let v := fun n => BitVec.ofNat 64 (le ((List.range n).map fun j => memGet 0 s.dev.mem.bytes (a + j)))
    (a % 8 = 0 → exec (.ldd64 cd w) s = .next (withG s cd w.d (v 8) 20))
    ∧ (a % 4 = 0 → exec (.ldd32u cd w) s = .next (withG s cd w.d (v 4) 20))

/-- Loads of the plan store, of scratch and of the own bonded SRAM read their bytes. -/
def Obligations.CoxLoadsReadTheirBytes : Prop :=
  Sys2Proof.Claims.LocalLoadsReadPlanStoreAndScratch ∧ Sys2Proof.Claims.BondedSramLoadsReadTheirBytes

/-- R124, R126, R134: with i = 1 and an aligned address in scratch, a store writes the low 8, 4 or 2 bytes of g[b] there, lowest
byte first; every other byte of the plan store and scratch reads as before, and nothing else of the state changes. -/
def Sys2Proof.Claims.LocalStoresWriteScratchAndNothingElse : Prop :=
  ∀ (s : State) (cd : Cd) (w : Slot0), MemoriesOk s.dev → ScalarRuns s cd w → w.i = true →
    let a := localAddress s cd w
    let stored := fun (i : Instr) (n : Nat) => 0x100000 ≤ a → a < 0x140000 → a % n = 0 →
      ∃ m : Memory, exec i s = .next (withLocal s cd m)
        ∧ (∀ j < n, memGet 0 m (a + j) = BitVec.ofNat 8 ((gRead s cd w.b).toNat / 256 ^ j))
        ∧ (∀ x, (x < a ∨ a + n ≤ x) → memGet 0 m x = localByte s cd x)
    stored (.st64 cd w) 8 ∧ stored (.st32 cd w) 4 ∧ stored (.st16 cd w) 2

/-- R125, R127, R130, R134: an STD with i = 1 whose address is aligned in the own window and admitted writes the low 8, 4 or 2 bytes
of g[b] there; every other byte of the device's memories reads as before, and no register changes. -/
def Sys2Proof.Claims.BondedSramStoresWriteTheirBytes : Prop :=
  ∀ (s : State) (cd : Cd) (w : Slot0) (c : Context), MemoriesOk s.dev → ScalarRunsIn s cd w c → w.i = true →
    let a := localAddress s cd w
    sramOf cd.val ≤ a → a < sramOf cd.val + 0x80000000 →
    (∃ i, s.dev.allowed c cd .cox true (a / 64 * 64) = .ok i) →
    let stored := fun (i : Instr) (n : Nat) => a % n = 0 → ∃ t : State, exec i s = .next t
      ∧ (∀ j < n, memGet 0 t.dev.mem.bytes (a + j) = BitVec.ofNat 8 ((gRead s cd w.b).toNat / 256 ^ j))
      ∧ (∀ x, (x < a ∨ a + n ≤ x) → memGet 0 t.dev.mem.bytes x = memGet 0 s.dev.mem.bytes x)
      ∧ (∀ r, gRead t cd r = gRead s cd r) ∧ (∀ r, pRead t cd r = pRead s cd r)
      ∧ t.dev.dies[cd].loc = s.dev.dies[cd].loc ∧ t.dev.ctxs = s.dev.ctxs ∧ t.pending = s.pending
      ∧ s.dev.dies[cd].cox.now + 20 ≤ t.dev.dies[cd].cox.landed
    stored (.std64 cd w) 8 ∧ stored (.std32 cd w) 4 ∧ stored (.std16 cd w) 2

/-- Stores to scratch and to the own bonded SRAM write their bytes and nothing else. -/
def Obligations.CoxStoresWriteTheirBytesAndNothingElse : Prop :=
  Sys2Proof.Claims.LocalStoresWriteScratchAndNothingElse ∧ Sys2Proof.Claims.BondedSramStoresWriteTheirBytes

/-- R124, R126, R139, R141: with i = 1, a load outside the plan store and scratch, and a store outside scratch, stops the Cox with
COX_BOUNDS; an address inside but misaligned stops it with COX_ALIGN, bounds being judged first. The record carries the address
without the DPA-valid flag. What the stop does is said by CoxFaultStopsItsCoxAndFaultsItsContext. -/
def Sys2Proof.Claims.LocalAddressFaultsStopTheCox : Prop :=
  ∀ (s : State) (cd : Cd) (w : Slot0) (c : Context), ScalarRunsIn s cd w c → w.i = true →
    let a := localAddress s cd w
    let stops := fun (i : Instr) (code : Nat) =>
      exec i s = .next { s with dev := s.dev.coxFault c cd (coxRecord s cd c code false a 0) none }
    (∀ i ∈ [(Instr.ld64 cd w, 8), (.ld32 cd w, 4), (.ld32u cd w, 4), (.ld16u cd w, 2)],
      (0x140000 ≤ a → stops i.1 2) ∧ (a < 0x140000 → a % i.2 ≠ 0 → stops i.1 3))
    ∧ (∀ i ∈ [(Instr.st64 cd w, 8), (.st32 cd w, 4), (.st16 cd w, 2)],
      (a < 0x100000 ∨ 0x140000 ≤ a → stops i.1 2) ∧ (0x100000 ≤ a → a < 0x140000 → a % i.2 ≠ 0 → stops i.1 3))

/-- R130, R139: a fault of the Cox stops it at once and puts its context in FAULTED; its predicates, s-registers and pc stay, and its g-registers
but for loads in flight, which still land; the Coxes of the other dies stay but for the fault on its way to them, and the power stage. -/
def Sys2Proof.Claims.CoxFaultStopsItsCoxAndFaultsItsContext : Prop :=
  ∀ (d : Device) (c : Context) (cd : Cd) (r : ErrRec) (trap : Option Nat), d.ctxAt c.slot = some c →
    let e := d.coxFault c cd r trap
    let k := d.dies[cd].cox
    let k' := e.dies[cd].cox
    k'.run = .idle ∧ (∃ c', e.ctxAt c.slot = some c' ∧ c'.cond = .faulted ∧ c'.tag = c.tag)
    ∧ (k.bus = [] → k'.g = k.g) ∧ k'.bus = [] ∧ k'.p = k.p ∧ k'.s = k.s ∧ k'.pc = k.pc ∧ k'.counters = k.counters
    ∧ (∀ o : Cd, o ≠ cd → e.dies[o].cox = d.dies[o].cox ∧ e.dies[o].loc = d.dies[o].loc)
    ∧ e.dies[cd].loc = d.dies[cd].loc ∧ e.pd = d.pd

/-- R134, R136, R141: a register target outside the code section stops the Cox with COX_BRANCH, the low 14 bits of the target in the record;
the target of a CALL is read after its write of g[d]. -/
def Sys2Proof.Claims.BranchOutsideTheCodeStopsTheCox : Prop :=
  ∀ (s : State) (cd : Cd) (w : Slot0) (c : Context), ScalarRunsIn s cd w c → w.i = false →
    let target := fun (s : State) => (gRead s cd w.a).toNat
    let linked := withG s cd w.d (BitVec.ofNat 64 (s.dev.dies[cd].cox.pc.toNat + 1)) 1
    let stops := fun (i : Instr) (t : Nat) =>
      exec i s = .next { s with dev := s.dev.coxFault c cd (coxRecord s cd c 4 false 0 (t % 2 ^ 14)) none }
    (s.dev.dies[cd].codeStrokes ≤ target s → stops (.br cd w) (target s))
    ∧ (s.dev.dies[cd].codeStrokes ≤ target linked → stops (.call cd w) (target linked))

/-- R139, R141: TRAP stops the Cox at once with COX_TRAP: the record carries the plan code imm[15:0], and so does the stop. -/
def Sys2Proof.Claims.TrapStopsTheRunWithItsCode : Prop :=
  ∀ (s : State) (cd : Cd) (w : Slot0) (c : Context), ScalarRunsIn s cd w c →
    let t := w.imm.toNat % 65536
    exec (.trap cd w) s = .next { s with dev := s.dev.coxFault c cd (coxRecord s cd c 5 false 0 t) (some t) }

/-- COX_BOUNDS, COX_ALIGN, COX_BRANCH and TRAP stop the Cox and put its context in FAULTED. -/
def Obligations.CoxFaultsStopTheRun : Prop :=
  Sys2Proof.Claims.LocalAddressFaultsStopTheCox ∧ Sys2Proof.Claims.CoxFaultStopsItsCoxAndFaultsItsContext ∧ Sys2Proof.Claims.BranchOutsideTheCodeStopsTheCox ∧ Sys2Proof.Claims.TrapStopsTheRunWithItsCode

/-- R120, R131, R134, R136: a branch to a stroke of the code section moves the pc there and leaves two cycles without a stroke; CALL first
writes pc + 1 into g[d], and reads a target register after that; DBNZ lowers g[d] and branches while the new g[d], which is 0 for
d = 0, is not zero. -/
def Sys2Proof.Claims.BranchesMoveThePc : Prop :=
  ∀ (s : State) (cd : Cd) (w : Slot0), ScalarRuns s cd w →
    let k := s.dev.dies[cd].cox
    let target := fun (s : State) => (if w.i then BitVec.ofInt 64 w.imm.toInt else gRead s cd w.a).toNat
    let linked := withG s cd w.d (BitVec.ofNat 64 (k.pc.toNat + 1)) 1
    let v := gRead s cd w.d - 1
    (target s < s.dev.dies[cd].codeStrokes → exec (.br cd w) s = .next (jumped s cd (target s)))
    ∧ (target linked < s.dev.dies[cd].codeStrokes → exec (.call cd w) s = .next (jumped linked cd (target linked)))
    ∧ (w.i = true → (v = 0 ∨ w.d = 0) → exec (.dbnz cd w) s = .next (withG s cd w.d v 1))
    ∧ (w.i = true → v ≠ 0 → w.d ≠ 0 → target s < s.dev.dies[cd].codeStrokes →
      exec (.dbnz cd w) s = .next (jumped (withG s cd w.d v 1) cd (target s)))

/-- R134, R139: WAITQ starts the wait for the queues of its mask, for the commands issued so far; HALT starts the wait for all six
and leaves the running state; neither changes a register, memory or another die. -/
def Sys2Proof.Claims.WaitqAndHaltStartTheirWait : Prop :=
  ∀ (s : State) (cd : Cd) (w : Slot0), ScalarRuns s cd w →
    let k := s.dev.dies[cd].cox
    exec (.waitq cd w) s = .next (withCox s cd { k with waiting := some (BitVec.ofNat 6 (w.imm.toNat % 64), k.issued) })
    ∧ exec (.halt cd w) s = .next (withCox s cd { k with run := .haltWait, waiting := some (0b111111, k.issued) })

/-- R130, R139: the HALT wait ends when no command of the six queues that it waits for is left: the Cox goes idle and its tally is cleared, but
in an update segment, whose counts run on (the model's choice, log entry 51); its counters stay, and its registers but for loads in flight, which
land; until then nothing happens. -/
def Sys2Proof.Claims.HaltEndsTheRunWhenItsQueuesAreDone : Prop :=
  ∀ (s : State) (cd : Cd) (c : Context) (u : Run) (m : BitVec 6) (n : Nat),
    let x := s.dev.dies[cd]
    s.dev.residentOf cd = some c → c.run = some u → x.cox.run = .haltWait → x.cox.waiting = some (m, n) →
    s.dev.preempting c = false → c.held = false →
    ((x.waitedFor m n).isEmpty = true → ∃ t, exec (.runComplete cd) s = .next t
      ∧ t.dev.dies[cd].cox.run = .idle ∧ t.dev.dies[cd].tally = (if u.keepTally then x.tally else {})
      ∧ t.dev.dies[cd].cox.g = (s.dev.busFlush cd).dies[cd].cox.g ∧ (x.cox.bus = [] → t.dev.dies[cd].cox.g = x.cox.g)
      ∧ t.dev.dies[cd].cox.counters = x.cox.counters ∧ t.dev.dies[cd].loc = x.loc)
    ∧ ((x.waitedFor m n).isEmpty = false → exec (.runComplete cd) s = .next s)

/-- BR, CALL, DBNZ, WAITQ and HALT, and the end of a run. -/
def Obligations.BranchesWaitsAndHalt : Prop :=
  Sys2Proof.Claims.BranchesMoveThePc ∧ Sys2Proof.Claims.WaitqAndHaltStartTheirWait ∧ Sys2Proof.Claims.HaltEndsTheRunWhenItsQueuesAreDone

/-! ### The Cox: issue and stops (R127 to R140, R159) -/

/-- R129, R134, R138: a stroke without engine commands whose slot-0 valid bit is clear issues as NOP: the pc and the clock advance by one,
strokes and plan_cycles count one more (saturating), and no register, predicate, s-register, mark, queue or memory changes. -/
def Sys2Proof.Claims.EmptyStrokeIssuesAsNop : Prop :=
  ∀ (s : State) (cd : Cd) (c : Context), CoxIssues s cd c →
    let k := s.dev.dies[cd].cox
    (strokeWord s cd k.pc.toNat 7 / 256) % 128 = 0 →
    ∃ k' : Cox, exec (.strokeIssue cd) s = .next (withCox s cd k')
      ∧ k'.pc = k.pc + 1 ∧ k'.now = k.now + 1 ∧ k'.g = k.g ∧ k'.p = k.p ∧ k'.s = k.s ∧ k'.pend = k.pend ∧ k'.run = .running
      ∧ k'.counters[0].toNat = min (k.counters[0].toNat + 1) (2 ^ 64 - 1)
      ∧ k'.counters[1].toNat = min (k.counters[1].toNat + 1) (2 ^ 64 - 1)
      ∧ (∀ j : Fin 14, 2 ≤ j.val → k'.counters[j] = k.counters[j])
      ∧ k'.fell = decide (s.dev.dies[cd].codeStrokes ≤ k.pc.toNat + 1)

/-- R129, R133, R134: a stroke whose only valid slot is slot 0, holding an ADD whose guard holds and whose sources are ready, issues: g[d] takes the
sum of the fields the word names, and the pc advances. -/
def Sys2Proof.Claims.StrokeIssueExecutesSlotZero : Prop :=
  ∀ (s : State) (cd : Cd) (c : Context), CoxIssues s cd c →
    let k := s.dev.dies[cd].cox
    let h := strokeWord s cd k.pc.toNat 7
    let v := strokeWord s cd k.pc.toNat 0
    let a : Fin 32 := idx 32 (v / 2 ^ 17)
    let b : Fin 32 := idx 32 (v / 2 ^ 22)
    let d : Fin 32 := idx 32 (v / 2 ^ 12)
    (h / 256) % 128 = 1 → v % 256 = 1 → (v / 2 ^ 27) % 2 = 0 → pRead s cd (v / 2 ^ 8) = decide ((v / 2 ^ 11) % 2 = 0) →
    k.ready[a] ≤ k.now → k.ready[b] ≤ k.now →
    ∃ k' : Cox, exec (.strokeIssue cd) s = .next (withCox s cd k')
      ∧ k'.pc = k.pc + 1 ∧ (d ≠ 0 → k'.g = k.g.set d (gRead s cd a + gRead s cd b)) ∧ (d = 0 → k'.g = k.g)
      ∧ k'.p = k.p ∧ k'.s = k.s ∧ k'.pend = k.pend

/-- R129, R132, R147 to R149, R153: a stroke whose only valid slot is one of slots 1 to 6, holding a command whose guard holds and whose queue
has a credit, issues once every earlier store has landed and no s-register that the command writes is marked by a command of another queue:
the command enters the back of its queue with the values of g[ga] and g[gb], each s-register that it writes takes the mark of its slot, and no
other queue and no other mark changes. -/
def Sys2Proof.Claims.StrokeIssuePlacesTheEngineCommand : Prop :=
  ∀ (s : State) (cd : Cd) (c : Context) (j : Nat), CoxIssues s cd c → 1 ≤ j → j ≤ 6 →
    let x := s.dev.dies[cd]
    let k := x.cox
    let v := strokeWord s cd k.pc.toNat j
    let q : QueueId := if j = 1 then idx 12 (v / 2 ^ 40 % 4) else if j = 2 then 4 else if j = 3 then idx 12 (5 + v / 2 ^ 40 % 4) else idx 12 (j + 5)
    (strokeWord s cd k.pc.toNat 7 / 256) % 128 = 2 ^ j →
    (∀ r ∈ sNamed s cd j v, k.pend[r] = 0 ∨ (k.pend[r].toNat = j ∧ j ≠ 1 ∧ j ≠ 3)) →
    pRead s cd (v / 2 ^ 6) = decide (v / 2 ^ 9 % 2 = 0) → k.landed ≤ k.now → x.queues[q].length < x.depth[q] →
    ∃ (t : State) (e : QEntry), exec (.strokeIssue cd) s = .next t
      ∧ t.dev.dies[cd].queues = x.queues.set q (x.queues[q] ++ [e])
      ∧ e.word.toNat = v ∧ e.ga = gRead s cd (idx 32 (v / 2 ^ 17)) ∧ e.gb = gRead s cd (idx 32 (v / 2 ^ 22)) ∧ e.no = k.issued
      ∧ e.started = false
      ∧ (∀ r ∈ sNamed s cd j v, t.dev.dies[cd].cox.pend[r].toNat = j ∧ t.dev.dies[cd].cox.pendNo[r] = k.issued)
      ∧ (∀ r, r ∉ sNamed s cd j v → t.dev.dies[cd].cox.pend[r] = k.pend[r] ∧ t.dev.dies[cd].cox.pendNo[r] = k.pendNo[r])
      ∧ t.dev.dies[cd].cox.s = k.s ∧ t.dev.dies[cd].cox.g = k.g ∧ t.dev.dies[cd].cox.pc = k.pc + 1
      ∧ t.dev.mem = s.dev.mem ∧ t.dev.ctxs = s.dev.ctxs ∧ (∀ o : Cd, o ≠ cd → t.dev.dies[o] = s.dev.dies[o])

/-- R127, R128, R130, R228: an LDD64 in slot 0 of a stroke that issues reads bonded SRAM 19 cycles later, for g[d] to be ready in the 20th; at
the start of a cycle the accesses that have come due are made, and a stroke then issues from the state that they leave. A load that is made
writes its register with the bytes as they stand then, a store writes its bytes. No cycle passes in a resume lead (the model's choice, log
entry 72), and a later result to the register of a load in flight takes its place (the model's choice, log entry 71). -/
def Sys2Proof.Claims.DpaAccessesReachSramAfterTheirIssue : Prop :=
  (∀ (s : State) (cd : Cd) (c : Context) (i : Fin 64), CoxIssues s cd c →
    let k := s.dev.dies[cd].cox
    let w := slot0Of (strokeWord s cd k.pc.toNat 0)
    let a := localAddress s cd w
    strokeWord s cd k.pc.toNat 7 / 256 % 128 = 1 → strokeWord s cd k.pc.toNat 0 % 256 = 0x38 → w.i = true → pRead s cd w.gp.val ≠ w.gn →
    k.ready[w.a] ≤ k.now → a % 8 = 0 → sramOf cd.val ≤ a → a < sramOf cd.val + 0x80000000 → s.dev.allowed c cd .cox false (a / 64 * 64) = .ok i →
    ∃ k' : Cox, exec (.strokeIssue cd) s = .next (withCox s cd k') ∧ k'.pc = k.pc + 1 ∧ k'.now = k.now + 1
      ∧ k'.bus = overtaken k.bus w.d ++ [⟨k.now + 19, BitVec.ofNat 52 a, 8, pDomain c.pantry[i], none, w.d, k.pc⟩]
      ∧ (w.d ≠ 0 → k'.ready[w.d] = k.now + 20) ∧ ∀ r, r ≠ w.d → k'.g[r] = k.g[r] ∧ k'.ready[r] = k.ready[r])
  ∧ (∀ (s : State) (cd : Cd) (c : Context), s.dev.residentOf cd = some c → s.dev.dies[cd].cox.run ≠ .idle → s.dev.preempting c = false →
    c.held = false →
    (s.dev.inLead c cd = true → exec (.strokeIssue cd) s = .next s)
    ∧ (s.dev.inLead c cd = false →
      exec (.strokeIssue cd) s = exec (.strokeIssue cd) { s with dev := s.dev.busUntil cd s.dev.dies[cd].cox.now }))
  ∧ ∀ (d : Device) (cd : Cd) (b : BusOp) (t : Nat), MemoriesOk d → d.dies[cd].cox.bus = [b] →
    let a := b.dpa.toNat
    let k := d.dies[cd].cox
    let e := d.busUntil cd t
    sramOf cd.val ≤ a → a + b.bytes ≤ sramOf cd.val + 0x80000000 →
    (t < b.due → e = d)
    ∧ (b.due ≤ t → b.store = none → d.dataCode a b.bytes = none → e.dies[cd].cox.bus = [] ∧ e.mem = d.mem ∧
      e.dies[cd].cox.g = if b.d = 0 then k.g
        else k.g.set b.d (BitVec.ofNat 64 (le ((List.range b.bytes).map fun j => memGet 0 d.mem.bytes (a + j)))))
    ∧ (b.due ≤ t → ∀ bs, b.store = some bs → bs.length = b.bytes → e.dies[cd].cox.g = k.g
      ∧ (∀ j < bs.length, memGet 0 e.mem.bytes (a + j) = bs.getD j 0)
      ∧ ∀ x, (x < a ∨ a + bs.length ≤ x) → memGet 0 e.mem.bytes x = memGet 0 d.mem.bytes x)

/-- An empty stroke, a stroke with a slot-0 ADD or LDD64 and a stroke with an engine command issue. -/
def Obligations.StrokesIssueTheirSlots : Prop :=
  Sys2Proof.Claims.EmptyStrokeIssuesAsNop ∧ Sys2Proof.Claims.StrokeIssueExecutesSlotZero ∧ Sys2Proof.Claims.StrokeIssuePlacesTheEngineCommand ∧ Sys2Proof.Claims.DpaAccessesReachSramAfterTheirIssue

/-- R131, R137, R138: in the two cycles after a taken branch no stroke issues, and the cycle counts in bubble and plan_cycles alone; while
the context is held by Easy-all it counts in easy_all alone. With no access in flight that reaches bonded SRAM in the cycle, nothing but
counters and the Cox's clock and stall note changes. -/
def Sys2Proof.Claims.BubbleAndEasyAllCyclesAreCounted : Prop :=
  ∀ (s : State) (cd : Cd) (c : Context),
    let k := s.dev.dies[cd].cox
    s.dev.residentOf cd = some c → k.run = .running → s.dev.preempting c = false →
    (c.held = false → s.dev.inLead c cd = false → (∀ b ∈ k.bus, k.now < b.due) → k.fell = false → k.now < k.bubble →
      ∃ k' : Cox, exec (.strokeIssue cd) s = .next (withCox s cd k')
        ∧ k'.counters[11].toNat = min (k.counters[11].toNat + 1) (2 ^ 64 - 1)
        ∧ k'.counters[1].toNat = min (k.counters[1].toNat + 1) (2 ^ 64 - 1)
        ∧ (∀ j : Fin 14, j ≠ 11 → j ≠ 1 → k'.counters[j] = k.counters[j])
        ∧ k'.pc = k.pc ∧ k'.g = k.g ∧ k'.p = k.p ∧ k'.s = k.s ∧ k'.pend = k.pend ∧ k'.now = k.now + 1)
    ∧ (c.held = true → k.bus = [] →
      ∃ k' : Cox, exec (.strokeIssue cd) s = .next (withCox s cd k')
        ∧ k'.counters[13].toNat = min (k.counters[13].toNat + 1) (2 ^ 64 - 1)
        ∧ (∀ j : Fin 14, j ≠ 13 → k'.counters[j] = k.counters[j])
        ∧ k'.pc = k.pc ∧ k'.g = k.g ∧ k'.p = k.p ∧ k'.s = k.s ∧ k'.pend = k.pend ∧ k'.now = k.now)

/-- R159: a credit stall that has run longer than the stall bound of its queue gives one PLAN_STALL event (0x81) on the context's event ring, and
no second one until a stroke issues. -/
def Sys2Proof.Claims.PlanStallIsReportedOnce : Prop :=
  ∀ (s : State) (cd : Cd) (c : Context),
    let x := s.dev.dies[cd]
    let q := x.stalledQueue
    s.dev.residentOf cd = some c → x.cox.run = .running → x.cox.stallItem = 5 →
    (x.bound[q] ≠ 0 → x.bound[q] < x.cox.creditRun → x.cox.stallTold = false →
      ∃ p : List Byte, exec (.planStall cd) s
        = .next { s with dev := ((withCox s cd { x.cox with stallTold := true }).dev).event (.ctx c.slot) 0x81 p }
        ∧ p.take 4 = [5, BitVec.ofNat 8 cd.val, BitVec.ofNat 8 c.tag.toNat, BitVec.ofNat 8 (c.tag.toNat / 256)])
    ∧ (x.cox.stallTold = true → exec (.planStall cd) s = .next s)

/-- R128: when the error response of a DPA load arrives, the context is FAULTED with the memory error of its line, and the Cox stops with reason
COX_FAULT; no register changes but by other loads in flight, so the destination of the load is not written. -/
def Sys2Proof.Claims.LddErrorStopsTheCox : Prop :=
  ∀ (s : State) (cd : Cd) (c : Context) (l : LoadErr), s.dev.residentOf cd = some c → s.dev.ctxAt c.slot = some c →
    s.dev.dies[cd].cox.loadErr = some l →
    ∃ t, exec (.lddErrorResponse cd) s = .next t ∧ t.dev.dies[cd].cox.run = .idle
      ∧ (∃ c', t.dev.ctxAt c.slot = some c' ∧ c'.cond = .faulted)
      ∧ (s.dev.dies[cd].cox.bus = [] → t.dev.dies[cd].cox.g = s.dev.dies[cd].cox.g) ∧ t.dev.dies[cd].cox.s = s.dev.dies[cd].cox.s
      ∧ t.dev.dies[cd].cox.pc = s.dev.dies[cd].cox.pc ∧ t.dev.dies[cd].loc = s.dev.dies[cd].loc ∧ t.pending = s.pending

/-- R130, R139, R195: a fault on its way to a CD stops its engines, and stops a Cox that is not idle; the registers stay but for loads in flight,
which land, and the fault is no longer on its way. -/
def Sys2Proof.Claims.FaultReachesItsCox : Prop :=
  ∀ (s : State) (cd : Cd) (c : Context) (r : ErrRec), s.dev.residentOf cd = some c → s.dev.dies[cd].faultDue = some r →
    c.run.isSome → ∃ t, exec (.faultReachesCox cd) s = .next t
      ∧ t.dev.dies[cd].frozen = true ∧ t.dev.dies[cd].cox.run = .idle
      ∧ (s.dev.dies[cd].cox.bus = [] → t.dev.dies[cd].cox.g = s.dev.dies[cd].cox.g) ∧ t.dev.dies[cd].queues = s.dev.dies[cd].queues
      ∧ t.dev.dies[cd].loc = s.dev.dies[cd].loc ∧ t.pending = s.pending

/-- Stall cycles are counted, and PLAN_STALL, a load error and a fault reach the Cox. -/
def Obligations.StallsErrorsAndFaultsReachTheCox : Prop :=
  Sys2Proof.Claims.BubbleAndEasyAllCyclesAreCounted ∧ Sys2Proof.Claims.PlanStallIsReportedOnce ∧ Sys2Proof.Claims.LddErrorStopsTheCox ∧ Sys2Proof.Claims.FaultReachesItsCox

/-! ### Matrix arrays (R57 to R88, R151, R152) -/

/-- R62, R72, R73, R151: a legal CHUNK whose stationary tile is in the weight buffer and whose rows can be read starts: a first chunk takes the
idle buffer that the last tile did not use, a later chunk goes on in its own; every element takes the products of its row and column at
the anchor's resolution (zero before a first chunk); the tile it used leaves the weight buffer, the other buffer and every memory
stay. Stated for an MA without an armed Sieve sample. -/
def Obligations.ChunkAccumulatesItsProducts : Prop :=
  ∀ (s : State) (cd : Cd) (ma : MaNo) (c : Context) (e : QEntry) (sta str : Fmt) (depth : Nat) (w : WTile) (rows : List (List Byte)),
    let x := s.dev.dies[cd]
    let m := x.mas[ma]
    let cmd := x.chunkCmd e
    let b : Fin 2 := if cmd.first then (if m.last = 0 then 1 else 0) else m.last
    let o : Fin 2 := if b = 0 then 1 else 0
    let old := m.bufs[b]
    Starts s cd (idx 12 ma.val) 1 c e → fmtOf (cmd.pair % 16) = some sta → fmtOf (cmd.pair / 16 % 16) = some str →
    pairDepth sta str = some depth → 1 ≤ cmd.k → cmd.k ≤ depth → (sta = .q4 → cmd.k % 64 = 0) → m.tileFor sta = some w →
    (cmd.first = true → old.state = 0) →
    (cmd.first = false → old.state = 1 ∧ cmd.anchor = old.anchor ∧ cmd.pair = old.pair.toNat ∧ cmd.m = old.rows.toNat + 1) →
    x.sieve.arms[ma] = none → x.sieve.sample = none →
    s.dev.readRows c cd .ma ((List.range cmd.m).map fun i => (wrap52 (cmd.src + i * cmd.stride), cmd.k * str.width / 8)) 0 = .ok rows →
    ∃ t, exec (.chunk cd ma) s = .next t
      ∧ (let m' := t.dev.dies[cd].mas[ma]
        let new := m'.bufs[b]
        m'.last = b ∧ new.state = 1 ∧ new.lastDone = (cmd.last || (!cmd.first && old.lastDone)) ∧ m'.bufs[o] = m.bufs[o] ∧ m'.weights = m.weights.erase w
        ∧ (cmd.first = true → new.anchor = cmd.anchor ∧ new.rows = BitVec.ofNat 8 (cmd.m - 1) ∧ new.tileId = cmd.tileId)
        ∧ ∀ i < cmd.m, ∀ j < 128,
            new.elems.getD (128 * i + j) {}
              = (AccElem.addChunk (if cmd.first then {} else old.elems.getD (128 * i + j) {}) (cmd.anchor.toInt - 74)
                  ((List.range cmd.k).map fun k =>
                    (str.decode ((codesOf str (rows.getD i []) cmd.k).getD k 0)).mul ((w.values sta cmd.k).getD (128 * k + j) (.fin false 0 0)))).1)
      ∧ StartedIn t cd (idx 12 ma.val) e.no true ∧ t.dev.mem = s.dev.mem ∧ t.dev.ctxs = s.dev.ctxs
      ∧ (∀ p : MaNo, p ≠ ma → t.dev.dies[cd].mas[p] = x.mas[p]) ∧ (∀ p : Cd, p ≠ cd → t.dev.dies[p] = s.dev.dies[p])

/-- R72: the commit of a last chunk passes its buffer to state 2, awaiting readout; of two tiles whose last chunks have formed their sums the one whose
last chunk came first passes. Its elements, and everything else, stay. -/
def Sys2Proof.Claims.LastChunkCommitPassesTheBufferToReadout : Prop :=
  ∀ (s : State) (cd : Cd) (ma : MaNo) (b : Fin 2),
    let x := s.dev.dies[cd]
    let m := x.mas[ma]
    m.bufs[b].lastDone = true → m.bufs[b].state = 1 →
    (∀ o : Fin 2, o ≠ b → m.bufs[o].lastDone = true → m.bufs[o].state = 1 → m.bufs[b].order < m.bufs[o].order) →
    let t : Tile := { m.bufs[b] with state := 2, lastDone := false }
    let m' : Ma := { m with bufs := m.bufs.set b t }
    let x' : Die := { x with mas := x.mas.set ma m' }
    exec (.lastChunkCommit cd ma) s = .next { s with dev := { s.dev with dies := s.dev.dies.set cd x' } }

/-- R74, R77, R82, R84, R151, R152: an INT32 READOUT of the oldest buffer in state 2, without a non-finite element, hands its consumer one row of 128
values per tile row, shifted right with round-to-nearest-even and saturated, at the exponent of the shift; the buffer waits in state 3,
memory stays, and the command has started. -/
def Sys2Proof.Claims.Int32ReadoutHandsItsRowsOver : Prop :=
  ∀ (s : State) (cd : Cd) (ma : MaNo) (c : Context) (e : QEntry) (b : Fin 2),
    let x := s.dev.dies[cd]
    let t := x.mas[ma].bufs[b]
    let cmd := x.outCmd e
    Starts s cd (idx 12 ma.val) 2 c e → e.started = false → x.mas[ma].oldestReady = some b → (∀ r ∈ x.intRows, r.ma ≠ ma) → cmd.int32 = true →
    t.elems.length = (t.rows.toNat + 1) * 128 → (∀ a ∈ t.elems, a.nf = 0) →
    ∃ (u : State) (r : IntRows), exec (.readout cd ma) s = .next u
      ∧ u.dev.dies[cd].intRows = x.intRows ++ [r] ∧ r.ma = ma ∧ r.ladle = cmd.ladle ∧ r.e = t.anchor.toInt - 74 + cmd.shift
      ∧ r.rows.length = t.rows.toNat + 1
      ∧ (∀ i < t.rows.toNat + 1, ∀ j < 128, (r.rows.getD i []).getD j 0
          = BitVec.ofInt 32 (int32Elem cmd.shift (t.elems.getD (128 * i + j) {})).1)
      ∧ u.dev.dies[cd].mas[ma].bufs[b].state = 3 ∧ StartedIn u cd (idx 12 ma.val) e.no false
      ∧ u.dev.mem = s.dev.mem ∧ (∀ p : Cd, p ≠ cd → u.dev.dies[p] = s.dev.dies[p])

/-- R74, R84, R87, R151: a READOUT of a context that is not being stopped, whose tile enters readout, whose scales can be read and whose rows are all computed, narrowed and stored leaves its buffer idle and empty, and has
written its last result; memory is what the rows have stored. -/
def Sys2Proof.Claims.ReadoutFreesItsBuffer : Prop :=
  ∀ (s : State) (cd : Cd) (ma : MaNo) (c : Context) (e : QEntry) (b : Fin 2) (f : Fmt) (rs cs bs ys taps : List Val) (adds : List (List Val))
    (d1 : Device),
    let x := s.dev.dies[cd]
    let t := x.mas[ma].bufs[b]
    let cmd := x.outCmd e
    let n := t.rows.toNat + 1
    let d0 := s.dev.enterReadout cd ma b t
    Starts s cd (idx 12 ma.val) 2 c e → e.started = false → s.dev.stopping c = false →
    x.mas[ma].oldestReady = some b → (∀ r ∈ x.intRows, r.ma ≠ ma) → cmd.int32 = false →
    fmtOf cmd.fmt = some f → f ≠ .q4 → f ≠ .int32 → cmd.mode ≠ 3 → (f = .sb16 → cmd.dstride % 32 = 0) →
    d0.outVector c cd cmd 0 cmd.rsc n = .ok rs → d0.outVector c cd cmd 1 cmd.csc 128 = .ok cs →
    d0.outVector c cd cmd 2 cmd.bias 128 = .ok bs →
    Device.outRows c cd ma (cdIsland cd 2 ma.val) cmd f t ⟨rs, cs, bs, [], cmd.act, if cmd.act = 4 then x.planBytes cmd.tab 1032 else []⟩
      (d0.stepNo c) (List.range n) d0 = .ok (d1, ys, taps, adds) →
    ∃ u, exec (.readout cd ma) s = .next u ∧ u.dev.mem = d1.mem ∧ u.dev.dies[cd].mas[ma].bufs[b] = {}
      ∧ (∀ q ∈ u.dev.dies[cd].queues[(idx 12 ma.val : QueueId)], q.no = e.no → q.started = true ∧ q.done = true
          ∧ (cwSwr e.w = true → q.svals = [(cwSreg e.w, BitVec.ofNat 64 t.sValue)]))

/-- R72, R86, R87, R387: while its context is being stopped, a READOUT comes to a stop point after each row: the row is stored, the buffer stays in
state 3 with the next row noted, and the command waits, started and without its last result, to go on at that row. The last row ends it. -/
def Sys2Proof.Claims.StoppedReadoutGoesOnAtItsNextRow : Prop :=
  ∀ (s : State) (cd : Cd) (ma : MaNo) (c : Context) (e : QEntry) (b : Fin 2) (f : Fmt) (rs cs bs ys taps : List Val) (adds : List (List Val))
    (d1 : Device),
    let x := s.dev.dies[cd]
    let t := x.mas[ma].bufs[b]
    let cmd := x.outCmd e
    let n := t.rows.toNat + 1
    let i := if e.started then t.readoutRow.toNat else 0
    let d0 := if e.started then s.dev else s.dev.enterReadout cd ma b t
    Starts s cd (idx 12 ma.val) 2 c e → s.dev.stopping c = true → x.mas[ma].readBuf e = some b →
    (∀ r ∈ x.intRows, r.ma ≠ ma) → cmd.int32 = false →
    fmtOf cmd.fmt = some f → f ≠ .q4 → f ≠ .int32 → cmd.mode ≠ 3 → (f = .sb16 → cmd.dstride % 32 = 0) → i < n →
    d0.outVector c cd cmd 0 cmd.rsc n = .ok rs → d0.outVector c cd cmd 1 cmd.csc 128 = .ok cs →
    d0.outVector c cd cmd 2 cmd.bias 128 = .ok bs →
    Device.outRows c cd ma (cdIsland cd 2 ma.val) cmd f t ⟨rs, cs, bs, [], cmd.act, if cmd.act = 4 then x.planBytes cmd.tab 1032 else []⟩
      (d0.stepNo c) [i] d0 = .ok (d1, ys, taps, adds) →
    ∃ u, exec (.readout cd ma) s = .next u ∧ u.dev.mem = d1.mem ∧ u.pending = s.pending
      ∧ (i + 1 < n → u.dev.dies[cd].mas[ma].bufs[b].state = 3 ∧ u.dev.dies[cd].mas[ma].bufs[b].readoutRow.toNat = i + 1
        ∧ ∀ q ∈ u.dev.dies[cd].queues[(idx 12 ma.val : QueueId)], q.no = e.no → q.started = true ∧ q.done = false ∧ q.cut = true)
      ∧ (i + 1 = n → u.dev.dies[cd].mas[ma].bufs[b] = {}
        ∧ ∀ q ∈ u.dev.dies[cd].queues[(idx 12 ma.val : QueueId)], q.no = e.no → q.started = true ∧ q.done = true ∧ q.cut = false)

/-- A last chunk commits its buffer, and a READOUT hands its rows over or stores them and frees the buffer. -/
def Obligations.TilesAreCommittedAndReadOut : Prop :=
  Sys2Proof.Claims.LastChunkCommitPassesTheBufferToReadout ∧ Sys2Proof.Claims.Int32ReadoutHandsItsRowsOver ∧ Sys2Proof.Claims.ReadoutFreesItsBuffer ∧ Sys2Proof.Claims.StoppedReadoutGoesOnAtItsNextRow

/-! ### The Whisk (R89 to R117) -/

/-- R104, the rows whose operands are raw: every lane of vd is the integer of the row, saturated to 32 bits, and each saturation counts in the tally
(R93); no other register and nothing else of the state changes. SEL selects by a register of either kind. -/
def Obligations.RawElementInstructionsSaturate : Prop :=
  ∀ (s : State) (cd : Cd) (w : ElemWord) (n : Nat),
    let v := s.dev.dies[cd].whisk.v
    let a := laneInt v[w.va]
    let b := laneInt v[w.vb]
    let bv := fun (x : Int) => BitVec.ofInt 32 x
    exec (.elemNop cd w) s = .next s
    ∧ (Blocks v[w.va] true n →
      GivesRaw s cd (.elemMov cd w) w.vd n a
      ∧ GivesRaw s cd (.elemNeg cd w) w.vd n (fun k j => -a k j)
      ∧ GivesRaw s cd (.elemAbs cd w) w.vd n (fun k j => |a k j|)
      ∧ GivesRaw s cd (.elemNot cd w) w.vd n (fun k j => (~~~ bv (a k j)).toInt)
      ∧ GivesRaw s cd (.elemClz cd w) w.vd n (fun k j => 32 - ((bv (a k j)).toNat.size : Int)))
    ∧ (Blocks v[w.va] true n → Blocks v[w.vb] true n →
      GivesRaw s cd (.elemAdd cd w) w.vd n (fun k j => a k j + b k j)
      ∧ GivesRaw s cd (.elemSub cd w) w.vd n (fun k j => a k j - b k j)
      ∧ GivesRaw s cd (.elemMul cd w) w.vd n (fun k j => a k j * b k j)
      ∧ GivesRaw s cd (.elemAnd cd w) w.vd n (fun k j => (bv (a k j) &&& bv (b k j)).toInt)
      ∧ GivesRaw s cd (.elemOr cd w) w.vd n (fun k j => (bv (a k j) ||| bv (b k j)).toInt)
      ∧ GivesRaw s cd (.elemXor cd w) w.vd n (fun k j => (bv (a k j) ^^^ bv (b k j)).toInt)
      ∧ GivesRaw s cd (.elemShr cd w) w.vd n (fun k j => if b k j < 0 then a k j else a k j / 2 ^ (b k j).toNat)
      ∧ (∃ r m, exec (.elemShl cd w) s = .next (withElement s cd w.vd r m) ∧ r.raw = true ∧ r.written = true ∧ r.blocks.length = n
          ∧ ∀ k < n, ∀ j < 32, laneInt r k j
            = if a k j = 0 then 0 else if 0 ≤ b k j ∧ b k j ≤ 31 then clamp32 (a k j * 2 ^ (b k j).toNat)
              else if a k j < 0 then -(2 ^ 31) else 2 ^ 31 - 1)
      ∧ GivesRaw s cd (.elemClt cd w) w.vd n (fun k j => if a k j < b k j then -1 else 0)
      ∧ GivesRaw s cd (.elemCle cd w) w.vd n (fun k j => if a k j ≤ b k j then -1 else 0)
      ∧ GivesRaw s cd (.elemCeq cd w) w.vd n (fun k j => if a k j = b k j then -1 else 0)
      ∧ GivesRaw s cd (.elemMax cd w) w.vd n (fun k j => Max.max (a k j) (b k j))
      ∧ GivesRaw s cd (.elemMin cd w) w.vd n (fun k j => Min.min (a k j) (b k j))
      ∧ ∀ kind : Bool, Blocks v[w.vc] kind n →
          GivesRaw s cd (.elemSel cd w) w.vd n (fun k j => if laneActive v[w.vc] k j then a k j else b k j))

/-- R90, R104, the rows with block results: block k of vd is the normalised block of the exact lane values, with round-to-nearest-even, over the operands'
exact values; TOF and the lookups take raw operands, and ALN keeps the exponent of vb (R102). -/
def Sys2Proof.Claims.BlockElementInstructionsNormaliseExactValues : Prop :=
  ∀ (s : State) (cd : Cd) (w : ElemWord) (n : Nat),
    let x := s.dev.dies[cd]
    let v := x.whisk.v
    let a := laneVal v[w.va]
    let b := laneVal v[w.vb]
    let entry := fun (tab : BitVec 32) (p : Int) =>
      (Dy.mk (BitVec.ofNat 32 (le ((List.range 4).map fun i => localByte s cd (tab.toNat + 8 + 4 * (p % 256).toNat + i)))).toInt
        (BitVec.ofNat 16 (le ((List.range 2).map fun i => localByte s cd (tab.toNat + i)))).toInt).val
    (Blocks v[w.va] false n →
      GivesBlocks s cd (.elemMov cd w) w.vd n a
      ∧ GivesBlocks s cd (.elemNeg cd w) w.vd n (fun k j => (a k j).neg)
      ∧ GivesBlocks s cd (.elemAbs cd w) w.vd n (fun k j => (a k j).absv))
    ∧ (Blocks v[w.va] false n → Blocks v[w.vb] false n →
      GivesBlocks s cd (.elemAdd cd w) w.vd n (fun k j => (a k j).add (b k j))
      ∧ GivesBlocks s cd (.elemSub cd w) w.vd n (fun k j => (a k j).add (b k j).neg)
      ∧ GivesBlocks s cd (.elemMul cd w) w.vd n (fun k j => (a k j).mul (b k j))
      ∧ GivesBlocks s cd (.elemMax cd w) w.vd n
          (fun k j => if a k j = .nan ∨ b k j = .nan then .nan else if (a k j).ltv (b k j) then b k j else a k j)
      ∧ GivesBlocks s cd (.elemMin cd w) w.vd n
          (fun k j => if a k j = .nan ∨ b k j = .nan then .nan else if (a k j).ltv (b k j) then a k j else b k j))
    ∧ (Blocks v[w.va] false n → Blocks v[w.vb] true n →
      GivesBlocks s cd (.elemShl cd w) w.vd n (fun k j => (a k j).scale (laneInt v[w.vb] k j))
      ∧ GivesBlocks s cd (.elemShr cd w) w.vd n (fun k j => (a k j).scale (-laneInt v[w.vb] k j)))
    ∧ (Blocks v[w.va] false n → Blocks v[w.vb] false n → ∀ kind : Bool, Blocks v[w.vc] kind n →
      GivesBlocks s cd (.elemSel cd w) w.vd n (fun k j => if laneActive v[w.vc] k j then a k j else b k j))
    ∧ (Blocks v[w.va] true n →
      GivesBlocks s cd (.tof cd w) w.vd n (fun k j => (Dy.mk (laneInt v[w.va] k j) 0).val)
      ∧ GivesBlocks s cd (.luta cd w) w.vd n (fun k j => entry x.whisk.tabA (laneInt v[w.va] k j))
      ∧ GivesBlocks s cd (.lutb cd w) w.vd n (fun k j => entry x.whisk.tabB (laneInt v[w.va] k j)))
    ∧ (Blocks v[w.va] false n → Blocks v[w.vb] false n →
      ∃ r m, exec (.aln cd w) s = .next (withElement s cd w.vd r m) ∧ r.raw = false ∧ r.written = true ∧ r.blocks.length = n
        ∧ ∀ k < n, (r.blocks.getD k {}).e = (v[w.vb].blocks.getD k {}).e
          ∧ ∀ j < 32, laneInt r k j = clamp32 (quantaAt .nearestEven (v[w.vb].blocks.getD k {}).e (a k j))
            ∧ (r.blocks.getD k {}).nf.getD j 0 = nfOf (a k j))

/-- R93, R104, the rows that make raw values of block operands: comparisons of exact values, false with a NaN; ILG, TOI and NFC with what each gives for zero
and non-finite lanes. -/
def Sys2Proof.Claims.BlockComparesAndConversionsGiveRawLanes : Prop :=
  ∀ (s : State) (cd : Cd) (w : ElemWord) (n : Nat),
    let v := s.dev.dies[cd].whisk.v
    let a := laneVal v[w.va]
    let b := laneVal v[w.vb]
    (Blocks v[w.va] false n → Blocks v[w.vb] false n →
      GivesRaw s cd (.elemClt cd w) w.vd n (fun k j => if (a k j).ltv (b k j) then -1 else 0)
      ∧ GivesRaw s cd (.elemCle cd w) w.vd n (fun k j => if (a k j).ltv (b k j) || (a k j).eqv (b k j) then -1 else 0)
      ∧ GivesRaw s cd (.elemCeq cd w) w.vd n (fun k j => if (a k j).eqv (b k j) then -1 else 0))
    ∧ (Blocks v[w.va] false n →
      GivesRaw s cd (.ilg cd w) w.vd n (fun k j => match a k j with
        | .fin _ m e => if m = 0 then -(2 ^ 31) else log2Of m e
        | _ => 2 ^ 31 - 1)
      ∧ GivesRaw s cd (.nfc cd w) w.vd n (fun k j => ((nfOf (a k j)).toNat : Int))
      ∧ ∃ r m, exec (.toi cd w) s = .next (withElement s cd w.vd r m) ∧ r.raw = true ∧ r.written = true ∧ r.blocks.length = n
          ∧ ∀ k < n, ∀ j < 32, laneInt r k j = (match a k j with
            | .nan => 0
            | .inf true => -(2 ^ 31)
            | .inf false => 2 ^ 31 - 1
            | .fin neg m e => clamp32 (if 0 ≤ e then (if neg then -(m : Int) else m) * 2 ^ e.toNat
                else (if neg then -(m : Int) else m) / 2 ^ (-e).toNat)))

/-- Element instructions on block operands normalise exact values, or give raw lanes. -/
def Obligations.BlockElementInstructions : Prop :=
  Sys2Proof.Claims.BlockElementInstructionsNormaliseExactValues ∧ Sys2Proof.Claims.BlockComparesAndConversionsGiveRawLanes

/-- R94, R106, R107, R149: a summary RUN of a context that is not being stopped, whose streams are legal and whose groups all run leaves the registers of its last group in the Whisk, has written its
outputs, and holds five values for s_base to s_base + 4: the active count, the largest and smallest finite value, the exact sum, and whether a
non-finite value was met. -/
def Sys2Proof.Claims.SummaryRunHoldsItsFiveValuesWhole : Prop :=
  ∀ (s : State) (cd : Cd) (c : Context) (e : QEntry) (r : WRun),
    let x := s.dev.dies[cd]
    let w := x.whiskCmd (cwRec e.w) e.ga.toNat
    let p := w.prog
    let ro := fun (i : WStream) => if i.src = 0 then none else x.rowsOf (i.src - 1) false
    Starts s cd 4 1 c e → e.started = false → s.dev.stopping c = false → p.mode = 1 → (∀ i ∈ w.ins, i.src ≠ 0 → (x.rowsOf (i.src - 1) false).isSome) →
    s.dev.sourceFault cd w = none →
    (cwGa e.w ≠ 0 → w.overlap = none) → r.v[p.sumSrc].raw = false →
    overGroups (WRun.plainGroup c cd w (s.dev.stepNo c) ro (x.lookTable p.tabA) (x.lookTable p.tabB)) w.groups
      { d := s.dev, rows := List.replicate (p.k + p.o) {}, pend := List.replicate (p.k + p.o) [], v := Vector.replicate 16 {} } = .ok r →
    ∃ t, exec (.whiskRun cd) s = .next t ∧ t.dev.mem = r.d.mem ∧ t.dev.dies[cd].whisk.v = r.v
      ∧ t.dev.dies[cd].whisk.pass = 0
      ∧ ∀ q ∈ t.dev.dies[cd].queues[(4 : QueueId)], q.no = e.no → q.started = true ∧ q.done = true
          ∧ q.svals = [(idx 16 p.sBase, BitVec.ofNat 64 r.sum.count),
              (idx 16 (p.sBase + 1), (r.sum.hi.map (summary64 p.sumExp)).getD (BitVec.ofInt 64 (-(2 ^ 63)))),
              (idx 16 (p.sBase + 2), (r.sum.lo.map (summary64 p.sumExp)).getD (BitVec.ofInt 64 (2 ^ 63 - 1))),
              (idx 16 (p.sBase + 3), summary64 p.sumExp r.sum.sum),
              (idx 16 (p.sBase + 4), if r.sum.nan || r.sum.pos || r.sum.neg then 1 else 0)]

/-- R118, R387: while its context is being stopped, a plain or summary RUN comes to a stop point after each group: its registers, reductions and the
number of groups completed stay in the Whisk, and the command waits, started and without its last result, to go on at the next group. -/
def Sys2Proof.Claims.StoppedRunGoesOnAtItsNextGroup : Prop :=
  ∀ (s : State) (cd : Cd) (c : Context) (e : QEntry) (r0 r : WRun) (g : Nat),
    let x := s.dev.dies[cd]
    let w := x.whiskCmd (cwRec e.w) e.ga.toNat
    let p := w.prog
    let ro := fun (i : WStream) => if i.src = 0 then none else x.rowsOf (i.src - 1) false
    Starts s cd 4 1 c e → s.dev.stopping c = true → p.mode ≤ 1 → g + 1 < w.groups.length → g < 2 ^ 31 →
    (e.started = false → g = 0 ∧ (∀ i ∈ w.ins, i.src ≠ 0 → (x.rowsOf (i.src - 1) false).isSome) ∧ s.dev.sourceFault cd w = none
      ∧ (cwGa e.w ≠ 0 → w.overlap = none)
      ∧ r0 = { d := s.dev, rows := List.replicate (p.k + p.o) {}, pend := List.replicate (p.k + p.o) [], v := Vector.replicate 16 {} }) →
    (e.started = true → g = x.whisk.groups.toNat ∧ r0 = { d := s.dev, rows := List.replicate p.k {} ++ x.whisk.reds.toList.take p.o, pend := x.whisk.work.pend, sum := x.whisk.reds[4], v := x.whisk.v }) →
    WRun.plainGroup c cd w (s.dev.stepNo c) ro (x.lookTable p.tabA) (x.lookTable p.tabB) (w.groups.getD g []) r0 = .ok r →
    ∃ t, exec (.whiskRun cd) s = .next t ∧ t.dev.mem = r.d.mem ∧ t.pending = s.pending
      ∧ (let k := t.dev.dies[cd].whisk
        k.v = r.v ∧ k.pass = 1 ∧ k.groups.toNat = g + 1 ∧ k.reds[4] = r.sum ∧ (∀ i : Fin 4, k.reds[i] = r.rows.getD (p.k + i.val) {}))
      ∧ ∀ q ∈ t.dev.dies[cd].queues[(4 : QueueId)], q.no = e.no → q.started = true ∧ q.done = false ∧ q.cut = true

/-- A summary RUN leaves its five values for the s-registers and its outputs in memory, and one that is stopped goes on at its next group. -/
def Obligations.SummaryRunHoldsItsFiveValues : Prop :=
  Sys2Proof.Claims.SummaryRunHoldsItsFiveValuesWhole ∧ Sys2Proof.Claims.StoppedRunGoesOnAtItsNextGroup

/-! ### Tongs and Mixer (R217 to R223, R239 to R272) -/

/-- R149, R155, R197, R212, R218, R348, R349: a MOVE between two DPAs on channel 1 or 2, gated or posting or neither, whose gate and stream are open, whose
lines can be read and written and are served by the wheel, and which stores to none of its later source lines, stores each source line at its
destination line and writes its last result: an s-register that it names is given the bytes completed; a gated one counts as started on its
stream. Every other byte of the memories reads as before. -/
def Sys2Proof.Claims.MovesCopyTheirLines : Prop :=
  ∀ (s : State) (cd : Cd) (chan : Fin 2) (c : Context) (e : QEntry) (bs : Nat → List Byte),
    let x := s.dev.dies[cd]
    let q : QueueId := idx 12 (6 + chan.val)
    let m := x.moveCmd e
    Starts s cd q 1 c e → Fresh e → s.dev.stopping c = false → GatesOpen c cd q e → m.sk = 0 → m.dk = 0 → s.dev.yalkenUp = true →
    s.dev.moveServed c cd (chan.val + 1) m = true → MemoriesOk s.dev →
    (∀ k < m.lines, MoveReads s c cd m k (bs k) ∧ MoveWrites s c cd m k ∧ ∀ j < k, wrap52 (m.dst + 64 * j) ≠ wrap52 (m.src + 64 * k)) →
    ∃ t, exec (.tongsMove cd (idx 3 chan.val)) s = .next t
      ∧ LinesStored s.dev.mem.bytes t.dev.mem.bytes m.dst m.lines bs ∧ DoneIn t cd q e (64 * m.lines)
      ∧ (∀ o : Cd, o ≠ cd → t.dev.dies[o] = s.dev.dies[o]) ∧ t.dev.dies[cd].loc = x.loc
      ∧ t.dev.ctxs = if moveFlag q e 0 then (s.dev.modCtx c.slot fun c =>
          c.modRecv (c.posOf cd) (cwStream e.w) fun r => { r with gated := r.gated + 1 }).ctxs else s.dev.ctxs

/-- R218, R306: a channel 3 MOVE that R306 allows stores the source lines from its store offset on into the Ladle store, and every other byte of
the store and of the memories reads as before; one out of the store stores its lines at their destination, and the store stays. -/
def Sys2Proof.Claims.LadleMovesCopyTheirLines : Prop :=
  ∀ (s : State) (cd : Cd) (c : Context) (e : QEntry),
    let x := s.dev.dies[cd]
    let m := x.moveCmd e
    Starts s cd 8 1 c e → Fresh e → s.dev.stopping c = false → x.ladleMoveFault cd m = none → s.dev.yalkenUp = true →
    s.dev.moveServed c cd 3 m = true → MemoriesOk s.dev → 0 < m.lines →
    (m.dk = 2 → ∀ bs : Nat → List Byte, (∀ k < m.lines, MoveReads s c cd m k (bs k)) →
      ∃ t, exec (.tongsMove cd 2) s = .next t
        ∧ (∀ k < m.lines, ∀ j < 64, memGet 0 t.dev.dies[cd].ladle.store (m.dst + 64 * k + j) = (bs k).getD j 0)
        ∧ (∀ a, (a < m.dst ∨ m.dst + 64 * m.lines ≤ a) → memGet 0 t.dev.dies[cd].ladle.store a = memGet 0 x.ladle.store a)
        ∧ DoneIn t cd 8 e (64 * m.lines) ∧ (∀ o : Cd, o ≠ cd → t.dev.dies[o] = s.dev.dies[o]) ∧ t.dev.mem = s.dev.mem ∧ t.dev.ctxs = s.dev.ctxs)
    ∧ (m.dk = 0 → (∀ k < m.lines, MoveWrites s c cd m k) →
      ∃ t, exec (.tongsMove cd 2) s = .next t
        ∧ LinesStored s.dev.mem.bytes t.dev.mem.bytes m.dst m.lines
            (fun k => (List.range 64).map fun j => memGet 0 x.ladle.store (m.src + 64 * k + j))
        ∧ DoneIn t cd 8 e (64 * m.lines) ∧ t.dev.dies[cd].ladle = x.ladle
        ∧ (∀ o : Cd, o ≠ cd → t.dev.dies[o] = s.dev.dies[o]) ∧ t.dev.ctxs = s.dev.ctxs)

/-- R215, R218: a MOVE out of an adapter entry takes the entry's delivered lines oldest first and stores them at its destination; one into an
entry reads lines that a region entry of role 0x3 decides and stages them in order behind those staged before. Both without a gate or a post. -/
def Sys2Proof.Claims.AdapterEntryMovesTakeAndStageLines : Prop :=
  ∀ (s : State) (cd : Cd) (chan : Fin 2) (c : Context) (e : QEntry),
    let x := s.dev.dies[cd]
    let q : QueueId := idx 12 (6 + chan.val)
    let m := x.moveCmd e
    let ds := x.course.delivered m.src
    Starts s cd q 1 c e → Fresh e → s.dev.stopping c = false → (∀ j, moveFlag q e j = false) → s.dev.yalkenUp = true →
    s.dev.moveServed c cd (chan.val + 1) m = true → MemoriesOk s.dev →
    (m.sk = 1 → m.dk = 0 → m.lines ≤ ds.length → (∀ l ∈ ds, l.2.2.length = 64) → (∀ k < m.lines, MoveWrites s c cd m k) →
      ∃ t, exec (.tongsMove cd (idx 3 chan.val)) s = .next t
        ∧ LinesStored s.dev.mem.bytes t.dev.mem.bytes m.dst m.lines (fun k => (ds.getD k (0, 0, [])).2.2)
        ∧ t.dev.dies[cd].course.delivered m.src = ds.drop m.lines
        ∧ (∀ n, n ≠ m.src → t.dev.dies[cd].course.delivered n = x.course.delivered n) ∧ DoneIn t cd q e (64 * m.lines)
        ∧ (∀ o : Cd, o ≠ cd → t.dev.dies[o] = s.dev.dies[o]) ∧ t.dev.ctxs = s.dev.ctxs)
    ∧ (m.sk = 0 → m.dk = 1 → x.course.adOut.length + m.lines ≤ 2048 → ∀ bs : Nat → List Byte,
      (∀ k < m.lines, MoveReads s c cd m k (bs k) ∧ c.courseLine (wrap52 (m.src + 64 * k)) = true) →
      ∃ t, exec (.tongsMove cd (idx 3 chan.val)) s = .next t
        ∧ t.dev.dies[cd].course.adOut
            = x.course.adOut ++ ((List.range m.lines).map fun k => (m.dst, x.course.staged m.dst + k, bs k))
        ∧ t.dev.mem = s.dev.mem ∧ DoneIn t cd q e (64 * m.lines) ∧ (∀ o : Cd, o ≠ cd → t.dev.dies[o] = s.dev.dies[o]) ∧ t.dev.ctxs = s.dev.ctxs)

/-- R197, R387: while its context is being stopped, a MOVE comes to a stop point after each line: line `i`, the one at its restart offset, is
moved, and the command waits, started, with the next line's restart offset; the last line ends it. -/
def Sys2Proof.Claims.StoppedMoveGoesOnAtItsNextLine : Prop :=
  ∀ (s : State) (cd : Cd) (chan : Fin 2) (c : Context) (e : QEntry) (bs : List Byte),
    let x := s.dev.dies[cd]
    let q : QueueId := idx 12 (6 + chan.val)
    let m := x.moveCmd e
    let i := e.progress.toNat / 64
    Starts s cd q 1 c e → s.dev.stopping c = true → (∀ j, moveFlag q e j = false) → m.sk = 0 → m.dk = 0 → s.dev.yalkenUp = true →
    s.dev.moveServed c cd (chan.val + 1) m = true → MemoriesOk s.dev → i < m.lines →
    MoveReads s c cd m i bs → MoveWrites s c cd m i →
    ∃ t, exec (.tongsMove cd (idx 3 chan.val)) s = .next t
      ∧ LinesStored s.dev.mem.bytes t.dev.mem.bytes (m.dst + 64 * i) 1 (fun _ => bs)
      ∧ (i + 1 < m.lines → CutIn t cd q e (64 * (i + 1))) ∧ (i + 1 = m.lines → DoneIn t cd q e (64 * m.lines))
      ∧ (∀ o : Cd, o ≠ cd → t.dev.dies[o] = s.dev.dies[o]) ∧ t.dev.ctxs = s.dev.ctxs

/-- A MOVE copies its lines between addresses, the Ladle store and adapter entries, and one that is stopped goes on at its next line. -/
def Obligations.MoveCopiesItsLine : Prop :=
  Sys2Proof.Claims.MovesCopyTheirLines ∧ Sys2Proof.Claims.LadleMovesCopyTheirLines ∧ Sys2Proof.Claims.AdapterEntryMovesTakeAndStageLines ∧ Sys2Proof.Claims.StoppedMoveGoesOnAtItsNextLine

/-- R219: a WEIGHTIN takes up its count of Course tiles, or completes at once when the count is 0; a chunk tile whose lines have all arrived goes into a
free slot of the MA that its command names, and the last tile of the count completes the command. -/
def Obligations.WeightinTakesTilesAndTheyArePlaced : Prop :=
  ∀ (s : State) (cd : Cd) (c : Context) (e : QEntry),
    let x := s.dev.dies[cd]
    (Starts s cd 5 2 c e →
      ∃ t, exec (.weightin cd) s = .next t
        ∧ (x.weightCount e = 0 → t.dev.dies[cd].weightIn = x.weightIn ∧ StartedIn t cd 5 e.no true)
        ∧ (x.weightCount e ≠ 0 → t.dev.dies[cd].weightIn = { left := x.weightCount e, next := 0 } ∧ StartedIn t cd 5 e.no false)
        ∧ t.dev.dies[cd].mas = x.mas ∧ t.dev.mem = s.dev.mem)
    ∧ (∀ (ma : MaNo) (w : WTile) (last : Bool), s.dev.residentOf cd = some c → x.frozen = false → s.dev.enginesHeld c = false →
      x.readyChunk = some (e, ma, w, last) → x.mas[ma].weights.length < 10 →
      ∃ t, exec (.chunkTilePlace cd) s = .next t
        ∧ t.dev.dies[cd].mas[ma].weights = x.mas[ma].weights ++ [w] ∧ t.dev.dies[cd].weightIn.next = x.weightIn.next + 1
        ∧ (∀ p : MaNo, p ≠ ma → t.dev.dies[cd].mas[p] = x.mas[p])
        ∧ (last = false → t.dev.dies[cd].course = x.course ∧ t.dev.dies[cd].weightIn.left = x.weightIn.left)
        ∧ (last = true → t.dev.dies[cd].course.recv = x.course.recv.tail ∧ t.dev.dies[cd].weightIn.left = x.weightIn.left - 1)
        ∧ (last = true → x.weightIn.left = 1 → ∀ b ∈ t.dev.dies[cd].queues[(5 : QueueId)], b.no = e.no → b.done = true)
        ∧ t.dev.mem = s.dev.mem ∧ (∀ o : Cd, o ≠ cd → t.dev.dies[o] = s.dev.dies[o]))

/-- R194, R242, R243: a BUILD of one tile, whose blocks can be read, the errors of their lines counted (R176), and whose tile can be written line by line,
stores 128 by 128 elements, each the rounding of
W + s × Σ A × B over the ranks, with the Q4 weight and its group scale; it gives an s-register that it names the value 1. -/
def Sys2Proof.Claims.MergeBuildStoresTheMergedTile : Prop :=
  ∀ (s : State) (cd : Cd) (c : Context) (e : QEntry) (nib sc a b : List (List Byte)) (d1 : Device),
    let x := s.dev.dies[cd]
    let m := x.buildCmd e
    let kt := m.first % m.kt
    let ct := m.first / m.kt
    let din := m.kt * 128
    let row := fun (j : Nat) => (ct * 128 + j) * (din / 64) + kt * 2
    let half := fun (l : List Byte) (i : Nat) => le ((l.drop i).take 2)
    let bf := fun (l : List Byte) (i : Nat) => fBf16.decode (half l i)
    let element := fun (k j : Nat) =>
      let byte := ((nib.getD j []).getD (k / 64 * 32 + k % 64 / 2) 0).toNat
      let w := q4Value (if k % 2 = 0 then byte % 16 else byte / 16) (half (sc.getD j []) (2 * (k / 64)))
      let sum := ((List.range m.r).map fun r =>
        (bf (a.getD (r / 128) []) (2 * (k * groupWidth m.r (r / 128) + r % 128))).mul (bf b.flatten (2 * (r * 128 + j)))).foldl Val.add (.fin false 0 0)
      let draw := srDraw c.seed (s.dev.stepNo c) m.tid ((kt * 128 + k) * (m.ct * 128) + ct * 128 + j)
      ((if m.fp16 then fFp16 else fBf16).encode ((roundingOf m.mode draw).getD .nearestEven) (w.add ((fBf16.decode m.s).mul sum))).1
    let nibRuns := (List.range 128).map fun j => (wrap52 (m.w + row j * 32), 64)
    let scRuns := (List.range 128).map fun j => (wrap52 (m.sc + row j * 2), 4)
    let aRuns := (List.range (ceilDiv m.r 128)).map fun g =>
      (wrap52 (m.a + 2 * (g * 128 * din + kt * 128 * groupWidth m.r g)), 256 * groupWidth m.r g)
    let bRuns := [(wrap52 (m.b + 2 * (ct * m.r * 128)), 256 * m.r)]
    let readAll := fun (runs : List (Nat × Nat)) (bs : List (List Byte)) =>
      List.Forall₂ (fun r b => s.dev.readBytes c cd .mixer r.1 r.2 = .ok b) runs bs
    Starts s cd 9 1 c e → Fresh e → x.recField e 1 1 % 4 = 0 → m.tiles = 1 → m.first + 1 ≤ m.kt * m.ct →
    s.dev.mixServed c cd [m.w, m.sc, m.a, m.b, m.dst] = true →
    readAll nibRuns nib → readAll scRuns sc → readAll aRuns a → readAll bRuns b →
    ((nibRuns ++ scRuns ++ aRuns ++ bRuns).foldl (fun (d : Device) r => d.eccGood c cd r.1 r.2) s.dev).mixPut c cd 0
      (mixLines (wrap52 m.dst) ((List.range 16384).flatMap fun n => bytesLE 2 (element (n / 128) (n % 128))) fun _ _ => []) 0 = .ok d1 →
    ∃ t, exec (.mergeBuild cd) s = .next t ∧ t.dev.mem = d1.mem
      ∧ DoneIn t cd 9 e 1 ∧ (∀ o : Cd, o ≠ cd → t.dev.dies[o] = d1.dies[o])

/-- R244, R245: a FEED of one tile from one column block of a legal place and width, into an MA with a free slot, appends a 16-bit tile whose columns hold the
block and whose other elements are zero; it writes no memory. -/
def Sys2Proof.Claims.MergeFeedPacksItsTile : Prop :=
  ∀ (s : State) (cd : Cd) (c : Context) (e : QEntry) (list block : List Byte) (d1 d2 : Device),
    let x := s.dev.dies[cd]
    let f := x.recField e 2 1
    let ma : MaNo := idx 4 (f % 4)
    let v := le list
    let off := v / 2 ^ 52 % 16 * 8
    let wid := v / 2 ^ 56 % 32 * 8
    Starts s cd 9 1 c e → x.recField e 1 1 % 4 = 1 → x.mergeTiles e = 1 → f / 4 % 16 = 0 → 0 < x.feedRoom ma →
    (∀ q ∈ x.queues[(9 : QueueId)], ¬ (q.started = true ∧ q.done = false ∧ q.stopped = false ∧ cwOp q.w = 1)) →
    s.dev.feedServed c cd e 0 = true →
    s.dev.mixRead c cd 0 0 (wrap52 (x.recAddr e 8)) 8 = .ok (list, d1) → list.length = 8 → v / 2 ^ 61 % 2 = 0 → 0 < wid → off + wid ≤ 128 →
    (∀ done, d1.mixRead c cd 0 done (v % 2 ^ 52) (256 * wid) = .ok (block, d2)) →
    ∃ (t : State) (w : WTile), exec (.mergeFeed cd) s = .next t
      ∧ t.dev.dies[cd].mas[ma].weights = x.mas[ma].weights ++ [w] ∧ w.mixer = true ∧ w.k = 128
      ∧ (∀ k < 128, ∀ j < 128, w.elems.getD (128 * k + j) 0
          = if off ≤ j ∧ j < off + wid then BitVec.ofNat 16 (le ((block.drop (2 * (k * wid + (j - off)))).take 2)) else 0)
      ∧ t.dev.mem = d2.mem ∧ (s.dev.mem.ceLines = [] → t.dev.mem = s.dev.mem) ∧ StartedIn t cd 9 e.no true

/-- MERGE BUILD stores the merged tile, and FEED packs its tile. -/
def Obligations.MergedTilesAreBuiltAndFed : Prop :=
  Sys2Proof.Claims.MergeBuildStoresTheMergedTile ∧ Sys2Proof.Claims.MergeFeedPacksItsTile

/-- R264, R267, R271, R272: an UPDATE of one item in mode SGD (0) or AdamW (1) under legal hyperparameters, of a context that is not being stopped. An item
whose overflow word is not zero is skipped: on the handle's first item the commit log takes a skipped entry, the masters header takes this
step as its last, skipped one, and the s value counts it. Any other first item takes its log entry, computes its sections in the inactive
bank, as UpdateComputesTheNewBank says, and only then writes the header that makes that bank pending for this step and counts the item. -/
def Sys2Proof.Claims.UpdateWritesLogBankAndHeader : Prop :=
  ∀ (s : State) (cd : Cd) (mode : Fin 2) (c : Context) (e : QEntry) (hb ib mb ov : List Byte) (d0 da db dm dc d1 d2 : Device),
    let x := s.dev.dies[cd]
    let u := uitemOf ib
    let h := mastersOf mb
    let t := da.stepNo c
    let i : Instr := if mode = 0 then .updateSgd cd else .updateAdamw cd
    let kappa := if u.policy = 1 then dm.dies[cd].mixerK.toNat else 0
    let rolled := !(h.lvalid && h.lstep == t) && h.pvalid && decide (h.pstep < t)
    let h1 : Masters := if rolled then { h with base := h.pbank, pvalid := false } else h
    Starts s cd 9 2 c e → Fresh e → s.dev.stopping c = false → x.recField e 1 1 % 4 = mode.val → x.updateCount e = 1 →
    s.dev.mixServed c cd [lpddrOf cd.val] = true →
    s.dev.mixRead c cd 0 0 (wrap52 (x.recField e 0x10 8 % 2 ^ 52 + e.gb.toNat)) 64 = .ok (hb, d0) → (hyperOf hb).k = x.mixerK.toNat →
    (hyperOf hb).fault (mode == 1) = none → d0.mixRead c cd 0 0 (x.itemAddr e 0) 64 = .ok (ib, da) → da.mixRead c cd 0 0 u.mst 64 = .ok (mb, db) →
    db.mixBody c cd 0 u.handle u.item = .ok dm → dm.itemFault c cd mode.val 0 u h = none → u.handle ∉ dm.dies[cd].touched →
    dm.mixRead c cd 0 0 u.ovf 2 = .ok (ov, dc) →
    ((bf16At ov 0).isZero = false → dc.logAppend c cd 0 t u true = .ok d1 →
      d1.mixWrite c cd 0 0 u.mst ({ h1 with lstep := t, lvalid := true, lskip := true } : Masters).encode = .ok d2 → d2.dies[cd].sieve.area = none →
      ∃ s', exec i s = .next s' ∧ s'.dev.mem = d2.mem ∧ DoneIn s' cd 9 e 1 ∧ u.handle ∈ s'.dev.dies[cd].touched)
    ∧ ((bf16At ov 0).isZero = true →
      let h2 : Masters := { h1 with pstep := t, pbank := 1 - h1.active t, pvalid := true, count := 0, lstep := t, lvalid := true, lskip := false }
      ∀ d3 : Device, dc.logAppend c cd 0 t u false = .ok d1 →
      d1.updateBank c cd mode.val (x.recField e 1 1) 0 t kappa 0 (hyperOf hb) u h2 = .ok (d2, none) →
      d2.mixWrite c cd 0 0 u.mst ({ h2 with count := 1 } : Masters).encode = .ok d3 →
      ∃ s', exec i s = .next s' ∧ s'.dev.mem = d3.mem ∧ DoneIn s' cd 9 e 0 ∧ u.handle ∈ s'.dev.dies[cd].touched)

/-- R40, R264, R265, R268: the new bank of an UPDATE item in mode SGD (0) or AdamW (1), word by word from the old one. With G the gradient, f its part's
factor and κ the loss scale: g = G × f × 2^−κ; m' = β1 m + g, or β1 m + (1 − β1) g in AdamW; v' = β2 v + (1 − β2) g²; and from the values of m'
and v' as stored, w' = w − η (m' + λ w), or w − η (c1 m' / (√(c2 v') + ε) + λ w), the root and the quotient rounded once each. Each block of
32 positions is rounded into SB16 with the draws of its elements. Stated for an item in LPDDR5X with no telemetry area bound; the root of a
negative number and a quotient by zero are free values (log entry 24). -/
def Sys2Proof.Claims.UpdateComputesTheNewBank : Prop :=
  ∀ (d d2 : Device) (c : Context) (cd : Cd) (mode : Fin 2) (rmode i t kappa : Nat) (hy : Hyper) (u : UItem) (h : Masters)
    (wm wx mm mx vm vx gm gx : List Byte),
    let n := u.n
    let act := h.active t
    let bank := 1 - act
    let one : Val := .fin false 1 0
    let at0 := fun (a b : List Byte) (p : Nat) => (sectionValues n a b).getD p (.fin false 0 0)
    let reads := fun (a : Nat) (ms xs : List Byte) =>
      d.readBytes c cd .mixer a (2 * n) = .ok ms ∧ d.readBytes c cd .mixer (wrap52 (a + 2 * n)) (n / 32) = .ok xs
    let w := at0 wm wx
    let g := fun p => ((at0 gm gx p).mul (if p < u.r * u.din then u.gsa else u.gsb)).scale (-(kappa : Int))
    let m' := fun p => (hy.b1.mul (at0 mm mx p)).add (if mode = 1 then (one.add hy.b1.neg).mul (g p) else g p)
    let v' := fun p => (hy.b2.mul (at0 vm vx p)).add ((one.add hy.b2.neg).mul ((g p).mul (g p)))
    let block := fun (f : Nat → Val) (md tid b : Nat) =>
      sb16Block ((List.range 32).map fun j => (f (32 * b + j), u.rounding c.seed t md tid (32 * b + j)))
    let code := fun (f : Nat → Val) (md tid p : Nat) => ((block f md tid (p / 32)).2.getD (p % 32) (0, none)).1
    let stored := fun (f : Nat → Val) (md tid p : Nat) => sb16Value (code f md tid p) (block f md tid (p / 32)).1
    let mmode := rmode / 16 % 4
    let m1 := stored m' mmode (u.tid + 1)
    let v1 := stored v' mmode (u.tid + 2)
    let way := fun p => if mode = 1 then quotVal ((m1 p).mul hy.c1) ((rootVal ((v1 p).mul hy.c2)).add hy.eps) else m1 p
    let w' := fun p => (w p).add (hy.eta.mul ((way p).add (hy.lam.mul (w p)))).neg
    let holds := fun (j : Nat) (f : Nat → Val) (md tid : Nat) => ∀ p < n,
      le ((List.range 2).map fun k => memGet 0 d2.mem.bytes (u.at' bank j + 2 * p + k)) = code f md tid p % 65536
        ∧ memGet 0 d2.mem.bytes (u.at' bank j + 2 * n + p / 32) = BitVec.ofNat 8 (block f md tid (p / 32)).1
    MemoriesOk d → d.stopping c = false → d.dies[cd].sieve.area = none → u.mst % 64 = 0 →
    u.mst + 64 + bank * u.bank * 64 + u.off * 64 + 3 * u.section' ≤ 0x20000000000 →
    reads (u.at' act 0) wm wx → reads (u.at' act 1) mm mx → (mode = 1 → reads (u.at' act 2) vm vx) → reads u.grad gm gx →
    d.updateBank c cd mode.val rmode i t kappa 0 hy u h = .ok (d2, none) →
    holds 0 w' (rmode / 4 % 4) u.tid ∧ holds 1 m' mmode (u.tid + 1) ∧ (mode = 1 → holds 2 v' mmode (u.tid + 2))

/-- UPDATE skips an adapter, or fills its inactive bank with the new masters and moments of SGD and AdamW. -/
def Obligations.UpdateSkipsOrFillsTheInactiveBank : Prop :=
  Sys2Proof.Claims.UpdateWritesLogBankAndHeader ∧ Sys2Proof.Claims.UpdateComputesTheNewBank

/-- R270: INIT and REFRESH of a context that is not being stopped take their items in order, each read from the list at the record's address, and complete
when the last is done; INIT tells the last item of an adapter by the number of items of its body, and gives its header the mode of the record
as opt (the model's choice, log entry 68). -/
def Obligations.InitAndRefreshTakeTheirItemsInOrder : Prop :=
  ∀ (s : State) (cd : Cd) (c : Context) (e : QEntry) (ib jb : List Byte) (da d1 db d2 : Device),
    let x := s.dev.dies[cd]
    let u := uitemOf ib
    let v := uitemOf jb
    let last := fun (d : Device) (w : UItem) => (d.bodyItem c w.handle w.item).map (·.1) == some (w.item + 1)
    let finished := fun (s' : State) => ∀ q ∈ s'.dev.dies[cd].queues[(9 : QueueId)], q.no = e.no → q.started = true ∧ q.done = true
    Starts s cd 9 2 c e → Fresh e → s.dev.stopping c = false → x.updateCount e = 2 → s.dev.mixServed c cd [lpddrOf cd.val] = true →
    s.dev.mixRead c cd 0 0 (x.itemAddr e 0) 64 = .ok (ib, da) → d1.mixRead c cd 1 0 (x.itemAddr e 1) 64 = .ok (jb, db) →
    (x.recField e 1 1 % 4 = 2 → ∀ dm dn : Device, da.mixBody c cd 0 u.handle u.item = .ok dm → dm.initItem c cd 2 0 0 (last dm u) u = .ok (d1, 0, none) →
      db.mixBody c cd 1 v.handle v.item = .ok dn → dn.initItem c cd 2 1 0 (last dn v) v = .ok (d2, 0, none) →
      ∃ s', exec (.updateInit cd) s = .next s' ∧ s'.dev.mem = d2.mem ∧ finished s')
    ∧ (x.recField e 1 1 % 4 = 3 → da.refreshItem c cd (da.stepNo c) 0 0 u = .ok (d1, 0, none) →
      db.refreshItem c cd (db.stepNo c) 1 0 v = .ok (d2, 0, none) → ∃ s', exec (.updateRefresh cd) s = .next s' ∧ s'.dev.mem = d2.mem ∧ finished s')

/-! ### The Ladle (R300 to R330) -/

/-- R305, R308: OPEN of a free bucket whose range lies in the store and overlaps no live one zeroes the range, and the bucket is open with its elements, place and
exponent and all counts zero; every other byte of the store reads as before. ACCUM of one finite element at or above the store's exponent into an open bucket of the current step adds it exactly, in
two's complement, and leaves every other byte and every count as it was. -/
def Obligations.OpenZeroesItsBucketAndAccumAddsExactly : Prop :=
  ∀ (s : State) (cd : Cd) (c : Context) (e : QEntry), MemoriesOk s.dev →
    let x := s.dev.dies[cd]
    let k := x.ladle
    (let n := bucketNo x e
      let elems := x.recField e 4 4
      let store := x.recField e 8 4
      Starts s cd 10 2 c e → cwFlag e.w 0 = false → c.aborted = false → store + 8 * elems ≤ 40 * 2 ^ 20 →
      (∀ b ∈ k.buckets, b.state ≠ .completed → (b.number.toNat = n → b.state = .aborted)
        ∧ (x.holdsStore b = true → store + 8 * elems ≤ b.store ∨ b.store + 8 * b.elems ≤ store)) →
      ∃ t, exec (.bucketOpen cd) s = .next t
        ∧ (∃ b, t.dev.dies[cd].ladle.bucket n = some b ∧ b.state = .isOpen ∧ b.elems = elems ∧ b.store = store
            ∧ b.es = (BitVec.ofNat 11 (x.recField e 0xC 2)).toInt ∧ b.step = BitVec.ofNat 32 (s.dev.stepNo c)
            ∧ b.nonfinite = 0 ∧ b.under = 0 ∧ b.sat = 0 ∧ b.present = false)
        ∧ (∀ a, store ≤ a → a < store + 8 * elems → memGet 0 t.dev.dies[cd].ladle.store a = 0)
        ∧ (∀ a, (a < store ∨ store + 8 * elems ≤ a) → memGet 0 t.dev.dies[cd].ladle.store a = memGet 0 k.store a)
        ∧ StartedIn t cd 10 e.no true ∧ t.dev.mem = s.dev.mem)
    ∧ (∀ (b : Bucket) (f : Fmt) (bs : List Byte) (neg : Bool) (mag : Nat) (ex : Int),
      let off := (x.recField e 8 4 + e.gb.toNat % 2 ^ 32) % 2 ^ 32
      let w := f.width / 8
      let old := (BitVec.ofNat 64 (le (memBytes 0 k.store (b.store + 8 * off) 8))).toInt
      let v : Int := (if neg then -1 else 1) * mag * 2 ^ (ex - b.es).toNat
      Starts s cd 10 1 c e → k.bucket (accumBucket x e) = some b → b.state = .isOpen → b.step.toNat = s.dev.stepNo c → x.recField e 1 1 % 8 = 0 → x.recField e 0xC 4 = 1 →
      x.recField e 0x10 4 = 1 → off < b.elems → fmtOf (x.recField e 2 1 % 16) = some f → f ≠ .q4 → f ≠ .sb16 →
      s.dev.readBytes c cd .ladle (wrap52 (x.recAddr e 0x18)) w = .ok bs → f.decode (field bs 0 w) = .fin neg mag ex → b.es ≤ ex →
      off ∉ b.satElems → -(2 ^ 63) ≤ old + v → old + v < 2 ^ 63 →
      ∃ t, exec (.accum cd) s = .next t
        ∧ memBytes 0 t.dev.dies[cd].ladle.store (b.store + 8 * off) 8 = bytesLE 8 (BitVec.ofInt 64 (old + v)).toNat
        ∧ (∀ a, (a < b.store + 8 * off ∨ b.store + 8 * off + 8 ≤ a) → memGet 0 t.dev.dies[cd].ladle.store a = memGet 0 k.store a)
        ∧ (∃ b', t.dev.dies[cd].ladle.bucket (accumBucket x e) = some b' ∧ b'.present = true ∧ b'.under = b.under ∧ b'.sat = b.sat
            ∧ b'.nonfinite = b.nonfinite ∧ b'.state = .isOpen)
        ∧ StartedIn t cd 10 e.no true ∧ t.dev.mem = s.dev.mem)

/-- R309, R310, R312: CLOSE of the open bucket of the current step that is next in order, under a configuration and with fewer than 64 outstanding, makes it outstanding and the last
one closed; its command has started and is not done. -/
def Sys2Proof.Claims.CloseStartsTheReduction : Prop :=
  ∀ (s : State) (cd : Cd) (c : Context) (e : QEntry) (b : Bucket),
    let x := s.dev.dies[cd]
    let n := bucketNo x e
    Starts s cd 10 2 c e → cwFlag e.w 0 = true → c.reduce.isSome → x.ladle.bucket n = some b → b.state = .isOpen → b.step.toNat = s.dev.stepNo c →
    n = x.ladle.nextClose (s.dev.stepNo c) → c.aborted = false →
    (x.ladle.buckets.filter fun b => b.state == .outstanding).length < 64 →
    ∃ t, exec (.bucketClose cd) s = .next t
      ∧ (∃ b', t.dev.dies[cd].ladle.bucket n = some b' ∧ b'.state = .outstanding ∧ b'.closeNo = e.no ∧ b'.elems = b.elems
          ∧ b'.want = decide (x.recField e 1 1 % 2 = 1))
      ∧ t.dev.dies[cd].ladle.lastClose = some (BitVec.ofNat 32 (s.dev.stepNo c), b.number)
      ∧ StartedIn t cd 10 e.no false ∧ t.dev.mem = s.dev.mem ∧ t.dev.dies[cd].ladle.store = x.ladle.store

/-- R307, R310, R311: an outstanding bucket whose duties at this position are done and that wants no results is complete once its digest entry is in the log: it is held only for the record that its CLOSE
writes at its completion point, and its CLOSE has written its last result, with the code DONE and the counts of the tree in its s value. -/
def Sys2Proof.Claims.CompletedBucketLeavesTheTable : Prop :=
  ∀ (s : State) (cd : Cd) (c : Context) (r : ReduceConfig) (b : Bucket) (n : BitVec 16) (h : List Byte),
    let x := s.dev.dies[cd]
    let t := c.node r (c.posOf cd)
    s.dev.residentOf cd = some c → c.reduce = some r → x.ladle.bucket n.toNat = some b → x.frozen = false → s.dev.enginesHeld c = false →
    b.state = .outstanding → b.complete t = true → b.want = false → x.closeStopped b = false →
    (b.logged = true ∨ (s.dev.logDigest c cd b t r 0).2 = true) →
    ((b.downLine t 2 0).orElse fun _ => b.downLine t 1 0) = some h →
    ∃ u, exec (.bucketComplete cd n) s = .next u ∧ u.dev.dies[cd].ladle.bucket n.toNat = none
      ∧ (∃ b' ∈ u.dev.dies[cd].ladle.buckets, b'.number = b.number ∧ b'.state = .completed ∧ b'.closeNo = b.closeNo ∧ b'.code = 0
          ∧ b'.total = field h 0x14 4 ∧ b'.totals = (List.range 4).map fun i => field h (0x18 + 4 * i) 4)
      ∧ (∀ e ∈ u.dev.dies[cd].queues[(10 : QueueId)], isClose 10 e = true → e.started = true → e.no = b.closeNo →
          e.done = true ∧ (cwSwr e.w = true → e.svals = [(cwSreg e.w, BitVec.ofNat 64
            (((List.range 4).map fun i => if field h (0x18 + 4 * i) 4 = 0 then 0 else 2 ^ (8 + i)).sum))]))
      ∧ u.dev.dies[cd].ladle.store = x.ladle.store ∧ (∀ o ∈ x.ladle.buckets, o.number ≠ b.number → o ∈ u.dev.dies[cd].ladle.buckets)

/-- CLOSE makes a bucket outstanding, and a bucket whose duties are done leaves the table. -/
def Obligations.BucketsCloseAndComplete : Prop :=
  Sys2Proof.Claims.CloseStartsTheReduction ∧ Sys2Proof.Claims.CompletedBucketLeavesTheTable

/-- R200, R216, R318, R319, R320: the first line due of a stream departs, once it is ready, with a line credit on a lane of its level, and is on its way to the next
position toward the stream's far end. A clean line on its last hop that arrives for an outstanding bucket, being its expected header or a line behind it, leaves the
wire and joins the bucket's received lines; the sender's credits rise by the lines of the stream that the position has consumed since they last rose. When a line counts as consumed, and which of
its level's lanes a line takes, are the model's choice (log entry 54). -/
def Obligations.LadleLinesDepartAndArrive : Prop :=
  ∀ (s : State) (cd : Cd) (st : LadleStream) (c : Context) (r : ReduceConfig),
    let x := s.dev.dies[cd]
    let pos := c.posOf cd
    let level := st.level.val + 1
    let credits := fun (k : Ladle) => if st.down then k.downCredits[st.level] else k.upCredits[st.level]
    s.dev.residentOf cd = some c → c.first + c.m ≤ 16 → x.frozen = false → c.reduce = some r →
    (∀ (dest : Nat) (b : Bucket) (phase : Nat) (l : List Byte), ladleTarget c.m pos level st.down = some dest →
      s.dev.stopping c = false → c.cond ≠ .faulted → 0 < credits x.ladle → s.dev.levelLanes c cd level ≠ [] →
      x.ladle.pick (c.node r pos) level st.down = some (b, phase, l) →
      ∃ (t : State) (lane : Nat),
        let line : LLine := { level := level, down := st.down, step := b.step, bucket := b.number, phase := phase, dest := dest, lane := lane, bytes := l }
        let n := if st.down then pos + 1 else pos - 1
        let y := s.dev.dies[c.cdAt n]
        let y' := t.dev.dies[c.cdAt n]
        exec (.ladleLineDepart cd st) s = .next t ∧ credits t.dev.dies[cd].ladle = credits x.ladle - 1 ∧ lane ∈ s.dev.levelLanes c cd level
        ∧ (n = dest → y'.ladle.wire = y.ladle.wire ++ [line])
        ∧ (n ≠ dest → st.down = true → y'.course.passCw = y.course.passCw ++ [line])
        ∧ (n ≠ dest → st.down = false → y'.course.passCcw = y.course.passCcw ++ [line])
        ∧ t.dev.mem = s.dev.mem ∧ t.dev.ctxs = s.dev.ctxs)
    ∧ (∀ (src : Nat) (w : LLine) (b : Bucket), ladleSource c.m pos level st.down = some src → x.nextPayload st = some w →
      x.ladle.tagged w.step w.bucket = some b → w.poisoned = false →
      (b.awaitsHeader level st.down w.phase = true → hdrElems w.bytes = b.elems) →
      ∃ (t : State) (b' : Bucket), exec (.ladlePayloadArrival cd st .clean) s = .next t ∧ t.dev.dies[cd].ladle.wire = x.ladle.wire.erase w
        ∧ t.dev.dies[cd].ladle.tagged w.step w.bucket = some b'
        ∧ (st.down = true → b'.downRecv = b.downRecv ++ [(w.phase, w.bytes)] ∧ b'.upRecv = b.upRecv)
        ∧ (st.down = false → b'.upRecv = b.upRecv ++ [(level, w.phase, w.bytes)] ∧ b'.downRecv = b.downRecv)
        ∧ (let i := streamIdx st.level st.down
          x.ladle.buckets = [b] → b'.credited[i] = Max.max b.credited[i] (b'.consumed (c.node r pos) level st.down)
            ∧ credits t.dev.dies[c.cdAt src].ladle = credits s.dev.dies[c.cdAt src].ladle + (b'.credited[i] - b.credited[i]))
        ∧ t.dev.mem = s.dev.mem ∧ t.dev.ctxs = s.dev.ctxs)

/-- R301, R313, R314, R321: between the Course part and the top of its tree, an upper-tree Ladle adds payload line i of its two present children when both have arrived: the 16
32-bit sums of phase 2 are added, the 32 exponents of phase 1 take the larger, and the line joins the tag entry's lines of its level. -/
def Obligations.UpperTreeAddsTheLinesOfItsChildren : Prop :=
  ∀ (s : State) (fd : Fin 2) (slot : CtxSlot) (bucket : BitVec 16) (level : Fin 17) (phase : Fin 2) (i : Nat) (c : Context) (r : ReduceConfig)
    (t : TreeTag) (peer : Nat) (a b ha hb : List Byte),
    let n := c.fdNode r
    let p := phase.val + 1
    let step := BitVec.ofNat 32 (s.dev.stepNo c)
    s.dev.ctxAt slot = some c → c.reduce = some r → r.treeFd = fd → r.modules ≠ 1 → c.withholds = false → c.aborted = false → s.dev.isGone c.tag = false →
    n.c + 1 < level.val → level.val < n.top → n.child level.val = some peer → 0 < i →
    s.dev.fds[fd].tag c.tag step bucket = some t → t.stopped = false → hdrElems ha = hdrElems hb → (t.up.filter fun l => l.1 == level.val && l.2.1 == p).length = i →
    t.upLine (level.val - 1) 1 0 = some ha → t.recvLine level.val 1 0 = some hb → hdrPresent ha = true → hdrPresent hb = true →
    t.upLine (level.val - 1) p i = some a → t.recvLine level.val p i = some b → (∀ l ∈ t.up, l.1 ≠ n.top) → a.length = 64 → b.length = 64 →
    ∃ (u : State) (l : List Byte) (t' : TreeTag), exec (.upperTreeLineAdd fd slot bucket level phase i) s = .next u
      ∧ u.dev.fds[fd].tag c.tag step bucket = some t' ∧ t'.up = t.up ++ [(level.val, p, l)] ∧ l.length = 64
      ∧ (phase = 1 → ∀ k < 16, BitVec.ofNat 32 (field l (4 * k) 4) = BitVec.ofNat 32 (field a (4 * k) 4) + BitVec.ofNat 32 (field b (4 * k) 4))
      ∧ (phase = 0 → ∀ k < 32, (BitVec.ofNat 16 (field l (2 * k) 2)).toInt
          = Max.max (BitVec.ofNat 16 (field a (2 * k) 2)).toInt (BitVec.ofNat 16 (field b (2 * k) 2)).toInt)
      ∧ u.dev.mem = s.dev.mem ∧ u.dev.dies = s.dev.dies

/-! ### Scales and Sieve (R279 to R299) -/

/-- R280, R285, R288, R289: a TAP takes effect at its start and completes. NORM binds an area that lies with its capacity in the CD's own bonded SRAM window; SCALES arms
the MAs of its mask for their next n readouts, and replaces their arming; SIEVE arms every MA of its mask with its tile counter at 0 and the phase (arg + i × N / 4) mod N.
Every other MA keeps its arming, and memory, the taps and the counters stay. A NORM area outside the window stops the TAP: the area stays and the context is FAULTED. -/
def Sys2Proof.Claims.TapsBindAndArm : Prop :=
  ∀ (s : State) (cd : Cd) (c : Context) (e : QEntry),
    let x := s.dev.dies[cd]
    let v := x.sieve
    let f := x.recField e
    let area := x.recAddr e 0x10
    let base := 0x100000000000 + cd.val * 0x80000000
    let inMask := fun (i : MaNo) => (BitVec.ofNat 4 (f 2 1)).getLsbD i.val
    let still := fun (t : State) => StartedIn t cd 11 e.no true ∧ t.dev.mem = s.dev.mem ∧ t.dev.ctxs = s.dev.ctxs
      ∧ (∀ o : Cd, o ≠ cd → t.dev.dies[o] = s.dev.dies[o]) ∧ t.dev.dies[cd].sieve.taps = v.taps ∧ t.dev.dies[cd].sieve.bins = v.bins
      ∧ t.dev.dies[cd].loc = x.loc ∧ t.dev.dies[cd].cox = x.cox
    Starts s cd 11 1 c e →
    (f 1 1 % 4 = 0 → base ≤ area → area + 64 + 48 * f 8 4 ≤ base + 0x80000000 → ∃ t, exec (.tapNorm cd) s = .next t ∧ still t
      ∧ t.dev.dies[cd].sieve = { v with area := some (BitVec.ofNat 52 area, BitVec.ofNat 32 (f 8 4), BitVec.ofNat 32 (e.gb.toNat % 2 ^ 32)) }
      ∧ t.dev.dies[cd].mas = x.mas)
    ∧ (f 1 1 % 4 = 0 → area < base ∨ base + 0x80000000 < area + 64 + 48 * f 8 4 → ∃ t, exec (.tapNorm cd) s = .next t
      ∧ t.dev.dies[cd].sieve = v ∧ StartedIn t cd 11 e.no false ∧ ∃ b ∈ t.dev.ctxs, b.slot = c.slot ∧ b.cond = .faulted)
    ∧ (f 1 1 % 4 = 1 → ∃ t, exec (.tapScales cd) s = .next t ∧ still t ∧ t.dev.dies[cd].sieve = v
      ∧ ∀ i : MaNo, t.dev.dies[cd].mas[i] = if inMask i then { x.mas[i] with tapLeft := f 8 4, tapAcc := idx 64 (f 3 1) } else x.mas[i])
    ∧ (f 1 1 % 4 = 2 → ∃ t, exec (.tapSieve cd) s = .next t ∧ still t ∧ t.dev.dies[cd].mas = x.mas
      ∧ (∀ i : MaNo, inMask i = false → t.dev.dies[cd].sieve.arms[i] = v.arms[i])
      ∧ ∀ i : MaNo, inMask i = true → ∃ a, t.dev.dies[cd].sieve.arms[i] = some a ∧ a.counter = 0 ∧ a.nlog = f 4 1 ∧ a.bin = f 5 1 ∧ a.cnt = f 6 2
          ∧ a.phase = (f 8 4 + i.val * 2 ^ f 4 1 / 4) % 2 ^ f 4 1 ∧ a.area = BitVec.ofNat 52 area ∧ a.wstride = BitVec.ofNat 32 (f 0x18 4))

/-- R281, R297 and the table "Telemetry record": with no sample in progress, a REPORT whose record of 1,152 bytes goes into the own bonded SRAM window writes the counters,
clears them and the taps when its clear bit is set and not otherwise, and gives an s-register that it names 1 when a threshold event has been raised since the previous
REPORT; the area, the arming and the open group persist. -/
def Sys2Proof.Claims.ReportWritesTheTelemetryRecord : Prop :=
  ∀ (s : State) (cd : Cd) (c : Context) (e : QEntry),
    let x := s.dev.dies[cd]
    let v := x.sieve
    let dst := x.recAddr e 8
    let base := 0x100000000000 + cd.val * 0x80000000
    Starts s cd 11 2 c e → v.sample = none → base ≤ dst → dst + 1152 ≤ base + 0x80000000 →
    ∃ rec : List Byte, rec.length = 1152 ∧ rec.getD 0 0 = 5 ∧ rec.getD 1 0 = BitVec.ofNat 8 cd.val ∧ field rec 2 2 = c.tag.toNat
      ∧ field rec 4 4 = s.dev.stepNo c % 2 ^ 32 ∧ (∀ i : Fin 16, field rec (8 + 4 * i.val) 4 = v.bins[i].count.toNat)
      ∧ field rec 0x48 4 = v.samples.count.toNat ∧ field rec 0x4C 4 = v.oversize.count.toNat ∧ field rec 0x50 4 = v.crossings.count.toNat
      ∧ field rec 0x54 4 = v.wovTiles.count.toNat ∧ field rec 0x58 8 = v.uwTotal.toNat ∧ field rec 0x60 4 = v.wovElems.count.toNat
      ∧ field rec 0x64 4 = v.uwSat.count.toNat
      ∧ (∀ a : Fin 64, (rec.drop (0x80 + 16 * a.val)).take 10 = v.taps[a].sum.mant ++ v.taps[a].sum.expo
          ∧ field rec (0x80 + 16 * a.val + 12) 4 = v.taps[a].count.count.toNat)
      ∧ ∀ d1 : Device, s.dev.putBytes c cd .telemetry dst rec = (d1, none) → ∃ t, exec (.report cd) s = .next t ∧ t.dev.mem = d1.mem
        ∧ (∀ q ∈ t.dev.dies[cd].queues[(11 : QueueId)], q.no = e.no → q.started = true ∧ q.done = true
            ∧ (cwSwr e.w = true → q.svals = [(cwSreg e.w, if v.raised then 1 else 0)]))
        ∧ (let w := t.dev.dies[cd].sieve
          w.raised = false ∧ w.area = v.area ∧ w.group = v.group ∧ w.arms = v.arms
            ∧ (x.recField e 1 1 % 2 = 0 → w = { v with raised := false })
            ∧ (x.recField e 1 1 % 2 = 1 → w.taps = Vector.replicate 64 {} ∧ w.bins = Vector.replicate 16 {} ∧ w.samples = {} ∧ w.crossings = {}
                ∧ w.oversize = {} ∧ w.wovTiles = {} ∧ w.wovElems = {} ∧ w.uwSat = {} ∧ w.uwTotal = 0 ∧ w.uwTotalOvf = false))

/-- TAP binds an area or arms arrays, and REPORT writes the telemetry record. -/
def Obligations.TapsBindArmAndReport : Prop :=
  Sys2Proof.Claims.TapsBindAndArm ∧ Sys2Proof.Claims.ReportWritesTheTelemetryRecord

/-- R293, the table "Disagreement bins": the bin of a finite value written and a finite wide value, as rational numbers. -/
def Sys2Proof.Claims.DisagreementBinsFollowTheirTable : Prop :=
  ∀ (nn nw : Bool) (mn mw : Nat) (en ew : Int),
    let yn : Val := .fin nn mn en
    let yw : Val := .fin nw mw ew
    let b := disagreeBin yn yw
    let d : ℚ := |exactly yn - exactly yw| / |exactly yw|
    (mw = 0 → (mn = 0 → b = 0) ∧ (mn ≠ 0 → b = 15))
    ∧ (mw ≠ 0 → (b = 0 ↔ d = 0) ∧ (b = 1 ↔ 0 < d ∧ d < 2 ^ (-14 : Int))
        ∧ (∀ i : Nat, 2 ≤ i → i ≤ 14 → (b = i ↔ (2 : ℚ) ^ ((i : Int) - 16) ≤ d ∧ d < (2 : ℚ) ^ ((i : Int) - 15)))
        ∧ (b = 15 ↔ 1 / 2 ≤ d))

/-- R292, R293, R294: the comparison of a sample whose readout is written frees the store, counts the sample and each element in its bin, and counts a crossing when at
least c elements fall in the bins from b on; the first crossing since the last REPORT posts SIEVE_THRESHOLD, and no other changes any ring. -/
def Sys2Proof.Claims.SieveComparisonCountsItsSample : Prop :=
  ∀ (s : State) (cd : Cd) (c : Context) (sm : Sample) (p : OutParams) (ys : List Val),
    let x := s.dev.dies[cd]
    let v := x.sieve
    let bl := sm.binList p ys
    let n := (bl.filter fun b => decide (sm.arm.bin ≤ b)).length
    s.dev.residentOf cd = some c → x.frozen = false → s.dev.enginesHeld c = false → v.sample = some sm → sm.readout = some (p, ys) →
    ∃ t, exec (.sieveComparison cd) s = .next t
      ∧ (let w := t.dev.dies[cd].sieve
        w.sample = none ∧ w.samples = v.samples.add 1 ∧ (∀ i : Fin 16, w.bins[i] = v.bins[i].add (bl.count i.val))
          ∧ w.crossings = v.crossings.add (if sm.arm.cnt ≤ n then 1 else 0) ∧ w.raised = (v.raised || decide (sm.arm.cnt ≤ n))
          ∧ w.taps = v.taps ∧ w.arms = v.arms ∧ w.group = v.group ∧ w.area = v.area)
      ∧ (sm.arm.cnt ≤ n → v.raised = false → ∃ d : Device, d.ctxs = s.dev.ctxs ∧ d.mem = s.dev.mem ∧ t.dev = d.event (.ctx c.slot) 0x82
          (bytesLE 1 5 ++ bytesLE 1 cd.val ++ bytesLE 2 c.tag.toNat ++ bytesLE 1 sm.ma.val ++ bytesLE 1 sm.arm.bin ++ bytesLE 2 n
            ++ bytesLE 4 sm.tileId.toNat ++ bytesLE 4 sm.j ++ bytesLE 8 (s.dev.cycle (BitVec.ofNat 16 (cd.val * 1024 + 128))).toNat ++ zeros 8))
      ∧ ((sm.arm.cnt ≤ n → v.raised = true) → t.dev.mem = s.dev.mem ∧ t.dev.ctxs = s.dev.ctxs)
      ∧ (NoLinkErrors s → ∀ o : Cd, o ≠ cd → t.dev.dies[o] = s.dev.dies[o])

/-- Disagreement bins follow their table, and a comparison counts its sample and crossing. -/
def Obligations.SieveBinsAndCountsItsSample : Prop :=
  Sys2Proof.Claims.DisagreementBinsFollowTheirTable ∧ Sys2Proof.Claims.SieveComparisonCountsItsSample

/-! ### Commands of the engine queues and the Course (R150, R154, R155, R198 to R228) -/

/-- R132, R149, R154, R155: the release point of the first started command of a queue that has read its input gives the credit of the link it takes from back; the completion point of a
command that has written its last result and has been released gives a token to the link it gives on, writes its s values, each mark clearing unless a later command has
set it again, and frees the entry. R311: that of a CLOSE whose record asks for one first writes the bucket's completion record. A SYNC has neither command (R150, SyncTakesAndGivesInTheCycleOfItsStart). That a command's release and its completion are two commands of the block, each at an instant of its own, is the model's choice (log entry 13). Stated for commands of the queues that neither gate nor post. -/
def Obligations.ReleaseAndCompletionPoints : Prop :=
  ∀ (s : State) (cd : Cd) (q : QueueId) (c : Context) (e : QEntry),
    let x := s.dev.dies[cd]
    let tokens := fun (y : Die) (l : Nat) => (y.links[l]?).map (·.tokens)
    let credits := fun (y : Die) (l : Nat) => (y.links[l]?).map (·.credits)
    let frame := fun (t : State) => t.dev.mem = s.dev.mem ∧ t.dev.ctxs = s.dev.ctxs ∧ (∀ o : Cd, o ≠ cd → t.dev.dies[o] = s.dev.dies[o])
      ∧ (∀ p : QueueId, p ≠ q → t.dev.dies[cd].queues[p] = x.queues[p]) ∧ t.dev.dies[cd].loc = x.loc ∧ t.dev.dies[cd].mas = x.mas
    let gone := fun (t : State) => t.dev.dies[cd].queues[q] = x.queues[q].filter fun b => decide (b.no ≠ e.no)
    let written := fun (t : State) (r : Fin 16) (v : W64) => t.dev.dies[cd].cox.s[r] = v
      ∧ t.dev.dies[cd].cox.pend[r] = if x.cox.pendNo[r] = e.no then 0 else x.cox.pend[r]
    s.dev.residentOf cd = some c → x.frozen = false → s.dev.enginesHeld c = false → (∀ j, moveFlag q e j = false) →
    ((x.queues[q].find? fun e => e.started && e.inputRead && !e.released) = some e →
      ∃ t, exec (.commandReleasePoint cd q) s = .next t ∧ frame t ∧ t.dev.dies[cd].cox = x.cox
        ∧ (∀ b ∈ t.dev.dies[cd].queues[q], b.no = e.no → b.released = true)
        ∧ ∀ l, tokens t.dev.dies[cd] l = tokens x l
          ∧ credits t.dev.dies[cd] l = (credits x l).map fun n => if cwTe e.w = true ∧ cwTl e.w = l then n + 1 else n)
    ∧ ((x.queues[q].find? fun e => e.started && e.done && e.released && !e.stopped && !(isClose q e &&
          (x.queues[q].any fun b => isClose q b && decide (b.no < e.no)))) = some e → s.dev.companionWait c cd q = false →
      (isClose q e = true → ∀ b ∈ x.ladle.buckets, b.state = .completed → b.closeNo ≠ e.no) →
      ∃ t, exec (.commandCompletionPoint cd q) s = .next t ∧ frame t ∧ gone t ∧ t.dev.dies[cd].cox.g = x.cox.g
        ∧ (∀ r v, e.svals = [(r, v)] → written t r v)
        ∧ (∀ r : Fin 16, (∀ v, (r, v) ∉ e.svals) → t.dev.dies[cd].cox.s[r] = x.cox.s[r] ∧ t.dev.dies[cd].cox.pend[r] = x.cox.pend[r])
        ∧ ∀ l, credits t.dev.dies[cd] l = credits x l
          ∧ tokens t.dev.dies[cd] l = (tokens x l).map fun n => if cwGe e.w = true ∧ cwGl e.w = l then n + 1 else n)
    ∧ (∀ (b : Bucket) (r : ReduceConfig) (d1 : Device), s.dev.completing cd q = some (c, e) → isClose q e = true →
      (x.ladle.buckets.find? fun b => b.state == .completed && b.closeNo == e.no) = some b → c.reduce = some r →
      le (x.planBytes (b.recordOff + 1) 1) / 2 % 2 = 1 →
      s.dev.putBytes c cd .ladle (wrap52 (le (x.planBytes (b.recordOff + 0x10) 8) % 2 ^ 52 + b.ga.toNat))
        (b.record (c.node r (c.posOf cd)) c.tag b.code b.total b.totals) = (d1, none) →
      ∃ t, exec (.commandCompletionPoint cd q) s = .next t ∧ t.dev.mem = d1.mem ∧ gone t ∧ t.dev.dies[cd].ladle.buckets = x.ladle.buckets.erase b)

/-- R150: a SYNC whose link conditions hold does no work: in the cycle in which it starts it takes from its link and gives on its link like any command, and is released and completed, so that it leaves its queue and nothing else changes. One whose link lacks a credit or a token stays as it is. -/
def Obligations.SyncTakesAndGivesInTheCycleOfItsStart : Prop :=
  ∀ (s : State) (cd : Cd) (q : QueueId) (c : Context) (e : QEntry),
    let x := s.dev.dies[cd]
    (Starts s cd q 0x3F c e → Fresh e → ∃ t, exec (.sync cd q) s = .next t
      ∧ t.dev.mem = s.dev.mem ∧ t.dev.ctxs = s.dev.ctxs ∧ (∀ o : Cd, o ≠ cd → t.dev.dies[o] = s.dev.dies[o])
      ∧ (∀ p : QueueId, p ≠ q → t.dev.dies[cd].queues[p] = x.queues[p]) ∧ t.dev.dies[cd].loc = x.loc ∧ t.dev.dies[cd].mas = x.mas
      ∧ t.dev.dies[cd].queues[q] = x.queues[q].filter (fun b => decide (b.no ≠ e.no)) ∧ t.dev.dies[cd].cox = x.cox
      ∧ ∀ l, ((t.dev.dies[cd].links[l]?).map fun k => (k.credits, k.tokens)) = (x.links[l]?).map fun k =>
          ((if cwGe e.w = true ∧ cwGl e.w = l then k.credits - 1 else k.credits) + (if cwTe e.w = true ∧ cwTl e.w = l then 1 else 0),
           (if cwTe e.w = true ∧ cwTl e.w = l then k.tokens - 1 else k.tokens) + (if cwGe e.w = true ∧ cwGl e.w = l then 1 else 0)))
    ∧ (headOf x.queues[q] = some e → cwOp e.w = 0x3F → x.linkWait e ≠ none → cutOf x.queues[q] = none → exec (.sync cd q) s = .next s)

/-- R202, R228: a START marker sets the counter of a position above 0, whose position 0 has sent it, to 64 h at a run start, where h is the hop distance from position 0; round and
flags start at 0, and the wheel of each controller at position 0. -/
def Sys2Proof.Claims.StartMarkerSetsTheCounter : Prop :=
  ∀ (s : State) (cd : Cd) (c : Context) (p : Plan),
    let x := s.dev.dies[cd]
    let pos := cd.val - c.first
    s.dev.residentOf cd = some c → c.plan = some p → c.runsNow = true → pos ≠ 0 → x.course.counter = none →
    x.course.resume = none → s.dev.dies[c.cdAt 0].course.awaitsStart = false →
    ∃ t, exec (.startMarker cd) s = .next t
      ∧ t.dev.dies[cd].course = { x.course with
          counter := some (64 * (if p.m = 16 then Min.min pos (16 - pos) else pos)), round := 0, readyNo := 0, flagNo := Vector.replicate 16 0,
          pause := none, adDue := 0 }
      ∧ (∀ i : Fin 2, t.dev.lpcs[cd][i] = { s.dev.lpcs[cd][i] with wheelPos := 0 })
      ∧ (∀ o : Cd, o ≠ cd → t.dev.dies[o] = s.dev.dies[o] ∧ t.dev.lpcs[o] = s.dev.lpcs[o]) ∧ t.dev.mem = s.dev.mem ∧ t.dev.ctxs = s.dev.ctxs

/-- R204, R205, R227: a CD that is ready for the next round sends its READY at counter value start − 1,024, unless frozen, paused, or kept below that value by a missing flag or by a round not
yet started; one that is not ready does not send, and its counter waits. It keeps room for the adapter lines of
the round that are to arrive (R204). The next READY flag of another position of the arc arrives once that position has sent it; PAUSE(q)
arrives, after the START that position 0 sent before it, with the round that position 0 has chosen. -/
def Sys2Proof.Claims.ReadyAndPauseFlagsTravel : Prop :=
  ∀ (s : State) (cd : Cd) (c : Context) (p : Plan),
    let k := s.dev.dies[cd].course
    let pos := cd.val - c.first
    let only := fun (t : State) (k' : Course) =>
      t = { s with dev := { s.dev with dies := s.dev.dies.set cd { s.dev.dies[cd] with course := k' } } }
    s.dev.residentOf cd = some c → c.plan = some p →
    (∀ (q v : Nat), k.readyNo = q → p.startOf q = some v → k.counter.isSome = true → k.resume = none → s.dev.dies[cd].frozen = false →
      (k.pause = none ∨ ∃ u, k.pause = some u ∧ q < u) →
      (∀ f, p.startOf (k.flagsTo p.m) = some f → v - 1024 ≤ f - 512) → (∀ f, p.startOf k.round = some f → v - 1024 ≤ f) →
      (k.ready p pos q = true → ∃ t, exec (.readySend cd) s = .next t ∧ only t { k with
          counter := some (Max.max (k.counter.getD 0) (v - 1024)), readyNo := q + 1, flagNo := k.flagNo.set (idx 16 pos) (q + 1),
          adDue := k.adDue + p.delivers pos q })
      ∧ (k.ready p pos q = false → exec (.readySend cd) s = .next s))
    ∧ (∀ o : Fin 16, o.val < c.m → o.val ≠ pos → k.counter.isSome = true → k.flagNo[o] < s.dev.dies[c.cdAt o.val].course.readyNo →
      ∃ t, exec (.readyArrival cd o) s = .next t ∧ only t { k with flagNo := k.flagNo.set o (k.flagNo[o] + 1) })
    ∧ (∀ q, s.dev.dies[c.cdAt 0].course.pause = some q → c.resumeDue = false → k.counter.isSome = true → k.resume = none →
      ∃ t, exec (.pauseArrival cd q) s = .next t ∧ only t { k with pause := some q })

/-- R203, R205, R207, R211, R227: a round starts when the counter may reach its start and no pause holds it: the counter stands there, the next round is due, the tiles of the round take
their places in the receive buffer in receipt order, and the own tile leaves the Course-out buffer. A round whose READY flags have not all arrived by start − 512 does not start. -/
def Sys2Proof.Claims.RoundStartsAtItsScheduledValue : Prop :=
  ∀ (s : State) (cd : Cd) (c : Context) (p : Plan) (v : Nat),
    let k := s.dev.dies[cd].course
    s.dev.residentOf cd = some c → c.plan = some p → c.resumeDue = false → p.startOf k.round = some v →
    (k.counter.isSome = true → k.resume = none → s.dev.dies[cd].frozen = false → (k.pause = none ∨ ∃ u, k.pause = some u ∧ k.round < u) →
      (∀ f, p.startOf k.readyNo = some f → v ≤ f - 1024) → (∀ f, p.startOf (k.flagsTo p.m) = some f → v ≤ f - 512) →
      ∃ t, exec (.roundStart cd) s = .next t
        ∧ (let k' := t.dev.dies[cd].course
          k'.counter = some (Max.max (k.counter.getD 0) v) ∧ k'.round = k.round + 1
            ∧ k'.out = k.out.filter (fun b => decide (b.round ≠ k.round))
            ∧ (∃ l, k'.recv = k.recv ++ l ∧ l.map (fun b => (b.owner, b.round)) = (p.receipts (c.posOf cd) k.round).map fun r =>
                if r.1 = c.posOf cd then
                  (match k.out.find? (fun b => b.round == k.round) with | some b => (b.owner, b.round) | none => (c.posOf cd, k.round))
                else r)
            ∧ k'.readyNo = k.readyNo ∧ k'.flagNo = k.flagNo)
        ∧ t.dev.mem = s.dev.mem ∧ t.dev.ctxs = s.dev.ctxs)
    ∧ (∀ f, p.startOf (k.flagsTo p.m) = some f → f - 512 < v → exec (.roundStart cd) s = .next s)

/-- A START marker sets the counter, READY and PAUSE flags travel, and a round starts at its counter value when its flags have arrived. -/
def Obligations.StartMarkersFlagsAndRounds : Prop :=
  Sys2Proof.Claims.StartMarkerSetsTheCounter ∧ Sys2Proof.Claims.ReadyAndPauseFlagsTravel ∧ Sys2Proof.Claims.RoundStartsAtItsScheduledValue

/-- R200, R208, R209: a clean weight line that has crossed its hop leaves its link, is placed in the receive buffer under its owner and round and is passed on, until its last hop, on the
lane of its slot, at once or in the round that its next hop belongs to; no bit of its bytes changes. An uncorrectable line that has not been poisoned before is not placed, goes on
poisoned, and puts the context in FAULTED. R213: a clean adapter line of an entry that delivers it here joins the delivered lines of its entry, and ends at its last hop. R216: with no weight or
adapter line on the link, a clean Ladle line that passes goes on toward the next position. A link without a line, and a CD without a context or a plan, take no line: nothing changes. -/
def Obligations.CourseLinesAreDeliveredAndForwarded : Prop :=
  ∀ (s : State) (cd : Cd) (cw : Bool),
    let x := s.dev.dies[cd]
    let k := x.course
    let lines := if cw then k.inCw else k.inCcw
    let withCourse := fun (k' : Course) => ({ s with dev := { s.dev with dies := s.dev.dies.set cd { x with course := k' } } } : State)
    (s.dev.residentOf cd = none → ∀ check, exec (.courseLineArrival cd cw check) s = .next s)
    ∧ ∀ (c : Context) (p : Plan), s.dev.residentOf cd = some c → c.plan = some p → x.frozen = false → c.resumeDue = false →
      (∀ (l : CLine) (rest : List CLine), lines = l :: rest →
        let k0 : Course := if cw then { k with inCw := rest } else { k with inCcw := rest }
        (l.adapter = false → l.round + l.hop - 1 < k.round → l.cw = cw → l.poisoned = false →
          (nextPos p.m (c.posOf cd) cw = none →
            exec (.courseLineArrival cd cw .clean) s = .next (withCourse { k0 with recv := k.recv.map fun b => b.put l }))
          ∧ (∀ n, nextPos p.m (c.posOf cd) cw = some n → crossesHop p.m (l.hop + 1) l.line cw = true → k.round ≤ l.round + l.hop →
            ∃ w : CLine, exec (.courseLineArrival cd cw .clean) s
                = .next (withCourse { k0 with recv := k.recv.map fun b => b.put l, fwd := k.fwd ++ [w] })
              ∧ w.bytes = l.bytes ∧ w.hop = l.hop + 1 ∧ w.owner = l.owner ∧ w.round = l.round ∧ w.line = l.line ∧ w.cw = cw ∧ w.poisoned = false)
          ∧ (nextPos p.m (c.posOf cd) cw = none → ∃ t, exec (.courseLineArrival cd cw .uncorrectable) s = .next t
            ∧ t.dev.dies[cd].course = k0 ∧ (∃ b ∈ t.dev.ctxs, b.slot = c.slot ∧ b.cond = .faulted) ∧ t.dev.dies[cd].faultDue.isSome = true))
        ∧ (∀ a : AEntry, l.adapter = true → l.round < k.round → l.poisoned = false → p.aentries[l.entry]? = some a → a.deliver.getLsbD (l.hop - 1) = true →
          a.hops ≤ l.hop → exec (.courseLineArrival cd cw .clean) s
            = .next (withCourse { k0 with adIn := k.adIn ++ [(l.entry, l.line, l.bytes)], adDue := k.adDue - 1 })))
      ∧ (lines = [] → (if cw then k.passCw else k.passCcw) = [] → ∀ check, exec (.courseLineArrival cd cw check) s = .next s)
      ∧ (∀ (l : LLine) (rest : List LLine) (n : Nat), lines = [] → (if cw then k.passCw else k.passCcw) = l :: rest → l.down = cw →
        nextPos c.m (c.posOf cd) cw = some n → c.cdAt n ≠ cd →
        ∃ t, exec (.courseLineArrival cd cw .clean) s = .next t ∧ t.dev.dies[cd].course = (if cw then { k with passCw := rest } else { k with passCcw := rest })
          ∧ (let y := s.dev.dies[c.cdAt n]
            let y' := t.dev.dies[c.cdAt n]
            (n = l.dest → y'.ladle.wire = y.ladle.wire ++ [l]) ∧ (n ≠ l.dest → cw = true → y'.course.passCw = y.course.passCw ++ [l])
              ∧ (n ≠ l.dest → cw = false → y'.course.passCcw = y.course.passCcw ++ [l]))
          ∧ t.dev.mem = s.dev.mem ∧ t.dev.ctxs = s.dev.ctxs)

/-! ### LPDDR5X controllers and companion memory (R173 to R177, R207, R212, R359, R411, R446) -/

/-- R176, R177, R212, R446: a trained controller that is not in self refresh serves the position of its wheel and moves on. A code-0 window counts; one that the refresh rate leaves
unused writes back the corrected lines that wait and scrubs 16 lines in address order, here without an error, and one that carries refresh scrubs none. A position of a code other than 0 and 1
passes with no other effect on the controller. The memories hold what they held, with the damage that the environment has done to their stored bits since (log entry 55). An untrained
controller does nothing. (Which window numbers a multiplier leaves unused is the model's choice, log entry 19.) -/
def Sys2Proof.Claims.WheelMovesAndUnusedWindowsScrub : Prop :=
  ∀ (s : State) (cd : Cd) (i : Fin 2) (decay : List MemError),
    let l := s.dev.lpcs[cd][i]
    let code := s.dev.wheelCode cd i
    let m : Mem := decay.foldl (fun m e => m.decay (s.dev.place e.dpa.toNat) e) s.dev.mem
    let moved := fun (l' : Lpc) (m' : Mem) => ({ s.dev with lpcs := s.dev.lpcs.set cd (s.dev.lpcs[cd].set i l'), mem := m' } : Device)
    let lines := if s.dev.code = .a2b ∨ s.dev.code = .a2c then 124 * 2 ^ 23 else 62 * 2 ^ 23
    let line := fun (k : Nat) => (cd.val * 2 ^ 37 + (k / 4) * 512 + i.val * 256 + k % 4 * 64) / 64
    (l.trained = false ∨ l.selfRefresh = true → exec (.lpddrWheelServe cd i decay) s = .next s)
    ∧ (l.trained = true → l.selfRefresh = false →
      (1 < code → exec (.lpddrWheelServe cd i decay) s = .next { s with dev := moved { l with wheelPos := l.wheelPos + 1 } m })
      ∧ (code = 0 → l.windows % 2 ^ (2 - l.mult.toNat) = 0 →
          exec (.lpddrWheelServe cd i decay) s = .next { s with dev := moved { l with wheelPos := l.wheelPos + 1, windows := (l.windows + 1) % 4 } m })
      ∧ (code = 0 → l.windows % 2 ^ (2 - l.mult.toNat) ≠ 0 →
          (∀ k < 16, line ((l.scrub.toNat + k) % lines) ∉ m.ueLines ∧ line ((l.scrub.toNat + k) % lines) ∉ m.ceLines) →
          exec (.lpddrWheelServe cd i decay) s = .next { s with dev := (moved { l with
            wheelPos := l.wheelPos + 1, windows := (l.windows + 1) % 4, writeBack := [], scrub := BitVec.ofNat 32 ((l.scrub.toNat + 16) % lines) }
            { m with ceLines := m.ceLines.filter fun x => !l.writeBack.contains x }) }))

/-- R207, R212: at a code-1 position channel 0 reads the first line of its tile still missing that lies on this device, when it is not a gathered one and holds no error: the line joins the tile in the Course-out
buffer, the wheel moves on, and the memories stay. -/
def Sys2Proof.Claims.ShareLineIsReadAtItsWheelPosition : Prop :=
  ∀ (s : State) (cd : Cd) (i : Fin 2) (c : Context) (p : Plan) (t : CTile) (ix n a : Nat) (bs : List Byte),
    let l := s.dev.lpcs[cd][i]
    let x := s.dev.dies[cd]
    let pos := c.posOf cd
    let base := ((p.shareBase[pos]?).getD 0).toNat
    l.trained = true → l.selfRefresh = false → s.dev.wheelCode cd i = 1 → s.dev.residentOf cd = some c → c.plan = some p → c.runsNow = true →
    x.frozen = false → s.dev.enginesHeld c = false → x.course.reading p pos = some (t, ix) → n < 272 → (∀ b ∈ t.lines, b.1 ≠ n) →
    s.dev.shareLine c cd base ix n = .ok (a, false) → a % 2 ^ 37 / 256 % 2 = i.val →
    (∀ j < n, (∃ b ∈ t.lines, b.1 = j) ∨ ∃ a' g, s.dev.shareLine c cd base ix j = .ok (a', g) ∧ a' % 2 ^ 37 / 256 % 2 ≠ i.val) →
    s.dev.readLine c cd .tongs none a = .ok bs → s.dev.mem.ceLines.contains (a / 64) = false →
    (t.lines = [] → ∀ j < 16, s.dev.mem.ceLines.contains (wrap52 (base + 16 * ix + j) / 64) = false) →
    ∃ t', exec (.lpddrWheelServe cd i []) s = .next t'
      ∧ (∃ b ∈ t'.dev.dies[cd].course.out, b.round = t.round ∧ b.lines = t.lines ++ [(n, bs)])
      ∧ t'.dev.dies[cd].course.share = (if t.lines.length + 1 = 272 then x.course.share + 1 else x.course.share)
      ∧ t'.dev.lpcs[cd][i].wheelPos = l.wheelPos + 1 ∧ t'.dev.mem = s.dev.mem ∧ t'.dev.ctxs = s.dev.ctxs ∧ t'.dev.dies[cd].loc = x.loc

/-- R446: a read of MR4 that requires a higher multiplier raises it at once; one that requires a lower one lowers it only when the read before required less as well, and not below the loop's
low bound, whether the temperature has held it above the high bound or not; a field beyond the ×4 range shuts the module down. (The coding of the field is the model's, log entry 26: 0 to 3 ask for ×1, 4 for ×2,
5 and 6 for ×4.) -/
def Sys2Proof.Claims.RefreshMultiplierFollowsMr4 : Prop :=
  ∀ (s : State) (cd : Cd) (i : Fin 2) (f : BitVec 3),
    let l := s.dev.lpcs[cd][i]
    let lo := s.dev.loops[(1 : Fin 18)].low.toNat
    let hi := s.dev.loops[(1 : Fin 18)].high.toNat
    let need := if f.toNat ≤ 3 then 0 else if f.toNat = 4 then 1 else 2
    let ends := fun (m k : Nat) => ∃ t, exec (.mr4Read cd i f) s = .next t ∧ t.dev.lpcs[cd][i].mult.toNat = m ∧ t.dev.lpcs[cd][i].lower = k
      ∧ t.dev.lpcs[cd][i].mr4 = f ∧ t.dev.dies = s.dev.dies ∧ t.dev.pd = s.dev.pd
      ∧ (∀ j : Fin 2, j ≠ i → t.dev.lpcs[cd][j] = s.dev.lpcs[cd][j]) ∧ (∀ o : Cd, o ≠ cd → t.dev.lpcs[o] = s.dev.lpcs[o])
    l.trained = true →
    (f.toNat ≤ 6 → lo ≤ hi → lo ≤ 2 →
      (l.mult.toNat ≤ Max.max need lo → ends (Max.max need lo) 0)
      ∧ (Max.max need lo < l.mult.toNat → l.lower = 0 → ends l.mult.toNat 1)
      ∧ (Max.max need lo < l.mult.toNat → l.lower = 1 → ends (Max.max need lo) 0))
    ∧ (f.toNat = 7 → ∃ t, exec (.mr4Read cd i f) s = .next t ∧ t.dev.pd.rails = 0 ∧ t.dev.pd.pwrGood = false ∧ t.dev.pd.thermTrip = true)

/-- A controller serves its wheel: refresh, scrub and share reads, and the multiplier that MR4 asks for (log entries 19 and 26). -/
def Obligations.ControllersServeTheirWheel : Prop :=
  Sys2Proof.Claims.WheelMovesAndUnusedWindowsScrub ∧ Sys2Proof.Claims.ShareLineIsReadAtItsWheelPosition ∧ Sys2Proof.Claims.RefreshMultiplierFollowsMr4

/-- R359, R171: a companion access of a MOVE without an answer leaves the list and gives its context a COMPANION_ERR record at its line: the MOVE has stopped and the context is FAULTED; a write of the HD that waits for
the link leaves its list with such a record, and the context that it was made for is FAULTED; a descriptor that waits for its first read of companion memory completes with such a
record and its context is FAULTED. (That accesses wait in these lists while the link is down is the model's choice, log entry 14.) R411: a record of a registered window that is verified joins the package buffer as the most recently served one, with its
plaintext, and the buffer never holds more than 16 records when it held no more before; one whose lines the link answers with an error, or whose tag fails, is not kept (which of the two it is rests on AES-GCM, which Config leaves opaque). -/
def Obligations.CompanionTimeoutAndPackageRecords : Prop :=
  ∀ (s : State),
    (∀ (k : Nat) (a : CompanionAccess) (c : Context) (e : QEntry), s.dev.companion[k]? = some a → s.dev.ctxAt a.slot = some c →
      ((s.dev.dies[a.cd].queues[a.queue].find? fun e => e.started && cwOp e.w == 1) = some e) →
      ∃ t, exec (.companionTimeout k) s = .next t ∧ t.dev.companion = s.dev.companion.erase a
        ∧ (∃ b ∈ t.dev.ctxs, b.slot = a.slot ∧ b.cond = .faulted)
        ∧ (∀ b ∈ t.dev.dies[a.cd].queues[a.queue], b.no = e.no → b.stopped = true)
        ∧ ∃ r ∈ t.dev.dump.log, r.cls = 7 ∧ r.code = 8 ∧ r.dpaOk = true ∧ r.dpa = a.dpa ∧ r.ctx = c.tag)
    ∧ (∀ (k : Nat) (w : HeldWrite), s.dev.yalkenUp = false → s.dev.heldWrites[k]? = some w →
      ∃ t, exec (.companionTimeout (s.dev.companion.length + k)) s = .next t ∧ s.dev.heldWrites.eraseIdx k <+: t.dev.heldWrites
        ∧ t.dev.companion = s.dev.companion ∧ t.dev.mem = s.dev.mem ∧ (w.ctx = 0 ∨ s.dev.ctxTag w.ctx = none → t.dev.dies = s.dev.dies)
        ∧ (∀ c, w.ctx ≠ 0 → s.dev.ctxTag w.ctx = some c → ∃ b ∈ t.dev.ctxs, b.slot = c.slot ∧ b.cond = .faulted)
        ∧ ∃ r ∈ t.dev.dump.log, r.cls = 7 ∧ r.code = 8 ∧ r.dpaOk = true ∧ r.dpa = BitVec.ofNat 52 (w.dpa / 64 * 64) ∧ r.ctx = w.ctx)
    ∧ (∀ (k a : Nat) (id : RingId) (d : Taken), s.dev.yalkenUp = false → s.dev.waitingHeads[k]? = some (id, a) → s.dev.head id = some d →
      ∃ t, exec (.companionTimeout (s.dev.companion.length + s.dev.heldWrites.length + k)) s = .next t ∧ t.dev.head id = none
        ∧ t.dev.companion = s.dev.companion ∧ t.dev.mem = s.dev.mem
        ∧ (∀ slot, id = .ctx slot → ∃ b ∈ t.dev.ctxs, b.slot = slot ∧ b.cond = .faulted)
        ∧ ∃ r ∈ t.dev.dump.log, r.cls = 7 ∧ r.code = 8 ∧ r.dpaOk = true ∧ r.dpa = BitVec.ofNat 52 (a / 64 * 64))
    ∧ (∀ (dom wn : Fin 64) (n : Nat) (w : Window), s.dev.boat.domains[dom].windows[wn.val]? = some w → 65536 * n < w.len →
      s.dev.boat.package.length ≤ 16 → (∀ r ∈ s.dev.boat.package, ¬ (r.domain = dom.val ∧ r.window = wn.val ∧ r.record = n)) →
      ∃ t : State, exec (.packageRecordVerify dom wn n) s = .next t ∧ t.dev.boat.package.length ≤ 16 ∧ t.dev.mem = s.dev.mem ∧ t.dev.ctxs = s.dev.ctxs
        ∧ match (if s.dev.recordErr w n then none else s.dev.verifyRecord w n) with
          | some p => ∃ r : PkgRecord, t.dev.boat.package.getLast? = some r ∧ r.domain = dom.val ∧ r.window = wn.val ∧ r.record = n ∧ r.plain = p
          | none => t = s)

/-! ### Rings (R357 to R376) -/

/-- R360, R361, R365, R370, R371: a completion goes into the entry at cq_tail, with the header of its descriptor, its code, flags and result; cq_tail rises, one reserved entry is given back, and the
status line and the signal follow. Every other byte of memory reads as before. Stated of the writes as they land in memory. -/
def Sys2Proof.Claims.CompletionEntryIsWrittenWithItsStatusLine : Prop :=
  ∀ (m : Memory) (r : RingSet) (tag : BitVec 16) (op : BitVec 8) (seq : BitVec 32) (code flags : Nat) (result : List Byte),
    m.wf 0 = true → RingApart r →
    let y := ringComplete tag op seq code flags result ([], r)
    CompletionLanded m (Writes.land y.1 m) r y.2 tag op seq code flags result

/-- R360, R370, R371: the completion of a descriptor lands in memory over a link that is up and answers without errors: that of a NOP at the head of its context's ring, whatever the context does, and
that of every command which ends in the completion of the descriptor at a head. The head is free again. -/
def Sys2Proof.Claims.DescriptorCompletionsLand : Prop :=
  ∀ (s : State) (slot : CtxSlot) (t : Taken),
    let lands := fun (d : Device) (u : State) (code flags : Nat) (result : List Byte) =>
      ∀ (c : Context) (r : RingSet), d.ctxAt slot = some c → c.ring = some r → d.yalkenUp = true → MemoriesOk d → RingApart r → RingWritable d r →
        ∃ (c' : Context) (r' : RingSet), u.dev.ctxAt slot = some c' ∧ c'.head = none ∧ c'.ring = some r'
          ∧ CompletionLanded d.mem.bytes u.dev.mem.bytes r r' c.tag t.op t.seq code flags result
    (∀ c : Context, s.dev.ctxAt slot = some c → c.head = some t → t.op = 0x3F → s.dev.underReset (.ctx slot) = false → (∀ v ∈ c.run, v.op ≠ 0x3F) →
      s.dev.yalkenUp = true → ∃ u, exec (.contextNop slot) s = .next u ∧ lands s.dev u 0 0 [])
    ∧ (∀ (i : Instr) (d : Device) (code flags : Nat) (result : List Byte) (u : State), exec i s = .next u →
      u = Completed s d (.ctx slot) t code flags result → lands d u code flags result)

/-- R376, R370: an event of a running ring set goes into the entry at eq_tail, with the code as opcode and the event sequence number, which rises with eq_tail; status line and signal follow. On a full or
stopped ring the event is dropped: eq_lost rises, or stays at all ones with its overflow bit set, and memory stays. The first event written after drops is EVENTS_LOST, which tells their number. -/
def Sys2Proof.Claims.EventsAreWrittenOrCountedAsLost : Prop :=
  ∀ (m : Memory) (r : RingSet) (tag : BitVec 16) (code : Nat) (payload : List Byte),
    m.wf 0 = true → RingApart r →
    let y := ringEvent tag code payload ([], r)
    let m' := Writes.land y.1 m
    let slot := fun (k : Nat) => r.eq.toNat + 64 * ((r.eqTail.toNat + k) % 2 ^ 32 % 2 ^ r.eqN)
    let held := (r.eqTail - r.eqHead).toNat
    (r.stopped = false → r.lost = 0 → held < 2 ^ r.eqN →
      memBytes 0 m' (slot 0) 64 = ringEntry code tag r.eventSeq payload
        ∧ Told m' { r with eqTail := r.eqTail + 1, eventSeq := r.eventSeq + 1 } y.2
        ∧ ∀ a, (a < slot 0 ∨ slot 0 + 64 ≤ a) → (a < r.sts.toNat ∨ r.sts.toNat + 64 ≤ a) → (a < r.sig.toNat ∨ r.sig.toNat + 4 ≤ a) →
            memGet 0 m' a = memGet 0 m a)
    ∧ (r.stopped = true ∨ 2 ^ r.eqN ≤ held →
        y = ([], { r with
          eqLost := (if r.eqLost.count = BitVec.allOnes 32 then { r.eqLost with ovf := true } else { r.eqLost with count := r.eqLost.count + 1 })
          lost := r.lost + 1 }))
    ∧ (r.stopped = false → r.lost ≠ 0 → held + 1 < 2 ^ r.eqN → r.eqN < 32 →
        memBytes 0 m' (slot 0) 64 = ringEntry 0x88 tag r.eventSeq (bytesLE 4 r.lost)
          ∧ memBytes 0 m' (slot 1) 64 = ringEntry code tag (r.eventSeq + 1) payload
          ∧ y.2.lost = 0 ∧ y.2.eqTail = r.eqTail + 2 ∧ y.2.eventSeq = r.eventSeq + 2 ∧ y.2.eqLost = r.eqLost)

/-- R171, R192: a status line that the link answers with an error when an event is posted puts the context of the ring set in FAULTED, with a COMPANION_ERR record of the line; its bytes stay. How the
record is posted is the model's choice (log entry 70). -/
def Sys2Proof.Claims.FailedRingWritesFaultTheirContext : Prop :=
  ∀ (s : State) (slot : CtxSlot) (c : Context) (r : RingSet) (code : Nat) (payload : List Byte),
    let d := s.dev
    d.ctxAt slot = some c → c.tag ≠ 0 → d.ctxTag c.tag = some c → (∀ b ∈ d.ctxs, b.slot = slot → b = c) → c.ring = some r → d.yalkenUp = true → RingApart r → MemoriesOk d →
    r.stopped = false → r.lost = 0 → (r.eqTail - r.eqHead).toNat < 2 ^ r.eqN → r.sts.toNat / 64 ∈ d.mem.errLines → 64 ∣ r.sts.toNat →
    let u := d.event (.ctx slot) code payload
    (∃ b, u.ctxAt slot = some b ∧ b.cond = .faulted) ∧ (∃ x ∈ u.dump.log, x = d.lineErr c.tag 8 r.sts.toNat true)
      ∧ ∀ a, r.sts.toNat ≤ a → a < r.sts.toNat + 64 → memGet 0 u.mem.bytes a = memGet 0 d.mem.bytes a

/-- Completions and events are written with their status line and signal, or an event is counted as lost; a failed ring write is recorded. -/
def Obligations.RingEntriesStatusAndSignal : Prop :=
  Sys2Proof.Claims.CompletionEntryIsWrittenWithItsStatusLine ∧ Sys2Proof.Claims.DescriptorCompletionsLand ∧ Sys2Proof.Claims.EventsAreWrittenOrCountedAsLost ∧ Sys2Proof.Claims.FailedRingWritesFaultTheirContext

/-- R361, R363, R364: a snoop of the control line of a ring set in snooped mode takes the three indices that the line holds after the companion's stores; a doorbell write takes one index of a ring set in
MMIO mode. An index beyond its ring stops the ring set with TAIL_RANGE and the status line tells it. A doorbell of no ring set in MMIO mode, or at another offset of the page, is a stray write:
it is counted and changes nothing else. Before start-up stage 0x6 no CFGWR is served (R470). -/
def Obligations.IndicesComeFromSnoopsAndDoorbells : Prop :=
  ∀ (s : State) (slot : CtxSlot) (c : Context) (r : RingSet), s.dev.yalkenUp = true → s.dev.ctxAt slot = some c → c.ring = some r → r.stopped = false → r.lost = 0 →
    RingWritable s.dev r → s.dev.hdLineCode r.ctl.toNat = none →
    let inside := fun (q : RingSet) => (q.sqTail - q.sqHead).toNat ≤ 2 ^ q.sqN ∧ (q.cqTail - q.cqHead).toNat ≤ 2 ^ q.cqN
      ∧ (q.eqTail - q.eqHead).toNat ≤ 2 ^ q.eqN
    let taken := fun (i : Instr) (q : RingSet) (m : Memory) =>
      (inside q → exec i s = .next (withRing s slot q m))
      ∧ (¬ inside q → let q' := { q with stopped := true, cause := 0xEE, stopSeq := q.expected, wseq := q.wseq + 1 }
          exec i s = .next (withRing s slot q' (memStore 0 m q.sts.toNat (statusLine q'))))
    (∀ stores : List Host.Cell, (∀ b ∈ stores, 0x200000000000 ≤ b.1 ∧ b.1 < 2 ^ 52) → r.mmio = false →
      let m := stores.foldl (fun m b => memPut 0 m b.1 b.2) s.dev.mem.bytes
      let w := fun (o : Nat) => BitVec.ofNat 32 (le (memBytes 0 m (r.ctl.toNat + o) 4))
      taken (.snpinv (.ctx slot) stores) { r with sqTail := w 0, cqHead := w 4, eqHead := w 8 } m)
    ∧ (r.mmio = true → 6 ≤ s.dev.start.stage.toNat → ∀ v : BitVec 32,
        let off := fun (k : Nat) => BitVec.ofNat 12 (0x40 * slot.val + 4 * k)
        taken (.doorbellWrite (off 0) v []) { r with sqTail := v } s.dev.mem.bytes
        ∧ taken (.doorbellWrite (off 1) v []) { r with cqHead := v } s.dev.mem.bytes
        ∧ taken (.doorbellWrite (off 2) v []) { r with eqHead := v } s.dev.mem.bytes)
    ∧ (∀ (off : BitVec 12) (v : BitVec 32), (off.toNat % 4 ≠ 0 ∨ 12 ≤ off.toNat % 0x40 ∨ 0x440 ≤ off.toNat
          ∨ (off.toNat / 0x40 = slot.val ∧ r.mmio = false)) → 6 ≤ s.dev.start.stage.toNat →
        exec (.doorbellWrite off v []) s = .next { s with dev := { s.dev with hd := { s.dev.hd with dbStray := s.dev.hd.dbStray.add 1 } } })
    ∧ (∀ (off : BitVec 12) (v : BitVec 32), s.dev.start.stage.toNat < 6 → exec (.doorbellWrite off v []) s = .next s)
    ∧ (let i : Instr := .signalHoldoffExpiry (.ctx slot)
      (r.holdoff = true → r.sigDue = true → exec i s = .next (withRing s slot { r with holdoff := decide (r.coal ≠ 0), sigDue := false }
          (memStore 0 s.dev.mem.bytes r.sig.toNat (bytesLE 4 r.sigval.toNat))))
      ∧ (r.holdoff = true → r.sigDue = false → exec i s = .next (withRing s slot { r with holdoff := false } s.dev.mem.bytes)))

/-- R366, R374: the entry at sq_head is taken, which moves sq_head and the expected number and reserves a completion entry, and its header is checked in order. A NOP whose header holds completes with code
0; a wrong sequence number completes with SEQ_MISMATCH and stops the ring set; an opcode not listed for the ring completes with OPCODE. A NOP at the head completes also during a run and on a saved
or FAULTED context, as its row says. -/
def Obligations.DescriptorsAreTakenInOrderAndNopsComplete : Prop :=
  ∀ (s : State),
    (∀ (slot : CtxSlot) (c : Context) (r : RingSet) (e : List Byte), s.dev.ctxAt slot = some c → c.ring = some r →
      s.dev.waitingEntry (.ctx slot) = some e → c.run = none → RingWritable s.dev r →
      let op := field e 0 1
      let seq := BitVec.ofNat 32 (field e 4 4)
      let r1 := { r with sqHead := r.sqHead + 1, expected := r.expected + 1, reserved := r.reserved + 1 }
      let ends := fun (i : Instr) (q : RingSet) (code : Nat) =>
        let y := ringComplete c.tag (BitVec.ofNat 8 op) seq code 0 [] ([], q)
        exec i s = .next (withRing s slot y.2 (Writes.land y.1 s.dev.mem.bytes))
      let row : Instr := if op ∈ contextOps then .contextNop slot else .descriptorOpcodeRefused (.ctx slot)
      (op = 0x3F ∨ op ∉ contextOps →
        (seq ≠ r.expected → ends row { r1 with stopped := true, cause := 0xED, stopSeq := r.expected } 0xED)
        ∧ (seq = r.expected → field e 1 1 % 4 ≠ 1 → ends row r1 0xE1)
        ∧ (seq = r.expected → field e 1 1 % 4 = 1 → 1 < field e 1 1 / 4 → ends row r1 0xE2)
        ∧ (seq = r.expected → field e 1 1 % 4 = 1 → field e 1 1 / 4 ≤ 1 → field e 2 2 ≠ c.tag.toNat → ends row r1 0xE3)
        ∧ (seq = r.expected → field e 1 1 % 4 = 1 → field e 1 1 / 4 ≤ 1 → field e 2 2 = c.tag.toNat → op ∉ contextOps → ends row r1 0xE0)))
    ∧ (∀ (slot : CtxSlot) (c : Context) (t : Taken), s.dev.yalkenUp = true → s.dev.ctxAt slot = some c → c.head = some t → t.op = 0x3F →
        s.dev.underReset (.ctx slot) = false → (∀ u ∈ c.run, u.op ≠ 0x3F) →
        exec (.contextNop slot) s = .next (Completed s s.dev (.ctx slot) t 0 0 []))
    ∧ (∀ (t : Taken), s.dev.yalkenUp = true → s.dev.adminHead = some t → t.op = 0x7F → exec .adminNop s = .next (Completed s s.dev .admin t 0 0 []))

/-- R369: while a context is FAULTED, every descriptor at the head of its submission ring completes with CONTEXT_STATE and has no other effect, except NOP, REDUCE_ABORT and REDUCE_DIGEST, which act. Stated for a context that is resident, where the descriptor is not the one whose own run is under way (a saved context's
other descriptors wait by R385). -/
def Obligations.FaultedContextsAnswerContextState : Prop :=
  ∀ (s : State) (slot : CtxSlot) (c : Context) (t : Taken),
    let rows : List (Instr × Nat) := [(.planLoad slot, 1), (.planRun slot, 2), (.stepCommit slot, 3), (.stepRollback slot, 4), (.lossScaleSet slot, 5),
      (.adapterRegister slot, 0x10), (.adapterFetch slot, 0x11), (.adapterEvict slot, 0x12), (.adapterUnregister slot, 0x13), (.adapterPolicy slot, 0x14),
      (.slotBind slot, 0x15), (.slotRelease slot, 0x16), (.reduceConfig slot, 0x20), (.reduceFence slot, 0x21), (.fabricRoute slot, 0x28)]
    s.dev.ctxAt slot = some c → c.head = some t → s.dev.underReset (.ctx slot) = false → c.cond = .faulted → c.resident = true → s.dev.yalkenUp = true →
    (∀ u ∈ c.run, u.seq ≠ t.seq ∨ u.op ≠ t.op) →
    (∀ x ∈ rows, t.op.toNat = x.2 → exec x.1 s = .next (Completed s s.dev (.ctx slot) t 0xE5 0 []))
    ∧ (t.op = 0x3F → exec (.contextNop slot) s = .next (Completed s s.dev (.ctx slot) t 0 0 []))
    ∧ (t.op = 0x22 → ∃ d : Device, exec (.reduceAbort slot) s = .next (Completed s d (.ctx slot) t 0 0 []) ∧ ∃ b ∈ d.ctxs, b.slot = slot ∧ b.aborted = true)
    ∧ (t.op = 0x23 → ∃ (d : Device) (code flags : Nat) (r : List Byte), exec (.reduceDigest slot) s = .next (Completed s d (.ctx slot) t code flags r) ∧ code ∈ [0, 0xE6])

/-! ### Plans, runs and steps (R161 to R167, R256 to R278, R489) -/

/-- R121, R163, R166: a PLAN_LOAD whose image can be read and passes every check writes each position's CODE and RECORDS into its plan store, zeroes the rest of it with the scratch, gives it empty
queues and its strokes, leaves grants and every die outside the arc as they were, and completes with the plan_id. A PLAN_LOAD whose image fails a check completes
with LOAD_REFUSED and its record, and the previous plan stays. -/
def Obligations.PlanLoadInstallsAnAcceptedImage : Prop :=
  ∀ (s : State) (slot : CtxSlot) (c : Context) (t : Taken),
    let dpa := field t.entry 8 8 % 2 ^ 52
    AtHead s slot 1 c t → 0 < c.m → c.first + c.m ≤ 16 →
    (∀ img : List Byte, s.dev.planImage c dpa (field t.entry 0x10 8) = .ok img → s.dev.planCheck c img = .ok () →
      ∃ d : Device, exec (.planLoad slot) s = .next (Completed s d (.ctx slot) t 0 0 (bytesLE 8 (field img 0x18 8)))
        ∧ (∃ (c' : Context) (p : Plan), d.ctxAt slot = some c' ∧ c'.plan = some p ∧ p.planId = BitVec.ofNat 64 (field img 0x18 8)
            ∧ p.entry.toNat = field img 0x14 2 % 2 ^ 14 ∧ (∀ i : Fin 64, i.val < 8 → c'.pantry[i] = c.pantry[i]) ∧ c'.head = c.head ∧ c'.ring = c.ring)
        ∧ (∀ (cd : Cd) (cs rs qs : Sect), c.first ≤ cd.val → cd.val < c.first + c.m →
            let pos := cd.val - c.first
            sectAt (sectsOf img) 1 pos = some cs → sectAt (sectsOf img) 2 pos = some rs → sectAt (sectsOf img) 3 pos = some qs →
            cs.bytes ≤ rs.load → cs.off + cs.bytes ≤ img.length → rs.off + rs.bytes ≤ img.length →
            let x := d.dies[cd]
            x.codeStrokes = cs.bytes / 64 ∧ (∀ q : QueueId, x.queues[q] = []) ∧ x.cox = s.dev.dies[cd].cox ∧ x.sieve = {}
              ∧ (∀ a, a < cs.bytes → memGet 0 x.loc a = img.getD (cs.off + a) 0)
              ∧ (∀ a, rs.load ≤ a → a < rs.load + rs.bytes → memGet 0 x.loc a = img.getD (rs.off + (a - rs.load)) 0)
              ∧ (∀ a, (cs.bytes ≤ a ∧ a < rs.load) ∨ rs.load + rs.bytes ≤ a → memGet 0 x.loc a = 0))
        ∧ (∀ cd : Cd, cd.val < c.first ∨ c.first + c.m ≤ cd.val → d.dies[cd] = s.dev.dies[cd]))
    ∧ (∀ (img : List Byte) (e : PlanErr), s.dev.planImage c dpa (field t.entry 0x10 8) = .ok img → s.dev.planCheck c img = .error e →
      ∃ (d : Device) (r : ErrRec), exec (.planLoad slot) s = .next (Completed s d (.ctx slot) t 0xE7 1 (List.replicate 16 0 ++ r.encode))
        ∧ r.island = 0x4800 ∧ r.cls = BitVec.ofNat 8 e.cls ∧ r.code = BitVec.ofNat 16 e.code ∧ r.ctx = c.tag ∧ d.dies = s.dev.dies
        ∧ ∃ c', d.ctxAt slot = some c' ∧ c'.plan = c.plan)

/-- R275, R371, R373: PLAN_RUN of the loaded plan, named or not, outside a pending rebuild leaves a run of its fields that waits for its start; without a plan it completes with NO_PLAN, for another plan with
PLAN_ID, in a pending rebuild with REBUILD_PENDING; a commit line that cannot be read is a fault of the descriptor's own access. R121, R122, R154, R264, R368: the start of the run, with its arguments block written and read, puts every Cox of the arc at the entry stroke with zero registers and
the arguments, empty queues, full credits and no token, wait counts at zero (R28), the gather counter as it was (R222), and the loss-scale exponent at the Mixers; each receive stream of the plan has its depth in credits and owes none (R349); a PLAN_RUN leaves the head. R449: in a signalled Easy-all episode the run is held. -/
def Obligations.PlanRunWaitsForItsStart : Prop :=
  ∀ (s : State) (slot : CtxSlot) (c : Context) (t : Taken),
    let line := s.dev.commitLine c
    let id := field t.entry 0x28 8
    (AtHead s slot 2 c t →
      (∀ p, c.plan = some p → (id = 0 ∨ id = p.planId.toNat) → s.dev.dataBad c.commitLine.toNat 64 = none → field line 1 1 % 4 = 0 → ∃ u : Run,
        exec (.planRun slot) s = .next { s with dev := { s.dev with ctxs := s.dev.ctxs.map fun b => if b.slot = slot then { b with run := some u } else b } }
          ∧ u.op = 2 ∧ u.seq = t.seq ∧ u.entry = p.entry ∧ u.begun = false ∧ u.reason = 0 ∧ u.firstErr = none
          ∧ u.args.toNat = field t.entry 8 8 % 2 ^ 52 ∧ u.tally.toNat = field t.entry 0x10 8 % 2 ^ 52 ∧ u.stop.toNat = field t.entry 0x18 8 % 2 ^ 52
          ∧ u.attempt.toNat = field t.entry 0x20 4 ∧ u.sramWin = decide (field t.entry 0x24 1 % 2 = 1))
      ∧ (c.plan = none → exec (.planRun slot) s = .next (Completed s s.dev (.ctx slot) t 0xE9 0 []))
      ∧ (∀ p, c.plan = some p → id ≠ 0 → id ≠ p.planId.toNat → exec (.planRun slot) s = .next (Completed s s.dev (.ctx slot) t 0xEA 0 []))
      ∧ (∀ p, c.plan = some p → (id = 0 ∨ id = p.planId.toNat) → s.dev.dataBad c.commitLine.toNat 64 = none → field line 1 1 % 4 ≠ 0 →
          exec (.planRun slot) s = .next (Completed s s.dev (.ctx slot) t 0x24 0 []))
      ∧ (∀ p bad, c.plan = some p → (id = 0 ∨ id = p.planId.toNat) → s.dev.dataBad c.commitLine.toNat 64 = some bad → ∃ r : ErrRec,
          exec (.planRun slot) s = .next (Completed s (s.dev.fault c r) (.ctx slot) t 0xE6 1 (List.replicate 16 0 ++ r.encode))
            ∧ r.cls = 7 ∧ r.code = BitVec.ofNat 16 bad.1 ∧ r.ctx = c.tag ∧ r.dpa = BitVec.ofNat 52 bad.2))
    ∧ (∀ (u : Run) (p : Plan) (d1 : Device) (args : List Byte), s.dev.ctxAt slot = some c → c.run = some u → c.head = some t → c.plan = some p →
      u.begun = false → u.op = 2 → c.resident = true → c.first + c.m ≤ 16 → c.cond ≠ .faulted → s.dev.preempting c = false →
      s.dev.underReset (.ctx slot) = false → s.dev.yalkenUp = true → s.dev.dataBad c.commitLine.toNat 64 = none →
      s.dev.hdWrite c (wrap52 (u.args.toNat + 0x30)) (bytesLE 8 u.attempt.toNat ++ bytesLE 8 (field line 4 4 + field line 8 1 * 2 ^ 32)) = (d1, none) →
      d1.hdRead c u.args.toNat 64 = .ok args →
      ∃ v, exec (.runStart slot) s = .next v
        ∧ (∀ cd : Cd, c.first ≤ cd.val → cd.val < c.first + c.m →
            let x := v.dev.dies[cd]
            let k := x.cox
            k.run = .running ∧ k.pc = u.entry ∧ (∀ r : Fin 32, k.g[r] = 0) ∧ (∀ r : Fin 8, k.p[r] = false) ∧ (∀ r : Fin 16, k.s[r] = 0 ∧ k.pend[r] = 0)
              ∧ (∀ j : Fin 8, k.args[j] = BitVec.ofNat 64 (field args (8 * j.val) 8)) ∧ (∀ q : QueueId, x.queues[q] = [])
              ∧ (∀ l ∈ x.links, l.credits = l.grant ∧ l.tokens = 0) ∧ x.mixerK = BitVec.ofNat 8 (field (d1.commitLine c) 8 1)
              ∧ x.loc = s.dev.dies[cd].loc ∧ x.frozen = false ∧ (∀ i : Fin 22, x.waits[i] = {}) ∧ x.course.gather = s.dev.dies[cd].course.gather)
        ∧ (∀ cd : Cd, cd.val < c.first ∨ c.first + c.m ≤ cd.val → v.dev.dies[cd] = s.dev.dies[cd])
        ∧ ∃ c', v.dev.ctxAt slot = some c' ∧ c'.run = some { u with begun := true } ∧ c'.cond = .running ∧ c'.head = none ∧ c'.held = d1.pd.signalled
          ∧ ∃ p' : Plan, c'.plan = some p' ∧ p'.recvs.map (·.depth) = p.recvs.map (·.depth) ∧ ∀ r ∈ p'.recvs, r.held = r.depth ∧ r.owed = 0)

/-- R263, and the flags, counters and step of R273 step 4: the commit line that a commit writes. The exponent k and the clean count follow the three cases of R263 under the settings that take effect with
this commit, and neither changes while k is pinned; step t + 1, the old k and count in their places, the numbers of updated and skipped adapters, and the flags roll-forward pending, rebuild pending and
rollback available. -/
def Sys2Proof.Claims.CommitLineFollowsTheLossScaleRules : Prop :=
  ∀ (line : List Byte) (p : LossPending) (es : List LogEntry), line.length = 64 →
    let old := fun (o n : Nat) => field line o n
    let new := fun (o n : Nat) => field (commitLineAfter line p es) o n
    let kmin := (p.kmin.map (·.toNat)).getD (old 9 1)
    let kmax := (p.kmax.map (·.toNat)).getD (old 0xA 1)
    let period := (p.period.map (·.toNat)).getD (old 0xC 2)
    let pin := p.pin.getD (decide (old 0xB 1 % 2 = 1))
    let met := ∃ e ∈ es, e.scale = true
    let hot := ∃ e ∈ es, e.scale = true ∧ e.skipped = true
    let k := old 8 1
    let n := old 0xE 2
    (∀ e ∈ es, ∀ f ∈ es, e.scale = true → f.scale = true → e.skipped = f.skipped) → k ≤ 24 → kmin ≤ 24 → kmax ≤ 24 → n < period → period ≤ 65535 →
    (commitLineAfter line p es).length = 64
      ∧ new 1 1 = 0xB ∧ new 4 4 = (old 4 4 + 1) % 2 ^ 32 ∧ new 0x10 1 = k ∧ new 0x12 2 = n ∧ new 9 1 = kmin ∧ new 0xA 1 = kmax ∧ new 0xC 2 = period
      ∧ new 0x20 4 = es.countP (fun e => !e.skipped) % 2 ^ 32 ∧ new 0x24 4 = es.countP (fun e => e.skipped) % 2 ^ 32 ∧ new 0x18 8 = old 0x18 8
      ∧ (pin = true ∨ ¬ met → new 8 1 = k ∧ new 0xE 2 = n)
      ∧ (pin = false → hot → new 8 1 = Max.max (k - 1) kmin ∧ new 0xE 2 = 0)
      ∧ (pin = false → met → ¬ hot → n + 1 = period → new 8 1 = Min.min (k + 1) kmax ∧ new 0xE 2 = 0)
      ∧ (pin = false → met → ¬ hot → n + 1 ≠ period → new 8 1 = k ∧ new 0xE 2 = n + 1)

/-- R277 step 2: the commit line of a rollback: step t − 1, the exponent and clean count of before the commit, rollback available clear and rebuild pending set; every other byte stays. -/
def Sys2Proof.Claims.RollbackLineRestoresTheStepBefore : Prop :=
  ∀ line : List Byte, line.length = 64 →
    let new := rollbackLine line
    new.length = 64 ∧ field new 4 4 = (field line 4 4 + 2 ^ 32 - 1) % 2 ^ 32 ∧ field new 8 1 = field line 0x10 1 ∧ field new 0xE 2 = field line 0x12 2
      ∧ field new 1 1 / 8 % 2 = 0 ∧ field new 1 1 / 2 % 2 = 1
      ∧ ∀ i < 64, i ≠ 1 → i ∉ [4, 5, 6, 7, 8, 14, 15] → new.getD i 0 = line.getD i 0

/-- The commit line after a commit and after a rollback. -/
def Obligations.CommitLinesOfStepsAndRollbacks : Prop :=
  Sys2Proof.Claims.CommitLineFollowsTheLossScaleRules ∧ Sys2Proof.Claims.RollbackLineRestoresTheStepBefore

/-- R273, R276, R277 and the table "STEP_COMMIT and STEP_ROLLBACK completion codes": what the two descriptors do at the head, for segments inside CODE. A STEP_COMMIT of the step after the committed one answers STEP_MISMATCH for another step, starts
its update segment when it names one, and otherwise verifies its logs; verified logs commit the step: the prior commit words are kept, the commit line is written once, STEP_COMMITTED is posted, the directory rolls forward, and the rebuild segment
waits for its start. A segment that has halted on every Cox completes its descriptor, the rebuild flag cleared; one that ended otherwise completes it with SEGMENT_FAULT
and the run's result, of which a STEP_ROLLBACK gives the new step in place of the reason. Stated of a commit line, logs and masters that can be read and written. R55: a segment that ended otherwise
clears its tallies. -/
def Obligations.StepsCommitAndRollBack : Prop :=
  ∀ (s : State) (slot : CtxSlot) (c : Context) (t : Taken) (p : Plan),
    let line := s.dev.commitLine c
    let step := field line 4 4
    let td := field t.entry 8 4
    let named := field t.entry 0xC 1 % 2 = 1
    let inside := fun (k : Nat) => ∀ cd ∈ c.cds, k < s.dev.dies[cd].codeStrokes
    let u := field t.entry 0x10 2
    let b := field t.entry 0x12 2
    let waits := fun (v : State) (entry phase : Nat) => ∃ c' r, v.dev.ctxAt slot = some c' ∧ c'.run = some r ∧ r.op = t.op ∧ r.seq = t.seq ∧ r.begun = false
      ∧ r.entry = BitVec.ofNat 14 entry ∧ r.attempt = 0 ∧ c'.head = some { t with phase := phase }
    let halted := fun (r : Run) => s.dev.ctxAt slot = some c ∧ c.run = some r ∧ c.head = some t ∧ r.op ≠ 2 ∧ r.begun = true ∧ (∀ cd ∈ c.cds, s.dev.dies[cd].cox.run = .idle)
      ∧ c.resident = true ∧ s.dev.underReset (.ctx slot) = false
    s.dev.dataBad c.commitLine.toNat 64 = none →
    (AtHead s slot 3 c t → c.plan = none → exec (.stepCommit slot) s = .next (Completed s s.dev (.ctx slot) t 0xE9 0 []))
    ∧ (AtHead s slot 3 c t → c.plan = some p →
      (¬ inside b ∨ (named ∧ ¬ inside u) → exec (.stepCommit slot) s = .next (Completed s s.dev (.ctx slot) t 0x25 0 []))
      ∧ (inside b → (named → inside u) →
        ((td + 1) % 2 ^ 32 ≠ step → td ≠ step → exec (.stepCommit slot) s = .next (Completed s s.dev (.ctx slot) t 0x20 0 []))
        ∧ (td = step → named → ∃ v, exec (.stepCommit slot) s = .next v ∧ waits v u 2 ∧ v.dev.mem = s.dev.mem)
        ∧ (td = step → ¬ named → ∀ (es : List LogEntry) (d1 d3 : Device), s.dev.logs c step = .ok es →
            (∀ e ∈ es, ∃ m, s.dev.mastersLine c e.handle = .ok m ∧ s.dev.entryCheck c step (scaledSkips es) e m = 0) →
            s.dev.keepWords c es = .ok d1 → (d1.commitWrite c es).rollForward c = .ok d3 →
            (∃ v, exec (.stepCommit slot) s = .next v ∧ waits v b 6 ∧ v.dev.mem = d3.mem)
            ∧ (let after := commitLineAfter (d1.commitLine c) c.loss es
              ∃ d2 : Device, d2.mem = (d1.writeAs (c.domOf c.commitLine.toNat) c.commitLine.toNat after).mem
                ∧ d2.ctxAt slot = some { c with loss := {} } ∧ d2.boat = s.dev.boat
                ∧ d1.commitWrite c es = d2.event (.ctx slot) 0x83 ((after.drop 4).take 4 ++ (after.drop 0x20).take 8 ++ (after.drop 8).take 1)))
        ∧ ((td + 1) % 2 ^ 32 = step → ∀ d1 : Device, s.dev.rollForward c = .ok d1 →
            ∃ v, exec (.stepCommit slot) s = .next v ∧ waits v b 7 ∧ v.dev.mem = d1.mem)))
    ∧ (AtHead s slot 4 c t → c.plan = some p → inside b →
      (field line 1 1 / 8 % 2 = 0 → exec (.stepRollback slot) s = .next (Completed s s.dev (.ctx slot) t 0x23 0 []))
      ∧ (field line 1 1 / 8 % 2 = 1 → ∀ d1 : Device, s.dev.undoLog c = .ok d1 → ∃ v, exec (.stepRollback slot) s = .next v ∧ waits v b 6
          ∧ v.dev.mem = (d1.writeAs (c.domOf c.commitLine.toNat) c.commitLine.toNat (rollbackLine (d1.commitLine c))).mem))
    ∧ (∀ r, halted r → r.reason = 5 → t.op = 4 → t.phase = 6 → ∃ d : Device, exec (.segmentHalt slot) s = .next (Completed s d (.ctx slot) t 2 0 (bytesLE 4 (field (d.commitLine c) 4 4)))
        ∧ d.mem = (s.dev.writeAs (c.domOf c.commitLine.toNat) c.commitLine.toNat
            (line.take 1 ++ [BitVec.ofNat 8 (field line 1 1 / 4 * 4 + field line 1 1 % 2)] ++ line.drop 2)).mem)
    ∧ (∀ r, halted r → r.reason = 5 → t.op = 3 → (t.phase = 6 ∨ t.phase = 7) → ∃ (d : Device) (result : List Byte),
        exec (.segmentHalt slot) s = .next (Completed s d (.ctx slot) t (if t.phase = 7 then 1 else 0) 0 result))
    ∧ (∀ r, halted r → r.reason ≠ 5 → r.reason ≠ 0 → r.firstErr = none → ∃ (d : Device) (result : List Byte),
        exec (.segmentHalt slot) s = .next (Completed s d (.ctx slot) t 0x22 0 result) ∧ d.mem = s.dev.mem ∧ (∀ cd ∈ c.cds, d.dies[cd].tally = {}) ∧ (t.op ≠ 4 → result.getD 0 0 = r.reason)
        ∧ (t.op = 4 → result.take 4 = (line.drop 4).take 4))

/-! ### Adapters, slots and reduction descriptors (R229 to R241, R303 to R328, R344) -/

/-- R231, R234, R237, R262: REGISTER, POLICY, EVICT and UNREGISTER of a handle whose entry stands in the state that the table "Residency transitions" names rewrite the entry's line, in one line write, to the state after, and complete with OK; the
commit word stays but under UNREGISTER, which writes the entry as zero; EVICT and UNREGISTER lower the count of resident adapters. From any other state they refuse with STATE and change nothing; EVICT and UNREGISTER of an adapter held by slots refuse with SLOTTED. An entry whose line is uncorrectable is a fault of the descriptor's own access (R176, R192). Stated for an entry and a commit line
that hold no error, and for a change of policy that no open step
and no full scaled set refuses. LOSS_SCALE_SET keeps legal settings for the next commit (R263). -/
def Obligations.ResidencyTransitionsRewriteTheirEntry : Prop :=
  ∀ (s : State) (slot : CtxSlot) (c : Context) (t : Taken) (a : Nat) (e : List Byte),
    let h := field t.entry 8 4
    let pol := field t.entry 0xC 1 % 8
    let state := field e 1 1 % 4
    let slots := field e 4 2
    let tag := field e 0x30 8
    let res := fun (g : Nat) => bytesLE 4 h ++ List.replicate 4 0 ++ bytesLE 8 g
    let dom := c.domOf a
    let ends := fun (i : Instr) (e' : List Byte) (residents : Nat) (g : Nat) => ∃ d : Device, exec i s = .next (Completed s d (.ctx slot) t 0 0 (res g))
      ∧ d.mem = (s.dev.writeAs dom a e').mem ∧ d.dies = s.dev.dies ∧ (∃ c', d.ctxAt slot = some c' ∧ c'.residents = residents ∧ c'.head = c.head ∧ c'.ring = c.ring)
    let refused := fun (i : Instr) (code : Nat) => exec i s = .next (Completed s s.dev (.ctx slot) t code 0 (res tag))
    s.dev.entryOf c h = some (a, e) → e.length = 64 →
    (∀ x ∈ [(Instr.adapterRegister slot, 0x10), (.adapterEvict slot, 0x12), (.adapterUnregister slot, 0x13), (.adapterPolicy slot, 0x14)], AtHead s slot x.2 c t →
      ∀ bad, s.dev.dataBad a 64 = some bad → s.dev.mem.ceLines = [] → ∃ (d : Device) (r : ErrRec),
        exec x.1 s = .next (Completed s (d.fault c r) (.ctx slot) t 0xE6 1 (bytesLE 4 h ++ List.replicate 12 0 ++ r.encode))
          ∧ d.mem = s.dev.mem ∧ d.ctxs = s.dev.ctxs ∧ r.cls = 7 ∧ r.code = BitVec.ofNat 16 bad.1 ∧ r.ctx = c.tag ∧ r.dpa = BitVec.ofNat 52 bad.2)
    ∧ (CleanAt s.dev a 64 → CleanAt s.dev c.commitLine.toNat 64 →
    (AtHead s slot 0x10 c t →
      (state = 0 → s.dev.policyCode c (dirPolicy e) pol = 0 → ∃ e', ends (.adapterRegister slot) e' c.residents (field t.entry 0x28 8) ∧ e'.length = 64
          ∧ field e' 1 1 = 1 ∧ field e' 2 1 = pol ∧ field e' 4 2 = 0 ∧ field e' 8 8 = field e 8 8 ∧ field e' 0x10 8 = field t.entry 0x10 8 % 2 ^ 52
          ∧ field e' 0x18 8 = 0 ∧ field e' 0x20 8 = field t.entry 0x18 8 ∧ field e' 0x28 8 = field t.entry 0x20 8 % 2 ^ 52 ∧ field e' 0x30 8 = field t.entry 0x28 8)
      ∧ (state ≠ 0 → refused (.adapterRegister slot) 0x15))
    ∧ (AtHead s slot 0x14 c t →
      (state = 1 ∨ state = 2 → s.dev.policyCode c (dirPolicy e) pol = 0 →
          ends (.adapterPolicy slot) (e.take 2 ++ [BitVec.ofNat 8 pol] ++ e.drop 3) c.residents tag)
      ∧ (state = 0 ∨ state = 3 → refused (.adapterPolicy slot) 0x15))
    ∧ (AtHead s slot 0x12 c t →
      (slots = 0 → state = 2 → ∃ e', ends (.adapterEvict slot) e' (c.residents - 1) tag ∧ field e' 1 1 = 1 ∧ field e' 0x18 8 = 0 ∧ field e' 3 1 = 0
          ∧ field e' 8 8 = field e 8 8 ∧ field e' 0x10 8 = field e 0x10 8 ∧ field e' 2 1 = field e 2 1)
      ∧ (slots ≠ 0 → refused (.adapterEvict slot) 0x17) ∧ (slots = 0 → state ≠ 2 → refused (.adapterEvict slot) 0x15))
    ∧ (AtHead s slot 0x13 c t →
      (slots = 0 → state = 1 → s.dev.policyCode c (dirPolicy e) 0 = 0 → ends (.adapterUnregister slot) (List.replicate 64 0) (c.residents - 1) tag)
      ∧ (slots ≠ 0 → refused (.adapterUnregister slot) 0x17) ∧ (slots = 0 → state ≠ 1 → refused (.adapterUnregister slot) 0x15))
    ∧ (AtHead s slot 5 c t → field t.entry 8 1 % 16 = 15 → field t.entry 9 1 ≤ field t.entry 0xA 1 → field t.entry 0xA 1 ≤ 24 → 100 ≤ field t.entry 0xC 2 →
        ∃ d : Device, exec (.lossScaleSet slot) s = .next (Completed s d (.ctx slot) t 0 0 []) ∧ d.mem = s.dev.mem ∧ d.dies = s.dev.dies
          ∧ ∃ c', d.ctxAt slot = some c' ∧ c'.loss.kmin = some (BitVec.ofNat 8 (field t.entry 9 1)) ∧ c'.loss.kmax = some (BitVec.ofNat 8 (field t.entry 0xA 1))
            ∧ c'.loss.period = some (BitVec.ofNat 16 (field t.entry 0xC 2)) ∧ c'.loss.pin = some (decide (field t.entry 0xB 1 % 2 = 1))))

/-- R234, R236, R237: a FETCH of a resident adapter completes with ALREADY; of a registered one whose cache range is good and whose quota is not used up, it copies the body, and when the copied body meets R229, R230 and R240 it writes the entry resident with
its home and cache, raises the resident count and completes with OK; outside a cache region it refuses with CACHE_REGION, at the quota with RESIDENT_FULL, in this order. Stated for an entry and a body header and table that hold no error. -/
def Obligations.FetchMakesAnAdapterResident : Prop :=
  ∀ (s : State) (slot : CtxSlot) (c : Context) (t : Taken) (a : Nat) (e : List Byte),
    let h := field t.entry 8 4
    let pos := field t.entry 0xC 1
    let cache := field t.entry 0x10 8 % 2 ^ 52
    let n := field e 0x20 8
    let res := bytesLE 4 h ++ List.replicate 4 0 ++ bytesLE 8 (field e 0x30 8)
    let good := pos < c.m ∧ cache % 64 = 0 ∧ c.roleCovers 3 pos cache n = true
    let ends := fun (d : Device) (code : Nat) => exec (.adapterFetch slot) s = .next (Completed s d (.ctx slot) t code 0 res)
    AtHead s slot 0x11 c t → s.dev.entryOf c h = some (a, e) → e.length = 64 → CleanAt s.dev a 64 →
    (field e 1 1 % 4 = 2 → ends s.dev 1)
    ∧ (field e 1 1 % 4 ≠ 2 → field e 1 1 % 4 ≠ 1 → ends s.dev 0x15)
    ∧ (field e 1 1 % 4 = 1 → ¬ good → ends s.dev 0x19)
    ∧ (field e 1 1 % 4 = 1 → good → c.quota ≤ c.residents → ends s.dev 0x13)
    ∧ (∀ d1 : Device, field e 1 1 % 4 = 1 → good → c.residents < c.quota →
        s.dev.fetchLines c (c.cdAt pos) ((n + 63) / 64) (field e 0x10 8 % 2 ^ 52 / 64 * 64) cache 0 = (d1, none) → (∀ x ∈ d1.tableReads c cache, CleanAt d1 x.1 x.2) →
        (d1.bodyOk c cache n = false → ends d1 0x16)
        ∧ (d1.bodyOk c cache n = true → d1.ctxs = s.dev.ctxs → ∃ (d : Device) (e' : List Byte), ends d 0 ∧ d.mem = (d1.writeAs (c.domOf a) a e').mem ∧ e'.length = 64
            ∧ field e' 1 1 = 2 ∧ field e' 3 1 = pos ∧ field e' 0x18 8 = cache ∧ field e' 8 8 = field e 8 8 ∧ field e' 4 2 = field e 4 2
            ∧ ∃ c', d.ctxAt slot = some c' ∧ c'.residents = c.residents + 1))

/-- R239, R241, R423: the status and the effect of one claim in a list, the status of the release of a slot that is not valid, and the completion of a SLOT_BIND and a SLOT_RELEASE. A claim of a free slot for a resident adapter without extra experts writes the slot entry and the home-list entry, counts the
slot in the directory and in the context and gives OK; ALREADY, SLOT_BUSY, NOT_RESIDENT, SLOT_RANGE and HANDLE_RANGE change nothing but the status. The descriptor completes with OK when every status is OK or ALREADY, and PARTIAL otherwise;
without a directory region it completes with HANDLE_RANGE. Stated for claims whose reads find no error; a read of the slot area or of a body that does ends the list (R172, R176). -/
def Obligations.SlotListsBindAndRelease : Prop :=
  ∀ (s : State) (slot : CtxSlot) (c : Context) (t : Taken),
    (∀ (d : Device) (st : List Byte) (o w : Nat),
      let r : ClaimRun := { d := d, status := st, bad := none }
      let h := w % 2 ^ 22
      let pos := w / 2 ^ 24 % 16
      let sl := w / 2 ^ 32 % 1024
      let told := fun (r' : ClaimRun) (code : Nat) => r'.d = d ∧ r'.status = st ++ [BitVec.ofNat 8 code] ∧ r'.bad = none
      let old := d.slotEntry c o pos sl
      let slotAt := c.areaAt o pos (32 * sl)
      (d.entryOf c h = none → told (r.claim c o w) 0x14)
      ∧ (∀ a e, d.entryOf c h = some (a, e) → dirState e = 1 → CleanAt d a 64 → told (r.claim c o w) 0x12)
      ∧ (∀ a e, d.entryOf c h = some (a, e) → dirState e = 2 → c.m ≤ pos → CleanAt d a 64 → told (r.claim c o w) 0x18)
      ∧ (∀ a e, d.entryOf c h = some (a, e) → dirState e = 2 → pos < c.m → CleanAt d a 64 → CleanAt d slotAt 32 → field old 0 4 / 2 ^ 31 % 2 = 1 →
          told (r.claim c o w) (if field old 0 4 % 2 ^ 22 = h then 1 else 0x10))
      ∧ (∀ a e (d1 d2 : Device), d.entryOf c h = some (a, e) → dirState e = 2 → pos < c.m → field old 0 4 / 2 ^ 31 % 2 = 0 →
          CleanAt d a 64 → CleanAt d slotAt 32 → (∀ x ∈ d.tableReads c (dirCache e), CleanAt d x.1 x.2) →
          (∀ i ∈ d.bodyItems c (dirCache e), i.extra = false) →
          d.putBytes c (c.cdAt pos) .record (c.areaAt o pos (32 * sl))
            (bytesLE 4 (h + 2 ^ 31) ++ bytesLE 1 (dirHome e) ++ List.replicate 3 0 ++ bytesLE 8 (dirCache e) ++ bytesLE 8 (dirCommit e) ++ List.replicate 8 0) = (d1, none) →
          d1.putBytes c (c.cdAt (dirHome e)) .record (c.areaAt o (dirHome e) (0x28000 + 8 * (1024 * pos + sl))) (bytesLE 8 (dirCache e + 2 ^ 63)) = (d2, none) →
          let r' := r.claim c o w
          r'.status = st ++ [0] ∧ r'.bad = none ∧ r'.d.mem = (d2.writeAs (c.domOf a) a (e.take 4 ++ bytesLE 2 (dirSlots e + 1) ++ e.drop 6)).mem
            ∧ ∀ c', d2.ctxAt c.slot = some c' → ∃ c2, r'.d.ctxAt c.slot = some c2 ∧ c2.slotsBound = c'.slotsBound + 1)
      ∧ (∀ a e bad, d.entryOf c h = some (a, e) → dirState e = 2 → pos < c.m → CleanAt d a 64 → d.dataBad slotAt 32 = some bad →
          let r' := r.claim c o w
          r'.status = st ∧ ∃ f : ErrRec, r'.bad = some f ∧ f.cls = 7 ∧ f.code = BitVec.ofNat 16 bad.1 ∧ f.ctx = c.tag ∧ f.dpa = BitVec.ofNat 52 bad.2)
      ∧ (field old 0 4 / 2 ^ 31 % 2 = 0 → pos < c.m → CleanAt d slotAt 32 → told (r.release c o (pos + sl * 2 ^ 16)) 0x18))
    ∧ (∀ (bs : List Byte) (r : ClaimRun) (d1 : Device),
      let n := field t.entry 0x10 2
      let o := field t.entry 0x14 4
      let ok := r.status.countP fun b => decide (b.toNat ≤ 1)
      let done := fun (i : Instr) => exec i s = .next (Completed s d1 (.ctx slot) t (if ok = r.status.length then 0 else 2) 0
        (bytesLE 2 ok ++ bytesLE 2 (r.status.length - ok)))
      (c.roleEntry 2).isSome = true → r.bad = none → r.d.hdWrite c (field t.entry 0x18 8 % 2 ^ 52) r.status = (d1, none) →
      (AtHead s slot 0x15 c t → 1 ≤ n → n ≤ 4096 → (c.slotsBound = 0 ∨ c.slotArea = some (BitVec.ofNat 32 o)) →
        s.dev.hdRead c (field t.entry 8 8 % 2 ^ 52) (8 * n) = .ok bs →
        r = (List.range n).foldl (fun r i => r.claim c o (field bs (8 * i) 8))
          ({ d := s.dev.modCtx slot fun c => { c with slotArea := some (BitVec.ofNat 32 o) } } : ClaimRun) →
        done (.slotBind slot))
      ∧ (∀ area : BitVec 32, AtHead s slot 0x16 c t → c.slotArea = some area → s.dev.hdRead c (field t.entry 8 8 % 2 ^ 52) (4 * n) = .ok bs →
        r = (List.range n).foldl (fun r i => r.release c area.toNat (field bs (4 * i) 4)) ({ d := s.dev } : ClaimRun) → done (.slotRelease slot)))
    ∧ ((c.roleEntry 2).isSome = false →
        (AtHead s slot 0x15 c t → exec (.slotBind slot) s = .next (Completed s s.dev (.ctx slot) t 0x14 0 []))
        ∧ (AtHead s slot 0x16 c t → exec (.slotRelease slot) s = .next (Completed s s.dev (.ctx slot) t 0x14 0 [])))

/-- R303, R325, R328, R373: REDUCE_CONFIG takes a legal configuration, unless it changes epoch, modules or rank without a fence (FENCE_NEEDED), has a field out of range, or meets a run (TREE_BUSY). REDUCE_FENCE completes, and ends the aborted state, once no bucket is
open or outstanding and the tree FD holds no tag; until then it waits. REDUCE_ABORT puts the context in the aborted state and, stated without open buckets, ends the tags of its tree FD with code ABORTED. REDUCE_DIGEST writes the record of its step and bucket, 256 bytes, to its address. -/
def Sys2Proof.Claims.ReductionDescriptorsConfigureFenceAndAbort : Prop :=
  ∀ (s : State) (slot : CtxSlot) (c : Context) (t : Taken),
    let e := t.entry
    let legal := 1 ≤ field e 8 2 ∧ field e 8 2 ≤ 4096 ∧ field e 0xA 2 < field e 8 2 ∧ field e 0x10 1 ≤ 1 ∧ 1 ≤ field e 0x18 2 ∧ field e 0x18 2 ≤ 4096
      ∧ field e 0x14 4 + 128 * field e 0x18 2 ≤ 2 ^ 31
    let same := ∃ o, c.reduce = some o ∧ o.modules = field e 8 2 ∧ o.rank = field e 0xA 2 ∧ o.epoch.toNat = field e 0xC 4
    let drained := (∀ cd ∈ c.cds, ∀ b ∈ s.dev.dies[cd].ladle.buckets, b.state = .aborted ∨ b.state = .completed)
      ∧ ∀ r ∈ c.reduce, ∀ g ∈ s.dev.fds[r.treeFd].tags, g.ctx ≠ c.tag
    let fenced := fun (d : Device) => d.dies = s.dev.dies ∧ d.mem = s.dev.mem
      ∧ ∃ c', d.ctxAt slot = some c' ∧ c'.aborted = false ∧ c'.fenced = true ∧ c'.reduce = c.reduce
    let dst := field e 0x10 8 % 2 ^ 52
    (AtHead s slot 0x20 c t →
      (¬ legal → exec (.reduceConfig slot) s = .next (Completed s s.dev (.ctx slot) t 0x32 0 []))
      ∧ (legal → ¬ same → c.fenced = false → exec (.reduceConfig slot) s = .next (Completed s s.dev (.ctx slot) t 0x30 0 []))
      ∧ (legal → (same ∨ c.fenced = true) → ∃ (d : Device) (c' : Context) (r : ReduceConfig), exec (.reduceConfig slot) s = .next (Completed s d (.ctx slot) t 0 0 [])
          ∧ d.ctxAt slot = some c' ∧ c'.reduce = some r ∧ r.modules = field e 8 2 ∧ r.rank = field e 0xA 2 ∧ r.epoch.toNat = field e 0xC 4
          ∧ r.treeFd.val = field e 0x10 1 ∧ r.log.toNat = field e 0x14 4 ∧ r.logEntries = field e 0x18 2 ∧ d.mem = s.dev.mem ∧ d.dies = s.dev.dies))
    ∧ (∀ u : Run, s.dev.ctxAt slot = some c → c.head = some t → t.op = 0x20 → s.dev.underReset (.ctx slot) = false → s.dev.yalkenUp = true → c.run = some u → u.op ≠ 0x20 → c.resident = true →
        c.cond ≠ .faulted → exec (.reduceConfig slot) s = .next (Completed s s.dev (.ctx slot) t 0x31 0 []))
    ∧ (AtHead s slot 0x21 c t → drained →
        (∃ d : Device, exec (.reduceFence slot) s = .next (Completed s d (.ctx slot) t 0 0 []) ∧ fenced d)
        ∧ (∃ d : Device, exec (.reduceFenceComplete slot) s = .next (Completed s d (.ctx slot) t 0 0 []) ∧ fenced d))
    ∧ (AtHead s slot 0x21 c t → ¬ drained → exec (.reduceFence slot) s = .next s ∧ exec (.reduceFenceComplete slot) s = .next s)
    ∧ (AtHead s slot 0x22 c t → ∃ d : Device, exec (.reduceAbort slot) s = .next (Completed s d (.ctx slot) t 0 0 [])
        ∧ (∃ c', d.ctxAt slot = some c' ∧ c'.aborted = true)
        ∧ (∀ r ∈ c.reduce, (∀ cd ∈ c.cds, ∀ b ∈ s.dev.dies[cd].ladle.buckets, b.state ≠ .isOpen ∧ b.state ≠ .outstanding) →
            (∀ g ∈ d.fds[r.treeFd].tags, g.ctx ≠ c.tag)
            ∧ ((s.dev.fds[r.treeFd].tags.filter fun g => g.ctx == c.tag).length ≤ 64 →
                ∀ g ∈ s.dev.fds[r.treeFd].tags, g.ctx = c.tag → { g with code := 1, downHeld := [] } ∈ d.fds[r.treeFd].digests)))
    ∧ (AtHead s slot 0x23 c t → (∀ bs : List Byte, bs.length = 256 → (s.dev.hdWrite c dst bs).2 = none) → ∃ bs : List Byte,
        exec (.reduceDigest slot) s = .next (Completed s (s.dev.hdWrite c dst bs).1 (.ctx slot) t 0 0 [])
        ∧ bs.length = 256 ∧ bs.getD 0 0 = 5 ∧ field bs 4 4 = field e 8 4 ∧ field bs 8 2 = field e 0xC 2
        ∧ (c.reduce = none → bs.getD 1 0 = 0xFF ∧ field bs 0xC 4 = 0 ∧ field bs 0x10 4 = 0)
        ∧ (∀ r g, c.reduce = some r → s.dev.fds[r.treeFd].find c.tag (field e 8 4) (field e 0xC 2) = g →
            bs.getD 1 0 = (g.map (·.code)).getD 0xFF ∧ field bs 0xC 4 = r.epoch.toNat))

/-- R344, R352, R355, R372: FABRIC_ROUTE of at most 16 entries whose ports belong to the partition, with no peer twice and, under a configured tree, an entry for every tree neighbour, binds the table: the classes closed for the context open again on every port, and it is no longer gone.
A port outside the partition refuses with ROUTE_PORT, a repeated or missing peer with ROUTE_TABLE; more than 16 entries are refused with FIELD. -/
def Sys2Proof.Claims.FabricRouteBindsItsTable : Prop :=
  ∀ (s : State) (slot : CtxSlot) (c : Context) (t : Taken) (bs : List Byte),
    let n := field t.entry 0x10 1
    let peer := fun (i : Nat) => field bs (8 * i) 2
    let port := fun (i : Nat) => field bs (8 * i + 2) 1
    let outside := ∃ i < n, 16 ≤ port i ∨ c.portMask.getLsbD (port i) = false
    let wrong := (∃ i < n, ∃ j < n, i ≠ j ∧ peer i = peer j) ∨ ∃ p ∈ c.treePeers, ∀ i < n, peer i ≠ p
    AtHead s slot 0x28 c t →
    (16 < n → exec (.fabricRoute slot) s = .next (Completed s s.dev (.ctx slot) t 0xE4 0 []))
    ∧ (n ≤ 16 → (n = 0 ∧ bs = [] ∨ 1 ≤ n ∧ s.dev.hdRead c (field t.entry 8 8 % 2 ^ 52) (8 * n) = .ok bs) →
    (outside → exec (.fabricRoute slot) s = .next (Completed s s.dev (.ctx slot) t 0x40 0 []))
    ∧ (¬ outside → wrong → exec (.fabricRoute slot) s = .next (Completed s s.dev (.ctx slot) t 0x42 0 []))
    ∧ (¬ outside → ¬ wrong → ∃ (d : Device) (c' : Context), exec (.fabricRoute slot) s = .next (Completed s d (.ctx slot) t 0 0 [])
        ∧ d.ctxAt slot = some c' ∧ c'.routes.length = n
        ∧ (∀ i < n, ∃ r, c'.routes[i]? = some r ∧ r.peer.toNat = peer i ∧ r.port.val = port i ∧ r.job.toNat = field bs (8 * i + 4) 4)
        ∧ (∀ (p : PortNo), (∀ x ∈ d.ports[p].closed, x.1 ≠ c.tag) ∧ d.ports[p].tx = s.dev.ports[p].tx) ∧ (∀ g ∈ d.gone, g.tag ≠ c.tag)
        ∧ d.mem = s.dev.mem ∧ d.dies = s.dev.dies))

/-- REDUCE_CONFIG, REDUCE_FENCE, REDUCE_ABORT, REDUCE_DIGEST and FABRIC_ROUTE. -/
def Obligations.ReductionAndRouteDescriptors : Prop :=
  Sys2Proof.Claims.ReductionDescriptorsConfigureFenceAndAbort ∧ Sys2Proof.Claims.FabricRouteBindsItsTable

/-! ### Contexts (R377 to R389, R421 to R424) -/

/-- R379, R380: the first check of the table "CONTEXT_CREATE checks" that fails gives the code; a CONTEXT_CREATE that passes every check adds the context of its fields with its eight grants, idle and without a plan, resident when no other context names its arc, and
leaves every die and every other context as it was. -/
def Sys2Proof.Claims.ContextCreateChecksThenCreates : Prop :=
  ∀ (s : State) (t : Taken),
    let e := t.entry
    let tag := field e 8 2
    let slot := field e 0xA 1
    let first := field e 0xB 1 % 16
    let logM := field e 0xB 1 / 16 % 8
    let cs := s.dev.ctxs
    let refused := fun (code : Nat) => exec .contextCreate s = .next (Completed s s.dev .admin t code 0 [])
    let same := fun (c : Context) => c.first = first ∧ c.logM = logM
    let bad : Fin 6 → Prop := fun k => match k.val with
      | 0 => 16 ≤ cs.length
      | 1 => tag = 0 ∨ ∃ c ∈ cs, c.tag.toNat = tag
      | 2 => 15 < slot ∨ ∃ c ∈ cs, c.slot.val = slot
      | 3 => 4 < logM ∨ first % 2 ^ logM ≠ 0
      | 4 => ∃ c ∈ cs, ¬ same c ∧ c.first < first + 2 ^ logM ∧ first < c.first + c.m
      | _ => ∃ c ∈ cs, (same c ∧ c.portMask.toNat ≠ field e 0x30 2) ∨ (¬ same c ∧ c.portMask &&& BitVec.ofNat 16 (field e 0x30 2) ≠ 0)
    let code : Fin 6 → Nat := fun k => [0x5A, 0x50, 0x51, 0x52, 0x53, 0x54].getD k.val 0
    AtAdmin s 0x40 t →
    (∀ k, bad k → (∀ j, j < k → ¬ bad j) → refused (code k))
    ∧ ((∀ k, ¬ bad k) → 65536 < (cs.map (·.quota)).sum + field e 0xC 4 → refused 0x55)
    ∧ (∀ bs : List Byte,
      let n := newContextOf e
      let gs := grantsOf bs
      s.dev.createCode n = none → s.dev.adminRead n.block 128 = .ok bs → s.dev.grantFault n gs = none → s.dev.createCode2 n gs = none →
      ∃ (d : Device) (c : Context), exec .contextCreate s = .next (Completed s d .admin t 0 0 [])
        ∧ d.ctxs = cs ++ [c] ∧ d.dies = s.dev.dies ∧ c.tag.toNat = tag ∧ c.slot.val = slot ∧ c.first = first ∧ c.logM = logM
        ∧ c.quota = field e 0xC 4 ∧ c.seed.toNat = field e 0x10 8 ∧ c.commitLine.toNat = field e 0x18 8 % 2 ^ 52 ∧ c.saveArea.toNat = field e 0x20 8 % 2 ^ 52
        ∧ c.portMask.toNat = field e 0x30 2 ∧ c.resident = decide (∀ b ∈ cs, ¬ same b)
        ∧ c.cond = .idle ∧ c.plan = none ∧ c.run = none ∧ c.head = none ∧ c.ring = none ∧ c.routes = [] ∧ c.gens = List.replicate (2 ^ logM) 0
        ∧ ∀ i : Fin 64, c.pantry[i] = if i.val < 8 then gs.getD i.val 0 else 0)

/-- R389, R421, R422, R424: DESTROY of a context that does not run removes it, zeroes the dies of its arc when it was resident and leaves every other die; of a running one it answers BUSY. A RESET of a saved context touches no die. A RESET of a resident context freezes its arc, stops its Coxes and waits for the
acknowledge of every unit of the arc, and of the FD and HD units that are silent on the scan path (the model's choice, log entry 79); units silent at the bound are held in reset and released; one that is never forced ends the reset after that with RESET_INCOMPLETE and a FAULTED context. The last acknowledge or release zeroes the arc's dies, leaves the context idle without plan, run or routes, and completes the reset. -/
def Sys2Proof.Claims.DestroyAndResetClearTheArc : Prop :=
  ∀ (s : State) (t : Taken) (c : Context),
    let off := fun (cd : Cd) => cd.val < c.first ∨ c.first + c.m ≤ cd.val
    let named := s.dev.ctxTag (BitVec.ofNat 16 (field t.entry 8 2)) = some c
    (AtAdmin s 0x41 t → named →
      (c.cond = .running → exec .contextDestroy s = .next (Completed s s.dev .admin t 0xEB 0 []))
      ∧ (c.cond ≠ .running → ∃ d : Device, exec .contextDestroy s = .next (Completed s d .admin t 0 0 [])
          ∧ (∀ b ∈ d.ctxs, b.slot ≠ c.slot) ∧ (∀ b ∈ s.dev.ctxs, b.slot ≠ c.slot → b ∈ d.ctxs) ∧ (∀ cd : Cd, off cd → d.dies[cd] = s.dev.dies[cd])
          ∧ (∀ cd : Cd, ¬ off cd → d.dies[cd] = if c.resident then {} else s.dev.dies[cd])
          ∧ ∀ r ∈ c.routes, ({ tag := c.tag, route := r } : Gone) ∈ d.gone))
    ∧ (AtAdmin s 0x42 t → named → s.dev.resetting = none → c.resident = true → c.first + c.m ≤ 16 →
        ∃ (u : State) (r : Resetting), exec .contextReset s = .next u ∧ u.dev.adminHead = some t ∧ u.dev.resetting = some r ∧ r.slot = c.slot ∧ r.forced = []
          ∧ r.stuck = none
          ∧ (∀ i, i ∈ r.waiting ↔ (∃ cd : Cd, ¬ off cd ∧ i ∈ dieIslands cd.val cdUnits) ∨ (i ∈ s.dev.dump.silent ∧ 16 ≤ i.toNat / 1024 ∧ i.toNat / 1024 ≤ 18))
          ∧ (∀ cd : Cd, ¬ off cd → u.dev.dies[cd].frozen = true ∧ u.dev.dies[cd].cox.run = .idle) ∧ (∀ cd : Cd, off cd → u.dev.dies[cd] = s.dev.dies[cd]))
    ∧ (AtAdmin s 0x42 t → named → s.dev.resetting = none → c.resident = false → s.dev.ctxAt c.slot = some c →
        ∃ (d : Device) (b : Context) (result : List Byte), exec .contextReset s = .next (Completed s d .admin t 0 0 result) ∧ d.dies = s.dev.dies
          ∧ d.ctxAt c.slot = some b ∧ b.cond = .idle ∧ b.plan = none ∧ b.run = none ∧ b.routes = [] ∧ b.resident = false ∧ b.gens = c.gens.map (· + 1))
    ∧ (∀ (r : Resetting) (i : BitVec 16), s.dev.resetting = some r → s.dev.adminHead = some t → s.dev.ctxAt r.slot = some c →
        let never := fun (j : BitVec 16) => decide (16 ≤ j.toNat / 1024) || decide (10 ≤ j.toNat / 16 % 64)
        let ended := fun (j : Instr) => r.stuck = none → ∃ (d : Device) (result : List Byte), exec j s = .next (Completed s d .admin t 0 0 result) ∧ d.resetting = none
          ∧ (∀ cd : Cd, ¬ off cd → d.dies[cd] = {}) ∧ (∀ cd : Cd, off cd → d.dies[cd] = s.dev.dies[cd])
          ∧ ∃ b, d.ctxAt r.slot = some b ∧ b.cond = .idle ∧ b.plan = none ∧ b.run = none ∧ b.head = none ∧ b.routes = [] ∧ b.reduce = none ∧ b.tag = c.tag
        (i ∈ r.waiting → (∀ j ∈ r.waiting, j = i) → r.forced = [] → ended (.unitResetAck i))
        ∧ (i ∈ r.waiting → (∃ j ∈ r.waiting, j ≠ i) → exec (.unitResetAck i) s
            = .next { s with dev := { s.dev with resetting := some { r with waiting := r.waiting.filter (· != i) } } })
        ∧ (i ∈ r.forced → (∀ j ∈ r.forced, j = i) → r.waiting = [] → ended (.forcedResetRelease i))
        ∧ ((∃ j ∈ r.waiting, never j = false) → exec .resetAckTimeout s = .next { s with dev := { s.dev with resetting := some { r with
            waiting := [], forced := r.waiting.filter (fun j => !never j), nForced := (r.waiting.filter fun j => !never j).length
            stuck := r.waiting.find? never } } })
        ∧ (let incomplete := fun (j : Instr) (k : BitVec 16) (n : Nat) => ∃ (d : Device) (b : Context) (result : List Byte),
              exec j s = .next (Completed s d .admin t 0x5D 0 result) ∧ d.resetting = none ∧ d.ctxAt r.slot = some b ∧ b.cond = .faulted
                ∧ d.dies = s.dev.dies ∧ field result 8 2 = k.toNat ∧ field result 5 1 = n % 256
          (i ∈ r.waiting → (∀ j ∈ r.waiting, never j = true) → r.forced = [] → r.waiting.head? = some i → incomplete .resetAckTimeout i 0)
          ∧ (∀ k, i ∈ r.forced → (∀ j ∈ r.forced, j = i) → r.waiting = [] → r.stuck = some k → incomplete (.forcedResetRelease i) k r.nForced)))

/-- CONTEXT_CREATE checks and creates; CONTEXT_DESTROY, CONTEXT_RESET and forced islands clear the arc. -/
def Obligations.ContextsAreCreatedAndCleared : Prop :=
  Sys2Proof.Claims.ContextCreateChecksThenCreates ∧ Sys2Proof.Claims.DestroyAndResetClearTheArc

/-- R387, R388, R354, R226: a switch out saves the dies of the arc at their stop points, raises the save generation of every position, zeroes the arc's dies and leaves the other dies; it waits, with credits withheld, while granted messages have not landed (until the limit of R354 has
passed) or a scheduled Course line is still to go. A switch in with a wrong generation makes the context resident and FAULTED and answers SAVE_CHECK; otherwise headers marked saved give the arc its saved state back, and headers marked empty give zeroed dies. Stated outgoing for a context
without a run in progress, incoming for an idle one; a tag that names none answers NO_CONTEXT, and two contexts of different arcs 0x5B.
A line of bonded SRAM in error leaves the context FAULTED and answers FAULT with its record (log entry 80). That a Cox, a course and banks come back from the state kept with the context, the course whatever the bytes of its
section, is the model's choice (log entry 16). Stated outgoing without an access of a Cox in flight, and incoming for save areas that can be read. -/
def Obligations.ContextSwitchSavesAndRestores : Prop :=
  ∀ (s : State) (t : Taken) (a : Context),
    let out := BitVec.ofNat 16 (field t.entry 8 2)
    let inn := BitVec.ofNat 16 (field t.entry 0xA 2)
    let off := fun (cd : Cd) => cd.val < a.first ∨ a.first + a.m ≤ cd.val
    (AtAdmin s 0x43 t → s.dev.ctxTag out = some a → s.dev.ctxAt a.slot = some a → out ≠ 0 → inn = 0 → a.resident = true → a.cond ≠ .running → s.dev.switching = none →
      a.first + a.m ≤ 16 → (∀ cd ∈ a.cds, s.dev.dies[cd].cox.bus = []) →
      (a.executing = true → exec .contextSwitch s = .next s)
      ∧ (a.executing = false → a.messagesLanded = true → s.dev.courseStill a = true → s.dev.rangesBad a.saveReads = none → ∃ (d : Device) (c : Context), exec .contextSwitch s = .next (Completed s d .admin t 0 0 [])
          ∧ d.ctxAt a.slot = some c ∧ c.resident = false ∧ c.saved = some (a.cds.map fun cd => s.dev.dies[cd].stopPoint a.cond) ∧ c.gens = a.gens.map (· + 1) ∧ c.plan = a.plan
          ∧ d.switching = none ∧ (∀ cd : Cd, ¬ off cd → d.dies[cd] = {}) ∧ (∀ cd : Cd, off cd → d.dies[cd] = s.dev.dies[cd]))
      ∧ (∀ line done, a.executing = false → a.messagesLanded = true → s.dev.courseStill a = true → s.dev.rangesBad a.saveReads = some (line, done) →
          ∃ (d : Device) (c : Context) (r : ErrRec), exec .contextSwitch s = .next (Completed s d .admin t 0xE6 1 (List.replicate 16 0 ++ r.encode))
            ∧ r.cls = 7 ∧ r.code = 5 ∧ r.dpa = BitVec.ofNat 52 line ∧ r.ctx = a.tag ∧ d.ctxAt a.slot = some c ∧ c.resident = false ∧ c.cond = .faulted
            ∧ c.gens = a.gens.map (· + 1) ∧ (∀ cd : Cd, ¬ off cd → d.dies[cd] = {}) ∧ (∀ cd : Cd, off cd → d.dies[cd] = s.dev.dies[cd]))
      ∧ (a.executing = false → (a.messagesLanded = false ∨ s.dev.courseStill a = false) → ∃ u, exec .contextSwitch s = .next u ∧ u.dev.adminHead = some t ∧ u.dev.dies = s.dev.dies
          ∧ u.dev.mem = s.dev.mem ∧ u.dev.switching = some { out := out, inn := inn, seq := t.seq }
          ∧ ∃ c, u.dev.ctxAt a.slot = some c ∧ c.pausing = true ∧ c.pauseOver = false ∧ c.resident = true))
    ∧ (AtAdmin s 0x43 t → out ≠ 0 → s.dev.ctxTag out = none → exec .contextSwitch s = .next (Completed s s.dev .admin t 0xEC 0 []))
    ∧ (∀ b, AtAdmin s 0x43 t → out ≠ 0 → inn ≠ 0 → s.dev.ctxTag out = some a → s.dev.ctxTag inn = some b → (a.first ≠ b.first ∨ a.logM ≠ b.logM) →
        exec .contextSwitch s = .next (Completed s s.dev .admin t 0x5B 0 []))
    ∧ (AtAdmin s 0x43 t → out = 0 → inn ≠ 0 → s.dev.ctxTag inn = some a → a.resident = false → a.cond = .idle → a.aborted = false → s.dev.switching = none →
      (∀ c ∈ s.dev.ctxs, c.resident = true → ¬ (c.first = a.first ∧ c.logM = a.logM)) → (∀ c ∈ s.dev.ctxs, c.slot = a.slot → c = a) →
      (∀ pos < a.m, s.dev.dataCode (a.headerAt pos) 64 = none) →
      (s.dev.gensMatch a = false → ∃ (d : Device) (c : Context), exec .contextSwitch s = .next (Completed s d .admin t 0x5C 0 [])
          ∧ d.ctxAt a.slot = some c ∧ c.resident = true ∧ c.cond = .faulted ∧ d.dies = s.dev.dies ∧ d.mem = s.dev.mem)
      ∧ (let d0 := (s.dev.restoreReads a).foldl (fun d (r : Nat × Nat) => d.eccRange r.1 r.2) s.dev
         let d1 := (d0.modMem fun m => m.takeEntries a.grants).loadSram a
         let saved := fun (pos : Nat) => headerSaved (s.dev.headerOf a pos)
         let sect := fun (cd : Cd) (j : Nat) => d1.getSect a.saveDom (a.headerAt (a.posOf cd)) j
         let valid := fun (cd : Cd) (j : Nat) => (field (d1.headerOf a (a.posOf cd)) 0xC 4).testBit j
         let kept := fun (cd : Cd) => (a.saved.getD []).getD (a.posOf cd) {}
         let ends := fun (d : Device) (plan : Option Plan) => exec .contextSwitch s = .next (Completed s d .admin t 0 0 [])
           ∧ (∃ c, d.ctxAt a.slot = some c ∧ c.resident = true ∧ c.saved = none ∧ c.cond = .idle ∧ c.plan = plan) ∧ ∀ cd : Cd, off cd → d.dies[cd] = s.dev.dies[cd]
         s.dev.gensMatch a = true → s.dev.rangesBad (s.dev.restoreReads a) = none → (∀ r ∈ a.reduce, ∀ g ∈ s.dev.fds[r.treeFd].tags, g.ctx = a.tag → g.downHeld = []) →
         ((∀ pos < a.m, saved pos = true) → (a.plan = none ∨ (d1.intactImage a).isSome = true) → ∃ d : Device, ends d a.plan
            ∧ ∀ cd : Cd, ¬ off cd → headerSaved (d1.headerOf a (a.posOf cd)) = true →
              (valid cd 3 = true → memBytes 0 (sect cd 3) 0 0x400 = (kept cd).cox.image → d.dies[cd].cox = (kept cd).cox)
              ∧ (valid cd 5 = true → sect cd 5 = (kept cd).bankCells → ∀ m : Fin 4, d.dies[cd].mas[m].bufs = (kept cd).mas[m].bufs)
              ∧ d.dies[cd].course = (if valid cd 7 then (kept cd).course else {}) ∧ (valid cd 11 = false → valid cd 10 = true → d.dies[cd].ladle.store = []))
         ∧ ((∀ pos < a.m, saved pos = false ∧ headerSaved (d1.headerOf a pos) = false) → ∃ d : Device, ends d none ∧ ∀ cd : Cd, ¬ off cd → d.dies[cd] = {})))
    ∧ (∀ slot : CtxSlot, s.dev.ctxAt slot = some a → a.pausing = true → exec (.pauseLimitExpiry slot) s
        = .next { s with dev := { s.dev with ctxs := s.dev.ctxs.map fun c => if c.slot = slot then { c with pauseOver := true } else c } })

/-! ### Admin descriptors (R362, R374, R375, R402 to R416, R426 to R430, R444) -/

/-- R362, R363: RING_BIND of a context without a descriptor or a run in hand, whose ring block keeps the rules of R362, gives it a running ring set with every index 0 in both lines, the expected number first_seq and the block's rings; a descriptor or a run in hand answers BUSY, a block that breaks a
rule FIELD, and one that cannot be read FAULT with its record. R375: RING_RESUME of a stopped ring set discards every untaken entry, takes the expected number of its payload and runs; of a running one it answers BUSY. -/
def Sys2Proof.Claims.RingsAreBoundAndResumed : Prop :=
  ∀ (s : State) (t : Taken) (c : Context),
    let e := t.entry
    let tag := BitVec.ofNat 16 (field e 8 2)
    let a := field e 0x10 8 % 2 ^ 52
    (AtAdmin s 0x44 t → s.dev.ctxTag tag = some c →
      (c.head.isSome ∨ c.run.isSome → exec .ringBind s = .next (Completed s s.dev .admin t 0xEB 0 []))
      ∧ (c.head = none → c.run = none → (a < 0x200000000000 ∨ 2 ^ 52 < a + 64) → exec .ringBind s = .next (Completed s s.dev .admin t 0xE4 0 []))
      ∧ (∀ r, c.head = none → c.run = none → 0x200000000000 ≤ a → a + 64 ≤ 2 ^ 52 → s.dev.adminRead a 64 = .error r →
          exec .ringBind s = .next (Completed s (s.dev.report r) .admin t 0xE6 1 (List.replicate 16 0 ++ r.encode)))
      ∧ (∀ b, c.head = none → c.run = none → 0x200000000000 ≤ a → a + 64 ≤ 2 ^ 52 → s.dev.adminRead a 64 = .ok b → ringOfBlock b = none →
          exec .ringBind s = .next (Completed s s.dev .admin t 0xE4 0 []))
      ∧ (∀ b r, c.head = none → c.run = none → 0x200000000000 ≤ a → a + 64 ≤ 2 ^ 52 → s.dev.adminRead a 64 = .ok b → ringOfBlock b = some r → s.dev.ctxAt c.slot = some c →
          s.dev.mem.bytes.wf 0 = true → RingWritable s.dev r → r.ctl.toNat / 64 ∉ s.dev.mem.errLines → s.dev.windowOf r.ctl.toNat = none →
          ∃ (d : Device) (c' : Context), exec .ringBind s = .next (Completed s d .admin t 0 0 []) ∧ d.ctxAt c.slot = some c' ∧ c'.ring = some { r with wseq := 1 }
            ∧ memBytes 0 d.mem.bytes r.ctl.toNat 12 = List.replicate 12 0
            ∧ r.sqHead = 0 ∧ r.sqTail = 0 ∧ r.cqHead = 0 ∧ r.cqTail = 0 ∧ r.eqHead = 0 ∧ r.eqTail = 0 ∧ r.stopped = false ∧ r.eventSeq = 0 ∧ r.wseq = 0
            ∧ r.expected.toNat = field b 4 4 ∧ r.sqN = field b 1 1 ∧ r.cqN = field b 2 1 ∧ r.eqN = field b 3 1 ∧ r.sq.toNat = field b 8 8 % 2 ^ 52
            ∧ r.cq.toNat = field b 0x10 8 % 2 ^ 52 ∧ r.eq.toNat = field b 0x18 8 % 2 ^ 52 ∧ r.ctl.toNat = field b 0x20 8 % 2 ^ 52 ∧ r.sts.toNat = field b 0x28 8 % 2 ^ 52
            ∧ 6 ≤ r.sqN ∧ r.sqN ≤ 16 ∧ 6 ≤ r.cqN ∧ r.cqN ≤ 16 ∧ 6 ≤ r.eqN ∧ r.eqN ≤ 16
            ∧ (r.cq.toNat + 64 * 2 ^ r.cqN ≤ r.eq.toNat ∨ r.eq.toNat + 64 * 2 ^ r.eqN ≤ r.cq.toNat) ∧ 0x200000000000 ≤ r.sq.toNat ∧ r.sq.toNat + 64 * 2 ^ r.sqN ≤ 2 ^ 52
            ∧ d.dies = s.dev.dies))
    ∧ (AtAdmin s 0x44 t → s.dev.ctxTag tag = none → exec .ringBind s = .next (Completed s s.dev .admin t 0xEC 0 []))
    ∧ (AtAdmin s 0x45 t → tag ≠ 0 → s.dev.ctxTag tag = none → exec .ringResume s = .next (Completed s s.dev .admin t 0xEC 0 []))
    ∧ (∀ r, AtAdmin s 0x45 t → tag ≠ 0 → s.dev.ctxTag tag = some c → s.dev.ctxAt c.slot = some c → c.ring = some r →
      (r.stopped = false → exec .ringResume s = .next (Completed s s.dev .admin t 0xEB 0 []))
      ∧ (r.stopped = true → r.lost = 0 → RingWritable s.dev r → ∃ d : Device, exec .ringResume s = .next (Completed s d .admin t 0 0 [])
          ∧ d.ring (.ctx c.slot) = some { r with sqHead := r.sqTail, expected := BitVec.ofNat 32 (field e 0xC 4), stopped := false, cause := 0, wseq := r.wseq + 1 }
          ∧ d.dies = s.dev.dies))

/-- R444 and the table "Control loops": LOOP_SET of a listed loop within its limits takes effect and answers what the loop then holds; mode 2 restores the default. It completes with LOOP_RANGE, and changes nothing, for a loop that is not listed, a mode above 2, and, in every mode, a value outside the
range or a low above a high, and for loop 0x00 pinned or with less than 100 between low and high. R445: a high of loop 0x00 above 5,800 is applied as 5,800. R447: a pinned equaliser takes its code at once.
(That the checks judge the values asked, before 5,800 is applied, is the model's choice, log entry 41.) -/
def Sys2Proof.Claims.LoopSetKeepsItsLimits : Prop :=
  ∀ (s : State) (t : Taken),
    let id := field t.entry 8 1
    let mode := field t.entry 9 1
    let low := field t.entry 0xC 4
    let high := field t.entry 0x10 4
    let refused := exec .loopSet s = .next (Completed s s.dev .admin t 0x70 0 [])
    let takes := fun (j : Fin 18) (m : BitVec 2) (lo hi : Nat) => ∃ (d : Device) (v : List Byte), exec .loopSet s = .next (Completed s d .admin t 0 0 (bytesLE 4 lo ++ bytesLE 4 hi ++ v))
      ∧ d.loops[j].mode = m ∧ d.loops[j].low.toNat = lo ∧ d.loops[j].high.toNat = hi ∧ (∀ k : Fin 18, k ≠ j → d.loops[k] = s.dev.loops[k]) ∧ v.length = 4
      ∧ d.dies = s.dev.dies ∧ d.ctxs = s.dev.ctxs
    AtAdmin s 0x51 t → s.dev.ctxTag 0 = none →
    (2 ≤ id → (id < 0x10 ∨ 0x20 ≤ id) → refused) ∧ (id < 2 → 2 < mode → refused)
    ∧ (id = 0 → mode = 1 → refused)
    ∧ (id = 0 → (low < 1000 ∨ 5800 < low ∨ high < low + 100) → refused)
    ∧ (id = 0 → mode = 0 → 1000 ≤ low → low + 100 ≤ high → low ≤ 5800 → high ≤ 5800 → takes 0 0 low high)
    ∧ (id = 0 → mode = 0 → 1000 ≤ low → low ≤ 5800 → 5800 < high → low + 100 ≤ high → takes 0 0 low 5800)
    ∧ (id = 0 → mode = 2 → 1000 ≤ low → low ≤ 5800 → low + 100 ≤ high → takes 0 2 5300 5500)
    ∧ (id = 1 → (high < low ∨ 2 < high) → refused) ∧ (id = 1 → mode = 0 → low ≤ high → high ≤ 2 → takes 1 0 low high)
    ∧ (id = 1 → mode = 1 → low ≤ high → high ≤ 2 → takes 1 1 low low) ∧ (id = 1 → mode = 2 → low ≤ high → high ≤ 2 → takes 1 2 0 2)
    ∧ (∀ p : PortNo, id = 0x10 + p.val →
        ((high < low ∨ 15 < high) → refused) ∧ (mode = 1 → low ≤ high → high ≤ 15 → takes (idx 18 (p.val + 2)) 1 low low ∧ ∃ u, exec .loopSet s = .next u ∧ u.dev.ports[p].ctle.toNat = low)
        ∧ (mode = 0 → low ≤ high → high ≤ 15 → takes (idx 18 (p.val + 2)) 0 low high)
        ∧ (mode = 2 → low ≤ high → high ≤ 15 → takes (idx 18 (p.val + 2)) 2 0 15))

/-- RING_BIND, RING_RESUME and LOOP_SET. -/
def Obligations.RingSetsAndLoopsOfTheAdminRing : Prop :=
  Sys2Proof.Claims.RingsAreBoundAndResumed ∧ Sys2Proof.Claims.LoopSetKeepsItsLimits

/-- R402, R403, R408, R413, R415, R393: ATTEST draws an ephemeral pair under the next index and delivers its report; a buffer too small answers the size needed and changes nothing. A KEY_RELEASE of a new domain that passes every step installs it with a key number of its own, a raised
install generation and the package key; outside the production lifecycle or after a debug unlock it is refused until power-on; one whose wrapped key does not open uses up its pair alone. A DOMAIN_RELEASE of an installed domain that no context binds destroys it and reports how many pages it zeroed; a bound one stays. A DEBUG_UNLOCK with a valid token and no context destroys every domain and
zeroes the dies, one with another token changes nothing; after an entropy failure all four answer ENTROPY_FAIL. Whether a key opens and a token is valid rests on functions that Config leaves opaque. -/
def Sys2Proof.Claims.BoathouseDescriptorsKeepTheirSecrets : Prop :=
  ∀ (s : State) (t : Taken),
    let e := t.entry
    let b := s.dev.boat
    let ends := fun (i : Instr) (code : Nat) => exec i s = .next (Completed s s.dev .admin t code 0 [])
    (b.entropyFailed = true → (AtAdmin s 0x48 t → ends .attest 0x6D) ∧ (AtAdmin s 0x49 t → ends .keyRelease 0x6D)
      ∧ (AtAdmin s 0x4A t → ends .domainRelease 0x6D) ∧ (AtAdmin s 0x4B t → ends .debugUnlock 0x6D))
    ∧ (b.entropyFailed = false →
      (AtAdmin s 0x48 t →
        let size := 0x680 + s.dev.chainLen
        let a := field e 0x10 8 % 2 ^ 52
        (field e 0x18 4 < size → exec .attest s = .next (Completed s s.dev .admin t 0x60 0 (bytesLE 4 size)))
        ∧ (size ≤ field e 0x18 4 → e.length = 64 → 0x200000000000 ≤ a → a + size ≤ 2 ^ 52 → s.dev.mem.bytes.wf 0 = true →
            (∀ l ∈ s.dev.mem.errLines, 64 * l + 64 ≤ a ∨ a + size ≤ 64 * l) → ∃ (d : Device) (p : Ephemeral) (rep : List Byte),
            exec .attest s = .next (Completed s d .admin t 0 0 (bytesLE 4 size ++ bytesLE 4 b.ephNext.toNat)) ∧ d.boat.ephNext = b.ephNext + 1 ∧ d.boat.rseq = b.rseq + 1
              ∧ p.index = b.ephNext ∧ p.priv = Config.random s.dev.fresh ∧ d.boat.ephemerals.getLast? = some p ∧ d.fresh = s.dev.fresh + 1
              ∧ rep.length = size ∧ memBytes 0 d.mem.bytes a size = rep ∧ rep.take 5 = [0x4F, 0x58, 0x41, 0x52, 5] ∧ (rep.drop 8).take 8 = ((e.drop 8).take 8)
              ∧ p.body = Config.sha384 (rep.take 0x600) ∧ d.boat.domains = b.domains ∧ d.dies = s.dev.dies ∧ d.ctxs = s.dev.ctxs))
      ∧ (AtAdmin s 0x49 t →
        let n := field e 0x14 1
        let a := field e 8 8 % 2 ^ 52
        (b.lifecycle ≠ 1 → ends .keyRelease 0x6C) ∧ (b.lifecycle = 1 → b.debugOnce = true → ends .keyRelease 0x69)
        ∧ (∀ (m list : List Byte) (dom : Fin 64) (p : Ephemeral) (key : BitVec 256) (ws : List Window), b.lifecycle = 1 → b.debugOnce = false → n = dom.val → 0 < n →
            s.dev.adminRead a 0x110 = .ok m → s.dev.adminRead (a + 0x110) (16 * Min.min 16 (relNpkg m)) = .ok list → releaseOk m list (field e 0x10 4) = true → relKind m = 0 →
            b.domains[dom].state ≠ .installed → relDgen m = 0 → b.domains[dom].pkg[idx 4 (relKidx m)] = none →
            (b.ephemerals.find? fun p => p.index.toNat == field m 8 4) = some p → p.body.toNat = beField m 0x10 48 → s.dev.packageWindows key (relKidx m) list (relNpkg m) = .ok ws → windowsFit b b.domains[dom] ws = true →
            (unwrapKey p.priv n m = none → ∃ d : Device, exec .keyRelease s = .next (Completed s d .admin t 0x63 0 []) ∧ d.boat.domains = b.domains
              ∧ (∀ x ∈ d.boat.ephemerals, x.index ≠ p.index) ∧ d.mem = s.dev.mem)
            ∧ (unwrapKey p.priv n m = some key → ∃ (d : Device) (result : List Byte), exec .keyRelease s = .next (Completed s d .admin t 0 0 result) ∧ d.boat.domains[dom].state = .installed
              ∧ d.boat.domains[dom].key = b.keysDrawn + 1 ∧ d.boat.keysDrawn = b.keysDrawn + 1 ∧ d.boat.domains[dom].dgen = b.domains[dom].dgen + 1
              ∧ d.boat.domains[dom].pkg[idx 4 (relKidx m)] = some key ∧ d.boat.domains[dom].windows = b.domains[dom].windows ++ ws
              ∧ (∀ o : Fin 64, o ≠ dom → d.boat.domains[o] = b.domains[o]) ∧ (∀ x ∈ d.boat.ephemerals, x.index ≠ p.index) ∧ d.mem = s.dev.mem)))
      ∧ (AtAdmin s 0x4A t →
        let n := field e 8 1
        (n = 0 ∨ 63 < n → ends .domainRelease 0x66)
        ∧ (∀ dom : Fin 64, n = dom.val → 0 < n →
            (b.domains[dom].state ≠ .installed → ends .domainRelease 0x64)
            ∧ (b.domains[dom].state = .installed → (∃ c ∈ s.dev.ctxs, dom ∈ c.domains) → ends .domainRelease 0x65)
            ∧ (b.domains[dom].state = .installed → (∀ c ∈ s.dev.ctxs, dom ∉ c.domains) → ∃ (d : Device) (result : List Byte),
                exec .domainRelease s = .next (Completed s d .admin t 0 0 result) ∧ d.boat.domains[dom].state = .destroyed ∧ d.boat.domains[dom].windows = []
                  ∧ (∀ k : Fin 4, d.boat.domains[dom].pkg[k] = none) ∧ (∀ o : Fin 64, o ≠ dom → d.boat.domains[o] = b.domains[o])
                  ∧ (∀ r ∈ d.boat.package, r.domain ≠ dom.val) ∧ d.dies = s.dev.dies ∧ d.ctxs = s.dev.ctxs)))
      ∧ (AtAdmin s 0x4B t →
        (s.dev.ctxs ≠ [] → ends .debugUnlock 0x6B)
        ∧ (∀ token, s.dev.ctxs = [] → field e 0x10 4 = 288 → s.dev.adminRead (field e 8 8 % 2 ^ 52) 288 = .ok token →
            (s.dev.tokenOk token = false → ends .debugUnlock 0x6A)
            ∧ (s.dev.tokenOk token = true → ∃ (d : Device) (result : List Byte), exec .debugUnlock s = .next (Completed s d .admin t 0 0 result) ∧ d.boat.debugOpen = true ∧ d.boat.debugOnce = true ∧ d.boat.ephemerals = [] ∧ (∀ cd : Cd, d.dies[cd] = {})
              ∧ (∀ o : Fin 64, o ≠ 0 → d.boat.domains[o].state ≠ .installed)
              ∧ (∀ a, 0x100000000000 ≤ a → a < 0x100800000000 → s.dev.mem.bytes.wf 0 = true → memGet 0 d.mem.bytes a = 0)))))

/-- R427, R429: a unit that has not answered, or whose scan check has failed twice, stands in the list that the next dump uses up. A DUMP_TAKE of the retained dump delivers its bytes, and the number of its unreadable units, into a buffer that is large enough, and no dump is retained any more; into a smaller buffer it delivers nothing, answers the size needed and the
dump stays; without a retained dump it answers the same code. A fresh native dump has 978,720 bytes. -/
def Sys2Proof.Claims.DumpsAreDelivered : Prop :=
  ∀ (s : State) (t : Taken),
    let e := t.entry
    let a := field e 8 8 % 2 ^ 52
    (∀ u : UnitFailure, u.island ∈ allIslands →
      (u.scanCheck = false → u.island ∉ s.dev.dump.silent → exec (.unitReadTimeout u) s
        = .next { s with dev := { s.dev with dump := { s.dev.dump with silent := s.dev.dump.silent ++ [u.island] } } })
      ∧ (u.scanCheck = true → u.island ∉ s.dev.dump.scanBad → exec (.unitReadTimeout u) s
        = .next { s with dev := { s.dev with dump := { s.dev.dump with scanBad := s.dev.dump.scanBad ++ [u.island] } } }))
    ∧ (AtAdmin s 0x50 t → field e 0x18 1 / 2 % 2 = 1 →
      (s.dev.dump.retained = none → exec .dumpTake s = .next (Completed s s.dev .admin t 0x5E 0 []))
      ∧ (∀ bs n, s.dev.dump.retained = some (bs, n) →
        (field e 0x10 8 < bs.length → exec .dumpTake s = .next (Completed s s.dev .admin t 0x5E 0 (bytesLE 8 bs.length)))
        ∧ (bs.length ≤ field e 0x10 8 → 0x200000000000 ≤ a → a + bs.length ≤ 2 ^ 52 → s.dev.mem.bytes.wf 0 = true →
          (∀ l ∈ s.dev.mem.errLines, 64 * l + 64 ≤ a ∨ a + bs.length ≤ 64 * l) → ∃ d : Device,
            exec .dumpTake s = .next (Completed s d .admin t 0 0 (bytesLE 8 bs.length ++ bytesLE 2 n)) ∧ memBytes 0 d.mem.bytes a bs.length = bs
              ∧ d.dump.retained = none ∧ d.dump.held = false ∧ d.dump.stops = [] ∧ d.dump.log = s.dev.dump.log ∧ d.dies = s.dev.dies ∧ d.ctxs = s.dev.ctxs)))
    ∧ (AtAdmin s 0x50 t → field e 0x18 1 % 4 = 0 → 978720 ≤ field e 0x10 8 → 0x200000000000 ≤ a → a + 978720 ≤ 2 ^ 52 → s.dev.mem.bytes.wf 0 = true → (∀ p ∈ s.dev.dump.stops, p.2.length = 64) →
        (∀ l ∈ s.dev.mem.errLines, 64 * l + 64 ≤ a ∨ a + 978720 ≤ 64 * l) →
        ∃ (d : Device) (n : Nat) (bs : List Byte), exec .dumpTake s = .next (Completed s d .admin t 0 0 (bytesLE 8 978720 ++ bytesLE 2 n)) ∧ bs.length = 978720
          ∧ memBytes 0 d.mem.bytes a 978720 = bs ∧ bs.take 6 = [0x4F, 0x58, 0x44, 0x4D, 5, 0] ∧ field bs 8 2 = 397 ∧ field bs 0x10 8 = 978720 ∧ d.dump.silent = [] ∧ d.dump.scanBad = []
          ∧ d.dies = s.dev.dies ∧ d.ctxs = s.dev.ctxs)

/-- ATTEST, KEY_RELEASE, DOMAIN_RELEASE, DEBUG_UNLOCK and DUMP_TAKE. -/
def Obligations.SecurityAndDumpDescriptors : Prop :=
  Sys2Proof.Claims.BoathouseDescriptorsKeepTheirSecrets ∧ Sys2Proof.Claims.DumpsAreDelivered

/-! ### Registers and the sideband (R465 to R486) -/

/-- R471, R472, R476, R483, R486 and the Reset and Writers columns: an accepted write of the driver to a budget, a loop, a port enable, a counter or another register gives it the value, and nothing else changes; a write with a reserved or read-only bit set, a budget outside its range or sum, and a non-zero value for a counter are ignored and
counted as strays; a 4-byte write of a low word is latched, and changes no register. (That a reserved or read-only bit makes the whole write a stray is the model's choice, log entry 39.) R443, R466, R470, R471: an 8-byte read of the driver gives the register; a 4-byte read of a low word gives it and latches the high word,
which the next read of that half returns; the board controller reads the HD and PD blocks alone, and its writes to a register that does not name it are strays (R472). -/
def Obligations.RegisterWritesKeepTheirRules : Prop :=
  ∀ (s : State) (v : Nat), DriverServes s → v < 2 ^ 64 →
    let d := s.dev
    (∀ n : Fin 16,
      let p := s.dev.pd
      let w := driverWrite (0x13000100 + 8 * n.val) v
      let sum := ((List.finRange 16).map fun k => if k = n then v else p.budget[k].toNat).sum
      (20 ≤ v → v ≤ 150 → sum ≤ 2168 → exec (.budgetWrite w) s = .next { s with dev := { d with pd := { p with
          budget := p.budget.set n (BitVec.ofNat 8 v), overNow := p.overNow.set n (decide (v * 10 < p.cdPwr[n].toNat)) } } })
      ∧ ((v < 20 ∨ 150 < v ∨ 2168 < sum) → exec (.budgetWrite w) s = .next (strayed s)))
    ∧ (∀ (low high : Nat), v = low + high * 2 ^ 16 → low ≤ high → high ≤ 2 → ∃ l : LoopReg, exec (.loopRegisterWrite (driverWrite 0x12000208 v)) s
          = .next { s with dev := { d with loops := s.dev.loops.set 1 l } } ∧ l.low.toNat = low ∧ l.high.toNat = high ∧ l.mode = 0)
    ∧ (∀ f : Fin 2, v < 256 → ∃ t, exec (.portEnWrite (driverWrite (0x10000000 + 0x1000000 * f.val) v)) s = .next t
        ∧ t.dev.fds[f].portEn = BitVec.ofNat 8 v ∧ (∀ g : Fin 2, g ≠ f → t.dev.fds[g] = s.dev.fds[g])
        ∧ (∀ p : PortNo, p.val / 8 = f.val → (t.dev.ports[p].enabled = (BitVec.ofNat 8 v).getLsbD (p.val % 8))
            ∧ (t.dev.ports[p].enabled = s.dev.ports[p].enabled → t.dev.ports[p] = s.dev.ports[p])
            ∧ (t.dev.ports[p].enabled = true → s.dev.ports[p].enabled = false → t.dev.ports[p].state = if 7 ≤ s.dev.start.stage.toNat then .detect else .off)
            ∧ (t.dev.ports[p].enabled = false → s.dev.ports[p].enabled = true → t.dev.ports[p].state = .off ∧ t.dev.ports[p].fails = 0
                ∧ t.dev.ports[p].replay = s.dev.ports[p].replay ∧ t.dev.ports[p].credits = s.dev.ports[p].credits))
        ∧ (∀ p : PortNo, p.val / 8 ≠ f.val → t.dev.ports[p] = s.dev.ports[p]) ∧ t.dev.mem = s.dev.mem ∧ t.dev.dies = s.dev.dies)
    ∧ (let i : Instr := .counterClearWrite (driverWrite 0x12000020 v)
      (v = 0 → exec i s = .next { s with dev := { d with hd := { d.hd with dbStray := {} } } }) ∧ (v ≠ 0 → exec i s = .next (strayed s)))
    ∧ (∀ (p : PortNo) (c : Fin 13), v = 0 →
        exec (.counterClearWrite (driverWrite ((16 + p.val / 8) * 0x1000000 + 0x10000 + (p.val % 8) * 0x1000 + 0x100 + 8 * c.val) v)) s
          = .next { s with dev := { d with ports := s.dev.ports.set p { s.dev.ports[p] with refuse := s.dev.ports[p].refuse.set c {} } } })
    ∧ (let i : Instr := .setupRegisterWrite (driverWrite 0x12000018 v)
      (v < 2 ^ 32 → exec i s = .next { s with dev := { d with hd := { d.hd with adminSeq := BitVec.ofNat 32 v } } })
      ∧ (2 ^ 32 ≤ v → exec i s = .next (strayed s)))
    ∧ (let i : Instr := .setupRegisterWrite (driverWrite 0x12000028 v)
      ((v = 0 ∨ v = 1) → exec i s = .next { s with dev := { d with dump := { s.dev.dump with p12 := decide (v = 1) } } })
      ∧ (2 ≤ v → v ≠ 4 → v ≠ 5 → exec i s = .next (strayed s)))
    ∧ (∀ w : BitVec 64, exec (.setupRegisterWrite { path := .driver, off := 0x12000018, wide := false, data := w }) s
        = .next { s with dev := { s.dev with hd := { s.dev.hd with latchD := some (0x12000018, BitVec.ofNat 32 w.toNat) } } })
    ∧ exec (.setupRegisterWrite (driverWrite 0x12000040 v)) s = .next (strayed s)
    ∧ (∀ off : BitVec 32, off.toNat % 8 = 0 →
        let reads := fun (path : RegPath) (wide : Bool) (o : BitVec 32) => Instr.setupRegisterWrite { path := path, off := o, wide := wide, data := 0, read := true }
        let x := s.dev.windowRead off.toNat
        let h := s.dev.hd
        let gives := fun (i : Instr) (h' : HdRegs) => exec i s = .next { s with dev := { s.dev with hd := h' } }
        gives (reads .driver true off) { h with readData := BitVec.ofNat 64 x }
        ∧ gives (reads .driver false off) { h with readData := BitVec.ofNat 64 (x % 2 ^ 32), readD := some (off, BitVec.ofNat 32 (x / 2 ^ 32)) }
        ∧ (∀ w : BitVec 32, h.readD = some (off, w) → gives (reads .driver false (off + 4)) { h with readData := BitVec.ofNat 64 w.toNat, readD := none })
        ∧ (h.readD = none → gives (reads .driver false (off + 4)) { h with readData := BitVec.ofNat 64 (x / 2 ^ 32 % 2 ^ 32) })
        ∧ (s.dev.pd.pwrGood = true → (off.toNat / 2 ^ 24 = 18 ∨ off.toNat / 2 ^ 24 = 19) →
            gives (reads .board false off) { h with readData := BitVec.ofNat 64 (x % 2 ^ 32), readB := some (off, BitVec.ofNat 32 (x / 2 ^ 32)) })
        ∧ (off.toNat / 2 ^ 24 ≠ 18 → off.toNat / 2 ^ 24 ≠ 19 → exec (reads .board false off) s = .next s))
    ∧ (s.dev.pd.pwrGood = true → ∀ w : BitVec 64, exec (.setupRegisterWrite { path := .board, off := 0x12000018, wide := false, data := w }) s = .next (strayed s))

/-- R478: a write of HD.ADMIN_RING with the bind bit, when the module is ready and no admin descriptor is in hand, binds the ring set of the block that it names with an outcome of 0, and BUSY otherwise; with the resume bit it resumes a stopped admin ring set. R479: a flash command of a fitting address starts, unless one is in progress; when the device
ends it, a read has filled the buffer with 4 KiB of flash, a program has cleared bits of it, an erase has set its sector to 0xFF, every other byte of flash reads as before, and done has risen. A misaligned address, and for a program or erase one of the reserved range, gives RANGE; a program or erase of the booted slot while firmware runs, or of the certificate area outside the manufacturing lifecycle, PROTECTED; a command while one is in progress BUSY. That a
program takes the buffer as it is when the device ends it is the model's choice (log entry 40). -/
def Sys2Proof.Claims.AdminRingAndFlashRegistersCommand : Prop :=
  ∀ (s : State), DriverServes s → MemoriesOk s.dev →
    (∀ (a : Nat) (r : RingSet), 0x200000000000 ≤ a → a + 64 ≤ 2 ^ 52 → ringOfBlock (memBytes 0 s.dev.mem.bytes a 64) = some r → s.dev.hdLineCode a = none →
      RingWritable s.dev r → r.ctl.toNat / 64 ∉ s.dev.mem.errLines → s.dev.windowOf r.ctl.toNat = none →
      let w := driverWrite 0x12000010 (a + 2 ^ 52)
      ((s.dev.start.ready = false ∨ s.dev.adminHead.isSome) → exec (.adminRingBind w []) s
          = .next { s with dev := { s.dev with hd := { s.dev.hd with adminErr := 0xEB } } })
      ∧ (s.dev.start.ready = true → s.dev.adminHead = none → s.dev.boat.heldRecords = [] → ∃ t, exec (.adminRingBind w []) s = .next t
          ∧ t.dev.admin = some { r with wseq := 1 } ∧ t.dev.hd.adminErr = 0 ∧ t.dev.hd.adminBlk.toNat = a ∧ memBytes 0 t.dev.mem.bytes r.sts.toNat 64 = statusLine { r with wseq := 1 }
          ∧ memBytes 0 t.dev.mem.bytes r.ctl.toNat 12 = List.replicate 12 0
          ∧ t.dev.ctxs = s.dev.ctxs ∧ t.dev.dies = s.dev.dies))
    ∧ (∀ r, s.dev.admin = some r → r.stopped = true → r.lost = 0 → RingWritable s.dev r → ∃ t, exec (.adminRingResume (driverWrite 0x12000010 (2 ^ 53))) s = .next t
        ∧ t.dev.admin = some { r with sqHead := r.sqTail, expected := s.dev.hd.adminSeq, stopped := false, cause := 0, wseq := r.wseq + 1 } ∧ t.dev.hd.adminErr = 0)
    ∧ (∀ addr op : Nat, addr < 2 ^ 32 → 1 ≤ op → op ≤ 3 →
        let w := driverWrite 0x12000100 (addr + op * 2 ^ 32)
        let h := s.dev.hd
        let h1 : HdRegs := { h with flashAddr := BitVec.ofNat 32 addr, flashOp := BitVec.ofNat 4 op }
        let gives := fun (h' : HdRegs) => exec (if op = 1 then .flashRead w else if op = 2 then .flashProgram w else .flashErase w) s
          = .next { s with dev := { s.dev with hd := h' } }
        let range := addr % (if op = 3 then 65536 else 4096) ≠ 0 ∨ (op ≠ 1 ∧ 0x2050000 ≤ addr)
        let shut := op ≠ 1 ∧ ((s.dev.boat.booted ≠ [] ∧ addr / 2 ^ 24 = (if s.dev.start.slot then 1 else 0))
          ∨ (0x2000000 ≤ addr ∧ addr < 0x2010000 ∧ s.dev.boat.lifecycle ≠ 0))
        (h.flashBusy = true → gives { h with flashResult := 1, dbStray := h.dbStray.add 1 })
        ∧ (h.flashBusy = false → (range → gives { h1 with flashResult := 3 }) ∧ (¬ range → shut → gives { h1 with flashResult := 2 })
          ∧ (¬ range → ¬ shut → gives { h1 with flashBusy := true, flashHeld := false })))
    ∧ (s.dev.hd.flashBusy = true → s.dev.hd.flashHeld = false →
        let h := s.dev.hd
        let a := h.flashAddr.toNat
        let old := fun (k : Nat) => memGet 0xFF h.flash k
        let ends := fun (P : HdRegs → Prop) => ∃ t, exec (.flashCommandDone true) s = .next t ∧ t.dev.hd.flashBusy = false ∧ t.dev.hd.flashResult = 0
          ∧ t.dev.hd.flashDone = h.flashDone + 1 ∧ P t.dev.hd ∧ t.dev.mem = s.dev.mem ∧ t.dev.dies = s.dev.dies
        (h.flashOp = 1 → a + 4096 ≤ 0x4000000 → ends fun h' => h'.flash = h.flash ∧ ∀ k < 4096, memGet 0 h'.flashBuf k = old (a + k))
        ∧ (h.flashOp = 2 → ends fun h' => (∀ k, memGet 0xFF h'.flash k = if a ≤ k ∧ k < a + 4096 then old k &&& memGet 0 h.flashBuf (k - a) else old k)
            ∧ h'.flashBuf = h.flashBuf)
        ∧ (h.flashOp = 3 → ends fun h' => ∀ k, memGet 0xFF h'.flash k = if a ≤ k ∧ k < a + 65536 then 0xFF else old k))

/-- R465, R467: with the rails on, SETDASA by the static address 0x3A and ENTDAA assign a dynamic address to a target that has none, RSTDAA takes it away, ENEC enables in-band interrupts and raises the waiting cause of lowest code when none is pending (log entry 35, the model's choice), and an accepted interrupt is replaced by the next cause. SETDASA by another address changes nothing, and no command of
the sideband does while the rails are off. ENTDAA goes by a provisional ID whose low 32 bits are those of the identity digest (their place in it: log entry 81). -/
def Sys2Proof.Claims.SidebandAssignsAddressesAndRaisesInterrupts : Prop :=
  ∀ (s : State) (a : BitVec 7),
    let i := s.dev.i3c
    let gives := fun (j : Instr) (k : I3c) => exec j s = .next { s with dev := { s.dev with i3c := k } }
    (s.dev.pd.pwrGood = false → ∀ j ∈ [Instr.setdasa 0x3A a, .entdaa a, .rstdaa, .enec, .ibi], exec j s = .next s)
    ∧ (s.dev.pd.pwrGood = true →
      (i.dynamic = none → gives (.setdasa 0x3A a) { i with dynamic := some a } ∧ ∃ id : BitVec 48, id.setWidth 32 = (keyDigest identityPub).setWidth 32
          ∧ gives (.entdaa a) { i with dynamic := some a, pid := some id })
      ∧ (∀ b, i.dynamic = some b → gives (.setdasa 0x3A a) i ∧ gives (.entdaa a) i) ∧ (∀ x, x ≠ 0x3A → gives (.setdasa x a) i)
      ∧ gives .rstdaa { i with dynamic := none }
      ∧ (i.pending = none → i.causes = [] → gives .enec { i with ibiOn := true }) ∧ (∀ p, i.pending = some p → gives .enec { i with ibiOn := true })
      ∧ (∀ c ∈ i.causes, (∀ x ∈ i.causes, c.toNat ≤ x.toNat) →
          (i.pending = none → gives .enec { i with ibiOn := true, pending := some c, causes := i.causes.erase c })
          ∧ (i.ibiOn = true → gives .ibi { i with pending := some c, causes := i.causes.erase c }))
      ∧ (i.causes = [] → gives .ibi { i with pending := none }))

/-- HD.ADMIN_RING, the flash commands and the I3C target. -/
def Obligations.AdminRingFlashAndSideband : Prop :=
  Sys2Proof.Claims.AdminRingAndFlashRegistersCommand ∧ Sys2Proof.Claims.SidebandAssignsAddressesAndRaisesInterrupts

/-! ### Wyine ports and packets (R334 to R355, R434 to R438) -/

/-- R334, R336, R337, R447: a port passes from DETECT through EQ, ALIGN and NEGOTIATE to ACTIVE when each state completes, takes equaliser settings inside the bounds of its loop, corrects the straight and the reversed lane order and no other, and
agrees on generation 1 with a partner whose range holds it. A failure puts it into back-off with its code and a record, once per code until it has been ACTIVE; the back-off ends at DETECT, and a command of its end outside back-off changes nothing (log entry 2, the model's choice). A partner that kept its session
replays from rx_next with credits kept. With a new session both sequence counters start at 0 (log entry 82, the model's reading) and the credits are the sizes of the buffers. -/
def Obligations.PortsTrainNegotiateAndBackOff : Prop :=
  ∀ (s : State) (p : PortNo) (f : TrainReport),
    let x := s.dev.ports[p]
    let l := s.dev.loops[idx 18 (p.val + 2)]
    let inside := fun (v : BitVec 4) => if l.mode = 1 then x.ctle else BitVec.ofNat 4 (Min.min l.high.toNat (Max.max l.low.toNat v.toNat))
    let gives := fun (i : Instr) (y : Port) => exec i s = .next { s with dev := { s.dev with ports := s.dev.ports.set p y } }
    let step : Instr := .portTrainingStep p f
    let fails := fun (i : Instr) (code detail : Nat) => ∃ t, exec i s = .next t ∧ t.dev.ports[p].state = .backoff ∧ (NoLinkErrors s → PortFailed s t p code detail)
    (x.state = .detect → (f.lanesBad = 0 → gives step { x with state := .eq }) ∧ (f.lanesBad ≠ 0 → exec step s = .next s)
      ∧ fails (.portTrainingTimeout p f) 0x10 1)
    ∧ (x.state = .eq → (f.lanesBad = 0 → gives step { x with state := .align, ctle := inside f.ctle, asked := f.asked, txp := f.preset })
      ∧ (f.lanesBad ≠ 0 → exec step s = .next s) ∧ fails (.portTrainingTimeout p f) 0x11 f.lanesBad.toNat)
    ∧ (x.state = .align →
      (∀ r, (f.laneMap = 0x76543210 ∧ r = false) ∨ (f.laneMap = 0x01234567 ∧ r = true) →
        gives step { x with state := .negotiate, reversed := r, polarity := f.polarity, echoed := false, heard := false, negTx := none, gen := 0, ver := 0 })
      ∧ (f.laneMap ≠ 0x76543210 → f.laneMap ≠ 0x01234567 → fails step 0x12 f.laneMap.toNat) ∧ fails (.portTrainingTimeout p f) 0x12 f.laneMap.toNat)
    ∧ (x.state = .backoff → gives (.backoffExpiry p) { x with state := .detect }) ∧ (x.state ≠ .backoff → exec (.backoffExpiry p) s = .next s)
    ∧ (x.state = .active → ∀ v dfe, (l.mode ≠ 1 → gives (.equaliserAdapt p v dfe) { x with ctle := inside v, dfe := dfe })
      ∧ (l.mode = 1 → exec (.equaliserAdapt p v dfe) s = .next s))
    ∧ (x.state = .negotiate → fails (.portTrainingTimeout p f) 0x14 0 ∧ ∀ g : NegFlit,
      let i : Instr := .negotiationFlit p g
      let agreed : Port := { x with gen := 1, ver := BitVec.ofNat 6 (Min.min 1 g.ver.toNat), heard := true }
      (g.genMax = 0 ∨ 1 < g.genMin.toNat → fails i 0x13 (g.genMax.toNat + 4 * g.genMin.toNat))
      ∧ (g.genMax ≠ 0 → g.genMin.toNat ≤ 1 → g.echo = false → gives i agreed)
      ∧ (g.genMax ≠ 0 → g.genMin.toNat ≤ 1 → g.echo = true → ∃ t, exec i s = .next t
        ∧ (let y := t.dev.ports[p]
          y.state = .active ∧ y.gen = 1 ∧ y.ver = agreed.ver ∧ y.fails = 0 ∧ y.told = [] ∧ y.partner = some g.session ∧ y.partnerModule = g.module
          ∧ (x.partner = some g.session → y.txSeq = x.txSeq ∧ y.rxSeq = x.rxSeq ∧ y.credits = x.credits ∧ y.tx = x.tx ∧ y.txAck = g.rxNext
              ∧ y.replay = x.replay.filter (fun f => !seqBefore f.seq g.rxNext) ∧ (g.rxNext ≠ x.txSeq → y.replaySeq = some g.rxNext))
          ∧ (x.partner ≠ some g.session → y.txSeq = 0 ∧ y.rxSeq = 0 ∧ y.replay = [] ∧ ∀ c : Fin 5, y.credits[c] = [64, 256, 2048, 2048, 2048].getD c.val 0)
          ∧ (∀ old, x.partner = some old → old ≠ g.session → ∀ c : Fin 5, y.tx[c] = []))
        ∧ (∀ o : PortNo, o ≠ p → t.dev.ports[o] = s.dev.ports[o]) ∧ (NoLinkErrors s → t.dev.dies = s.dev.dies)))

/-- R326, R337, R339 to R342, R438: in NEGOTIATE a port sends its negotiation flit. The waiting C2 packets of FAULTED contexts are dropped before a flit is made. An ACTIVE port that has nothing to replay sends one flit. Each of its lines is the next line of the first class in search order that has a line and credit, and for C2 a place in its half of the partner's buffer (R436), takes one credit, and the flit is kept for replay; with
no such class, or 1,024 flits unacknowledged, it is idle; freed lines of one class go back as credit. Idle flits at 1,024, which class a flit reports and how the lines in a half of the partner's buffer are counted are log entry 45 (DEDUCED, the model's choice). C1 lines come from the NAK queue, and then from the message credits that a stream owes. A replay sends kept flits again in sequence. -/
def Obligations.FlitsGoOutInSearchOrderAgainstCredit : Prop :=
  ∀ (s : State) (p : PortNo),
    let d := s.dev.dropFaulted p
    let x := d.ports[p]
    let sends := fun (P : Port → Flit → State → Prop) => ∃ (t : State) (f : Flit), exec (.flitTransmit p) s = .next t ∧ t.dev.ports[p].lastTx = some f
      ∧ f.ack = x.rxSeq ∧ f.nak = x.nakDue ∧ f.crc = flitCrc f ∧ t.dev.ports[p].nakDue = false ∧ P t.dev.ports[p] f t
      ∧ (∀ o : PortNo, o ≠ p → t.dev.ports[o] = s.dev.ports[o]) ∧ t.dev.mem = s.dev.mem ∧ t.dev.dies = s.dev.dies
    (x.state ≠ .active → x.state ≠ .negotiate → exec (.flitTransmit p) s = .next s)
    ∧ (x.state = .negotiate → ∃ g : NegFlit, exec (.flitTransmit p) s = .next { s with dev := { s.dev with
          ports := s.dev.ports.set p { s.dev.ports[p] with negTx := some g } } }
        ∧ g.genMax = 1 ∧ g.genMin = 1 ∧ g.ver = 1 ∧ g.port.toNat = p.val ∧ g.echo = x.heard ∧ g.session = x.session ∧ g.rxNext = x.rxSeq)
    ∧ ((∀ c ∈ s.dev.ctxs, c.cond ≠ .faulted) → d = s.dev) ∧ (∀ c : Fin 5, c ≠ 2 → x.tx[c] = s.dev.ports[p].tx[c])
    ∧ (x.state = .active → x.replaySeq = none → x.replay.length < 1024 → s.dev.owing p = none → x.nakQueue = [] → sends fun y f t =>
        let order : List (Fin 5) := if x.txSeq.toNat % 4 = 3 then [3, 4, 2, 0, 1] else [0, 1, 2, 3, 4]
        let taken := f.lines.map (·.1)
        let half := fun (k : Nat) (down : Bool) => ((x.c2Out ++ x.c2Waiting.take ((taken.take k).count 2)).filter (· == down)).length
        let spent := fun (c : Fin 5) (k : Nat) => x.tx[c].length ≤ (taken.take k).count c ∨ x.credits[c] ≤ (taken.take k).count c
          ∨ (c = 2 ∧ 1024 ≤ half k ((x.c2Waiting[(taken.take k).count 2]?).getD false))
        t.dev.ctxs = s.dev.ctxs ∧ f.seq = x.txSeq ∧ f.idle = f.lines.isEmpty ∧ f.lines.length ≤ 4
          ∧ (∀ c : Fin 5, (f.lines.filter fun l => l.1 == c).map (·.2) ++ y.tx[c] = x.tx[c] ∧ y.credits[c] + taken.count c = x.credits[c]
              ∧ y.freed[c] + (if f.cc.toNat = c.val then f.cred.toNat else 0) = x.freed[c])
          ∧ (∀ k c, taken[k]? = some c → ∀ o ∈ order.takeWhile (· != c), spent o k) ∧ (f.lines.length < 4 → ∀ c, spent c 4)
          ∧ y.c2Out = x.c2Out ++ x.c2Waiting.take (taken.count 2)
          ∧ y.txSeq = (if f.lines = [] then x.txSeq else x.txSeq + 1) ∧ y.replay = (if f.lines = [] then x.replay else x.replay ++ [f]))
    ∧ (x.state = .active → x.replaySeq = none → 1024 ≤ x.replay.length → sends fun y f _ => f.idle = true ∧ f.lines = [] ∧ y.replay = x.replay ∧ y.tx = x.tx)
    ∧ (x.state = .active → x.replaySeq = none → x.replay.length < 1024 → (∀ c : Fin 5, x.tx[c] = []) → 0 < x.credits[(1 : Fin 5)] →
        (∀ k, x.nakQueue = [k] → s.dev.owing p = none → field k.header 3 1 = 0 → sends fun y f _ => f.lines = [(1, k.header)] ∧ y.nakQueue = [])
        ∧ (∀ c r o, x.nakQueue = [] → s.dev.owing p = some (c, r, o) → sends fun _ f _ => ∃ h, f.lines.head? = some (1, h)
            ∧ field h 1 2 = 0x101 ∧ field h 3 1 = 0 ∧ field h 4 4 = o.job.toNat ∧ field h 0xE 2 = r.peer.toNat ∧ field h 0x2A 2 = Min.min 64 r.owed))
    ∧ (x.state = .active → ∀ q g, x.replaySeq = some q → x.replay.find? (fun f => f.seq == q) = some g → sends fun y f _ =>
        f.seq = q ∧ f.lines = g.lines ∧ f.idle = g.idle ∧ y.tx = x.tx ∧ y.credits = x.credits ∧ y.replay = x.replay
          ∧ y.replaySeq = if q + 1 = x.txSeq then none else some (q + 1))

/-- R340, R341, R342: an ACTIVE port discards a flit that fails its check and asks for a replay, and ignores one out of sequence; the expected one frees the acknowledged flits, returns credit, and puts its lines into the buffers of their classes;
a line beyond the credit that the partner held is dropped with LINK_CREDIT, and so is credit of a reserved class. A replay that the partner or the timer asks for starts at the oldest flit; the ninth in a row, and 65,536 cycles without a flit, take the port out of ACTIVE with LINK_DOWN. That the ninth replay leads to LINK_DOWN and LINK_DOWN into the back-off is log entry 45 (DEDUCED, the model's choice). -/
def Obligations.FlitsArriveInSequenceOrAreReplayed : Prop :=
  ∀ (s : State) (p : PortNo) (f : Flit),
    let x := s.dev.ports[p]
    let gives := fun (i : Instr) (y : Port) => exec i s = .next { s with dev := { s.dev with ports := s.dev.ports.set p y } }
    let i : Instr := .flitReceive p f
    let lines := fun (c : Fin 5) => (f.lines.filter fun l => l.1 == c).map (·.2)
    let size := fun (c : Fin 5) => [64, 256, 2048, 2048, 2048].getD c.val 0
    let kept := if f.ack = x.txAck then x.replay else x.replay.filter fun g => !seqBefore g.seq f.ack
    (x.state ≠ .active → ∀ j ∈ [i, .replayTimeout p, .keepaliveTimeout p], exec j s = .next s)
    ∧ (x.state = .active →
      (f.crc ≠ flitCrc f → gives i { x with discarding := true, nakDue := true })
      ∧ (f.crc = flitCrc f → f.seq ≠ x.rxSeq → exec i s = .next s)
      ∧ (f.crc = flitCrc f → f.seq = x.rxSeq → f.nak = false → ∀ c : Fin 5, f.cc.toNat = c.val → x.credits[c] + f.cred.toNat ≤ size c →
          (f.idle = true → ∃ t, exec i s = .next t ∧ t.dev.ports[p].rxSeq = x.rxSeq ∧ t.dev.ports[p].rx = x.rx ∧ t.dev.ports[p].replay = kept
            ∧ t.dev.ports[p].txAck = f.ack ∧ t.dev.ports[p].discarding = false ∧ t.dev.ports[p].credits = x.credits.set c (x.credits[c] + f.cred.toNat))
          ∧ (f.idle = false → (∀ o : Fin 5, x.rxHeld[o] + x.freed[o] + (lines o).length ≤ size o)  →
            ∃ t, exec i s = .next t ∧ t.dev.ports[p].rxSeq = x.rxSeq + 1 ∧ t.dev.ports[p].replay = kept ∧ t.dev.ports[p].txAck = f.ack
              ∧ t.dev.ports[p].credits = x.credits.set c (x.credits[c] + f.cred.toNat)
              ∧ (∀ o : Fin 5, t.dev.ports[p].rx[o] = x.rx[o] ++ lines o ∧ t.dev.ports[p].rxHeld[o] = x.rxHeld[o] + (lines o).length)
              ∧ (∀ o : PortNo, o ≠ p → t.dev.ports[o] = s.dev.ports[o]) ∧ t.dev.mem = s.dev.mem ∧ t.dev.ctxs = s.dev.ctxs)
          ∧ (∀ (o : Fin 5) (b : List Byte), f.idle = false → f.lines = [(o, b)] → o ≠ 0 → x.rxHeld[o] + x.freed[o] = size o → ∃ t, exec i s = .next t
              ∧ t.dev.ports[p].rxSeq = x.rxSeq + 1 ∧ t.dev.ports[p].rx = x.rx ∧ t.dev.ports[p].credit = x.credit.add 1))
      ∧ (f.crc = flitCrc f → f.seq = x.rxSeq → f.nak = false → f.idle = true → 5 ≤ f.cc.toNat → f.cred ≠ 0 → ∃ t, exec i s = .next t
          ∧ t.dev.ports[p].credits = x.credits ∧ t.dev.ports[p].credit = x.credit.add 1)
      ∧ (f.crc = flitCrc f → f.seq = x.rxSeq → f.nak = true → f.idle = true → f.cred = 0 → f.ack = x.txAck → x.replay ≠ [] → x.replays < 8 → f.cc.toNat < 5 →
          ∃ t, exec i s = .next t ∧ t.dev.ports[p].replaySeq = some f.ack ∧ t.dev.ports[p].replays = x.replays + 1)
      ∧ (x.replay = [] → exec (.replayTimeout p) s = .next s)
      ∧ (x.replay ≠ [] → x.replays < 8 → gives (.replayTimeout p) { x with replaySeq := some x.txAck, replays := x.replays + 1 })
      ∧ (x.replay ≠ [] → 8 ≤ x.replays → ∃ t, exec (.replayTimeout p) s = .next t ∧ t.dev.ports[p].state = .backoff ∧ (NoLinkErrors s → PortFailed s t p 0x15 1))
      ∧ (∃ t, exec (.keepaliveTimeout p) s = .next t ∧ t.dev.ports[p].state = .backoff ∧ (NoLinkErrors s → PortFailed s t p 0x15 2)))

/-- R345, R348, R350 to R353, R355: a packet at the front of its buffer is refused with the code of the first check it fails, and then its lines are freed (the credit of class 2 is withheld while its context is FAULTED, pauses or is saved: R326, R330, R354), the refusal is counted, a NAK with its job, peer, message and code waits in C1;
a data packet that passes writes its lines at its destination, frees its buffer, and is noted in its stream; without a wheel position for its lines it waits (R212). The order CLASS_CLOSED, NO_STREAM, PAUSED, MALFORMED for an ordinal that the marks do not cover, NO_CREDIT is log entry 46 (DEDUCED, the model's choice). A message all of whose lines are written
counts as landed, or its ordinal is marked and the gather counter passes every ordinal marked in turn (log entry 47, the model's reading). -/
def Obligations.PacketsLandOrAreRefusedWithANak : Prop :=
  ∀ (s : State) (p : PortNo) (k : Packet) (cls : Fin 5),
    let x := s.dev.ports[p]
    let i : Instr := .packetArrival p k
    let refused := fun (code : Fin 13) => ∃ t, exec i s = .next t ∧ PacketRefused s t p k cls code
    x.classOf k = some cls → k.ownRow = false →
    (∀ code, s.dev.headerFault p k = some code → ∃ f : Fin 13, f.val + 1 = code ∧ refused f)
    ∧ (s.dev.headerFault p k = none → s.dev.packetContext p k = none → refused (if s.dev.gone.any fun g => routeMatches p k g.route then 8 else 2))
    ∧ (∀ c, s.dev.headerFault p k = none → s.dev.packetContext p k = some c →
      (x.closed.contains (c.tag, BitVec.ofNat 3 k.code) = true → refused 5)
      ∧ (x.closed.contains (c.tag, BitVec.ofNat 3 k.code) = false → 3 ≤ cls.val →
        (c.recv k.pos k.stream = none → refused 3)
        ∧ ∀ r, c.recv k.pos k.stream = some r →
          let going := r.landing.any fun l => l.mseq.toNat == k.mseq
          let covered := cls = 4 ∨ going = true
            ∨ (BitVec.ofNat 32 (field k.aux 0 4) - s.dev.dies[c.cdAt k.pos].course.gather).toNat < 4096
          let serves := s.dev.wheelServesRun c (c.cdAt k.pos) 6 (k.dpa % 2 ^ 52) (64 * k.payload.length)
          (r.cls ≠ cls.val ∨ r.peer.toNat ≠ k.src → refused 3)
          ∧ (r.cls = cls.val → r.peer.toNat = k.src → c.refusesArrivals = true → refused 11)
          ∧ (r.cls = cls.val → r.peer.toNat = k.src → c.refusesArrivals = false → ¬ covered → refused 0)
          ∧ (r.cls = cls.val → r.peer.toNat = k.src → c.refusesArrivals = false → covered → going = false → r.held = 0 → refused 4)
          ∧ (r.cls = cls.val → r.peer.toNat = k.src → c.refusesArrivals = false → covered → going = true ∨ 0 < r.held → serves = false → exec i s = .next s)
          ∧ (∀ d1 ns, r.cls = cls.val → r.peer.toNat = k.src → c.refusesArrivals = false → covered → going = true ∨ 0 < r.held → serves = true →
              s.dev.landLines c (c.cdAt k.pos) (k.dpa % 2 ^ 52) k.poff k.payload [] = (d1, ns, none) → ∃ t, exec i s = .next t ∧ PacketFreed s t p k cls ∧ t.dev.mem = d1.mem
                ∧ t.dev.ports[p].refuse = x.refuse ∧ t.dev.ports[p].nakQueue = x.nakQueue
                ∧ ∃ b ∈ t.dev.ctxs, b.slot = c.slot ∧ ∃ q, b.recv k.pos k.stream = some q ∧ (going = false → q.held = r.held - 1)
                  ∧ ∃ w ∈ q.landing, w.mseq.toNat = k.mseq ∧ ∀ j ∈ ns, j ∈ w.written)))
    ∧ (∀ (slot : CtxSlot) (pos : Fin 16) (stream : Fin 32) (mseq : BitVec 32) c r l, s.dev.ctxAt slot = some c → c.recv pos.val stream.val = some r →
        r.landing.find? (fun l => l.mseq == mseq) = some l →
        let j : Instr := .messageLanded slot pos stream mseq
        let course := fun (d : Device) => d.dies[c.cdAt pos.val].course
        let after := fun (P : RecvStream → Prop) (t : State) => ∃ b ∈ t.dev.ctxs, b.slot = slot ∧ ∃ q, b.recv pos.val stream.val = some q
          ∧ q.landing = (r.landing.filter fun y => y.mseq != mseq) ∧ P q
        (l.written.length < l.mlines → exec j s = .next s)
        ∧ (l.mlines ≤ l.written.length → r.cls = 4 → ∃ t, exec j s = .next t ∧ t.dev.dies = s.dev.dies ∧ t.dev.mem = s.dev.mem ∧ after (fun q => q.landed = r.landed + 1) t)
        ∧ (l.mlines ≤ l.written.length → r.cls = 3 → ∃ t, exec j s = .next t ∧ t.dev.mem = s.dev.mem
            ∧ after (fun q => q.landed = r.landed ∧ q.ordinals = r.ordinals ++ [l.ordinal]) t
            ∧ ((course t.dev).gather.toNat ∉ (course t.dev).marks)
            ∧ (l.ordinal ≠ (course s.dev).gather.toNat → (course s.dev).gather.toNat ∉ (course s.dev).marks →
                (course t.dev).gather = (course s.dev).gather ∧ (course t.dev).marks = (course s.dev).marks ++ [l.ordinal])
            ∧ (l.ordinal = (course s.dev).gather.toNat → (course s.dev).marks = [] → (course t.dev).gather = (course s.dev).gather + 1 ∧ (course t.dev).marks = [])))

/-- R343, R349, R354: a send stream's next message departs when a message credit of its destination stream is held: a refused message whose credit has returned, with the bytes and the sequence that it had, else the oldest released entry, whose lines are read over the spur. They follow a header that names class, lines, job, ranks, stream, message and destination,
behind the lines that wait at the port of its peer; the credit is used. Nothing leaves a context that is saved, FAULTED or being reset, a stopped stream, or one without credit. -/
def Sys2Proof.Claims.SendEntriesDepartOrWait : Prop :=
  ∀ (s : State) (slot : CtxSlot) (pos : Fin 16) (stream : Fin 32) (c : Context) (pl : Plan) (r : SendStream) (no : Nat) (e : SendEntry) (o : Route) (n : Nat),
    let i : Instr := .sendEntryDepart slot pos stream
    s.dev.ctxAt slot = some c → c.plan = some pl → c.send pos.val stream.val = some r → pl.sendEntries[no]? = some e → c.routeTo e.peer.toNat = some o →
    pl.credit e.dest = some n → (r.cls = 3 ∨ r.cls = 4) → 1 ≤ e.lines → e.lines ≤ 64 → e.pos < 16 → e.stream < 32 →
    let open' := c.resident = true ∧ c.cond ≠ .faulted ∧ s.dev.isGone c.tag = false ∧ r.stopped = false ∧ 0 < n
    let leaves := fun (t : State) (m : BitVec 32) (ls : List (List Byte)) (q : SendStream) => ∃ h : List Byte,
      t.dev.ports[o.port].tx[idx 5 r.cls] = s.dev.ports[o.port].tx[idx 5 r.cls] ++ h :: ls
      ∧ field h 0 1 = 5 ∧ field h 1 1 = r.cls ∧ field h 2 1 = 0 ∧ field h 3 1 = e.lines ∧ field h 4 4 = o.job.toNat ∧ field h 0xC 2 = c.rank % 2 ^ 16 ∧ field h 0xE 2 = e.peer.toNat
      ∧ field h 0x10 1 = e.pos ∧ field h 0x11 1 = e.stream ∧ field h 0x14 4 = m.toNat ∧ field h 0x18 4 = 0 ∧ field h 0x1C 4 = e.lines
      ∧ field h 0x20 8 = e.dst.toNat ∧ (r.cls = 3 → field h 0x28 4 = e.ordinal % 2 ^ 32)
      ∧ (∃ b ∈ t.dev.ctxs, b.slot = slot ∧ b.send pos.val stream.val = some q ∧ b.plan.bind (fun q => q.credit e.dest) = some (n - 1))
      ∧ ∀ q : PortNo, q ≠ o.port → t.dev.ports[q] = s.dev.ports[q]
    let due := fun (m : SentMsg) => r.resend.find? (fun x => x.2) = some (m, true) ∧ m.entry = no
    let next := fun (rest : List Nat) => (∀ x ∈ r.resend, x.2 = false) ∧ r.unread = no :: rest
    (∀ m, due m → open' → m.lines.length = e.lines → ∃ t, exec i s = .next t
      ∧ leaves t m.mseq m.lines { r with resend := r.resend.filter fun x => x.1.mseq != m.mseq } ∧ t.dev.mem = s.dev.mem ∧ t.dev.dies = s.dev.dies)
    ∧ (∀ rest bs, next rest → open' → s.dev.readBytes c (c.cdAt pos.val) .send e.src.toNat (64 * e.lines) = .ok bs → ∃ (t : State) (ls : List (List Byte)), exec i s = .next t
      ∧ ls.length = e.lines ∧ ls.flatten = bs.take (64 * e.lines)
      ∧ leaves t r.mseq ls { r with unread := rest, mseq := r.mseq + 1, sent := r.sent ++ [{ mseq := r.mseq, entry := no, lines := ls }] }
      ∧ (s.dev.mem.ceLines = [] → t.dev.mem = s.dev.mem ∧ t.dev.dies = s.dev.dies))
    ∧ (∀ rest x l, next rest → open' → s.dev.readBytes c (c.cdAt pos.val) .send e.src.toNat (64 * e.lines) = .error (x, l) → ∃ t, exec i s = .next t
      ∧ t.dev.ports = s.dev.ports ∧ ∃ b ∈ t.dev.ctxs, b.slot = slot ∧ b.cond = .faulted)
    ∧ (∀ m rest, due m ∨ next rest → ¬ open' → exec i s = .next s)
    ∧ ((∀ x ∈ r.resend, x.2 = false) → r.unread = [] → exec i s = .next s)

/-- R327, R345, R351, R354, R435: a NAK of PAUSED has the message wait for its credit and go again, one of ABORTED is told alone, and one of another code stops the stream, or the reduction toward its sender; a field that its tables do not list makes it MALFORMED. An MCREDIT returns its credits to its destination stream, and the oldest refused message to it may go again. R434: a PING is
answered by an ECHO with its ranks exchanged, and an ECHO leaves the buffer reserved for it. Each is refused when no context has its route. -/
def Sys2Proof.Claims.ControlPacketsAct : Prop :=
  ∀ (s : State) (p : PortNo) (k : Packet) (cls : Fin 5),
    let x := s.dev.ports[p]
    let n := k.payload.length + 1
    let took := fun (t : State) => t.dev.ports[p].rx[cls] = x.rx[cls].drop n ∧ t.dev.ports[p].rxHeld[cls] = x.rxHeld[cls] - n
    let sender := fun (t : State) (slot : CtxSlot) (r q : SendStream) => ∃ b ∈ t.dev.ctxs, b.slot = slot ∧ b.send r.pos r.stream = some q
    let rows : List (Instr × Nat × Nat) := [(.ping p k, 0, 0), (.echo p k, 0, 1), (.nakArrival p k, 1, 0), (.mcredit p k, 1, 1)]
    x.classOf k = some cls →
    (∀ row ∈ rows, k.code ≠ row.2.1 ∨ k.kind ≠ row.2.2 → exec row.1 s = .next s)
    ∧ (∀ row ∈ rows, k.code = row.2.1 → k.kind = row.2.2 → (∀ code, s.dev.headerFault p k = some code → ∃ f : Fin 13, f.val + 1 = code ∧ ∃ t, exec row.1 s = .next t ∧ PacketRefused s t p k cls f)
      ∧ (s.dev.headerFault p k = none → s.dev.packetContext p k = none → ∃ t, exec row.1 s = .next t
        ∧ PacketRefused s t p k cls (if s.dev.gone.any fun g => routeMatches p k g.route then 8 else 2)))
    ∧ (∀ c, k.code = 1 → k.kind = 0 → s.dev.headerFault p k = none → s.dev.packetContext p k = some c →
      let listed := 1 ≤ k.nakCode ∧ k.nakCode ≤ 13 ∧ k.nakClass ≤ 4 ∧ k.nakStream ≤ 31
      (¬ listed → ∃ t, exec (.nakArrival p k) s = .next t ∧ PacketRefused s t p k cls 0)
      ∧ (∀ r m, listed → s.dev.ctxAt c.slot = some c → c.refusedSend k = some (r, m) → c.send r.pos r.stream = some r → k.nakClass ≠ 2 →
        ∃ t, exec (.nakArrival p k) s = .next t ∧ took t ∧ t.dev.ports[p].freed[cls] = x.freed[cls] + n ∧ (NoLinkErrors s → t.dev.dies = s.dev.dies)
          ∧ (k.nakCode = 12 → ∃ q, sender t c.slot r q ∧ (∃ w ∈ q.resend, w.1.mseq = m.mseq) ∧ q = { r with resend := q.resend })
          ∧ (k.nakCode = 8 → sender t c.slot r r) ∧ (k.nakCode ∉ [8, 12] → sender t c.slot r { r with stopped := true }))
      ∧ (listed → s.dev.ctxAt c.slot = some c → k.nakClass = 2 → k.nakCode ∉ [8, 9, 12] →
        ∃ t, exec (.nakArrival p k) s = .next t ∧ took t ∧ ∃ b, t.dev.ctxAt c.slot = some b ∧ b.treeStopped = c.treeStopped ++ [BitVec.ofNat 16 k.src]))
    ∧ (∀ c, k.code = 1 → k.kind = 1 → s.dev.headerFault p k = none → s.dev.packetContext p k = some c → s.dev.ctxAt c.slot = some c →
      (k.credited = 0 ∨ 64 < k.credited → ∃ t, exec (.mcredit p k) s = .next t ∧ PacketRefused s t p k cls 0)
      ∧ (1 ≤ k.credited → k.credited ≤ 64 → c.plan.bind (fun q => q.credit (creditDest k)) = none → ∃ t, exec (.mcredit p k) s = .next t ∧ PacketRefused s t p k cls 3)
      ∧ ∀ n0, 1 ≤ k.credited → k.credited ≤ 64 → c.plan.bind (fun q => q.credit (creditDest k)) = some n0 →
        ∃ t, exec (.mcredit p k) s = .next t ∧ took t ∧ t.dev.ports[p].freed[cls] = x.freed[cls] + n ∧ t.dev.dies = s.dev.dies ∧ t.dev.mem = s.dev.mem
          ∧ ∃ b, t.dev.ctxAt c.slot = some b ∧ b.plan.bind (fun q => q.credit (creditDest k)) = some (n0 + k.credited)
            ∧ ∀ q r m rest e, c.plan = some q → q.sends = [r] → r.resend = (m, false) :: rest → q.sendEntries[m.entry]? = some e → e.dest = creditDest k →
              ∃ q' w, b.plan = some q' ∧ q'.sends = [w] ∧ w.resend.head? = some (m, true) ∧ w = { r with resend := w.resend })
    ∧ (k.code = 0 → k.kind = 0 → s.dev.headerFault p k = none → s.dev.packetContext p k ≠ none → ∃ (t : State) (h : List Byte), exec (.ping p k) s = .next t ∧ took t
        ∧ t.dev.ports[p].tx[(0 : Fin 5)] = x.tx[(0 : Fin 5)] ++ [h]
        ∧ field h 0 1 = 5 ∧ field h 1 1 = 0 ∧ field h 2 1 = 1 ∧ field h 3 1 = 0 ∧ field h 4 4 = k.job ∧ field h 0xC 2 = k.dst ∧ field h 0xE 2 = k.src ∧ field h 0x14 4 = k.mseq
        ∧ t.dev.ports[p].credits[(0 : Fin 5)] = x.credits[(0 : Fin 5)] + 1 ∧ t.dev.ctxs = s.dev.ctxs ∧ t.dev.mem = s.dev.mem)
    ∧ (k.code = 0 → k.kind = 1 → s.dev.headerFault p k = none → s.dev.packetContext p k ≠ none → ∃ t, exec (.echo p k) s = .next t ∧ took t
        ∧ (0 < x.echoReserved → t.dev.ports[p].freed = x.freed ∧ t.dev.ports[p].echoReserved = x.echoReserved - 1)
        ∧ (x.echoReserved = 0 → t.dev.ports[p].freed[cls] = x.freed[cls] + n)
        ∧ t.dev.ctxs = s.dev.ctxs ∧ t.dev.mem = s.dev.mem)

/-- Sends depart with a message credit; NAK, MCREDIT, PING and ECHO act. -/
def Obligations.SendsDepartAndControlPacketsAct : Prop :=
  Sys2Proof.Claims.SendEntriesDepartOrWait ∧ Sys2Proof.Claims.ControlPacketsAct

/-! ### Power, Easy-all and start-up (R390, R393 to R401, R448 to R463) -/

/-- R452, R453, R455, R463: input applied and qualified, twelve rails good in order and then PWR_GOOD with start-up at stage 0x2; a rail that misses its window turns all off, a retry starts again at rail 1, and the third failure in a row locks the module off until power-on. An
input out of range, its removal and 110 °C turn every rail off at once: nothing below companion memory is kept but flash and fuses, and THERM_TRIP holds until the input is removed. -/
def Obligations.PowerStageFollowsItsSequence : Prop :=
  ∀ (s : State), s.dev.mem.bytes.wf 0 = true →
    let p := s.dev.pd
    let gives := fun (i : Instr) (q : Pd) => exec i s = .next { s with dev := { s.dev with pd := q } }
    let off := fun (i : Instr) (q : Pd) => ∃ t, exec i s = .next t ∧ t.dev.pd = q ∧ t.dev.ctxs = [] ∧ t.dev.dies = Device.reset.dies
      ∧ t.dev.ports = Device.reset.ports ∧ t.dev.lpcs = Device.reset.lpcs ∧ t.dev.start = Device.reset.start ∧ t.dev.admin = none ∧ t.dev.yalkenUp = false
      ∧ t.dev.hd.flash = s.dev.hd.flash ∧ t.dev.boat.revoke = s.dev.boat.revoke ∧ t.dev.boat.fuseSvn = s.dev.boat.fuseSvn ∧ t.dev.boat.keysDrawn = s.dev.boat.keysDrawn ∧ t.dev.boat.domains = Device.reset.boat.domains
      ∧ t.dev.dump = Device.reset.dump ∧ ∀ a, memGet 0 t.dev.mem.bytes a = if 0x200000000000 ≤ a then memGet 0 s.dev.mem.bytes a else 0
    let none' : Pd := { input := .protectedOff, locked := p.locked, seqFails := p.seqFails, thermTrip := p.thermTrip }
    (p.input = .removed → gives .inputApplied { p with input := .applied, locked := false, seqFails := 0, thermTrip := false })
    ∧ (p.input = .applied ∨ p.input = .protectedOff → p.locked = false → p.thermTrip = false →
        gives .inputQualified { p with input := .qualified, ramping := true, rails := 0 })
    ∧ (p.locked = true ∨ p.thermTrip = true → exec .inputQualified s = .next s)
    ∧ (p.input = .applied ∨ p.input = .qualified → off .inputUndervoltage none' ∧ off .inputOvervoltage none')
    ∧ off .inputRemoved { input := .removed }
    ∧ (p.ramping = true → p.rails + 1 < 12 → gives .railPowerGood { p with rails := p.rails + 1 })
    ∧ (p.ramping = true → p.rails = 11 → ∃ t, exec .railPowerGood s = .next t
        ∧ t.dev.pd = { p with rails := 12, ramping := false, seqFails := 0, pwrGood := true } ∧ t.dev.start = { s.dev.start with stage := 2 }
        ∧ t.dev.mem = s.dev.mem ∧ t.dev.dies = s.dev.dies ∧ (∀ q : PortNo, t.dev.ports[q].session = t.dev.fds[idx 2 (q.val / 8)].session))
    ∧ (p.ramping = false → exec .railPowerGood s = .next s ∧ exec .railSequenceTimeout s = .next s)
    ∧ (p.ramping = true → off .railSequenceTimeout
        { input := .qualified, locked := decide (3 ≤ p.seqFails + 1), seqFails := p.seqFails + 1, thermTrip := p.thermTrip })
    ∧ (p.input = .qualified → p.ramping = false → p.pwrGood = false → 0 < p.seqFails →
        (p.locked = false → gives .sequenceRetry { p with ramping := true, rails := 0 }) ∧ (p.locked = true → exec .sequenceRetry s = .next s))
    ∧ (∀ (source : BitVec 16) (tenths : Int), 0 < p.rails →
        let i : Instr := .overtemperatureShutdown source tenths
        (1100 ≤ tenths → off i { none' with thermTrip := true })
        ∧ (∀ (cd : Cd) (k : Fin 2), source = island cd.val 10 k.val → off i { none' with thermTrip := true })
        ∧ (tenths < 1100 → source = pdIsland → exec i s = .next s))

/-- R448 to R451, R482, R483: a sample of the telemetry sets the readings, and which CDs are above their budgets; above its entry level Easy-all starts an episode with that mask, its signal holds every resident running context and has position 0 pause its
Course, and at or below the exit level, 65,536 cycles after a LOOP_SET of that level, the contexts are released and resume, at once or when their Course stands still (log entry 53, DEDUCED). R171, R359: when the Yalken link has retrained the writes that waited land, and one that is answered with an error is recorded and faults its context (log entry 14, the model's choice); when it goes down writes and
descriptors wait. A retrain command outside stage 0x8 changes nothing (log entry 2, the model's choice). -/
def Obligations.EasyAllHoldsAndReleasesPartitions : Prop :=
  ∀ (s : State) (average : Nat) (m : Telemetry),
    let p := s.dev.pd
    let counting := p.restart.any fun t => decide ((s.dev.cycle pdIsland - t).toNat < 65536)
    (2 ≤ p.rails → ∃ q : Pd, exec (.telemetrySample m) s = .next { s with dev := { s.dev with pd := q } }
      ∧ q = { p with vin := m.vin, iin := m.iin, pin := m.pin, coolant := m.coolant.getD p.coolant, cdPwr := q.cdPwr, overNow := q.overNow, temp := q.temp }
      ∧ (∀ n : Fin 16, q.cdPwr[n] = (m.cdPwr[n.val]?).getD p.cdPwr[n] ∧ q.overNow[n] = decide (p.budget[n].toNat * 10 < q.cdPwr[n].toNat))
      ∧ (∀ n : Fin 17, q.temp[n] = (m.temps[n.val]?).getD p.temp[n]))
    ∧ (0 < p.rails → p.easyAll = false → (s.dev.loops[(0 : Fin 18)].high.toNat < average → ∃ t, exec (.easyAllEntry average) s = .next t
        ∧ t.dev.pd = { p with easyAll := true, signalled := false, episode := p.episode + 1, mask := t.dev.pd.mask, entryCycle := s.dev.cycle pdIsland, restart := none }
        ∧ (∀ n : Fin 16, t.dev.pd.mask.getLsbD n.val = p.overNow[n]) ∧ t.dev.start.eaSeen = true
        ∧ (4 ∈ t.dev.i3c.causes ∨ t.dev.i3c.pending = some 4) ∧ t.dev.ctxs = s.dev.ctxs ∧ t.dev.dies = s.dev.dies ∧ t.dev.mem = s.dev.mem)
      ∧ (average ≤ s.dev.loops[(0 : Fin 18)].high.toNat → exec (.easyAllEntry average) s = .next s))
    ∧ (p.easyAll = true → p.signalled = false → ∃ t, exec .easyAllSignal s = .next t ∧ t.dev.pd = { p with signalled := true }
        ∧ ∀ c ∈ s.dev.ctxs, c.resident = true → c.cond = .running → (∃ b ∈ t.dev.ctxs, b.slot = c.slot ∧ b.tag = c.tag ∧ b.held = true)
          ∧ (∀ q v, NoLinkErrors s → s.dev.ctxs = [c] → c.plan = some q → c.m ≠ 1 → s.dev.dies[c.cdAt 0].course.counter = some v →
              s.dev.dies[c.cdAt 0].course.pause = none → s.dev.dies[c.cdAt 0].course.resume = none →
              t.dev.dies[c.cdAt 0].course.pause = some (q.pauseRound v) ∧ ∀ cd : Cd, cd ≠ c.cdAt 0 → t.dev.dies[cd] = s.dev.dies[cd]))
    ∧ (p.easyAll = true → average ≤ s.dev.loops[(0 : Fin 18)].low.toNat → counting = true → exec (.easyAllExit average) s = .next s)
    ∧ (p.easyAll = true → average ≤ s.dev.loops[(0 : Fin 18)].low.toNat → counting = false → ∃ t, exec (.easyAllExit average) s = .next t
        ∧ t.dev.pd = { p with easyAll := false, signalled := false, restart := none } ∧ (∀ b ∈ t.dev.ctxs, b.held = true → b.resumeDue = true)
        ∧ ∀ c ∈ s.dev.ctxs, s.dev.ctxs = [c] → c.held = true → s.dev.courseStill c = true → ∃ b ∈ t.dev.ctxs, b.slot = c.slot ∧ b.held = false)
    ∧ (p.easyAll = true → s.dev.loops[(0 : Fin 18)].low.toNat < average → exec (.easyAllExit average) s = .next s)
    ∧ (s.dev.start.stage = 8 → s.dev.companion = [] → (∀ w ∈ s.dev.heldWrites, w.dpa / 64 ∉ s.dev.mem.errLines) → exec (.yalkenLinkRetrain true) s = .next { s with dev := { s.dev with
          yalkenUp := true, heldWrites := [], mem := { s.dev.mem with bytes := Writes.land (s.dev.heldWrites.map fun w => (w.dpa, w.bytes)) s.dev.mem.bytes } } })
    ∧ (∀ w, s.dev.start.stage = 8 → s.dev.companion = [] → s.dev.heldWrites = [w] → w.dpa / 64 ∈ s.dev.mem.errLines → ∃ t, exec (.yalkenLinkRetrain true) s = .next t
        ∧ t.dev.yalkenUp = true ∧ t.dev.heldWrites = [] ∧ s.dev.lineErr w.ctx 8 w.dpa true ∈ t.dev.dump.log
        ∧ ∀ c, w.ctx ≠ 0 → s.dev.ctxTag w.ctx = some c → ∃ b ∈ t.dev.ctxs, b.slot = c.slot ∧ b.cond = .faulted)
    ∧ (s.dev.start.stage = 8 → s.dev.yalkenUp = true → ∃ l, exec (.yalkenLinkRetrain false) s = .next { s with dev := { s.dev with
          yalkenUp := false, companion := s.dev.companion ++ l } })
    ∧ (s.dev.start.stage = 8 → s.dev.yalkenUp = false → exec (.yalkenLinkRetrain false) s = .next s)
    ∧ ∀ up, s.dev.start.stage ≠ 8 → exec (.yalkenLinkRetrain up) s = .next s

/-- R393, R398, R425, R456 to R462: the stages of start-up in order, each with what it does when it succeeds and when it fails: firmware of higher sequence, with chain length 0 where the certificate area is too long or cannot be read (a free value of the model, log entry 69), set-up image or fused defaults, LPDDR5X training and zero fill, Course measured, Yalken trained, ready. MODULE_RESET by its key in [31:0], whatever [63:32] hold, starts again at stage
0x2 with LPDDR5X, companion memory, flash and input kept, and a session one higher (log entry 44, DEDUCED). That SETUP_IMAGE_APPLY carries the zeroing of the bonded SRAM, which the table gives to stage 0x4, is the model's choice (log entry 83), as is how CP_LAT shows a latency above 255 (log entry 84). -/
def Obligations.StartUpRunsItsStages : Prop :=
  ∀ (s : State), MemoriesOk s.dev →
    let st := s.dev.start
    let failed := fun (t : State) (stage : BitVec 4) (code : BitVec 3) (arg : BitVec 8) =>
      t.dev.start.stage = stage ∧ t.dev.start.fail = code ∧ t.dev.start.failArg = arg ∧ t.dev.start.ready = st.ready
        ∧ (2 ∈ t.dev.i3c.causes ∨ t.dev.i3c.pending = some 2)
    (st.stage = 2 → st.fail = 0 → s.dev.pd.pwrGood = true →
      (s.dev.boat.entropyFailed = true → ∃ t, exec .firmwareBoot s = .next t ∧ failed t 2 2 s.dev.boat.entropyTest)
      ∧ (s.dev.boat.entropyFailed = false →
        let ok := fun (n : Nat) => s.dev.fwCheck n = none
        let seq := fun (n : Nat) => field (s.dev.fwHeader n) 0xC 4
        let boots := fun (n : Nat) => ∃ t, exec .firmwareBoot s = .next t ∧ t.dev.start.stage = 3 ∧ t.dev.start.fail = 0 ∧ t.dev.start.slot = decide (n = 1)
          ∧ t.dev.boat.booted = s.dev.fwHeader n ∧ t.dev.boat.domains[(0 : Fin 64)].key = s.dev.boat.keysDrawn + 1 ∧ t.dev.hd.flash = s.dev.hd.flash
          ∧ (t.dev.boat.certBad = true ∨ 65532 < s.dev.chainRead → t.dev.chainLen = 0)
          ∧ (t.dev.boat.certBad = false → 65532 < s.dev.chainRead → NoLinkErrors s → t.dev.dump.log.getLast? = some (s.dev.err boatIsland 13 4 0 none s.dev.chainRead))
        (ok 0 → (¬ ok 1 ∨ seq 1 ≤ seq 0) → boots 0) ∧ (ok 1 → (¬ ok 0 ∨ seq 0 < seq 1) → boots 1)
          ∧ (¬ ok 0 → ¬ ok 1 → ∃ t, exec .firmwareBoot s = .next t ∧ failed t 2 1 0 ∧ t.dev.start.fwNone = true)))
    ∧ (∀ test, s.dev.pd.pwrGood = true → s.dev.boat.entropyFailed = false → ∃ t, exec (.entropyFail test) s = .next t ∧ t.dev.boat.entropyFailed = true
        ∧ t.dev.boat.entropyTest = test ∧ (st.stage = 2 → failed t 2 2 test) ∧ (st.stage ≠ 2 → t.dev.start = st)
        ∧ (NoLinkErrors s → t.dev.dump.log.getLast? = some (s.dev.err boatIsland 13 3 0 none test.toNat)))
    ∧ (st.stage = 3 → ∀ readOk,
        let img := s.dev.flashBytes setupBase (Min.min 262144 (field (s.dev.flashBytes setupBase 64) 8 4))
        let why := if readOk then imageWhy s.dev.fusedDefaults.pd (s.dev.flashBytes setupBase 64) img ((List.range (field (s.dev.flashBytes setupBase 64) 6 2)).map (imageEntry img)) else 1
        ∃ t, exec (.setupImageApply readOk) s = .next t ∧ t.dev.start.stage = 4 ∧ t.dev.start.cfgFallback = decide (why ≠ 0)
          ∧ t.dev.start.cfgWhy = BitVec.ofNat 4 why ∧ t.dev.start.cfgSeq = (if why = 0 then BitVec.ofNat 32 (field img 0xC 4) else 0)
          ∧ (t.dev.boat.setupDigest = Config.sha384 (if why = 0 then img else s.dev.fusedDefaults.canonicalImage))
          ∧ (why ≠ 0 → (∀ n : Fin 16, t.dev.pd.budget[n] = 135) ∧ (∀ f : Fin 2, t.dev.fds[f].portEn = 0) ∧ t.dev.dump.p12 = false
              ∧ (3 ∈ t.dev.i3c.causes ∨ t.dev.i3c.pending = some 3))
          ∧ (∀ a, memGet 0 t.dev.mem.bytes a = if 0x100000000000 ≤ a ∧ a < 0x100800000000 then 0 else memGet 0 s.dev.mem.bytes a) ∧ t.dev.dies = s.dev.dies)
    ∧ (st.stage = 4 → ∀ (cd : Cd) (i : Fin 2), s.dev.lpcs[cd][i].trained = false →
        (∃ t, exec (.lpddrTrain cd i true) s = .next t ∧ t.dev.lpcs[cd][i].trained = true ∧ (∀ o k, (o, k) ≠ (cd, i) → t.dev.lpcs[o][k] = s.dev.lpcs[o][k])
          ∧ t.dev.start = { st with stage := if st.fillDone = true ∧ ∀ (o : Cd) (k : Fin 2), t.dev.lpcs[o][k].trained = true then 5 else 4 }
          ∧ t.dev.mem = s.dev.mem ∧ t.dev.dies = s.dev.dies)
        ∧ ∃ t, exec (.lpddrTrain cd i false) s = .next t ∧ failed t 6 3 (BitVec.ofNat 8 (2 * cd.val + i.val)) ∧ t.dev.lpcs = s.dev.lpcs ∧ t.dev.mem = s.dev.mem)
    ∧ (st.stage = 4 → (∀ (o : Cd) (k : Fin 2), s.dev.lpcs[o][k].trained = true) → st.fillDone = false → ∃ t, exec .memoryFillDone s = .next t
        ∧ t.dev.start = { st with fillDone := true, stage := 5 } ∧ t.dev.mem.fillKey = s.dev.boat.domains[(0 : Fin 64)].key ∧ t.dev.mem.lineKey = []
        ∧ (∀ a, memGet 0 t.dev.mem.bytes a = if a < 0x20000000000 then 0 else memGet 0 s.dev.mem.bytes a) ∧ t.dev.dies = s.dev.dies)
    ∧ (st.stage = 5 → ∀ l : List (BitVec 16), l.length = 32 →
        ((∀ v ∈ l, v.toNat ≤ 56) → ∃ t, exec (.courseBringup l) s = .next t ∧ t.dev.start = { st with stage := 6 } ∧ t.dev.dies = s.dev.dies
          ∧ ∀ (cd : Cd) (i : Fin 2), t.dev.cports[cd][i].trained = true ∧ l[2 * cd.val + i.val]? = some (BitVec.setWidth 16 t.dev.cports[cd][i].lat))
        ∧ (∀ (cd : Cd) (i : Fin 2) (v : BitVec 16), l[2 * cd.val + i.val]? = some v → 56 < v.toNat → (∀ w ∈ l.take (2 * cd.val + i.val), w.toNat ≤ 56) →
          ∃ t, exec (.courseBringup l) s = .next t ∧ failed t 6 4 (BitVec.ofNat 8 (cd.val + 16 * i.val))
            ∧ t.dev.dump.log.getLast? = some (s.dev.err (cdIsland cd 9 i.val) 8 2 0 none v.toNat) ∧ t.dev.cports[cd][i].lat = BitVec.ofNat 8 v.toNat))
    ∧ (st.stage = 6 → s.dev.yalkenUp = false → exec (.yalkenTraining false) s = .next s ∧ ∃ t, exec (.yalkenTraining true) s = .next t ∧ t.dev.yalkenUp = true
        ∧ t.dev.start = { st with stage := if st.fail = 0 then 7 else 6 }
        ∧ ∀ p : PortNo, t.dev.ports[p] = if st.fail = 0 ∧ s.dev.ports[p].enabled = true then { s.dev.ports[p] with state := .detect } else s.dev.ports[p])
    ∧ (st.stage = 7 → ∃ t, exec .readyReached s = .next t ∧ t.dev.start = { st with stage := 8, ready := true }
        ∧ (1 ∈ t.dev.i3c.causes ∨ t.dev.i3c.pending = some 1) ∧ t.dev.mem = s.dev.mem ∧ t.dev.dies = s.dev.dies)
    ∧ (DriverServes s → (∀ v, v < 2 ^ 64 → v % 2 ^ 32 ≠ 0xA5C30F12 → exec (.moduleReset (driverWrite 0x12000030 v)) s = .next (strayed s))
        ∧ (∀ v, v < 2 ^ 64 → v % 2 ^ 32 = 0xA5C30F12 → s.dev.hd.flashBusy = false → ∃ t, exec (.moduleReset (driverWrite 0x12000030 v)) s = .next t ∧ t.dev.start = { stage := 2, fillDone := st.fillDone, resetSeen := true }
          ∧ t.dev.pd.input = s.dev.pd.input ∧ t.dev.pd.rails = s.dev.pd.rails ∧ t.dev.pd.pwrGood = s.dev.pd.pwrGood ∧ t.dev.hd.flash = s.dev.hd.flash
          ∧ t.dev.ctxs = [] ∧ t.dev.admin = none ∧ t.dev.yalkenUp = false ∧ t.dev.dies = Device.reset.dies ∧ t.dev.boat.debugOnce = s.dev.boat.debugOnce ∧ t.dev.boat.debugOpen = false ∧ (∀ f : Fin 2, t.dev.fds[f].session = s.dev.fds[f].session + 1)
          ∧ (s.dev.dump.p12 = false → t.dev.dump = { retained := s.dev.dump.retained, held := s.dev.dump.held, overrun := s.dev.dump.overrun })
          ∧ (s.dev.dump.p12 = true → t.dev.dump.held = true ∧ t.dev.dump.retained.isSome = true)
          ∧ ∀ a, (a < 0x100000000000 ∨ 0x100800000000 ≤ a) → memGet 0 t.dev.mem.bytes a = memGet 0 s.dev.mem.bytes a))

/-! ### The module as a whole -/

/-- A step runs the command at the front of the queue on the state with the queue's rest; every command answers a next state and leaves the queue as it stands. On an empty queue one reference period passes (log entry 1, the model's choice): each running island's counter advances by its multiplier (R14, R24),
the wait counts of the engines of resident contexts go on (R28), and nothing else changes. -/
def Obligations.StepRunsTheFrontCommand : Prop :=
  (∀ (c : Instr) (d : Device) (rest : List Instr),
    step { dev := d, pending := c :: rest } = exec c { dev := d, pending := rest }
    ∧ ∃ e : Device, exec c { dev := d, pending := rest } = .next { dev := e, pending := rest })
  ∧ ∀ d : Device, ∃ e : Device, step { dev := d, pending := [] } = .next { dev := e, pending := [] }
      ∧ e = { d with cycles := e.cycles, dies := e.dies } ∧ (∀ cd : Cd, e.dies[cd] = { d.dies[cd] with waits := e.dies[cd].waits }
        ∧ (d.residentOf cd = none → e.dies[cd] = d.dies[cd])) ∧ e.cycles.map (·.1) = d.cycles.map (·.1)
      ∧ ∀ (k : Nat) (i : BitVec 16) (v : BitVec 64), d.cycles[k]? = some (i, v) → e.cycles[k]? = some (i, if d.islandRuns i then v + BitVec.ofNat 64 (clockRatio i) else v)

/-- R13, R14, R474 and the Reset columns: after reset the queue is empty, the module shows stage 0x1 and is not ready, its 397 islands are distinct and their counters 0, budgets are 150 W, the loops hold the values of R480, every port is off, no
context, ring set or Yalken link is there and no memory byte is listed. The state is sound. That reset is the module before power-on, with no context and no link (log entry 3), idle dies with registers of zero (log entry 4) and memory that reads as zero (log entry 6), is the model's choice. -/
def Obligations.ResetHoldsItsStatedValues : Prop :=
  let d := State.reset.dev
  State.reset.pending = [] ∧ Sound State.reset ∧ d.start.stage = 1 ∧ d.start.ready = false ∧ d.start.fail = 0 ∧ d.start.fillDone = false
    ∧ d.cycles.length = 397 ∧ (d.cycles.map (·.1)).Nodup ∧ (∀ x ∈ d.cycles, x.2 = 0) ∧ (∀ n : Fin 16, d.pd.budget[n] = 150) ∧ d.pd.easyAll = false
    ∧ d.loops[(0 : Fin 18)] = { low := 5700, high := 5800, mode := 0 } ∧ d.loops[(1 : Fin 18)] = { low := 0, high := 2, mode := 2 }
    ∧ (∀ j : Fin 18, 2 ≤ j.val → d.loops[j] = { low := 0, high := 15, mode := 2 })
    ∧ (∀ p : PortNo, d.ports[p].state = .off ∧ d.ports[p].enabled = false) ∧ d.ctxs = [] ∧ d.admin = none ∧ d.yalkenUp = false
    ∧ d.mem.bytes = [] ∧ (∀ cd : Cd, d.dies[cd].loc = [] ∧ d.dies[cd].cox.run = .idle) ∧ d.i3c.dynamic = none ∧ d.i3c.ibiOn = false

/-- R452, R453, R455: whatever command a step runs, the power stage stays legal: at most twelve rails, PWR_GOOD only with all twelve on a qualified input, a rail ramping only on a qualified input without a lock, rails on only while they ramp or are all good, and THERM_TRIP never beside a qualified input. -/
def Obligations.EveryStepKeepsThePowerStageLegal : Prop :=
  ∀ s t : State, PowerOk s.dev.pd → step s = .next t → PowerOk t.dev.pd

/-- Whatever command a step runs, every memory of the module stays in its canonical form: the main memory, plan store and scratch and the Ladle store of each die, what contexts have saved, the flash and its buffer (addresses rising, no byte equal to what an unlisted one reads as). -/
def Obligations.EveryStepKeepsTheMemoriesCanonical : Prop :=
  ∀ s t : State, MemoriesOk s.dev → step s = .next t → MemoriesOk t.dev
end

