-- ==== Sys2Proof/Laws/State.lean ====
section
/-! SUPPORT. One lemma per field of the device per update, so that no later proof unfolds a record update; and what the two updates of a
table leave at each place. -/

namespace Sys2Proof.Laws

open Sys2Proof.Machine

/-! ### Tables -/

/-- The rewritten place. -/
theorem upd_self {α : Type} {n : Nat} (v : Vector α n) (i : Fin n) (f : α → α) : (upd v i f)[i] = f v[i] := by
  simp [upd]

/-- The rewritten place, in the form that simp gives an index. -/
@[simp] theorem upd_val {α : Type} {n : Nat} (v : Vector α n) (i : Fin n) (f : α → α) : (upd v i f)[i.val] = f v[i.val] := by
  simp [upd]

/-- Every other place. -/
theorem upd_other {α : Type} {n : Nat} (v : Vector α n) {i j : Fin n} (f : α → α) (h : i ≠ j) : (upd v i f)[j] = v[j] := by
  have : i.val ≠ j.val := fun e => h (Fin.ext e)
  simp [upd, this]

/-- A fold of updates over a list of distinct places reaches each of them once. -/
theorem foldl_upd_get {α : Type} {n : Nat} (f : Fin n → α → α) (l : List (Fin n)) (hl : l.Nodup) (v : Vector α n) (i : Fin n) :
    (l.foldl (fun w k => upd w k (f k)) v)[i] = if i ∈ l then f i v[i] else v[i] := by
  induction l generalizing v with
  | nil => simp
  | cons k t ih =>
    rw [List.foldl_cons, ih (List.nodup_cons.1 hl).2]
    by_cases hk : k = i
    · subst hk; rw [upd_self]; simp [(List.nodup_cons.1 hl).1]
    · rw [upd_other _ _ hk]; simp [List.mem_cons, Ne.symm hk]

/-- Every place of a table rewritten by number. -/
theorem each_get {α : Type} {n : Nat} (f : Fin n → α → α) (v : Vector α n) (i : Fin n) : (each f v)[i] = f i v[i] := by
  unfold each; rw [foldl_upd_get f _ (List.nodup_finRange n)]; simp

/-- The same in the form that simp gives an index. -/
@[simp] theorem each_val {α : Type} {n : Nat} (f : Fin n → α → α) (v : Vector α n) (i : Fin n) : (each f v)[i.val] = f i v[i.val] :=
  each_get f v i

/-! ### The device -/

variable (d : Device)

@[simp] theorem modDie_code (cd : Cd) (f : Die → Die) : (d.modDie cd f).code = d.code := rfl
@[simp] theorem modDie_cycles (cd : Cd) (f : Die → Die) : (d.modDie cd f).cycles = d.cycles := rfl
@[simp] theorem modDie_fresh (cd : Cd) (f : Die → Die) : (d.modDie cd f).fresh = d.fresh := rfl
@[simp] theorem modDie_mem (cd : Cd) (f : Die → Die) : (d.modDie cd f).mem = d.mem := rfl
@[simp] theorem modDie_lpcs (cd : Cd) (f : Die → Die) : (d.modDie cd f).lpcs = d.lpcs := rfl
@[simp] theorem modDie_cports (cd : Cd) (f : Die → Die) : (d.modDie cd f).cports = d.cports := rfl
@[simp] theorem modDie_ports (cd : Cd) (f : Die → Die) : (d.modDie cd f).ports = d.ports := rfl
@[simp] theorem modDie_fds (cd : Cd) (f : Die → Die) : (d.modDie cd f).fds = d.fds := rfl
@[simp] theorem modDie_ctxs (cd : Cd) (f : Die → Die) : (d.modDie cd f).ctxs = d.ctxs := rfl
@[simp] theorem modDie_gone (cd : Cd) (f : Die → Die) : (d.modDie cd f).gone = d.gone := rfl
@[simp] theorem modDie_admin (cd : Cd) (f : Die → Die) : (d.modDie cd f).admin = d.admin := rfl
@[simp] theorem modDie_adminHead (cd : Cd) (f : Die → Die) : (d.modDie cd f).adminHead = d.adminHead := rfl
@[simp] theorem modDie_resetting (cd : Cd) (f : Die → Die) : (d.modDie cd f).resetting = d.resetting := rfl
@[simp] theorem modDie_switching (cd : Cd) (f : Die → Die) : (d.modDie cd f).switching = d.switching := rfl
@[simp] theorem modDie_hd (cd : Cd) (f : Die → Die) : (d.modDie cd f).hd = d.hd := rfl
@[simp] theorem modDie_loops (cd : Cd) (f : Die → Die) : (d.modDie cd f).loops = d.loops := rfl
@[simp] theorem modDie_start (cd : Cd) (f : Die → Die) : (d.modDie cd f).start = d.start := rfl
@[simp] theorem modDie_pd (cd : Cd) (f : Die → Die) : (d.modDie cd f).pd = d.pd := rfl
@[simp] theorem modDie_i3c (cd : Cd) (f : Die → Die) : (d.modDie cd f).i3c = d.i3c := rfl
@[simp] theorem modDie_boat (cd : Cd) (f : Die → Die) : (d.modDie cd f).boat = d.boat := rfl
@[simp] theorem modDie_dump (cd : Cd) (f : Die → Die) : (d.modDie cd f).dump = d.dump := rfl
@[simp] theorem modDie_yalkenUp (cd : Cd) (f : Die → Die) : (d.modDie cd f).yalkenUp = d.yalkenUp := rfl
@[simp] theorem modDie_companion (cd : Cd) (f : Die → Die) : (d.modDie cd f).companion = d.companion := rfl
@[simp] theorem modDie_heldWrites (cd : Cd) (f : Die → Die) : (d.modDie cd f).heldWrites = d.heldWrites := rfl

@[simp] theorem modCox_code (cd : Cd) (f : Cox → Cox) : (d.modCox cd f).code = d.code := rfl
@[simp] theorem modCox_cycles (cd : Cd) (f : Cox → Cox) : (d.modCox cd f).cycles = d.cycles := rfl
@[simp] theorem modCox_fresh (cd : Cd) (f : Cox → Cox) : (d.modCox cd f).fresh = d.fresh := rfl
@[simp] theorem modCox_mem (cd : Cd) (f : Cox → Cox) : (d.modCox cd f).mem = d.mem := rfl
@[simp] theorem modCox_lpcs (cd : Cd) (f : Cox → Cox) : (d.modCox cd f).lpcs = d.lpcs := rfl
@[simp] theorem modCox_cports (cd : Cd) (f : Cox → Cox) : (d.modCox cd f).cports = d.cports := rfl
@[simp] theorem modCox_ports (cd : Cd) (f : Cox → Cox) : (d.modCox cd f).ports = d.ports := rfl
@[simp] theorem modCox_fds (cd : Cd) (f : Cox → Cox) : (d.modCox cd f).fds = d.fds := rfl
@[simp] theorem modCox_ctxs (cd : Cd) (f : Cox → Cox) : (d.modCox cd f).ctxs = d.ctxs := rfl
@[simp] theorem modCox_gone (cd : Cd) (f : Cox → Cox) : (d.modCox cd f).gone = d.gone := rfl
@[simp] theorem modCox_admin (cd : Cd) (f : Cox → Cox) : (d.modCox cd f).admin = d.admin := rfl
@[simp] theorem modCox_adminHead (cd : Cd) (f : Cox → Cox) : (d.modCox cd f).adminHead = d.adminHead := rfl
@[simp] theorem modCox_resetting (cd : Cd) (f : Cox → Cox) : (d.modCox cd f).resetting = d.resetting := rfl
@[simp] theorem modCox_switching (cd : Cd) (f : Cox → Cox) : (d.modCox cd f).switching = d.switching := rfl
@[simp] theorem modCox_hd (cd : Cd) (f : Cox → Cox) : (d.modCox cd f).hd = d.hd := rfl
@[simp] theorem modCox_loops (cd : Cd) (f : Cox → Cox) : (d.modCox cd f).loops = d.loops := rfl
@[simp] theorem modCox_start (cd : Cd) (f : Cox → Cox) : (d.modCox cd f).start = d.start := rfl
@[simp] theorem modCox_pd (cd : Cd) (f : Cox → Cox) : (d.modCox cd f).pd = d.pd := rfl
@[simp] theorem modCox_i3c (cd : Cd) (f : Cox → Cox) : (d.modCox cd f).i3c = d.i3c := rfl
@[simp] theorem modCox_boat (cd : Cd) (f : Cox → Cox) : (d.modCox cd f).boat = d.boat := rfl
@[simp] theorem modCox_dump (cd : Cd) (f : Cox → Cox) : (d.modCox cd f).dump = d.dump := rfl
@[simp] theorem modCox_yalkenUp (cd : Cd) (f : Cox → Cox) : (d.modCox cd f).yalkenUp = d.yalkenUp := rfl
@[simp] theorem modCox_companion (cd : Cd) (f : Cox → Cox) : (d.modCox cd f).companion = d.companion := rfl
@[simp] theorem modCox_heldWrites (cd : Cd) (f : Cox → Cox) : (d.modCox cd f).heldWrites = d.heldWrites := rfl

@[simp] theorem modPort_code (p : PortNo) (f : Port → Port) : (d.modPort p f).code = d.code := rfl
@[simp] theorem modPort_cycles (p : PortNo) (f : Port → Port) : (d.modPort p f).cycles = d.cycles := rfl
@[simp] theorem modPort_fresh (p : PortNo) (f : Port → Port) : (d.modPort p f).fresh = d.fresh := rfl
@[simp] theorem modPort_mem (p : PortNo) (f : Port → Port) : (d.modPort p f).mem = d.mem := rfl
@[simp] theorem modPort_dies (p : PortNo) (f : Port → Port) : (d.modPort p f).dies = d.dies := rfl
@[simp] theorem modPort_lpcs (p : PortNo) (f : Port → Port) : (d.modPort p f).lpcs = d.lpcs := rfl
@[simp] theorem modPort_cports (p : PortNo) (f : Port → Port) : (d.modPort p f).cports = d.cports := rfl
@[simp] theorem modPort_fds (p : PortNo) (f : Port → Port) : (d.modPort p f).fds = d.fds := rfl
@[simp] theorem modPort_ctxs (p : PortNo) (f : Port → Port) : (d.modPort p f).ctxs = d.ctxs := rfl
@[simp] theorem modPort_gone (p : PortNo) (f : Port → Port) : (d.modPort p f).gone = d.gone := rfl
@[simp] theorem modPort_admin (p : PortNo) (f : Port → Port) : (d.modPort p f).admin = d.admin := rfl
@[simp] theorem modPort_adminHead (p : PortNo) (f : Port → Port) : (d.modPort p f).adminHead = d.adminHead := rfl
@[simp] theorem modPort_resetting (p : PortNo) (f : Port → Port) : (d.modPort p f).resetting = d.resetting := rfl
@[simp] theorem modPort_switching (p : PortNo) (f : Port → Port) : (d.modPort p f).switching = d.switching := rfl
@[simp] theorem modPort_hd (p : PortNo) (f : Port → Port) : (d.modPort p f).hd = d.hd := rfl
@[simp] theorem modPort_loops (p : PortNo) (f : Port → Port) : (d.modPort p f).loops = d.loops := rfl
@[simp] theorem modPort_start (p : PortNo) (f : Port → Port) : (d.modPort p f).start = d.start := rfl
@[simp] theorem modPort_pd (p : PortNo) (f : Port → Port) : (d.modPort p f).pd = d.pd := rfl
@[simp] theorem modPort_i3c (p : PortNo) (f : Port → Port) : (d.modPort p f).i3c = d.i3c := rfl
@[simp] theorem modPort_boat (p : PortNo) (f : Port → Port) : (d.modPort p f).boat = d.boat := rfl
@[simp] theorem modPort_dump (p : PortNo) (f : Port → Port) : (d.modPort p f).dump = d.dump := rfl
@[simp] theorem modPort_yalkenUp (p : PortNo) (f : Port → Port) : (d.modPort p f).yalkenUp = d.yalkenUp := rfl
@[simp] theorem modPort_companion (p : PortNo) (f : Port → Port) : (d.modPort p f).companion = d.companion := rfl
@[simp] theorem modPort_heldWrites (p : PortNo) (f : Port → Port) : (d.modPort p f).heldWrites = d.heldWrites := rfl

@[simp] theorem modFd_code (i : Fin 2) (f : FabricDie → FabricDie) : (d.modFd i f).code = d.code := rfl
@[simp] theorem modFd_cycles (i : Fin 2) (f : FabricDie → FabricDie) : (d.modFd i f).cycles = d.cycles := rfl
@[simp] theorem modFd_fresh (i : Fin 2) (f : FabricDie → FabricDie) : (d.modFd i f).fresh = d.fresh := rfl
@[simp] theorem modFd_mem (i : Fin 2) (f : FabricDie → FabricDie) : (d.modFd i f).mem = d.mem := rfl
@[simp] theorem modFd_dies (i : Fin 2) (f : FabricDie → FabricDie) : (d.modFd i f).dies = d.dies := rfl
@[simp] theorem modFd_lpcs (i : Fin 2) (f : FabricDie → FabricDie) : (d.modFd i f).lpcs = d.lpcs := rfl
@[simp] theorem modFd_cports (i : Fin 2) (f : FabricDie → FabricDie) : (d.modFd i f).cports = d.cports := rfl
@[simp] theorem modFd_ports (i : Fin 2) (f : FabricDie → FabricDie) : (d.modFd i f).ports = d.ports := rfl
@[simp] theorem modFd_ctxs (i : Fin 2) (f : FabricDie → FabricDie) : (d.modFd i f).ctxs = d.ctxs := rfl
@[simp] theorem modFd_gone (i : Fin 2) (f : FabricDie → FabricDie) : (d.modFd i f).gone = d.gone := rfl
@[simp] theorem modFd_admin (i : Fin 2) (f : FabricDie → FabricDie) : (d.modFd i f).admin = d.admin := rfl
@[simp] theorem modFd_adminHead (i : Fin 2) (f : FabricDie → FabricDie) : (d.modFd i f).adminHead = d.adminHead := rfl
@[simp] theorem modFd_resetting (i : Fin 2) (f : FabricDie → FabricDie) : (d.modFd i f).resetting = d.resetting := rfl
@[simp] theorem modFd_switching (i : Fin 2) (f : FabricDie → FabricDie) : (d.modFd i f).switching = d.switching := rfl
@[simp] theorem modFd_hd (i : Fin 2) (f : FabricDie → FabricDie) : (d.modFd i f).hd = d.hd := rfl
@[simp] theorem modFd_loops (i : Fin 2) (f : FabricDie → FabricDie) : (d.modFd i f).loops = d.loops := rfl
@[simp] theorem modFd_start (i : Fin 2) (f : FabricDie → FabricDie) : (d.modFd i f).start = d.start := rfl
@[simp] theorem modFd_pd (i : Fin 2) (f : FabricDie → FabricDie) : (d.modFd i f).pd = d.pd := rfl
@[simp] theorem modFd_i3c (i : Fin 2) (f : FabricDie → FabricDie) : (d.modFd i f).i3c = d.i3c := rfl
@[simp] theorem modFd_boat (i : Fin 2) (f : FabricDie → FabricDie) : (d.modFd i f).boat = d.boat := rfl
@[simp] theorem modFd_dump (i : Fin 2) (f : FabricDie → FabricDie) : (d.modFd i f).dump = d.dump := rfl
@[simp] theorem modFd_yalkenUp (i : Fin 2) (f : FabricDie → FabricDie) : (d.modFd i f).yalkenUp = d.yalkenUp := rfl
@[simp] theorem modFd_companion (i : Fin 2) (f : FabricDie → FabricDie) : (d.modFd i f).companion = d.companion := rfl
@[simp] theorem modFd_heldWrites (i : Fin 2) (f : FabricDie → FabricDie) : (d.modFd i f).heldWrites = d.heldWrites := rfl

@[simp] theorem modLpc_code (cd : Cd) (i : Fin 2) (f : Lpc → Lpc) : (d.modLpc cd i f).code = d.code := rfl
@[simp] theorem modLpc_cycles (cd : Cd) (i : Fin 2) (f : Lpc → Lpc) : (d.modLpc cd i f).cycles = d.cycles := rfl
@[simp] theorem modLpc_fresh (cd : Cd) (i : Fin 2) (f : Lpc → Lpc) : (d.modLpc cd i f).fresh = d.fresh := rfl
@[simp] theorem modLpc_mem (cd : Cd) (i : Fin 2) (f : Lpc → Lpc) : (d.modLpc cd i f).mem = d.mem := rfl
@[simp] theorem modLpc_dies (cd : Cd) (i : Fin 2) (f : Lpc → Lpc) : (d.modLpc cd i f).dies = d.dies := rfl
@[simp] theorem modLpc_cports (cd : Cd) (i : Fin 2) (f : Lpc → Lpc) : (d.modLpc cd i f).cports = d.cports := rfl
@[simp] theorem modLpc_ports (cd : Cd) (i : Fin 2) (f : Lpc → Lpc) : (d.modLpc cd i f).ports = d.ports := rfl
@[simp] theorem modLpc_fds (cd : Cd) (i : Fin 2) (f : Lpc → Lpc) : (d.modLpc cd i f).fds = d.fds := rfl
@[simp] theorem modLpc_ctxs (cd : Cd) (i : Fin 2) (f : Lpc → Lpc) : (d.modLpc cd i f).ctxs = d.ctxs := rfl
@[simp] theorem modLpc_gone (cd : Cd) (i : Fin 2) (f : Lpc → Lpc) : (d.modLpc cd i f).gone = d.gone := rfl
@[simp] theorem modLpc_admin (cd : Cd) (i : Fin 2) (f : Lpc → Lpc) : (d.modLpc cd i f).admin = d.admin := rfl
@[simp] theorem modLpc_adminHead (cd : Cd) (i : Fin 2) (f : Lpc → Lpc) : (d.modLpc cd i f).adminHead = d.adminHead := rfl
@[simp] theorem modLpc_resetting (cd : Cd) (i : Fin 2) (f : Lpc → Lpc) : (d.modLpc cd i f).resetting = d.resetting := rfl
@[simp] theorem modLpc_switching (cd : Cd) (i : Fin 2) (f : Lpc → Lpc) : (d.modLpc cd i f).switching = d.switching := rfl
@[simp] theorem modLpc_hd (cd : Cd) (i : Fin 2) (f : Lpc → Lpc) : (d.modLpc cd i f).hd = d.hd := rfl
@[simp] theorem modLpc_loops (cd : Cd) (i : Fin 2) (f : Lpc → Lpc) : (d.modLpc cd i f).loops = d.loops := rfl
@[simp] theorem modLpc_start (cd : Cd) (i : Fin 2) (f : Lpc → Lpc) : (d.modLpc cd i f).start = d.start := rfl
@[simp] theorem modLpc_pd (cd : Cd) (i : Fin 2) (f : Lpc → Lpc) : (d.modLpc cd i f).pd = d.pd := rfl
@[simp] theorem modLpc_i3c (cd : Cd) (i : Fin 2) (f : Lpc → Lpc) : (d.modLpc cd i f).i3c = d.i3c := rfl
@[simp] theorem modLpc_boat (cd : Cd) (i : Fin 2) (f : Lpc → Lpc) : (d.modLpc cd i f).boat = d.boat := rfl
@[simp] theorem modLpc_dump (cd : Cd) (i : Fin 2) (f : Lpc → Lpc) : (d.modLpc cd i f).dump = d.dump := rfl
@[simp] theorem modLpc_yalkenUp (cd : Cd) (i : Fin 2) (f : Lpc → Lpc) : (d.modLpc cd i f).yalkenUp = d.yalkenUp := rfl
@[simp] theorem modLpc_companion (cd : Cd) (i : Fin 2) (f : Lpc → Lpc) : (d.modLpc cd i f).companion = d.companion := rfl
@[simp] theorem modLpc_heldWrites (cd : Cd) (i : Fin 2) (f : Lpc → Lpc) : (d.modLpc cd i f).heldWrites = d.heldWrites := rfl

@[simp] theorem modCport_code (cd : Cd) (i : Fin 2) (f : CoursePort → CoursePort) : (d.modCport cd i f).code = d.code := rfl
@[simp] theorem modCport_cycles (cd : Cd) (i : Fin 2) (f : CoursePort → CoursePort) : (d.modCport cd i f).cycles = d.cycles := rfl
@[simp] theorem modCport_fresh (cd : Cd) (i : Fin 2) (f : CoursePort → CoursePort) : (d.modCport cd i f).fresh = d.fresh := rfl
@[simp] theorem modCport_mem (cd : Cd) (i : Fin 2) (f : CoursePort → CoursePort) : (d.modCport cd i f).mem = d.mem := rfl
@[simp] theorem modCport_dies (cd : Cd) (i : Fin 2) (f : CoursePort → CoursePort) : (d.modCport cd i f).dies = d.dies := rfl
@[simp] theorem modCport_lpcs (cd : Cd) (i : Fin 2) (f : CoursePort → CoursePort) : (d.modCport cd i f).lpcs = d.lpcs := rfl
@[simp] theorem modCport_ports (cd : Cd) (i : Fin 2) (f : CoursePort → CoursePort) : (d.modCport cd i f).ports = d.ports := rfl
@[simp] theorem modCport_fds (cd : Cd) (i : Fin 2) (f : CoursePort → CoursePort) : (d.modCport cd i f).fds = d.fds := rfl
@[simp] theorem modCport_ctxs (cd : Cd) (i : Fin 2) (f : CoursePort → CoursePort) : (d.modCport cd i f).ctxs = d.ctxs := rfl
@[simp] theorem modCport_gone (cd : Cd) (i : Fin 2) (f : CoursePort → CoursePort) : (d.modCport cd i f).gone = d.gone := rfl
@[simp] theorem modCport_admin (cd : Cd) (i : Fin 2) (f : CoursePort → CoursePort) : (d.modCport cd i f).admin = d.admin := rfl
@[simp] theorem modCport_adminHead (cd : Cd) (i : Fin 2) (f : CoursePort → CoursePort) : (d.modCport cd i f).adminHead = d.adminHead := rfl
@[simp] theorem modCport_resetting (cd : Cd) (i : Fin 2) (f : CoursePort → CoursePort) : (d.modCport cd i f).resetting = d.resetting := rfl
@[simp] theorem modCport_switching (cd : Cd) (i : Fin 2) (f : CoursePort → CoursePort) : (d.modCport cd i f).switching = d.switching := rfl
@[simp] theorem modCport_hd (cd : Cd) (i : Fin 2) (f : CoursePort → CoursePort) : (d.modCport cd i f).hd = d.hd := rfl
@[simp] theorem modCport_loops (cd : Cd) (i : Fin 2) (f : CoursePort → CoursePort) : (d.modCport cd i f).loops = d.loops := rfl
@[simp] theorem modCport_start (cd : Cd) (i : Fin 2) (f : CoursePort → CoursePort) : (d.modCport cd i f).start = d.start := rfl
@[simp] theorem modCport_pd (cd : Cd) (i : Fin 2) (f : CoursePort → CoursePort) : (d.modCport cd i f).pd = d.pd := rfl
@[simp] theorem modCport_i3c (cd : Cd) (i : Fin 2) (f : CoursePort → CoursePort) : (d.modCport cd i f).i3c = d.i3c := rfl
@[simp] theorem modCport_boat (cd : Cd) (i : Fin 2) (f : CoursePort → CoursePort) : (d.modCport cd i f).boat = d.boat := rfl
@[simp] theorem modCport_dump (cd : Cd) (i : Fin 2) (f : CoursePort → CoursePort) : (d.modCport cd i f).dump = d.dump := rfl
@[simp] theorem modCport_yalkenUp (cd : Cd) (i : Fin 2) (f : CoursePort → CoursePort) : (d.modCport cd i f).yalkenUp = d.yalkenUp := rfl
@[simp] theorem modCport_companion (cd : Cd) (i : Fin 2) (f : CoursePort → CoursePort) : (d.modCport cd i f).companion = d.companion := rfl
@[simp] theorem modCport_heldWrites (cd : Cd) (i : Fin 2) (f : CoursePort → CoursePort) : (d.modCport cd i f).heldWrites = d.heldWrites := rfl

@[simp] theorem modMem_code (f : Mem → Mem) : (d.modMem f).code = d.code := rfl
@[simp] theorem modMem_cycles (f : Mem → Mem) : (d.modMem f).cycles = d.cycles := rfl
@[simp] theorem modMem_fresh (f : Mem → Mem) : (d.modMem f).fresh = d.fresh := rfl
@[simp] theorem modMem_dies (f : Mem → Mem) : (d.modMem f).dies = d.dies := rfl
@[simp] theorem modMem_lpcs (f : Mem → Mem) : (d.modMem f).lpcs = d.lpcs := rfl
@[simp] theorem modMem_cports (f : Mem → Mem) : (d.modMem f).cports = d.cports := rfl
@[simp] theorem modMem_ports (f : Mem → Mem) : (d.modMem f).ports = d.ports := rfl
@[simp] theorem modMem_fds (f : Mem → Mem) : (d.modMem f).fds = d.fds := rfl
@[simp] theorem modMem_ctxs (f : Mem → Mem) : (d.modMem f).ctxs = d.ctxs := rfl
@[simp] theorem modMem_gone (f : Mem → Mem) : (d.modMem f).gone = d.gone := rfl
@[simp] theorem modMem_admin (f : Mem → Mem) : (d.modMem f).admin = d.admin := rfl
@[simp] theorem modMem_adminHead (f : Mem → Mem) : (d.modMem f).adminHead = d.adminHead := rfl
@[simp] theorem modMem_resetting (f : Mem → Mem) : (d.modMem f).resetting = d.resetting := rfl
@[simp] theorem modMem_switching (f : Mem → Mem) : (d.modMem f).switching = d.switching := rfl
@[simp] theorem modMem_hd (f : Mem → Mem) : (d.modMem f).hd = d.hd := rfl
@[simp] theorem modMem_loops (f : Mem → Mem) : (d.modMem f).loops = d.loops := rfl
@[simp] theorem modMem_start (f : Mem → Mem) : (d.modMem f).start = d.start := rfl
@[simp] theorem modMem_pd (f : Mem → Mem) : (d.modMem f).pd = d.pd := rfl
@[simp] theorem modMem_i3c (f : Mem → Mem) : (d.modMem f).i3c = d.i3c := rfl
@[simp] theorem modMem_boat (f : Mem → Mem) : (d.modMem f).boat = d.boat := rfl
@[simp] theorem modMem_dump (f : Mem → Mem) : (d.modMem f).dump = d.dump := rfl
@[simp] theorem modMem_yalkenUp (f : Mem → Mem) : (d.modMem f).yalkenUp = d.yalkenUp := rfl
@[simp] theorem modMem_companion (f : Mem → Mem) : (d.modMem f).companion = d.companion := rfl
@[simp] theorem modMem_heldWrites (f : Mem → Mem) : (d.modMem f).heldWrites = d.heldWrites := rfl

@[simp] theorem modBytes_code (f : Memory → Memory) : (d.modBytes f).code = d.code := rfl
@[simp] theorem modBytes_cycles (f : Memory → Memory) : (d.modBytes f).cycles = d.cycles := rfl
@[simp] theorem modBytes_fresh (f : Memory → Memory) : (d.modBytes f).fresh = d.fresh := rfl
@[simp] theorem modBytes_dies (f : Memory → Memory) : (d.modBytes f).dies = d.dies := rfl
@[simp] theorem modBytes_lpcs (f : Memory → Memory) : (d.modBytes f).lpcs = d.lpcs := rfl
@[simp] theorem modBytes_cports (f : Memory → Memory) : (d.modBytes f).cports = d.cports := rfl
@[simp] theorem modBytes_ports (f : Memory → Memory) : (d.modBytes f).ports = d.ports := rfl
@[simp] theorem modBytes_fds (f : Memory → Memory) : (d.modBytes f).fds = d.fds := rfl
@[simp] theorem modBytes_ctxs (f : Memory → Memory) : (d.modBytes f).ctxs = d.ctxs := rfl
@[simp] theorem modBytes_gone (f : Memory → Memory) : (d.modBytes f).gone = d.gone := rfl
@[simp] theorem modBytes_admin (f : Memory → Memory) : (d.modBytes f).admin = d.admin := rfl
@[simp] theorem modBytes_adminHead (f : Memory → Memory) : (d.modBytes f).adminHead = d.adminHead := rfl
@[simp] theorem modBytes_resetting (f : Memory → Memory) : (d.modBytes f).resetting = d.resetting := rfl
@[simp] theorem modBytes_switching (f : Memory → Memory) : (d.modBytes f).switching = d.switching := rfl
@[simp] theorem modBytes_hd (f : Memory → Memory) : (d.modBytes f).hd = d.hd := rfl
@[simp] theorem modBytes_loops (f : Memory → Memory) : (d.modBytes f).loops = d.loops := rfl
@[simp] theorem modBytes_start (f : Memory → Memory) : (d.modBytes f).start = d.start := rfl
@[simp] theorem modBytes_pd (f : Memory → Memory) : (d.modBytes f).pd = d.pd := rfl
@[simp] theorem modBytes_i3c (f : Memory → Memory) : (d.modBytes f).i3c = d.i3c := rfl
@[simp] theorem modBytes_boat (f : Memory → Memory) : (d.modBytes f).boat = d.boat := rfl
@[simp] theorem modBytes_dump (f : Memory → Memory) : (d.modBytes f).dump = d.dump := rfl
@[simp] theorem modBytes_yalkenUp (f : Memory → Memory) : (d.modBytes f).yalkenUp = d.yalkenUp := rfl
@[simp] theorem modBytes_companion (f : Memory → Memory) : (d.modBytes f).companion = d.companion := rfl
@[simp] theorem modBytes_heldWrites (f : Memory → Memory) : (d.modBytes f).heldWrites = d.heldWrites := rfl

@[simp] theorem modCtx_code (slot : CtxSlot) (f : Context → Context) : (d.modCtx slot f).code = d.code := rfl
@[simp] theorem modCtx_cycles (slot : CtxSlot) (f : Context → Context) : (d.modCtx slot f).cycles = d.cycles := rfl
@[simp] theorem modCtx_fresh (slot : CtxSlot) (f : Context → Context) : (d.modCtx slot f).fresh = d.fresh := rfl
@[simp] theorem modCtx_mem (slot : CtxSlot) (f : Context → Context) : (d.modCtx slot f).mem = d.mem := rfl
@[simp] theorem modCtx_dies (slot : CtxSlot) (f : Context → Context) : (d.modCtx slot f).dies = d.dies := rfl
@[simp] theorem modCtx_lpcs (slot : CtxSlot) (f : Context → Context) : (d.modCtx slot f).lpcs = d.lpcs := rfl
@[simp] theorem modCtx_cports (slot : CtxSlot) (f : Context → Context) : (d.modCtx slot f).cports = d.cports := rfl
@[simp] theorem modCtx_ports (slot : CtxSlot) (f : Context → Context) : (d.modCtx slot f).ports = d.ports := rfl
@[simp] theorem modCtx_fds (slot : CtxSlot) (f : Context → Context) : (d.modCtx slot f).fds = d.fds := rfl
@[simp] theorem modCtx_gone (slot : CtxSlot) (f : Context → Context) : (d.modCtx slot f).gone = d.gone := rfl
@[simp] theorem modCtx_admin (slot : CtxSlot) (f : Context → Context) : (d.modCtx slot f).admin = d.admin := rfl
@[simp] theorem modCtx_adminHead (slot : CtxSlot) (f : Context → Context) : (d.modCtx slot f).adminHead = d.adminHead := rfl
@[simp] theorem modCtx_resetting (slot : CtxSlot) (f : Context → Context) : (d.modCtx slot f).resetting = d.resetting := rfl
@[simp] theorem modCtx_switching (slot : CtxSlot) (f : Context → Context) : (d.modCtx slot f).switching = d.switching := rfl
@[simp] theorem modCtx_hd (slot : CtxSlot) (f : Context → Context) : (d.modCtx slot f).hd = d.hd := rfl
@[simp] theorem modCtx_loops (slot : CtxSlot) (f : Context → Context) : (d.modCtx slot f).loops = d.loops := rfl
@[simp] theorem modCtx_start (slot : CtxSlot) (f : Context → Context) : (d.modCtx slot f).start = d.start := rfl
@[simp] theorem modCtx_pd (slot : CtxSlot) (f : Context → Context) : (d.modCtx slot f).pd = d.pd := rfl
@[simp] theorem modCtx_i3c (slot : CtxSlot) (f : Context → Context) : (d.modCtx slot f).i3c = d.i3c := rfl
@[simp] theorem modCtx_boat (slot : CtxSlot) (f : Context → Context) : (d.modCtx slot f).boat = d.boat := rfl
@[simp] theorem modCtx_dump (slot : CtxSlot) (f : Context → Context) : (d.modCtx slot f).dump = d.dump := rfl
@[simp] theorem modCtx_yalkenUp (slot : CtxSlot) (f : Context → Context) : (d.modCtx slot f).yalkenUp = d.yalkenUp := rfl
@[simp] theorem modCtx_companion (slot : CtxSlot) (f : Context → Context) : (d.modCtx slot f).companion = d.companion := rfl
@[simp] theorem modCtx_heldWrites (slot : CtxSlot) (f : Context → Context) : (d.modCtx slot f).heldWrites = d.heldWrites := rfl

@[simp] theorem modArc_code (c : Context) (f : Cd → Die → Die) : (d.modArc c f).code = d.code := by simp only [Device.modArc]
@[simp] theorem modArc_cycles (c : Context) (f : Cd → Die → Die) : (d.modArc c f).cycles = d.cycles := by simp only [Device.modArc]
@[simp] theorem modArc_fresh (c : Context) (f : Cd → Die → Die) : (d.modArc c f).fresh = d.fresh := by simp only [Device.modArc]
@[simp] theorem modArc_mem (c : Context) (f : Cd → Die → Die) : (d.modArc c f).mem = d.mem := by simp only [Device.modArc]
@[simp] theorem modArc_lpcs (c : Context) (f : Cd → Die → Die) : (d.modArc c f).lpcs = d.lpcs := by simp only [Device.modArc]
@[simp] theorem modArc_cports (c : Context) (f : Cd → Die → Die) : (d.modArc c f).cports = d.cports := by simp only [Device.modArc]
@[simp] theorem modArc_ports (c : Context) (f : Cd → Die → Die) : (d.modArc c f).ports = d.ports := by simp only [Device.modArc]
@[simp] theorem modArc_fds (c : Context) (f : Cd → Die → Die) : (d.modArc c f).fds = d.fds := by simp only [Device.modArc]
@[simp] theorem modArc_ctxs (c : Context) (f : Cd → Die → Die) : (d.modArc c f).ctxs = d.ctxs := by simp only [Device.modArc]
@[simp] theorem modArc_gone (c : Context) (f : Cd → Die → Die) : (d.modArc c f).gone = d.gone := by simp only [Device.modArc]
@[simp] theorem modArc_admin (c : Context) (f : Cd → Die → Die) : (d.modArc c f).admin = d.admin := by simp only [Device.modArc]
@[simp] theorem modArc_adminHead (c : Context) (f : Cd → Die → Die) : (d.modArc c f).adminHead = d.adminHead := by simp only [Device.modArc]
@[simp] theorem modArc_resetting (c : Context) (f : Cd → Die → Die) : (d.modArc c f).resetting = d.resetting := by simp only [Device.modArc]
@[simp] theorem modArc_switching (c : Context) (f : Cd → Die → Die) : (d.modArc c f).switching = d.switching := by simp only [Device.modArc]
@[simp] theorem modArc_hd (c : Context) (f : Cd → Die → Die) : (d.modArc c f).hd = d.hd := by simp only [Device.modArc]
@[simp] theorem modArc_loops (c : Context) (f : Cd → Die → Die) : (d.modArc c f).loops = d.loops := by simp only [Device.modArc]
@[simp] theorem modArc_start (c : Context) (f : Cd → Die → Die) : (d.modArc c f).start = d.start := by simp only [Device.modArc]
@[simp] theorem modArc_pd (c : Context) (f : Cd → Die → Die) : (d.modArc c f).pd = d.pd := by simp only [Device.modArc]
@[simp] theorem modArc_i3c (c : Context) (f : Cd → Die → Die) : (d.modArc c f).i3c = d.i3c := by simp only [Device.modArc]
@[simp] theorem modArc_boat (c : Context) (f : Cd → Die → Die) : (d.modArc c f).boat = d.boat := by simp only [Device.modArc]
@[simp] theorem modArc_dump (c : Context) (f : Cd → Die → Die) : (d.modArc c f).dump = d.dump := by simp only [Device.modArc]
@[simp] theorem modArc_yalkenUp (c : Context) (f : Cd → Die → Die) : (d.modArc c f).yalkenUp = d.yalkenUp := by simp only [Device.modArc]
@[simp] theorem modArc_companion (c : Context) (f : Cd → Die → Die) : (d.modArc c f).companion = d.companion := by simp only [Device.modArc]
@[simp] theorem modArc_heldWrites (c : Context) (f : Cd → Die → Die) : (d.modArc c f).heldWrites = d.heldWrites := by simp only [Device.modArc]

@[simp] theorem restart_code (is : BitVec 16 → Bool) : (d.restart is).code = d.code := rfl
@[simp] theorem restart_fresh (is : BitVec 16 → Bool) : (d.restart is).fresh = d.fresh := rfl
@[simp] theorem restart_mem (is : BitVec 16 → Bool) : (d.restart is).mem = d.mem := rfl
@[simp] theorem restart_dies (is : BitVec 16 → Bool) : (d.restart is).dies = d.dies := rfl
@[simp] theorem restart_lpcs (is : BitVec 16 → Bool) : (d.restart is).lpcs = d.lpcs := rfl
@[simp] theorem restart_cports (is : BitVec 16 → Bool) : (d.restart is).cports = d.cports := rfl
@[simp] theorem restart_ports (is : BitVec 16 → Bool) : (d.restart is).ports = d.ports := rfl
@[simp] theorem restart_fds (is : BitVec 16 → Bool) : (d.restart is).fds = d.fds := rfl
@[simp] theorem restart_ctxs (is : BitVec 16 → Bool) : (d.restart is).ctxs = d.ctxs := rfl
@[simp] theorem restart_gone (is : BitVec 16 → Bool) : (d.restart is).gone = d.gone := rfl
@[simp] theorem restart_admin (is : BitVec 16 → Bool) : (d.restart is).admin = d.admin := rfl
@[simp] theorem restart_adminHead (is : BitVec 16 → Bool) : (d.restart is).adminHead = d.adminHead := rfl
@[simp] theorem restart_resetting (is : BitVec 16 → Bool) : (d.restart is).resetting = d.resetting := rfl
@[simp] theorem restart_switching (is : BitVec 16 → Bool) : (d.restart is).switching = d.switching := rfl
@[simp] theorem restart_hd (is : BitVec 16 → Bool) : (d.restart is).hd = d.hd := rfl
@[simp] theorem restart_loops (is : BitVec 16 → Bool) : (d.restart is).loops = d.loops := rfl
@[simp] theorem restart_start (is : BitVec 16 → Bool) : (d.restart is).start = d.start := rfl
@[simp] theorem restart_pd (is : BitVec 16 → Bool) : (d.restart is).pd = d.pd := rfl
@[simp] theorem restart_i3c (is : BitVec 16 → Bool) : (d.restart is).i3c = d.i3c := rfl
@[simp] theorem restart_boat (is : BitVec 16 → Bool) : (d.restart is).boat = d.boat := rfl
@[simp] theorem restart_dump (is : BitVec 16 → Bool) : (d.restart is).dump = d.dump := rfl
@[simp] theorem restart_yalkenUp (is : BitVec 16 → Bool) : (d.restart is).yalkenUp = d.yalkenUp := rfl
@[simp] theorem restart_companion (is : BitVec 16 → Bool) : (d.restart is).companion = d.companion := rfl
@[simp] theorem restart_heldWrites (is : BitVec 16 → Bool) : (d.restart is).heldWrites = d.heldWrites := rfl

/-- What each update does at its own place, and at every other. -/
theorem modDie_self (cd : Cd) (f : Die → Die) : (d.modDie cd f).dies[cd] = f d.dies[cd] := upd_self ..
theorem modDie_other {cd e : Cd} (f : Die → Die) (h : cd ≠ e) : (d.modDie cd f).dies[e] = d.dies[e] := upd_other _ _ h
theorem modCox_self (cd : Cd) (f : Cox → Cox) : (d.modCox cd f).dies[cd] = { d.dies[cd] with cox := f d.dies[cd].cox } := upd_self ..
theorem modCox_other {cd e : Cd} (f : Cox → Cox) (h : cd ≠ e) : (d.modCox cd f).dies[e] = d.dies[e] := upd_other _ _ h
theorem modPort_self (p : PortNo) (f : Port → Port) : (d.modPort p f).ports[p] = f d.ports[p] := upd_self ..
theorem modPort_other {p q : PortNo} (f : Port → Port) (h : p ≠ q) : (d.modPort p f).ports[q] = d.ports[q] := upd_other _ _ h
theorem modFd_self (i : Fin 2) (f : FabricDie → FabricDie) : (d.modFd i f).fds[i] = f d.fds[i] := upd_self ..
theorem modFd_other {i j : Fin 2} (f : FabricDie → FabricDie) (h : i ≠ j) : (d.modFd i f).fds[j] = d.fds[j] := upd_other _ _ h
theorem modLpc_self (cd : Cd) (i : Fin 2) (f : Lpc → Lpc) : (d.modLpc cd i f).lpcs[cd][i] = f d.lpcs[cd][i] := by
  unfold Device.modLpc; rw [upd_self, upd_self]
theorem modCport_self (cd : Cd) (i : Fin 2) (f : CoursePort → CoursePort) : (d.modCport cd i f).cports[cd][i] = f d.cports[cd][i] := by
  unfold Device.modCport; rw [upd_self, upd_self]
@[simp] theorem modBytes_bytes (f : Memory → Memory) : (d.modBytes f).mem.bytes = f d.mem.bytes := rfl
@[simp] theorem modMem_mem (f : Mem → Mem) : (d.modMem f).mem = f d.mem := rfl
theorem modArc_get (c : Context) (f : Cd → Die → Die) (cd : Cd) :
    (d.modArc c f).dies[cd] = if c.onArc cd then f cd d.dies[cd] else d.dies[cd] := each_get ..

/-! ### The same in the form that simp gives an index -/

@[simp] theorem modDie_val (cd : Cd) (f : Die → Die) : (d.modDie cd f).dies[cd.val] = f d.dies[cd.val] := modDie_self d cd f
@[simp] theorem modCox_val (cd : Cd) (f : Cox → Cox) : (d.modCox cd f).dies[cd.val] = { d.dies[cd.val] with cox := f d.dies[cd.val].cox } :=
  modCox_self d cd f
@[simp] theorem modPort_val (p : PortNo) (f : Port → Port) : (d.modPort p f).ports[p.val] = f d.ports[p.val] := modPort_self d p f
@[simp] theorem modFd_val (i : Fin 2) (f : FabricDie → FabricDie) : (d.modFd i f).fds[i.val] = f d.fds[i.val] := modFd_self d i f
@[simp] theorem modArc_val (c : Context) (f : Cd → Die → Die) (cd : Cd) :
    (d.modArc c f).dies[cd.val] = if c.onArc cd then f cd d.dies[cd.val] else d.dies[cd.val] := modArc_get d c f cd

end Sys2Proof.Laws
end

