-- ==== Sys2Proof/Laws/Cox.lean ====
section
/-! SUPPORT. What the shared operations of the Cox do, said once: the row of a scalar instruction, and the register writes. -/

namespace Sys2Proof.Laws

open Sys2Proof.Machine Sys2Proof.Safety

/-- The immediate read as a signed number. -/
theorem simm_eq (w : Slot0) : w.simm = BitVec.ofInt 64 w.imm.toInt := by
  unfold Slot0.simm; rfl

/-- A predicate read in the words of the claims. -/
theorem rdp_eq (s : State) (cd : Cd) (r : Fin 8) : (s.dev.dies[cd].cox).rdp r = pRead s cd r.val := by
  unfold Cox.rdp pRead
  have h : r.val % 8 = r.val := Nat.mod_eq_of_lt r.isLt
  have h2 : idx 8 r.val = r := by apply Fin.ext; simp [idx, h]
  simp only [h, h2]
  by_cases hr : r = 0
  · simp [hr]
  · have : r.val ≠ 0 := fun h => hr (Fin.ext h)
    simp [hr, this]

/-- The second operand in the words of the claims. -/
theorem y_eq (s : State) (cd : Cd) (w : Slot0) : (s.dev.dies[cd].cox).y w = secondOperand s cd w := by
  unfold Cox.y secondOperand Cox.rd gRead; rw [simm_eq]

/-- The address of a load or store in the words of the claims. -/
theorem addr_eq (s : State) (cd : Cd) (w : Slot0) : (s.dev.dies[cd].cox).addr w = localAddress s cd w := by
  unfold Cox.addr localAddress Cox.rd gRead; rw [simm_eq]

/-- The guard in the words of the claims. -/
theorem guard_iff (s : State) (cd : Cd) (w : Slot0) :
    (s.dev.dies[cd].cox).guard w = true ↔ pRead s cd w.gp.val ≠ w.gn := by
  unfold Cox.guard; rw [rdp_eq]; simp

/-- A row of the scalar table on a running Cox whose guard holds is the operation of its instruction. -/
theorem scalar_runs {s : State} {cd : Cd} {w : Slot0} {c : Context} (h : ScalarRunsIn s cd w c) (f : Scalar) :
    s.dev.scalar cd w f = (f w c cd s.dev).1 := by
  obtain ⟨h1, h2, ⟨h3, h4⟩, h5⟩ := h
  unfold Device.scalar
  simp only [h1]
  rw [if_pos ⟨h2, by simp [Device.stopping, h3, h4], (guard_iff s cd w).2 h5⟩]

/-- A row whose guard does not hold leaves the device as it is. -/
theorem scalar_unguarded {s : State} {cd : Cd} {w : Slot0} (h : pRead s cd w.gp.val = w.gn) (f : Scalar) :
    s.dev.scalar cd w f = s.dev := by
  have : ¬ (s.dev.dies[cd].cox).guard w = true := by rw [guard_iff]; simpa using h
  unfold Device.scalar
  split
  · rfl
  · rw [if_neg fun h => this h.2.2]

/-- An instruction that acts on the Cox alone replaces that Cox and nothing else. -/
theorem scalar_onCox {s : State} {cd : Cd} {w : Slot0} (h : ScalarRuns s cd w) (f : Slot0 → Cox → Cox) :
    ({ s with dev := s.dev.scalar cd w (onCox f) } : State) = withCox s cd (f w s.dev.dies[cd].cox) := by
  obtain ⟨c, h⟩ := h
  rw [scalar_runs h]; rfl

/-- Replacing a Cox by itself changes nothing. -/
theorem withCox_self (s : State) (cd : Cd) : withCox s cd s.dev.dies[cd].cox = s := by
  have h : s.dev.dies.set cd s.dev.dies[cd] = s.dev.dies := Vector.set_getElem_self ..
  exact congrArg (fun v => ({ s with dev := { s.dev with dies := v } } : State)) h

/-- A write of a g-register by the operation that writes registers. -/
theorem withCox_wr (s : State) (cd : Cd) (r : Fin 32) (v : W64) (lat : Nat) :
    withCox s cd ((s.dev.dies[cd].cox).wr r v lat) = withG s cd r v lat := by
  unfold Cox.wr withG
  split
  · exact withCox_self s cd
  · rfl

/-- A write of a predicate by the operation that writes them. -/
theorem withCox_wrp (s : State) (cd : Cd) (r : Nat) (v : Bool) :
    withCox s cd ((s.dev.dies[cd].cox).wrp (idx 8 r) v) = withP s cd r v := by
  unfold Cox.wrp withP
  by_cases h : r % 8 = 0
  · have : idx 8 r = 0 := by apply Fin.ext; simp [idx, h]
    simp only [this, h, ↓reduceIte]; exact withCox_self s cd
  · have : idx 8 r ≠ 0 := fun e => h (by simpa [idx] using congrArg Fin.val e)
    simp only [this, h, ↓reduceIte]

/-- What a scalar instruction that writes a g-register does to the whole state. -/
theorem exec_wr {s : State} {cd : Cd} {w : Slot0} (h : ScalarRuns s cd w) {f : Slot0 → Cox → Cox} {r : Fin 32} {v : W64} {lat : Nat}
    (hf : f w s.dev.dies[cd].cox = (s.dev.dies[cd].cox).wr r v lat) :
    ({ s with dev := s.dev.scalar cd w (onCox f) } : State) = withG s cd r v lat := by
  rw [scalar_onCox h, hf, withCox_wr]

/-- What a scalar instruction that writes a predicate does to the whole state. -/
theorem exec_wrp {s : State} {cd : Cd} {w : Slot0} (h : ScalarRuns s cd w) {f : Slot0 → Cox → Cox} {v : Bool}
    (hf : f w s.dev.dies[cd].cox = (s.dev.dies[cd].cox).wrp w.pd v) :
    ({ s with dev := s.dev.scalar cd w (onCox f) } : State) = withP s cd w.d.val v := by
  rw [scalar_onCox h, hf]; exact withCox_wrp s cd _ v

end Sys2Proof.Laws
end

