-- ==== Sys2Proof/Laws/Memory.lean ====
section
/-! SUPPORT. What the operations over a memory do, said once: they keep its canonical form, a read after a write gives what was written,
and every other address reads as before. -/

namespace Sys2Proof.Laws

open Sys2Proof.Machine

/-- A memory whose addresses begin at `lo` begins at every lower bound. -/
theorem memWfFrom_mono {dflt : Byte} {lo lo' : Nat} (h : lo' ≤ lo) : ∀ {m : Memory}, memWfFrom dflt lo m = true → memWfFrom dflt lo' m = true
  | [], _ => rfl
  | (k, v) :: t, hm => by
    simp only [memWfFrom, Bool.and_eq_true, decide_eq_true_eq] at hm ⊢
    exact ⟨⟨by omega, hm.1.2⟩, hm.2⟩

/-- An address below every listed one reads as the default. -/
theorem memGet_below {dflt : Byte} {lo a : Nat} (h : a < lo) : ∀ {m : Memory}, memWfFrom dflt lo m = true → memGet dflt m a = dflt
  | [], _ => rfl
  | (k, v) :: t, hm => by
    simp only [memWfFrom, Bool.and_eq_true, decide_eq_true_eq] at hm
    have h1 : a ≠ k := by omega
    have h2 : a < k := by omega
    simp [memGet, h1, h2]

/-- A write keeps the canonical form from any lower bound of the address. -/
theorem memPut_wfFrom {dflt : Byte} {a : Nat} {b : Byte} :
    ∀ {lo : Nat} {m : Memory}, lo ≤ a → memWfFrom dflt lo m = true → memWfFrom dflt lo (memPut dflt m a b) = true
  | lo, [], h, _ => by
    unfold memPut; split
    · rfl
    · simp [memWfFrom, *]
  | lo, (k, v) :: t, h, hm => by
    have hm' := hm
    simp only [memWfFrom, Bool.and_eq_true, decide_eq_true_eq] at hm
    obtain ⟨⟨h1, h2⟩, h3⟩ := hm
    unfold memPut
    split
    · split
      · exact hm'
      · rename_i hb
        simp only [memWfFrom, Bool.and_eq_true, decide_eq_true_eq]
        exact ⟨⟨h, hb⟩, ⟨by omega, h2⟩, h3⟩
    · split
      · split
        · exact memWfFrom_mono (by omega) h3
        · rename_i hb
          simp only [memWfFrom, Bool.and_eq_true, decide_eq_true_eq]
          exact ⟨⟨h, hb⟩, memWfFrom_mono (by omega) h3⟩
      · simp only [memWfFrom, Bool.and_eq_true, decide_eq_true_eq]
        exact ⟨⟨h1, h2⟩, memPut_wfFrom (by omega) h3⟩

/-- A write keeps the canonical form. -/
theorem memPut_wf {dflt : Byte} {m : Memory} (h : m.wf dflt = true) (a : Nat) (b : Byte) : (memPut dflt m a b).wf dflt = true :=
  memPut_wfFrom (Nat.zero_le a) h

/-- A store keeps the canonical form. -/
theorem memStore_wf {dflt : Byte} : ∀ {m : Memory} {a : Nat} {bs : List Byte}, m.wf dflt = true → (memStore dflt m a bs).wf dflt = true
  | _, _, [], h => h
  | _, a, b :: t, h => by rw [memStore]; exact memStore_wf (bs := t) (memPut_wf h a b)

/-- A part of a memory keeps the canonical form. -/
theorem filter_wfFrom {dflt : Byte} (p : Host.Cell → Bool) :
    ∀ {lo : Nat} {m : Memory}, memWfFrom dflt lo m = true → memWfFrom dflt lo (m.filter p) = true
  | _, [], _ => rfl
  | lo, (k, v) :: t, hm => by
    simp only [memWfFrom, Bool.and_eq_true, decide_eq_true_eq] at hm
    obtain ⟨⟨h1, h2⟩, h3⟩ := hm
    by_cases hp : p (k, v) = true
    · rw [List.filter_cons_of_pos hp]
      simp only [memWfFrom, Bool.and_eq_true, decide_eq_true_eq]
      exact ⟨⟨h1, h2⟩, filter_wfFrom p h3⟩
    · rw [List.filter_cons_of_neg hp]
      exact memWfFrom_mono (by omega) (filter_wfFrom p h3)

/-- A part of a memory keeps the canonical form. -/
theorem filter_wf {dflt : Byte} {m : Memory} (p : Host.Cell → Bool) (h : m.wf dflt = true) : Memory.wf dflt (m.filter p) = true :=
  filter_wfFrom p h

/-- Clearing a range keeps the canonical form. -/
theorem memClear_wf {m : Memory} (h : m.wf 0 = true) (lo hi : Nat) : (memClear m lo hi).wf 0 = true := filter_wf _ h

/-- An address reads as it was written, and every other as before. -/
theorem memGet_memPut {dflt : Byte} {a x : Nat} {b : Byte} :
    ∀ {lo : Nat} {m : Memory}, memWfFrom dflt lo m = true → memGet dflt (memPut dflt m a b) x = if x = a then b else memGet dflt m x
  | lo, [], _ => by
    unfold memPut
    split
    · rename_i hb; simp [memGet, hb]
    · by_cases hx : x = a
      · simp [memGet, hx]
      · simp [memGet, hx]
  | lo, (k, v) :: t, hm => by
    simp only [memWfFrom, Bool.and_eq_true, decide_eq_true_eq] at hm
    obtain ⟨⟨h1, h2⟩, h3⟩ := hm
    unfold memPut
    split
    · rename_i ha
      split
      · rename_i hb
        by_cases hx : x = a
        · subst hx
          have : x ≠ k := by omega
          simp [memGet, this, ha, hb]
        · simp [hx]
      · by_cases hx : x = a
        · subst hx; simp [memGet]
        · simp only [memGet, hx, if_false]
          by_cases hlt : x < a
          · have e1 : x ≠ k := by omega
            have e2 : x < k := by omega
            simp [hlt, e1, e2]
          · simp [hlt]
    · split
      · rename_i ha
        subst ha
        split
        · rename_i hb
          by_cases hx : x = a
          · subst hx; simp [hb, memGet_below (Nat.lt_succ_self x) h3]
          · simp only [memGet, hx, if_false]
            by_cases hlt : x < a
            · simp [hlt, memGet_below (show x < a + 1 by omega) h3]
            · simp [hlt]
        · by_cases hx : x = a
          · subst hx; simp [memGet]
          · simp [memGet, hx]
      · rename_i ha hne
        by_cases hx : x = k
        · subst hx
          have : x ≠ a := fun e => hne e.symm
          simp [memGet, this]
        · simp only [memGet, hx, if_false]
          by_cases hlt : x < k
          · have : x ≠ a := by omega
            simp [hlt, this]
          · simp only [hlt, if_false]
            exact memGet_memPut h3

/-- A read after a write of one byte. -/
theorem memGet_put_self {dflt : Byte} {m : Memory} (h : m.wf dflt = true) (a : Nat) (b : Byte) : memGet dflt (memPut dflt m a b) a = b := by
  rw [memGet_memPut h]; simp

/-- A write of one byte leaves every other address. -/
theorem memGet_put_other {dflt : Byte} {m : Memory} (h : m.wf dflt = true) {a x : Nat} (b : Byte) (hx : x ≠ a) :
    memGet dflt (memPut dflt m a b) x = memGet dflt m x := by
  rw [memGet_memPut h]; simp [hx]

/-- A read after a store: the stored bytes at their addresses, every other address as before. -/
theorem memGet_memStore {dflt : Byte} : ∀ {m : Memory} {a : Nat} {bs : List Byte} {x : Nat}, m.wf dflt = true →
    memGet dflt (memStore dflt m a bs) x = if a ≤ x ∧ x < a + bs.length then bs.getD (x - a) dflt else memGet dflt m x
  | m, a, [], x, _ => by
    have : ¬(a ≤ x ∧ x < a + ([] : List Byte).length) := by simp only [List.length_nil]; omega
    rw [if_neg this]; rfl
  | m, a, b :: t, x, h => by
    rw [memStore, memGet_memStore (memPut_wf h a b)]
    by_cases hx : x = a
    · subst hx
      simp [memGet_put_self h]
    · rw [memGet_put_other h b hx]
      by_cases hin : a + 1 ≤ x ∧ x < a + 1 + t.length
      · have h2 : a ≤ x ∧ x < a + (b :: t).length := by simp only [List.length_cons]; omega
        rw [if_pos hin, if_pos h2]
        obtain ⟨j, rfl⟩ : ∃ j, x = a + 1 + j := ⟨x - (a + 1), by omega⟩
        have e1 : a + 1 + j - (a + 1) = j := by omega
        have e2 : a + 1 + j - a = j + 1 := by omega
        simp [e1, e2]
      · have h2 : ¬(a ≤ x ∧ x < a + (b :: t).length) := by simp only [List.length_cons]; omega
        rw [if_neg hin, if_neg h2]

/-- A store leaves every address outside its bytes. -/
theorem memStore_frame {dflt : Byte} {m : Memory} {a : Nat} {bs : List Byte} {x : Nat} (h : m.wf dflt = true)
    (hx : x < a ∨ a + bs.length ≤ x) : memGet dflt (memStore dflt m a bs) x = memGet dflt m x := by
  rw [memGet_memStore h, if_neg (by omega)]

/-- A part of a memory reads as the memory where the part keeps the address, and as the default elsewhere. -/
theorem memGet_filter {dflt : Byte} (p : Nat → Bool) {x : Nat} :
    ∀ {lo : Nat} {m : Memory}, memWfFrom dflt lo m = true →
      memGet dflt (m.filter fun c => p c.1) x = if p x then memGet dflt m x else dflt
  | _, [], _ => by simp [memGet]
  | lo, (k, v) :: t, hm => by
    simp only [memWfFrom, Bool.and_eq_true, decide_eq_true_eq] at hm
    obtain ⟨⟨h1, h2⟩, h3⟩ := hm
    have ih := memGet_filter p (x := x) h3
    by_cases hp : p k = true
    · rw [List.filter_cons_of_pos (by simpa using hp)]
      simp only [memGet]
      by_cases hx : x = k
      · subst hx; simp [hp]
      · by_cases hlt : x < k
        · simp [hx, hlt]
        · simp only [hx, hlt, if_false]; exact ih
    · rw [List.filter_cons_of_neg (by simpa using hp), ih]
      by_cases hx : x = k
      · subst hx; simp [hp]
      · by_cases hlt : x < k
        · have : memGet dflt t x = dflt := memGet_below (show x < k + 1 by omega) h3
          simp [memGet, hx, hlt, this]
        · simp [memGet, hx, hlt]

/-- A cleared range reads as zero, and every other address as before. -/
theorem memGet_memClear {m : Memory} (h : m.wf 0 = true) (lo hi x : Nat) :
    memGet 0 (memClear m lo hi) x = if lo ≤ x ∧ x < hi then 0 else memGet 0 m x := by
  have := memGet_filter (fun a => decide (a < lo) || decide (hi ≤ a)) (x := x) h
  unfold memClear
  rw [this]
  by_cases hx : lo ≤ x ∧ x < hi
  · have : ¬(x < lo) ∧ ¬(hi ≤ x) := by omega
    simp [this, hx]
  · have : x < lo ∨ hi ≤ x := by omega
    simp [this, hx]

/-- Bytes read back as they were stored. -/
theorem memBytes_memStore {dflt : Byte} {m : Memory} (h : m.wf dflt = true) (a : Nat) (bs : List Byte) :
    memBytes dflt (memStore dflt m a bs) a bs.length = bs := by
  apply List.ext_getElem
  · simp [memBytes]
  · intro i h1 h2
    simp only [memBytes, List.getElem_map, List.getElem_range]
    rw [memGet_memStore h, if_pos ⟨by omega, by omega⟩]
    simp [h2]

/-- Bytes read beside a store. -/
theorem memBytes_memStore_beside {dflt : Byte} {m : Memory} (h : m.wf dflt = true) {a : Nat} {bs : List Byte} {x n : Nat}
    (hx : x + n ≤ a ∨ a + bs.length ≤ x) : memBytes dflt (memStore dflt m a bs) x n = memBytes dflt m x n := by
  unfold memBytes
  apply List.map_congr_left
  intro i hi
  have := List.mem_range.1 hi
  exact memStore_frame h (by omega)

/-! ### Blocks (R383) -/

/-- A range replaced by a block keeps the canonical form, whatever cells the block is given by. -/
theorem memPlace_wf {m : Memory} (h : m.wf 0 = true) (lo n : Nat) (cells : Memory) : (memPlace m lo n cells).wf 0 = true := by
  have go : ∀ (l : Memory) (m : Memory), m.wf 0 = true → (l.foldl (fun m c => memPut 0 m (lo + c.1) c.2) m).wf 0 = true := by
    intro l
    induction l with
    | nil => exact fun _ h => h
    | cons c t ih => exact fun _ h => ih _ (memPut_wf h _ _)
  exact go _ _ (memClear_wf h _ _)

/-- An address outside the range of a block reads as before. -/
theorem memGet_memPlace_beside {m : Memory} (h : m.wf 0 = true) {lo n x : Nat} (hx : x < lo ∨ lo + n ≤ x) (cells : Memory) :
    memGet 0 (memPlace m lo n cells) x = memGet 0 m x := by
  have go : ∀ (l : Memory), (∀ c ∈ l, c.1 < n) → ∀ (m : Memory), m.wf 0 = true →
      memGet 0 (l.foldl (fun m c => memPut 0 m (lo + c.1) c.2) m) x = memGet 0 m x := by
    intro l
    induction l with
    | nil => exact fun _ _ _ => rfl
    | cons c t ih =>
      intro hl m hm
      have hc := hl c List.mem_cons_self
      rw [List.foldl_cons, ih (fun c' h' => hl c' (List.mem_cons_of_mem _ h')) _ (memPut_wf hm _ _), memGet_put_other hm _ (by omega)]
  unfold memPlace
  rw [go _ (fun c hc => by simpa using (List.mem_filter.1 hc).2) _ (memClear_wf h _ _), memGet_memClear h, if_neg (by omega)]

/-- A slice of a memory read at an offset is the memory read at its address. -/
theorem memGet_memSlice {lo n i : Nat} (hi : i < n) : ∀ {b : Nat} {m : Memory}, memWfFrom 0 b m = true →
    memGet 0 (memSlice m lo n) i = memGet 0 m (lo + i)
  | _, [], _ => rfl
  | b, (k, v) :: t, hm => by
    simp only [memWfFrom, Bool.and_eq_true, decide_eq_true_eq] at hm
    obtain ⟨⟨h1, h2⟩, h3⟩ := hm
    have ih := memGet_memSlice (lo := lo) hi h3
    by_cases hk : lo ≤ k ∧ k < lo + n
    · have e : memSlice ((k, v) :: t) lo n = (k - lo, v) :: memSlice t lo n := by simp [memSlice, hk]
      rw [e]
      simp only [memGet]
      by_cases he : lo + i = k
      · have : i = k - lo := by omega
        rw [if_pos this, if_pos he]
      · have h4 : i ≠ k - lo := by omega
        by_cases hlt : lo + i < k
        · have h5 : i < k - lo := by omega
          simp [he, h4, hlt, h5]
        · have h5 : ¬ i < k - lo := by omega
          simp only [he, h4, hlt, h5, if_false]
          exact ih
    · have e : memSlice ((k, v) :: t) lo n = memSlice t lo n := by
        simp [memSlice, hk]
      rw [e, ih]
      by_cases hlt : lo + i < k
      · have : memGet 0 t (lo + i) = 0 := memGet_below (show lo + i < k + 1 by omega) h3
        have h4 : lo + i ≠ k := by omega
        rw [this, memGet, if_neg h4, if_pos hlt]
      · have h4 : lo + i ≠ k := by omega
        simp [memGet, h4, hlt]

end Sys2Proof.Laws
end

