-- ==== Sys2Proof/Laws/PerInstr.lean ====
section
/-! SUPPORT. Per command: no word of the opcode table's bits spells it, since no row has bits. -/

namespace Sys2Proof.Laws.Wordless

/-- No word of any length spells the command. -/
def Statement (i : Instr) : Prop := ∀ nbits w : Nat, decodeTableWord nbits w ≠ some i

/-- Every command is without a word. -/
theorem wordless (i : Instr) : Statement i := by
  intro nbits w; simp [decodeTableWord]

theorem strokeIssue (cd : Cd) : Statement (.strokeIssue cd) := wordless _
theorem nopS (cd : Cd) (w : Slot0) : Statement (.nopS cd w) := wordless _
theorem add (cd : Cd) (w : Slot0) : Statement (.add cd w) := wordless _
theorem sub (cd : Cd) (w : Slot0) : Statement (.sub cd w) := wordless _
theorem mul (cd : Cd) (w : Slot0) : Statement (.mul cd w) := wordless _
theorem mulh (cd : Cd) (w : Slot0) : Statement (.mulh cd w) := wordless _
theorem divu (cd : Cd) (w : Slot0) : Statement (.divu cd w) := wordless _
theorem remu (cd : Cd) (w : Slot0) : Statement (.remu cd w) := wordless _
theorem andS (cd : Cd) (w : Slot0) : Statement (.andS cd w) := wordless _
theorem orS (cd : Cd) (w : Slot0) : Statement (.orS cd w) := wordless _
theorem xorS (cd : Cd) (w : Slot0) : Statement (.xorS cd w) := wordless _
theorem shl (cd : Cd) (w : Slot0) : Statement (.shl cd w) := wordless _
theorem shr (cd : Cd) (w : Slot0) : Statement (.shr cd w) := wordless _
theorem sha (cd : Cd) (w : Slot0) : Statement (.sha cd w) := wordless _
theorem min (cd : Cd) (w : Slot0) : Statement (.min cd w) := wordless _
theorem max (cd : Cd) (w : Slot0) : Statement (.max cd w) := wordless _
theorem clz (cd : Cd) (w : Slot0) : Statement (.clz cd w) := wordless _
theorem popc (cd : Cd) (w : Slot0) : Statement (.popc cd w) := wordless _
theorem li (cd : Cd) (w : Slot0) : Statement (.li cd w) := wordless _
theorem lih (cd : Cd) (w : Slot0) : Statement (.lih cd w) := wordless _
theorem cmpeq (cd : Cd) (w : Slot0) : Statement (.cmpeq cd w) := wordless _
theorem cmpne (cd : Cd) (w : Slot0) : Statement (.cmpne cd w) := wordless _
theorem cmplt (cd : Cd) (w : Slot0) : Statement (.cmplt cd w) := wordless _
theorem cmple (cd : Cd) (w : Slot0) : Statement (.cmple cd w) := wordless _
theorem cmpltu (cd : Cd) (w : Slot0) : Statement (.cmpltu cd w) := wordless _
theorem cmpleu (cd : Cd) (w : Slot0) : Statement (.cmpleu cd w) := wordless _
theorem plog (cd : Cd) (w : Slot0) : Statement (.plog cd w) := wordless _
theorem movp (cd : Cd) (w : Slot0) : Statement (.movp cd w) := wordless _
theorem sel (cd : Cd) (w : Slot0) : Statement (.sel cd w) := wordless _
theorem rds (cd : Cd) (w : Slot0) : Statement (.rds cd w) := wordless _
theorem rdc (cd : Cd) (w : Slot0) : Statement (.rdc cd w) := wordless _
theorem ld64 (cd : Cd) (w : Slot0) : Statement (.ld64 cd w) := wordless _
theorem ld32 (cd : Cd) (w : Slot0) : Statement (.ld32 cd w) := wordless _
theorem ld32u (cd : Cd) (w : Slot0) : Statement (.ld32u cd w) := wordless _
theorem ld16u (cd : Cd) (w : Slot0) : Statement (.ld16u cd w) := wordless _
theorem st64 (cd : Cd) (w : Slot0) : Statement (.st64 cd w) := wordless _
theorem st32 (cd : Cd) (w : Slot0) : Statement (.st32 cd w) := wordless _
theorem st16 (cd : Cd) (w : Slot0) : Statement (.st16 cd w) := wordless _
theorem ldd64 (cd : Cd) (w : Slot0) : Statement (.ldd64 cd w) := wordless _
theorem ldd32u (cd : Cd) (w : Slot0) : Statement (.ldd32u cd w) := wordless _
theorem std64 (cd : Cd) (w : Slot0) : Statement (.std64 cd w) := wordless _
theorem std32 (cd : Cd) (w : Slot0) : Statement (.std32 cd w) := wordless _
theorem std16 (cd : Cd) (w : Slot0) : Statement (.std16 cd w) := wordless _
theorem br (cd : Cd) (w : Slot0) : Statement (.br cd w) := wordless _
theorem call (cd : Cd) (w : Slot0) : Statement (.call cd w) := wordless _
theorem dbnz (cd : Cd) (w : Slot0) : Statement (.dbnz cd w) := wordless _
theorem waitq (cd : Cd) (w : Slot0) : Statement (.waitq cd w) := wordless _
theorem halt (cd : Cd) (w : Slot0) : Statement (.halt cd w) := wordless _
theorem trap (cd : Cd) (w : Slot0) : Statement (.trap cd w) := wordless _
theorem lddErrorResponse (cd : Cd) : Statement (.lddErrorResponse cd) := wordless _
theorem runComplete (cd : Cd) : Statement (.runComplete cd) := wordless _
theorem faultReachesCox (cd : Cd) : Statement (.faultReachesCox cd) := wordless _
theorem planStall (cd : Cd) : Statement (.planStall cd) := wordless _
theorem chunk (cd : Cd) (ma : MaNo) : Statement (.chunk cd ma) := wordless _
theorem lastChunkCommit (cd : Cd) (ma : MaNo) : Statement (.lastChunkCommit cd ma) := wordless _
theorem readout (cd : Cd) (ma : MaNo) : Statement (.readout cd ma) := wordless _
theorem whiskRun (cd : Cd) : Statement (.whiskRun cd) := wordless _
theorem elemNop (cd : Cd) (w : ElemWord) : Statement (.elemNop cd w) := wordless _
theorem elemMov (cd : Cd) (w : ElemWord) : Statement (.elemMov cd w) := wordless _
theorem elemAdd (cd : Cd) (w : ElemWord) : Statement (.elemAdd cd w) := wordless _
theorem elemSub (cd : Cd) (w : ElemWord) : Statement (.elemSub cd w) := wordless _
theorem elemMul (cd : Cd) (w : ElemWord) : Statement (.elemMul cd w) := wordless _
theorem elemNeg (cd : Cd) (w : ElemWord) : Statement (.elemNeg cd w) := wordless _
theorem elemAbs (cd : Cd) (w : ElemWord) : Statement (.elemAbs cd w) := wordless _
theorem elemShl (cd : Cd) (w : ElemWord) : Statement (.elemShl cd w) := wordless _
theorem elemShr (cd : Cd) (w : ElemWord) : Statement (.elemShr cd w) := wordless _
theorem elemAnd (cd : Cd) (w : ElemWord) : Statement (.elemAnd cd w) := wordless _
theorem elemOr (cd : Cd) (w : ElemWord) : Statement (.elemOr cd w) := wordless _
theorem elemXor (cd : Cd) (w : ElemWord) : Statement (.elemXor cd w) := wordless _
theorem elemNot (cd : Cd) (w : ElemWord) : Statement (.elemNot cd w) := wordless _
theorem elemClt (cd : Cd) (w : ElemWord) : Statement (.elemClt cd w) := wordless _
theorem elemCle (cd : Cd) (w : ElemWord) : Statement (.elemCle cd w) := wordless _
theorem elemCeq (cd : Cd) (w : ElemWord) : Statement (.elemCeq cd w) := wordless _
theorem elemSel (cd : Cd) (w : ElemWord) : Statement (.elemSel cd w) := wordless _
theorem elemMax (cd : Cd) (w : ElemWord) : Statement (.elemMax cd w) := wordless _
theorem elemMin (cd : Cd) (w : ElemWord) : Statement (.elemMin cd w) := wordless _
theorem elemClz (cd : Cd) (w : ElemWord) : Statement (.elemClz cd w) := wordless _
theorem ilg (cd : Cd) (w : ElemWord) : Statement (.ilg cd w) := wordless _
theorem luta (cd : Cd) (w : ElemWord) : Statement (.luta cd w) := wordless _
theorem lutb (cd : Cd) (w : ElemWord) : Statement (.lutb cd w) := wordless _
theorem aln (cd : Cd) (w : ElemWord) : Statement (.aln cd w) := wordless _
theorem toi (cd : Cd) (w : ElemWord) : Statement (.toi cd w) := wordless _
theorem tof (cd : Cd) (w : ElemWord) : Statement (.tof cd w) := wordless _
theorem nfc (cd : Cd) (w : ElemWord) : Statement (.nfc cd w) := wordless _
theorem tongsMove (cd : Cd) (chan : Fin 3) : Statement (.tongsMove cd chan) := wordless _
theorem weightin (cd : Cd) : Statement (.weightin cd) := wordless _
theorem chunkTilePlace (cd : Cd) : Statement (.chunkTilePlace cd) := wordless _
theorem mergeBuild (cd : Cd) : Statement (.mergeBuild cd) := wordless _
theorem mergeFeed (cd : Cd) : Statement (.mergeFeed cd) := wordless _
theorem updateSgd (cd : Cd) : Statement (.updateSgd cd) := wordless _
theorem updateAdamw (cd : Cd) : Statement (.updateAdamw cd) := wordless _
theorem updateInit (cd : Cd) : Statement (.updateInit cd) := wordless _
theorem updateRefresh (cd : Cd) : Statement (.updateRefresh cd) := wordless _
theorem accum (cd : Cd) : Statement (.accum cd) := wordless _
theorem bucketOpen (cd : Cd) : Statement (.bucketOpen cd) := wordless _
theorem bucketClose (cd : Cd) : Statement (.bucketClose cd) := wordless _
theorem bucketComplete (cd : Cd) (bucket : BitVec 16) : Statement (.bucketComplete cd bucket) := wordless _
theorem ladleLineDepart (cd : Cd) (stream : LadleStream) : Statement (.ladleLineDepart cd stream) := wordless _
theorem ladlePayloadArrival (cd : Cd) (stream : LadleStream) (check : LineCheck) : Statement (.ladlePayloadArrival cd stream check) := wordless _
theorem upperTreeLineAdd (fd : Fin 2) (slot : CtxSlot) (bucket : BitVec 16) (level : Fin 17) (phase : Fin 2) (line : Nat) : Statement (.upperTreeLineAdd fd slot bucket level phase line) := wordless _
theorem tapNorm (cd : Cd) : Statement (.tapNorm cd) := wordless _
theorem tapScales (cd : Cd) : Statement (.tapScales cd) := wordless _
theorem tapSieve (cd : Cd) : Statement (.tapSieve cd) := wordless _
theorem sieveComparison (cd : Cd) : Statement (.sieveComparison cd) := wordless _
theorem report (cd : Cd) : Statement (.report cd) := wordless _
theorem sync (cd : Cd) (queue : Fin 12) : Statement (.sync cd queue) := wordless _
theorem commandCompletionPoint (cd : Cd) (queue : Fin 12) : Statement (.commandCompletionPoint cd queue) := wordless _
theorem commandReleasePoint (cd : Cd) (queue : Fin 12) : Statement (.commandReleasePoint cd queue) := wordless _
theorem startMarker (cd : Cd) : Statement (.startMarker cd) := wordless _
theorem readySend (cd : Cd) : Statement (.readySend cd) := wordless _
theorem readyArrival (cd : Cd) (pos : Fin 16) : Statement (.readyArrival cd pos) := wordless _
theorem roundStart (cd : Cd) : Statement (.roundStart cd) := wordless _
theorem courseLineArrival (cd : Cd) (clockwise : Bool) (check : LineCheck) : Statement (.courseLineArrival cd clockwise check) := wordless _
theorem pauseArrival (cd : Cd) (round : Nat) : Statement (.pauseArrival cd round) := wordless _
theorem lpddrWheelServe (cd : Cd) (ctl : Fin 2) (decay : List MemError) : Statement (.lpddrWheelServe cd ctl decay) := wordless _
theorem mr4Read (cd : Cd) (ctl : Fin 2) (field : BitVec 3) : Statement (.mr4Read cd ctl field) := wordless _
theorem packageRecordVerify (domain : Fin 64) (window : Fin 64) (record : Nat) : Statement (.packageRecordVerify domain window record) := wordless _
theorem companionTimeout (access : Nat) : Statement (.companionTimeout access) := wordless _
theorem snpinv (ring : RingId) (stores : List Host.Cell) : Statement (.snpinv ring stores) := wordless _
theorem doorbellWrite (off : BitVec 12) (value : BitVec 32) (stores : List Host.Cell) : Statement (.doorbellWrite off value stores) := wordless _
theorem signalHoldoffExpiry (ring : RingId) : Statement (.signalHoldoffExpiry ring) := wordless _
theorem runStart (slot : CtxSlot) : Statement (.runStart slot) := wordless _
theorem planLoad (slot : CtxSlot) : Statement (.planLoad slot) := wordless _
theorem planRun (slot : CtxSlot) : Statement (.planRun slot) := wordless _
theorem stepCommit (slot : CtxSlot) : Statement (.stepCommit slot) := wordless _
theorem segmentHalt (slot : CtxSlot) : Statement (.segmentHalt slot) := wordless _
theorem stepRollback (slot : CtxSlot) : Statement (.stepRollback slot) := wordless _
theorem lossScaleSet (slot : CtxSlot) : Statement (.lossScaleSet slot) := wordless _
theorem adapterRegister (slot : CtxSlot) : Statement (.adapterRegister slot) := wordless _
theorem adapterFetch (slot : CtxSlot) : Statement (.adapterFetch slot) := wordless _
theorem adapterEvict (slot : CtxSlot) : Statement (.adapterEvict slot) := wordless _
theorem adapterUnregister (slot : CtxSlot) : Statement (.adapterUnregister slot) := wordless _
theorem adapterPolicy (slot : CtxSlot) : Statement (.adapterPolicy slot) := wordless _
theorem slotBind (slot : CtxSlot) : Statement (.slotBind slot) := wordless _
theorem slotRelease (slot : CtxSlot) : Statement (.slotRelease slot) := wordless _
theorem reduceConfig (slot : CtxSlot) : Statement (.reduceConfig slot) := wordless _
theorem reduceFence (slot : CtxSlot) : Statement (.reduceFence slot) := wordless _
theorem reduceFenceComplete (slot : CtxSlot) : Statement (.reduceFenceComplete slot) := wordless _
theorem reduceAbort (slot : CtxSlot) : Statement (.reduceAbort slot) := wordless _
theorem reduceDigest (slot : CtxSlot) : Statement (.reduceDigest slot) := wordless _
theorem fabricRoute (slot : CtxSlot) : Statement (.fabricRoute slot) := wordless _
theorem contextNop (slot : CtxSlot) : Statement (.contextNop slot) := wordless _
theorem contextCreate : Statement (.contextCreate) := wordless _
theorem contextDestroy : Statement (.contextDestroy) := wordless _
theorem contextReset : Statement (.contextReset) := wordless _
theorem unitResetAck (island : BitVec 16) : Statement (.unitResetAck island) := wordless _
theorem resetAckTimeout : Statement (.resetAckTimeout) := wordless _
theorem forcedResetRelease (island : BitVec 16) : Statement (.forcedResetRelease island) := wordless _
theorem contextSwitch : Statement (.contextSwitch) := wordless _
theorem pauseLimitExpiry (slot : CtxSlot) : Statement (.pauseLimitExpiry slot) := wordless _
theorem ringBind : Statement (.ringBind) := wordless _
theorem ringResume : Statement (.ringResume) := wordless _
theorem attest : Statement (.attest) := wordless _
theorem keyRelease : Statement (.keyRelease) := wordless _
theorem domainRelease : Statement (.domainRelease) := wordless _
theorem debugUnlock : Statement (.debugUnlock) := wordless _
theorem dumpTake : Statement (.dumpTake) := wordless _
theorem unitReadTimeout (unit : UnitFailure) : Statement (.unitReadTimeout unit) := wordless _
theorem loopSet : Statement (.loopSet) := wordless _
theorem adminNop : Statement (.adminNop) := wordless _
theorem adminRingBind (a : RegAccess) (stores : List Host.Cell) : Statement (.adminRingBind a stores) := wordless _
theorem adminRingResume (a : RegAccess) : Statement (.adminRingResume a) := wordless _
theorem moduleReset (a : RegAccess) : Statement (.moduleReset a) := wordless _
theorem flashRead (a : RegAccess) : Statement (.flashRead a) := wordless _
theorem flashProgram (a : RegAccess) : Statement (.flashProgram a) := wordless _
theorem flashErase (a : RegAccess) : Statement (.flashErase a) := wordless _
theorem flashCommandDone (deviceOk : Bool) : Statement (.flashCommandDone deviceOk) := wordless _
theorem loopRegisterWrite (a : RegAccess) : Statement (.loopRegisterWrite a) := wordless _
theorem budgetWrite (a : RegAccess) : Statement (.budgetWrite a) := wordless _
theorem portEnWrite (a : RegAccess) : Statement (.portEnWrite a) := wordless _
theorem counterClearWrite (a : RegAccess) : Statement (.counterClearWrite a) := wordless _
theorem setupRegisterWrite (a : RegAccess) : Statement (.setupRegisterWrite a) := wordless _
theorem setdasa (static dynamic : BitVec 7) : Statement (.setdasa static dynamic) := wordless _
theorem entdaa (dynamic : BitVec 7) : Statement (.entdaa dynamic) := wordless _
theorem rstdaa : Statement (.rstdaa) := wordless _
theorem flitTransmit (port : PortNo) : Statement (.flitTransmit port) := wordless _
theorem flitReceive (port : PortNo) (flit : Flit) : Statement (.flitReceive port flit) := wordless _
theorem replayTimeout (port : PortNo) : Statement (.replayTimeout port) := wordless _
theorem keepaliveTimeout (port : PortNo) : Statement (.keepaliveTimeout port) := wordless _
theorem portTrainingStep (port : PortNo) (found : TrainReport) : Statement (.portTrainingStep port found) := wordless _
theorem portTrainingTimeout (port : PortNo) (found : TrainReport) : Statement (.portTrainingTimeout port found) := wordless _
theorem backoffExpiry (port : PortNo) : Statement (.backoffExpiry port) := wordless _
theorem negotiationFlit (port : PortNo) (flit : NegFlit) : Statement (.negotiationFlit port flit) := wordless _
theorem equaliserAdapt (port : PortNo) (ctle : BitVec 4) (dfe : BitVec 48) : Statement (.equaliserAdapt port ctle dfe) := wordless _
theorem packetArrival (port : PortNo) (packet : Packet) : Statement (.packetArrival port packet) := wordless _
theorem messageLanded (slot : CtxSlot) (pos : Fin 16) (stream : Fin 32) (mseq : BitVec 32) : Statement (.messageLanded slot pos stream mseq) := wordless _
theorem sendEntryDepart (slot : CtxSlot) (pos : Fin 16) (stream : Fin 32) : Statement (.sendEntryDepart slot pos stream) := wordless _
theorem nakArrival (port : PortNo) (packet : Packet) : Statement (.nakArrival port packet) := wordless _
theorem mcredit (port : PortNo) (packet : Packet) : Statement (.mcredit port packet) := wordless _
theorem ping (port : PortNo) (packet : Packet) : Statement (.ping port packet) := wordless _
theorem echo (port : PortNo) (packet : Packet) : Statement (.echo port packet) := wordless _
theorem easyAllEntry (average : Nat) : Statement (.easyAllEntry average) := wordless _
theorem easyAllSignal : Statement (.easyAllSignal) := wordless _
theorem easyAllExit (average : Nat) : Statement (.easyAllExit average) := wordless _
theorem overtemperatureShutdown (source : BitVec 16) (tenths : Int) : Statement (.overtemperatureShutdown source tenths) := wordless _
theorem inputApplied : Statement (.inputApplied) := wordless _
theorem inputQualified : Statement (.inputQualified) := wordless _
theorem inputUndervoltage : Statement (.inputUndervoltage) := wordless _
theorem inputOvervoltage : Statement (.inputOvervoltage) := wordless _
theorem inputRemoved : Statement (.inputRemoved) := wordless _
theorem railPowerGood : Statement (.railPowerGood) := wordless _
theorem railSequenceTimeout : Statement (.railSequenceTimeout) := wordless _
theorem sequenceRetry : Statement (.sequenceRetry) := wordless _
theorem entropyFail (test : BitVec 8) : Statement (.entropyFail test) := wordless _
theorem firmwareBoot : Statement .firmwareBoot := wordless _
theorem setupImageApply (readOk : Bool) : Statement (.setupImageApply readOk) := wordless _
theorem lpddrTrain (cd : Cd) (ctl : Fin 2) (ok : Bool) : Statement (.lpddrTrain cd ctl ok) := wordless _
theorem memoryFillDone : Statement (.memoryFillDone) := wordless _
theorem courseBringup (latency : List (BitVec 16)) : Statement (.courseBringup latency) := wordless _
theorem yalkenTraining (answered : Bool) : Statement (.yalkenTraining answered) := wordless _
theorem readyReached : Statement (.readyReached) := wordless _
theorem yalkenLinkRetrain (up : Bool) : Statement (.yalkenLinkRetrain up) := wordless _
theorem telemetrySample (sample : Telemetry) : Statement (.telemetrySample sample) := wordless _
theorem enec : Statement (.enec) := wordless _
theorem ibi : Statement (.ibi) := wordless _
theorem descriptorOpcodeRefused (ring : RingId) : Statement (.descriptorOpcodeRefused ring) := wordless _

end Sys2Proof.Laws.Wordless
end

