-- ==== Sys2Proof/Laws/Shared.lean ====
section
/-! SUPPORT. What each shared operation of the commands can do, said once: the start of an engine command, a descriptor at the head of
its ring, a register row, a scalar row, a packet row, a write to companion memory and a register read. -/

namespace Sys2Proof.Laws

open Sys2Proof Sys2Proof.Machine Sys2Proof.Safety

variable {d : Device}

/-! ### The start of an engine command (R153 to R156) -/

/-- A start does nothing, or it has run the engine on the command that starts, or it has stopped at a fault of that command, or it has come to
a stop point of it. -/
theorem startHead_cases {cd : Cd} {q : QueueId} {op : Nat} {f : Device → Context → QEntry → Engine} :
    d.startHead cd q op f = d
    ∨ ∃ c e, d.startable cd q op = some (c, e)
      ∧ ((∃ d' svals done, f d c e = .ran d' svals done ∧ d.startHead cd q op f = d'.modDie cd fun x => x.markStart q e svals done)
        ∨ (∃ d', f d c e = .stopped d' ∧ d.startHead cd q op f = d'.modDie cd fun x => x.markStop q e)
        ∨ ∃ d' n svals, f d c e = .cut d' n svals ∧ d.startHead cd q op f = d'.modDie cd fun x => x.markCut q e n svals) := by
  unfold Device.startHead
  split
  · exact .inl rfl
  · rename_i c e h
    split
    · exact .inl rfl
    · rename_i d' svals done hf
      exact .inr ⟨c, e, h, .inl ⟨d', svals, done, hf, rfl⟩⟩
    · rename_i d' hf
      exact .inr ⟨c, e, h, .inr (.inl ⟨d', hf, rfl⟩)⟩
    · rename_i d' n svals hf
      exact .inr ⟨c, e, h, .inr (.inr ⟨d', n, svals, hf, rfl⟩)⟩

/-- The start of a command that runs. -/
theorem startHead_ran {cd : Cd} {q : QueueId} {op : Nat} {f : Device → Context → QEntry → Engine} {c : Context} {e : QEntry} {d' : Device}
    {svals : List (Fin 16 × BitVec 64)} {done : Bool} (h : d.startable cd q op = some (c, e)) (hf : f d c e = .ran d' svals done) :
    d.startHead cd q op f = d'.modDie cd fun x => x.markStart q e svals done := by
  simp only [Device.startHead, h, hf]

/-- The start of a command that stops at a fault. -/
theorem startHead_stopped {cd : Cd} {q : QueueId} {op : Nat} {f : Device → Context → QEntry → Engine} {c : Context} {e : QEntry} {d' : Device}
    (h : d.startable cd q op = some (c, e)) (hf : f d c e = .stopped d') :
    d.startHead cd q op f = d'.modDie cd fun x => x.markStop q e := by
  simp only [Device.startHead, h, hf]

/-- The start, or the resumption, of a command that comes to a stop point. -/
theorem startHead_cut {cd : Cd} {q : QueueId} {op : Nat} {f : Device → Context → QEntry → Engine} {c : Context} {e : QEntry} {d' : Device}
    {n : Nat} {svals : List (Fin 16 × BitVec 64)} (h : d.startable cd q op = some (c, e)) (hf : f d c e = .cut d' n svals) :
    d.startHead cd q op f = d'.modDie cd fun x => x.markCut q e n svals := by
  simp only [Device.startHead, h, hf]

/-- Nothing starts while no command of the queue can, or while the command waits. -/
theorem startHead_none {cd : Cd} {q : QueueId} {op : Nat} {f : Device → Context → QEntry → Engine} (h : d.startable cd q op = none) :
    d.startHead cd q op f = d := by simp only [Device.startHead, h]
theorem startHead_wait {cd : Cd} {q : QueueId} {op : Nat} {f : Device → Context → QEntry → Engine} {c : Context} {e : QEntry}
    (h : d.startable cd q op = some (c, e)) (hf : f d c e = .wait) : d.startHead cd q op f = d := by
  simp only [Device.startHead, h, hf]

/-! ### Descriptors (R366 to R374, R385) -/

/-- A ring whose head is held takes no entry. -/
theorem entryAddr_held {id : RingId} (h : (d.head id).isSome = true) : d.entryAddr id = none := by
  unfold Device.entryAddr
  split
  · rfl
  · rw [if_pos]; exact .inr (.inr (.inr (.inl h)))

theorem takeOp_held {id : RingId} {op : Nat} (h : (d.head id).isSome = true) : d.takeOp id op = d := by
  simp only [Device.takeOp, Device.waitingEntry, Device.entryError, entryAddr_held h, Option.bind_none]

/-- With the link up no descriptor waits for it (R359). -/
theorem linkWaits_up {id : RingId} {t : Taken} (h : d.yalkenUp = true) : d.linkWaits id t = false := by simp [Device.linkWaits, h]

/-- A descriptor at the head of a resident context's ring, without a run, acts. -/
theorem descriptor_acts {s : State} {slot : CtxSlot} {op : Nat} {c : Context} {t : Taken} (h : AtHead s slot op c t) (rule : DescRule)
    (body : Device → Context → Taken → Device) : s.dev.descriptor slot op rule body = body s.dev c t := by
  obtain ⟨hc, ht, hop, hu, hr, hres, hf, hy⟩ := h
  have hh : (s.dev.head (.ctx slot)).isSome = true := by simp [Device.head, hc, ht]
  simp [Device.descriptor, takeOp_held hh, hc, ht, hop, hu, hr, hres, hf, linkWaits_up hy]

/-- A FAULTED context answers a descriptor that does not act then with CONTEXT_STATE (R369). -/
theorem descriptor_faulted {s : State} {slot : CtxSlot} {op : Nat} {c : Context} {t : Taken} (hc : s.dev.ctxAt slot = some c) (ht : c.head = some t)
    (hop : t.op.toNat = op) (hu : s.dev.underReset (.ctx slot) = false) (hf : c.cond = .faulted) (hres : c.resident = true)
    (hr : ∀ u ∈ c.run, u.seq ≠ t.seq ∨ u.op ≠ t.op) {rule : DescRule} (hn : rule.faulted = false) (body : Device → Context → Taken → Device) :
    s.dev.descriptor slot op rule body = s.dev.answer (.ctx slot) t 0xE5 := by
  have hh : (s.dev.head (.ctx slot)).isSome = true := by simp [Device.head, hc, ht]
  have hrun : (c.run.any fun u => u.seq == t.seq && u.op == t.op) = false := by
    cases hcr : c.run with
    | none => rfl
    | some u => rcases hr u (by rw [hcr]; rfl) with h | h <;> simp [h]
  simp [Device.descriptor, takeOp_held hh, hc, ht, hop, hu, hrun, hres, hf, hn]

/-- An admin descriptor at the head of the admin ring acts (R374). -/
theorem adminDescriptor_acts {s : State} {op : Nat} {t : Taken} (h : AtAdmin s op t) (body : Device → Taken → Device) :
    s.dev.adminDescriptor op body = body s.dev t := by
  obtain ⟨ht, hop, hy⟩ := h
  have hh : (s.dev.head .admin).isSome = true := by simp [Device.head, ht]
  simp [Device.adminDescriptor, takeOp_held hh, ht, hop, linkWaits_up hy]

/-! ### Register rows (R470 to R472) -/

/-- A register row does nothing, counts a stray, latches a low word, or takes a write. -/
theorem regRow_cases {a : RegAccess} {strays : Bool} {own : Reg → Option Nat → Bool} {act : Device → Reg → Nat → Device} :
    d.regRow a strays own act = d
    ∨ (strays = true ∧ d.regEvent a = .stray ∧ d.regRow a strays own act = d.stray)
    ∨ (∃ r off low, d.regEvent a = .latch r off low ∧ own r none = true
      ∧ d.regRow a strays own act = { d with hd := d.hd.setLatch a.path (some (BitVec.ofNat 32 off, BitVec.ofNat 32 low)) })
    ∨ ∃ r v, d.regEvent a = .write r v ∧ own r (some v) = true ∧ d.regRow a strays own act = d.regTake a r v act := by
  unfold Device.regRow
  split
  · exact .inl rfl
  · rename_i h
    cases strays
    · exact .inl rfl
    · exact .inr (.inl ⟨rfl, h, rfl⟩)
  · rename_i r off low h
    by_cases ho : own r none = true
    · rw [if_pos ho]; exact .inr (.inr (.inl ⟨r, off, low, h, ho, rfl⟩))
    · rw [if_neg ho]; exact .inl rfl
  · rename_i r v h
    by_cases ho : own r (some v) = true
    · rw [if_pos ho]; exact .inr (.inr (.inr ⟨r, v, h, ho, rfl⟩))
    · rw [if_neg ho]; exact .inl rfl

/-! ### Scalar rows (R134) and the packets of classes 0 and 1 (R434, R435) -/

/-- A scalar row is its effect on a running Cox whose guard holds, and nothing otherwise (R134). -/
theorem scalar_cases {cd : Cd} {w : Slot0} {f : Scalar} :
    d.scalar cd w f = d ∨ ∃ c, d.residentOf cd = some c ∧ d.dies[cd].cox.run = .running ∧ d.scalar cd w f = (f w c cd d).1 := by
  unfold Device.scalar
  split
  · exact .inl rfl
  · rename_i c h
    dsimp only
    split
    · rename_i hr; exact .inr ⟨c, h, hr.1, rfl⟩
    · exact .inl rfl

/-- A control row does nothing unless a packet of its class and kind is at the front of its buffer; it then refuses the packet for its
header, or acts. -/
theorem controlPacket_cases {p : PortNo} {k : Packet} {code kind : Nat} {body : Device → Fin 5 → Device} :
    d.controlPacket p k code kind body = d
    ∨ ∃ cls d1, d.takePacket p k = some (cls, d1) ∧ k.code = code ∧ k.kind = kind
      ∧ ((∃ f, d1.headerFault p k = some f ∧ d.controlPacket p k code kind body = d1.refuse p cls k f (d1.packetTag p k))
        ∨ (d1.headerFault p k = none ∧ d.controlPacket p k code kind body = body d1 cls)) := by
  unfold Device.controlPacket
  split
  · exact .inl rfl
  · rename_i cls d1 h
    split
    · exact .inl rfl
    · rename_i hk
      rw [not_or, not_not, not_not] at hk
      refine .inr ⟨cls, d1, h, hk.1, hk.2, ?_⟩
      split
      · rename_i f hf; exact .inl ⟨f, hf, rfl⟩
      · rename_i hf; exact .inr ⟨hf, rfl⟩

/-! ### Companion writes (R171, R359) and register reads (R443) -/

/-- With the link up and no companion line in error, every write lands (R171, R359). -/
theorem companionPut_up {d : Device} (tag : BitVec 16) (ws : Writes) (hu : d.yalkenUp = true) (he : d.mem.errLines = []) :
    d.companionPut tag ws = d.modBytes ws.land := by
  simp [Device.companionPut, Device.goodWrites, hu, he]

/-- With the link down the writes wait behind those that wait already (R359). -/
theorem companionPut_down {d : Device} (tag : BitVec 16) (ws : Writes) (hu : d.yalkenUp = false) :
    d.companionPut tag ws = { d with heldWrites := d.heldWrites ++ ws.map fun w => { dpa := w.1, bytes := w.2, ctx := tag } } := by
  simp [Device.companionPut, hu]

/-- A register read changes the HD's registers alone: the read latch of its path and the data (R443). -/
theorem readAccess_frame (d : Device) (a : RegAccess) : ∃ h : HdRegs, d.readAccess a = { d with hd := h } := by
  simp only [Device.readAccess]
  repeat' split
  all_goals exact ⟨_, rfl⟩

end Sys2Proof.Laws
end

