-- ==== Sys2Proof/WellFormed.lean ====
section
/-! DEFINITION. When a command is well formed: the shapes that the spec gives the data a command carries, where the type of an
operand does not say them. -/

namespace Sys2Proof

/-- A line is 64 bytes (R171). -/
def lineOk (l : List Byte) : Bool := decide (l.length = 64)

/-- What companion software stores before it signals lies in companion memory (R168). -/
def storesOk (cs : List Host.Cell) : Bool :=
  cs.all fun c => decide (0x200000000000 ≤ c.1) && decide (c.1 < 2 ^ 52)

/-- An access to the set-up window: aligned to its size, inside the window, 4 bytes of data in a narrow one, and 4 bytes only on the
sideband (R466, R471). The image path acts only inside start-up (R460). -/
def RegAccess.wf (a : RegAccess) : Bool :=
  (match a.path with
    | .driver => true
    | .board => !a.wide
    | .image => false)
    && decide (a.off.toNat < 0x14000000) && decide (a.off.toNat % (if a.wide then 8 else 4) = 0)
    && (a.wide || decide (a.data.toNat < 2 ^ 32))

/-- A flit carries at most four lines of 64 bytes; an idle flit carries none (R339). -/
def Flit.wf (f : Flit) : Bool :=
  decide (f.lines.length ≤ 4) && (f.lines.all fun l => lineOk l.2) && (!f.idle || f.lines.isEmpty)

/-- A packet is a header line and at most 64 payload lines (R343). -/
def Packet.wf (p : Packet) : Bool :=
  lineOk p.header && decide (p.payload.length ≤ 64) && p.payload.all lineOk

/-- A sample names the power of the sixteen CDs and the temperature words of seventeen dies (R482). -/
def Telemetry.wf (t : Telemetry) : Bool := decide (t.cdPwr.length = 16) && decide (t.temps.length = 17)

/-- The well-formed commands. -/
def Instr.wf : Instr → Bool
  | .strokeIssue _ => true
  | .nopS _ _ => true
  | .add _ _ => true
  | .sub _ _ => true
  | .mul _ _ => true
  | .mulh _ _ => true
  | .divu _ _ => true
  | .remu _ _ => true
  | .andS _ _ => true
  | .orS _ _ => true
  | .xorS _ _ => true
  | .shl _ _ => true
  | .shr _ _ => true
  | .sha _ _ => true
  | .min _ _ => true
  | .max _ _ => true
  | .clz _ _ => true
  | .popc _ _ => true
  | .li _ _ => true
  | .lih _ _ => true
  | .cmpeq _ _ => true
  | .cmpne _ _ => true
  | .cmplt _ _ => true
  | .cmple _ _ => true
  | .cmpltu _ _ => true
  | .cmpleu _ _ => true
  | .plog _ _ => true
  | .movp _ _ => true
  | .sel _ _ => true
  | .rds _ _ => true
  | .rdc _ _ => true
  | .ld64 _ _ => true
  | .ld32 _ _ => true
  | .ld32u _ _ => true
  | .ld16u _ _ => true
  | .st64 _ _ => true
  | .st32 _ _ => true
  | .st16 _ _ => true
  | .ldd64 _ _ => true
  | .ldd32u _ _ => true
  | .std64 _ _ => true
  | .std32 _ _ => true
  | .std16 _ _ => true
  | .br _ _ => true
  | .call _ _ => true
  | .dbnz _ _ => true
  | .waitq _ _ => true
  | .halt _ _ => true
  | .trap _ _ => true
  | .lddErrorResponse _ => true
  | .runComplete _ => true
  | .faultReachesCox _ => true
  | .planStall _ => true
  | .chunk _ _ => true
  | .lastChunkCommit _ _ => true
  | .readout _ _ => true
  | .whiskRun _ => true
  | .elemNop _ _ => true
  | .elemMov _ _ => true
  | .elemAdd _ _ => true
  | .elemSub _ _ => true
  | .elemMul _ _ => true
  | .elemNeg _ _ => true
  | .elemAbs _ _ => true
  | .elemShl _ _ => true
  | .elemShr _ _ => true
  | .elemAnd _ _ => true
  | .elemOr _ _ => true
  | .elemXor _ _ => true
  | .elemNot _ _ => true
  | .elemClt _ _ => true
  | .elemCle _ _ => true
  | .elemCeq _ _ => true
  | .elemSel _ _ => true
  | .elemMax _ _ => true
  | .elemMin _ _ => true
  | .elemClz _ _ => true
  | .ilg _ _ => true
  | .luta _ _ => true
  | .lutb _ _ => true
  | .aln _ _ => true
  | .toi _ _ => true
  | .tof _ _ => true
  | .nfc _ _ => true
  | .tongsMove _ _ => true
  | .weightin _ => true
  | .chunkTilePlace _ => true
  | .mergeBuild _ => true
  | .mergeFeed _ => true
  | .updateSgd _ => true
  | .updateAdamw _ => true
  | .updateInit _ => true
  | .updateRefresh _ => true
  | .accum _ => true
  | .bucketOpen _ => true
  | .bucketClose _ => true
  | .bucketComplete _ _ => true
  | .ladleLineDepart _ _ => true
  | .ladlePayloadArrival _ _ _ => true
  | .upperTreeLineAdd _ _ _ _ _ _ => true
  | .tapNorm _ => true
  | .tapScales _ => true
  | .tapSieve _ => true
  | .sieveComparison _ => true
  | .report _ => true
  | .sync _ _ => true
  | .commandCompletionPoint _ _ => true
  | .commandReleasePoint _ _ => true
  | .startMarker _ => true
  | .readySend _ => true
  | .readyArrival _ _ => true
  | .roundStart _ => true
  | .courseLineArrival _ _ _ => true
  | .pauseArrival _ _ => true
  | .lpddrWheelServe _ _ _ => true
  | .mr4Read _ _ _ => true
  | .packageRecordVerify _ _ _ => true
  | .companionTimeout _ => true
  | .snpinv _ cs => storesOk cs
  | .doorbellWrite off _ cs => decide (off.toNat % 4 = 0) && storesOk cs
  | .signalHoldoffExpiry _ => true
  | .runStart _ => true
  | .planLoad _ => true
  | .planRun _ => true
  | .stepCommit _ => true
  | .segmentHalt _ => true
  | .stepRollback _ => true
  | .lossScaleSet _ => true
  | .adapterRegister _ => true
  | .adapterFetch _ => true
  | .adapterEvict _ => true
  | .adapterUnregister _ => true
  | .adapterPolicy _ => true
  | .slotBind _ => true
  | .slotRelease _ => true
  | .reduceConfig _ => true
  | .reduceFence _ => true
  | .reduceFenceComplete _ => true
  | .reduceAbort _ => true
  | .reduceDigest _ => true
  | .fabricRoute _ => true
  | .contextNop _ => true
  | .contextCreate => true
  | .contextDestroy => true
  | .contextReset => true
  | .unitResetAck _ => true
  | .resetAckTimeout => true
  | .forcedResetRelease _ => true
  | .contextSwitch => true
  | .pauseLimitExpiry _ => true
  | .ringBind => true
  | .ringResume => true
  | .attest => true
  | .keyRelease => true
  | .domainRelease => true
  | .debugUnlock => true
  | .dumpTake => true
  | .unitReadTimeout _ => true
  | .loopSet => true
  | .adminNop => true
  | .adminRingBind a cs => a.wf && storesOk cs
  | .adminRingResume a => a.wf
  | .moduleReset a => a.wf
  | .flashRead a => a.wf
  | .flashProgram a => a.wf
  | .flashErase a => a.wf
  | .flashCommandDone _ => true
  | .loopRegisterWrite a => a.wf
  | .budgetWrite a => a.wf
  | .portEnWrite a => a.wf
  | .counterClearWrite a => a.wf
  | .setupRegisterWrite a => a.wf
  | .setdasa _ _ => true
  | .entdaa _ => true
  | .rstdaa => true
  | .flitTransmit _ => true
  | .flitReceive _ f => f.wf
  | .replayTimeout _ => true
  | .keepaliveTimeout _ => true
  | .portTrainingStep _ _ => true
  | .portTrainingTimeout _ _ => true
  | .backoffExpiry _ => true
  | .negotiationFlit _ _ => true
  | .equaliserAdapt _ _ _ => true
  | .packetArrival _ p => p.wf
  | .messageLanded _ _ _ _ => true
  | .sendEntryDepart _ _ _ => true
  | .nakArrival _ p => p.wf
  | .mcredit _ p => p.wf
  | .ping _ p => p.wf
  | .echo _ p => p.wf
  | .easyAllEntry _ => true
  | .easyAllSignal => true
  | .easyAllExit _ => true
  | .overtemperatureShutdown _ _ => true
  | .inputApplied => true
  | .inputQualified => true
  | .inputUndervoltage => true
  | .inputOvervoltage => true
  | .inputRemoved => true
  | .railPowerGood => true
  | .railSequenceTimeout => true
  | .sequenceRetry => true
  | .entropyFail _ => true
  | .firmwareBoot => true
  | .setupImageApply _ => true
  | .lpddrTrain _ _ _ => true
  | .memoryFillDone => true
  | .courseBringup ls => decide (ls.length ≤ 32)
  | .yalkenTraining _ => true
  | .readyReached => true
  | .yalkenLinkRetrain _ => true
  | .telemetrySample t => t.wf
  | .enec => true
  | .ibi => true
  | .descriptorOpcodeRefused _ => true

end Sys2Proof
end

