-- ==== Sys2Proof/Tests/Slice0.lean ====
section
/-! SUPPORT. Tests: an ill-formed command for each check of WellFormed, worked examples of the spec, and for every statement of
Certificates/Slice0/Obligations.lean states and operands that meet its hypotheses. -/

namespace Sys2Proof.Tests

set_option Elab.async false

open Sys2Proof Sys2Proof.Machine Sys2Proof.Safety

/-! ### Small states -/

/-- A Pantry entry over pages `lo` to `hi` with read and write, domain 0, for a target. -/
def grant (lo hi target : Nat) : BitVec 128 :=
  BitVec.ofNat 128 (lo + hi * 2 ^ 40 + 2 ^ 80 + 2 ^ 81 + target * 2 ^ 90 + 2 ^ 92)

/-- Grants over the first GiB of CD 0's LPDDR5X, its bonded SRAM, and the first GiB of companion memory. -/
def grants : Vector (BitVec 128) 64 :=
  (((Vector.replicate 64 0).set 0 (grant 0 0x3FFFF 0)).set 1 (grant 0x100000000 0x10007FFFF 1)).set 2 (grant 0x200000000 0x20003FFFF 2)

/-- A resident, idle context on CD 0. -/
def ctx : Context where
  tag := 7
  slot := 2
  first := 0
  logM := 0
  quota := 4
  seed := 1
  commitLine := 0x100000000000
  saveArea := 0x1000
  pantry := grants
  portMask := 1
  domains := []
  resident := true

/-- A run of the context that has begun. -/
def run : Run where
  op := 2
  seq := 1
  tally := 0x100000001000
  stop := 0x100000001040
  args := 0x100000001080
  sramWin := false
  attempt := 1
  entry := 0
  begun := true

/-- The context with that run. -/
def ctxRun : Context := { ctx with cond := .running, run := some run }

/-- The module after reset with one context and the die of CD 0. -/
def st (c : Context) (x : Die) : State :=
  { State.reset with dev := { Device.reset with ctxs := [c], dies := (Vector.replicate 16 {}).set 0 x } }

/-- The memories of a device, checked. -/
def memCheck (d : Device) : Bool :=
  let die := fun (x : Die) => x.loc.wf 0 && x.ladle.store.wf 0
  d.mem.bytes.wf 0 && ((List.finRange 16).all fun cd => die d.dies[cd])
    && (d.ctxs.all fun c => (c.saved.getD []).all die) && d.hd.flash.wf 0xFF && d.hd.flashBuf.wf 0

theorem memOk {d : Device} (h : memCheck d = true) : MemoriesOk d := by
  simp only [memCheck, Bool.and_eq_true, List.all_eq_true] at h
  obtain ⟨⟨⟨⟨h1, h2⟩, h3⟩, h4⟩, h5⟩ := h
  refine ⟨h1, fun cd => h2 cd (List.mem_finRange cd), fun c hc ds hds x hx => ?_, h4, h5⟩
  have := h3 c hc x; rw [Option.mem_def.1 hds] at this; exact this hx

/-- An answer that is no error. -/
def isOk {ε α : Type} : Except ε α → Bool
  | .ok _ => true
  | .error _ => false

theorem exists_ok {ε α : Type} {x : Except ε α} (h : isOk x = true) : ∃ r, x = .ok r := by
  cases x with
  | error e => simp [isOk] at h
  | ok r => exact ⟨r, rfl⟩

theorem exists_error {ε α : Type} {x : Except ε α} (h : isOk x = false) : ∃ e, x = .error e := by
  cases x with
  | error e => exact ⟨e, rfl⟩
  | ok r => simp [isOk] at h

theorem exists_ok_with {ε α : Type} {P : α → Bool} {x : Except ε α} (h : (match x with | .ok r => P r | .error _ => false) = true) :
    ∃ r, x = .ok r ∧ P r = true := by
  cases x with
  | error e => simp at h
  | ok r => exact ⟨r, rfl, h⟩

/-- The device after a command. -/
def after (i : Instr) (s : State) : Device :=
  match exec i s with
  | .next t => t.dev
  | _ => s.dev

/-! ### The Cox -/

/-- A running Cox with g1 = 7, g2 = -3 and g3 an address of scratch. -/
def cox : Cox :=
  { ({} : Cox) with
    run := .running
    g := (((Vector.replicate 32 0).set 1 7).set 2 (-3)).set 3 0x100010 }

/-- The die of that Cox with two strokes of code. -/
def die : Die := { cox := cox, codeStrokes := 2 }

/-- A slot-0 word d = 4, a = 1, b = 2, unguarded. -/
def w : Slot0 := { gp := 0, gn := false, d := 4, a := 1, b := 2, i := false, imm := 0 }

/-- The state of the Cox tests. -/
def sc : State := st ctxRun die

/-- The scalar rows run. -/
theorem wit_ScalarRuns : ScalarRunsIn sc 0 w ctxRun := ⟨rfl, rfl, by decide⟩
theorem wit_ScalarArithmetic_quotient : ScalarRuns sc 0 w ∧ secondOperand sc 0 w ≠ 0 := ⟨⟨ctxRun, wit_ScalarRuns⟩, by decide⟩
theorem wit_ScalarArithmetic_zero : ScalarRuns sc 0 { w with b := 0 } ∧ secondOperand sc 0 { w with b := 0 } = 0 :=
  ⟨⟨ctxRun, rfl, rfl, by decide⟩, by decide⟩
theorem wit_Sel : ScalarRuns sc 0 w ∧ w.i = false := ⟨⟨ctxRun, wit_ScalarRuns⟩, rfl⟩
/-- RDS of s1, unmarked and marked. -/
theorem wit_Rds_unmarked : ScalarRuns sc 0 w ∧ sc.dev.dies[(0 : Cd)].cox.pend[(1 : Fin 16)] = 0 := ⟨⟨ctxRun, wit_ScalarRuns⟩, by decide⟩
theorem wit_Rds_marked : let s := st ctxRun { die with cox := { cox with pend := cox.pend.set 1 4 } }
    ScalarRuns s 0 w ∧ s.dev.dies[(0 : Cd)].cox.pend[(1 : Fin 16)] ≠ 0 := ⟨⟨ctxRun, rfl, rfl, by decide⟩, by decide⟩
/-- RDC of the lowest and the highest listed index, and of the rank under a reduction. -/
theorem wit_Rdc_first : ScalarRunsIn sc 0 w ctxRun ∧ w.imm.toNat % 256 = 0 := ⟨wit_ScalarRuns, by decide⟩
theorem wit_Rdc_last : ScalarRunsIn sc 0 { w with imm := 15 } ctxRun ∧ ({ w with imm := 15 } : Slot0).imm.toNat % 256 = 8 + (7 : Fin 8).val :=
  ⟨⟨rfl, rfl, by decide⟩, by decide⟩
theorem wit_Rdc_rank : let c : Context := { ctxRun with reduce := some { modules := 4, rank := 3, epoch := 0, treeFd := 0, log := 0, logEntries := 1 } }
    ScalarRunsIn (st c die) 0 { w with imm := 5 } c ∧ c.reduce = some ⟨4, 3, 0, 0, 0, 1⟩ ∧ ({ w with imm := 5 } : Slot0).imm.toNat % 256 = 5 :=
  ⟨⟨rfl, rfl, by decide⟩, rfl, by decide⟩
/-- A guard that does not hold: p1 is clear. -/
theorem wit_NoGuard : pRead sc 0 ({ w with gp := 1 } : Slot0).gp.val = ({ w with gp := 1 } : Slot0).gn := by decide

/-- A load or store word at an address: a = 0, the address in the immediate. -/
def at' (a : BitVec 36) : Slot0 := { w with a := 0, i := true, imm := a }
theorem runs_at' (a : BitVec 36) : ScalarRunsIn sc 0 (at' a) ctxRun := ⟨rfl, rfl, ⟨rfl, rfl⟩, by show pRead sc 0 0 ≠ false; decide⟩
/-- The last aligned addresses inside, for each width, and the first one outside. -/
theorem wit_LocalLoads_8 : (at' 0x13FFF8).i = true ∧ localAddress sc 0 (at' 0x13FFF8) < 0x140000 ∧ localAddress sc 0 (at' 0x13FFF8) % 8 = 0 := by decide
theorem wit_LocalLoads_4 : localAddress sc 0 (at' 0x13FFFC) < 0x140000 ∧ localAddress sc 0 (at' 0x13FFFC) % 4 = 0 := by decide
theorem wit_LocalLoads_2 : localAddress sc 0 (at' 0x13FFFE) < 0x140000 ∧ localAddress sc 0 (at' 0x13FFFE) % 2 = 0 := by decide
theorem wit_MemoriesOk : MemoriesOk sc.dev := memOk (by decide)
theorem wit_LocalStores_first : 0x100000 ≤ localAddress sc 0 (at' 0x100000) ∧ localAddress sc 0 (at' 0x100000) < 0x140000 ∧ localAddress sc 0 (at' 0x100000) % 8 = 0 := by decide
theorem wit_LocalStores_last : 0x100000 ≤ localAddress sc 0 (at' 0x13FFFE) ∧ localAddress sc 0 (at' 0x13FFFE) < 0x140000 ∧ localAddress sc 0 (at' 0x13FFFE) % 2 = 0 := by decide
theorem wit_LocalFaults_above : 0x140000 ≤ localAddress sc 0 (at' 0x140000) := by decide
theorem wit_LocalFaults_plan_store : localAddress sc 0 (at' 0xFFFF8) < 0x100000 := by decide
theorem wit_LocalFaults_misaligned : 0x100000 ≤ localAddress sc 0 (at' 0x13FFFF) ∧ localAddress sc 0 (at' 0x13FFFF) < 0x140000
    ∧ localAddress sc 0 (at' 0x13FFFF) % 2 ≠ 0 := by decide
theorem wit_CoxFault : sc.dev.ctxAt ctxRun.slot = some ctxRun := rfl
/-- The last line of the own bonded SRAM window is admitted for reading and writing. -/
def sramEnd : State := st ctxRun { die with cox := { cox with g := cox.g.set 1 0x10007FFFFFF8 } }
def wSram : Slot0 := { w with i := true }
theorem wit_Sram_address : sramOf 0 ≤ localAddress sramEnd 0 wSram ∧ localAddress sramEnd 0 wSram < sramOf 0 + 0x80000000
    ∧ localAddress sramEnd 0 wSram % 8 = 0 ∧ sramEnd.dev.mem.ueWords.contains (localAddress sramEnd 0 wSram / 8) = false := by decide
theorem wit_Sram_load : ScalarRunsIn sramEnd 0 wSram ctxRun ∧ wSram.i = true
    ∧ ∃ i, sramEnd.dev.allowed ctxRun 0 .cox false (localAddress sramEnd 0 wSram / 64 * 64) = .ok i := ⟨⟨rfl, rfl, by decide⟩, rfl, 1, by decide +kernel⟩
theorem wit_Sram_store : MemoriesOk sramEnd.dev ∧ ScalarRunsIn sramEnd 0 wSram ctxRun
    ∧ ∃ i, sramEnd.dev.allowed ctxRun 0 .cox true (localAddress sramEnd 0 wSram / 64 * 64) = .ok i := ⟨memOk (by decide), ⟨rfl, rfl, by decide⟩, 1, by decide +kernel⟩
/-- A branch to the last stroke of the code, and a register target one past it. -/
theorem wit_Branch : ScalarRuns sc 0 (at' 1) ∧ (BitVec.ofInt 64 (at' 1).imm.toInt).toNat < sc.dev.dies[(0 : Cd)].codeStrokes := ⟨⟨ctxRun, runs_at' 1⟩, by decide⟩
/-- A CALL whose target register is the one it writes. -/
theorem wit_Call : let w' : Slot0 := { w with d := 1 }
    ScalarRuns sc 0 w' ∧ (gRead (withG sc 0 1 1 1) 0 w'.a).toNat < sc.dev.dies[(0 : Cd)].codeStrokes := ⟨⟨ctxRun, rfl, rfl, by decide⟩, by decide⟩
theorem wit_Dbnz_last : let s := st ctxRun { die with cox := { cox with g := cox.g.set 4 1 } }
    ScalarRuns s 0 (at' 1) ∧ gRead s 0 (at' 1).d - 1 = 0 := ⟨⟨ctxRun, rfl, rfl, by decide⟩, by decide⟩
theorem wit_Dbnz_zero : let w' : Slot0 := { at' 1 with d := 0 }
    ScalarRuns sc 0 w' ∧ gRead sc 0 w'.d - 1 ≠ 0 := ⟨⟨ctxRun, rfl, rfl, by decide⟩, by decide⟩
theorem wit_Dbnz_again : (at' 1).i = true ∧ gRead sc 0 (at' 1).d - 1 ≠ 0 ∧ (at' 1).d ≠ 0 := by decide
theorem wit_Branch_outside : let s := st ctxRun { die with cox := { cox with g := cox.g.set 1 2 } }
    ScalarRunsIn s 0 w ctxRun ∧ w.i = false ∧ s.dev.dies[(0 : Cd)].codeStrokes ≤ (gRead s 0 w.a).toNat
      ∧ s.dev.dies[(0 : Cd)].codeStrokes ≤ (gRead (withG s 0 w.d (BitVec.ofNat 64 (s.dev.dies[(0 : Cd)].cox.pc.toNat + 1)) 1) 0 w.a).toNat :=
  ⟨⟨rfl, rfl, by decide⟩, rfl, by decide, by decide⟩

/-! Issue and stops. -/

/-- An ADD of g1 and g2 into g4, and a CHUNK for MA0, as stroke words. -/
def addWord : Nat := 1 + 4 * 2 ^ 12 + 1 * 2 ^ 17 + 2 * 2 ^ 22
/-- A code section of one stroke: the words of slots 0 and 1, and the valid bits of its header. -/
def code (valid : Nat) : Memory :=
  memStore 0 (memStore 0 (memStore 0 [] 0 (bytesLE 8 addWord)) 8 (bytesLE 8 1)) 56 (bytesLE 8 (1 + 256 * valid))
def sIssue (valid : Nat) : State := st ctxRun { die with loc := code valid, depth := Vector.replicate 12 1 }
theorem issues (v : Nat) : CoxIssues (sIssue v) 0 ctxRun := ⟨⟨rfl, rfl, rfl, rfl, rfl⟩, rfl, Nat.le_refl 0, rfl, by simp [sIssue, st, die, cox]⟩
theorem wit_EmptyStroke : CoxIssues (sIssue 0) 0 ctxRun ∧ (strokeWord (sIssue 0) 0 0 7 / 256) % 128 = 0 := ⟨issues 0, by decide⟩
theorem wit_SlotZero : CoxIssues (sIssue 1) 0 ctxRun ∧ (strokeWord (sIssue 1) 0 0 7 / 256) % 128 = 1 ∧ strokeWord (sIssue 1) 0 0 0 = addWord := ⟨issues 1, by decide, by decide⟩
theorem wit_SlotZero_word : addWord % 256 = 1 ∧ (addWord / 2 ^ 27) % 2 = 0 ∧ pRead (sIssue 1) 0 (addWord / 2 ^ 8) = decide ((addWord / 2 ^ 11) % 2 = 0)
    ∧ cox.ready[idx 32 (addWord / 2 ^ 17)] ≤ cox.now ∧ cox.ready[idx 32 (addWord / 2 ^ 22)] ≤ cox.now := by decide
theorem wit_EngineCommand : CoxIssues (sIssue 2) 0 ctxRun ∧ (strokeWord (sIssue 2) 0 0 7 / 256) % 128 = 2 ^ 1 ∧ strokeWord (sIssue 2) 0 0 1 / 2 ^ 16 % 2 = 0
    ∧ pRead (sIssue 2) 0 (strokeWord (sIssue 2) 0 0 1 / 2 ^ 6) = decide (strokeWord (sIssue 2) 0 0 1 / 2 ^ 9 % 2 = 0) ∧ cox.landed ≤ cox.now
    ∧ ([] : List QEntry).length < (sIssue 2).dev.dies[(0 : Cd)].depth[(0 : QueueId)] ∧ sNamed (sIssue 2) 0 1 1 = [] := ⟨issues 2, by decide, by decide, by decide, by decide, by decide, by decide⟩
/-- A Whisk RUN in slot 2 that names s3, in summary mode with s_base 14 or not: it writes s3, and s14, s15, s0, s1 and s2. -/
def slotWord : Nat := 1 + 3 * 2 ^ 12 + 2 ^ 16 + 2 * 2 ^ 42
def sSlot2 (mode : Nat) : State := st ctxRun { die with depth := Vector.replicate 12 1, codeStrokes := 1, loc := memStore 0 (memStore 0 (memStore 0 (memStore 0 [] 16 (bytesLE 8 slotWord)) 56 (bytesLE 8 (1 + 256 * 4))) 132 (bytesLE 4 256)) 258 (bytesLE 8 (mode + 14 * 2 ^ 56)) }
theorem wit_EngineCommand_slot2 : CoxIssues (sSlot2 1) 0 ctxRun ∧ (∀ mode ∈ [0, 1], (strokeWord (sSlot2 mode) 0 0 7 / 256) % 128 = 2 ^ 2 ∧ strokeWord (sSlot2 mode) 0 0 2 = slotWord)
    ∧ sNamed (sSlot2 0) 0 2 slotWord = [3] ∧ sNamed (sSlot2 1) 0 2 slotWord = [3, 14, 15, 0, 1, 2]
    ∧ (∀ r ∈ sNamed (sSlot2 1) 0 2 slotWord, (sSlot2 1).dev.dies[(0 : Cd)].cox.pend[r] = 0) ∧ pRead (sSlot2 1) 0 (slotWord / 2 ^ 6) = decide (slotWord / 2 ^ 9 % 2 = 0) :=
  ⟨⟨⟨rfl, rfl, rfl, rfl, rfl⟩, rfl, Nat.le_refl 0, rfl, by simp [sSlot2, st, die, cox]⟩, by decide, by decide, by decide, by decide, by decide⟩
/-- An LDD64 of the first line of the own bonded SRAM in slot 0 that issues, accesses that come due, and a resume lead. -/
def lddWord : Nat := 0x38 + 4 * 2 ^ 12 + 1 * 2 ^ 17 + 2 ^ 27
def sLdd (k : Cox) : State := st ctxRun { die with cox := { k with g := k.g.set 1 0x100000000000 }, codeStrokes := 2, loc := memStore 0 (memStore 0 [] 0 (bytesLE 8 lddWord)) 56 (bytesLE 8 (1 + 256)) }
theorem wit_Access_issue : let s := sLdd cox
    let w := slot0Of (strokeWord s 0 0 0)
    CoxIssues s 0 ctxRun ∧ strokeWord s 0 0 7 / 256 % 128 = 1 ∧ strokeWord s 0 0 0 % 256 = 0x38 ∧ w.i = true ∧ pRead s 0 w.gp.val ≠ w.gn
      ∧ localAddress s 0 w = 0x100000000000 ∧ w.d ≠ 0 ∧ s.dev.allowed ctxRun 0 .cox false 0x100000000000 = .ok 1 := by
  refine ⟨⟨⟨rfl, rfl, rfl, rfl, rfl⟩, rfl, Nat.le_refl 0, rfl, by simp [sLdd, st, die, cox]⟩, ?_, ?_, ?_, ?_, ?_, ?_, ?_⟩
  case refine_7 =>
    have h : (match (sLdd cox).dev.allowed ctxRun 0 .cox false 0x100000000000 with | .ok r => decide (r = 1) | .error _ => false) = true := by decide +kernel
    revert h
    cases (sLdd cox).dev.allowed ctxRun 0 .cox false 0x100000000000 with
    | error e => simp
    | ok r => intro h; rw [of_decide_eq_true h]
  all_goals decide +kernel
def load (due : Nat) (store : Option (List Byte) := none) : BusOp := ⟨due, 0x100000000000, 8, 0, store, 4, 0⟩
theorem wit_Access_due : (∀ store ∈ [none, some (zeros 8)], let d := (sLdd { cox with bus := [load 19 store] }).dev
      d.dies[(0 : Cd)].cox.bus = [load 19 store] ∧ sramOf 0 ≤ (load 19 store).dpa.toNat ∧ (load 19 store).dpa.toNat + 8 ≤ sramOf 0 + 0x80000000
        ∧ d.dataCode 0x100000000000 8 = none) ∧ MemoriesOk (sLdd { cox with bus := [load 19] }).dev ∧ (zeros 8).length = 8 := by
  refine ⟨?_, memOk ?_, ?_⟩ <;> decide +kernel
/-- A Course whose lead after a resume at round 1 is still to pass. -/
def sLead : State :=
  let p : Plan := { image := 0, bytes := 0, planId := 0, m := 1, entry := 0, crc := 0, phases := [⟨4096, 0, 2, 1, 0, 0, 0, 0⟩] }
  st { ctxRun with plan := some p } { die with course := { ({} : Course) with counter := some 4096, round := 1, readyNo := 2, lead := some 1 } }
theorem wit_Lead : let c : Context := sLead.dev.ctxs.getD 0 ctxRun
    sLead.dev.residentOf 0 = some c ∧ sLead.dev.dies[(0 : Cd)].cox.run ≠ .idle ∧ sLead.dev.preempting c = false ∧ c.held = false ∧ sLead.dev.inLead c 0 = true
      ∧ sc.dev.inLead ctxRun 0 = false := by decide +kernel
theorem wit_Bubble : let s := st ctxRun { die with cox := { cox with bubble := 1 } }
    s.dev.residentOf 0 = some ctxRun ∧ s.dev.dies[(0 : Cd)].cox.run = .running ∧ s.dev.preempting ctxRun = false ∧ ctxRun.held = false
      ∧ s.dev.inLead ctxRun 0 = false ∧ s.dev.dies[(0 : Cd)].cox.bus = []
      ∧ s.dev.dies[(0 : Cd)].cox.fell = false ∧ s.dev.dies[(0 : Cd)].cox.now < s.dev.dies[(0 : Cd)].cox.bubble := ⟨rfl, rfl, rfl, rfl, rfl, rfl, rfl, by decide⟩
theorem wit_EasyAllCycle : let c : Context := { ctxRun with held := true }
    (st c die).dev.residentOf 0 = some c ∧ (st c die).dev.dies[(0 : Cd)].cox.run = .running ∧ (st c die).dev.preempting c = false ∧ c.held = true :=
  ⟨rfl, rfl, rfl, rfl⟩
theorem wit_LddError : let s := st ctxRun { die with cox := { cox with loadErr := some ⟨0, 0x100000000000, 5⟩ } }
    s.dev.residentOf 0 = some ctxRun ∧ s.dev.ctxAt ctxRun.slot = some ctxRun ∧ s.dev.dies[(0 : Cd)].cox.loadErr = some ⟨0, 0x100000000000, 5⟩ := ⟨rfl, rfl, rfl⟩
/-- A HALT that waits, with and without a command before it. -/
def halting (q : List QEntry) : State :=
  st ctxRun { die with cox := { cox with run := .haltWait, waiting := some (0b111111, 1) }, queues := (Vector.replicate 12 []).set 0 q }
theorem wit_Halt_done : (halting []).dev.residentOf 0 = some ctxRun ∧ ctxRun.run = some run ∧ (halting []).dev.dies[(0 : Cd)].cox.waiting = some (0b111111, 1)
    ∧ (halting []).dev.preempting ctxRun = false ∧ ctxRun.held = false ∧ ((halting []).dev.dies[(0 : Cd)].waitedFor 0b111111 1).isEmpty = true :=
  ⟨rfl, rfl, rfl, rfl, rfl, by decide⟩
theorem wit_Halt_waits : ((halting [{ word := 1, ga := 0, gb := 0, imm := 0, no := 0 }]).dev.dies[(0 : Cd)].waitedFor 0b111111 1).isEmpty = false := by decide
/-- A record of another Cox's fault. -/
def errRec : ErrRec := ⟨0, 5, false, true, 2, 7, 0, 0, 0⟩
theorem wit_FaultReaches : let s := st ctxRun { die with faultDue := some errRec }
    s.dev.residentOf 0 = some ctxRun ∧ s.dev.dies[(0 : Cd)].faultDue = some errRec ∧ ctxRun.run.isSome := ⟨rfl, rfl, rfl⟩
def stalled (told : Bool) : State :=
  st ctxRun { die with cox := { cox with stallItem := 5, stallSlot := 1, creditRun := 2, stallTold := told }, bound := Vector.replicate 12 1 }
theorem wit_PlanStall : let x := (stalled false).dev.dies[(0 : Cd)]
    (stalled false).dev.residentOf 0 = some ctxRun ∧ x.cox.run = .running ∧ x.cox.stallItem = 5 ∧ x.bound[x.stalledQueue] ≠ 0
      ∧ x.bound[x.stalledQueue] < x.cox.creditRun ∧ x.cox.stallTold = false := ⟨rfl, rfl, rfl, by decide, by decide, rfl⟩
theorem wit_PlanStall_told : let x := (stalled true).dev.dies[(0 : Cd)]
    (stalled true).dev.residentOf 0 = some ctxRun ∧ x.cox.run = .running ∧ x.cox.stallItem = 5 ∧ x.cox.stallTold = true := ⟨rfl, rfl, rfl, rfl⟩

/-! ### Engine commands -/

/-- A queue entry with a command word. -/
def entry (word : Nat) : QEntry := { word := BitVec.ofNat 64 word, ga := 0, gb := 0, imm := 0, no := 1 }

/-- A command word with an opcode and flags that names the record at 64 of the plan store. -/
def cmdWord (op flags : Nat) : Nat := op + 2 ^ 42 + flags * 2 ^ 56

/-- A record: 8-byte words from offset 0. -/
def record (ws : List Nat) : List Byte := ws.flatMap (bytesLE 8)

/-- A context that runs on CD 0 with one command at the head of a queue and its record; `f` sets what else the die holds. -/
def eng (q : QueueId) (word : Nat) (ws : List Nat) (f : Die → Die := id) : State :=
  st ctxRun (f { die with loc := memStore 0 [] 64 (record ws), queues := (Vector.replicate 12 []).set q [entry word] })

/-- An MA with a 16-bit tile, whose buffer 1 may hold a tile. -/
def ma (t : Tile) (ready : Nat := 0) : Ma := { weights := [⟨true, 128, false, [], []⟩], bufs := (Vector.replicate 2 {}).set 1 t, order := ready }

/-- A first and a later CHUNK of one row and one column of BF16 pairs, from the first line of the own bonded SRAM. -/
def sChunk (flags : Nat) (t : Tile) : State := eng 0 (cmdWord 1 flags) [0x4400, 0x100000000000] fun x => { x with mas := Vector.replicate 4 (ma t) }
theorem wit_Chunk : let s := sChunk 1 {}
    let x := s.dev.dies[(0 : Cd)]
    let cmd := x.chunkCmd (entry (cmdWord 1 1))
    Starts s 0 (idx 12 0) 1 ctxRun (entry (cmdWord 1 1)) ∧ fmtOf (cmd.pair % 16) = some .bf16 ∧ fmtOf (cmd.pair / 16 % 16) = some .bf16
      ∧ pairDepth .bf16 .bf16 = some 128 ∧ 1 ≤ cmd.k ∧ cmd.k ≤ 128 ∧ x.mas[(0 : MaNo)].tileFor .bf16 = some ⟨true, 128, false, [], []⟩
      ∧ cmd.first = true ∧ x.mas[(0 : MaNo)].bufs[(0 : Fin 2)].state = 0 ∧ x.sieve.arms[(0 : MaNo)] = none ∧ x.sieve.sample = none
      ∧ s.dev.readRows ctxRun 0 .ma ((List.range cmd.m).map fun i => (wrap52 (cmd.src + i * cmd.stride), cmd.k * Fmt.bf16.width / 8)) 0 = .ok [[0, 0]] := by
  unfold Starts; decide +kernel
theorem wit_Chunk_later : let s := sChunk 0 { state := 1, pair := 0x44 }
    let x := s.dev.dies[(0 : Cd)]
    let cmd := x.chunkCmd (entry (cmdWord 1 0))
    let old := x.mas[(0 : MaNo)].bufs[x.mas[(0 : MaNo)].last]
    Starts s 0 (idx 12 0) 1 ctxRun (entry (cmdWord 1 0)) ∧ cmd.first = false ∧ old.state = 1 ∧ cmd.anchor = old.anchor ∧ cmd.pair = old.pair.toNat
      ∧ cmd.m = old.rows.toNat + 1 := by
  unfold Starts; decide +kernel
theorem wit_LastChunk : let m := ma { state := 1, lastDone := true }
    m.bufs[(1 : Fin 2)].lastDone = true ∧ m.bufs[(1 : Fin 2)].state = 1 ∧ ∀ o : Fin 2, o ≠ 1 → m.bufs[o].lastDone = true → m.bufs[o].state = 1 → m.bufs[(1 : Fin 2)].order < m.bufs[o].order := by decide
/-- Both buffers wait for their commit, and buffer 1 was closed first. -/
theorem wit_LastChunk_both : let t : Tile := { state := 1, lastDone := true, order := 1 }
    let m : Ma := { ma t with bufs := #v[{ t with order := 2 }, t] }
    m.bufs[(1 : Fin 2)].lastDone = true ∧ ∀ o : Fin 2, o ≠ 1 → m.bufs[o].lastDone = true → m.bufs[o].state = 1 → m.bufs[(1 : Fin 2)].order < m.bufs[o].order := by decide
/-- An INT32 READOUT of one row of zero elements, and a BF16 one. -/
def readyTile : Tile := { state := 2, elems := List.replicate 128 {} }
def sRead (flags : Nat) : State := eng 0 (cmdWord 2 0) [flags * 2 ^ 16, 0x100000000000] fun x => { x with mas := Vector.replicate 4 (ma readyTile 1) }
theorem wit_Readout_int32 : let s := sRead 0x40
    let x := s.dev.dies[(0 : Cd)]
    Starts s 0 (idx 12 0) 2 ctxRun (entry (cmdWord 2 0)) ∧ x.mas[(0 : MaNo)].oldestReady = some 1 ∧ (∀ r ∈ x.intRows, r.ma ≠ 0)
      ∧ (x.outCmd (entry (cmdWord 2 0))).int32 = true ∧ x.mas[(0 : MaNo)].bufs[(1 : Fin 2)].elems.length = 128
      ∧ ∀ a ∈ x.mas[(0 : MaNo)].bufs[(1 : Fin 2)].elems, a.nf = 0 := by
  unfold Starts; decide +kernel
theorem wit_Readout : let s := sRead 4
    let x := s.dev.dies[(0 : Cd)]
    let cmd := x.outCmd (entry (cmdWord 2 0))
    Starts s 0 (idx 12 0) 2 ctxRun (entry (cmdWord 2 0)) ∧ x.mas[(0 : MaNo)].oldestReady = some 1 ∧ (∀ r ∈ x.intRows, r.ma ≠ 0) ∧ cmd.int32 = false
      ∧ fmtOf cmd.fmt = some .bf16 ∧ cmd.mode ≠ 3
      ∧ (let d := s.dev.enterReadout 0 0 1 x.mas[(0 : MaNo)].bufs[(1 : Fin 2)]
        d.outVector ctxRun 0 cmd 0 cmd.rsc 1 = .ok [] ∧ d.outVector ctxRun 0 cmd 1 cmd.csc 128 = .ok [] ∧ d.outVector ctxRun 0 cmd 2 cmd.bias 128 = .ok []) := by
  unfold Starts; decide +kernel
theorem wit_Readout_rows : let s := sRead 4
    let x := s.dev.dies[(0 : Cd)]
    let cmd := x.outCmd (entry (cmdWord 2 0))
    let d := s.dev.enterReadout 0 0 1 readyTile
    x.mas[(0 : MaNo)].bufs[(1 : Fin 2)] = readyTile
    ∧ ∃ r, Device.outRows ctxRun 0 0 (cdIsland 0 2 0) cmd .bf16 readyTile ⟨[], [], [], [], cmd.act, if cmd.act = 4 then x.planBytes cmd.tab 1032 else []⟩
      (d.stepNo ctxRun) (List.range 1) d = .ok r := ⟨by decide +kernel, exists_ok (by decide +kernel)⟩


/-- A context that CONTEXT_SWITCH is taking out, whose Course has a round to go before its pause. -/
def ctxStops : Context :=
  { ctxRun with logM := 1, plan := some { image := 0, bytes := 0, planId := 0, m := 2, entry := 0, crc := 0, phases := [⟨4096, 0, 1, 1, 0xFFFFF, 0xFFFFF, 0xFFFFF, 0⟩] } }
/-- A command at the head of a queue of that context. -/
def stops (q : QueueId) (e : QEntry) (ws : List Nat) (f : Die → Die := id) : State :=
  let s := st ctxStops (f { die with
    loc := memStore 0 [] 64 (record ws), queues := (Vector.replicate 12 []).set q [e], course := { ({} : Course) with counter := some 0, pause := some 1 } })
  { s with dev := { s.dev with yalkenUp := true, switching := some { out := 7, inn := 0, seq := 1 } } }
/-- A READOUT of two rows that starts, or goes on at its second row, while its context is being stopped. -/
def twoRows : Tile := { state := 2, rows := 1, elems := List.replicate 256 {} }
def sStopRead (row : Nat) : State :=
  stops 0 { entry (cmdWord 2 0) with started := decide (row ≠ 0), cut := decide (row ≠ 0) } [4 * 2 ^ 16, 0x100000000000] fun x =>
    { x with mas := Vector.replicate 4 (ma { twoRows with state := if row = 0 then 2 else 3, readoutRow := BitVec.ofNat 8 row } 1) }
theorem wit_Readout_stopped (row : Fin 2) : let s := sStopRead row.val
    let x := s.dev.dies[(0 : Cd)]
    let e : QEntry := { entry (cmdWord 2 0) with started := decide (row.val ≠ 0), cut := decide (row.val ≠ 0) }
    let cmd := x.outCmd e
    let t := x.mas[(0 : MaNo)].bufs[(1 : Fin 2)]
    let d0 := if e.started then s.dev else s.dev.enterReadout 0 0 1 t
    Starts s 0 (idx 12 0) 2 ctxStops e ∧ s.dev.stopping ctxStops = true ∧ x.mas[(0 : MaNo)].readBuf e = some 1 ∧ (∀ r ∈ x.intRows, r.ma ≠ 0) ∧ cmd.int32 = false
      ∧ fmtOf cmd.fmt = some .bf16 ∧ cmd.mode ≠ 3 ∧ (if e.started then t.readoutRow.toNat else 0) = row.val ∧ row.val < t.rows.toNat + 1
      ∧ d0.outVector ctxStops 0 cmd 0 cmd.rsc 2 = .ok [] ∧ d0.outVector ctxStops 0 cmd 1 cmd.csc 128 = .ok [] ∧ d0.outVector ctxStops 0 cmd 2 cmd.bias 128 = .ok []
      ∧ ∃ r, Device.outRows ctxStops 0 0 (cdIsland 0 2 0) cmd .bf16 t ⟨[], [], [], [], cmd.act, if cmd.act = 4 then x.planBytes cmd.tab 1032 else []⟩
        (d0.stepNo ctxStops) [row.val] d0 = .ok r := by
  refine ⟨?_, ?_, ?_, ?_, ?_, ?_, ?_, ?_, ?_, ?_, ?_, ?_, exists_ok ?_⟩
  all_goals (try unfold Starts); revert row; decide +kernel

/-! Element instructions and the Whisk. -/

/-- A raw and a block register of one block. -/
def rawReg : EReg := ⟨true, true, [⟨0, List.replicate 32 5, List.replicate 32 0⟩]⟩
def blockReg : EReg := ⟨false, true, [⟨1, List.replicate 32 3, List.replicate 32 0⟩]⟩
def sElem (a b c : EReg) : State := st ctxRun { die with whisk := { v := (((Vector.replicate 16 {}).set 1 a).set 2 b).set 3 c } }
def ew : ElemWord := ⟨0, 1, 2, 3⟩
theorem wit_Raw : Blocks rawReg true 1 := ⟨rfl, rfl, rfl, by decide⟩
theorem wit_Block : Blocks blockReg false 1 := ⟨rfl, rfl, rfl, by decide⟩
theorem wit_RawElements (r : EReg) : let v := (sElem rawReg rawReg r).dev.dies[(0 : Cd)].whisk.v
    Blocks v[ew.va] true 1 ∧ Blocks v[ew.vb] true 1 := ⟨wit_Raw, wit_Raw⟩
theorem wit_RawSel : Blocks (sElem rawReg rawReg blockReg).dev.dies[(0 : Cd)].whisk.v[ew.vc] false 1
    ∧ Blocks (sElem rawReg rawReg rawReg).dev.dies[(0 : Cd)].whisk.v[ew.vc] true 1 := ⟨wit_Block, wit_Raw⟩
theorem wit_BlockElements (r : EReg) : let v := (sElem blockReg blockReg r).dev.dies[(0 : Cd)].whisk.v
    Blocks v[ew.va] false 1 ∧ Blocks v[ew.vb] false 1 := ⟨wit_Block, wit_Block⟩
theorem wit_BlockShift : let v := (sElem blockReg rawReg rawReg).dev.dies[(0 : Cd)].whisk.v
    Blocks v[ew.va] false 1 ∧ Blocks v[ew.vb] true 1 := ⟨wit_Block, wit_Raw⟩
theorem wit_BlockSel : Blocks (sElem blockReg blockReg blockReg).dev.dies[(0 : Cd)].whisk.v[ew.vc] false 1
    ∧ Blocks (sElem blockReg blockReg rawReg).dev.dies[(0 : Cd)].whisk.v[ew.vc] true 1 := ⟨wit_Block, wit_Raw⟩
/-- A summary RUN of one BF16 element from the first line of the own bonded SRAM to the second. -/
def sSummary : State :=
  eng 4 (cmdWord 1 0) [0x800 * 2 ^ 32, 1 + 2 ^ 32, 1, 0, 0x100000000000, 4, 0, 0, 0, 0, 0, 0, 0x100000000040, 4, 0, 0, 0, 0, 0, 0] fun x =>
    { x with loc := memStore 0 x.loc 0x800 (bytesLE 8 (5 + 2 ^ 16 + 0x11 * 2 ^ 24)) }
theorem wit_Summary : let x := sSummary.dev.dies[(0 : Cd)]
    let e := entry (cmdWord 1 0)
    let w := x.whiskCmd (cwRec e.w) e.ga.toNat
    Starts sSummary 0 4 1 ctxRun e ∧ w.prog.mode = 1 ∧ w.prog.k = 1 ∧ w.prog.o = 1
      ∧ (∀ i ∈ w.ins, i.src ≠ 0 → (x.rowsOf (i.src - 1) false).isSome) ∧ sSummary.dev.sourceFault 0 w = none ∧ w.overlap = none := by
  unfold Starts; decide +kernel
theorem wit_Summary_runs : let x := sSummary.dev.dies[(0 : Cd)]
    let e := entry (cmdWord 1 0)
    let w := x.whiskCmd (cwRec e.w) e.ga.toNat
    let p := w.prog
    ∃ r, overGroups (WRun.plainGroup ctxRun 0 w (sSummary.dev.stepNo ctxRun) (fun i => if i.src = 0 then none else x.rowsOf (i.src - 1) false)
      (x.lookTable p.tabA) (x.lookTable p.tabB)) w.groups
      { d := sSummary.dev, rows := List.replicate (p.k + p.o) {}, pend := List.replicate (p.k + p.o) [], v := Vector.replicate 16 {} } = .ok r ∧ (r.v[p.sumSrc].raw == false) = true := by
  intro x e w p; exact exists_ok_with (P := fun r : WRun => r.v[p.sumSrc].raw == false) (by decide +kernel)

/-- A plain RUN of 513 elements that starts, or goes on at its second group, while its context is being stopped. -/
def eRun (g : Nat) : QEntry := { entry (cmdWord 1 0) with started := decide (g ≠ 0), cut := decide (g ≠ 0) }
def sStopRun (g : Nat) : State :=
  stops 4 (eRun g) [0x800 * 2 ^ 32, 513 + 2 ^ 32, 1, 0, 0x100000000000, 4, 0, 0, 0, 0, 0, 0, 0x100000001000, 4, 0, 0, 0, 0, 0, 0] fun x =>
    { x with loc := memStore 0 x.loc 0x800 (bytesLE 8 (5 + 0x11 * 2 ^ 24)), whisk := { x.whisk with groups := BitVec.ofNat 32 g } }
def firstRun (g : Nat) : WRun :=
  let x := (sStopRun g).dev.dies[(0 : Cd)]
  let p := (x.whiskCmd (cwRec (eRun g).w) (eRun g).ga.toNat).prog
  if g = 0 then { d := (sStopRun g).dev, rows := List.replicate (p.k + p.o) {}, pend := List.replicate (p.k + p.o) [], v := Vector.replicate 16 {} }
  else { d := (sStopRun g).dev, rows := List.replicate p.k {} ++ x.whisk.reds.toList.take p.o, pend := x.whisk.work.pend, sum := x.whisk.reds[4], v := x.whisk.v }
theorem wit_Run_stopped (g : Fin 2) : let s := sStopRun g.val
    let x := s.dev.dies[(0 : Cd)]
    let w := x.whiskCmd (cwRec (eRun g.val).w) (eRun g.val).ga.toNat
    Starts s 0 4 1 ctxStops (eRun g.val) ∧ s.dev.stopping ctxStops = true ∧ w.prog.mode ≤ 1 ∧ g.val + 1 < w.groups.length
      ∧ x.whisk.groups.toNat = g.val ∧ (∀ i ∈ w.ins, i.src ≠ 0 → (x.rowsOf (i.src - 1) false).isSome) ∧ s.dev.sourceFault 0 w = none ∧ (cwGa (eRun g.val).w ≠ 0 → w.overlap = none) := by
  refine ⟨?_, ?_, ?_, ?_, ?_, ?_, ?_, ?_⟩
  all_goals (try unfold Starts); revert g; decide +kernel
theorem wit_Run_group (g : Fin 2) : let s := sStopRun g.val
    let x := s.dev.dies[(0 : Cd)]
    let w := x.whiskCmd (cwRec (eRun g.val).w) (eRun g.val).ga.toNat
    isOk (WRun.plainGroup ctxStops 0 w (s.dev.stepNo ctxStops) (fun i => if i.src = 0 then none else x.rowsOf (i.src - 1) false)
      (x.lookTable w.prog.tabA) (x.lookTable w.prog.tabB) (w.groups.getD g.val []) (firstRun g.val)) = true := by
  revert g; decide +kernel

/-! The Tongs and the Mixer. -/

theorem ok_of {ε α : Type} [DecidableEq α] {x : Except ε α} {v : α} (h : (match x with | .ok r => decide (r = v) | .error _ => false) = true) : x = .ok v := by
  cases x with
  | error e => simp at h
  | ok r => simp at h; rw [h]

/-- A device whose Yalken link is up. -/
def up (s : State) : State := { s with dev := { s.dev with yalkenUp := true } }

/-- The line conditions of a MOVE, checked. -/
theorem moveReads_of {s : State} {c : Context} {cd : Cd} {m : MoveCmd} {k : Nat} {bs : List Byte}
    (h : (let a := wrap52 (m.src + 64 * k)
      decide (s.dev.windowOf a = none) && !s.dev.mem.ceLines.contains (a / 64)
        && match s.dev.readLine c cd .tongs (if m.dk = 0 then c.packageDest (wrap52 (m.dst + 64 * k)) else none) a with
          | .ok b => decide (b = bs)
          | .error _ => false) = true) : MoveReads s c cd m k bs := by
  simp only [Bool.and_eq_true, decide_eq_true_eq, Bool.not_eq_true'] at h
  refine ⟨h.1.1, h.1.2, ?_⟩
  have h2 := h.2
  split at h2
  · rename_i he; rw [he, of_decide_eq_true h2]
  · cases h2
theorem moveWrites_of {s : State} {c : Context} {cd : Cd} {m : MoveCmd} {k : Nat}
    (h : (let a := wrap52 (m.dst + 64 * k)
      !s.dev.mem.errLines.contains (a / 64)
        && match s.dev.allowed c cd .tongs true a with
          | .ok i => decide (s.dev.keyCheck a (pDomain c.pantry[i]) = none)
          | .error _ => false) = true) : MoveWrites s c cd m k := by
  simp only [Bool.and_eq_true, Bool.not_eq_true'] at h
  refine ⟨h.1, ?_⟩
  have h2 := h.2
  split at h2
  · rename_i i he; exact ⟨i, he, of_decide_eq_true h2⟩
  · cases h2

/-- The context with a message on receive stream 1 and room on send stream 1 of its plan. -/
def ctxStream : Context :=
  { ctxRun with plan := some { image := 0, bytes := 0, planId := 0, m := 1, entry := 0, crc := 0
                               recvs := [{ pos := 0, stream := 1, cls := 4, depth := 1, peer := 3, landed := 1 }]
                               sends := [{ pos := 0, stream := 1, cls := 4, depth := 1, first := 0, count := 1 }] } }
/-- A MOVE of `n` lines with these flags, source kind, destination kind and places, at the head of a channel's queue. -/
def sMove (q : QueueId) (flags n kinds src dst : Nat) (f : Die → Die := id) : State :=
  up (st ctxStream (f { die with loc := memStore 0 [] 64 (record [n * 2 ^ 32 + kinds * 256, src, dst]), queues := (Vector.replicate 12 []).set q [entry (cmdWord 1 flags)] }))
/-- Neither gated nor posting; gated on stream 1; posting on stream 1. -/
def moveFlags : Fin 3 → Nat := fun k => [0, 3, 66].getD k.val 0
theorem wit_Moves (chan : Fin 2) (k : Fin 3) : let q : QueueId := idx 12 (6 + chan.val)
    let s := sMove q (moveFlags k) 2 0 0x100000000000 0x100000000080
    let x := s.dev.dies[(0 : Cd)]
    let e := entry (cmdWord 1 (moveFlags k))
    let m := x.moveCmd e
    Starts s 0 q 1 ctxStream e ∧ Fresh e ∧ s.dev.stopping ctxStream = false ∧ m.sk = 0 ∧ m.dk = 0 ∧ m.lines = 2 ∧ s.dev.yalkenUp = true
      ∧ s.dev.moveServed ctxStream 0 (chan.val + 1) m = true
      ∧ (∀ i : Fin 2, ∀ j < i.val, wrap52 (m.dst + 64 * j) ≠ wrap52 (m.src + 64 * i.val))
      ∧ moveFlag q e 0 = decide (k = 1) ∧ moveFlag q e 6 = decide (k = 2) := by
  refine ⟨?_, ?_, ?_, ?_, ?_, ?_, rfl, ?_, ?_, ?_, ?_⟩
  all_goals (try unfold Starts); (try unfold Fresh); revert chan k; decide +kernel
theorem wit_Moves_lines (chan : Fin 2) (k : Fin 3) (i : Fin 2) : let q : QueueId := idx 12 (6 + chan.val)
    let s := sMove q (moveFlags k) 2 0 0x100000000000 0x100000000080
    let m := s.dev.dies[(0 : Cd)].moveCmd (entry (cmdWord 1 (moveFlags k)))
    MoveReads s ctxStream 0 m i.val (List.replicate 64 0) ∧ MoveWrites s ctxStream 0 m i.val ∧ MemoriesOk s.dev := by
  refine ⟨moveReads_of ?_, moveWrites_of ?_, memOk ?_⟩ <;> (revert chan k i; decide +kernel)
theorem wit_Moves_gates (chan : Fin 2) (k : Fin 3) : GatesOpen ctxStream 0 (idx 12 (6 + chan.val)) (entry (cmdWord 1 (moveFlags k))) := by
  refine ⟨fun h => ?_, fun h => ?_⟩
  · have hk : k = 1 := by revert h; revert chan k; decide +kernel
    subst hk; exact ⟨{ pos := 0, stream := 1, cls := 4, depth := 1, peer := 3, landed := 1 }, by decide +kernel, by decide⟩
  · have hk : k = 2 := by revert h; revert chan k; decide +kernel
    subst hk; exact ⟨{ pos := 0, stream := 1, cls := 4, depth := 1, first := 0, count := 1 }, by decide +kernel, by decide⟩

theorem wit_NoFlags (q : QueueId) (j : Nat) (e : QEntry) (h : e.word = BitVec.ofNat 64 (cmdWord 1 0)) : moveFlag q e j = false := by
  have h1 : e.w < 2 ^ 56 := by unfold QEntry.w; rw [h]; decide +kernel
  have h2 : e.w < 2 ^ (56 + j) := Nat.lt_of_lt_of_le h1 (Nat.pow_le_pow_right (by decide) (by omega))
  simp [moveFlag, cwFlag, bits, Nat.shiftRight_eq_div_pow, Nat.div_eq_of_lt h2]

/-- MOVEs of two lines out of adapter entry 5, of which three lines are delivered, and into it, from LPDDR5X lines of a region entry of role 0x3. -/
def ctxEntry : Context := { ctxStream with pantry := (ctxStream.pantry.set 0 0).set 8 (grant 0 0x3FFFF 0), roles := ctxStream.roles.set 8 3 }
def sMoveEntry (q : QueueId) (out : Bool) : State :=
  let s := sMove q 0 2 (if out then 1 else 4) (if out then 5 else 0x2000) (if out then 0x100000000000 else 5)
    fun x => { x with course := { x.course with adIn := (List.range 3).map fun i => (5, i, List.replicate 64 (BitVec.ofNat 8 i)) } }
  { s with dev := { s.dev with ctxs := [ctxEntry] } }
theorem wit_MoveEntry (chan : Fin 2) (out : Bool) : let q : QueueId := idx 12 (6 + chan.val)
    let s := sMoveEntry q out
    let x := s.dev.dies[(0 : Cd)]
    let e := entry (cmdWord 1 0)
    let m := x.moveCmd e
    Starts s 0 q 1 ctxEntry e ∧ Fresh e ∧ s.dev.stopping ctxEntry = false ∧ m.sk = out.toNat ∧ m.dk = (!out).toNat ∧ m.lines = 2
      ∧ m.src = (if out then 5 else 0x2000) ∧ s.dev.yalkenUp = true ∧ s.dev.moveServed ctxEntry 0 (chan.val + 1) m = true
      ∧ m.lines ≤ (x.course.delivered 5).length ∧ (∀ l ∈ x.course.delivered 5, l.2.2.length = 64) ∧ x.course.adOut.length + m.lines ≤ 2048 := by
  refine ⟨?_, ?_, ?_, ?_, ?_, ?_, ?_, rfl, ?_, ?_, ?_, ?_⟩
  all_goals (try unfold Starts); (try unfold Fresh); revert chan out; decide +kernel
theorem wit_MoveEntry_lines (chan : Fin 2) (k : Fin 2) : let q : QueueId := idx 12 (6 + chan.val)
    let s := sMoveEntry q
    let m := fun (b : Bool) => (s b).dev.dies[(0 : Cd)].moveCmd (entry (cmdWord 1 0))
    MoveWrites (s true) ctxEntry 0 (m true) k.val ∧ MoveReads (s false) ctxEntry 0 (m false) k.val (List.replicate 64 0)
      ∧ ctxEntry.courseLine (wrap52 ((m false).src + 64 * k.val)) = true ∧ MemoriesOk (s true).dev ∧ MemoriesOk (s false).dev := by
  refine ⟨moveWrites_of ?_, moveReads_of ?_, ?_, memOk ?_, memOk ?_⟩ <;> (revert chan; try revert k) <;> decide +kernel

/-- A MOVE of two lines whose context is being stopped, at its first and at its last line. -/
def eStop (i : Nat) : QEntry := { entry (cmdWord 1 0) with started := decide (i ≠ 0), cut := decide (i ≠ 0), progress := BitVec.ofNat 40 (64 * i) }
theorem wit_Move_stopped (chan i : Fin 2) : let q : QueueId := idx 12 (6 + chan.val)
    let s := stops q (eStop i.val) [2 ^ 33, 0x100000000000, 0x100000000040]
    let m := s.dev.dies[(0 : Cd)].moveCmd (eStop i.val)
    Starts s 0 q 1 ctxStops (eStop i.val) ∧ s.dev.stopping ctxStops = true ∧ m.sk = 0 ∧ m.dk = 0 ∧ s.dev.yalkenUp = true
      ∧ s.dev.moveServed ctxStops 0 (chan.val + 1) m = true ∧ (eStop i.val).progress.toNat / 64 = i.val ∧ m.lines = 2 := by
  refine ⟨?_, ?_, ?_, ?_, rfl, ?_, ?_, ?_⟩
  all_goals (try unfold Starts); revert chan i; decide +kernel
theorem wit_Move_stopped_line (chan i : Fin 2) : let s := stops (idx 12 (6 + chan.val)) (eStop i.val) [2 ^ 33, 0x100000000000, 0x100000000040]
    let m := s.dev.dies[(0 : Cd)].moveCmd (eStop i.val)
    MoveReads s ctxStops 0 m i.val (List.replicate 64 0) ∧ MoveWrites s ctxStops 0 m i.val ∧ MemoriesOk s.dev := by
  refine ⟨moveReads_of ?_, moveWrites_of ?_, memOk ?_⟩ <;> (revert chan i; decide +kernel)

/-- A WEIGHTIN of n Course tiles in mode 0x2 (both halves) or 0 (one half) whose first tile is at hand. -/
def sWeight (n : Nat) : State := eng 5 (cmdWord 2 0) [2 ^ 16, n * 2 ^ 32]
theorem wit_Weightin : let e := entry (cmdWord 2 0)
    (Starts (sWeight 0) 0 5 2 ctxRun e ∧ (sWeight 0).dev.dies[(0 : Cd)].weightCount e = 0)
      ∧ (Starts (sWeight 1) 0 5 2 ctxRun e ∧ (sWeight 1).dev.dies[(0 : Cd)].weightCount e = 1) := by
  unfold Starts; decide +kernel
/-- The same WEIGHTIN in progress, in 16-bit or 8-bit mode, with one Course tile at hand and `next` chunk tiles of it placed. -/
def weightTile : CTile := { owner := 0, round := 0, lines := (List.range 272).map fun i => (i, List.replicate 64 0) }
def sPlace (mode next : Nat) : State := eng 5 (cmdWord 2 0) [mode * 256 + 2 ^ 16, 2 ^ 32] fun x =>
  { x with queues := (Vector.replicate 12 []).set 5 [{ entry (cmdWord 2 0) with started := true }], weightIn := { left := 1, next := next }, course := { x.course with recv := [weightTile] } }
def placeCheck (mode next : Nat) (l : Bool) : Bool :=
  let x := (sPlace mode next).dev.dies[(0 : Cd)]
  match x.readyChunk with
  | some (_, ma, _, last) => ma == 0 && last == l && decide (x.mas[(0 : MaNo)].weights.length < 10) && !x.frozen && (sPlace mode next).dev.residentOf 0 == some ctxRun
  | none => false
theorem wit_ChunkTilePlace : placeCheck 0 0 false = true ∧ placeCheck 0 1 true = true ∧ placeCheck 2 0 true = true := by decide +kernel

/-- A BUILD of one tile of rank 0. -/
def sBuild (r : Nat) : State := eng 9 (cmdWord 1 0)
  [2 ^ 32, 0x100000000000, 0x100000010000, 0x100000020000, 0x100000030000, 0x100000040000, r * 2 ^ 16 + 2 ^ 32, 2 ^ 32 + 2 ^ 48]
/-- Every run of a list reads as the same bytes. -/
theorem reads_of {d : Device} {c : Context} {cd : Cd} {z : List Byte} : ∀ {runs : List (Nat × Nat)},
    (runs.all fun r => match d.readBytes c cd .mixer r.1 r.2 with | .ok b => decide (b = z) | .error _ => false) = true →
    List.Forall₂ (fun r b => d.readBytes c cd .mixer r.1 r.2 = .ok b) runs (List.replicate runs.length z)
  | [], _ => .nil
  | r :: rest, h => by
    simp only [List.all_cons, Bool.and_eq_true] at h
    refine .cons ?_ (reads_of h.2)
    have h1 := h.1
    split at h1 <;> simp_all
theorem wit_Build_starts : let s := sBuild 0
    let m := s.dev.dies[(0 : Cd)].buildCmd (entry (cmdWord 1 0))
    Starts s 0 9 1 ctxRun (entry (cmdWord 1 0)) ∧ Fresh (entry (cmdWord 1 0)) ∧ s.dev.dies[(0 : Cd)].recField (entry (cmdWord 1 0)) 1 1 % 4 = 0 ∧ m.tiles = 1 ∧ m.first + 1 ≤ m.kt * m.ct
      ∧ m.r = 0 := by
  unfold Starts Fresh; decide +kernel
def nibRuns : List (Nat × Nat) :=
  let m := (sBuild 0).dev.dies[(0 : Cd)].buildCmd (entry (cmdWord 1 0))
  (List.range 128).map fun j => (wrap52 (m.w + ((m.first / m.kt * 128 + j) * (m.kt * 128 / 64) + m.first % m.kt * 2) * 32), 64)
def scRuns : List (Nat × Nat) :=
  let m := (sBuild 0).dev.dies[(0 : Cd)].buildCmd (entry (cmdWord 1 0))
  (List.range 128).map fun j => (wrap52 (m.sc + ((m.first / m.kt * 128 + j) * (m.kt * 128 / 64) + m.first % m.kt * 2) * 2), 4)
def aRuns : List (Nat × Nat) :=
  let m := (sBuild 0).dev.dies[(0 : Cd)].buildCmd (entry (cmdWord 1 0))
  (List.range (ceilDiv m.r 128)).map fun g =>
    (wrap52 (m.a + 2 * (g * 128 * (m.kt * 128) + m.first % m.kt * 128 * groupWidth m.r g)), 256 * groupWidth m.r g)
def bRuns : List (Nat × Nat) :=
  let m := (sBuild 0).dev.dies[(0 : Cd)].buildCmd (entry (cmdWord 1 0))
  [(wrap52 (m.b + 2 * (m.first / m.kt * m.r * 128)), 256 * m.r)]
theorem wit_Build_reads : let s := sBuild 0
    let m := s.dev.dies[(0 : Cd)].buildCmd (entry (cmdWord 1 0))
    let readAll := fun (runs : List (Nat × Nat)) (bs : List (List Byte)) => List.Forall₂ (fun r b => s.dev.readBytes ctxRun 0 .mixer r.1 r.2 = .ok b) runs bs
    s.dev.mixServed ctxRun 0 [m.w, m.sc, m.a, m.b, m.dst] = true ∧ readAll nibRuns (List.replicate 128 (List.replicate 64 0))
      ∧ readAll scRuns (List.replicate 128 (List.replicate 4 0)) ∧ readAll aRuns [] ∧ readAll bRuns [[]] := by
  refine ⟨?_, reads_of ?_, reads_of ?_, reads_of (z := []) ?_, reads_of ?_⟩ <;> decide +kernel
/-- The bytes of its tile: with zero weights and scales every element is a zero. -/
def builtElem (k j : Nat) : List Byte :=
  let m := (sBuild 0).dev.dies[(0 : Cd)].buildCmd (entry (cmdWord 1 0))
  let nib := List.replicate 128 (List.replicate 64 (0 : Byte))
  let sc := List.replicate 128 (List.replicate 4 (0 : Byte))
  let half := fun (l : List Byte) (i : Nat) => le ((l.drop i).take 2)
  let byte := ((nib.getD j []).getD (k / 64 * 32 + k % 64 / 2) 0).toNat
  let w := q4Value (if k % 2 = 0 then byte % 16 else byte / 16) (half (sc.getD j []) (2 * (k / 64)))
  let draw := srDraw ctxRun.seed ((sBuild 0).dev.stepNo ctxRun) m.tid ((0 * 128 + k) * (m.ct * 128) + 0 * 128 + j)
  bytesLE 2 ((if m.fp16 then fFp16 else fBf16).encode ((roundingOf m.mode draw).getD .nearestEven) (w.add ((fBf16.decode m.s).mul (.fin false 0 0)))).1
def builtBytes : List Byte := (List.range 16384).flatMap fun n => builtElem (n / 128) (n % 128)
theorem elem_zero : ∀ k j : Fin 128, builtElem k.val j.val = [0, 0] := by decide +kernel
theorem built_zero : builtBytes = List.replicate 32768 0 := by
  have h : ∀ l : List Nat, (∀ n ∈ l, n < 16384) → (l.flatMap fun n => builtElem (n / 128) (n % 128)) = List.replicate (2 * l.length) 0 := by
    intro l
    induction l with
    | nil => intro; rfl
    | cons n t ih =>
      intro hn
      have hb := hn n (by simp)
      have e := elem_zero ⟨n / 128, by omega⟩ ⟨n % 128, by omega⟩
      rw [List.flatMap_cons, ih fun m hm => hn m (by simp [hm])]
      simp only at e
      rw [e, List.length_cons, Nat.mul_succ, Nat.add_comm, List.replicate_add]; rfl
  have := h (List.range 16384) fun n hn => List.mem_range.1 hn
  rw [List.length_range] at this
  exact this
theorem wit_Build_write : let m := (sBuild 0).dev.dies[(0 : Cd)].buildCmd (entry (cmdWord 1 0))
    ∃ d1, ((nibRuns ++ scRuns ++ aRuns ++ bRuns).foldl (fun (d : Device) r => d.eccGood ctxRun 0 r.1 r.2) (sBuild 0).dev).mixPut ctxRun 0 0
      (mixLines (wrap52 m.dst) builtBytes fun _ _ => []) 0 = .ok d1 := by
  intro m
  simp only [mixLines, built_zero, List.length_replicate, List.drop_replicate, List.take_replicate]
  exact exists_ok (by decide +kernel)

/-- A FEED of one tile from one column block of `wid` times 8 columns at column 8 × `off`; memory holds the pack list. -/
def feedWord (off wid : Nat) : Nat := 0x100000001000 + off * 2 ^ 52 + wid * 2 ^ 56
def put (s : State) (l : List (Nat × List Byte)) : State :=
  { s with dev := { s.dev with mem := { s.dev.mem with bytes := l.foldl (fun m p => memStore 0 m p.1 p.2) s.dev.mem.bytes } } }
def sFeed (off wid : Nat) : State := put (eng 9 (cmdWord 1 0) [0x100 + 2 ^ 32, 0x100000000000]) [(0x100000000000, bytesLE 8 (feedWord off wid))]
theorem mixRead_done {d : Device} {c : Context} {cd : Cd} {item a n : Nat} {bs : List Byte} (h : d.readBytes c cd .mixer a n = .ok bs) (done : Nat) :
    d.mixRead c cd item done a n = .ok (bs, d.eccRun c cd .mixer a n) := by simp [Device.mixRead, h]
theorem wit_Feed : let s := sFeed 15 1
    let x := s.dev.dies[(0 : Cd)]
    let e := entry (cmdWord 1 0)
    Starts s 0 9 1 ctxRun e ∧ x.recField e 1 1 % 4 = 1 ∧ x.mergeTiles e = 1 ∧ x.recField e 2 1 / 4 % 16 = 0 ∧ 0 < x.feedRoom 0
      ∧ (∀ q ∈ x.queues[(9 : QueueId)], ¬ (q.started = true ∧ q.done = false ∧ q.stopped = false ∧ cwOp q.w = 1)) ∧ s.dev.feedServed ctxRun 0 e 0 = true := by
  unfold Starts; decide +kernel
/-- The device after the read of the pack list. -/
def feedRead : Device := (sFeed 15 1).dev.eccRun ctxRun 0 .mixer (wrap52 ((sFeed 15 1).dev.dies[(0 : Cd)].recAddr (entry (cmdWord 1 0)) 8)) 8
theorem wit_Feed_list : let s := sFeed 15 1
    s.dev.mixRead ctxRun 0 0 0 (wrap52 (s.dev.dies[(0 : Cd)].recAddr (entry (cmdWord 1 0)) 8)) 8 = .ok (bytesLE 8 (feedWord 15 1), feedRead) :=
  mixRead_done (ok_of (by decide +kernel)) 0
theorem wit_Feed_entry : let v := feedWord 15 1
    (bytesLE 8 v).length = 8 ∧ le (bytesLE 8 v) = v ∧ v / 2 ^ 61 % 2 = 0 ∧ v / 2 ^ 52 % 16 * 8 = 120 ∧ v / 2 ^ 56 % 32 * 8 = 8 := by decide +kernel
theorem wit_Feed_block : ∃ block d2, ∀ done, feedRead.mixRead ctxRun 0 0 done (feedWord 15 1 % 2 ^ 52) (256 * 8) = .ok (block, d2) :=
  have h : isOk (feedRead.readBytes ctxRun 0 .mixer (feedWord 15 1 % 2 ^ 52) (256 * 8)) = true := by decide +kernel
  let ⟨b, hb⟩ := exists_ok h
  ⟨b, _, mixRead_done hb⟩

/-- A context with an adapter directory, and a device that holds one resident adapter of one empty item, its masters for optimiser `opt`, an update item, an
overflow word and hyperparameters. -/
def ctxDir : Context :=
  { ctxRun with pantry := ctxRun.pantry.set 8 (grant 0x100000006 0x100000006 1), roles := ctxRun.roles.set 8 2 }
def sUpdate (rmode n opt ovf : Nat) : State :=
  let s := st ctxDir { die with
    loc := [(65, BitVec.ofNat 8 rmode), (68, BitVec.ofNat 8 n), (73, 0x20), (77, 0x10), (81, 0x10), (85, 0x10)].filter fun c => c.2 != 0
    queues := (Vector.replicate 12 []).set 9 [entry (cmdWord 2 0)] }
  { s with dev := { s.dev with mem := { s.dev.mem with bytes := [(0x100000001006, 0x80), (0x100000001007, 0x3F),
      (0x100000002009, 0x30), (0x10000000200D, 0x10), (0x100000002021, 0x40), (0x100000002025, 0x10), (0x100000002029, 0x50), (0x10000000202D, 0x10),
      (0x100000003000, 5), (0x100000003001, BitVec.ofNat 8 opt), (0x100000003002, 1), (0x100000005000, BitVec.ofNat 8 ovf),
      (0x100000006000, 5), (0x100000006001, 2), (0x100000006019, 0x70), (0x10000000601D, 0x10), (0x100000007002, 1)].filter fun c => c.2 != 0 } } }
def eUpd : QEntry := entry (cmdWord 2 0)
def ub : List Byte := record [0, 0x100000003000, 0, 0, 0x100000004000, 0x100000005000, 0, 0]
def hb : List Byte := record [0x3F80 * 2 ^ 48, 0, 0, 0, 0, 0, 0, 0]
def mb (opt : Nat) : List Byte := record [5 + opt * 256 + 2 ^ 16, 0, 0, 0, 0, 0, 0, 0]
theorem wit_Update_starts (mode ov : Fin 2) : let s := sUpdate mode.val 1 mode.val (0x80 * ov.val)
    let x := s.dev.dies[(0 : Cd)]
    let u := uitemOf ub
    let h := mastersOf (mb mode.val)
    Starts s 0 9 2 ctxDir eUpd ∧ Fresh eUpd ∧ s.dev.stopping ctxDir = false ∧ x.recField eUpd 1 1 % 4 = mode.val ∧ x.updateCount eUpd = 1
      ∧ s.dev.mixServed ctxDir 0 [lpddrOf 0] = true ∧ (hyperOf hb).k = x.mixerK.toNat ∧ (hyperOf hb).fault (mode == 1) = none
      ∧ s.dev.itemFault ctxDir 0 mode.val 0 u h = none ∧ u.handle ∉ s.dev.dies[(0 : Cd)].touched
      ∧ (bf16At (bytesLE 2 (0x80 * ov.val)) 0).isZero = decide (ov = 0) ∧ h.pvalid = false := by
  refine ⟨?_, ?_, ?_, ?_, ?_, ?_, ?_, ?_, ?_, ?_, ?_, ?_⟩
  all_goals (try unfold Starts); (try unfold Fresh); revert mode ov; decide +kernel
/-- Its reads, which meet no error and so count none. -/
theorem wit_Update_reads (mode ov : Fin 2) : let s := sUpdate mode.val 1 mode.val (0x80 * ov.val)
    let x := s.dev.dies[(0 : Cd)]
    s.dev.mixRead ctxDir 0 0 0 (wrap52 (x.recField eUpd 0x10 8 % 2 ^ 52 + eUpd.gb.toNat)) 64 = .ok (hb, s.dev)
      ∧ s.dev.mixRead ctxDir 0 0 0 (x.itemAddr eUpd 0) 64 = .ok (ub, s.dev) ∧ s.dev.mixRead ctxDir 0 0 0 (uitemOf ub).mst 64 = .ok (mb mode.val, s.dev)
      ∧ s.dev.mixBody ctxDir 0 0 (uitemOf ub).handle (uitemOf ub).item = .ok s.dev
      ∧ s.dev.mixRead ctxDir 0 0 0 (uitemOf ub).ovf 2 = .ok (bytesLE 2 (0x80 * ov.val), s.dev) := by
  refine ⟨ok_of ?_, ok_of ?_, ok_of ?_, ok_of ?_, ok_of ?_⟩
  all_goals (revert mode ov; decide +kernel)
/-- The answer is no error, and what it answers satisfies a test. -/
def okThen {ε α : Type} (x : Except ε α) (f : α → Bool) : Bool :=
  match x with
  | .ok r => f r
  | .error _ => false
theorem okThen_exists {ε α : Type} {x : Except ε α} {f : α → Bool} (h : okThen x f = true) : ∃ r, x = .ok r ∧ f r = true := by
  cases x with
  | error e => simp [okThen] at h
  | ok r => exact ⟨r, rfl, h⟩
def hSkip (s : State) (mode : Nat) : Masters := { mastersOf (mb mode) with lstep := s.dev.stepNo ctxDir, lvalid := true, lskip := true }
theorem wit_Update_skipped (mode : Fin 2) : let s := sUpdate mode.val 1 mode.val 0x80
    let u := uitemOf ub
    ∃ d1 d2 : Device, s.dev.logAppend ctxDir 0 0 (s.dev.stepNo ctxDir) u true = .ok d1
      ∧ d1.mixWrite ctxDir 0 0 0 u.mst (hSkip s mode.val).encode = .ok d2 ∧ d2.dies[(0 : Cd)].sieve.area = none := by
  intro s u
  obtain ⟨d1, h1, p⟩ := okThen_exists (show okThen (s.dev.logAppend ctxDir 0 0 (s.dev.stepNo ctxDir) u true)
    (fun d1 => okThen (d1.mixWrite ctxDir 0 0 0 u.mst (hSkip s mode.val).encode) fun d2 => decide (d2.dies[(0 : Cd)].sieve.area = none)) = true by
      revert mode; decide +kernel)
  obtain ⟨d2, h2, p⟩ := okThen_exists p
  exact ⟨d1, d2, h1, h2, of_decide_eq_true p⟩
def hFill (s : State) (mode : Nat) : Masters :=
  let t := s.dev.stepNo ctxDir
  { mastersOf (mb mode) with pstep := t, pbank := 1 - (mastersOf (mb mode)).active t, pvalid := true, count := 0, lstep := t, lvalid := true, lskip := false }
theorem wit_Update_filled (mode : Fin 2) : let s := sUpdate mode.val 1 mode.val 0
    let u := uitemOf ub
    let t := s.dev.stepNo ctxDir
    let h := hFill s mode.val
    ∃ d1 d2 d3 : Device, s.dev.logAppend ctxDir 0 0 t u false = .ok d1
      ∧ d1.updateBank ctxDir 0 mode.val (s.dev.dies[(0 : Cd)].recField eUpd 1 1) 0 t 0 0 (hyperOf hb) u h = .ok (d2, none)
      ∧ d2.mixWrite ctxDir 0 0 0 u.mst ({ h with count := 1 } : Masters).encode = .ok d3 := by
  intro s u t h
  obtain ⟨d1, h1, p⟩ := okThen_exists (show okThen (s.dev.logAppend ctxDir 0 0 t u false) (fun d1 =>
    okThen (d1.updateBank ctxDir 0 mode.val (s.dev.dies[(0 : Cd)].recField eUpd 1 1) 0 t 0 0 (hyperOf hb) u h) fun r =>
      decide (r.2 = none) && isOk (r.1.mixWrite ctxDir 0 0 0 u.mst ({ h with count := 1 } : Masters).encode)) = true by revert mode; decide +kernel)
  obtain ⟨⟨d2, o⟩, h2, p⟩ := okThen_exists p
  simp only [Bool.and_eq_true, decide_eq_true_eq] at p
  obtain ⟨rfl, p⟩ := p
  obtain ⟨d3, h3⟩ := exists_ok p
  exact ⟨d1, d2, d3, h1, h2, h3⟩

/-- INIT and REFRESH of the same adapter, whose body has two items here. -/
def sItems (mode : Nat) : State :=
  let s := sUpdate mode 2 0 0
  { s with dev := { s.dev with mem := { s.dev.mem with bytes := [(0x100000002009, 0x30), (0x10000000200D, 0x10), (0x100000002021, 0x40), (0x100000002025, 0x10),
      (0x100000002029, 0x50), (0x10000000202D, 0x10), (0x100000002044, 1), (0x100000002049, 0x30), (0x10000000204D, 0x10), (0x100000002061, 0x40), (0x100000002065, 0x10),
      (0x100000002069, 0x50), (0x10000000206D, 0x10), (0x100000003000, 5), (0x100000003002, 2),
      (0x100000006000, 5), (0x100000006001, 2), (0x100000006019, 0x70), (0x10000000601D, 0x10), (0x100000007002, 2)] } } }
def ub2 : List Byte := record [2 ^ 32, 0x100000003000, 0, 0, 0x100000004000, 0x100000005000, 0, 0]
theorem wit_Items (mode : Fin 2) : let s := sItems (mode.val + 2)
    let x := s.dev.dies[(0 : Cd)]
    Starts s 0 9 2 ctxDir eUpd ∧ Fresh eUpd ∧ s.dev.stopping ctxDir = false ∧ x.updateCount eUpd = 2 ∧ x.recField eUpd 1 1 % 4 = mode.val + 2
      ∧ s.dev.mixServed ctxDir 0 [lpddrOf 0] = true ∧ s.dev.mixRead ctxDir 0 0 0 (x.itemAddr eUpd 0) 64 = .ok (ub, s.dev) := by
  refine ⟨?_, ?_, ?_, ?_, ?_, ?_, ok_of ?_⟩
  all_goals (try unfold Starts); (try unfold Fresh); revert mode; decide +kernel
theorem wit_Init : let s := sItems 2
    let last := fun (w : UItem) => (s.dev.bodyItem ctxDir w.handle w.item).map (·.1) == some (w.item + 1)
    s.dev.mixBody ctxDir 0 0 (uitemOf ub).handle (uitemOf ub).item = .ok s.dev
      ∧ s.dev.initItem ctxDir 0 2 0 0 (last (uitemOf ub)) (uitemOf ub) = .ok (s.dev, 0, none)
      ∧ s.dev.mixRead ctxDir 0 1 0 (s.dev.dies[(0 : Cd)].itemAddr eUpd 1) 64 = .ok (ub2, s.dev)
      ∧ s.dev.mixBody ctxDir 0 1 (uitemOf ub2).handle (uitemOf ub2).item = .ok s.dev
      ∧ ∃ d, s.dev.initItem ctxDir 0 2 1 0 (last (uitemOf ub2)) (uitemOf ub2) = .ok (d, 0, none) := by
  refine ⟨ok_of ?_, ok_of ?_, ok_of ?_, ok_of ?_, ?_⟩
  · decide +kernel
  · decide +kernel
  · decide +kernel
  · decide +kernel
  · obtain ⟨⟨d, p⟩, h, hp⟩ := okThen_exists (x := (sItems 2).dev.initItem ctxDir 0 2 1 0
      (((sItems 2).dev.bodyItem ctxDir (uitemOf ub2).handle (uitemOf ub2).item).map (·.1) == some ((uitemOf ub2).item + 1)) (uitemOf ub2))
      (f := fun r => decide (r.2 = (0, none))) (by decide +kernel)
    obtain rfl := of_decide_eq_true hp
    exact ⟨d, h⟩
theorem wit_Refresh : let s := sItems 3
    s.dev.refreshItem ctxDir 0 (s.dev.stepNo ctxDir) 0 0 (uitemOf ub) = .ok (s.dev, 0, none)
      ∧ s.dev.mixRead ctxDir 0 1 0 (s.dev.dies[(0 : Cd)].itemAddr eUpd 1) 64 = .ok (ub2, s.dev)
      ∧ s.dev.refreshItem ctxDir 0 (s.dev.stepNo ctxDir) 1 0 (uitemOf ub2) = .ok (s.dev, 0, none) := by
  refine ⟨ok_of ?_, ok_of ?_, ok_of ?_⟩ <;> decide +kernel
/-- An item of 128 positions in LPDDR5X with a gradient of one non-zero element, and the device that holds it. -/
def uBank : UItem := uitemOf (record [2 ^ 48, 0x3000, 15 * 2 ^ 32, 1, 0x100000004000, 0x100000005000, 0x3F80, 0])
def sBank (mode : Nat) : State := put (sUpdate mode 1 mode 0) [(0x100000004000, [0, 0x40]), (0x100000004100, [127])]
theorem wit_Bank_item (mode : Fin 2) : let d := (sBank mode.val).dev
    let act := (mastersOf (mb mode.val)).active (d.stepNo ctxDir)
    d.stopping ctxDir = false ∧ d.dies[(0 : Cd)].sieve.area = none ∧ uBank.n = 128 ∧ uBank.mst % 64 = 0
      ∧ uBank.mst + 64 + (1 - act) * uBank.bank * 64 + uBank.off * 64 + 3 * uBank.section' ≤ 0x20000000000 ∧ MemoriesOk d := by
  refine ⟨?_, ?_, ?_, ?_, ?_, memOk ?_⟩ <;> (revert mode; decide +kernel)
theorem wit_Bank_reads (mode : Fin 2) : let d := (sBank mode.val).dev
    let act := (mastersOf (mb mode.val)).active (d.stepNo ctxDir)
    let n := uBank.n
    let reads := fun (a : Nat) (ms xs : List Byte) =>
      d.readBytes ctxDir 0 .mixer a (2 * n) = .ok ms ∧ d.readBytes ctxDir 0 .mixer (wrap52 (a + 2 * n)) (n / 32) = .ok xs
    (∀ j : Fin 3, reads (uBank.at' act j.val) (List.replicate 256 0) (List.replicate 4 0))
      ∧ reads uBank.grad ([0, 0x40] ++ List.replicate 254 0) [127, 0, 0, 0] := by
  refine ⟨fun j => ⟨ok_of ?_, ok_of ?_⟩, ok_of ?_, ok_of ?_⟩ <;> (revert mode; try revert j) <;> decide +kernel
theorem wit_Bank_computed (mode : Fin 2) : let d := (sBank mode.val).dev
    ∃ d2, d.updateBank ctxDir 0 mode.val 0 0 (d.stepNo ctxDir) 0 0 (hyperOf hb) uBank (mastersOf (mb mode.val)) = .ok (d2, none) := by
  obtain ⟨⟨d2, o⟩, h, p⟩ := okThen_exists (x := (sBank mode.val).dev.updateBank ctxDir 0 mode.val 0 0 ((sBank mode.val).dev.stepNo ctxDir) 0 0 (hyperOf hb) uBank
    (mastersOf (mb mode.val))) (f := fun r => decide (r.2 = none)) (by revert mode; decide +kernel)
  obtain rfl := of_decide_eq_true p
  exact ⟨d2, h⟩

/-! The Ladle. -/

/-- A state with one context and the die of a CD. -/
def stAt (cd : Cd) (c : Context) (x : Die) : State :=
  { State.reset with dev := { Device.reset with ctxs := [c], dies := (Vector.replicate 16 {}).set cd x } }
/-- A bucket of 32 elements. -/
def bucket (state : BucketState) (number : BitVec 16 := 0) : Bucket :=
  { number := number, step := 1, elems := 32, store := 0, es := -20, recordOff := 64, ga := 0, state := state }
/-- OPEN of bucket 0 over the last 256 bytes of the store, or over the 256 bytes behind those of an open bucket 1. -/
def sOpen (place : Nat) : State := eng 10 (cmdWord 2 0) [32 * 2 ^ 32, place] fun x => { x with ladle := { x.ladle with buckets := [bucket .isOpen 1] } }
def openCheck (place : Nat) : Bool :=
  let x := (sOpen place).dev.dies[(0 : Cd)]
  let e := entry (cmdWord 2 0)
  decide ((sOpen place).dev.startable 0 10 2 = some (ctxRun, e)) && !cwFlag e.w 0 && bucketNo x e == 0 && x.recField e 4 4 == 32 && x.recField e 8 4 == place
    && x.ladle.buckets.all fun b => b.number.toNat != 0 && (!x.holdsStore b || decide (place + 256 ≤ b.store) || decide (b.store + 8 * b.elems ≤ place))
theorem wit_Open : openCheck (40 * 2 ^ 20 - 256) = true ∧ openCheck 256 = true := by decide +kernel
theorem wit_Open_mem : MemoriesOk (sOpen 256).dev := memOk (by decide +kernel)
/-- An open bucket of the current step. -/
def opened : Bucket := { bucket .isOpen with step := 0 }
/-- ACCUM of the BF16 value 1 into the last element of bucket 0. -/
def sAccum : State := put (eng 10 (cmdWord 1 0) [4 * 2 ^ 16, 31 + 2 ^ 32, 1, 0x100000000000] fun x => { x with ladle := { x.ladle with buckets := [opened] } })
  [(0x100000000000, bytesLE 2 0x3F80)]
theorem wit_Accum : let x := sAccum.dev.dies[(0 : Cd)]
    let e := entry (cmdWord 1 0)
    Starts sAccum 0 10 1 ctxRun e ∧ x.ladle.bucket (accumBucket x e) = some opened ∧ opened.step.toNat = sAccum.dev.stepNo ctxRun ∧ x.recField e 1 1 % 8 = 0 ∧ x.recField e 0xC 4 = 1
      ∧ x.recField e 0x10 4 = 1 ∧ (x.recField e 8 4 + e.gb.toNat % 2 ^ 32) % 2 ^ 32 = 31 ∧ fmtOf (x.recField e 2 1 % 16) = some .bf16
      ∧ sAccum.dev.readBytes ctxRun 0 .ladle (wrap52 (x.recAddr e 0x18)) 2 = .ok (bytesLE 2 0x3F80) ∧ Fmt.bf16.decode (field (bytesLE 2 0x3F80) 0 2) = .fin false 128 (-7)
      ∧ (BitVec.ofNat 64 (le (memBytes 0 x.ladle.store (8 * 31) 8))).toInt = 0 := by
  refine ⟨?_, ?_, ?_, ?_, ?_, ?_, ?_, ?_, ok_of ?_, ?_, ?_⟩
  all_goals (try unfold Starts); decide +kernel
theorem wit_Accum_mem : MemoriesOk sAccum.dev := memOk (by decide +kernel)
/-- A context under a configuration of one module. -/
def ctxRed : Context := { ctxRun with reduce := some ⟨1, 0, 1, 0, 0x1000, 0⟩ }
def sClose (state : BucketState) (started : Bool) : State :=
  st ctxRed { die with loc := memStore 0 [] 64 (record [0]), ladle := { ({} : Ladle) with buckets := [{ bucket state with closeNo := 1, step := 0 }] },
                       queues := (Vector.replicate 12 []).set 10 [{ entry (cmdWord 2 1) with started := started }] }
theorem wit_Close : let s := sClose .isOpen false
    let x := s.dev.dies[(0 : Cd)]
    let e := entry (cmdWord 2 1)
    Starts s 0 10 2 ctxRed e ∧ cwFlag e.w 0 = true ∧ ctxRed.reduce.isSome ∧ x.ladle.bucket (bucketNo x e) = some { opened with closeNo := 1 }
      ∧ opened.step.toNat = s.dev.stepNo ctxRed
      ∧ bucketNo x e = x.ladle.nextClose (s.dev.stepNo ctxRed) ∧ ctxRed.aborted = false
      ∧ (x.ladle.buckets.filter fun b => b.state == .outstanding).length < 64 := by
  unfold Starts; decide +kernel
theorem wit_Complete : let s := sClose .outstanding true
    let x := s.dev.dies[(0 : Cd)]
    let b : Bucket := { bucket .outstanding with closeNo := 1, step := 0 }
    let t := ctxRed.node ⟨1, 0, 1, 0, 0x1000, 0⟩ (ctxRed.posOf 0)
    s.dev.residentOf 0 = some ctxRed ∧ x.ladle.bucket 0 = some b ∧ x.frozen = false ∧ s.dev.enginesHeld ctxRed = false ∧ b.complete t = true ∧ b.want = false
      ∧ x.closeStopped b = false ∧ (s.dev.logDigest ctxRed 0 b t ⟨1, 0, 1, 0, 0x1000, 0⟩ 0).2 = true ∧ ((b.downLine t 2 0).orElse fun _ => b.downLine t 1 0).isSome := by
  decide +kernel

/-- A context of 2^k positions under a plan whose lanes serve its levels. -/
def ctxArc (k : Nat) : Context :=
  { ctxRed with logM := k, plan := some { image := 0, bytes := 0, planId := 0, m := 2 ^ k, entry := 0, crc := 0, phases := [⟨4096, 0, 0, 1, 1, 0, 0b11, 0⟩] } }
def redOne : ReduceConfig := ⟨1, 0, 1, 0, 0x1000, 0⟩
def hdr (down : Bool) : List Byte := ladleHeader 1 down true true 1 1 0 1 32 1 [0, 0, 0, 0] 1
def line (level : Nat) (down : Bool) (dest : Nat) : LLine := ⟨level, down, 1, 0, 1, dest, 0, false, hdr down⟩
def ladleOf (b : Bucket) (wire : List LLine) : Die := { cox := cox, ladle := { ({} : Ladle) with buckets := [b], wire := wire } }
/-- Both lines of phase 1 of a level. -/
def upBoth (level : Nat) : List (Nat × Nat × List Byte) := [(level, 1, hdr false), (level, 1, zeros 64)]
/-- At level 1 of two positions, up from position 1 and down from position 0. At level 2 of four, up from position 2 and down from position 0, each by way
of position 1. -/
def sDepart (k : Nat) (down : Bool) : State :=
  if down then stAt 0 (ctxArc k) (ladleOf { bucket .outstanding with upRecv := if k = 1 then upBoth 1 else upBoth 1 ++ upBoth 2 } [])
  else stAt (idx 16 k) (ctxArc k) (ladleOf { bucket .outstanding with upRecv := if k = 1 then [] else upBoth 1 } [])
theorem wit_Depart (i : Fin 2) (down : Bool) : let k := i.val + 1
    let c := ctxArc k
    let cd : Cd := if down then 0 else idx 16 k
    let s := sDepart k down
    let x := s.dev.dies[cd]
    let dest := if down then k else 0
    s.dev.residentOf cd = some c ∧ c.first + c.m ≤ 16 ∧ x.frozen = false ∧ c.reduce = some redOne ∧ ladleTarget c.m (c.posOf cd) k down = some dest
      ∧ s.dev.stopping c = false ∧ c.cond ≠ .faulted ∧ 0 < (if down then x.ladle.downCredits[(idx 4 (k - 1) : Fin 4)] else x.ladle.upCredits[(idx 4 (k - 1) : Fin 4)])
      ∧ s.dev.levelLanes c cd k ≠ [] ∧ (x.ladle.pick (c.node redOne (c.posOf cd)) k down).isSome := by
  revert i down; decide +kernel
def sArrive (down : Bool) : State :=
  if down then stAt 1 (ctxArc 1) (ladleOf (bucket .outstanding) [line 1 true 1]) else stAt 0 (ctxArc 1) (ladleOf (bucket .outstanding) [line 1 false 0])
theorem wit_Arrive (down : Bool) : let cd : Cd := if down then 1 else 0
    let s := sArrive down
    let x := s.dev.dies[cd]
    let src := if down then 0 else 1
    let w := line 1 down (1 - src)
    s.dev.residentOf cd = some (ctxArc 1) ∧ (ctxArc 1).first + (ctxArc 1).m ≤ 16 ∧ x.frozen = false ∧ ladleSource (ctxArc 1).m ((ctxArc 1).posOf cd) 1 down = some src
      ∧ x.nextPayload ⟨0, down⟩ = some w ∧ x.ladle.tagged w.step w.bucket = some (bucket .outstanding) ∧ w.poisoned = false
      ∧ (bucket .outstanding).awaitsHeader 1 down 1 = true ∧ hdrElems w.bytes = 32 ∧ x.ladle.buckets = [bucket .outstanding] := by
  revert down; decide +kernel

/-- Rank 0 of eight modules of one die: an entry whose level 2 waits for line 1 of phase `p`. -/
def redEight : ReduceConfig := ⟨8, 0, 1, 0, 0x1000, 0⟩
def ctxEight : Context := { ctxRun with reduce := some redEight }
def tagEntry (p : Nat) : TreeTag :=
  { ctx := 7, step := 0, bucket := 0, up := (2, p, hdr false) :: (1, 1, hdr false) :: (if p = 1 then [(1, 1, zeros 64)] else [(1, 2, hdr false), (1, 2, zeros 64)]),
    upRecv := (2, 1, hdr false) :: (if p = 1 then [(2, 1, zeros 64)] else [(2, 2, hdr false), (2, 2, zeros 64)]) }
def sTree (p : Nat) : State :=
  let s := st ctxEight die
  { s with dev := { s.dev with fds := s.dev.fds.set 0 { s.dev.fds[(0 : Fin 2)] with tags := [tagEntry p] } } }
theorem wit_UpperTree (p : Fin 2) : let s := sTree (p.val + 1)
    let n := ctxEight.fdNode redEight
    let t := tagEntry (p.val + 1)
    s.dev.ctxAt 2 = some ctxEight ∧ redEight.treeFd = 0 ∧ redEight.modules ≠ 1 ∧ ctxEight.withholds = false ∧ ctxEight.aborted = false ∧ s.dev.isGone ctxEight.tag = false
      ∧ n.c + 1 < 2 ∧ 2 < n.top ∧ n.child 2 = some 2 ∧ s.dev.fds[(0 : Fin 2)].tag ctxEight.tag (BitVec.ofNat 32 (s.dev.stepNo ctxEight)) 0 = some t ∧ t.stopped = false
      ∧ (t.up.filter fun l => l.1 == 2 && l.2.1 == p.val + 1).length = 1 ∧ t.upLine 1 1 0 = some (hdr false) ∧ t.recvLine 2 1 0 = some (hdr false)
      ∧ hdrPresent (hdr false) = true ∧ t.upLine 1 (p.val + 1) 1 = some (zeros 64) ∧ t.recvLine 2 (p.val + 1) 1 = some (zeros 64) ∧ ∀ l ∈ t.up, l.1 ≠ n.top := by
  revert p; decide +kernel

/-! The MOVEs into and out of the Ladle store. -/

/-- Channel 3 MOVEs of two lines into and out of the last two lines of an open bucket of 32 elements, from and to the own bonded SRAM. -/
def sMoveLadle (into : Bool) : State :=
  sMove 8 0 2 (if into then 8 else 2) (if into then 0x100000000000 else 128) (if into then 128 else 0x100000000000)
    fun x => { x with ladle := { x.ladle with buckets := [bucket .isOpen] } }
theorem wit_MoveLadle (into : Bool) : let x := (sMoveLadle into).dev.dies[(0 : Cd)]
    let e := entry (cmdWord 1 0)
    let m := x.moveCmd e
    Starts (sMoveLadle into) 0 8 1 ctxStream e ∧ Fresh e ∧ (sMoveLadle into).dev.stopping ctxStream = false ∧ m.dk = (if into then 2 else 0) ∧ m.lines = 2
      ∧ (sMoveLadle into).dev.yalkenUp = true ∧ x.ladleMoveFault 0 m = none ∧ (sMoveLadle into).dev.moveServed ctxStream 0 3 m = true := by
  refine ⟨?_, ?_, ?_, ?_, ?_, rfl, ?_, ?_⟩
  all_goals (try unfold Starts); (try unfold Fresh); revert into; decide +kernel
theorem wit_MoveLadle_lines (k : Fin 2) : let m := fun (b : Bool) => (sMoveLadle b).dev.dies[(0 : Cd)].moveCmd (entry (cmdWord 1 0))
    MoveReads (sMoveLadle true) ctxStream 0 (m true) k.val (List.replicate 64 0) ∧ MoveWrites (sMoveLadle false) ctxStream 0 (m false) k.val
      ∧ MemoriesOk (sMoveLadle true).dev ∧ MemoriesOk (sMoveLadle false).dev := by
  refine ⟨moveReads_of ?_, moveWrites_of ?_, memOk ?_, memOk ?_⟩ <;> (try revert k) <;> decide +kernel

/-! Scales, Sieve, queues and the Course. -/

/-- A TAP of a kind whose area is given, on MA mask 0b0101. -/
def sTap (kind n area : Nat) : State := eng 11 (cmdWord 1 0) [kind * 256 + 5 * 2 ^ 16 + 3 * 2 ^ 24, n, area]
def tapCheck (kind n area : Nat) : Bool :=
  let x := (sTap kind n area).dev.dies[(0 : Cd)]
  let e := entry (cmdWord 1 0)
  decide ((sTap kind n area).dev.startable 0 11 1 = some (ctxRun, e)) && x.recField e 1 1 % 4 == kind && x.recAddr e 0x10 == area && x.recField e 8 4 == n
/-- NORM at the first line of the window and up to its last byte, and one line beyond each end; SCALES and SIEVE. -/
theorem wit_Taps : tapCheck 0 0 0x100000000000 = true ∧ tapCheck 0 4 (0x100080000000 - 256) = true ∧ tapCheck 0 4 (0x100080000000 - 192) = true
    ∧ tapCheck 0 0 (0x100000000000 - 64) = true ∧ tapCheck 1 3 0 = true ∧ tapCheck 2 3 0x100000000000 = true := by decide +kernel
/-- A REPORT into the first lines of the own bonded SRAM. -/
def sReport (clear : Nat) : State := eng 11 (cmdWord 2 0) [clear * 256, 0x100000000000]
theorem wit_Report (clear : Fin 2) : let s := sReport clear.val
    let x := s.dev.dies[(0 : Cd)]
    let e := entry (cmdWord 2 0)
    Starts s 0 11 2 ctxRun e ∧ x.sieve.sample = none ∧ x.recAddr e 8 = 0x100000000000 ∧ x.recField e 1 1 % 2 = clear.val
      ∧ (s.dev.putBytes ctxRun 0 .telemetry (x.recAddr e 8) (zeros 1152)).2 = none := by
  refine ⟨?_, ?_, ?_, ?_, ?_⟩
  all_goals (try unfold Starts); revert clear; decide +kernel
/-- A written sample of no rows, whose threshold of `cnt` elements has or has not been raised before. -/
def sample (cnt : Nat) : Sample :=
  { ma := 1, j := 0, tileId := 9, rows := 0, chunks := [], bytes := 0, arm := ⟨4, 0, 2, cnt, 0, 0, 0⟩, readout := some (⟨[], [], [], [], 0, []⟩, []) }
def sSieve (cnt : Nat) (raised : Bool) : State := st ctxRun { die with sieve := { ({} : Sieve) with sample := some (sample cnt), raised := raised } }
theorem wit_Comparison (cnt : Fin 2) (raised : Bool) : let s := sSieve cnt.val raised
    let x := s.dev.dies[(0 : Cd)]
    s.dev.residentOf 0 = some ctxRun ∧ x.frozen = false ∧ s.dev.enginesHeld ctxRun = false ∧ x.sieve.sample = some (sample cnt.val) ∧ x.sieve.raised = raised ∧ NoLinkErrors s
      ∧ (((sample cnt.val).binList ⟨[], [], [], [], 0, []⟩ []).filter fun b => decide ((sample cnt.val).arm.bin ≤ b)).length = 0 := by
  unfold NoLinkErrors; revert cnt raised; decide +kernel
/-- R293: the exact boundaries of the bins: 2⁻¹⁴, 2⁻¹ and just below it, against the wide value 2. -/
theorem test_bins : disagreeBin (.fin false 2 0) (.fin false 2 0) = 0 ∧ disagreeBin (.fin false ((2 ^ 14 + 1) * 2) (-14)) (.fin false 2 0) = 2
    ∧ disagreeBin (.fin false 3 0) (.fin false 2 0) = 15 ∧ disagreeBin (.fin false 23 (-3)) (.fin false 2 0) = 14 ∧ disagreeBin (.fin true 1 0) (.fin false 0 0) = 15
    ∧ disagreeBin (.fin false 0 0) (.fin false 0 0) = 0 := by decide +kernel

/-- A command that gives to link 0 and takes from link 1, in a stage of its life, or a SYNC that waits for both. -/
def linked (op : Nat) : QEntry := entry (cmdWord op 0 + 2 ^ 27 + 2 ^ 33 + 2 ^ 34)
def sQueue (e : QEntry) : State := st ctxRun { die with links := [⟨0, 1, 4, 4, 0⟩, ⟨1, 0, 4, 0, 4⟩], queues := (Vector.replicate 12 []).set 0 [e] }
def eRead : QEntry := { linked 1 with started := true, inputRead := true }
def eDone : QEntry := { linked 1 with started := true, inputRead := true, released := true, done := true, svals := [(3, 64)] }
theorem wit_Points : (∀ e ∈ [eRead, eDone], (sQueue e).dev.residentOf 0 = some ctxRun ∧ (sQueue e).dev.dies[(0 : Cd)].frozen = false
      ∧ (sQueue e).dev.enginesHeld ctxRun = false ∧ cwTe e.w = true ∧ cwTl e.w = 1 ∧ cwGe e.w = true ∧ cwGl e.w = 0)
    ∧ ((sQueue eRead).dev.dies[(0 : Cd)].queues[(0 : QueueId)].find? fun e => e.started && e.inputRead && !e.released) = some eRead
    ∧ ((sQueue eDone).dev.dies[(0 : Cd)].queues[(0 : QueueId)].find? fun e => e.started && e.done && e.released && !e.stopped && !(isClose 0 e &&
        ((sQueue eDone).dev.dies[(0 : Cd)].queues[(0 : QueueId)].any fun b => isClose 0 b && decide (b.no < e.no)))) = some eDone
    ∧ (sQueue eDone).dev.companionWait ctxRun 0 0 = false := by decide +kernel
/-- A SYNC whose links have a credit and a token, and one whose give has no credit left. -/
def sBare : State := st ctxRun { die with links := [⟨0, 1, 4, 0, 4⟩, ⟨1, 0, 4, 0, 4⟩], queues := (Vector.replicate 12 []).set 0 [linked 0x3F] }
theorem wit_Sync : Starts (sQueue (linked 0x3F)) 0 0 0x3F ctxRun (linked 0x3F) ∧ Fresh (linked 0x3F) ∧ headOf sBare.dev.dies[(0 : Cd)].queues[(0 : QueueId)] = some (linked 0x3F)
    ∧ cwOp (linked 0x3F).w = 0x3F ∧ sBare.dev.dies[(0 : Cd)].linkWait (linked 0x3F) ≠ none ∧ cutOf sBare.dev.dies[(0 : Cd)].queues[(0 : QueueId)] = none := by
  unfold Starts Fresh; decide +kernel
theorem wit_Points_flags (e : QEntry) (j : Nat) : moveFlag 0 e j = false := by
  simp [moveFlag, show ((0 : QueueId) == 6) = false from by decide, show ((0 : QueueId) == 7) = false from by decide]

/-- A CLOSE at its completion point whose record asks for a completion record, to the first lines of the own bonded SRAM. -/
def eClosed : QEntry := { entry (cmdWord 2 1) with started := true, inputRead := true, released := true, done := true }
def bClosed : Bucket := { bucket .completed with closeNo := 1 }
def sClosed : State :=
  st ctxRed { die with loc := memStore 0 [] 64 (record [0x200, 0, 0x100000000000]), ladle := { ({} : Ladle) with buckets := [bClosed] },
                       queues := (Vector.replicate 12 []).set 10 [eClosed] }
theorem wit_Points_close : let x := sClosed.dev.dies[(0 : Cd)]
    sClosed.dev.completing 0 10 = some (ctxRed, eClosed) ∧ isClose 10 eClosed = true ∧ (x.ladle.buckets.find? fun b => b.state == .completed && b.closeNo == eClosed.no) = some bClosed
      ∧ ctxRed.reduce = some redOne ∧ le (x.planBytes (bClosed.recordOff + 1) 1) / 2 % 2 = 1
      ∧ (sClosed.dev.putBytes ctxRed 0 .ladle (wrap52 (le (x.planBytes (bClosed.recordOff + 0x10) 8) % 2 ^ 52 + bClosed.ga.toNat))
          (bClosed.record (ctxRed.node redOne (ctxRed.posOf 0)) ctxRed.tag bClosed.code bClosed.total bClosed.totals)).2 = none
      ∧ sClosed.dev.residentOf 0 = some ctxRed ∧ x.frozen = false ∧ sClosed.dev.enginesHeld ctxRed = false := by decide +kernel
theorem wit_Points_close_flags (j : Nat) : moveFlag 10 eClosed j = false := by
  simp [moveFlag, show ((10 : QueueId) == 6) = false from by decide, show ((10 : QueueId) == 7) = false from by decide]

/-- A plan of one phase with one round of tiles and one more. -/
def onePhase : Plan :=
  { image := 0, bytes := 0, planId := 0, m := 2, entry := 0, crc := 0, phases := [⟨4096, 0, 1, 1, 0xFFFFF, 0xFFFFF, 0xFFFFF, 0⟩] }
def ctxCourse : Context := { ctxRun with logM := 1, plan := some onePhase }
/-- Both dies of the arc with their Courses. -/
def sCourse (k0 k1 : Course) : State :=
  { State.reset with dev := { Device.reset with ctxs := [ctxCourse], dies := ((Vector.replicate 16 {}).set 0 { die with course := k0 }).set 1 { die with course := k1 } } }
/-- Own tile of round 0, whole. -/
def ownTile (pos : Nat) : CTile := { owner := pos, round := 0, lines := (List.range 272).map fun i => (i, []) }
theorem wit_StartMarker : let s := sCourse { counter := some 0 } {}
    s.dev.residentOf 1 = some ctxCourse ∧ ctxCourse.plan = some onePhase ∧ ctxCourse.runsNow = true ∧ ctxCourse.held = false
      ∧ s.dev.dies[(1 : Cd)].course.counter = none ∧ s.dev.dies[(1 : Cd)].course.resume = none ∧ s.dev.dies[ctxCourse.cdAt 0].course.awaitsStart = false := by
  decide +kernel
/-- READY(0) of position 1, which holds its tile or does not. -/
theorem wit_Ready (has paused : Bool) : let s := sCourse { counter := some 0, readyNo := 1, flagNo := (Vector.replicate 16 0).set 0 1 } { counter := some 64, out := if has then [ownTile 1] else [], pause := if paused then some 1 else none }
    let k := s.dev.dies[(1 : Cd)].course
    s.dev.residentOf 1 = some ctxCourse ∧ k.readyNo = 0 ∧ onePhase.startOf 0 = some 2048 ∧ k.counter.isSome = true ∧ k.resume = none ∧ k.pause = (if paused then some 1 else none)
      ∧ s.dev.dies[(1 : Cd)].frozen = false ∧ onePhase.startOf (k.flagsTo onePhase.m) = some 2048 ∧ onePhase.startOf k.round = some 2048 ∧ k.ready onePhase 1 0 = has := by
  revert has paused; decide +kernel
theorem wit_Flags : let s := sCourse { counter := some 0, readyNo := 1, pause := some 1 } { counter := some 64 }
    (0 : Fin 16).val < ctxCourse.m ∧ s.dev.dies[(1 : Cd)].course.counter.isSome = true
      ∧ s.dev.dies[(1 : Cd)].course.flagNo[(0 : Fin 16)] < s.dev.dies[ctxCourse.cdAt 0].course.readyNo ∧ s.dev.dies[ctxCourse.cdAt 0].course.pause = some 1
      ∧ s.dev.dies[(1 : Cd)].course.resume = none ∧ ctxCourse.resumeDue = false := by
  decide +kernel
/-- Round 0 with every READY(0), and with one missing. -/
theorem wit_Round (paused : Bool) : let s := fun flag => sCourse {} { counter := some 1500, readyNo := 1, flagNo := ((Vector.replicate 16 flag).set 1 1), out := [ownTile 1], pause := if paused then some 1 else none }
    let k := fun flag => (s flag).dev.dies[(1 : Cd)].course
    (∀ flag < 2, (s flag).dev.residentOf 1 = some ctxCourse ∧ onePhase.startOf (k flag).round = some 2048 ∧ (k flag).resume = none ∧ (k flag).round = 0
      ∧ (k flag).pause = (if paused then some 1 else none) ∧ (k flag).counter.isSome = true ∧ (s flag).dev.dies[(1 : Cd)].frozen = false)
      ∧ onePhase.startOf (k 1).readyNo = some 6144 ∧ onePhase.startOf ((k 1).flagsTo onePhase.m) = some 6144 ∧ onePhase.startOf ((k 0).flagsTo onePhase.m) = some 2048 := by
  revert paused; decide +kernel
/-- A CD of no context. -/
theorem wit_Line_none : (sCourse {} {}).dev.residentOf 5 = none := by decide +kernel
/-- A weight line of the tile of position 0 that arrives at position 1, the last of the arc, and one at position 0 of a ring that is to go on. -/
def wLine (hop : Nat) (owner : Nat) : CLine := ⟨false, owner, 0, 271, 0, true, hop, 0, false, zeros 64⟩
theorem wit_Line_last : let s := sCourse {} { counter := some 2100, round := 1, inCw := [wLine 1 0] }
    s.dev.residentOf 1 = some ctxCourse ∧ s.dev.dies[(1 : Cd)].course.inCw = wLine 1 0 :: [] ∧ s.dev.dies[(1 : Cd)].frozen = false
      ∧ (wLine 1 0).round + (wLine 1 0).hop - 1 < s.dev.dies[(1 : Cd)].course.round ∧ nextPos onePhase.m (ctxCourse.posOf 1) true = none := by
  decide +kernel
/-- An adapter line that ends its hops at position 1, which takes it; and a Ladle line on its way from position 0 to 2 that passes position 1. -/
def aLine : CLine := { wLine 1 0 with adapter := true, entry := 0 }
def ctxAdapter : Context := { ctxCourse with plan := some { onePhase with aentries := [⟨0, 0, 1, 0, false, 1, 1⟩] } }
theorem wit_Line_adapter : let s := stAt 1 ctxAdapter { die with course := { ({} : Course) with counter := some 2100, round := 1, inCw := [aLine] } }
    let a : AEntry := ⟨0, 0, 1, 0, false, 1, 1⟩
    s.dev.residentOf 1 = some ctxAdapter ∧ s.dev.dies[(1 : Cd)].frozen = false ∧ ctxAdapter.resumeDue = false ∧ s.dev.dies[(1 : Cd)].course.inCw = aLine :: []
      ∧ aLine.adapter = true ∧ aLine.round < s.dev.dies[(1 : Cd)].course.round ∧ aLine.poisoned = false ∧ a.deliver.getLsbD (aLine.hop - 1) = true ∧ a.hops ≤ aLine.hop
      ∧ ∀ p ∈ ctxAdapter.plan, p.aentries[aLine.entry]? = some a := by
  decide +kernel
theorem wit_Line_passing : let c := ctxArc 2
    let l := line 2 true 2
    let s := stAt 1 c { die with course := { ({} : Course) with passCw := [l] } }
    let k := s.dev.dies[(1 : Cd)].course
    s.dev.residentOf 1 = some c ∧ s.dev.dies[(1 : Cd)].frozen = false ∧ c.resumeDue = false ∧ k.inCw = [] ∧ k.passCw = l :: [] ∧ l.down = true
      ∧ nextPos c.m (c.posOf 1) true = some 2 ∧ c.cdAt 2 ≠ 1 ∧ ∃ p, c.plan = some p := by
  exact ⟨by decide +kernel, rfl, rfl, rfl, rfl, rfl, by decide +kernel, by decide +kernel, _, rfl⟩
def ctxFour : Context := { ctxRun with logM := 2, plan := some { onePhase with m := 4 } }
theorem wit_Line_on : let s := stAt 1 ctxFour { die with course := { ({} : Course) with counter := some 2100, round := 1, inCw := [wLine 1 0] } }
    let k := s.dev.dies[(1 : Cd)].course
    s.dev.residentOf 1 = some ctxFour ∧ k.inCw = wLine 1 0 :: [] ∧ nextPos 4 (ctxFour.posOf 1) true = some 2 ∧ crossesHop 4 2 271 true = true
      ∧ k.round ≤ (wLine 1 0).round + (wLine 1 0).hop := by
  decide +kernel

/-! Controllers, companion memory, the package engine and the rings. -/

/-- A trained controller of CD 0 under a wheel whose first position has a code. -/
def sWheel (code : Nat) (l : Lpc) : State :=
  let p : Plan := { onePhase with phases := [⟨4096, 0, 1, 1, 0, 0, 0, BitVec.ofNat 64 code⟩], shareBase := [0x100000000000, 0x100000000000] }
  let s := st { ctxCourse with plan := some p } { die with course := { ({} : Course) with counter := some 2100, round := 1 } }
  { s with dev := { s.dev with lpcs := s.dev.lpcs.set 0 (Vector.replicate 2 l) } }
theorem wit_Wheel : (∀ code < 6, (sWheel code { trained := true }).dev.wheelCode 0 0 = code)
    ∧ ({ trained := true } : Lpc).windows % 2 ^ (2 - ({ trained := true } : Lpc).mult.toNat) = 0
    ∧ ({ trained := true, windows := 3 } : Lpc).windows % 2 ^ (2 - ({ trained := true, windows := 3 } : Lpc).mult.toNat) ≠ 0
    ∧ (sWheel 0 { trained := true, windows := 3 }).dev.mem.ueLines = [] ∧ (sWheel 0 { trained := true, windows := 3 }).dev.mem.ceLines = [] := by decide +kernel
/-- Lines 0 and 4 of the first tile are the first ones on devices 0 and 1. -/
theorem wit_Share (i : Fin 2) : let s := sWheel 1 { trained := true }
    let n := 4 * i.val
    ∃ c ∈ s.dev.ctxs, ∃ p ∈ c.plan, s.dev.lpcs[(0 : Cd)][i].trained = true ∧ s.dev.wheelCode 0 i = 1 ∧ s.dev.residentOf 0 = some c ∧ c.runsNow = true
      ∧ s.dev.enginesHeld c = false ∧ s.dev.dies[(0 : Cd)].course.reading p 0 = some ({ owner := 0, round := 0, lines := [] }, 0)
      ∧ s.dev.shareLine c 0 0x100000000000 0 n = .ok (64 * n, false) ∧ 64 * n % 2 ^ 37 / 256 % 2 = i.val
      ∧ (∀ j < n, s.dev.shareLine c 0 0x100000000000 0 j = .ok (64 * j, false) ∧ 64 * j % 2 ^ 37 / 256 % 2 ≠ i.val)
      ∧ s.dev.mem.ceLines = [] ∧ s.dev.readLine c 0 .tongs none (64 * n) = .ok (zeros 64) := by
  intro s n
  refine ⟨_, List.mem_cons_self, _, rfl, ?_, ?_, ?_, ?_, ?_, ?_, ok_of ?_, ?_, ?_, rfl, ok_of ?_⟩
  case refine_9 =>
    refine fun j hj => ⟨ok_of ?_, ?_⟩ <;> revert j hj i <;> decide +kernel
  all_goals revert i; decide +kernel
/-- R446, the codes of log entry 26: each field, from each multiplier, within the bounds after reset. -/
theorem wit_Mr4 : let s := sWheel 0 { trained := true }
    s.dev.lpcs[(0 : Cd)][(0 : Fin 2)].trained = true ∧ s.dev.loops[(1 : Fin 18)].low.toNat ≤ s.dev.loops[(1 : Fin 18)].high.toNat
      ∧ s.dev.loops[(1 : Fin 18)].high.toNat ≤ 2 := by decide +kernel
/-- A MOVE that waits for its companion line, and a registered window of one record. -/
def access : CompanionAccess := ⟨2, 0, 6, 0x200000000000, 0⟩
def eMove : QEntry := { entry (cmdWord 1 0) with started := true }
def sCompanion : State :=
  let s := st ctxRun { die with loc := memStore 0 [] 64 (record [2 ^ 32, 0x200000000000, 0x100000000000]), queues := (Vector.replicate 12 []).set 6 [eMove] }
  { s with dev := { s.dev with companion := [access], boat := { s.dev.boat with domains := s.dev.boat.domains.set 1 { windows := [⟨0x200000010000, 65536, 0x200000000000, 0, 0, 0⟩] } } } }
/-- A write of the HD that waits for the link, of a context or of none. -/
theorem wit_Companion_write (tag : BitVec 16) (h : tag = 7 ∨ tag = 0) : let d : Device := { sCompanion.dev with heldWrites := [⟨0x200000000040, zeros 4, tag⟩] }
    d.yalkenUp = false ∧ d.heldWrites[0]? = some ⟨0x200000000040, zeros 4, tag⟩ ∧ (tag = 7 → tag ≠ 0 ∧ d.ctxTag tag = some ctxRun) ∧ (tag = 0 → d.ctxTag tag = none) := by
  rcases h with rfl | rfl <;> decide +kernel
theorem wit_Companion : sCompanion.dev.companion[0]? = some access ∧ sCompanion.dev.ctxAt access.slot = some ctxRun
    ∧ (sCompanion.dev.dies[access.cd].queues[access.queue].find? fun e => e.started && cwOp e.w == 1) = some eMove
    ∧ sCompanion.dev.boat.domains[(1 : Fin 64)].windows[0]? = some ⟨0x200000010000, 65536, 0x200000000000, 0, 0, 0⟩ ∧ 65536 * 0 < 65536
    ∧ sCompanion.dev.boat.package = [] := by decide +kernel
/-- A line of its only record that the link answers with an error, and none. -/
theorem wit_Package : let w : Window := ⟨0x200000010000, 65536, 0x200000000000, 0, 0, 0⟩
    let bad : Device := { sCompanion.dev with mem := { sCompanion.dev.mem with errLines := [0x200000000000 / 64] } }
    bad.recordErr w 0 = true ∧ sCompanion.dev.recordErr w 0 = false := by decide +kernel

/-- A ring set of 64 entries of each ring. -/
def rings : RingSet :=
  { sqN := 6, cqN := 6, eqN := 6, sq := 0x200000000000, cq := 0x200000001000, eq := 0x200000002000, ctl := 0x200000003000, sts := 0x200000003040,
    sig := 0x200000003080, sigval := 5, coal := 0, mmio := false, signals := true, expected := 1 }
theorem wit_Apart : RingApart rings := by
  refine ⟨by decide +kernel, by decide +kernel⟩
/-- A full and a stopped event ring, and one with room for two events after drops. -/
theorem wit_Events : 2 ^ rings.eqN ≤ (({ rings with eqTail := 64 } : RingSet).eqTail - ({ rings with eqTail := 64 } : RingSet).eqHead).toNat
    ∧ RingApart { rings with eqTail := 64 } ∧ RingApart { rings with lost := 3, eqTail := 62 }
    ∧ (({ rings with lost := 3, eqTail := 62 } : RingSet).eqTail - ({ rings with lost := 3, eqTail := 62 } : RingSet).eqHead).toNat + 1 < 2 ^ rings.eqN := by
  refine ⟨by decide +kernel, ⟨by decide +kernel, by decide +kernel⟩, ⟨by decide +kernel, by decide +kernel⟩, by decide +kernel⟩
/-- The context with a ring set, and an entry of an opcode at its head when `r` has a tail of 1. -/
def sRing (r : RingSet) (c : Context := ctx) : State :=
  let s := st { c with ring := some r } die
  { s with dev := { s.dev with yalkenUp := true } }
theorem wit_Indices : ∀ r ∈ [rings, { rings with mmio := true }, { rings with holdoff := true, sigDue := true }, { rings with holdoff := true }],
    (sRing r).dev.ctxAt 2 = some { ctx with ring := some r } ∧ r.stopped = false ∧ r.lost = 0 ∧ RingWritable (sRing r).dev r ∧ (sRing r).dev.hdLineCode r.ctl.toNat = none := by
  unfold RingWritable; decide +kernel
/-- Doorbells are served from stage 0x6 on: in the state with that stage, and not in the one before it. -/
theorem wit_Doorbell_stage : 6 ≤ ({ (sRing { rings with mmio := true }).dev.start with stage := 6 } : Startup).stage.toNat
    ∧ ({ (sRing { rings with mmio := true }).dev.start with stage := 5 } : Startup).stage.toNat < 6 := by decide
/-- An event on a ring set whose status line the link answers with an error. -/
def sBadLine : State := let s := sRing rings; { s with dev := { s.dev with mem := { s.dev.mem with errLines := [rings.sts.toNat / 64] } } }
theorem wit_FailedWrite : let d := sBadLine.dev
    let c : Context := { ctx with ring := some rings }
    d.ctxAt 2 = some c ∧ c.tag ≠ 0 ∧ d.ctxTag c.tag = some c ∧ (∀ b ∈ d.ctxs, b.slot = 2 → b = c) ∧ d.yalkenUp = true ∧ rings.stopped = false ∧ rings.lost = 0
      ∧ (rings.eqTail - rings.eqHead).toNat < 2 ^ rings.eqN ∧ rings.sts.toNat / 64 ∈ d.mem.errLines ∧ 64 ∣ rings.sts.toNat := by decide +kernel
theorem wit_FailedWrite_mem : MemoriesOk sBadLine.dev := memOk (by decide +kernel)
/-- A tail 64 on lies inside its ring, one 65 on does not. -/
theorem wit_Inside : (({ rings with sqTail := 64 } : RingSet).sqTail - rings.sqHead).toNat ≤ 2 ^ rings.sqN
    ∧ ¬ (({ rings with sqTail := 65 } : RingSet).sqTail - rings.sqHead).toNat ≤ 2 ^ rings.sqN := by decide +kernel
/-- A waiting entry: opcode, gv, tag and number. -/
def sEntry (op gv tag seq : Nat) : State := put (sRing { rings with sqTail := 1 }) [(0x200000000000, bytesLE 1 op ++ bytesLE 1 gv ++ bytesLE 2 tag ++ bytesLE 4 seq)]
def entryIs (op gv tag seq : Nat) : Bool :=
  match (sEntry op gv tag seq).dev.waitingEntry (.ctx 2) with
  | some e => field e 0 1 == op && field e 1 1 == gv && field e 2 2 == tag && field e 4 4 == seq
  | none => false
theorem wit_Entries_writable (op gv tag seq : Nat) : RingWritable (sEntry op gv tag seq).dev { rings with sqTail := 1 } := by
  intro l h; exact absurd h List.not_mem_nil
/-- A good NOP, a wrong number, a wrong generation, a wrong version, a wrong tag, and an opcode not listed. -/
theorem wit_Entries : entryIs 0x3F 5 7 1 = true ∧ entryIs 0x3F 5 7 2 = true ∧ entryIs 0x3F 6 7 1 = true ∧ entryIs 0x3F 9 7 1 = true ∧ entryIs 0x3F 5 6 1 = true
    ∧ entryIs 0x3E 5 7 1 = true ∧ (0x3E ∉ contextOps) := by decide +kernel
/-- A taken descriptor. -/
def taken (op : Nat) (fields : List Nat := []) : Taken := ⟨BitVec.ofNat 8 op, 1, pad 64 (bytesLE 1 op ++ bytesLE 1 5 ++ bytesLE 2 7 ++ bytesLE 4 1 ++ record fields), 0⟩
/-- The descriptor at the head of a context's ring, and at the head of the admin ring. -/
def headed (c : Context) (t : Taken) : Context := { c with head := some t, ring := some { rings with sqTail := 1, sqHead := 1, expected := 2, reserved := 1 } }
def sHead (c : Context) (t : Taken) : State := sRing { rings with sqTail := 1, sqHead := 1, expected := 2, reserved := 1 } { c with head := some t }
def sAdmin (s : State) (t : Taken) : State := { s with dev := { s.dev with adminHead := some t } }
/-- A plan load that waits for the link with its first line, on a context's ring and on the admin ring. -/
theorem wit_Companion_head : let load := taken 0x15 [0x200000000040]
    let d : Device := { (sHead ctx load).dev with yalkenUp := false }
    d.waitingHeads[0]? = some (.ctx 2, 0x200000000040) ∧ d.head (.ctx 2) = some load
      ∧ (let own := taken 0x48 [0x200000000080]
        let e : Device := { d with adminHead := some own }
        e.waitingHeads[0]? = some (.admin, 0x200000000080) ∧ e.head .admin = some own) := by decide +kernel
theorem wit_Nop : let s := sHead ctxRun (taken 0x3F)
    s.dev.ctxAt 2 = some (headed ctxRun (taken 0x3F))
      ∧ s.dev.underReset (.ctx 2) = false ∧ (∀ u ∈ ctxRun.run, u.op ≠ 0x3F) ∧ (taken 0x3F).op = 0x3F ∧ (sAdmin s (taken 0x7F)).dev.adminHead = some (taken 0x7F) := by
  decide +kernel
/-- A completion that lands: its ring set, and the command that answers. -/
theorem wit_Lands : let s := sHead ctxRun (taken 0x3F)
    let r : RingSet := { rings with sqTail := 1, sqHead := 1, expected := 2, reserved := 1 }
    (headed ctxRun (taken 0x3F)).ring = some r ∧ RingApart r ∧ RingWritable s.dev r ∧ MemoriesOk s.dev
      ∧ exec (.contextNop 2) s = .next (Completed s s.dev (.ctx 2) (taken 0x3F) 0 0 []) :=
  ⟨rfl, ⟨by decide +kernel, by decide +kernel⟩, fun l h => absurd h List.not_mem_nil, memOk (by decide +kernel), rfl⟩
/-- R369: each of the listed opcodes at the head of a FAULTED context. -/
theorem wit_Faulted : ∀ op ∈ contextOps, let s := sHead { ctx with cond := .faulted } (taken op)
    (∃ c ∈ s.dev.ctxs, s.dev.ctxAt 2 = some c ∧ c.head = some (taken op) ∧ c.cond = .faulted ∧ c.resident = true ∧ c.run = none)
      ∧ s.dev.underReset (.ctx 2) = false ∧ (taken op).op.toNat = op := by decide +kernel
/-- The conditions on a descriptor at the head of a resident context without a run. -/
theorem wit_AtHead {c : Context} {t : Taken} {s : State} (op : Nat) (hs : s.dev.ctxs = [headed c t]) (hr : s.dev.resetting = none) (h : c.slot = 2) (hop : t.op.toNat = op)
    (hrun : c.run = none) (hres : c.resident = true) (hc : c.cond ≠ .faulted) (hy : s.dev.yalkenUp = true) : AtHead s 2 op (headed c t) t := by
  refine ⟨?_, rfl, hop, ?_, hrun, hres, hc, hy⟩
  · simp [Device.ctxAt, hs, headed, h]
  · simp [Device.underReset, hr]

/-! Context descriptors: plans, runs and steps. -/

/-- A context of grants with the rights r, w and x over the first GiB of its LPDDR5X, its bonded SRAM and companion memory with d. -/
def ctxPlan : Context := { ctx with pantry := (((Vector.replicate 64 0).set 0 (grant 0 0x3FFFF 0 + 2 ^ 82)).set 1 (grant 0x100000000 0x10007FFFF 1)).set 2 (grant 0x200000000 0x20003FFFF 2 + 2 ^ 83) }
/-- The smallest image of one position: one empty stroke, one line of RECORDS, queues of depth 4, one phase, no region, no stream. -/
def imgCells : List Host.Cell :=
  [(0, 79), (1, 88), (2, 80), (3, 76), (4, 5), (5, 1), (6, 7), (9, 5), (24, 52), (25, 18), (60, 200), (61, 248)]
  ++ [(62, 166), (63, 177), (64, 1), (66, 5), (68, 1), (72, 64), (73, 1), (80, 64), (96, 2), (98, 5), (100, 1), (104, 128)]
  ++ [(105, 1), (112, 64), (120, 64), (128, 3), (130, 5), (132, 1), (136, 192), (137, 1), (144, 80), (145, 1), (160, 5), (162, 5)]
  ++ [(164, 1), (168, 64), (169, 3), (176, 16), (192, 6), (194, 5), (196, 1), (200, 128), (201, 3), (208, 16), (224, 4), (226, 5)]
  ++ [(228, 1), (232, 192), (233, 3), (241, 1), (256, 7), (258, 5), (260, 1), (264, 192), (265, 4), (272, 64), (376, 5), (384, 9)]
  ++ [(448, 4), (449, 4), (450, 4), (451, 4), (452, 4), (453, 4), (454, 4), (455, 4), (456, 4), (457, 4), (458, 4), (459, 4)]
  ++ [(960, 5), (964, 1), (1152, 100), (1164, 1), (1216, 5)]
def imgLine (k : Nat) : List Byte := (List.range 64).map fun i => memGet 0 imgCells (64 * k + i)
def img : List Byte := (List.range 20).flatMap imgLine
/-- A PLAN_LOAD of the image at DPA 0, or of a line of zeros at 0x10000. -/
def sLoad (dpa n : Nat) : State :=
  let s := sHead ctxPlan (taken 1 [dpa, n])
  { s with dev := { s.dev with mem := { s.dev.mem with bytes := imgCells } } }
theorem wit_Load (dpa n : Nat) : AtHead (sLoad dpa n) 2 1 (headed ctxPlan (taken 1 [dpa, n])) (taken 1 [dpa, n]) :=
  wit_AtHead 1 rfl rfl rfl rfl rfl rfl (by decide) rfl
theorem wit_Load_fields : field (taken 1 [0, 1280]).entry 8 8 % 2 ^ 52 = 0 ∧ field (taken 1 [0, 1280]).entry 0x10 8 = 1280 := by decide +kernel
/-- The context that loads it. -/
def cLoad : Context := headed ctxPlan (taken 1 [0, 1280])
theorem wit_Image_lines : ∀ k < 20, (sLoad 0 1280).dev.planLine cLoad (64 * k) = .ok (imgLine k) := by
  intro k hk; apply ok_of; revert k hk; decide +kernel
/-- The CRC-32C register after each line of the image, its own field taken as zero. -/
def crcAt : List Nat := [0xffffffff, 0xcc45c81d, 0xab592610, 0xbb6736eb, 0x20522c6, 0xd6e2d721, 0x661b167d, 0x9e4de853, 0xacaf8d52, 0x651381de, 0x66b3c936, 0xc8a9abe3, 0x5ab5076e, 0x7b7d2ecd, 0x753fbf46, 0xac006284, 0x2e66d580, 0xb5bb99e0, 0x48ce1c9, 0x59ea4fc, 0x4e590737]
def crcLine (k : Nat) : List Byte := if k = 0 then (imgLine 0).take 0x3C ++ zeros 4 else imgLine k
theorem crc_line : ∀ k < 20, crc32cFrom (crcAt.getD k 0) (crcLine k) = crcAt.getD (k + 1) 0 := by decide +kernel
theorem crc_lines (n : Nat) (h : n ≤ 20) : crc32cFrom 0xFFFFFFFF ((List.range n).flatMap crcLine) = crcAt.getD n 0 := by
  induction n with
  | zero => rfl
  | succ k ih =>
    rw [List.range_succ, List.flatMap_append, List.flatMap_singleton, crc32cFrom, List.foldl_append]
    have := ih (by omega)
    rw [crc32cFrom] at this
    rw [this]
    exact crc_line k (by omega)
theorem img_cut : img.take 0x3C ++ zeros 4 ++ img.drop 0x40 = (List.range 20).flatMap crcLine := by
  have h : img = imgLine 0 ++ (List.range 19).flatMap fun k => imgLine (k + 1) := by
    simp only [img, List.range_succ_eq_map (n := 19), List.flatMap_cons, List.flatMap_map]
  have h2 : (List.range 20).flatMap crcLine = crcLine 0 ++ (List.range 19).flatMap fun k => imgLine (k + 1) := by
    simp only [List.range_succ_eq_map (n := 19), List.flatMap_cons, List.flatMap_map]
    simp [crcLine]
  have hl : (imgLine 0).length = 64 := by simp [imgLine]
  rw [h, h2, List.take_append_of_le_length (by omega), List.drop_left' hl]
  rfl
theorem img_crc : imageCrc img = 0xb1a6f8c8 := by
  rw [imageCrc, img_cut, crc32c, crc_lines 20 (le_refl _)]
  decide +kernel
theorem img_header (usable : Nat) : headerCheck img 1 usable = .ok () := by
  have h0 : field img 0 4 = 0x4C50584F := by decide +kernel
  have h1 : field img 4 1 = 5 := by decide +kernel
  have h2 : field img 5 1 = 1 := by decide +kernel
  have h3 : field img 6 2 = 7 := by decide +kernel
  have h4 : field img 8 8 = 1280 := by decide +kernel
  have h5 : field img 0x10 4 = 0 := by decide +kernel
  have h6 : field img 0x3C 4 = 0xb1a6f8c8 := by decide +kernel
  have h7 : img.length = 1280 := by simp [img, imgLine]
  simp [headerCheck, h0, h1, h2, h3, h4, h5, h6, h7, img_crc, demand]
  rfl
theorem wit_Image_check : (sLoad 0 1280).dev.planCheck cLoad img = .ok () := by
  have c1 : (tableCheck img 1) = .ok () := ok_of (by decide +kernel)
  have c2 : posCheck cLoad img (sectsOf img) 0 = .ok () := ok_of (by decide +kernel)
  have c3 : globalCheck (sectsOf img) 5 (placementCheck img 1) = .ok () := ok_of (by decide +kernel)
  have c4 : globalCheck (sectsOf img) 6 ((sLoad 0 1280).dev.regionsCheck cLoad img) = .ok () := ok_of (by decide +kernel)
  have c5 : globalCheck (sectsOf img) 4 ((sLoad 0 1280).dev.courseCheck cLoad img 1) = .ok () := ok_of (by decide +kernel)
  have c6 : globalCheck (sectsOf img) 7 (cLoad.fabricCheck img 1) = .ok () := ok_of (by decide +kernel)
  have hm : cLoad.m = 1 := by decide
  simp only [Device.planCheck, hm, img_header, c1, c3, c4, c5, c6]
  simp [c2, bind, Except.bind, pure, Except.pure]
theorem wit_Image_read : (sLoad 0 1280).dev.planImage cLoad 0 1280 = .ok img := by
  have h : ∀ n k, k + n ≤ 20 → (sLoad 0 1280).dev.planLines cLoad n (64 * k) (64 * k) = .ok ((List.range n).flatMap fun i => imgLine (k + i)) := by
    intro n
    induction n with
    | zero => intro k _; rfl
    | succ n ih =>
      intro k hk
      have hw : wrap52 (64 * k) = 64 * k := Nat.mod_eq_of_lt (by omega)
      rw [Device.planLines, hw, wit_Image_lines k (by omega)]
      have := ih (k + 1) (by omega)
      simp only [show 64 * (k + 1) = 64 * k + 64 from by omega] at this
      simp only [this, List.range_succ_eq_map, List.flatMap_cons, List.flatMap_map]
      simp [Nat.add_assoc, Nat.add_comm 1]
  have h1 := h 20 0 (by omega)
  have hi : ((List.range 20).flatMap fun i => imgLine (0 + i)) = img := by simp [img]
  have hl : img.length = 1280 := by simp [img, imgLine]
  rw [hi] at h1
  rw [Device.planImage, show ceilDiv (0 % 64 + 1280) 64 = 20 from by decide, show lineOf 0 = 64 * 0 from by decide, h1]
  simp [Except.map, List.take_of_length_le (le_of_eq hl)]
theorem wit_Image_sections : ∃ cs rs qs, sectAt (sectsOf img) 1 0 = some cs ∧ sectAt (sectsOf img) 2 0 = some rs ∧ sectAt (sectsOf img) 3 0 = some qs
    ∧ cs.bytes ≤ rs.load ∧ cs.off + cs.bytes ≤ 1280 ∧ rs.off + rs.bytes ≤ 1280 :=
  ⟨⟨0, 1, 5, 1, 0x140, 64, 0⟩, ⟨1, 2, 5, 1, 0x180, 64, 64⟩, ⟨2, 3, 5, 1, 0x1C0, 0x150, 0⟩, by decide +kernel⟩
theorem wit_Image_refused : let s := sLoad 0x10000 64
    ∃ e, s.dev.planImage (headed ctxPlan (taken 1 [0x10000, 64])) 0x10000 64 = .ok (zeros 64) ∧ s.dev.planCheck (headed ctxPlan (taken 1 [0x10000, 64])) (zeros 64) = .error e := by
  refine ⟨headErr 1 0, ok_of (by decide +kernel), ?_⟩
  have h : (match (sLoad 0x10000 64).dev.planCheck (headed ctxPlan (taken 1 [0x10000, 64])) (zeros 64) with | .ok _ => false | .error e => decide (e = headErr 1 0)) = true := by decide +kernel
  revert h
  cases (sLoad 0x10000 64).dev.planCheck (headed ctxPlan (taken 1 [0x10000, 64])) (zeros 64) with
  | ok r => simp
  | error e => simp

/-- A context under a plan of a position whose commit line has flags, and a run of an opcode. -/
def planSmall : Plan := { image := 0, bytes := 0, planId := 9, m := 1, entry := 0, crc := 0 }
def ctxStep (plan : Bool) : Context := { ctxPlan with plan := if plan then some planSmall else none }
/-- Flags, step and other bytes of the commit line of that context, which lies at the first line of the bonded SRAM. -/
def withLine (s : State) (flags step : Nat) (more : List Host.Cell := []) : State :=
  { s with dev := { s.dev with mem := { s.dev.mem with bytes := ([(0x100000000000, 5), (0x100000000001, BitVec.ofNat 8 flags), (0x100000000004, BitVec.ofNat 8 step)] : List Host.Cell).filter (fun c => c.2 != 0) ++ more } } }
/-- PLAN_RUN of a plan_id. -/
def tRun (id : Nat) : Taken := taken 2 [0x200000100000, 0, 0, 1, id]
def sRun (plan : Bool) (id flags : Nat) : State := withLine (sHead (ctxStep plan) (tRun id)) flags 3
theorem wit_PlanRun (plan : Bool) (id flags : Nat) : AtHead (sRun plan id flags) 2 2 (headed (ctxStep plan) (tRun id)) (tRun id) :=
  wit_AtHead 2 rfl rfl rfl rfl rfl rfl (by simp [ctxStep, ctxPlan, ctx]) rfl
theorem wit_PlanRun_cases : (∀ id ∈ [0, 9, 8], field (tRun id).entry 0x28 8 = id)
    ∧ (∀ flags ∈ [0, 1, 2], field ((sRun true 9 flags).dev.commitLine (ctxStep true)) 1 1 % 4 = flags) := by decide +kernel
/-- A memory without errors reads clean everywhere. -/
theorem clean_all {d : Device} (h1 : d.mem.ueLines = []) (h2 : d.mem.ueWords = []) (h3 : d.mem.errLines = []) (h4 : d.mem.ceLines = []) (a n : Nat) : CleanAt d a n := by
  refine ⟨?_, by simp [h4]⟩
  have h : ∀ a n, d.dataCode a n = none := by
    intro a n; unfold Device.dataCode; split <;> simp [h1, h2, h3]
  unfold Device.dataBad; split
  · rfl
  · simp [h]
theorem wit_PlanRun_line (plan : Bool) (id flags : Nat) : (sRun plan id flags).dev.dataBad (ctxStep plan).commitLine.toNat 64 = none := (clean_all rfl rfl rfl rfl _ _).1
/-- The same device with an uncorrectable word of bonded SRAM. -/
def badWord (s : State) (a : Nat) : State := { s with dev := { s.dev with mem := { s.dev.mem with ueWords := [a / 8] } } }
theorem wit_PlanRun_bad : (badWord (sRun true 0 0) 0x100000000000).dev.dataBad (ctxStep true).commitLine.toNat 64 = some (5, 0x100000000000)
    ∧ AtHead (badWord (sRun true 0 0) 0x100000000000) 2 2 (headed (ctxStep true) (tRun 0)) (tRun 0) :=
  ⟨by decide +kernel, wit_AtHead 2 rfl rfl rfl rfl rfl rfl (by decide) rfl⟩
/-- The run that waits for its start. -/
def uRun : Run := { planRunOf (tRun 0).entry 1 0 with begun := false }
def ctxWaits : Context := { ctxStep true with run := some uRun }
def sStart : State := withLine (sHead ctxWaits (tRun 0)) 0 3
theorem wit_RunStart : let c := headed ctxWaits (tRun 0)
    sStart.dev.ctxAt 2 = some c ∧ c.run = some uRun ∧ c.head = some (tRun 0) ∧ c.plan = some planSmall ∧ uRun.begun = false ∧ uRun.op = 2 ∧ c.resident = true
      ∧ c.first + c.m ≤ 16 ∧ c.cond ≠ .faulted ∧ sStart.dev.preempting c = false ∧ sStart.dev.underReset (.ctx 2) = false := by
  decide +kernel
theorem wit_RunStart_block : let c := headed ctxWaits (tRun 0)
    ∃ d1 args, sStart.dev.hdWrite c (wrap52 (uRun.args.toNat + 0x30))
      (bytesLE 8 uRun.attempt.toNat ++ bytesLE 8 (field (sStart.dev.commitLine c) 4 4 + field (sStart.dev.commitLine c) 8 1 * 2 ^ 32)) = (d1, none)
      ∧ d1.hdRead c uRun.args.toNat 64 = .ok args := by
  intro c
  have h : ∀ x : Device × Option ErrRec, (decide (x.2 = none) && isOk (x.1.hdRead c uRun.args.toNat 64)) = true →
      ∃ d1 args, x = (d1, none) ∧ d1.hdRead c uRun.args.toNat 64 = .ok args := by
    rintro ⟨d1, o⟩ hx
    simp only [Bool.and_eq_true, decide_eq_true_eq] at hx
    obtain ⟨args, ha⟩ := exists_ok hx.2
    exact ⟨d1, args, by rw [hx.1], ha⟩
  exact h _ (by decide +kernel)

/-- R263: a commit of no adapter, one that raises k at the end of its period, one that lowers it, and one that is pinned. -/
def line64 (k kmin kmax pin period n : Nat) : List Byte := bytesLE 1 5 ++ zeros 3 ++ bytesLE 4 3 ++ bytesLE 1 k ++ bytesLE 1 kmin ++ bytesLE 1 kmax ++ bytesLE 1 pin ++ bytesLE 2 period ++ bytesLE 2 n ++ zeros 48
def oneEntry (skipped : Bool) : List LogEntry := [⟨0, 0, 1, skipped, true⟩]
theorem wit_CommitLine : (∀ es ∈ [[], oneEntry true, oneEntry false], ∀ e ∈ es, ∀ f ∈ es, e.scale = true → f.scale = true → e.skipped = f.skipped)
    ∧ (∀ pin ∈ [0, 1], ∀ n ∈ [0, 99], let l := line64 24 0 24 pin 100 n
      l.length = 64 ∧ field l 8 1 ≤ 24 ∧ field l 9 1 ≤ 24 ∧ field l 0xA 1 ≤ 24 ∧ field l 0xE 2 < field l 0xC 2 ∧ field l 0xC 2 ≤ 65535
        ∧ decide (field l 0xB 1 % 2 = 1) = decide (pin = 1)) := by decide +kernel
/-- R263: the exponent rises after a whole clean period, falls with a skipped step, and stays otherwise. -/
theorem test_loss_scale : field (commitLineAfter (line64 5 0 24 0 100 99) {} (oneEntry false)) 8 1 = 6 ∧ field (commitLineAfter (line64 5 0 24 0 100 50) {} (oneEntry true)) 8 1 = 4
    ∧ field (commitLineAfter (line64 5 0 24 0 100 50) {} (oneEntry false)) 0xE 2 = 51 ∧ field (commitLineAfter (line64 5 0 24 1 100 99) {} (oneEntry false)) 8 1 = 5 := by decide +kernel

/-- STEP_COMMIT of a step with update entry U and rebuild entry B, and STEP_ROLLBACK. -/
def tCommit (td named u b : Nat) : Taken := taken 3 [td + named * 2 ^ 32, u + b * 2 ^ 16]
def tRollback : Taken := taken 4 [0, 0]
/-- A state with one stroke of code on CD 0. -/
def sStep (c : Context) (t : Taken) (flags : Nat) : State :=
  let s := withLine (sHead c t) flags 3
  { s with dev := { s.dev with dies := s.dev.dies.set 0 { die with codeStrokes := 1, cox := {} } } }
theorem wit_Commit (plan : Bool) (td named u b flags : Nat) : AtHead (sStep (ctxStep plan) (tCommit td named u b) flags) 2 3 (headed (ctxStep plan) (tCommit td named u b)) (tCommit td named u b) :=
  wit_AtHead 3 rfl rfl rfl rfl rfl rfl (by simp [ctxStep, ctxPlan, ctx]) rfl
theorem wit_Rollback (flags : Nat) : AtHead (sStep (ctxStep true) tRollback flags) 2 4 (headed (ctxStep true) tRollback) tRollback :=
  wit_AtHead 4 rfl rfl rfl rfl rfl rfl (by decide) rfl
/-- Strokes inside and outside CODE, the step of before, another, and the committed one, with and without an update segment. -/
theorem wit_Commit_cases : (∀ td ∈ [2, 3, 7], ∀ named ∈ [0, 1], ∀ k ∈ [0, 1], let t := tCommit td named k k
      field t.entry 8 4 = td ∧ field t.entry 0xC 1 % 2 = named ∧ field t.entry 0x10 2 = k ∧ field t.entry 0x12 2 = k)
    ∧ (let s := sStep (ctxStep true) (tCommit 3 0 0 0) 0
      field (s.dev.commitLine (ctxStep true)) 4 4 = 3 ∧ (∀ cd ∈ (ctxStep true).cds, s.dev.dies[cd].codeStrokes = 1))
    ∧ (∀ b ∈ [0, 1], field ((sStep (ctxStep true) tRollback (8 * b)).dev.commitLine (ctxStep true)) 1 1 / 8 % 2 = b) := by decide +kernel
/-- Logs without an entry: the commit, the roll-forward and the undo of a rollback run. -/
theorem wit_Commit_logs : let s := sStep (ctxStep true) (tCommit 3 0 0 0) 0
    let c := headed (ctxStep true) (tCommit 3 0 0 0)
    s.dev.logs c 3 = .ok [] ∧ (∃ d1, s.dev.keepWords c [] = .ok d1 ∧ isOk ((d1.commitWrite c []).rollForward c) = true) ∧ (∃ d, s.dev.rollForward c = .ok d)
      ∧ ∃ d, (sStep (ctxStep true) tRollback 8).dev.undoLog (headed (ctxStep true) tRollback) = .ok d := by
  refine ⟨ok_of ?_, exists_ok_with (P := fun d1 : Device => isOk ((d1.commitWrite _ []).rollForward _)) ?_, exists_ok ?_, exists_ok ?_⟩ <;> decide +kernel
/-- A segment that has stopped on every Cox, by HALT or otherwise. -/
def ctxHalted (op reason : Nat) : Context :=
  { ctxStep true with cond := .running, run := some { run with op := BitVec.ofNat 8 op, reason := BitVec.ofNat 8 reason } }
def tPhase (op phase : Nat) : Taken := { (if op = 3 then tCommit 3 0 0 0 else tRollback) with phase := phase }
theorem wit_Halted : ∀ op ∈ [3, 4], ∀ reason ∈ [5, 2], ∀ phase ∈ [6, 7], let t := tPhase op phase
    let c := headed (ctxHalted op reason) t
    let s := sStep (ctxHalted op reason) t 0xA
    s.dev.ctxAt 2 = some c ∧ c.run = some { run with op := BitVec.ofNat 8 op, reason := BitVec.ofNat 8 reason } ∧ c.head = some t ∧ t.op.toNat = op
      ∧ (∀ cd ∈ c.cds, s.dev.dies[cd].cox.run = .idle) ∧ c.resident = true ∧ s.dev.underReset (.ctx 2) = false := by decide +kernel
theorem wit_RollbackLine : (line64 5 0 24 0 100 7).length = 64 := by decide

/-! Context descriptors: loss scale, adapters, slots, reduction, routes. -/

/-- A context with a directory of 64 entries in its bonded SRAM and a cache region in its LPDDR5X. -/
def ctxAd : Context :=
  { ctxPlan with
    pantry := (ctxPlan.pantry.set 8 (grant 0x100000006 0x100000006 1)).set 9 (grant 0x100 0x1FF 0)
    roles := (ctxPlan.roles.set 8 2).set 9 3
    quota := 1 }
/-- The directory entry of handle 1 in a state, held by slots, with a body of `n` bytes at the second MiB of companion memory. -/
def adCells (state slots n : Nat) : List Host.Cell :=
  ([(0x100000006041, BitVec.ofNat 8 state), (0x100000006044, BitVec.ofNat 8 slots), (0x100000006052, 0x20), (0x100000006055, 0x20),
    (0x100000006060, BitVec.ofNat 8 n), (0x100000006061, BitVec.ofNat 8 (n / 256)), (0x100000006070, 0x77)] : List Host.Cell).filter fun c => c.2 != 0
def sAd (t : Taken) (state slots n : Nat) (more : List Host.Cell := []) (quota : Nat := 1) : State :=
  let s := sHead { ctxAd with quota := quota } t
  { s with dev := { s.dev with mem := { s.dev.mem with bytes := adCells state slots n ++ more } } }
def tAd (op pol : Nat) : Taken := taken op [1 + pol * 2 ^ 32, 0x20000000, 0x1000, 0x100000009000, 0x55]
def dirE (state slots n : Nat) : List Byte := bytesLE 1 0 ++ bytesLE 1 state ++ zeros 2 ++ bytesLE 2 slots ++ zeros 10 ++ bytesLE 8 0x200000200000 ++ zeros 8 ++ bytesLE 8 n ++ zeros 8 ++ bytesLE 8 0x77 ++ zeros 8
theorem wit_Adapters (op pol state slots : Nat) (h : (BitVec.ofNat 8 op).toNat = op) : AtHead (sAd (tAd op pol) state slots 0) 2 op (headed ctxAd (tAd op pol)) (tAd op pol) :=
  wit_AtHead op rfl rfl rfl h rfl rfl (by decide) rfl
theorem wit_Adapters_entry (state : Fin 4) (slots : Fin 2) : let s := sAd (tAd 0x10 1) state.val slots.val 0
    let e := dirE state.val slots.val 0
    field (tAd 0x10 1).entry 8 4 = 1 ∧ s.dev.entryOf (headed ctxAd (tAd 0x10 1)) 1 = some (0x100000006040, e) ∧ e.length = 64 ∧ field e 1 1 % 4 = state.val
      ∧ field e 4 2 = slots.val ∧ s.dev.mem.ueLines = [] := by
  refine ⟨?_, ?_, ?_, ?_, ?_, ?_⟩ <;> revert state slots <;> decide +kernel
/-- The entry's line and the commit line read clean, and an uncorrectable word of the entry. -/
theorem wit_Adapters_clean (op pol state slots a n : Nat) : CleanAt (sAd (tAd op pol) state slots 0).dev a n := clean_all rfl rfl rfl rfl a n
theorem wit_Adapters_bad (op : Fin 32) : let s := badWord (sAd (tAd op.val 1) 1 0 0) 0x100000006048
    AtHead s 2 op.val (headed ctxAd (tAd op.val 1)) (tAd op.val 1) ∧ s.dev.entryOf (headed ctxAd (tAd op.val 1)) 1 = some (0x100000006040, dirE 1 0 0)
      ∧ s.dev.dataBad 0x100000006040 64 = some (5, 0x100000006040) ∧ s.dev.mem.ceLines = [] :=
  ⟨wit_AtHead op.val rfl rfl rfl (by revert op; decide) rfl rfl (by decide) rfl, by revert op; decide +kernel, by revert op; decide +kernel, rfl⟩
theorem wit_Adapters_policy (state : Fin 4) (slots : Fin 2) : ∀ pol ∈ [0, 1, 2, 3],
    (sAd (tAd 0x10 1) state.val slots.val 0).dev.policyCode (headed ctxAd (tAd 0x10 1)) (dirPolicy (dirE state.val slots.val 0)) pol = 0 := by
  revert state slots; decide +kernel
def tLoss : Taken := taken 5 [0xF + 24 * 2 ^ 16 + 2 ^ 24 + 100 * 2 ^ 32]
theorem wit_LossScale : field tLoss.entry 8 1 % 16 = 15 ∧ field tLoss.entry 9 1 ≤ field tLoss.entry 0xA 1 ∧ field tLoss.entry 0xA 1 = 24 ∧ field tLoss.entry 0xC 2 = 100
    ∧ (BitVec.ofNat 8 5).toNat = 5 := by decide +kernel
/-- A FETCH to position 0 (or beyond the arc) of a body that is one item of rank 8, in 66 lines. -/
def tFetch (pos cache : Nat) : Taken := taken 0x11 [1 + pos * 2 ^ 32, cache]
def bodyCells : List Host.Cell :=
  [(0x200000200000, 5), (0x200000200002, 1), (0x200000200008, 0x80), (0x200000200009, 0x10), (0x200000200044, 8), (0x200000200046, 0xFF), (0x200000200047, 0xFF),
   (0x20000020004C, 0x80), (0x200000200050, 0x80), (0x200000200054, 2), (0x200000200058, 34)]
theorem wit_Fetch (pos cache state n quota : Nat) (more : List Host.Cell) :
    AtHead (sAd (tFetch pos cache) state 0 n more quota) 2 0x11 (headed { ctxAd with quota := quota } (tFetch pos cache)) (tFetch pos cache) :=
  wit_AtHead 0x11 rfl rfl rfl rfl rfl rfl (show ctx.cond ≠ .faulted by decide) rfl
theorem wit_Fetch_entry : ∀ state < 4, let s := sAd (tFetch 0 0x100000) state 0 4224
    s.dev.entryOf (headed ctxAd (tFetch 0 0x100000)) 1 = some (0x100000006040, dirE state 0 4224) ∧ field (dirE state 0 4224) 1 1 % 4 = state ∧ field (dirE state 0 4224) 0x20 8 = 4224 := by
  decide +kernel
/-- The last range of the region, one line beyond it, a cache that is no line, a position beyond the arc. -/
theorem wit_Fetch_cache : let ok := fun (pos cache : Nat) => decide (pos < ctxAd.m ∧ cache % 64 = 0 ∧ ctxAd.roleCovers 3 pos cache 4224 = true)
    ok 0 (0x200000 - 4224) = true ∧ ok 0 (0x200000 - 4160) = false ∧ ok 0 0x100020 = false ∧ ok 1 0x100000 = false ∧ field (tFetch 0 (0x200000 - 4224)).entry 0x10 8 % 2 ^ 52 = 0x200000 - 4224
      ∧ field (tFetch 1 0).entry 0xC 1 = 1 ∧ ctxAd.residents < ctxAd.quota ∧ ({ ctxAd with quota := 0 } : Context).quota ≤ ctxAd.residents := by
  decide +kernel
/-- A device whose LPDDR5X lines have been written under some keys. -/
def keyed (d : Device) (l : List (Nat × Nat)) : Device := { d with mem := { d.mem with lineKey := l } }
theorem keyed_readAs {d : Device} {l : List (Nat × Nat)} (h : ∀ p ∈ l, p.2 = 0) (h0 : d.mem.lineKey = []) (h1 : d.mem.fillKey = 0) (h2 : d.mem.rangeKey = []) :
    (keyed d l).readAs = d.readAs := by
  have hk : ∀ a, (keyed d l).mem.keyOf a = d.mem.keyOf a := by
    intro a
    simp only [keyed, Mem.keyOf, h0, h1, h2]
    cases hf : l.find? fun p => p.1 == a / 64 with
    | none => rfl
    | some p => simpa using h p (List.mem_of_find?_eq_some hf)
  have hb : ∀ dom a, (keyed d l).byteAt dom a = d.byteAt dom a := by
    intro dom a
    have hp : (keyed d l).place a = d.place a := rfl
    simp only [Device.byteAt, hk, hp]
    rfl
  funext dom a n
  simp only [Device.readAs, hb]
/-- What a copy of a line needs, on the device before any: where it is read and written, and that the bytes written stand there already. -/
def lineCopies (d : Device) (c : Context) (src dst : Nat) : Bool :=
  decide (wrap52 src = src) && decide (wrap52 dst = dst) && decide (dst / 64 * 64 = dst) && (match d.place src with | .companion _ => true | _ => false)
    && (match d.allowed c 0 .record false src with | .ok i => decide (pDomain c.pantry[i] = 0) | .error _ => false)
    && (match d.allowed c 0 .arrival true dst with | .ok i => decide (pDomain c.pantry[i] = 0) | .error _ => false)
    && decide (d.windowOf src = none) && decide (d.keyCheck src 0 = none) && decide (d.keyCheck dst 0 = none)
    && (match d.place dst with | .lpddr _ _ => true | _ => false) && decide (memStore 0 d.mem.bytes dst (d.readAs 0 src 64) = d.mem.bytes)
theorem keyed_read {d : Device} {c : Context} {l : List (Nat × Nat)} {src x : Nat} {i : Fin 64} (pkg : Option (Fin 64)) (hr : (keyed d l).readAs = d.readAs)
    (he : d.mem.errLines = []) (hp : d.place src = .companion x) (ha : d.allowed c 0 .record false src = .ok i) (hi : pDomain c.pantry[i] = 0)
    (hw : d.windowOf src = none) (hk : d.keyCheck src 0 = none) : (keyed d l).readLine c 0 .record pkg src = .ok (d.readAs 0 src 64) := by
  have e1 : (keyed d l).allowed c 0 .record false src = .ok i := ha
  have e2 : (keyed d l).windowOf src = none := hw
  have e3 : (keyed d l).keyCheck src 0 = none := hk
  have e4 : (keyed d l).place src = .companion x := hp
  have e5 : (keyed d l).mem.errLines = [] := he
  simp only [Device.readLine, e1, hi, e2, e3, Device.lineData, Device.dataCode, e4, e5, hr, List.contains_nil, Bool.false_eq_true, if_false]
theorem keyed_write {d : Device} {c : Context} {l : List (Nat × Nat)} {dst n off : Nat} {i : Fin 64} {bs : List Byte} (hu : d.mem.ueLines = []) (hce : d.mem.ceLines = [])
    (hd : d.boat.domains[(0 : Fin 64)].key = 0) (hp : d.place dst = .lpddr n off) (ha : d.allowed c 0 .arrival true dst = .ok i) (hi : pDomain c.pantry[i] = 0)
    (hk : d.keyCheck dst 0 = none) (hb : bs.length = 64) (hl : dst / 64 * 64 = dst) (hs : memStore 0 d.mem.bytes dst bs = d.mem.bytes) :
    (keyed d l).writeLine c 0 .arrival dst bs = .ok (keyed d (setKey l (dst / 64) 0)) := by
  have e1 : (keyed d l).allowed c 0 .arrival true dst = .ok i := ha
  have e3 : (keyed d l).keyCheck dst 0 = none := hk
  have e4 : (keyed d l).place dst = .lpddr n off := hp
  have e5 : ¬ bs.length < 64 := by omega
  have e6 : (keyed d l).boat.domains[(0 : Fin 64)].key = 0 := hd
  simp only [Device.writeLine, e1, hi, e3, e4, Device.writeAs, e5, if_false, e6, hl]
  simp only [keyed, hu, hce, hs, List.filter_nil]
theorem keyed_fetch {d : Device} {c : Context} {l : List (Nat × Nat)} {src dst x n off : Nat} {i j : Fin 64} (hr : (keyed d l).readAs = d.readAs)
    (he : d.mem.errLines = []) (hp : d.place src = .companion x) (ha : d.allowed c 0 .record false src = .ok i) (hi : pDomain c.pantry[i] = 0)
    (hw : d.windowOf src = none) (hk : d.keyCheck src 0 = none) (hu : d.mem.ueLines = []) (hce : d.mem.ceLines = [])
    (hd : d.boat.domains[(0 : Fin 64)].key = 0) (hpd : d.place dst = .lpddr n off) (had : d.allowed c 0 .arrival true dst = .ok j) (hj : pDomain c.pantry[j] = 0)
    (hkd : d.keyCheck dst 0 = none) (hl : dst / 64 * 64 = dst) (hs : memStore 0 d.mem.bytes dst (d.readAs 0 src 64) = d.mem.bytes) :
    (keyed d l).fetchLine c 0 src dst = .ok (keyed d (setKey l (dst / 64) 0)) := by
  have e1 : (keyed d l).place src = .companion x := hp
  have e2 : (keyed d l).windowOf src = none := hw
  have e3 : (if (c.packageDest dst).isSome then (keyed d l).servePackage src else keyed d l) = keyed d l := by simp only [Device.servePackage, e2, ite_self]
  have e4 := keyed_write (l := l) hu hce hd hpd had hj hkd (bs := d.readAs 0 src 64) (by simp only [Device.readAs, List.length_map, List.length_range]) hl hs
  simp only [Device.fetchLine, e1, Place.target, e3, keyed_read _ hr he hp ha hi hw hk, e4]
theorem copies {d : Device} {c : Context} (h0 : d.mem.lineKey = []) (h1 : d.mem.fillKey = 0) (h2 : d.mem.rangeKey = []) (hu : d.mem.ueLines = []) (hce : d.mem.ceLines = [])
    (he : d.mem.errLines = []) (hd : d.boat.domains[(0 : Fin 64)].key = 0) :
    ∀ (n src dst done : Nat) (l : List (Nat × Nat)), (∀ p ∈ l, p.2 = 0) → (∀ k < n, lineCopies d c (src + 64 * k) (dst + 64 * k) = true) →
      ∃ l', (∀ p ∈ l', p.2 = 0) ∧ (keyed d l).fetchLines c 0 n src dst done = (keyed d l', none) := by
  intro n
  induction n with
  | zero => intro src dst done l hl _; exact ⟨l, hl, rfl⟩
  | succ n ih =>
    intro src dst done l hl h
    have hk := h 0 (by omega)
    simp only [lineCopies, Nat.mul_zero, Nat.add_zero, Bool.and_eq_true, decide_eq_true_eq] at hk
    obtain ⟨⟨⟨⟨⟨⟨⟨⟨⟨⟨ws, wd⟩, al⟩, ps⟩, as⟩, ad⟩, win⟩, ks⟩, kd⟩, pd⟩, ms⟩ := hk
    have hf : (keyed d l).fetchLine c 0 src dst = .ok (keyed d (setKey l (dst / 64) 0)) := by
      cases hps : d.place src with
      | companion x =>
        cases hpd : d.place dst with
        | lpddr a b =>
          cases has : d.allowed c 0 .record false src with
          | error e => simp [has] at as
          | ok i =>
            cases had : d.allowed c 0 .arrival true dst with
            | error e => simp [had] at ad
            | ok j =>
              simp only [has, decide_eq_true_eq] at as
              simp only [had, decide_eq_true_eq] at ad
              exact keyed_fetch (keyed_readAs hl h0 h1 h2) he hps has as win ks hu hce hd hpd had ad kd al ms
        | _ => simp [hpd] at pd
      | _ => simp [hps] at ps
    obtain ⟨l', hl', he⟩ := ih (src + 64) (dst + 64) (done + 64) (setKey l (dst / 64) 0)
      (by
        intro p hp
        simp only [setKey, List.mem_cons, List.mem_filter] at hp
        rcases hp with rfl | ⟨hp, _⟩
        · rfl
        · exact hl p hp)
      (by
        intro k hk
        have := h (k + 1) (by omega)
        rwa [show src + 64 * (k + 1) = src + 64 + 64 * k from by omega, show dst + 64 * (k + 1) = dst + 64 + 64 * k from by omega] at this)
    exact ⟨l', hl', by rw [Device.fetchLines, ws, wd, hf]; exact he⟩
/-- A registered body whose lines stand in the cache range already. -/
def sFetch : State := sAd (tFetch 0 0x100000) 1 0 4224
def fetchDev : Device :=
  { sFetch.dev with mem := { sFetch.dev.mem with bytes := (bodyCells.map fun b => (b.1 - 0x200000100000, b.2)) ++ adCells 1 0 4224 ++ bodyCells } }
theorem fetch_lines : ∀ k < 66, lineCopies fetchDev (headed ctxAd (tFetch 0 0x100000)) (0x200000200000 + 64 * k) (0x100000 + 64 * k) = true := by decide +kernel
theorem wit_Fetch_body : ∃ d1, fetchDev.fetchLines (headed ctxAd (tFetch 0 0x100000)) 0 66 0x200000200000 0x100000 0 = (d1, none)
    ∧ d1.bodyOk (headed ctxAd (tFetch 0 0x100000)) 0x100000 4224 = true ∧ d1.ctxs = fetchDev.ctxs := by
  have h0 : fetchDev.mem.lineKey = [] := rfl
  have h1 : fetchDev.mem.fillKey = 0 := rfl
  have h2 : fetchDev.mem.rangeKey = [] := rfl
  obtain ⟨l, hl, h⟩ := copies (c := headed ctxAd (tFetch 0 0x100000)) h0 h1 h2 rfl rfl rfl (by decide +kernel) 66 0x200000200000 0x100000 0 [] (by simp) fetch_lines
  refine ⟨_, h, ?_, rfl⟩
  have hb : fetchDev.bodyOk (headed ctxAd (tFetch 0 0x100000)) 0x100000 4224 = true := by decide +kernel
  simpa only [Device.bodyOk, Device.bodyItems, keyed_readAs hl h0 h1 h2] using hb
theorem wit_Fetch_source : let e := dirE 1 0 4224
    field e 0x10 8 % 2 ^ 52 / 64 * 64 = 0x200000200000 ∧ (field e 0x20 8 + 63) / 64 = 66
      ∧ fetchDev.entryOf (headed ctxAd (tFetch 0 0x100000)) 1 = some (0x100000006040, e) := by decide +kernel
/-- A body that is one line of zeros. -/
theorem wit_Fetch_bad_body : let d := (sAd (tFetch 0 0x100000) 1 0 64).dev
    let r := d.fetchLines (headed ctxAd (tFetch 0 0x100000)) 0 1 0x200000200000 0x100000 0
    r.2 = none ∧ r.1.bodyOk (headed ctxAd (tFetch 0 0x100000)) 0x100000 64 = false := by decide +kernel

theorem wit_Fetch_clean (a n : Nat) : CleanAt fetchDev a n ∧ CleanAt sFetch.dev a n := ⟨clean_all rfl rfl rfl rfl a n, clean_all rfl rfl rfl rfl a n⟩
/-- A claim of a slot by a handle at a position, in an area at 0x8000 of bonded SRAM. -/
def claimWord (h pos sl : Nat) : Nat := h + pos * 2 ^ 24 + sl * 2 ^ 32
def sClaim (state held : Nat) : State :=
  sAd (taken 0x15) state 0 4224 (if held = 0 then [] else [(0x100000008000, BitVec.ofNat 8 held), (0x100000008003, 0x80)])
theorem wit_Claim : let c := headed ctxAd (taken 0x15)
    let d := fun state held => (sClaim state held).dev
    (d 0 0).entryOf c 64 = none
      ∧ (d 1 0).entryOf c 1 = some (0x100000006040, dirE 1 0 4224) ∧ dirState (dirE 1 0 4224) = 1
      ∧ (d 2 0).entryOf c 1 = some (0x100000006040, dirE 2 0 4224) ∧ dirState (dirE 2 0 4224) = 2 ∧ c.m = 1
      ∧ (∀ w ∈ [claimWord 1 0 0, claimWord 1 1 1023], w % 2 ^ 22 = 1) ∧ claimWord 1 1 1023 / 2 ^ 24 % 16 = 1 ∧ claimWord 1 1 1023 / 2 ^ 32 % 1024 = 1023
      ∧ field ((d 2 1).slotEntry c 0x8000 0 0) 0 4 / 2 ^ 31 % 2 = 1 ∧ field ((d 2 1).slotEntry c 0x8000 0 0) 0 4 % 2 ^ 22 = 1
      ∧ field ((d 2 2).slotEntry c 0x8000 0 0) 0 4 / 2 ^ 31 % 2 = 1 ∧ field ((d 2 2).slotEntry c 0x8000 0 0) 0 4 % 2 ^ 22 ≠ 1
      ∧ field ((d 2 0).slotEntry c 0x8000 0 0) 0 4 / 2 ^ 31 % 2 = 0 ∧ (∀ i ∈ (d 2 0).bodyItems c (dirCache (dirE 2 0 4224)), i.extra = false) := by
  decide +kernel
theorem wit_Claim_clean (state held a n : Nat) : CleanAt (sClaim state held).dev a n := clean_all rfl rfl rfl rfl a n
/-- A slot entry with an uncorrectable word. -/
theorem wit_Claim_bad : let d := (badWord (sClaim 2 0) 0x100000008008).dev
    let c := headed ctxAd (taken 0x15)
    d.entryOf c 1 = some (0x100000006040, dirE 2 0 4224) ∧ CleanAt d 0x100000006040 64 ∧ c.areaAt 0x8000 0 0 = 0x100000008000
      ∧ d.dataBad 0x100000008000 32 = some (5, 0x100000008000) :=
  ⟨by decide +kernel, ⟨by decide +kernel, fun l h => absurd h List.not_mem_nil⟩, by decide +kernel, by decide +kernel⟩
theorem stored {α β : Type} {x : α × Option β} (h : x.2 = none) : ∃ d, x = (d, none) := ⟨x.1, Prod.ext rfl h⟩
theorem wit_Claim_writes : let c := headed ctxAd (taken 0x15)
    let e := dirE 2 0 4224
    ∃ d1 d2, (sClaim 2 0).dev.putBytes c (c.cdAt 0) .record (c.areaAt 0x8000 0 0)
        (bytesLE 4 (1 + 2 ^ 31) ++ bytesLE 1 (dirHome e) ++ List.replicate 3 0 ++ bytesLE 8 (dirCache e) ++ bytesLE 8 (dirCommit e) ++ List.replicate 8 0) = (d1, none)
      ∧ d1.putBytes c (c.cdAt (dirHome e)) .record (c.areaAt 0x8000 (dirHome e) 0x28000) (bytesLE 8 (dirCache e + 2 ^ 63)) = (d2, none) := by
  intro c e
  have h : ∀ x : Device × Option (Nat × Nat × Nat), (decide (x.2 = none) && decide ((x.1.putBytes c (c.cdAt (dirHome e)) .record (c.areaAt 0x8000 (dirHome e) 0x28000) (bytesLE 8 (dirCache e + 2 ^ 63))).2 = none)) = true →
      ∃ d1 d2, x = (d1, none) ∧ d1.putBytes c (c.cdAt (dirHome e)) .record (c.areaAt 0x8000 (dirHome e) 0x28000) (bytesLE 8 (dirCache e + 2 ^ 63)) = (d2, none) := by
    rintro ⟨d1, o⟩ hx
    simp only [Bool.and_eq_true, decide_eq_true_eq] at hx
    obtain ⟨d2, h2⟩ := stored hx.2
    exact ⟨d1, d2, by rw [hx.1], h2⟩
  exact h _ (by decide +kernel)
/-- A list of one claim of an unknown handle, and one of a release of a free slot, whose status bytes can be written. -/
def tBind : Taken := taken 0x15 [0x200000300000, 1 + 0x8000 * 2 ^ 32, 0x200000400000]
def tRelease : Taken := taken 0x16 [0x200000300000, 1 + 0x8000 * 2 ^ 32, 0x200000400000]
def sBind : State := sAd tBind 2 0 4224 [(0x200000300000, 64)]
def sRelease : State :=
  let s := sHead { ctxAd with slotArea := some 0x8000 } tRelease
  { s with dev := { s.dev with mem := { s.dev.mem with bytes := adCells 2 0 4224 } } }
theorem wit_Bind_head : AtHead sBind 2 0x15 (headed ctxAd tBind) tBind := wit_AtHead 0x15 rfl rfl rfl rfl rfl rfl (show ctx.cond ≠ .faulted by decide) rfl
theorem wit_Release_head : AtHead sRelease 2 0x16 (headed { ctxAd with slotArea := some 0x8000 } tRelease) tRelease := wit_AtHead 0x16 rfl rfl rfl rfl rfl rfl (show ctx.cond ≠ .faulted by decide) rfl
theorem wit_Bind : let c := headed ctxAd tBind
    let r := ({ d := sBind.dev.modCtx 2 fun c => { c with slotArea := some 0x8000 } } : ClaimRun).claim c 0x8000 64
    (c.roleEntry 2).isSome = true ∧ field tBind.entry 0x10 2 = 1 ∧ field tBind.entry 0x14 4 = 0x8000 ∧ c.slotsBound = 0 ∧ sBind.dev.hdRead c (field tBind.entry 8 8 % 2 ^ 52) 8 = .ok (bytesLE 8 64)
      ∧ r.bad = none ∧ r.status = [0x14] ∧ (r.d.hdWrite c (field tBind.entry 0x18 8 % 2 ^ 52) r.status).2 = none := by
  refine ⟨?_, ?_, ?_, ?_, ok_of ?_, ?_, ?_, ?_⟩ <;> decide +kernel
/-- The same descriptors on a context without a directory region. -/
theorem wit_Bind_none (t : Taken) (op : Nat) (h : t.op.toNat = op) : AtHead (sHead ctxPlan t) 2 op (headed ctxPlan t) t ∧ ((headed ctxPlan t).roleEntry 2).isSome = false :=
  ⟨wit_AtHead op rfl rfl rfl h rfl rfl (show ctx.cond ≠ .faulted by decide) rfl, show (ctxPlan.roleEntry 2).isSome = false by decide +kernel⟩
theorem wit_Release : let c := headed { ctxAd with slotArea := some 0x8000 } tRelease
    let r := ({ d := sRelease.dev } : ClaimRun).release c 0x8000 0
    (c.roleEntry 2).isSome = true ∧ field tRelease.entry 0x10 2 = 1 ∧ c.slotArea = some 0x8000 ∧ sRelease.dev.hdRead c (field tRelease.entry 8 8 % 2 ^ 52) 4 = .ok (zeros 4)
      ∧ r.bad = none ∧ r.status = [0x18] ∧ (r.d.hdWrite c (field tRelease.entry 0x18 8 % 2 ^ 52) r.status).2 = none := by
  refine ⟨?_, ?_, ?_, ok_of ?_, ?_, ?_, ?_⟩ <;> decide +kernel

/-- REDUCE_CONFIG of modules, rank and log; the boundary values of each field. -/
def tConfig (modules rank fd log n : Nat) : Taken := taken 0x20 [modules + rank * 2 ^ 16 + 2 ^ 32, fd + log * 2 ^ 32, n]
def legal (t : Taken) : Bool :=
  let e := t.entry
  decide (1 ≤ field e 8 2 ∧ field e 8 2 ≤ 4096 ∧ field e 0xA 2 < field e 8 2 ∧ field e 0x10 1 ≤ 1 ∧ 1 ≤ field e 0x18 2 ∧ field e 0x18 2 ≤ 4096 ∧ field e 0x14 4 + 128 * field e 0x18 2 ≤ 2 ^ 31)
theorem wit_Config : legal (tConfig 1 0 0 0 1) = true ∧ legal (tConfig 4096 4095 1 (2 ^ 31 - 128 * 4096) 4096) = true ∧ legal (tConfig 0 0 0 0 1) = false ∧ legal (tConfig 4097 0 0 0 1) = false
    ∧ legal (tConfig 2 2 0 0 1) = false ∧ legal (tConfig 1 0 2 0 1) = false ∧ legal (tConfig 1 0 0 0 0) = false ∧ legal (tConfig 1 0 0 (2 ^ 31 - 127) 1) = false := by decide +kernel
/-- A context under the configuration of one module, with a fence or without, and one with a run. -/
def ctxConf (fenced : Bool) : Context := { ctxPlan with reduce := some ⟨1, 0, 1, 0, 0, 1⟩, fenced := fenced }
theorem wit_Config_head (fenced : Bool) (t : Taken) (op : Nat) (h : t.op.toNat = op) : AtHead (sHead (ctxConf fenced) t) 2 op (headed (ctxConf fenced) t) t :=
  wit_AtHead op rfl rfl rfl h rfl rfl (show ctx.cond ≠ .faulted by decide) rfl
theorem wit_Config_same : let same := fun (t : Taken) => decide (1 = field t.entry 8 2 ∧ 0 = field t.entry 0xA 2 ∧ (1 : BitVec 32).toNat = field t.entry 0xC 4)
    same (tConfig 1 0 0 0 1) = true ∧ same (tConfig 2 1 0 0 1) = false := by decide +kernel
theorem wit_Config_busy : let c : Context := { ctxConf true with run := some run, cond := .running }
    let s := sHead c (tConfig 1 0 0 0 1)
    s.dev.ctxAt 2 = some (headed c (tConfig 1 0 0 0 1)) ∧ (tConfig 1 0 0 0 1).op = 0x20 ∧ s.dev.underReset (.ctx 2) = false ∧ s.dev.yalkenUp = true ∧ run.op ≠ 0x20 ∧ c.resident = true ∧ c.cond ≠ .faulted := by
  decide +kernel
/-- A fence with nothing open, with an open bucket, and with a tag. -/
def sFence (open' tag : Bool) : State :=
  let s := sHead (ctxConf false) (taken 0x21)
  { s with dev := { s.dev with
      dies := if open' then s.dev.dies.set 0 { die with ladle := { ({} : Ladle) with buckets := [bucket .isOpen] } } else s.dev.dies
      fds := if tag then s.dev.fds.set 0 { s.dev.fds[(0 : Fin 2)] with tags := [{ ctx := 7, step := 1, bucket := 0 }] } else s.dev.fds } }
theorem wit_Fence (open' tag : Bool) : let s := sFence open' tag
    (((ctxConf false).cds.all fun cd => s.dev.dies[cd].ladle.buckets.all fun b => b.state == .aborted || b.state == .completed)
      && s.dev.fds[(0 : Fin 2)].tags.all fun g => g.ctx != 7) = (!open' && !tag) := by
  cases open' <;> cases tag <;> decide +kernel
/-- A device with other bytes of memory. -/
def withBytes (d : Device) (m : Memory) : Device := { d with mem := { d.mem with bytes := m } }
/-- Whole lines of companion memory can be written, whatever their bytes. -/
theorem companion_writes {d : Device} {c : Context} (hy : d.yalkenUp = true) (he : d.mem.errLines = []) : ∀ (n fuel a : Nat) (bs : List Byte) (m : Memory),
    bs.length ≤ 64 * n → n < fuel → a % 64 = 0 →
    (∀ k < n, (wrap52 (a + 64 * k) = a + 64 * k ∧ d.keyCheck (a + 64 * k) 0 = none ∧ d.place (a + 64 * k) = .companion (a + 64 * k - 0x200000000000))
      ∧ ∃ i, d.allowed c 0 .record true (a + 64 * k) = .ok i ∧ pDomain c.pantry[i] = 0) →
    ((withBytes d m).writeBytes c 0 .record fuel a bs).2 = none := by
  intro n
  induction n with
  | zero =>
    intro fuel a bs m hl hf _ _
    obtain rfl : bs = [] := List.length_eq_zero_iff.1 (by omega)
    cases fuel with
    | zero => omega
    | succ f => simp [Device.writeBytes]
  | succ n ih =>
    intro fuel a bs m hl hf ha h
    cases fuel with
    | zero => omega
    | succ f =>
      by_cases hb : bs = []
      · simp [Device.writeBytes, hb]
      obtain ⟨⟨hw, hk, hp⟩, i, hi, hd⟩ := h 0 (by omega)
      simp only [Nat.mul_zero, Nat.add_zero] at hw hk hp hi
      have e1 : (withBytes d m).allowed c 0 .record true a = .ok i := hi
      have e2 : (withBytes d m).keyCheck a 0 = none := hk
      have e3 : (withBytes d m).place a = .companion (a - 0x200000000000) := hp
      have e4 : (withBytes d m).writeLine c 0 .record a (bs.take 64)
          = .ok (withBytes d (memStore 0 m a (bs.take 64))) := by
        have e5 : (withBytes d m).mem.errLines = [] := he
        have e6 : (withBytes d m).yalkenUp = true := hy
        have e7 : ∀ ws, (withBytes d m).goodWrites ws = ws := fun ws => by simp [Device.goodWrites, e5]
        simp only [Device.writeLine, e1, hd, e2, e3, e5, Device.companionPut, e6, e7, List.contains_nil, Bool.false_eq_true, if_false, if_true]
        rfl
      have := ih f (a + 64) (bs.drop 64) (memStore 0 m a (bs.take 64)) (by rw [List.length_drop]; omega) (by omega) (by omega) (by
        intro k hk'
        have := h (k + 1) (by omega)
        simpa only [show a + 64 * (k + 1) = a + 64 + 64 * k from by omega] using this)
      simp only [Device.writeBytes, hb, if_false, ha, Nat.sub_zero, hw, e4]
      revert this
      generalize Device.writeBytes _ c 0 .record f (a + 64) (bs.drop 64) = r
      rcases r with ⟨d2, _ | ⟨e, l, x⟩⟩ <;> simp
/-- REDUCE_DIGEST of step 3 and bucket 5 with a writable destination, without a configuration and with one. -/
def tDigest : Taken := taken 0x23 [3 + 5 * 2 ^ 32, 0x200000300000]
theorem wit_Digest (conf : Bool) : let c : Context := if conf then ctxConf false else ctxPlan
    AtHead (sHead c tDigest) 2 0x23 (headed c tDigest) tDigest ∧ field tDigest.entry 0x10 8 % 2 ^ 52 = 0x200000300000
      ∧ ∀ bs : List Byte, bs.length = 256 → ((sHead c tDigest).dev.hdWrite (headed c tDigest) 0x200000300000 bs).2 = none := by
  intro c
  have hc : c.slot = 2 ∧ c.run = none ∧ c.resident = true ∧ c.cond ≠ .faulted := by cases conf <;> decide
  refine ⟨wit_AtHead 0x23 rfl rfl hc.1 rfl hc.2.1 hc.2.2.1 hc.2.2.2 rfl, by decide +kernel, fun bs hb => ?_⟩
  have hd : (headed c tDigest).cdAt 0 = 0 := by cases conf <;> decide +kernel
  obtain ⟨v, hp⟩ : ∃ v, ((sHead c tDigest).dev.place 0x200000300000).target = some (2, v) := ⟨_, rfl⟩
  have h : ((sHead c tDigest).dev.writeBytes (headed c tDigest) 0 .record 257 0x200000300000 bs).2 = none :=
    companion_writes (d := (sHead c tDigest).dev) (c := headed c tDigest) rfl rfl 4 257 0x200000300000 bs (sHead c tDigest).dev.mem.bytes (by omega) (by omega)
      (by decide) (by
        intro k hk
        refine ⟨by cases conf <;> (revert k hk; decide +kernel), 2, ok_of (by cases conf <;> (revert k hk; decide +kernel)), by cases conf <;> decide +kernel⟩)
  simp only [Device.hdWrite, Device.putBytes, hd, hb, hp]
  revert h
  generalize Device.writeBytes _ _ 0 .record 257 0x200000300000 bs = r
  rcases r with ⟨d2, _ | ⟨e, l, x⟩⟩ <;> simp
/-- FABRIC_ROUTE of one and of two entries: ports 0 and 1 of which the partition holds 0. -/
def tRoute (n : Nat) : Taken := taken 0x28 [0x200000300000, n]
def sRoute (n port : Nat) : State :=
  let s := sHead ctxPlan (tRoute n)
  { s with dev := { s.dev with mem := { s.dev.mem with bytes := ([(0x200000300000, 3), (0x200000300002, BitVec.ofNat 8 port), (0x200000300008, 3)] : List Host.Cell).filter fun c => c.2 != 0 } } }
theorem wit_Route_head (n port : Nat) : AtHead (sRoute n port) 2 0x28 (headed ctxPlan (tRoute n)) (tRoute n) := wit_AtHead 0x28 rfl rfl rfl rfl rfl rfl (by decide) rfl
/-- A table of no entry, and one of 17. -/
theorem wit_Route_ends : field (tRoute 0).entry 0x10 1 = 0 ∧ 16 < field (tRoute 17).entry 0x10 1 := by decide +kernel
theorem wit_Route : (∀ n ∈ [1, 2, 16], field (tRoute n).entry 0x10 1 = n ∧ isOk ((sRoute n 0).dev.hdRead (headed ctxPlan (tRoute n)) (field (tRoute n).entry 8 8 % 2 ^ 52) (8 * n)) = true)
    ∧ ctxPlan.portMask.getLsbD 0 = true ∧ ctxPlan.portMask.getLsbD 1 = false ∧ ctxPlan.treePeers = [] := by decide +kernel

/-! Admin descriptors: contexts. -/

/-- A state whose admin ring holds a descriptor, with contexts and key domain 1 installed. -/
def sAdm (cs : List Context) (t : Taken) (more : Device → Device := id) : State :=
  let d := { Device.reset with ctxs := cs, adminHead := some t, yalkenUp := true }
  { State.reset with dev := more { d with boat := { d.boat with domains := d.boat.domains.set 1 { d.boat.domains[(1 : Fin 64)] with state := .installed } } } }
theorem wit_AtAdmin (cs : List Context) (t : Taken) (op : Nat) (h : t.op.toNat = op) : AtAdmin (sAdm cs t) op t := ⟨rfl, h, rfl⟩
/-- CONTEXT_CREATE by tag, slot, first CD, log2 of the size, quota and ports. -/
def tCreate (tag slot first logM quota ports : Nat) : Taken :=
  taken 0x40 [tag + slot * 2 ^ 16 + (first + logM * 16) * 2 ^ 24 + quota * 2 ^ 32, 99, 0x1000, 0x40000000, 0x200000500000, ports]
/-- Which of the first six checks fail, by its number. -/
def createFails (cs : List Context) (t : Taken) : List Nat :=
  let e := t.entry
  let tag := field e 8 2
  let slot := field e 0xA 1
  let first := field e 0xB 1 % 16
  let logM := field e 0xB 1 / 16 % 8
  let same := fun (c : Context) => c.first == first && c.logM == logM
  let bad : Nat → Bool := fun k => match k with
    | 0 => decide (16 ≤ cs.length)
    | 1 => decide (tag = 0) || cs.any fun c => c.tag.toNat == tag
    | 2 => decide (15 < slot) || cs.any fun c => c.slot.val == slot
    | 3 => decide (4 < logM) || decide (first % 2 ^ logM ≠ 0)
    | 4 => cs.any fun c => !same c && decide (c.first < first + 2 ^ logM) && decide (first < c.first + c.m)
    | _ => cs.any fun c => (same c && c.portMask.toNat != field e 0x30 2) || (!same c && (c.portMask &&& BitVec.ofNat 16 (field e 0x30 2)) != 0)
  (List.range 6).filter bad
/-- Each check as the only one that fails, and none: sixteen contexts, a tag and a slot in use, an arc that is none, overlapping and shared arcs. -/
theorem wit_Create : createFails (List.replicate 16 ctx) (tCreate 9 3 1 0 4 0) = [0] ∧ createFails [ctx] (tCreate 7 3 1 0 4 0) = [1] ∧ createFails [ctx] (tCreate 0 3 1 0 4 0) = [1]
    ∧ createFails [ctx] (tCreate 9 2 1 0 4 0) = [2] ∧ createFails [ctx] (tCreate 9 16 1 0 4 0) = [2] ∧ createFails [ctx] (tCreate 9 3 1 1 4 0) = [3]
    ∧ createFails [] (tCreate 9 3 0 5 4 0) = [3] ∧ createFails [ctx] (tCreate 9 3 0 1 4 0) = [4] ∧ createFails [ctx] (tCreate 9 3 0 0 4 0) = [5]
    ∧ createFails [ctx] (tCreate 9 3 1 0 4 1) = [5] ∧ createFails [ctx] (tCreate 9 3 0 0 4 1) = [] ∧ createFails [ctx] (tCreate 9 15 1 0 65533 2) = []
    ∧ 65536 < ([ctx].map (·.quota)).sum + 65533 := by decide +kernel
/-- A grant block of one LPDDR5X grant in domain 1. -/
def sCreate : State := sAdm [] (tCreate 9 3 0 0 4 1) fun d => { d with mem := { d.mem with bytes :=
  [(0x200000500005, 0xFF), (0x200000500006, 0xFF), (0x200000500007, 3), (0x20000050000A, 0x13), (0x20000050000B, 0x10)] } }
theorem wit_Create_ok : let n := newContextOf (tCreate 9 3 0 0 4 1).entry
    let gs := grantsOf (memBytes 0 sCreate.dev.mem.bytes n.block 128)
    sCreate.dev.createCode n = none ∧ n.block = 0x200000500000
      ∧ sCreate.dev.adminRead n.block 128 = .ok (memBytes 0 sCreate.dev.mem.bytes n.block 128) ∧ sCreate.dev.grantFault n gs = none ∧ sCreate.dev.createCode2 n gs = none := by
  refine ⟨?_, ?_, ok_of ?_, ?_, ?_⟩ <;> decide +kernel
/-- CONTEXT_SWITCH of tags. -/
def tSwitch (out inn : Nat) : Taken := taken 0x43 [out + inn * 2 ^ 16]
def recvHeld : RecvStream := { pos := 0, stream := 0, cls := 4, depth := 1, peer := 3, held := 1 }
def ctxOut (landed : Bool) : Context := { ctx with plan := some { planSmall with recvs := if landed then [] else [recvHeld] } }
theorem wit_Switch_named (c : Context) (hc : c.tag = 7) (t : Taken) : (sAdm [c] t).dev.ctxTag 7 = some c ∧ (sAdm [c] t).dev.ctxAt c.slot = some c
    ∧ (sAdm [c] t).dev.ctxTag 8 = none ∧ (sAdm [c] t).dev.switching = none := by
  simp [sAdm, Device.ctxTag, Device.ctxAt, hc, Device.reset]
/-- No error lies in any range when the memory holds none. -/
theorem ranges_clean {d : Device} (h1 : d.mem.ueLines = []) (h2 : d.mem.ueWords = []) (h3 : d.mem.errLines = []) (rs : List (Nat × Nat)) : d.rangesBad rs = none := by
  have h : ∀ a n, d.badIn a n = none := by intro a n; simp [Device.badIn, h1, h2]
  simp [Device.rangesBad, h]
theorem wit_Switch_ranges (landed : Bool) : (sAdm [ctxOut landed] (tSwitch 7 0)).dev.rangesBad (ctxOut landed).saveReads = none
    ∧ ∀ cd ∈ (ctxOut landed).cds, (sAdm [ctxOut landed] (tSwitch 7 0)).dev.dies[cd].cox.bus = [] :=
  ⟨ranges_clean rfl rfl rfl _, by revert landed; decide +kernel⟩
/-- An uncorrectable word in the third line of the bonded SRAM that the context saves. -/
theorem wit_Switch_bad : let s := sAdm [ctxOut true] (tSwitch 7 0) fun d => { d with mem := { d.mem with ueWords := [0x100000000088 / 8] } }
    s.dev.rangesBad (ctxOut true).saveReads = some (0x100000000080, 0x80) ∧ s.dev.courseStill (ctxOut true) = true := by decide +kernel
theorem wit_Switch_out (landed : Bool) : let a := ctxOut landed
    BitVec.ofNat 16 (field (tSwitch 7 0).entry 8 2) = 7 ∧ BitVec.ofNat 16 (field (tSwitch 7 0).entry 0xA 2) = 0 ∧ a.resident = true
      ∧ a.executing = false ∧ a.cond = .idle ∧ a.first + a.m ≤ 16 ∧ a.messagesLanded = landed := by
  cases landed <;> decide +kernel
/-- One whose REDUCE_FENCE is still in hand, one with a Course line before its pause still to go, and a context of another arc. -/
theorem wit_Switch_executing : let a : Context := { ctx with head := some (taken 0x21) }
    a.executing = true ∧ a.cond = .idle ∧ a.tag = 7 := by decide +kernel
def ctxLine : Context := { ctx with plan := some onePhase, logM := 1 }
theorem wit_Switch_line : let s := sAdm [ctxLine] (tSwitch 7 0) fun d => { d with dies := d.dies.set 0 { course := { ({} : Course) with counter := some 2000, pause := some 1 } } }
    s.dev.courseStill ctxLine = false ∧ ctxLine.executing = false ∧ ctxLine.messagesLanded = true ∧ ctxLine.cond = .idle := by decide +kernel
theorem wit_Switch_still (landed : Bool) : (sAdm [ctxOut landed] (tSwitch 7 0)).dev.courseStill (ctxOut landed) = true := by revert landed; decide +kernel
theorem wit_Switch_arcs : let b : Context := { ctx with tag := 8, slot := 3, first := 1 }
    let s := sAdm [ctx, b] (tSwitch 7 8)
    BitVec.ofNat 16 (field (tSwitch 7 8).entry 8 2) = 7 ∧ BitVec.ofNat 16 (field (tSwitch 7 8).entry 0xA 2) = 8 ∧ s.dev.ctxTag 7 = some ctx ∧ s.dev.ctxTag 8 = some b
      ∧ ctx.first ≠ b.first := by decide +kernel
/-- A saved context whose header does or does not carry the generation kept. -/
def ctxIn (good : Bool) : Context := { ctx with resident := false, gens := [if good then 0 else 1], saved := some [die], pantry := Vector.replicate 64 0 }
theorem wit_Switch_in (good saved : Bool) : let s := sAdm [ctxIn good] (tSwitch 0 7) fun d => { d with mem := { d.mem with bytes := if saved then [(0x1001, 1)] else [] } }
    let a := ctxIn good
    BitVec.ofNat 16 (field (tSwitch 0 7).entry 8 2) = 0 ∧ BitVec.ofNat 16 (field (tSwitch 0 7).entry 0xA 2) = 7 ∧ a.resident = false ∧ a.cond = .idle ∧ a.aborted = false
      ∧ s.dev.gensMatch a = good ∧ a.reduce = none ∧ a.plan = none ∧ headerSaved (s.dev.headerOf a 0) = saved ∧ a.m = 1
      ∧ headerSaved (((s.dev.modMem fun m => m.takeEntries a.grants).loadSram a).headerOf a 0) = saved
      ∧ s.dev.dataCode (a.headerAt 0) 64 = none ∧ (∀ c ∈ s.dev.ctxs, c.slot = a.slot → c = a) ∧ (∀ c ∈ s.dev.ctxs, c.resident = false) := by
  cases good <;> cases saved <;> decide +kernel
theorem wit_Switch_in_ranges (good saved : Bool) : let s := sAdm [ctxIn good] (tSwitch 0 7) fun d => { d with mem := { d.mem with bytes := if saved then [(0x1001, 1)] else [] } }
    s.dev.rangesBad (s.dev.restoreReads (ctxIn good)) = none
      ∧ ((s.dev.restoreReads (ctxIn good)).foldl (fun (d : Device) (r : Nat × Nat) => d.eccRange r.1 r.2) s.dev).mem.bytes = s.dev.mem.bytes := by
  refine ⟨ranges_clean rfl rfl rfl _, ?_⟩
  cases good <;> cases saved <;> decide +kernel
/-- DESTROY of an idle, a saved and a running context; RESET of a resident one: all carry tag 7 in slot 2, as above. -/
theorem wit_Destroy : BitVec.ofNat 16 (field (taken 0x41 [7]).entry 8 2) = 7 ∧ ({ ctx with routes := [⟨3, 0, 1⟩] } : Context).routes.length = 1 ∧ ctxRun.cond = .running ∧ ctx.cond ≠ .running := by
  decide +kernel
theorem wit_Reset : let s := sAdm [ctxRun] (taken 0x42 [7])
    BitVec.ofNat 16 (field (taken 0x42 [7]).entry 8 2) = 7 ∧ s.dev.resetting = none ∧ ctxRun.resident = true ∧ s.dev.dump.p12 = false ∧ ctxRun.first + ctxRun.m ≤ 16 := by
  decide +kernel
theorem wit_Reset_saved : let c : Context := { ctx with resident := false }
    let s := sAdm [c] (taken 0x42 [7])
    s.dev.ctxTag 7 = some c ∧ s.dev.resetting = none ∧ c.resident = false ∧ s.dev.ctxAt c.slot = some c := by decide +kernel
/-- A reset that waits for one unit, for two, for the last forced release with a unit that is never forced behind it or none, and for such a unit. -/
def sReset (waiting forced : List (BitVec 16)) (stuck : Option (BitVec 16) := none) : State :=
  sAdm [ctx] (taken 0x42 [7]) fun d => { d with resetting := some { slot := 2, seq := 1, start := 0, waiting := waiting, forced := forced, nForced := forced.length, stuck := stuck } }
theorem wit_Reset_ends (w f : List (BitVec 16)) (k : Option (BitVec 16)) : (sReset w f k).dev.ctxAt 2 = some ctx ∧ (sReset w f k).dev.adminHead = some (taken 0x42 [7]) := by
  refine ⟨?_, rfl⟩
  simp [sReset, sAdm, Device.ctxAt, ctx]
theorem wit_Reset_units : (∀ j ∈ ([0x10, 0x20] : List (BitVec 16)), j.toNat / 16 % 64 < 10) ∧ 10 ≤ (0xA0 : BitVec 16).toNat / 16 % 64 := ⟨by simp, by decide⟩

/-! Admin descriptors: rings, loops, Boathouse, dumps. -/

/-- RING_BIND of a block at 0x200000600000 that keeps R362, or of one of zeros. -/
def tBindRing : Taken := taken 0x44 [7, 0x200000600000]
def ringBlock : List Host.Cell :=
  [(0x200000600000, 5), (0x200000600001, 6), (0x200000600002, 16), (0x200000600003, 6), (0x200000600004, 1), (0x20000060000D, 0x20), (0x200000600012, 0x10), (0x200000600015, 0x20),
   (0x200000600019, 0x10), (0x20000060001D, 0x20), (0x200000600021, 0x20), (0x200000600025, 0x20), (0x200000600028, 0x40), (0x200000600029, 0x20), (0x20000060002D, 0x20),
   (0x200000600030, 0x80), (0x200000600031, 0x20), (0x200000600035, 0x20)]
def sBindRing (c : Context) (block : List Host.Cell) : State := sAdm [c] tBindRing fun d => { d with mem := { d.mem with bytes := block } }
theorem wit_Bind_ring : let s := sBindRing ctx ringBlock
    let b := memBytes 0 s.dev.mem.bytes 0x200000600000 64
    s.dev.ctxTag (BitVec.ofNat 16 (field tBindRing.entry 8 2)) = some ctx ∧ field tBindRing.entry 0x10 8 % 2 ^ 52 = 0x200000600000 ∧ s.dev.adminRead 0x200000600000 64 = .ok b
      ∧ (ringOfBlock b).isSome ∧ s.dev.ctxAt 2 = some ctx ∧ s.dev.mem.bytes.wf 0 = true ∧ ctx.head = none ∧ ctx.run = none ∧ ctxRun.run.isSome
      ∧ ((ringOfBlock b).all fun r => decide (s.dev.windowOf r.ctl.toNat = none)) = true := by
  refine ⟨?_, ?_, ok_of ?_, ?_, ?_, ?_, ?_, ?_, ?_, ?_⟩ <;> decide +kernel
/-- A block of zeros, one outside companion memory, and one that the link answers with an error. -/
def sBadBlock (errs : List Nat) : State := sAdm [ctx] tBindRing fun d => { d with mem := { d.mem with errLines := errs } }
theorem wit_Bind_ring_zero : (sBadBlock []).dev.adminRead 0x200000600000 64 = .ok (zeros 64) ∧ ringOfBlock (zeros 64) = none := by
  refine ⟨ok_of ?_, ?_⟩ <;> decide +kernel
theorem wit_Bind_ring_error : isOk ((sBadBlock [0x8000018000]).dev.adminRead 0x200000600000 64) = false
    ∧ field (taken 0x44 [7, 0x1000]).entry 0x10 8 % 2 ^ 52 = 0x1000 := by decide +kernel
theorem wit_Resume (stopped : Bool) : let c := { ctx with ring := some { rings with stopped := stopped, sqTail := 3 } }
    let s := sAdm [c] (taken 0x45 [7 + 9 * 2 ^ 32])
    BitVec.ofNat 16 (field (taken 0x45 [7 + 9 * 2 ^ 32]).entry 8 2) = 7 ∧ s.dev.ctxTag 7 = some c ∧ s.dev.ctxAt c.slot = some c ∧ field (taken 0x45 [7 + 9 * 2 ^ 32]).entry 0xC 4 = 9 := by
  cases stopped <;> decide +kernel
/-- LOOP_SET of a loop in a mode with its bounds. -/
def tLoop (id mode low high : Nat) : Taken := taken 0x51 [id + mode * 256 + low * 2 ^ 32, high]
theorem wit_Loop : ∀ p ∈ [(2, 0, 0, 0), (15, 0, 0, 0), (0x20, 0, 0, 0), (0, 3, 0, 0), (0, 1, 0, 0), (0, 0, 999, 5000), (0, 0, 1000, 1099), (0, 0, 1000, 1100), (0, 0, 5700, 5800), (0, 0, 5700, 5801), (0, 0, 5800, 5900), (0, 0, 5801, 5901),
      (0, 2, 1000, 1100), (1, 0, 1, 0), (1, 0, 0, 3), (1, 0, 0, 2), (1, 0, 2, 2), (1, 1, 2, 2), (1, 1, 2, 1), (1, 2, 0, 0), (0x10, 1, 15, 15), (0x1F, 1, 15, 16), (0x1F, 0, 15, 15), (0x10, 2, 1, 0), (0x10, 2, 0, 0)],
    let t := tLoop p.1 p.2.1 p.2.2.1 p.2.2.2
    t.op.toNat = 0x51 ∧ field t.entry 8 1 = p.1 ∧ field t.entry 9 1 = p.2.1 ∧ field t.entry 0xC 4 = p.2.2.1 ∧ field t.entry 0x10 4 = p.2.2.2 ∧ (sAdm [] t).dev.ctxTag 0 = none := by decide +kernel
/-- R444: the flow's upper limit is held to 5,800; a refused setting changes nothing. -/
theorem test_loop : (after .loopSet (sAdm [] (tLoop 0 0 1000 5801))).loops[(0 : Fin 18)].high = 5800 ∧ (after .loopSet (sAdm [] (tLoop 0 0 1000 1099))).loops = Device.reset.loops := by decide +kernel
/-- The Boathouse: after an entropy failure, outside production, in debug, and as it is. -/
theorem wit_Attest : let t := taken 0x48 [0x1122334455667788, 0x200000700000, 0x680]
    let s := sAdm [] t
    s.dev.boat.entropyFailed = false ∧ s.dev.chainLen = 0 ∧ field t.entry 0x10 8 % 2 ^ 52 = 0x200000700000 ∧ field t.entry 0x18 4 = 0x680 ∧ t.entry.length = 64 ∧ s.dev.mem.bytes.wf 0 = true
      ∧ field (taken 0x48 [0, 0x200000700000, 0x67F]).entry 0x18 4 < 0x680 := by decide +kernel
/-- A release of domain 2 by ephemeral pair 0, without packages. The unwrapped key is what the cryptography gives. -/
def tKey : Taken := taken 0x49 [0x200000800000, 0x110 + 2 * 2 ^ 32]
def keyCells : List Host.Cell := [(0x200000800000, 0x4F), (0x200000800001, 0x58), (0x200000800002, 0x4B), (0x200000800003, 0x52), (0x200000800004, 5)]
def sKey : State := sAdm [] tKey fun d => { d with mem := { d.mem with bytes := keyCells }, boat := { d.boat with ephemerals := [⟨0, 0, 0⟩] } }
theorem wit_KeyRelease : let m := memBytes 0 sKey.dev.mem.bytes 0x200000800000 0x110
    let b := sKey.dev.boat
    field tKey.entry 8 8 % 2 ^ 52 = 0x200000800000 ∧ field tKey.entry 0x14 1 = 2 ∧ b.entropyFailed = false ∧ b.lifecycle = 1 ∧ b.debugOnce = false
      ∧ sKey.dev.adminRead 0x200000800000 0x110 = .ok m ∧ sKey.dev.adminRead (0x200000800000 + 0x110) (16 * Min.min 16 (relNpkg m)) = .ok []
      ∧ releaseOk m [] (field tKey.entry 0x10 4) = true ∧ relKind m = 0
      ∧ b.domains[(2 : Fin 64)].state ≠ .installed ∧ relDgen m = 0 ∧ b.domains[(2 : Fin 64)].pkg[idx 4 (relKidx m)] = none
      ∧ (b.ephemerals.find? fun p => p.index.toNat == field m 8 4) = some ⟨0, 0, 0⟩ ∧ (0 : BitVec 384).toNat = beField m 0x10 48 ∧ relNpkg m = 0
      ∧ windowsFit b b.domains[(2 : Fin 64)] [] = true := by
  refine ⟨?_, ?_, ?_, ?_, ?_, ok_of ?_, ok_of ?_, ?_, ?_, ?_, ?_, ?_, ?_, ?_, ?_, ?_⟩ <;> decide +kernel
theorem wit_KeyRelease_windows (key : BitVec 256) : sKey.dev.packageWindows key 0 [] 0 = .ok [] := rfl
/-- DOMAIN_RELEASE of an installed domain, bound or not, of an absent one, and of numbers that name none. -/
theorem wit_DomainRelease : let s := fun cs => sAdm cs (taken 0x4A [1])
    (s []).dev.boat.domains[(1 : Fin 64)].state = .installed ∧ (s []).dev.boat.domains[(63 : Fin 64)].state ≠ .installed ∧ (∀ n ∈ [0, 1, 63, 64], field (taken 0x4A [n]).entry 8 1 = n)
      ∧ (1 : Fin 64) ∈ ({ ctx with domains := [1] } : Context).domains ∧ (1 : Fin 64) ∉ ctx.domains := by decide +kernel
theorem wit_DebugUnlock : let t := taken 0x4B [0x200000800000, 288]
    field t.entry 0x10 4 = 288 ∧ field t.entry 8 8 % 2 ^ 52 = 0x200000800000 ∧ (sAdm [] t).dev.adminRead 0x200000800000 288 = .ok (zeros 288) :=
  ⟨by decide +kernel, by decide +kernel, ok_of (by decide +kernel)⟩
/-- DUMP_TAKE of a retained dump of 64 bytes into buffers of 63 and 64, without one, and a fresh one. -/
def tDump (size flags : Nat) : Taken := taken 0x50 [0x200000900000, size, flags]
def sDump (size flags : Nat) (has : Bool) : State :=
  sAdm [] (tDump size flags) fun d => { d with dump := { d.dump with retained := if has then some (zeros 64, 3) else none } }
theorem wit_Dump : (∀ size ∈ [63, 64, 978720], ∀ flags ∈ [0, 2], let t := tDump size flags
      field t.entry 0x10 8 = size ∧ field t.entry 0x18 1 = flags ∧ field t.entry 8 8 % 2 ^ 52 = 0x200000900000)
    ∧ (sDump 64 2 true).dev.dump.retained = some (zeros 64, 3) ∧ (sDump 64 2 false).dev.dump.retained = none ∧ (sDump 978720 0 false).dev.mem.bytes.wf 0 = true
    ∧ (sDump 978720 0 false).dev.dump.stops = [] ∧ (sDump 978720 0 false).dev.dump.silent = [] ∧ (sDump 978720 0 false).dev.dump.scanBad = [] ∧ (sDump 978720 0 false).dev.mem.errLines = [] ∧ (0 : BitVec 16) ∈ allIslands := by decide +kernel

/-! Registers, flash and the sideband. -/

/-- A ready module whose driver's path serves. -/
def served (f : Device → Device := id) : State :=
  { State.reset with dev := f { Device.reset with yalkenUp := true, start := { Device.reset.start with stage := 8, ready := true } } }
theorem wit_Serves : DriverServes (served) ∧ DriverServes { State.reset with dev := { Device.reset with yalkenUp := true, start := { Device.reset.start with stage := 6 } } } := by unfold DriverServes; decide
/-- Fifteen budgets of 135 W leave room for 143 W at most: the sum beside each value of a write. -/
def sBudget : State := served fun d => { d with pd := { d.pd with budget := Vector.replicate 16 135 } }
theorem wit_Budget : ∀ n : Fin 16, let sum := fun (v : Nat) => ((List.finRange 16).map fun k => if k = n then v else sBudget.dev.pd.budget[k].toNat).sum
    sum 20 ≤ 2168 ∧ sum 143 = 2168 ∧ 2168 < sum 144 := by decide +kernel
/-- R483: a write of 143 W is taken, one of 144 W is a stray. -/
theorem test_budget : (after (.budgetWrite (driverWrite 0x13000100 143)) sBudget).pd.budget[(0 : Fin 16)] = 143
    ∧ (after (.budgetWrite (driverWrite 0x13000100 144)) sBudget).pd.budget[(0 : Fin 16)] = 135
    ∧ (after (.budgetWrite (driverWrite 0x13000100 144)) sBudget).hd.dbStray = ({} : Counter).add 1 := by decide +kernel
/-- Reads: a latched high word and none, and the rails on; the board controller's blocks and their neighbours. -/
theorem wit_Reads : let s := served fun d => { d with hd := { d.hd with readD := some (0x12000018, 5) }, pd := { d.pd with pwrGood := true } };
    s.dev.hd.readD = some (0x12000018, 5) ∧ (served).dev.hd.readD = none ∧ s.dev.pd.pwrGood = true ∧ DriverServes s
      ∧ (0x12000000 : BitVec 32).toNat / 2 ^ 24 = 18 ∧ (0x13FFFFF8 : BitVec 32).toNat / 2 ^ 24 = 19
      ∧ (0x11FFFFF8 : BitVec 32).toNat / 2 ^ 24 = 17 ∧ (0x14000000 : BitVec 32).toNat / 2 ^ 24 = 20 := by unfold DriverServes; decide +kernel
/-- R443: the low half of an HD register gives its low word and latches its high word for the path. -/
theorem test_half_read : let s := served fun d => { d with hd := { d.hd with adminSeq := 77 } }
    let d := after (.setupRegisterWrite { path := .driver, off := 0x12000018, wide := false, data := 0, read := true }) s
    d.hd.readData = 77 ∧ d.hd.readD = some (0x12000018, 0) := by decide +kernel
/-- Loop writes at the bounds, and a PORT_EN write that leaves a port on, turns one on and turns one off. -/
def sPorts (stage : BitVec 4) : State := served fun d => { d with start := { d.start with stage := stage }, ports := (d.ports.set 0 { d.ports[(0 : PortNo)] with enabled := true, state := .active }).set 1 { d.ports[(1 : PortNo)] with enabled := true, state := .active } }
theorem wit_PortEn : (DriverServes (sPorts 6) ∧ DriverServes (sPorts 7)) ∧ (sPorts 7).dev.ports[(0 : PortNo)].enabled = true ∧ (sPorts 7).dev.ports[(2 : PortNo)].enabled = false
    ∧ (5 : BitVec 8).getLsbD 0 = true ∧ (5 : BitVec 8).getLsbD 1 = false ∧ (5 : BitVec 8).getLsbD 2 = true ∧ (0x20000 : Nat) = 0 + 2 * 2 ^ 16 := by unfold DriverServes; decide +kernel
/-- R447: the port that comes on goes to DETECT, the one that goes off is OFF. -/
theorem test_port_en : let d := after (.portEnWrite (driverWrite 0x10000000 5)) (sPorts 8)
    d.ports[(0 : PortNo)].state = .active ∧ d.ports[(1 : PortNo)].state = .off ∧ d.ports[(2 : PortNo)].state = .detect := by decide +kernel
/-- Admin ring set-up: a block that keeps R362, with and without a descriptor in hand, before and after ready. -/
def sAdminBind (ready : Bool) (head : Option Taken) : State :=
  served fun d => { d with start := { d.start with ready := ready }, adminHead := head, mem := { d.mem with bytes := ringBlock } }
theorem wit_AdminBind : (∃ r, ringOfBlock (memBytes 0 ringBlock 0x200000600000 64) = some r) ∧ MemoriesOk (sAdminBind true none).dev ∧ DriverServes (sAdminBind true none)
    ∧ (sAdminBind true none).dev.boat.heldRecords = [] ∧ (sAdminBind true (some (taken 0x7F))).dev.adminHead.isSome = true ∧ (sAdminBind false none).dev.start.ready = false
    ∧ (sAdminBind true none).dev.hdLineCode 0x200000600000 = none ∧ (sAdminBind true none).dev.windowOf 0x200000002000 = none
    ∧ ((ringOfBlock (memBytes 0 ringBlock 0x200000600000 64)).map fun r => r.ctl.toNat) = some 0x200000002000 := by
  refine ⟨Option.isSome_iff_exists.1 ?_, memOk ?_, ?_, ?_, ?_, ?_, ?_, ?_, ?_⟩ <;> (try unfold DriverServes) <;> decide +kernel
def sAdminStopped : State := served fun d => { d with admin := some { rings with stopped := true, cause := 2, sqTail := 9 } }
theorem wit_AdminResume : sAdminStopped.dev.admin = some { rings with stopped := true, cause := 2, sqTail := 9 } ∧ MemoriesOk sAdminStopped.dev := ⟨rfl, memOk (by decide +kernel)⟩
/-- Flash: slot A runs, so slot B and the set-up image may be written; a command in progress of each kind. -/
theorem wit_Flash : ∀ addr ∈ [0x1000000, 0x1FF0000, 0x1FFF000], addr < 0x2000000 ∧ addr / 2 ^ 24 ≠ (if (served).dev.start.slot then 1 else 0) ∧ (served).dev.hd.flashBusy = false := by decide
def sFlash (op : BitVec 4) (addr : Nat) : State :=
  served fun d => { d with hd := { d.hd with flashBusy := true, flashOp := op, flashAddr := BitVec.ofNat 32 addr, flash := [(addr, 0x5A), (addr + 65535, 1)], flashBuf := [(0, 0x0F)] } }
theorem wit_FlashDone : ∀ op ∈ [1, 2, 3], MemoriesOk (sFlash op 0x1000000).dev ∧ (sFlash op 0x1000000).dev.hd.flashBusy = true ∧ (sFlash op 0x1000000).dev.hd.flashHeld = false
    ∧ (sFlash op 0x1000000).dev.hd.flashOp = op ∧ (sFlash op 0x1000000).dev.hd.flashAddr.toNat + 4096 ≤ 0x4000000 :=
  fun op _ => ⟨memOk (show memCheck (sFlash op 0x1000000).dev = true from (by decide +kernel : memCheck (sFlash 0 0x1000000).dev = true)), rfl, rfl, rfl,
    show (sFlash 0 0x1000000).dev.hd.flashAddr.toNat + 4096 ≤ 0x4000000 by decide⟩
/-- The sideband with the rails on, unassigned and assigned, with causes and a pending one. -/
def sI3c (on : Bool) (k : I3c) : State := { State.reset with dev := { Device.reset with pd := { Device.reset.pd with pwrGood := on }, i3c := k } }
theorem wit_Sideband : (sI3c false {}).dev.pd.pwrGood = false ∧ (sI3c true {}).dev.pd.pwrGood = true ∧ (sI3c true {}).dev.i3c.dynamic = none
    ∧ (sI3c true { dynamic := some 0x22 }).dev.i3c.dynamic = some 0x22 ∧ (let i : I3c := { ibiOn := true, causes := [4, 1, 2], pending := none }
      i.ibiOn = true ∧ (1 : BitVec 8) ∈ i.causes ∧ ∀ x ∈ i.causes, (1 : BitVec 8).toNat ≤ x.toNat)
    ∧ (sI3c true { pending := some 3 }).dev.i3c.causes = [] := by decide

/-! Ports and flits. -/

/-- A state with one port and some contexts. -/
def sPort (x : Port) (cs : List Context := []) : State := { State.reset with dev := { Device.reset with ctxs := cs, ports := Device.reset.ports.set 0 x } }
def found (lanes : BitVec 8) (map : BitVec 32) (ctle : BitVec 4 := 0) : TrainReport := ⟨lanes, map, 0, false, ctle, 2, 3⟩
/-- Each state of training is met, with the loop in any mode but pinned and pinned. -/
theorem wit_Training (a : PortState) : (sPort { state := a }).dev.ports[(0 : PortNo)].state = a ∧ (sPort { state := a }).dev.loops[idx 18 2].mode ≠ 1 := by
  cases a <;> decide +kernel
def sPinned : State := let s := sPort { state := .active }
  { s with dev := { s.dev with loops := s.dev.loops.set 2 { low := 0, high := 15, mode := 1 } } }
theorem wit_Pinned : sPinned.dev.ports[(0 : PortNo)].state = .active ∧ sPinned.dev.loops[idx 18 2].mode = 1 := by decide +kernel
/-- R447: a code found outside the bounds of the loop is brought inside them. -/
theorem test_ctle : let s := sPort { state := .eq }
    let t : State := { s with dev := { s.dev with loops := s.dev.loops.set 2 { low := 3, high := 9, mode := 0 } } }
    (after (.portTrainingStep 0 (found 0 0 15)) t).ports[(0 : PortNo)].ctle = 9 ∧ (after (.portTrainingStep 0 (found 0 0 0)) t).ports[(0 : PortNo)].ctle = 3 := by decide +kernel
/-- The generations of negotiation at their limits, and partners: none yet, the same session, another session. -/
def neg (hi lo : BitVec 2) (echo : Bool) (session : BitVec 32) : NegFlit := ⟨hi, lo, 1, 0, echo, session, 5, 9⟩
theorem wit_Negotiation : ((neg 0 0 true 1).genMax = 0 ∧ 1 < (neg 1 2 true 1).genMin.toNat ∧ (neg 1 1 true 1).genMax ≠ 0 ∧ (neg 3 1 true 1).genMin.toNat ≤ 1)
    ∧ (sPort { state := .negotiate, partner := some 1 }).dev.ports[(0 : PortNo)].partner = some (neg 1 1 true 1).session
    ∧ (sPort { state := .negotiate }).dev.ports[(0 : PortNo)].partner ≠ some (neg 1 1 true 1).session ∧ (neg 1 1 true 1).rxNext ≠ (sPort { state := .negotiate }).dev.ports[(0 : PortNo)].txSeq := by
  decide +kernel
/-- R337: NO_GENERATION takes the port into back-off. -/
theorem test_no_generation : (after (.negotiationFlit 0 (neg 1 2 true 1)) (sPort { state := .negotiate })).ports[(0 : PortNo)].lastFail = 0x13 := by decide +kernel

/-- A context with a route over port 0 and a stream that owes 70 messages. -/
def owes : RecvStream := { pos := 0, stream := 4, cls := 4, depth := 1, peer := 3, owed := 70 }
def ctxOwes : Context := { ctx with routes := [⟨3, 0, 0x11⟩], plan := some { planSmall with recvs := [owes] } }
def ctlLine : List Byte := packetHeader 1 0 0 0x11 0 0 3 0 0 0 0 0 0 []
def sendPort : Port := { state := .active, txSeq := 7, credits := Vector.replicate 5 1 }
/-- A FAULTED context over port 0, with a C2 packet of it and one of another job in the queue: the first is dropped before a flit is made. -/
def dropPort : Port := { sendPort with tx := sendPort.tx.set 2 [packetHeader 2 0 0 0x11 0 0 3 0 0 0 0 0 0 [], packetHeader 2 0 0 0x12 0 0 3 0 0 0 0 0 0 []] }
theorem wit_Transmit_faulted : let d := (sPort dropPort [{ ctxOwes with cond := .faulted }]).dev.dropFaulted 0
    d.ports[(0 : PortNo)].tx[(2 : Fin 5)] = [packetHeader 2 0 0 0x12 0 0 3 0 0 0 0 0 0 []] ∧ d.ports[(0 : PortNo)].state = .active
      ∧ (sPort sendPort [ctxOwes]).dev.dropFaulted 0 = (sPort sendPort [ctxOwes]).dev := by decide +kernel
theorem wit_Transmit_negotiate : (sPort { state := .negotiate, heard := true }).dev.ports[(0 : PortNo)].state = .negotiate ∧ (sPort { state := .eq }).dev.ports[(0 : PortNo)].state ≠ .active
    ∧ (sPort { state := .eq }).dev.ports[(0 : PortNo)].state ≠ .negotiate := by decide
/-- With no FAULTED context the device is the one before. -/
theorem wit_Transmit_plain (x : Port) : (sPort x).dev.dropFaulted 0 = (sPort x).dev := rfl
theorem wit_Transmit : (sPort sendPort).dev.ports[(0 : PortNo)].state = .active ∧ (sPort sendPort).dev.ports[(0 : PortNo)].replay.length < 1024 ∧ (sPort sendPort).dev.owing 0 = none
    ∧ (∀ c : Fin 5, sendPort.tx[c] = []) ∧ 0 < sendPort.credits[(1 : Fin 5)] ∧ field ctlLine 3 1 = 0
    ∧ (sPort { sendPort with nakQueue := [⟨ctlLine, []⟩] }).dev.owing 0 = none ∧ (sPort sendPort [ctxOwes]).dev.owing 0 = some (ctxOwes, owes, ⟨3, 0, 0x11⟩) := by
  refine ⟨rfl, ?_, ?_, ?_, ?_, ?_, ?_, ?_⟩ <;> decide +kernel
def flit (seq ack : BitVec 32) (idle nak : Bool) (ls : List (Fin 5 × List Byte)) : Flit := sealFlit ⟨seq, ack, 2, 3, idle, nak, 0, ls⟩
/-- A port whose half of the partner's buffer is full upward: a class 2 line that goes up stays, one that goes down does not. -/
def halfPort (down : Bool) : Port :=
  { sendPort with tx := sendPort.tx.set 2 [packetHeader 2 0 0 0x11 0 0 3 0 0 0 0 0 0 (zeros 7 ++ [if down then 4 else 0])], c2Out := List.replicate 1024 false }
theorem test_half : let classes := fun (x : Port) => ((after (.flitTransmit 0) (sPort x)).ports[(0 : PortNo)].lastTx.map fun f => f.lines.map fun l => l.1.val)
    classes (halfPort false) = some [] ∧ classes (halfPort true) = some [2] := by decide +kernel
theorem wit_Window (f : Flit) : 1024 ≤ (List.replicate 1024 f).length := by rw [List.length_replicate]
theorem wit_Replay : ({ sendPort with replaySeq := some 5, replay := [flit 4 0 false false [], flit 5 0 false false []] } : Port).replay.find? (fun f => f.seq == 5) = some (flit 5 0 false false []) := rfl
/-- R438: the flit of sequence 7 searches C3 first, that of sequence 8 C0; each class has one line and one credit. -/
theorem test_search : let x : Port := { sendPort with tx := each (fun c _ => [zeros c.val ++ zeros 64]) sendPort.tx }
    let classes := fun (x : Port) => ((after (.flitTransmit 0) (sPort x)).ports[(0 : PortNo)].lastTx.map fun f => f.lines.map fun l => l.1.val)
    classes x = some [3, 4, 2, 0] ∧ classes { x with txSeq := 8 } = some [0, 1, 2, 3] := by decide +kernel
/-- R435: 70 messages owed make MCREDITs of 64 and 6. -/
theorem test_mcredit : let d := after (.flitTransmit 0) (sPort { sendPort with credits := Vector.replicate 5 2 } [ctxOwes])
    (d.ports[(0 : PortNo)].lastTx.map fun f => f.lines.map fun l => field l.2 0x2A 2) = some [64, 6] := by decide +kernel

/-- Arrivals: a good flit in sequence, idle and with lines; one out of sequence; one whose check fails; one that asks for a replay. -/
def recvPort : Port := { state := .active, rxSeq := 9, txAck := 2, replay := [flit 2 0 false false [], flit 3 0 false false []], credits := Vector.replicate 5 0 }
theorem seal_ok (f : Flit) : (sealFlit f).crc = flitCrc (sealFlit f) := rfl
theorem wit_Receive_crc (seq ack : BitVec 32) (idle nak : Bool) (ls : List (Fin 5 × List Byte)) : (flit seq ack idle nak ls).crc = flitCrc (flit seq ack idle nak ls) := rfl
theorem wit_Receive_bad (f : Flit) : ({ sealFlit f with crc := (sealFlit f).crc + 1 } : Flit).crc ≠ flitCrc { sealFlit f with crc := (sealFlit f).crc + 1 } := by
  show flitCrc f + 1 ≠ flitCrc f
  generalize flitCrc f = x
  bv_omega
/-- An idle flit that asks for a replay and gives no credit. -/
def reservedClass : Flit := sealFlit ⟨9, 2, 7, 1, true, false, 0, []⟩
def asking : Flit := sealFlit ⟨9, 2, 2, 0, true, true, 0, []⟩
theorem wit_Receive : let x := recvPort
    let f := flit 9 3 true false []
    let g := flit 9 3 false false [(3, zeros 64), (2, zeros 64)]
    (f.seq = x.rxSeq ∧ f.nak = false ∧ f.idle = true ∧ f.cc.toNat = (2 : Fin 5).val ∧ x.credits[(2 : Fin 5)] + f.cred.toNat ≤ 2048)
      ∧ (g.seq = x.rxSeq ∧ g.nak = false ∧ g.idle = false) ∧ (flit 8 0 true false []).seq ≠ x.rxSeq
      ∧ (∀ o : Fin 5, x.rxHeld[o] + x.freed[o] + ((g.lines.filter fun l => l.1 == o).map (·.2)).length ≤ [64, 256, 2048, 2048, 2048].getD o.val 0)
      ∧ reservedClass.seq = x.rxSeq ∧ reservedClass.nak = false ∧ reservedClass.idle = true ∧ 5 ≤ reservedClass.cc.toNat ∧ reservedClass.cred ≠ 0
      ∧ asking.seq = x.rxSeq ∧ asking.nak = true ∧ asking.cred = 0 ∧ asking.ack = x.txAck ∧ x.replay ≠ [] ∧ x.replays < 8 ∧ asking.cc.toNat < 5 := by
  refine ⟨⟨rfl, rfl, rfl, rfl, ?_⟩, ⟨rfl, rfl, rfl⟩, ?_, ?_, rfl, rfl, rfl, ?_, ?_, rfl, rfl, rfl, rfl, ?_, ?_, ?_⟩
  · decide
  · show (8 : BitVec 32) ≠ 9; decide
  · show ∀ o : Fin 5, recvPort.rxHeld[o] + recvPort.freed[o] + (([((3 : Fin 5), zeros 64), (2, zeros 64)].filter fun l => l.1 == o).map (·.2)).length ≤ _; decide +kernel
  · show 5 ≤ (7 : BitVec 3).toNat; decide
  · show (1 : BitVec 13) ≠ 0; decide
  · simp [recvPort]
  · decide
  · show (2 : BitVec 3).toNat < 5; decide
/-- A buffer that is full, and an eighth replay. -/
theorem wit_Receive_full : let x := { recvPort with rxHeld := recvPort.rxHeld.set 3 2040, freed := recvPort.freed.set 3 8 }
    x.rxHeld[(3 : Fin 5)] + x.freed[(3 : Fin 5)] = 2048 ∧ (flit 9 3 false false [(3, zeros 64)]).lines = [(3, zeros 64)] ∧ 8 ≤ ({ recvPort with replays := 8 } : Port).replays := by decide +kernel

/-! Packets, sends and control packets. -/

/-- A header from rank 3 to rank 0 of job 0x11. -/
def pkt (cls kind n stream mseq poff mlines dpa : Nat) (aux : List Byte) : Packet :=
  ⟨packetHeader cls kind n 0x11 0 3 0 0 stream mseq poff mlines dpa aux, List.replicate n (List.replicate 64 1)⟩
/-- A port whose buffer of a class holds a packet. -/
def withPacket (cls : Fin 5) (k : Packet) (x : Port := {}) : Port :=
  { x with state := .active, gen := 1, rx := x.rx.set cls k.lines, rxHeld := x.rxHeld.set cls k.lines.length, credits := Vector.replicate 5 1 }
/-- A context with a receive stream 4 of class 4 and one of class 3 from peer 3, and a send stream to it. -/
def stream4 (held : Nat := 1) : RecvStream := { pos := 0, stream := 4, cls := 4, depth := 1, peer := 3, held := held }
def land3 (n : Nat) (ord : Nat := 0) : Landing := ⟨5, 1, ord, List.range n⟩
def sendE : SendEntry := ⟨0x100000000000, 1, 3, 1, 2, 0x1000, 0⟩
def sendS : SendStream := { pos := 0, stream := 2, cls := 3, depth := 1, first := 0, count := 1, unread := [0], mseq := 8, sent := [⟨7, 0, [zeros 64]⟩] }
def ctxNet (r : RecvStream) (pausing : Bool := false) (s : SendStream := sendS) : Context :=
  { ctx with routes := [⟨3, 0, 0x11⟩], pausing := pausing, pauseOver := pausing, plan := some { planSmall with recvs := [r], sends := [s], sendEntries := [sendE], credits := [(⟨3, 1, 2⟩, 1)] } }
def sNet (x : Port) (cs : List Context) : State := sPort x cs
def data (poff : Nat := 0) (aux : List Byte := []) (cls : Nat := 4) : Packet := pkt cls 0 1 4 5 poff 1 0x100000000000 aux
/-- A data packet at the front of its buffer. -/
theorem wit_Packet : (withPacket 4 (data)).classOf (data) = some 4 ∧ (data).ownRow = false ∧ (sNet (withPacket 4 (data)) [ctxNet (stream4)]).dev.headerFault 0 (data) = none
    ∧ (sNet (withPacket 4 (data)) [ctxNet (stream4)]).dev.packetContext 0 (data) = some (ctxNet (stream4)) ∧ (sNet (withPacket 4 (data)) []).dev.packetContext 0 (data) = none
    ∧ (sNet (withPacket 4 (data 5)) []).dev.headerFault 0 (data 5) = some 1 ∧ (sNet { withPacket 4 (data) with gen := 0 } []).dev.headerFault 0 (data) = some 2 := by
  refine ⟨?_, ?_, ?_, ?_, ?_, ?_, ?_⟩ <;> decide +kernel
/-- Its stream, as it is, without a credit, of another class, while the context pauses, or absent. -/
theorem wit_Packet_stream : (ctxNet (stream4)).recv (data).pos (data).stream = some (stream4) ∧ (ctxNet { stream4 with stream := 6 }).recv (data).pos (data).stream = none
    ∧ (stream4).cls = 4 ∧ (stream4).peer.toNat = (data).src ∧ { stream4 with cls := 3 }.cls ≠ (4 : Fin 5).val ∧ (stream4 0).held = 0 ∧ 0 < (stream4).held
    ∧ (ctxNet (stream4)).refusesArrivals = false ∧ (ctxNet (stream4) true).refusesArrivals = true ∧ ((stream4).landing.any fun l => l.mseq.toNat == (data).mseq) = false := by decide +kernel
/-- A packet of a route that is gone; class 3 packets whose ordinal the 4,096 marks from the gather counter on cover, and one beyond. -/
theorem wit_Packet_gone : let s := sNet (withPacket 4 (data)) []
    let d : Device := { s.dev with gone := [{ tag := 7, route := ⟨3, 0, 0x11⟩ }] }
    d.headerFault 0 (data) = none ∧ d.packetContext 0 (data) = none ∧ (d.gone.any fun g => routeMatches 0 (data) g.route) = true := by decide +kernel
theorem wit_Packet_ordinal : let k := fun (n : Nat) => data 0 (bytesLE 4 n) 3
    let gap := fun (n : Nat) => (BitVec.ofNat 32 (field (k n).aux 0 4) - ({} : Course).gather).toNat
    (withPacket 3 (k 0)).classOf (k 0) = some 3 ∧ gap 0 < 4096 ∧ gap 4095 < 4096 ∧ ¬ gap 4096 < 4096
      ∧ (ctxNet { stream4 with cls := 3 }).recv (k 0).pos (k 0).stream = some { stream4 with cls := 3 }
      ∧ (sNet (withPacket 3 (k 4096)) [ctxNet { stream4 with cls := 3 }]).dev.headerFault 0 (k 4096) = none := by decide +kernel
theorem wit_Packet_closed : (withPacket 4 (data) { ({} : Port) with closed := [(7, 4)] }).closed.contains ((ctxNet (stream4)).tag, BitVec.ofNat 3 (data).code) = true
    ∧ (withPacket 4 (data)).closed.contains ((ctxNet (stream4)).tag, BitVec.ofNat 3 (data).code) = false := by decide +kernel
theorem wit_Packet_lands : let d := (sNet (withPacket 4 (data)) [ctxNet (stream4)]).dev
    ∃ d1 ns, d.landLines (ctxNet (stream4)) ((ctxNet (stream4)).cdAt (data).pos) ((data).dpa % 2 ^ 52) (data).poff (data).payload [] = (d1, ns, none) := by
  intro d
  have h : (d.landLines (ctxNet (stream4)) ((ctxNet (stream4)).cdAt (data).pos) ((data).dpa % 2 ^ 52) (data).poff (data).payload []).2.2 = none := by decide +kernel
  exact ⟨_, _, Prod.ext rfl (Prod.ext rfl h)⟩
/-- The wheel serves a destination in bonded SRAM at once; one in LPDDR5X waits until the phase has a position of code 6. -/
theorem wit_Packet_wheel : let c := ctxNet (stream4)
    let waits : Context := { c with plan := c.plan.map fun q => { q with phases := onePhase.phases } }
    (sNet {} [c]).dev.wheelServesRun c (c.cdAt 1) 6 0x100000000000 64 = true ∧ (sNet {} [waits]).dev.wheelServesRun waits (waits.cdAt 1) 6 0x4000 64 = false := by decide +kernel
/-- A reduction packet whose context is FAULTED, pauses or is saved keeps its credit. -/
theorem wit_Packet_kept : let k := pkt 2 0 1 4 5 0 1 0 []
    (withPacket 2 k).classOf k = some 2 ∧ k.ownRow = false ∧ ∀ c ∈ [{ ctxNet (stream4) with resident := false }, ctxNet (stream4) true, { ctxNet (stream4) with cond := .faulted }],
      (sNet (withPacket 2 k) [c]).dev.routeContext 0 k = some c ∧ (c.resident = false ∨ c.pausing = true ∨ c.cond = .faulted) := by decide +kernel
/-- R351: without a matching context the packet is refused with NO_CONTEXT, and its space is owed. -/
theorem test_packet_refused : let d := after (.packetArrival 0 (data)) (sNet (withPacket 4 (data)) [])
    d.ports[(0 : PortNo)].freed[(4 : Fin 5)] = 2 ∧ d.ports[(0 : PortNo)].refuse[(2 : Fin 13)] = ({} : Counter).add 1 ∧ d.ports[(0 : PortNo)].nakQueue.length = 1 := by decide +kernel
/-- Messages: lines missing, of class 4, of class 3 with its ordinal next and one that is not. -/
theorem wit_Landed : (∀ r ∈ [{ stream4 with landing := [land3 0] }, { stream4 with landing := [land3 1] }, { stream4 with cls := 3, landing := [land3 1] }, { stream4 with cls := 3, landing := [land3 1 2] }],
      (ctxNet r).recv 0 4 = some r ∧ (r.landing.find? fun l => l.mseq == 5).isSome = true)
    ∧ (land3 0).written.length < (land3 0).mlines ∧ (land3 1).mlines ≤ (land3 1).written.length ∧ (land3 1).ordinal = ({} : Course).gather.toNat ∧ ({} : Course).marks = []
    ∧ (land3 1 2).ordinal ≠ ({} : Course).gather.toNat := by decide +kernel
theorem wit_Landed_ctx (r : RecvStream) : (sNet {} [ctxNet r]).dev.ctxAt 2 = some (ctxNet r) := by simp [sNet, sPort, Device.ctxAt, ctxNet, ctx]
/-- A released entry with a credit. -/
theorem wit_Depart_send : let c := ctxNet (stream4)
    c.resident = true ∧ c.cond ≠ .faulted ∧ c.plan.isSome = true ∧ c.send 0 2 = some sendS ∧ sendS.resend = [] ∧ sendS.unread = [0]
      ∧ (c.plan.bind fun p => p.sendEntries[0]?) = some sendE ∧ c.routeTo sendE.peer.toNat = some ⟨3, 0, 0x11⟩ ∧ sendS.stopped = false ∧ c.plan.bind (fun q => q.credit sendE.dest) = some 1 ∧ sendS.cls = 3
      ∧ (sNet {} [c]).dev.isGone c.tag = false ∧ (∀ x ∈ sendS.resend, x.2 = false) ∧ 1 ≤ sendE.lines ∧ sendE.lines ≤ 64 ∧ sendE.pos < 16 ∧ sendE.stream < 32
      ∧ (sNet {} [c]).dev.readBytes c (c.cdAt 0) .send sendE.src.toNat (64 * sendE.lines) = .ok (zeros 64) := by
  refine ⟨?_, ?_, ?_, ?_, ?_, ?_, ?_, ?_, ?_, ?_, ?_, ?_, ?_, ?_, ?_, ?_, ?_, ok_of ?_⟩ <;> decide +kernel
/-- A refused message whose credit has returned, one whose credit has not and nothing released, and an entry whose lines hold an error. -/
def sendAgain (back : Bool) : SendStream := { sendS with unread := [], resend := [(⟨7, 0, [zeros 64]⟩, back)] }
theorem wit_Depart_again : let c := fun b => ctxNet (stream4) false (sendAgain b)
    (∀ b, (c b).send 0 2 = some (sendAgain b)) ∧ (sendAgain true).resend.find? (fun x => x.2) = some (⟨7, 0, [zeros 64]⟩, true)
      ∧ [zeros 64].length = sendE.lines ∧ (∀ x ∈ (sendAgain false).resend, x.2 = false) ∧ (sendAgain false).unread = [] := by decide +kernel
theorem wit_Depart_bad : let s := badWord (sNet {} [ctxNet (stream4)]) 0x100000000010
    ∃ x l, s.dev.readBytes (ctxNet (stream4)) 0 .send sendE.src.toNat (64 * sendE.lines) = .error (x, l) := by
  obtain ⟨e, h⟩ := exists_error (x := (badWord (sNet {} [ctxNet (stream4)]) 0x100000000010).dev.readBytes (ctxNet (stream4)) 0 .send sendE.src.toNat (64 * sendE.lines)) (by decide +kernel)
  exact ⟨e.1, e.2, h⟩
/-- Each reason that nothing leaves: saved, FAULTED, stopped and without credit. -/
theorem wit_Depart_shut : ({ ctxNet (stream4) with resident := false } : Context).resident = false ∧ ({ ctxNet (stream4) with cond := .faulted } : Context).cond = .faulted
    ∧ (ctxNet (stream4) false { sendS with stopped := true }).send 0 2 = some { sendS with stopped := true } := by decide +kernel
/-- Control packets: a NAK of message 7 of stream 2 with a code, an MCREDIT at its limits, a PING and an ECHO. -/
def nak (code : Nat) : Packet := pkt 1 0 0 0 0 0 0 0 (bytesLE 2 code ++ bytesLE 4 7 ++ [3, 2])
def nakRed (code : Nat) : Packet := pkt 1 0 0 0 0 0 0 0 (bytesLE 2 code ++ bytesLE 4 7 ++ [2, 0])
def mcr (n : Nat) : Packet := ⟨packetHeader 1 1 0 0x11 0 3 0 1 0 0 0 0 0 (bytesLE 1 2 ++ zeros 1 ++ bytesLE 2 n), []⟩
def ping (kind : Nat) : Packet := pkt 0 kind 0 0 9 0 0 0 []
theorem wit_Control : (∀ code ∈ [1, 8, 9, 12], let k := nak code
      (withPacket 1 k).classOf k = some 1 ∧ k.code = 1 ∧ k.kind = 0 ∧ k.nakCode = code ∧ k.nakClass = 3 ∧ (ctxNet (stream4)).refusedSend k = some (sendS, ⟨7, 0, [zeros 64]⟩) ∧ k.nakStream ≤ 31
        ∧ (ctxNet (stream4)).send sendS.pos sendS.stream = some sendS)
    ∧ (∀ code ∈ [1, 7, 13], (withPacket 1 (nakRed code)).classOf (nakRed code) = some 1 ∧ (nakRed code).code = 1 ∧ (nakRed code).kind = 0 ∧ (nakRed code).nakClass = 2 ∧ (nakRed code).nakCode = code ∧ (nakRed code).nakStream ≤ 31)
    ∧ (∀ n ∈ [1, 64], let k := mcr n
      (withPacket 1 k).classOf k = some 1 ∧ k.code = 1 ∧ k.kind = 1 ∧ k.credited = n ∧ (ctxNet (stream4)).plan.bind (fun q => q.credit (creditDest k)) = some 1)
    ∧ (∀ kind ∈ [0, 1], let k := ping kind
      (withPacket 0 k).classOf k = some 0 ∧ k.code = 0 ∧ k.kind = kind) := by decide +kernel
theorem wit_Control_header (c : Context) : ∀ k ∈ [nak 1, nak 8, nak 9, nak 12, nakRed 7, mcr 1, mcr 64, ping 0, ping 1], (sNet (withPacket 1 k) [c]).dev.headerFault 0 k = none := by
  intro k hk; revert hk; revert k; exact (by decide +kernel : ∀ k ∈ [nak 1, nak 8, nak 9, nak 12, nakRed 7, mcr 1, mcr 64, ping 0, ping 1], (sNet (withPacket 1 k) []).dev.headerFault 0 k = none)
/-- NAKs with a code, a class and a stream that no table lists; MCREDITs of 0 and 65, one to no destination stream, and one that lets a refused message go. -/
theorem wit_Control_unlisted : let bad := fun (cls stream code : Nat) => pkt 1 0 0 0 0 0 0 0 (bytesLE 2 code ++ bytesLE 4 7 ++ [BitVec.ofNat 8 cls, BitVec.ofNat 8 stream])
    (bad 3 2 0).nakCode = 0 ∧ (bad 3 2 14).nakCode = 14 ∧ (bad 5 2 1).nakClass = 5 ∧ (bad 3 32 1).nakStream = 32
      ∧ (∀ k ∈ [bad 3 2 0, bad 3 2 14, bad 5 2 1, bad 3 32 1], (withPacket 1 k).classOf k = some 1 ∧ (sNet (withPacket 1 k) [ctxNet (stream4)]).dev.headerFault 0 k = none
        ∧ (sNet (withPacket 1 k) [ctxNet (stream4)]).dev.packetContext 0 k = some (ctxNet (stream4))) := by decide +kernel
theorem wit_Control_mcredit : let none' : Context := { ctxNet (stream4) with plan := some { planSmall with sends := [sendS], sendEntries := [sendE] } }
    (mcr 0).credited = 0 ∧ (mcr 65).credited = 65 ∧ none'.plan.bind (fun q => q.credit (creditDest (mcr 1))) = none ∧ sendE.dest = creditDest (mcr 1)
      ∧ (∀ k ∈ [mcr 0, mcr 65, mcr 1], (sNet (withPacket 1 k) [ctxNet (stream4)]).dev.headerFault 0 k = none ∧ (sNet (withPacket 1 k) [none']).dev.packetContext 0 k = some none')
      ∧ (ctxNet (stream4) false (sendAgain false)).plan.bind (fun q => q.credit (creditDest (mcr 1))) = some 1
      ∧ (sendAgain false).resend = (⟨7, 0, [zeros 64]⟩, false) :: [] ∧ planSmall.sendEntries = [] := by decide +kernel
/-- A control packet over a port that has no generation, and ones whose route no context has, or one that is gone. -/
theorem wit_Control_refused : (∀ k ∈ [nak 1, mcr 1, ping 0, ping 1], (sNet { withPacket 1 k with gen := 0 } []).dev.headerFault 0 k = some 2
      ∧ (sNet (withPacket 1 k) []).dev.packetContext 0 k = none ∧ routeMatches 0 k ⟨3, 0, 0x11⟩ = true)
    ∧ (∀ k ∈ [ping 0, ping 1], (sNet (withPacket 0 k) [ctxNet (stream4)]).dev.packetContext 0 k = some (ctxNet (stream4))) := by decide +kernel
theorem wit_Control_context : ∀ k ∈ [nak 1, nakRed 7, mcr 1], (sNet (withPacket 1 k) [ctxNet (stream4)]).dev.packetContext 0 k = some (ctxNet (stream4)) := by decide +kernel
/-- R434: a PING is answered by an ECHO of the same sequence, and an ECHO leaves the buffer reserved for it. -/
theorem test_ping : let d := after (.ping 0 (ping 0)) (sNet (withPacket 0 (ping 0)) [ctxNet (stream4)])
    (d.ports[(0 : PortNo)].tx[(0 : Fin 5)].map fun h => (field h 2 1, field h 0x14 4, field h 0xE 2)) = [(1, 9, 3)] := by decide +kernel
theorem wit_Echo : 0 < (withPacket 0 (ping 1) { ({} : Port) with echoReserved := 1 }).echoReserved := by decide

/-! Power, Easy-all and start-up. -/

/-- A state with a power stage; every input, lock, trip and ramp named below keeps the power stage legal. -/
def sPd (p : Pd) : State := { State.reset with dev := { Device.reset with pd := p } }
def ramp (n : Nat) (fails : Nat := 0) : Pd := { input := .qualified, ramping := true, rails := n, seqFails := fails }
def good : Pd := { input := .qualified, rails := 12, pwrGood := true }
theorem wit_Power : (∀ p ∈ [({ input := .removed } : Pd), { input := .applied }, { input := .protectedOff }, { input := .protectedOff, locked := true }, { input := .protectedOff, thermTrip := true },
      ramp 0, ramp 10, ramp 11, ramp 3 2, { input := .qualified, seqFails := 1 }, { input := .qualified, seqFails := 3, locked := true }, good],
      (sPd p).dev.mem.bytes.wf 0 = true ∧ p.rails ≤ 12) ∧ (ramp 10).rails + 1 < 12 ∧ (ramp 11).rails = 11 ∧ 0 < ({ input := .qualified, seqFails := 1 } : Pd).seqFails ∧ 0 < good.rails := by decide
theorem wit_PowerOk : PowerOk (ramp 11) ∧ PowerOk good ∧ PowerOk ({ input := .protectedOff, thermTrip := true }) ∧ PowerOk ({ input := .qualified, seqFails := 3, locked := true }) := by
  refine ⟨?_, ?_, ?_, ?_⟩ <;> unfold PowerOk <;> decide
/-- R455: the third failure in a row locks the module off; the twelfth rail gives PWR_GOOD. -/
theorem test_rails : (after .railSequenceTimeout (sPd (ramp 3 2))).pd.locked = true ∧ (after .railSequenceTimeout (sPd (ramp 3 1))).pd.locked = false
    ∧ (after .railPowerGood (sPd (ramp 11))).pd.pwrGood = true ∧ (after .railPowerGood (sPd (ramp 10))).pd.pwrGood = false := by decide +kernel
/-- R452: 110.0 °C trips, 109.9 does not. -/
theorem test_trip : (after (.overtemperatureShutdown 0xFC00 1100) (sPd good)).pd.thermTrip = true ∧ (after (.overtemperatureShutdown pdIsland 1099) (sPd good)).pd.thermTrip = false := by decide +kernel
theorem wit_Trip : pdIsland = pdIsland ∧ island 15 10 1 = island 15 10 1 ∧ (1099 : Int) < 1100 := by decide

/-- A running context whose position 0 counts, under a plan of one phase. -/
def ctxEasy : Context := { ctxCourse with cond := .running }
def sEasy (p : Pd) : State :=
  let s := st ctxEasy { die with course := { ({} : Course) with counter := some 2100, round := 1 } }
  { s with dev := { s.dev with pd := p } }
/-- The same while the episode holds it: no Course pause is left, so the exit releases it. -/
def sHeld : State := let s := st { ctxEasy with held := true } { die with course := { ({} : Course) with counter := some 2100, round := 1 } }
  { s with dev := { s.dev with pd := { good with easyAll := true, signalled := true } } }
theorem wit_EasyExit : sHeld.dev.ctxs = [{ ctxEasy with held := true }] ∧ sHeld.dev.courseStill { ctxEasy with held := true } = true := by decide +kernel
def easy (signalled : Bool) : Pd := { good with easyAll := true, signalled := signalled }
theorem wit_EasyAll : 2 ≤ good.rails ∧ good.easyAll = false ∧ (sEasy good).dev.loops[(0 : Fin 18)].high.toNat < 5801 ∧ 5800 ≤ (sEasy good).dev.loops[(0 : Fin 18)].high.toNat
    ∧ (easy false).easyAll = true ∧ (easy false).signalled = false ∧ 5700 ≤ (sEasy good).dev.loops[(0 : Fin 18)].low.toNat ∧ (sEasy good).dev.loops[(0 : Fin 18)].low.toNat < 5701 := by decide
theorem wit_EasySignal : (sEasy (easy false)).dev.ctxs = [ctxEasy] ∧ ctxEasy.resident = true ∧ ctxEasy.cond = .running ∧ ctxEasy.plan.isSome = true
    ∧ (sEasy (easy false)).dev.dies[ctxEasy.cdAt 0].course.counter = some 2100
    ∧ (sEasy (easy false)).dev.dies[ctxEasy.cdAt 0].course.pause = none ∧ (sEasy (easy false)).dev.dies[ctxEasy.cdAt 0].course.resume = none ∧ ctxEasy.m ≠ 1
    ∧ NoLinkErrors (sEasy (easy false)) := by refine ⟨rfl, ?_, ?_, ?_, ?_, ?_, ?_, ?_, rfl⟩ <;> decide +kernel
/-- R448, R449: an average of 5,800 W starts no episode, 5,801 does; 5,700 ends one. -/
theorem test_easy : (after (.easyAllEntry 5800) (sEasy good)).pd.easyAll = false ∧ (after (.easyAllEntry 5801) (sEasy good)).pd.easyAll = true
    ∧ (after (.easyAllExit 5701) (sEasy (easy true))).pd.easyAll = true ∧ (after (.easyAllExit 5700) (sEasy (easy true))).pd.easyAll = false := by decide +kernel
/-- A LOOP_SET of the exit level 65,535 cycles ago counts still, one 65,536 cycles ago does not. -/
theorem wit_EasyRestart : let counting := fun (p : Pd) => p.restart.any fun t => decide (((sEasy p).dev.cycle pdIsland - t).toNat < 65536)
    counting { easy true with restart := some ((sEasy good).dev.cycle pdIsland - 65535) } = true
      ∧ counting { easy true with restart := some ((sEasy good).dev.cycle pdIsland - 65536) } = false ∧ counting (easy true) = false := by decide +kernel
/-- Writes that waited: one that lands, and one that the link answers with an error, of a context. -/
theorem wit_Retrain_held : let w : HeldWrite := ⟨0x200000000040, zeros 4, 7⟩
    let s := served fun d => { d with yalkenUp := false, heldWrites := [w], ctxs := [ctx] }
    let bad := served fun d => { d with yalkenUp := false, heldWrites := [w], ctxs := [ctx], mem := { d.mem with errLines := [0x200000000040 / 64] } };
    s.dev.start.stage = 8 ∧ s.dev.companion = [] ∧ (∀ w ∈ s.dev.heldWrites, w.dpa / 64 ∉ s.dev.mem.errLines)
      ∧ bad.dev.start.stage = 8 ∧ bad.dev.companion = [] ∧ bad.dev.heldWrites = [w] ∧ w.dpa / 64 ∈ bad.dev.mem.errLines ∧ w.ctx ≠ 0 ∧ bad.dev.ctxTag w.ctx = some ctx := by decide +kernel
theorem wit_Retrain : (served).dev.start.stage = 8 ∧ (served).dev.companion = [] ∧ (served).dev.yalkenUp = true ∧ (served fun d => { d with yalkenUp := false }).dev.yalkenUp = false
    ∧ (served fun d => { d with yalkenUp := false }).dev.start.stage = 8 ∧ State.reset.dev.start.stage ≠ 8 := by decide

/-- A stage of start-up with the rails on; flash holds what `flash` lists. -/
def sStage (n : BitVec 4) (f : Device → Device := id) : State := { State.reset with dev := f { Device.reset with pd := good, start := { Device.reset.start with stage := n } } }
/-- A set-up image without entries; its check word was computed by hand. -/
def setupImage : List Host.Cell :=
  ([0x4F, 0x58, 0x53, 0x55, 5] ++ zeros 3 ++ [68] ++ zeros 3 ++ [77] ++ zeros 51 ++ [0x54, 0x41, 0x26, 0x53] : List Byte).zipIdx.map fun b => (setupBase + b.2, b.1)
def sSetup (image : Bool) : State := sStage 3 fun d => { d with hd := { d.hd with flash := if image then setupImage else [] } }
theorem wit_Stage (n : BitVec 4) : MemoriesOk (sStage n).dev ∧ (sStage n).dev.start.stage = n ∧ (sStage n).dev.start.fail = 0 ∧ (sStage n).dev.pd.pwrGood = true ∧ (sStage n).dev.boat.entropyFailed = false :=
  ⟨memOk (show memCheck (sStage 0).dev = true by decide +kernel), rfl, rfl, rfl, rfl⟩
/-- Neither slot of an empty flash holds firmware. That a slot is valid rests on the signature check, which no proof can evaluate. -/
theorem wit_Boot : (sStage 2).dev.fwCheck 0 ≠ none ∧ (sStage 2).dev.fwCheck 1 ≠ none
    ∧ (sStage 2 fun d => { d with boat := { d.boat with entropyFailed := true } }).dev.boat.entropyFailed = true ∧ 65532 < (sStage 2).dev.chainRead := by decide +kernel
theorem wit_Setup (image : Bool) : let s := sSetup image
    let img := s.dev.flashBytes setupBase (Min.min 262144 (field (s.dev.flashBytes setupBase 64) 8 4))
    (image = true → field (s.dev.flashBytes setupBase 64) 8 4 = 68
      ∧ imageWhy s.dev.fusedDefaults.pd (s.dev.flashBytes setupBase 64) img ((List.range (field (s.dev.flashBytes setupBase 64) 6 2)).map (imageEntry img)) = 0 ∧ field img 0xC 4 = 77)
      ∧ MemoriesOk s.dev := by
  cases image
  · exact ⟨fun h => absurd h (by decide), memOk (by decide +kernel)⟩
  · exact ⟨fun _ => by decide +kernel, memOk (by decide +kernel)⟩
/-- R460 to R462: the image without entries is applied with its sequence number; an unread one leaves the fused defaults. -/
theorem test_setup : (after (.setupImageApply true) (sSetup true)).start.cfgSeq = 77 ∧ (after (.setupImageApply false) (sSetup true)).start.cfgWhy = 1 := by decide +kernel
/-- Controllers untrained, and all trained with the fill due. -/
theorem wit_Train : (∀ (cd : Cd) (i : Fin 2), (sStage 4).dev.lpcs[cd][i].trained = false)
    ∧ (let s := sStage 4 fun d => { d with lpcs := Vector.replicate 16 (Vector.replicate 2 { trained := true }) }
      (∀ (cd : Cd) (i : Fin 2), s.dev.lpcs[cd][i].trained = true) ∧ s.dev.start.fillDone = false) := by decide +kernel
/-- Delays of the Course at its limit, and one beyond it at any place. -/
theorem wit_Course_delays (k : Fin 32) : let l : List (BitVec 16) := List.replicate k.val 56 ++ 57 :: List.replicate (31 - k.val) 56
    l.length = 32 ∧ l[k.val]? = some 57 ∧ (∀ w ∈ l.take k.val, w.toNat ≤ 56) ∧ ∀ v ∈ List.replicate 32 (56 : BitVec 16), v.toNat ≤ 56 := by
  refine ⟨?_, ?_, ?_, ?_⟩
  · simp; omega
  · simp
  · intro w h; rw [List.take_left' (by simp)] at h; rw [List.eq_of_mem_replicate h]; decide
  · intro w h; rw [List.eq_of_mem_replicate h]; decide
theorem wit_Yalken : (sStage 6).dev.yalkenUp = false := rfl
/-- MODULE_RESET with the dump held and not held. -/
theorem wit_ModuleReset (held : Bool) : let s := served fun d => { d with dump := { d.dump with p12 := held } }
    DriverServes s ∧ s.dev.hd.flashBusy = false ∧ s.dev.dump.p12 = held ∧ MemoriesOk s.dev ∧ (0xA5C30F12 : Nat) < 2 ^ 32 ∧ (0x1A5C30F12 : Nat) < 2 ^ 64 ∧ 0x1A5C30F12 % 2 ^ 32 = 0xA5C30F12 :=
  ⟨by cases held <;> (unfold DriverServes; decide), rfl, rfl, memOk (show memCheck (served fun d => d).dev = true by decide +kernel), by decide, by decide, by decide⟩

/-! The module as a whole, and ill-formed commands. -/

/-- The reset state is sound: the invariants of the claims hold there. -/
theorem wit_Sound : Sound State.reset := by
  refine ⟨memOk (by decide +kernel), ?_⟩
  unfold PowerOk; decide
/-- A step takes the front command; a running island of an idle module counts. -/
theorem test_step (rest : List Instr) : step { State.reset with pending := .inputApplied :: rest } = .next { dev := after .inputApplied State.reset, pending := rest } := rfl
theorem test_idle : (match step (sPd good) with | .next t => t.dev.cycle pdIsland | _ => 0) = BitVec.ofNat 64 (clockRatio pdIsland) := by decide +kernel
/-- The table gives no row any bits. -/
theorem test_decode (n v : Nat) : decodeTableWord n v = none := rfl
theorem test_withFetchWord (s : State) (n v : Nat) : s.withFetchWord n v = s := rfl

/-- Each check of WellFormed refuses a term. -/
def emptyFlit : Flit := ⟨0, 0, 0, 0, true, false, 0, []⟩
theorem wf_flit_lines : (Instr.flitReceive 0 { emptyFlit with idle := false, lines := List.replicate 5 (0, zeros 64) }).wf = false := by decide
theorem wf_flit_line : (Instr.flitReceive 0 { emptyFlit with idle := false, lines := [(0, zeros 63)] }).wf = false := by decide
theorem wf_flit_idle : (Instr.flitReceive 0 { emptyFlit with lines := [(0, zeros 64)] }).wf = false ∧ (Instr.flitReceive 0 emptyFlit).wf = true := by decide
theorem wf_packet_header : ∀ i ∈ [Instr.packetArrival 0 ⟨zeros 63, []⟩, .nakArrival 0 ⟨zeros 65, []⟩, .mcredit 0 ⟨[], []⟩, .ping 0 ⟨[], []⟩, .echo 0 ⟨[], []⟩], i.wf = false := by decide
theorem wf_packet_payload : (Instr.packetArrival 0 ⟨zeros 64, List.replicate 65 (zeros 64)⟩).wf = false ∧ (Instr.packetArrival 0 ⟨zeros 64, [zeros 1]⟩).wf = false := by decide +kernel
def reading : Telemetry := ⟨0, 0, 0, List.replicate 16 0, List.replicate 17 0, none⟩
theorem wf_telemetry : (Instr.telemetrySample { reading with cdPwr := List.replicate 15 0 }).wf = false ∧ (Instr.telemetrySample { reading with temps := List.replicate 16 0 }).wf = false
    ∧ (Instr.telemetrySample reading).wf = true := by decide
theorem wf_stores : (Instr.snpinv .admin [(0x1FFFFFFFFFFF, 0)]).wf = false ∧ (Instr.snpinv .admin [(2 ^ 52, 0)]).wf = false ∧ (Instr.doorbellWrite 4 0 [(0, 0)]).wf = false
    ∧ (Instr.adminRingBind (driverWrite 0x12000010 0) [(0, 0)]).wf = false := by decide
theorem wf_doorbell : (Instr.doorbellWrite 6 0 []).wf = false := by decide
theorem wf_access : ∀ a ∈ [({ path := .image, off := 0, wide := true, data := 0 } : RegAccess), { path := .board, off := 0, wide := true, data := 0 }, driverWrite 0x14000000 0, driverWrite 4 0,
    { path := .driver, off := 2, wide := false, data := 0 }, { path := .board, off := 0, wide := false, data := 0x100000000 }], ∀ i ∈ [Instr.setupRegisterWrite a, .budgetWrite a, .portEnWrite a,
    .counterClearWrite a, .loopRegisterWrite a, .flashRead a, .flashProgram a, .flashErase a, .moduleReset a, .adminRingBind a [], .adminRingResume a], i.wf = false := by decide
theorem wf_course : (Instr.courseBringup (List.replicate 33 0)).wf = false ∧ (Instr.courseBringup (List.replicate 32 0)).wf = true := by decide
end Sys2Proof.Tests
end

section
/-! One step of the queue (O57), and the state after reset (O58). -/

namespace Sys2Proof.Safety

-- One proof after another, as in the tests: in the joined text, proofs elaborated side by side hold too much memory.
set_option Elab.async false

open Sys2Proof Sys2Proof.Machine Sys2Proof.Laws

/-! ### A step -/

/-- Every command answers a next state with the queue as it stands. -/
theorem exec_next (c : Instr) (s : State) : ∃ e : Device, exec c s = .next { s with dev := e } := by
  cases c <;> exact ⟨_, rfl⟩

theorem step_cons (c : Instr) (d : Device) (rest : List Instr) : step { dev := d, pending := c :: rest } = exec c { dev := d, pending := rest } := rfl

theorem step_nil (d : Device) : step { dev := d, pending := [] } = .next { dev := d.idle, pending := [] } := rfl

/-- A reference period changes nothing but the wait counts of a die, and on a die without a resident context not even these (R28). -/
theorem countDie_waits (d : Device) (cd : Cd) (x : Die) : d.countDie cd x = { x with waits := (d.countDie cd x).waits } := by
  unfold Device.countDie
  split
  · rfl
  · split <;> rfl

theorem countDie_none {d : Device} {cd : Cd} (h : d.residentOf cd = none) (x : Die) : d.countDie cd x = x := by simp [Device.countDie, h]

theorem idle_dies (d : Device) (cd : Cd) : d.idle.dies[cd] = d.countDie cd d.dies[cd] := each_get ..

/-- The counter of a running island advances by its multiplier (R14, R24). -/
theorem idle_cycles (d : Device) :
    d.idle.cycles = d.cycles.map fun p => (p.1, if d.islandRuns p.1 then p.2 + BitVec.ofNat 64 (clockRatio p.1) else p.2) := by
  have hr : ({ d with dies := each d.countDie d.dies } : Device).islandRuns = d.islandRuns := by unfold Device.islandRuns; rfl
  unfold Device.idle Device.tick
  rw [hr]
  refine List.map_congr_left fun p _ => ?_
  split <;> rfl

/-- Settles O57: each command's meaning is a next state of the same queue, and on an empty queue the period's effect is read off `Device.idle`. -/
theorem stepRunsTheFrontCommand : Obligations.StepRunsTheFrontCommand := by
  unfold Obligations.StepRunsTheFrontCommand
  refine ⟨fun c d rest => ⟨step_cons c d rest, exec_next c _⟩, fun d => ⟨d.idle, step_nil d, rfl, fun cd => ⟨?_, fun h => ?_⟩, ?_, fun k i v h => ?_⟩⟩
  · rw [idle_dies]; exact countDie_waits ..
  · rw [idle_dies]; exact countDie_none h _
  · rw [idle_cycles, List.map_map]; rfl
  · rw [idle_cycles, List.getElem?_map, h]; rfl

/-! ### Reset -/

/-- The islands stand in strictly rising order of their IDs (R12, R13). -/
theorem allIslands_nodup : allIslands.Nodup := by
  have h : (allIslands.map BitVec.toNat).IsChain (· < ·) := by decide +kernel
  exact List.Nodup.of_map _ ((List.isChain_iff_pairwise.1 h).imp fun h => Nat.ne_of_lt h)

theorem reset_dev : State.reset.dev = Device.reset := rfl

theorem reset_islands : Device.reset.cycles.map (·.1) = allIslands := by
  show (allIslands.map (·, 0)).map (·.1) = allIslands
  rw [List.map_map]; exact List.map_id _

theorem reset_loops (j : Fin 18) : Device.reset.loops[j] = loopReset j := each_get ..

theorem reset_dies (cd : Cd) : Device.reset.dies[cd] = {} := by
  show (Vector.replicate 16 ({} : Die))[cd] = _
  simp

/-- No memory lists a byte after reset. -/
theorem memoriesOk_reset : MemoriesOk Device.reset :=
  ⟨rfl, fun cd => by rw [reset_dies]; exact ⟨rfl, rfl⟩, fun _ h => absurd h List.not_mem_nil, rfl, rfl⟩

/-- The rails are off and the input is removed after reset. -/
theorem powerOk_reset : PowerOk Device.reset.pd := by unfold PowerOk; decide

/-- Settles O58: each value is read off `Device.reset`; the state is sound since no memory lists a byte and no rail is on. -/
theorem resetHoldsItsStatedValues : Obligations.ResetHoldsItsStatedValues := by
  unfold Obligations.ResetHoldsItsStatedValues
  simp only [reset_dev]
  refine ⟨rfl, ⟨memoriesOk_reset, powerOk_reset⟩, rfl, rfl, rfl, rfl, ?_, ?_, ?_, ?_, rfl, ?_, ?_, ?_, ?_, rfl, rfl, rfl, rfl, ?_, rfl, rfl⟩
  · rw [← List.length_map (f := (·.1)), reset_islands]; decide +kernel
  · rw [reset_islands]; exact allIslands_nodup
  · intro x hx
    obtain ⟨i, -, rfl⟩ := List.mem_map.1 hx
    rfl
  · intro n; show (Vector.replicate 16 _)[n] = _; simp
  · exact reset_loops 0
  · exact reset_loops 1
  · intro j hj
    rw [reset_loops, loopReset, if_neg (by omega), if_neg (by omega)]
  · intro p
    have : Device.reset.ports[p] = {} := by show (Vector.replicate 16 ({} : Port))[p] = _; simp
    rw [this]; exact ⟨rfl, rfl⟩
  · intro cd; rw [reset_dies]; exact ⟨rfl, rfl⟩

end Sys2Proof.Safety
end

section
/-! SUPPORT. Soundness kept, operation by operation: after any operation of the model the memories are in canonical form if they were before, and
the power stage is legal if it was before. This file has the relation, the table updates and the memory operations. -/

namespace Sys2Proof.Safety

set_option Elab.async false

open Sys2Proof Sys2Proof.Machine Sys2Proof.Laws

/-- What is sound of `d₀` is sound of `d`: the memories, and apart from them the power stage. -/
def Keeps (d₀ d : Device) : Prop := (MemoriesOk d₀ → MemoriesOk d) ∧ (PowerOk d₀.pd → PowerOk d.pd)

/-- Both ways that a computation ends: `p` of its error, or `q` of its result. -/
def Ends {ε α : Type} (p : ε → Prop) (q : α → Prop) : Except ε α → Prop
  | .error e => p e
  | .ok a => q a

section
variable {ε α β : Type} {p : ε → Prop} {q : α → Prop} {r : β → Prop} {x : Except ε α}

theorem Ends.of_ok {a : α} (h : Ends p q x) (e : x = .ok a) : q a := by subst e; exact h
theorem Ends.of_error {a : ε} (h : Ends p q x) (e : x = .error a) : p a := by subst e; exact h

theorem Ends.any : Ends (fun _ => True) (fun _ => True) x := by cases x <;> trivial

theorem Ends.bind {f : α → Except ε β} (h : Ends p q x) (hf : ∀ a, q a → Ends p r (f a)) : Ends p r (x >>= f) := by
  cases x with
  | error e => exact h
  | ok a => exact hf a h

theorem Ends.map {f : α → β} (h : Ends p q x) (hf : ∀ a, q a → r (f a)) : Ends p r (x.map f) := by
  cases x with
  | error e => exact h
  | ok a => exact hf a h

theorem Ends.foldlM {f : β → α → Except ε β} (hf : ∀ b a, r b → Ends p r (f b a)) : ∀ (l : List α) {b : β}, r b → Ends p r (l.foldlM f b)
  | [], _, h => h
  | a :: t, b, h => by rw [List.foldlM_cons]; exact (hf b a h).bind fun _ hb => Ends.foldlM hf t hb
end

/-- An invariant of a fold. -/
theorem foldl_keeps {α β : Type} {r : β → Prop} {f : β → α → β} (hf : ∀ b a, r b → r (f b a)) : ∀ (l : List α) {b : β}, r b → r (l.foldl f b)
  | [], _, h => h
  | a :: t, _, h => foldl_keeps hf t (hf _ a h)

theorem land_wf {m : Memory} (ws : Writes) (h : m.wf 0 = true) : (ws.land m).wf 0 = true :=
  foldl_keeps (r := fun m : Memory => m.wf 0 = true) (fun _ _ hm => memStore_wf hm) ws h

namespace Keeps

theorem refl (d : Device) : Keeps d d := ⟨id, id⟩

section
variable {d₀ d : Device}

/-! ### Shapes of a definition -/

theorem ite {a b : Device} {p : Prop} {_ : Decidable p} (ha : Keeps d₀ a) (hb : Keeps d₀ b) : Keeps d₀ (if p then a else b) := by
  split
  · exact ha
  · exact hb

/-- The device of a pair, by the pair's equation. -/
theorem of_eq {α : Type} {p : Device × α} {e : Device} {x : α} (h : Keeps d₀ p.1) (hp : p = (e, x)) : Keeps d₀ e := by subst hp; exact h

theorem of_eq_snd {α : Type} {p : α × Device} {e : Device} {x : α} (h : Keeps d₀ p.2) (hp : p = (x, e)) : Keeps d₀ e := by subst hp; exact h

theorem foldl {α : Type} {l : List α} {f : Device → α → Device} (h : Keeps d₀ d) (hf : ∀ d a, Keeps d₀ d → Keeps d₀ (f d a)) :
    Keeps d₀ (l.foldl f d) := foldl_keeps hf l h

/-! ### Updates -/

/-- Nothing that soundness speaks of has changed. -/
theorem frame {e : Device} (h : Keeps d₀ d) (hb : e.mem.bytes = d.mem.bytes := by rfl) (hd : e.dies = d.dies := by rfl)
    (hc : e.ctxs = d.ctxs := by rfl) (hf : e.hd.flash = d.hd.flash := by rfl) (hg : e.hd.flashBuf = d.hd.flashBuf := by rfl)
    (hp : e.pd = d.pd := by rfl) : Keeps d₀ e := by
  unfold Keeps MemoriesOk
  rw [hb, hd, hc, hf, hg, hp]
  exact h

/-- Only the bytes of the DPA space have changed. -/
theorem bytes {e : Device} (h : Keeps d₀ d) (hb : MemoriesOk d → e.mem.bytes.wf 0 = true) (hd : e.dies = d.dies := by rfl)
    (hc : e.ctxs = d.ctxs := by rfl) (hf : e.hd.flash = d.hd.flash := by rfl) (hg : e.hd.flashBuf = d.hd.flashBuf := by rfl)
    (hp : e.pd = d.pd := by rfl) : Keeps d₀ e := by
  refine ⟨fun h0 => ?_, by rw [hp]; exact h.2⟩
  obtain ⟨-, h2, h3, h4, h5⟩ := h.1 h0
  exact ⟨hb (h.1 h0), by rwa [hd], by rwa [hc], by rwa [hf], by rwa [hg]⟩

/-- Only the flash and its buffer have changed. -/
theorem flash {e : Device} (h : Keeps d₀ d) (hf : MemoriesOk d → e.hd.flash.wf 0xFF = true) (hg : MemoriesOk d → e.hd.flashBuf.wf 0 = true)
    (hb : e.mem.bytes = d.mem.bytes := by rfl) (hd : e.dies = d.dies := by rfl) (hc : e.ctxs = d.ctxs := by rfl) (hp : e.pd = d.pd := by rfl) :
    Keeps d₀ e := by
  refine ⟨fun h0 => ?_, by rw [hp]; exact h.2⟩
  obtain ⟨h1, h2, h3, -, -⟩ := h.1 h0
  exact ⟨by rwa [hb], by rwa [hd], by rwa [hc], hf (h.1 h0), hg (h.1 h0)⟩

/-- Only the power stage has changed. -/
theorem power {e : Device} (h : Keeps d₀ d) (hp : PowerOk d.pd → PowerOk e.pd) (hb : e.mem.bytes = d.mem.bytes := by rfl)
    (hd : e.dies = d.dies := by rfl) (hc : e.ctxs = d.ctxs := by rfl) (hf : e.hd.flash = d.hd.flash := by rfl)
    (hg : e.hd.flashBuf = d.hd.flashBuf := by rfl) : Keeps d₀ e := by
  refine ⟨?_, fun h0 => hp (h.2 h0)⟩
  unfold MemoriesOk
  rw [hb, hd, hc, hf, hg]
  exact h.1

theorem modDie {cd : Cd} {f : Die → Die} (h : Keeps d₀ d) (hf : MemoriesOk d → ∀ x, DieOk x → DieOk (f x) := by exact fun _ _ hx => ⟨hx.1, hx.2⟩) :
    Keeps d₀ (d.modDie cd f) := by
  refine ⟨fun h0 => ?_, h.2⟩
  obtain ⟨h1, h2, h3, h4, h5⟩ := h.1 h0
  refine ⟨h1, fun e => ?_, h3, h4, h5⟩
  by_cases he : cd = e
  · subst he; rw [modDie_self]; exact hf (h.1 h0) _ (h2 _)
  · rw [modDie_other _ _ he]; exact h2 e

theorem modCox {cd : Cd} {f : Cox → Cox} (h : Keeps d₀ d) : Keeps d₀ (d.modCox cd f) := h.modDie
theorem modCourse {cd : Cd} {f : Course → Course} (h : Keeps d₀ d) : Keeps d₀ (d.modCourse cd f) := h.modDie

theorem modLadle {cd : Cd} {f : Ladle → Ladle} (h : Keeps d₀ d)
    (hf : MemoriesOk d → ∀ k : Ladle, k.store.wf 0 = true → (f k).store.wf 0 = true := by exact fun _ _ hk => hk) : Keeps d₀ (d.modLadle cd f) :=
  h.modDie fun hm _ hx => ⟨hx.1, hf hm _ hx.2⟩

/-- Every die rewritten by number. -/
theorem eachDie {f : Cd → Die → Die} (h : Keeps d₀ d) (hf : MemoriesOk d → ∀ cd x, DieOk x → DieOk (f cd x)) :
    Keeps d₀ { d with dies := each f d.dies } := by
  refine ⟨fun h0 => ?_, h.2⟩
  obtain ⟨h1, h2, h3, h4, h5⟩ := h.1 h0
  refine ⟨h1, fun e => ?_, h3, h4, h5⟩
  show DieOk (each f d.dies)[e]
  rw [each_get]
  exact hf (h.1 h0) e _ (h2 e)

theorem modArc {c : Context} {f : Cd → Die → Die} (h : Keeps d₀ d)
    (hf : MemoriesOk d → ∀ cd x, DieOk x → DieOk (f cd x) := by exact fun _ _ _ hx => ⟨hx.1, hx.2⟩) : Keeps d₀ (d.modArc c f) :=
  h.eachDie fun hm cd x hx => by
    split
    · exact hf hm cd x hx
    · exact hx

theorem modCtx {slot : CtxSlot} {f : Context → Context} (h : Keeps d₀ d)
    (hf : MemoriesOk d₀ → ∀ c, ContextOk c → ContextOk (f c) := by exact fun _ _ hc ds h => hc ds h) : Keeps d₀ (d.modCtx slot f) := by
  refine ⟨fun h0 => ?_, h.2⟩
  obtain ⟨h1, h2, h3, h4, h5⟩ := h.1 h0
  refine ⟨h1, h2, fun c hc => ?_, h4, h5⟩
  obtain ⟨b, hb, rfl⟩ := List.mem_map.1 hc
  split
  · exact hf h0 _ (h3 b hb)
  · exact h3 b hb

theorem modPort {p : PortNo} {f : Port → Port} (h : Keeps d₀ d) : Keeps d₀ (d.modPort p f) := h.frame
theorem modFd {i : Fin 2} {f : FabricDie → FabricDie} (h : Keeps d₀ d) : Keeps d₀ (d.modFd i f) := h.frame
theorem modLpc {cd : Cd} {i : Fin 2} {f : Lpc → Lpc} (h : Keeps d₀ d) : Keeps d₀ (d.modLpc cd i f) := h.frame
theorem modCport {cd : Cd} {i : Fin 2} {f : CoursePort → CoursePort} (h : Keeps d₀ d) : Keeps d₀ (d.modCport cd i f) := h.frame
theorem restart {is : BitVec 16 → Bool} (h : Keeps d₀ d) : Keeps d₀ (d.restart is) := h.frame

theorem modBytes {f : Memory → Memory} (h : Keeps d₀ d) (hf : ∀ m : Memory, m.wf 0 = true → (f m).wf 0 = true) : Keeps d₀ (d.modBytes f) :=
  h.bytes fun hm => hf _ hm.1

theorem modMem {f : Mem → Mem} (h : Keeps d₀ d) (hf : ∀ m : Mem, m.bytes.wf 0 = true → (f m).bytes.wf 0 = true := by exact fun _ hm => hm) :
    Keeps d₀ (d.modMem f) := h.bytes fun hm => hf _ hm.1

/-! ### Contexts -/

theorem contextOk_of_find {p : Context → Bool} {c : Context} (h : Keeps d₀ d) (hc : d.ctxs.find? p = some c) (h0 : MemoriesOk d₀) : ContextOk c := by
  obtain ⟨-, -, h3, -, -⟩ := h.1 h0
  exact h3 c (List.mem_of_find?_eq_some hc)

/-! ### Memory (R168 to R191) -/

theorem writeAs {dom : Fin 64} {a : Nat} {bs : List Byte} (h : Keeps d₀ d) : Keeps d₀ (d.writeAs dom a bs) := by
  unfold Device.writeAs
  dsimp only
  split
  · exact h.bytes fun hm => memStore_wf hm.1
  · exact h.bytes fun hm => memStore_wf hm.1

theorem writeBlock {dom : Fin 64} {a n : Nat} {cells : Memory} (h : Keeps d₀ d) : Keeps d₀ (d.writeBlock dom a n cells) := by
  unfold Device.writeBlock
  exact h.bytes fun hm => memPlace_wf hm.1 ..

theorem companionPut {tag : BitVec 16} {ws : Writes} (h : Keeps d₀ d) : Keeps d₀ (d.companionPut tag ws) :=
  .ite (h.modBytes fun _ hm => land_wf _ hm) h.frame

end
end Keeps
end Sys2Proof.Safety
end

section
/-! SUPPORT. Soundness kept by memory accesses with their errors, by records and faults, and by the end of a run. -/

namespace Sys2Proof.Safety

set_option Elab.async false

open Sys2Proof Sys2Proof.Machine Sys2Proof.Laws

/-! ### Memory with its errors (R171 to R191) -/

theorem takePage_wf {m : Mem} {dom : Fin 64} {page : Nat} (h : m.bytes.wf 0 = true) : (m.takePage dom page).bytes.wf 0 = true := by
  unfold Mem.takePage
  split
  · exact h
  · exact memClear_wf h ..

theorem takeEntries_wf {m : Mem} (es : List (BitVec 128)) (h : m.bytes.wf 0 = true) : (m.takeEntries es).bytes.wf 0 = true :=
  foldl_keeps (r := fun m : Mem => m.bytes.wf 0 = true) (fun m e hm => by
    split
    · exact foldl_keeps (r := fun m : Mem => m.bytes.wf 0 = true) (fun _ _ hm => takePage_wf hm) _ hm
    · exact hm) es h

namespace Keeps
section
variable {d₀ d : Device} {c : Context} {cd : Cd} {id : RingId}

theorem serveRecord {dom : Fin 64} {k : Nat} {w : Window} {i : Nat} (h : Keeps d₀ d) : Keeps d₀ (d.serveRecord dom k w i) := by
  unfold Device.serveRecord
  dsimp only
  split
  · exact h.frame
  · exact h

theorem servePackage {a : Nat} (h : Keeps d₀ d) : Keeps d₀ (d.servePackage a) := by
  unfold Device.servePackage
  split
  · exact h.serveRecord
  · exact h

theorem writeLine {r : Requester} {a : Nat} {bs : List Byte} (h : Keeps d₀ d) : Ends (fun _ => True) (Keeps d₀) (d.writeLine c cd r a bs) := by
  unfold Device.writeLine
  split
  · trivial
  · dsimp only
    split
    · trivial
    · split
      · split
        · trivial
        · exact h.companionPut
      · exact h.writeAs

theorem writeBytes {r : Requester} : ∀ {fuel : Nat} {d : Device} {a : Nat} {bs : List Byte}, Keeps d₀ d → Keeps d₀ (d.writeBytes c cd r fuel a bs).1
  | 0, _, _, _, h => h
  | fuel + 1, d, a, bs, h => by
    unfold Device.writeBytes
    dsimp only
    split
    · exact h
    · split
      · exact h
      · rename_i d1 hd
        have ih := writeBytes (r := r) (fuel := fuel) (a := a + (64 - a % 64)) (bs := bs.drop (64 - a % 64)) (h.writeLine.of_ok hd)
        split <;> rename_i e <;> exact ih.of_eq e

theorem putBytes {r : Requester} {a : Nat} {bs : List Byte} (h : Keeps d₀ d) : Keeps d₀ (d.putBytes c cd r a bs).1 := h.writeBytes

/-! ### Records, events and faults (R15, R192, R370 to R376) -/

theorem logErr {r : ErrRec} (h : Keeps d₀ d) : Keeps d₀ (d.logErr r) := by unfold Device.logErr; exact h.frame

theorem markFault {r : ErrRec} (h : Keeps d₀ d) : Keeps d₀ (d.markFault c r) :=
  .ite (h.modCtx.modArc fun _ _ x hx => by split <;> exact hx) h.modCtx

theorem markTag {r : ErrRec} (h : Keeps d₀ d) : Keeps d₀ (d.markTag r) := by
  unfold Device.markTag
  split
  · exact h.markFault
  · exact h

theorem ringDo {f : BitVec 16 → RingIo → RingIo} (h : Keeps d₀ d) : Keeps d₀ (d.ringDo id f).1 := by
  unfold Device.ringDo
  split
  · split
    · exact h
    · exact h.frame.companionPut
  · split
    · exact h
    · split
      · exact h
      · exact h.modCtx.companionPut

theorem writesFailed {tag : BitVec 16} {ws : Writes} (h : Keeps d₀ d) : Keeps d₀ (d.writesFailed id tag ws) :=
  h.foldl fun _ _ h => h.logErr.markTag.ringDo

theorem onRing {f : BitVec 16 → RingIo → RingIo} (h : Keeps d₀ d) : Keeps d₀ (d.onRing id f) := .ite h.ringDo.writesFailed h.ringDo

theorem event {code : Nat} {p : List Byte} (h : Keeps d₀ d) : Keeps d₀ (d.event id code p) := h.onRing
theorem report {r : ErrRec} (h : Keeps d₀ d) : Keeps d₀ (d.report r) := h.logErr.event
theorem fault {r : ErrRec} (h : Keeps d₀ d) : Keeps d₀ (d.fault c r) := h.report.markFault
theorem memFault {isl : BitVec 16} {code line done : Nat} {write : Bool} {stream item : Nat} (h : Keeps d₀ d) :
    Keeps d₀ (d.memFault c isl code line done write stream item) := h.fault

theorem putRecord {isl : BitVec 16} {a : Nat} {bs : List Byte} (h : Keeps d₀ d) : Keeps d₀ (d.putRecord c cd isl a bs) := by
  unfold Device.putRecord
  split
  · rename_i e; exact h.putBytes.of_eq e
  · rename_i e; exact (h.putBytes.of_eq e).memFault

/-! ### Inline ECC (R174 to R176) -/

theorem eccCe {i : Fin 2} {line : Nat} (h : Keeps d₀ d) : Keeps d₀ (d.eccCe cd i line) := .ite h.modLpc.event h.modLpc
theorem eccUe {i : Fin 2} (h : Keeps d₀ d) : Keeps d₀ (d.eccUe cd i) := h.modLpc

theorem eccOf {α : Type} {a : Nat} {r : Except Nat α} (h : Keeps d₀ d) : Keeps d₀ (d.eccOf a r) := by
  unfold Device.eccOf
  split
  · exact .ite h.eccCe h
  · exact .ite h.eccUe h
  · exact h

/-- A fold over lines that stops at the first failing one. -/
theorem foldl_stopping {α : Type} {l : List α} {f : Device × Bool → α → Device × Bool} (h : Keeps d₀ d)
    (hf : ∀ x a, Keeps d₀ x.1 → Keeps d₀ (f x a).1) : Keeps d₀ (l.foldl f (d, false)).1 :=
  foldl_keeps (r := fun x : Device × Bool => Keeps d₀ x.1) hf l h

theorem eccRun {r : Requester} {a n : Nat} (h : Keeps d₀ d) : Keeps d₀ (d.eccRun c cd r a n) :=
  h.foldl_stopping fun _ _ h => by
    split
    · exact h
    · exact h.eccOf

theorem eccPlain {a n : Nat} (h : Keeps d₀ d) : Keeps d₀ (d.eccPlain a n) :=
  .ite h (h.foldl_stopping fun _ _ h => by
    split
    · exact h
    · split
      · exact h.eccOf
      · exact h.eccOf)

theorem eccReads : ∀ {rs : List (Nat × Nat)} {d : Device}, Keeps d₀ d → Keeps d₀ (d.eccReads rs)
  | [], _, h => h
  | _ :: _, _, h => .ite h.eccPlain (eccReads h.eccPlain)

theorem draw (h : Keeps d₀ d) : Keeps d₀ d.draw.2 := h.frame
theorem drawRandom (h : Keeps d₀ d) : Keeps d₀ d.drawRandom.2 := h.frame
theorem drawBytes {n : Nat} (h : Keeps d₀ d) : Keeps d₀ (d.drawBytes n).2 := h.frame

/-! ### The norm area (R282 to R286) -/

theorem scalesPut {a : Nat} {bs : List Byte} (h : Keeps d₀ d) : Keeps d₀ (d.scalesPut c cd a bs).1 := by
  unfold Device.scalesPut
  split
  · rename_i e; exact h.putBytes.of_eq e
  · rename_i e; exact (h.putBytes.of_eq e).memFault

theorem normPut {area cap attempt : Nat} {entry : List Byte} {full : Bool} {count dropped : Nat} (h : Keeps d₀ d) :
    Keeps d₀ (d.normPut c cd area cap attempt entry full count dropped) :=
  .ite h.scalesPut (.ite h.scalesPut.scalesPut h.scalesPut)

theorem normAppend {entry : List Byte} (h : Keeps d₀ d) : Keeps d₀ (d.normAppend c cd entry) := by
  unfold Device.normAppend
  split
  · exact h
  · split
    · exact h.memFault
    · exact .ite h.normPut (.ite h.scalesPut.normPut h.scalesPut)

theorem closeGroup (h : Keeps d₀ d) : Keeps d₀ (d.closeGroup c cd) := by
  unfold Device.closeGroup
  split
  · exact h
  · exact h.modDie.normAppend

theorem normItem {handle layer target : Nat} {skipped nonfinite : Bool} {w g u : ExactSum} (h : Keeps d₀ d) :
    Keeps d₀ (d.normItem c cd handle layer target skipped nonfinite w g u) := by
  unfold Device.normItem
  split
  · exact h
  · exact (Keeps.ite h h.closeGroup).modDie

/-! ### How a Cox stops (R139, R140, R373) -/

theorem busAct {b : BusOp} (h : Keeps d₀ d) : Keeps d₀ (d.busAct cd b) := by
  unfold Device.busAct
  split
  · exact h.writeAs
  · split
    · exact h.modCox
    · exact h.modCox

theorem busUntil {t : Nat} (h : Keeps d₀ d) : Keeps d₀ (d.busUntil cd t) := h.modCox.foldl fun _ _ h => h.busAct
theorem busFlush (h : Keeps d₀ d) : Keeps d₀ (d.busFlush cd) := h.modCox.foldl fun _ _ h => h.busAct

theorem runAnswer {slot : CtxSlot} {u : Run} (h : Keeps d₀ d) : Keeps d₀ (d.runAnswer slot c u) := h.modCtx.onRing

theorem runEnd {slot : CtxSlot} (h : Keeps d₀ d) : Keeps d₀ (d.runEnd slot) := by
  unfold Device.runEnd
  split
  · exact h
  · rename_i c _
    split
    · exact h
    · have h1 {f : Context → Context} (hf : ∀ c, ContextOk c → ContextOk (f c)) :
          Keeps d₀ ((c.cds.foldl (fun d cd => d.closeGroup c cd) d).modCtx slot f) := (h.foldl fun _ _ h => h.closeGroup).modCtx fun _ => hf
      refine .ite h ?_
      dsimp only
      split
      · exact h1 fun _ hc => hc
      · split
        · exact h1 fun _ hc => hc
        · exact .ite (h1 fun _ hc => hc) (runAnswer (h1 fun _ hc => hc))

theorem coxStop {reason trap pc : Nat} {fault : Option ErrRec} (h : Keeps d₀ d) : Keeps d₀ (d.coxStop c cd reason trap pc fault) := by
  unfold Device.coxStop
  dsimp only
  split
  · exact h.busFlush.modCox
  · exact h.busFlush.modDie.modCtx.putRecord.putRecord.runEnd

theorem coxFault {r : ErrRec} {trap : Option Nat} (h : Keeps d₀ d) : Keeps d₀ (d.coxFault c cd r trap) := by
  unfold Device.coxFault
  dsimp only
  split
  · exact h.fault
  · split
    · exact h.fault.coxStop
    · exact h.fault.coxStop

end
end Keeps
end Sys2Proof.Safety
end

section
/-! SUPPORT. Soundness kept by engine queues and links, the Course, and the buffers of the ports. -/

namespace Sys2Proof.Safety

set_option Elab.async false

open Sys2Proof Sys2Proof.Machine Sys2Proof.Laws

/-! ### Dies (R146 to R155) -/

section
variable {x : Die} {q : QueueId} {e : QEntry} {svals : List (Fin 16 × BitVec 64)}

theorem DieOk.ite {a b : Die} {p : Prop} {_ : Decidable p} (ha : DieOk a) (hb : DieOk b) : DieOk (if p then a else b) := by
  split
  · exact ha
  · exact hb

theorem DieOk.linkStart (h : DieOk x) : DieOk (x.linkStart e) := .ite (.ite h h) (.ite h h)
theorem DieOk.linkRelease (h : DieOk x) : DieOk (x.linkRelease e) := .ite h h
theorem DieOk.linkComplete (h : DieOk x) : DieOk (x.linkComplete e) := .ite h h
theorem DieOk.modQueue {f : List QEntry → List QEntry} (h : DieOk x) : DieOk (x.modQueue q f) := h
theorem DieOk.modMa {i : Fin 4} {f : Ma → Ma} (h : DieOk x) : DieOk (x.modMa i f) := h
theorem DieOk.markStart {done : Bool} (h : DieOk x) : DieOk (x.markStart q e svals done) := (DieOk.ite h h.linkStart).modQueue
theorem DieOk.markCut {n : Nat} (h : DieOk x) : DieOk (x.markCut q e n svals) := h.markStart.modQueue
theorem DieOk.markStop (h : DieOk x) : DieOk (x.markStop q e) := h.markStart.modQueue
theorem DieOk.complete (h : DieOk x) : DieOk (x.complete q e) := by
  unfold Die.complete
  extract_lets y
  have hy : DieOk y := h.linkComplete.modQueue
  exact hy
theorem DieOk.foldl {α : Type} {l : List α} {f : Die → α → Die} (h : DieOk x) (hf : ∀ x a, DieOk x → DieOk (f x a)) : DieOk (l.foldl f x) :=
  foldl_keeps hf l h
end

/-- What an engine leaves behind is sound, however its command ends. -/
def EngineKeeps (d₀ : Device) : Engine → Prop
  | .wait => True
  | .ran d _ _ => Keeps d₀ d
  | .stopped d => Keeps d₀ d
  | .cut d _ _ => Keeps d₀ d

theorem EngineKeeps.ite {d₀ : Device} {a b : Engine} {p : Prop} {_ : Decidable p} (ha : EngineKeeps d₀ a) (hb : EngineKeeps d₀ b) :
    EngineKeeps d₀ (if p then a else b) := by
  split
  · exact ha
  · exact hb

namespace Keeps
section
variable {d₀ d : Device} {c : Context} {cd : Cd} {q : QueueId} {e : QEntry}

theorem startHead {op : Nat} {f : Device → Context → QEntry → Engine} (h : Keeps d₀ d) (hf : ∀ c e, EngineKeeps d₀ (f d c e)) :
    Keeps d₀ (d.startHead cd q op f) := by
  obtain h1 | ⟨c, e, -, ⟨d', svals, done, h1, h2⟩ | ⟨d', h1, h2⟩ | ⟨d', n, svals, h1, h2⟩⟩ := startHead_cases (d := d) (cd := cd) (q := q) (op := op) (f := f)
  · rw [h1]; exact h
  all_goals
    have h3 := hf c e
    rw [h1] at h3
    rw [h2]
  · exact h3.modDie fun _ _ hx => hx.markStart
  · exact h3.modDie fun _ _ hx => hx.markStop
  · exact h3.modDie fun _ _ hx => hx.markCut

theorem gateRelease (h : Keeps d₀ d) : Keeps d₀ (d.gateRelease c cd q e) := .ite h.modCtx h
theorem postComplete (h : Keeps d₀ d) : Keeps d₀ (d.postComplete c cd q e) := .ite h.modCtx h

theorem releasePoint (h : Keeps d₀ d) : Keeps d₀ (d.releasePoint cd q) := by
  unfold Device.releasePoint
  split
  · exact h
  · refine .ite h ?_
    split
    · exact h
    · exact (h.modDie fun _ _ hx => hx.linkRelease.modQueue).gateRelease

theorem completionPoint (h : Keeps d₀ d) : Keeps d₀ (d.completionPoint cd q) := by
  unfold Device.completionPoint
  split
  · exact h
  · exact (h.modDie fun _ _ hx => hx.complete).postComplete

theorem countDie_dieOk {x : Die} (h : DieOk x) : DieOk (d.countDie cd x) := by
  unfold Device.countDie
  split
  · exact h
  · exact .ite h ⟨h.1, h.2⟩

theorem idle (h : Keeps d₀ d) : Keeps d₀ d.idle := by
  unfold Device.idle Device.tick
  have h1 := h.eachDie (f := d.countDie) fun _ _ _ hx => countDie_dieOk hx
  exact h1.frame

theorem sync (h : Keeps d₀ d) : Keeps d₀ (d.sync cd q) := by
  unfold Device.sync
  split
  · exact h
  · exact h.modDie fun _ _ hx => hx.linkStart.linkRelease.complete

/-! ### The Course (R198 to R216) -/

theorem setCounter {p : Plan} (h : Keeps d₀ d) : Keeps d₀ (d.setCounter c p cd) := by
  unfold Device.setCounter
  extract_lets n d1
  have h1 : Keeps d₀ d1 := h.modCourse
  exact h1.frame

theorem sendStart (h : Keeps d₀ d) : Keeps d₀ (d.sendStart c) := by
  unfold Device.sendStart
  split
  · exact .ite h.setCounter h
  · exact h

theorem resumeCourse (h : Keeps d₀ d) : Keeps d₀ (d.resumeCourse c) := h.modArc

theorem resumeRun (h : Keeps d₀ d) : Keeps d₀ (d.resumeRun c) :=
  .ite h.modCtx (.ite h.resumeCourse.modCtx.sendStart h.resumeCourse.modCtx)

theorem settle (h : Keeps d₀ d) : Keeps d₀ (d.settle cd) := by
  unfold Device.settle
  split
  · exact h
  · exact .ite h.resumeRun h

theorem startMarker (h : Keeps d₀ d) : Keeps d₀ (d.startMarker cd) := by
  unfold Device.startMarker
  split
  · exact h
  · split
    · exact h
    · exact .ite h.setCounter h

theorem readySend (h : Keeps d₀ d) : Keeps d₀ (d.readySend cd) := by
  unfold Device.readySend
  split
  · exact h
  · split
    · exact h
    · dsimp only
      split
      · exact h
      · exact .ite h.modCourse h

theorem readyArrival {pos : Fin 16} (h : Keeps d₀ d) : Keeps d₀ (d.readyArrival cd pos) := by
  unfold Device.readyArrival
  split
  · exact h
  · exact .ite h.modCourse h

theorem putLine {pos : Nat} {l : CLine} (h : Keeps d₀ d) : Keeps d₀ (d.putLine c pos l) := by
  unfold Device.putLine
  split
  · exact h
  · exact h.modCourse

theorem emitTile {p : Plan} {pos k : Nat} {t : CTile} (h : Keeps d₀ d) : Keeps d₀ (d.emitTile c p pos k t) := h.foldl fun _ _ h => h.putLine.putLine

theorem emitEntry {p : Plan} {k i : Nat} {a : AEntry} (h : Keeps d₀ d) : Keeps d₀ (d.emitEntry c p cd k i a) :=
  modCourse (h.foldl fun _ _ h => h.putLine)

theorem startRound {p : Plan} {k s : Nat} (h : Keeps d₀ d) : Keeps d₀ (d.startRound c p cd k s) := by
  unfold Device.startRound
  dsimp only
  refine foldl (foldl ?_ fun _ _ h => h.putLine) fun _ _ h => h.emitEntry
  split
  · exact h.modCourse.emitTile
  · exact h.modCourse

theorem roundStart (h : Keeps d₀ d) : Keeps d₀ (d.roundStart cd) := by
  unfold Device.roundStart
  split
  · exact h
  · split
    · exact h
    · dsimp only
      split
      · exact h
      · exact .ite h.startRound.settle h

theorem courseCe {i : Fin 2} (h : Keeps d₀ d) : Keeps d₀ (d.courseCe cd i) := .ite h.modCport.event h.modCport
theorem courseUe {i cls lane round : Nat} (h : Keeps d₀ d) : Keeps d₀ (d.courseUe c cd i cls lane round) := h.fault

theorem deliverLine {p : Plan} {l : CLine} (h : Keeps d₀ d) : Keeps d₀ (d.deliverLine c p cd l) := by
  unfold Device.deliverLine
  dsimp only
  split
  · split
    · exact h
    · have h1 {b : Prop} {_ : Decidable b} {f : Course → Course} : Keeps d₀ (if b then d.modCourse cd f else d) := .ite h.modCourse h
      exact .ite h1.putLine h1
  · have h1 {b : Prop} {_ : Decidable b} {f : Course → Course} : Keeps d₀ (if b then d else d.modCourse cd f) := .ite h h.modCourse
    exact .ite h1 (.ite h1.putLine h1.modCourse)

theorem hopLadle {pos : Nat} {l : LLine} (h : Keeps d₀ d) : Keeps d₀ (d.hopLadle c pos l) := by
  unfold Device.hopLadle
  split
  · exact h
  · exact h.modDie fun _ _ hx => .ite hx (.ite hx hx)

theorem checkLadle {l : LLine} {check : LineCheck} (h : Keeps d₀ d) : Keeps d₀ (d.checkLadle c cd l check).1 := by
  unfold Device.checkLadle
  cases check with
  | clean => exact h
  | corrected => exact h.courseCe
  | uncorrectable => exact .ite h h.courseUe

theorem passLadle {cw : Bool} {check : LineCheck} (h : Keeps d₀ d) : Keeps d₀ (d.passLadle c cd cw check) := by
  unfold Device.passLadle
  dsimp only
  split
  · exact h
  · exact .ite h.modCourse h.modCourse.checkLadle.hopLadle

theorem lineArrival {cw : Bool} {check : LineCheck} (h : Keeps d₀ d) : Keeps d₀ (d.lineArrival cd cw check) := by
  unfold Device.lineArrival
  split
  · exact h
  · split
    · exact h
    · refine settle ?_
      split
      · exact h.passLadle
      · refine .ite h.modCourse ?_
        cases check with
        | clean => exact h.modCourse.deliverLine
        | corrected => exact h.modCourse.courseCe.deliverLine
        | uncorrectable => exact (Keeps.ite h.modCourse h.modCourse.courseUe).deliverLine

theorem sendPause (h : Keeps d₀ d) : Keeps d₀ (d.sendPause c) := by
  unfold Device.sendPause
  split
  · exact h
  · exact .ite h h.modCourse

theorem pauseArrival {k : Nat} (h : Keeps d₀ d) : Keeps d₀ (d.pauseArrival cd k) := by
  unfold Device.pauseArrival
  split
  · exact h
  · exact .ite h.modCourse.settle h

/-! ### The buffers of the ports (R342) -/

theorem sendLines {p : PortNo} {cls : Fin 5} {ls : List (List Byte)} (h : Keeps d₀ d) : Keeps d₀ (d.sendLines p cls ls) := h.modPort
theorem freeLines {p : PortNo} {cls : Fin 5} {n : Nat} (h : Keeps d₀ d) : Keeps d₀ (d.freeLines p cls n) := h.modPort
theorem freeC2 {p : PortNo} {down : Bool} {n : Nat} (h : Keeps d₀ d) : Keeps d₀ (d.freeC2 p down n) := h.freeLines.modPort
theorem consumeC2 {p : PortNo} {down : Bool} {n : Nat} (h : Keeps d₀ d) : Keeps d₀ (d.consumeC2 c p down n) := .ite h.modPort h.freeC2

theorem releaseCredit {tag : BitVec 16} (h : Keeps d₀ d) : Keeps d₀ (d.releaseCredit tag) :=
  h.foldl fun _ _ h => h.modPort.foldl fun _ _ h => h.freeC2

end
end Keeps
end Sys2Proof.Safety
end

section
/-! SUPPORT. Soundness kept by the engines of a compute die: matrix arrays, Ladle and Tongs. -/

namespace Sys2Proof.Safety

set_option Elab.async false

open Sys2Proof Sys2Proof.Machine Sys2Proof.Laws

section
variable {d₀ d : Device} {c : Context} {cd : Cd} {q : QueueId} {e : QEntry} {ma : MaNo}

/-! ### Matrix arrays (R57 to R88) -/

theorem Keeps.maFault {isl : BitVec 16} {cls code detail : Nat} (h : Keeps d₀ d) : EngineKeeps d₀ (d.maFault c isl cls code detail) := h.fault

theorem Keeps.captureChunk {cmd : ChunkCmd} {t : WTile} {sta : Nat} {str : Fmt} {codes : List (List Nat)} (h : Keeps d₀ d) :
    Keeps d₀ (d.captureChunk c cd ma cmd t sta str codes) := by
  unfold Device.captureChunk
  split
  · exact h
  · refine .ite h ?_
    split
    · exact .ite h.modDie.fault h.modDie.memFault
    · exact h.modDie

theorem Keeps.chunkEngine (h : Keeps d₀ d) : EngineKeeps d₀ (chunkEngine cd ma d c e) := by
  unfold Machine.chunkEngine
  dsimp only
  split
  · split
    · trivial
    · refine .ite trivial (.ite trivial ?_)
      split
      · exact h.maFault
      · refine .ite h.maFault (.ite h.maFault (.ite h.maFault (.ite h.maFault (.ite h.maFault ?_))))
        split
        · exact h.memFault
        · exact Keeps.ite h.modDie.captureChunk h.modDie
  · exact h.maFault

theorem DieOk.tap {x : Die} {vs : List Val} {last : Bool} (h : DieOk x) : DieOk (x.tap ma vs last) := .ite h ⟨h.1, h.2⟩

theorem Keeps.outRow {isl : BitVec 16} {cmd : OutCmd} {f : Fmt} {t : Tile} {p : OutParams} {step i : Nat} (h : Keeps d₀ d) :
    Ends (Keeps d₀) (fun y => Keeps d₀ y.1) (d.outRow c cd isl cmd f t p step i) := by
  unfold Device.outRow
  dsimp only
  split
  · exact h.memFault
  · split
    · split
      · rename_i e; exact (h.putBytes.of_eq e).memFault
      · rename_i e1
        split
        · rename_i e2; exact ((h.putBytes.of_eq e1).putBytes.of_eq e2).memFault
        · rename_i e2; exact ((h.putBytes.of_eq e1).putBytes.of_eq e2).modDie
    · split
      · rename_i e; exact (h.putBytes.of_eq e).memFault
      · rename_i e; exact (h.putBytes.of_eq e).modDie

theorem Keeps.atRow {i : Nat} (h : Keeps d₀ d) : Keeps d₀ (d.atRow cd ma i) := h.modDie

theorem Keeps.outRows {isl : BitVec 16} {cmd : OutCmd} {f : Fmt} {t : Tile} {p : OutParams} {step : Nat} : ∀ {l : List Nat} {d : Device},
    Keeps d₀ d → Ends (Keeps d₀) (fun y => Keeps d₀ y.1) (Device.outRows c cd ma isl cmd f t p step l d)
  | [], _, h => h
  | _ :: rest, _, h => by
    unfold Device.outRows
    split
    · rename_i e; exact h.outRow.of_error e
    · rename_i e
      split
      · rename_i e2; exact (Keeps.outRows (h.outRow.of_ok e).atRow).of_error e2
      · rename_i e2; exact ((Keeps.outRows (h.outRow.of_ok e).atRow).of_ok e2 :)

theorem Keeps.enterReadout {buf : Fin 2} {t : Tile} (h : Keeps d₀ d) : Keeps d₀ (d.enterReadout cd ma buf t) := h.modDie

theorem Keeps.int32Readout {isl : BitVec 16} {cmd : OutCmd} {buf : Fin 2} {t : Tile} (h : Keeps d₀ d) :
    EngineKeeps d₀ (d.int32Readout c cd ma isl cmd buf t e) :=
  .ite h.maFault (h.enterReadout.modDie fun _ _ hx => DieOk.tap ⟨hx.1, hx.2⟩)

theorem Keeps.readoutEngine (h : Keeps d₀ d) : EngineKeeps d₀ (readoutEngine cd ma d c e) := by
  unfold Machine.readoutEngine
  dsimp only
  split
  · trivial
  · refine .ite trivial (.ite h.int32Readout ?_)
    split
    · exact h.maFault
    · rename_i buf _ _ f _
      refine .ite h.maFault (.ite h.maFault (.ite h.maFault ?_))
      have h1 : Keeps d₀ (if e.started then d else d.enterReadout cd ma buf d.dies[cd].mas[ma].bufs[buf]) := .ite h h.enterReadout
      split
      · split
        · rename_i e1; exact h1.outRows.of_error e1
        · rename_i e1
          have h2 := h1.outRows.of_ok e1
          exact .ite (h2.modDie fun _ _ hx => DieOk.tap ⟨hx.1, hx.2⟩) (h2.modDie fun _ _ hx => DieOk.tap ⟨hx.1, hx.2⟩)
      · exact h1.memFault
      · exact h1.memFault
      · exact h1.memFault

theorem DieOk.rowsTaken {x : Die} {ladle : Bool} (h : DieOk x) : DieOk (x.rowsTaken ma ladle) := by
  unfold Die.rowsTaken
  split
  · exact h
  · dsimp only
    split
    · exact ⟨h.1, h.2⟩
    · exact DieOk.modQueue ⟨h.1, h.2⟩

/-! ### The Ladle (R304 to R320) -/

theorem Keeps.ladleErr {code detail : Nat} (h : Keeps d₀ d) : EngineKeeps d₀ (d.ladleErr c cd code detail) := h.fault

/-- Adding a value leaves the memory, or stores one element in it. -/
theorem addElem_wf {y : Memory × Bucket} {i : Nat} {v : Val} (h : y.1.wf 0 = true) : (addElem y i v).1.wf 0 = true := by
  unfold addElem
  extract_lets m b
  split
  · split
    · exact h
    · extract_lets k exact old sum b1
      split
      · exact memStore_wf h
      · exact memStore_wf h
  · exact h

theorem addElems_wf {y : Memory × Bucket} {vs : List (Nat × Val)} (h : y.1.wf 0 = true) : (addElems y vs).1.wf 0 = true :=
  foldl_keeps (r := fun y : Memory × Bucket => y.1.wf 0 = true) (fun _ _ h => addElem_wf h) vs h

theorem Keeps.accumDone {b : Bucket} {vs : List (Nat × Val)} (h : Keeps d₀ d) : Keeps d₀ (d.accumDone cd b vs) :=
  h.modLadle fun ⟨_, hd, _⟩ _ _ => addElems_wf (hd cd).2

theorem Keeps.accumAborted {src : Nat} (h : Keeps d₀ d) : EngineKeeps d₀ (d.accumAborted cd src) := by
  refine .ite h ?_
  split
  · trivial
  · exact h.modDie fun _ _ hx => hx.rowsTaken

theorem Keeps.accumEngine (h : Keeps d₀ d) : EngineKeeps d₀ (accumEngine cd d c e) := by
  unfold Machine.accumEngine
  dsimp only
  split
  · exact h.ladleErr
  · refine .ite h.accumAborted (.ite h.ladleErr ?_)
    split
    · exact h.ladleErr
    · refine .ite ?_ ?_
      · split
        · exact h.fault
        · exact h.fault
        · split
          · exact h.accumDone
          · exact h.accumDone.memFault
      · split
        · trivial
        · exact h.accumDone.modDie fun _ _ hx => hx.rowsTaken

theorem modCredit_store (k : Ladle) (st : LadleStream) (f : Nat → Nat) : (k.modCredit st f).store = k.store := by
  unfold Ladle.modCredit
  split <;> rfl

theorem Keeps.returnTo {b : Bucket} {st : LadleStream} {n : Nat} (h : Keeps d₀ d) : Keeps d₀ (d.returnTo c cd b st n) := by
  unfold Device.returnTo
  split
  · exact h
  · exact .ite h (h.modLadle.modLadle fun _ k hk => by rwa [modCredit_store])

theorem Keeps.returnCredits (h : Keeps d₀ d) : Keeps d₀ (d.returnCredits c cd) := by
  unfold Device.returnCredits
  split
  · exact h
  · exact h.foldl fun _ _ h => h.foldl fun _ _ h => h.returnTo

theorem Keeps.returnAll {b : Bucket} (h : Keeps d₀ d) : Keeps d₀ (d.returnAll c cd b) := h.foldl fun _ _ h => h.returnTo

theorem Keeps.ladlePut {n a : Nat} {bs : List Byte} (h : Keeps d₀ d) : Keeps d₀ (d.ladlePut c cd n a bs).1 := by
  unfold Device.ladlePut
  split
  · rename_i e; exact h.putBytes.of_eq e
  · rename_i e; exact (h.putBytes.of_eq e).memFault

theorem Keeps.writeSegments {b : Bucket} {vs : List Val} : ∀ {l : List Nat} {d : Device}, Keeps d₀ d → Keeps d₀ (d.writeSegments c cd b vs l).1
  | [], _, h => h
  | _ :: t, _, h => by
    unfold Device.writeSegments
    dsimp only
    split
    · exact Keeps.writeSegments (l := t) h
    · split
      · rename_i e; exact Keeps.writeSegments (l := t) (h.modDie.ladlePut.of_eq e)
      · rename_i e; exact h.modDie.ladlePut.of_eq e

theorem Keeps.treeCounts {b : Bucket} {t : LadleNode} (h : Keeps d₀ d) : Keeps d₀ (d.treeCounts b t).1 := by
  unfold Device.treeCounts
  split
  · exact h
  · exact h.draw.draw.draw

theorem Keeps.logDigest {b : Bucket} {t : LadleNode} {r : ReduceConfig} {code : Nat} (h : Keeps d₀ d) :
    Keeps d₀ (d.logDigest c cd b t r code).1 := h.ladlePut

theorem Keeps.stopClose {b : Bucket} (h : Keeps d₀ d) : Keeps d₀ (d.stopClose cd b) := h.modDie

theorem Keeps.closeBucket {b : Bucket} {code present : Nat} {counts : List Nat} (h : Keeps d₀ d) :
    Keeps d₀ (d.closeBucket c cd b code present counts) := h.returnAll.modDie

theorem Keeps.endBucket {b : Bucket} {t : LadleNode} {r : ReduceConfig} {code present : Nat} {counts : List Nat} (h : Keeps d₀ d) :
    Keeps d₀ (d.endBucket c cd b t r code present counts).1 := by
  unfold Device.endBucket
  split
  rename_i d1 ok e1
  have h1 : Keeps d₀ d1 := by
    split at e1
    · exact of_eq h e1
    · exact h.logDigest.of_eq e1
  exact .ite h1.closeBucket h1.stopClose

theorem Keeps.bucketComplete {n : BitVec 16} (h : Keeps d₀ d) : Keeps d₀ (d.bucketComplete cd n) := by
  unfold Device.bucketComplete
  split
  · exact h
  · split
    · exact .ite h (.ite h.writeSegments.stopClose h.writeSegments.treeCounts.endBucket)
    · exact h

theorem Keeps.closeRecord {b : Bucket} (h : Keeps d₀ d) : Keeps d₀ (d.closeRecord c cd b).1 := by
  unfold Device.closeRecord
  split
  · exact h
  · dsimp only
    split
    · exact h.ladlePut
    · exact h

theorem Keeps.commandCompletion (h : Keeps d₀ d) : Keeps d₀ (d.commandCompletion cd q) := by
  unfold Device.commandCompletion
  split
  · exact h
  · refine .ite h.completionPoint ?_
    split
    · exact h.completionPoint
    · split
      · rename_i e; exact (h.closeRecord.of_eq e).stopClose
      · rename_i e; exact (h.closeRecord.of_eq e).modLadle.completionPoint

theorem Keeps.openEngine (h : Keeps d₀ d) : EngineKeeps d₀ (openEngine cd d c e) :=
  .ite trivial (.ite h.ladleErr (.ite h.ladleErr (h.modLadle fun _ _ hk => memClear_wf hk ..)))

theorem DieOk.closeInputs {x : Die} {pos : Nat} (h : DieOk x) : DieOk (x.closeInputs c pos) := by
  unfold Die.closeInputs
  split
  · exact h
  · exact h.modQueue

theorem Keeps.closeEngine (h : Keeps d₀ d) : EngineKeeps d₀ (closeEngine cd d c e) := by
  unfold Machine.closeEngine
  refine .ite trivial ?_
  dsimp only
  split
  · exact h.ladleErr
  · split
    · exact h.ladleErr
    · refine .ite h.ladleErr (.ite ?_ (.ite trivial h.modLadle.modLadle.modCtx))
      split
      · rename_i e1; exact (h.treeCounts.endBucket.of_eq e1).modLadle.modCtx
      · rename_i e1; exact (h.treeCounts.endBucket.of_eq e1).modLadle.modCtx

theorem Keeps.ladleTurn (h : Keeps d₀ d) : Keeps d₀ (d.ladleTurn cd) := by
  unfold Device.ladleTurn
  split
  · exact h
  · exact (h.modDie fun _ _ hx => hx.closeInputs).returnCredits

theorem Keeps.lineDepart {st : LadleStream} (h : Keeps d₀ d) : Keeps d₀ (d.lineDepart cd st) := by
  unfold Device.lineDepart
  split
  · exact h
  · dsimp only
    split
    · refine .ite h ?_
      split
      · exact h
      · exact ((h.modLadle fun _ k hk => by rwa [modCredit_store]).hopLadle).ladleTurn
    · exact h

theorem Keeps.payloadArrival {st : LadleStream} {check : LineCheck} (h : Keeps d₀ d) : Keeps d₀ (d.payloadArrival cd st check) := by
  unfold Device.payloadArrival
  split
  · exact h
  · dsimp only
    split
    · exact h
    · refine .ite h.modLadle ?_
      split
      · exact h.modLadle.checkLadle
      · exact .ite h.modLadle.checkLadle (.ite h.modLadle.checkLadle.fault h.modLadle.checkLadle.modLadle.ladleTurn)

end
end Sys2Proof.Safety
end

section
/-! SUPPORT. Soundness kept by moves, companion accesses and the Whisk. -/

namespace Sys2Proof.Safety

set_option Elab.async false

open Sys2Proof Sys2Proof.Machine Sys2Proof.Laws

section
variable {d₀ d : Device} {c : Context} {cd : Cd} {q : QueueId} {e : QEntry}

/-! ### Tongs (R156 to R167) -/

theorem Keeps.moveRead {m : MoveCmd} {i : Nat} (h : Keeps d₀ d) : Ends (fun _ => True) (fun y => Keeps d₀ y.2) (d.moveRead c cd m i) := by
  unfold Device.moveRead
  split
  · extract_lets a pkg d1
    have h1 : Keeps d₀ d1 := .ite h.servePackage h
    split
    · trivial
    · split
      · trivial
      · split
        · trivial
        · exact h1.eccOf
  · split
    · split
      · exact h
      · exact h.modDie
    · exact h

theorem Keeps.moveWrite {m : MoveCmd} {i : Nat} {bs : List Byte} (h : Keeps d₀ d) :
    Ends (fun _ => True) (Keeps d₀) (d.moveWrite c cd m i bs) := by
  unfold Device.moveWrite
  split
  · dsimp only
    split
    · trivial
    · rename_i e; exact h.writeLine.of_ok e
  · split
    · exact h.modDie
    · exact h.modDie fun _ _ hx => ⟨hx.1, memStore_wf hx.2⟩

theorem Keeps.moveLines {m : MoveCmd} : ∀ {n i : Nat} {d : Device}, Keeps d₀ d → Keeps d₀ (Device.moveLines c cd m n i d).1
  | 0, _, _, h => h
  | n + 1, _, _, h => by
    unfold Device.moveLines
    split
    · exact h.eccOf
    · rename_i e1
      have h1 : Keeps d₀ _ := h.moveRead.of_ok e1
      split
      · exact Keeps.ite h1 h
      · rename_i e2; exact Keeps.moveLines (h1.moveWrite.of_ok e2)

theorem Keeps.moveRun {chan : Nat} (h : Keeps d₀ d) : EngineKeeps d₀ (d.moveRun c cd chan q e) := by
  unfold Device.moveRun
  dsimp only
  split
  · rename_i e1; exact (h.moveLines.of_eq e1).memFault
  · rename_i e1; exact .ite (h.moveLines.of_eq e1) ((h.moveLines.of_eq e1).modDie)

theorem Keeps.gateStart (h : Keeps d₀ d) : Keeps d₀ (d.gateStart c cd q e) := .ite h.modCtx h

theorem Keeps.moveEngine {chan : Nat} (h : Keeps d₀ d) : EngineKeeps d₀ (moveEngine cd chan q d c e) := by
  unfold Machine.moveEngine
  extract_lets x m d0
  have h0 : Keeps d₀ d0 := h.gateStart
  refine .ite trivial (.ite h0 (.ite h0.fault (.ite trivial (.ite trivial ?_))))
  split
  · exact h0.frame
  · exact h0.moveRun

theorem Keeps.companionAnswer {a : CompanionAccess} (h : Keeps d₀ d) : Keeps d₀ (d.companionAnswer a) := by
  unfold Device.companionAnswer
  extract_lets d0
  have h0 : Keeps d₀ d0 := h.frame
  split
  · exact h0
  · rename_i c _
    split
    · exact h0
    · rename_i e _
      have h1 := h0.moveRun (c := c) (cd := a.cd) (chan := a.queue.val - 5) (q := a.queue) (e := e)
      split <;> rename_i e1 <;> rw [e1] at h1
      · exact h1.modDie
      · exact h1.modDie fun _ _ hx => hx.markStop
      · exact h1.modDie fun _ _ hx => hx.markCut
      · exact h0

theorem Keeps.linkLost (h : Keeps d₀ d) : Keeps d₀ d.linkLost := by unfold Device.linkLost; exact h.frame

theorem Keeps.companionTimeout {i : Nat} (h : Keeps d₀ d) : Keeps d₀ (d.companionTimeout i) := by
  unfold Device.companionTimeout
  split
  · exact h
  · extract_lets d0
    have h0 : Keeps d₀ d0 := h.frame
    split
    · exact h0
    · split
      · exact h0
      · exact h0.memFault.modDie fun _ _ hx => hx.markStop

theorem Keeps.weightinEngine (h : Keeps d₀ d) : EngineKeeps d₀ (weightinEngine cd d c e) := .ite h h.modDie

theorem DieOk.placeChunk {x : Die} (h : DieOk x) : DieOk x.placeChunk := by
  unfold Die.placeChunk
  split
  · exact h
  · refine .ite h ?_
    extract_lets left course x1
    have h1 : DieOk x1 := ⟨h.1, h.2⟩
    exact .ite h1.modQueue h1

theorem Keeps.placeChunk (h : Keeps d₀ d) : Keeps d₀ (d.placeChunk cd) := by
  unfold Device.placeChunk
  split
  · exact h
  · exact .ite h (h.modDie fun _ _ hx => hx.placeChunk)

/-! ### The Whisk (R89 to R118) -/

theorem DieOk.element {x : Die} {op : Nat} {w : ElemWord} {f : EReg → EReg → EReg → EReg × Nat} (h : DieOk x) : DieOk (x.element op w f) :=
  .ite h ⟨h.1, h.2⟩

theorem Keeps.element {op : Nat} {w : ElemWord} {f : EReg → EReg → EReg → EReg × Nat} (h : Keeps d₀ d) : Keeps d₀ (d.element cd op w f) :=
  h.modDie fun _ _ hx => hx.element

theorem Keeps.putStream {s : WStream} {j : Nat} {o : Int} {before : Nat} {main aux : List Byte} (h : Keeps d₀ d) :
    Ends (fun y => Keeps d₀ y.1) (Keeps d₀) (d.putStream c cd s j o before main aux) := by
  unfold Device.putStream
  dsimp only
  split
  · rename_i e1; exact h.putBytes.of_eq e1
  · rename_i e1
    split
    · rename_i e2; exact (h.putBytes.of_eq e1).putBytes.of_eq e2
    · rename_i e2; exact (h.putBytes.of_eq e1).putBytes.of_eq e2

theorem Keeps.noteTally {ms : List (Option Meet)} (h : Keeps d₀ d) : Keeps d₀ (d.noteTally cd ms) := h.modDie

variable {w : WCmd} {step j : Nat} {s : WStream} {ro : WStream → Option IntRows} {ta tb : LookTable} {r : WRun} {b : WDense}

theorem Keeps.putRun {xs : List (Nat × Val)} (h : Keeps d₀ d) : Ends (fun y => Keeps d₀ y.1) (Keeps d₀) (d.putRun c cd w step j s xs) := by
  unfold Device.putRun
  split
  · exact h
  · extract_lets rs r last main aux
    split
    · rename_i e1; exact h.putStream.of_error e1
    · rename_i e1; exact (h.putStream.of_ok e1).noteTally

theorem Keeps.putRow {x : Nat} {v : Val} (h : Keeps d₀ r.d) :
    Ends (fun y => Keeps d₀ y.1) (fun r : WRun => Keeps d₀ r.d) (r.putRow c cd w step j s x v) := by
  unfold WRun.putRow
  extract_lets p at0 idxNo round q out1 out2
  split
  · split
    · exact h
    · split
      · rename_i e1; exact h.putStream.of_error e1
      · rename_i e1; exact (h.putStream.of_ok e1).noteTally
  · split
    · rename_i e1; exact h.putStream.of_error e1
    · rename_i e1; exact (h.putStream.of_ok e1).noteTally

theorem Keeps.reduceRow : ∀ {l : List (Nat × Val)} {r : WRun}, Keeps d₀ r.d →
    Ends (fun y => Keeps d₀ y.1) (fun r : WRun => Keeps d₀ r.d) (WRun.reduceRow c cd w step j s l r)
  | [], _, h => h
  | (x, v) :: t, r, h => by
    unfold WRun.reduceRow
    extract_lets a
    split
    · have h1 := Keeps.putRow (r := { r with rows := r.rows.set j {} }) (c := c) (cd := cd) (w := w) (step := step) (j := j) (s := s) (x := x)
        (v := a.value s.reduce) h
      split
      · rename_i e1; exact h1.of_error e1
      · rename_i e1; exact Keeps.reduceRow (h1.of_ok e1)
    · exact Keeps.reduceRow h

theorem Keeps.putGroup {xs : List Nat} {vals : Nat → List Val} (h : Keeps d₀ r.d) :
    Ends (fun y => Keeps d₀ y.1) (fun r : WRun => Keeps d₀ r.d) (r.putGroup c cd w step xs vals) := by
  unfold WRun.putGroup
  refine Ends.foldlM (fun r a h => ?_) _ h
  dsimp only
  split
  · exact h.reduceRow
  · have h1 : Ends (fun y : Device × WFault => Keeps d₀ y.1) (Keeps d₀)
        ((rowRuns w.e0 (xs.zip (vals a.2))).foldlM (fun d run => Device.putRun d c cd w step (w.prog.k + a.2) a.1 run) r.d) :=
      Ends.foldlM (fun _ _ h => h.putRun) _ h
    split
    · rename_i e1; exact h1.of_error e1
    · rename_i e1; exact (h1.of_ok e1 :)

theorem Keeps.plainGroup {xs : List Nat} (h : Keeps d₀ r.d) :
    Ends (fun y => Keeps d₀ y.1) (fun r : WRun => Keeps d₀ r.d) (r.plainGroup c cd w step ro ta tb xs) := by
  unfold WRun.plainGroup
  split
  · exact h
  · dsimp only; exact putGroup (h.noteTally)

theorem Keeps.maskGroup {xs : List Nat} (h : Keeps d₀ r.d) :
    Ends (fun y => Keeps d₀ y.1) (fun y : WRun × _ => Keeps d₀ y.1.d) (r.maskGroup c cd w step ro ta tb xs) := by
  unfold WRun.maskGroup
  split
  · exact h
  · dsimp only
    split
    · rename_i e1; exact h.noteTally.putBytes.of_eq e1
    · rename_i e1; exact h.noteTally.putBytes.of_eq e1

/-- Group after group; at a fault both the device of the fault and the run before its group count. -/
theorem Keeps.overGroups {σ : Type} {dev : σ → Device} {f : List Nat → σ → Except (Device × WFault) σ}
    (hf : ∀ g a, Keeps d₀ (dev a) → Ends (fun y => Keeps d₀ y.1) (fun a => Keeps d₀ (dev a)) (f g a)) : ∀ {l : List (List Nat)} {a : σ}, Keeps d₀ (dev a) →
    Ends (fun y => Keeps d₀ y.2.2.1) (fun a => Keeps d₀ (dev a)) (overGroups f l a)
  | [], _, h => h
  | g :: t, a, h => by
    unfold Machine.overGroups
    split
    · rename_i e1; exact (hf g a h).of_error e1
    · rename_i e1
      have ih := Keeps.overGroups hf (l := t) ((hf g a h).of_ok e1)
      split
      · rename_i e2; exact (ih.of_error e2 :)
      · rename_i e2; exact ih.of_ok e2

theorem Keeps.mask {xs : List Nat} (h : Keeps d₀ b.r.d) :
    Ends (fun y => Keeps d₀ y.1) (fun b : WDense => Keeps d₀ b.r.d) (b.mask c cd w step ro ta tb xs) := h.maskGroup.map fun _ h => h

theorem Keeps.denseRun {xs : List Nat} (h : Keeps d₀ b.r.d) :
    Ends (fun y => Keeps d₀ y.1) (fun b : WDense => Keeps d₀ b.r.d) (b.run c cd w step ro ta tb xs) := by
  unfold WDense.run
  split
  · exact h
  · exact h.noteTally

theorem Keeps.gather {xs : List Nat} {last : Bool} (h : Keeps d₀ b.r.d) :
    Ends (fun y => Keeps d₀ y.1) (fun b : WDense => Keeps d₀ b.r.d) (b.gather c cd w step ro ta tb last xs) := by
  unfold WDense.gather
  split
  · exact h
  · dsimp only
    split
    · exact h
    · split
      · rename_i e1
        split at e1
        · cases e1
        · exact (denseRun (by exact h)).of_error e1
      · rename_i b2 e1
        have h2 : Keeps d₀ b2.r.d := by
          split at e1
          · cases e1; exact h
          · exact ((denseRun (by exact h)).of_ok e1 :)
        split
        · exact h2.denseRun
        · exact h2

theorem Keeps.expand {xs : List Nat} {g : Nat} (h : Keeps d₀ b.r.d) :
    Ends (fun y => Keeps d₀ y.1) (fun b : WDense => Keeps d₀ b.r.d) (b.expand c cd w step g xs) := by
  unfold WDense.expand
  split
  · exact h
  · extract_lets ins vals
    split
    · rename_i e1; exact h.putGroup.of_error e1
    · rename_i e1; exact (h.putGroup.of_ok e1 :)

theorem Keeps.advance {pass g : Nat} (h : Keeps d₀ b.r.d) :
    Ends (fun y => Keeps d₀ y.1) (fun y : WDense × Nat × Nat => Keeps d₀ y.1.r.d) (b.advance c cd w step ro ta tb pass g) := by
  unfold WDense.advance
  extract_lets xs last
  split
  · exact h.mask.map fun _ h => h
  · split
    · exact h.gather.map fun _ h => h
    · exact h.expand.map fun _ h => h

theorem Keeps.denseSteps : ∀ {n pass g : Nat} {b : WDense}, Keeps d₀ b.r.d →
    Ends (fun y => Keeps d₀ y.2.1) (fun y : WDense × Nat × Nat => Keeps d₀ y.1.r.d) (WDense.steps c cd w step ro ta tb n pass g b)
  | 0, _, _, _, h => h
  | n + 1, _, _, _, h => by
    unfold WDense.steps
    split
    · exact h
    · split
      · rename_i e1; exact (h.advance.of_error e1 :)
      · rename_i e1; exact Keeps.denseSteps ((h.advance.of_ok e1 :))

theorem Keeps.whiskErr {code detail : Nat} (h : Keeps d₀ d) : EngineKeeps d₀ (d.whiskErr c cd code detail) := h.fault
theorem Keeps.holdWhisk {pass g : Nat} (h : Keeps d₀ d) : Keeps d₀ (d.holdWhisk cd b w pass g) := h.modDie
theorem Keeps.whiskFault {pass g : Nat} {f : WFault} (h : Keeps d₀ d) : EngineKeeps d₀ (d.whiskFault c cd b w pass g f) := h.holdWhisk.memFault

theorem Keeps.denseFinish {g : Nat} (h : Keeps d₀ b.r.d) : EngineKeeps d₀ (b.finish cd w g) :=
  h.holdWhisk.modDie fun _ _ hx => hx.foldl fun _ _ hx => hx.rowsTaken

theorem Keeps.whiskGo {pass g n : Nat} (h : Keeps d₀ b.r.d) : EngineKeeps d₀ (d.whiskGo c cd w pass g n b) := by
  unfold Device.whiskGo
  extract_lets x step ro ta tb total
  split
  · have h1 := h.denseSteps (c := c) (cd := cd) (w := w) (step := step) (ro := ro) (ta := ta) (tb := tb) (n := n) (pass := pass) (g := g)
    split
    · rename_i e1; exact (h1.of_error e1 : Keeps d₀ _).whiskFault
    · rename_i e1
      have h2 := h1.of_ok e1
      exact .ite (denseFinish h2) (holdWhisk h2)
  · have h1 := Keeps.overGroups (dev := WRun.d) (f := WRun.plainGroup c cd w step ro ta tb) (fun _ _ h => h.plainGroup)
      (l := (w.groups.drop g).take n) h
    split
    · rename_i e1; exact (h1.of_error e1 : Keeps d₀ _).whiskFault
    · rename_i e1
      exact .ite (holdWhisk (h1.of_ok e1 :)) (denseFinish (h1.of_ok e1 :))

theorem Keeps.whiskEngine (h : Keeps d₀ d) : EngineKeeps d₀ (whiskEngine cd d c e) := by
  unfold Machine.whiskEngine
  extract_lets x w sources n
  have h1 {going : Bool} : Keeps d₀ (x.whisk.resumed d w going).r.d := by cases going <;> exact h
  refine .ite h1.whiskGo (.ite trivial ?_)
  split
  · exact h.whiskErr
  · split
    · exact h.whiskErr
    · exact h1.whiskGo

end
end Sys2Proof.Safety
end

section
/-! SUPPORT. Soundness kept by rings and descriptors. -/

namespace Sys2Proof.Safety

set_option Elab.async false

open Sys2Proof Sys2Proof.Machine Sys2Proof.Laws

namespace Keeps
section
variable {d₀ d : Device} {c : Context} {cd : Cd} {id : RingId} {slot : CtxSlot} {t : Taken}

/-! ### Rings (R360 to R376) -/

theorem companionStores {ss : List Host.Cell} (h : Keeps d₀ d) : Keeps d₀ (d.companionStores ss) :=
  h.foldl fun _ _ h => .ite (h.modBytes fun _ hm => memPut_wf hm ..) h

theorem readFailed {code a : Nat} (h : Keeps d₀ d) : Keeps d₀ (d.readFailed id code a) := h.report.markTag

theorem rereadControl (h : Keeps d₀ d) : Keeps d₀ (d.rereadControl id) := by
  unfold Device.rereadControl
  split
  · exact h.readFailed
  · exact h.onRing

theorem snoop {ss : List Host.Cell} (h : Keeps d₀ d) : Keeps d₀ (d.snoop id ss) := by
  unfold Device.snoop
  dsimp only
  split
  · exact .ite h.companionStores h.companionStores.rereadControl
  · exact h.companionStores

theorem stray (h : Keeps d₀ d) : Keeps d₀ d.stray := h.frame

theorem doorbell {off : BitVec 12} {v : BitVec 32} {ss : List Host.Cell} (h : Keeps d₀ d) : Keeps d₀ (d.doorbell off v ss) := by
  unfold Device.doorbell
  have h1 : Keeps d₀ (d.companionStores ss) := h.companionStores
  refine .ite h1 ?_
  split
  · exact h1.stray
  · split
    · exact h1.stray
    · exact .ite h1.stray h1.onRing

theorem setHead {x : Option Taken} (h : Keeps d₀ d) : Keeps d₀ (d.setHead id x) := by
  cases id with
  | admin => exact h.frame
  | ctx slot => exact h.modCtx

theorem entryError (h : Keeps d₀ d) : Keeps d₀ (d.entryError id) := by
  unfold Device.entryError
  split
  · exact h
  · split
    · exact h
    · exact h.readFailed

theorem takeEntry {e : List Byte} (h : Keeps d₀ d) : Keeps d₀ (d.takeEntry id e) := by
  unfold Device.takeEntry
  split
  · exact h
  · dsimp only
    split
    · exact h.onRing.onRing
    · exact h.onRing.setHead

theorem finish {code flags : Nat} {result : List Byte} (h : Keeps d₀ d) : Keeps d₀ (d.finish id t code flags result) := h.setHead.onRing
theorem answer {code : Nat} (h : Keeps d₀ d) : Keeps d₀ (d.answer id t code) := h.finish
theorem answerErr {code : Nat} {r : ErrRec} {res : List Byte} (h : Keeps d₀ d) : Keeps d₀ (d.answerErr id t code r res) := h.report.finish

theorem adminWrite {a : Nat} {bs : List Byte} (h : Keeps d₀ d) : Keeps d₀ (d.adminWrite a bs).1 := by
  unfold Device.adminWrite
  extract_lets n fail
  split
  · exact h
  · split
    · exact h
    · split
      · exact h.companionPut
      · split
        · exact h.companionPut
        · exact h.companionPut

theorem takeOp {op : Nat} (h : Keeps d₀ d) : Keeps d₀ (d.takeOp id op) := by
  unfold Device.takeOp
  split
  · exact .ite h.takeEntry h
  · exact h.entryError

theorem descriptor {op : Nat} {rule : DescRule} {body : Device → Context → Taken → Device} (h : Keeps d₀ d)
    (hb : ∀ d c t, Keeps d₀ d → (MemoriesOk d₀ → ContextOk c) → Keeps d₀ (body d c t)) : Keeps d₀ (d.descriptor slot op rule body) := by
  unfold Device.descriptor
  extract_lets d1
  have h1 : Keeps d₀ d1 := h.takeOp
  split
  · exact h1
  · rename_i c hc
    have h2 {t : Taken} : Keeps d₀ (body d1 c t) := hb _ _ _ h1 (h1.contextOk_of_find hc)
    split
    · exact h1
    · refine .ite h1 (.ite h1 (.ite h1 (.ite h1.answer (.ite ?_ (.ite h1 h2)))))
      split
      · exact h1
      · exact .ite h1 h2
      · exact h1.answer

theorem adminDescriptor {op : Nat} {body : Device → Taken → Device} (h : Keeps d₀ d) (hb : ∀ d t, Keeps d₀ d → Keeps d₀ (body d t)) :
    Keeps d₀ (d.adminDescriptor op body) := by
  unfold Device.adminDescriptor
  dsimp only
  split
  · exact h.takeOp
  · exact .ite (hb _ _ h.takeOp) h.takeOp

theorem refuseOpcode (h : Keeps d₀ d) : Keeps d₀ (d.refuseOpcode id) := by
  unfold Device.refuseOpcode
  split
  · exact .ite h h.takeEntry
  · exact h.entryError

theorem heldFailed {w : HeldWrite} (h : Keeps d₀ d) : Keeps d₀ (d.heldFailed w) := h.report.markTag
theorem landHeld {w : HeldWrite} (h : Keeps d₀ d) : Keeps d₀ (d.landHeld w) := .ite h.heldFailed (h.modBytes fun _ hm => land_wf _ hm)

theorem writeTimeout {k : Nat} (h : Keeps d₀ d) : Keeps d₀ (d.writeTimeout k) := by
  unfold Device.writeTimeout
  split
  · exact h
  · exact heldFailed h.frame

theorem headTimeout {k : Nat} (h : Keeps d₀ d) : Keeps d₀ (d.headTimeout k) := by
  unfold Device.headTimeout
  split
  · exact h
  · split
    · exact h
    · dsimp only
      split
      · exact h.answerErr
      · split
        · exact h.modCtx.fault.finish
        · exact h

theorem accessTimeout {i : Nat} (h : Keeps d₀ d) : Keeps d₀ (d.accessTimeout i) :=
  .ite h.companionTimeout (.ite h (.ite h.writeTimeout h.headTimeout))

theorem hdWrite {a : Nat} {bs : List Byte} (h : Keeps d₀ d) : Keeps d₀ (d.hdWrite c a bs).1 := by
  unfold Device.hdWrite
  split
  · split
    · rename_i e; exact h.putBytes.of_eq e
    · rename_i e; exact h.putBytes.of_eq e
  · exact h
  · exact h

theorem hdSplice {a : Nat} {bs : List Byte} (h : Keeps d₀ d) : Ends (fun _ => True) (Keeps d₀) (d.hdSplice c a bs) := by
  unfold Device.hdSplice
  split
  · trivial
  · split
    · rename_i e; exact h.writeLine.of_ok e
    · trivial

theorem hdEach {α : Type} {l : List α} {f : Device → α → Except ErrRec Device} (h : Keeps d₀ d)
    (hf : ∀ d a, Keeps d₀ d → Ends (fun _ => True) (Keeps d₀) (f d a)) : Ends (fun y => Keeps d₀ y.1) (Keeps d₀) (d.hdEach l f) :=
  Ends.foldlM (fun d a h => by
    split
    · rename_i e; exact (hf d a h).of_ok e
    · exact h) l h

theorem answerFault {r : ErrRec} {res : List Byte} (h : Keeps d₀ d) : Keeps d₀ (d.answerFault c t r res) := h.fault.finish

theorem withCommit {f : Device → Device} (h : Keeps d₀ d) (hf : ∀ d, Keeps d₀ d → Keeps d₀ (f d)) : Keeps d₀ (d.withCommit c t f) := by
  unfold Device.withCommit
  split
  · exact h.answerFault
  · exact hf _ h

theorem openRing (h : Keeps d₀ d) : Keeps d₀ (d.openRing id) := by
  unfold Device.openRing
  dsimp only
  split
  · exact .ite h.onRing h.onRing.rereadControl
  · exact h.onRing

theorem ringBind (h : Keeps d₀ d) : Keeps d₀ (d.ringBind t) := by
  unfold Device.ringBind
  split
  · exact h.answer
  · refine .ite h.answer (.ite h.answer ?_)
    split
    · exact h.answerErr
    · split
      · exact h.answer
      · exact h.modCtx.openRing.answer

theorem ringResumeOp (h : Keeps d₀ d) : Keeps d₀ (d.ringResumeOp t) := by
  unfold Device.ringResumeOp
  dsimp only
  split
  · exact h.answer
  · split
    · exact h.answer
    · exact .ite h.onRing.answer h.answer

end
end Keeps
end Sys2Proof.Safety
end

section
/-! SUPPORT. Soundness kept by plans, runs, steps, adapters and slots. -/

namespace Sys2Proof.Safety

set_option Elab.async false

open Sys2Proof Sys2Proof.Machine Sys2Proof.Laws

/-! ### Dies (R121) -/

/-- A position's store is built from an empty one. -/
theorem posStore_wf {img : List Byte} {cs rs : Sect} : (posStore img cs rs).wf 0 = true := memStore_wf (memStore_wf rfl)

theorem DieOk.loaded {x : Die} {img : List Byte} {ss : List Sect} {pos : Nat} (h : DieOk x) : DieOk (x.loaded img ss pos) := by
  unfold Die.loaded
  split
  · exact ⟨posStore_wf, h.2⟩
  · exact h

theorem DieOk.runStart {x : Die} {entry : BitVec 14} {args : Vector (BitVec 64) 8} {k : BitVec 8} {fresh : Bool} (h : DieOk x) :
    DieOk (x.runStart entry args k fresh) := by
  refine ⟨h.1, ?_⟩
  unfold Die.runStart
  cases fresh <;> exact h.2

namespace Keeps
section
variable {d₀ d : Device} {c : Context} {cd : Cd} {id : RingId} {slot : CtxSlot} {t : Taken}

/-! ### Plans and runs (R121, R366 to R379) -/

theorem install {img : List Byte} {dpa : Nat} (h : Keeps d₀ d) : Keeps d₀ (d.install c img dpa) := by
  unfold Device.install
  extract_lets ss rs d1 d2
  have h1 : Keeps d₀ d1 := h.modArc fun _ _ _ hx => hx.loaded
  have h2 : Keeps d₀ d2 := h1.modMem fun _ hm => takeEntries_wf _ hm
  exact h2.modCtx

theorem refuseLoad {dpa : Nat} {e : PlanErr} (h : Keeps d₀ d) : Keeps d₀ (d.refuseLoad c t dpa e) := h.answerErr

theorem planLoad (h : Keeps d₀ d) : Keeps d₀ (d.planLoad c t) := by
  unfold Device.planLoad
  dsimp only
  refine .ite h.refuseLoad ?_
  split
  · exact h.answerFault
  · split
    · exact h.refuseLoad
    · exact h.install.finish

theorem putCommit {bs : List Byte} (h : Keeps d₀ d) : Keeps d₀ (d.putCommit c bs) := h.writeAs

theorem planRun (h : Keeps d₀ d) : Keeps d₀ (d.planRun c t) := by
  unfold Device.planRun
  split
  · exact h.answer
  · exact .ite h.answer (h.withCommit fun _ h => .ite h.answer h.modCtx)

theorem runBegin {u : Run} {args : List Byte} (h : Keeps d₀ d) : Keeps d₀ (d.runBegin c u args) := by
  unfold Device.runBegin
  extract_lets line k d1 fresh d2 d2' d3
  have h1 : Keeps d₀ d1 := .ite h.putCommit h
  have h2 : Keeps d₀ d2 := h1.modArc fun _ _ _ hx => hx.runStart
  have h2' : Keeps d₀ d2' := h2.modCtx
  have h3 : Keeps d₀ d3 := .ite h2' h2'.sendStart
  exact .ite h3.setHead.onRing h3

theorem runRefused {r : ErrRec} (h : Keeps d₀ d) : Keeps d₀ (d.runRefused c t r) := h.modCtx.answerFault

theorem runStart (h : Keeps d₀ d) : Keeps d₀ (d.runStart slot) := by
  unfold Device.runStart
  split
  · exact h
  · split
    · refine .ite h (.ite h.modCtx.answer (.ite h ?_))
      split
      · exact h.runRefused
      · dsimp only
        split
        · rename_i e; exact (h.hdWrite.of_eq e).runRefused
        · rename_i e
          split
          · exact (h.hdWrite.of_eq e).runRefused
          · exact (h.hdWrite.of_eq e).runBegin
    · exact h

/-! ### The end of a step (R263, R273 to R277) -/

theorem lossScaleSet (h : Keeps d₀ d) : Keeps d₀ (d.lossScaleSet c t) :=
  h.withCommit fun _ h => .ite h.answer h.modCtx.answer

theorem keepWords {es : List LogEntry} (h : Keeps d₀ d) : Ends (fun y => Keeps d₀ y.1) (Keeps d₀) (d.keepWords c es) :=
  h.hdEach fun _ _ h => by
    split
    · exact h.hdSplice
    · exact h

theorem putCommitWord {n : Nat} {w : List Byte} (h : Keeps d₀ d) : Keeps d₀ (d.putCommitWord c n w) := by
  unfold Device.putCommitWord
  split
  · exact h.writeAs
  · exact h

theorem keepFlags {keep : Nat → Nat} (h : Keeps d₀ d) : Keeps d₀ (d.keepFlags c keep) := h.putCommit
theorem forgetAttempt (h : Keeps d₀ d) : Keeps d₀ (d.forgetAttempt c) := h.modArc
theorem commitWrite {es : List LogEntry} (h : Keeps d₀ d) : Keeps d₀ (d.commitWrite c es) := h.putCommit.modCtx.forgetAttempt.event

theorem rollForward (h : Keeps d₀ d) : Ends (fun y => Keeps d₀ y.1) (Keeps d₀) (d.rollForward c) := by
  unfold Device.rollForward
  extract_lets line
  split
  · exact h
  · split
    · exact h
    · refine Ends.map (h.hdEach fun d x h => Ends.any.map fun m _ => ?_) fun _ h => h.keepFlags
      split
      · exact h.putCommitWord
      · exact h

theorem segment {phase : Nat} {u : Run} (h : Keeps d₀ d) : Keeps d₀ (d.segment c t phase u) := h.modCtx
theorem clearTallies (h : Keeps d₀ d) : Keeps d₀ (d.clearTallies c) := h.modArc

theorem commitRebuild {phase : Nat} (h : Keeps d₀ d) : Keeps d₀ (d.commitRebuild c t phase) := by
  unfold Device.commitRebuild
  split
  · rename_i e; exact (h.rollForward.of_error e : Keeps d₀ _).clearTallies.answerFault
  · rename_i e; exact (h.rollForward.of_ok e).segment

theorem commitVerify (h : Keeps d₀ d) : Keeps d₀ (d.commitVerify c t) := by
  unfold Device.commitVerify
  dsimp only
  split
  · exact h.clearTallies.answerFault
  · split
    · exact h.clearTallies.answerFault
    · exact h.clearTallies.finish
    · split
      · rename_i e; exact (h.keepWords.of_error e : Keeps d₀ _).clearTallies.answerFault
      · rename_i e; exact (h.keepWords.of_ok e).commitWrite.commitRebuild

theorem stepCommit (h : Keeps d₀ d) : Keeps d₀ (d.stepCommit c t) :=
  h.withCommit fun _ h => by
    split
    · exact h.answer
    · exact .ite h.answer (.ite h.commitRebuild (.ite h.answer (.ite h.segment h.commitVerify)))

theorem undoLog (h : Keeps d₀ d) : Ends (fun y => Keeps d₀ y.1) (Keeps d₀) (d.undoLog c) := by
  unfold Device.undoLog
  split
  · exact h
  · refine h.hdEach fun d x h => ?_
    split
    · trivial
    · split
      · trivial
      · rename_i d1 e
        have h1 : Keeps d₀ d1 := by
          split at e
          · exact h.hdSplice.of_ok e
          · cases e; exact h
        exact Ends.any.map fun _ _ => h1.putCommitWord

theorem stepRollback (h : Keeps d₀ d) : Keeps d₀ (d.stepRollback c t) :=
  h.withCommit fun _ h => by
    dsimp only
    split
    · exact h.answer
    · refine .ite h.answer (.ite h.answer ?_)
      split
      · rename_i e; exact (h.undoLog.of_error e : Keeps d₀ _).answerFault
      · rename_i e; exact (h.undoLog.of_ok e).putCommit.forgetAttempt.segment

theorem normEntry {pos src : Nat} {x : NormCopy} (h : Keeps d₀ d) : Keeps d₀ (d.normEntry c pos src t x).1 := by
  unfold Device.normEntry
  split
  · exact h
  · split
    · exact h
    · split
      · exact h.fault
      · split
        · rename_i e; exact (h.hdWrite.of_eq e).fault
        · rename_i e; exact h.hdWrite.of_eq e

theorem normArea {step pos : Nat} {x : NormCopy} (h : Keeps d₀ d) : Keeps d₀ (d.normArea c step t pos x).1 := by
  unfold Device.normArea
  extract_lets a
  split
  · exact h
  · split
    · exact h.fault
    · split
      · exact foldl_keeps (r := fun y : Device × NormCopy => Keeps d₀ y.1) (fun _ _ h => h.normEntry) _ h
      · exact h

theorem normCopy {step : Nat} (h : Keeps d₀ d) : Keeps d₀ (d.normCopy c step t).1 :=
  foldl_keeps (r := fun y : Device × NormCopy => Keeps d₀ y.1) (fun _ _ h => h.normArea) _ h

theorem rebuilt (h : Keeps d₀ d) : Keeps d₀ (d.rebuilt c t) := .ite h.keepFlags.finish h.keepFlags.normCopy.finish

theorem segmentFault {u : Run} (h : Keeps d₀ d) : Keeps d₀ (d.segmentFault c t u) := h.finish

theorem segmentHalt (h : Keeps d₀ d) : Keeps d₀ (d.segmentHalt slot) := by
  unfold Device.segmentHalt
  split
  · exact h
  · split
    · refine .ite h ?_
      dsimp only
      refine .ite h.modCtx.clearTallies.segmentFault ?_
      split
      · exact h.modCtx.clearTallies.answerFault
      · exact .ite h.modCtx.commitVerify h.modCtx.rebuilt
    · exact h

/-! ### Adapters (R230 to R241) -/

theorem adapterAnswer {code n tag : Nat} (h : Keeps d₀ d) : Keeps d₀ (d.adapterAnswer c t code n tag) := h.finish
theorem putEntry {a : Nat} {e : List Byte} (h : Keeps d₀ d) : Keeps d₀ (d.putEntry c a e) := h.writeAs

theorem withReads {rs : List (Nat × Nat)} {res : List Byte} {f : Device → Device} (h : Keeps d₀ d) (hf : ∀ d, Keeps d₀ d → Keeps d₀ (f d)) :
    Keeps d₀ (d.withReads c t rs res f) := by
  unfold Device.withReads
  dsimp only
  split
  · exact h.eccReads.answerFault
  · exact hf _ h.eccReads

theorem withEntry {f : Device → Nat → Nat → List Byte → Device} (h : Keeps d₀ d) (hf : ∀ d n a e, Keeps d₀ d → Keeps d₀ (f d n a e)) :
    Keeps d₀ (d.withEntry c t f) := by
  unfold Device.withEntry
  dsimp only
  split
  · exact h.adapterAnswer
  · exact h.withReads fun _ h => hf _ _ _ _ h

theorem countScaled {old new : Nat} (h : Keeps d₀ d) : Keeps d₀ (d.countScaled c old new) := h.modCtx

theorem adapterRegister (h : Keeps d₀ d) : Keeps d₀ (d.adapterRegister c t) :=
  h.withEntry fun _ _ _ _ h => .ite h.adapterAnswer (h.withReads fun _ h => .ite h.adapterAnswer h.putEntry.countScaled.adapterAnswer)

theorem adapterUnregister (h : Keeps d₀ d) : Keeps d₀ (d.adapterUnregister c t) :=
  h.withEntry fun _ _ _ _ h => .ite h.adapterAnswer (.ite h.adapterAnswer
    (h.withReads fun _ h => .ite h.adapterAnswer h.putEntry.countScaled.modCtx.adapterAnswer))

theorem adapterPolicy (h : Keeps d₀ d) : Keeps d₀ (d.adapterPolicy c t) :=
  h.withEntry fun _ _ _ _ h => .ite h.adapterAnswer (h.withReads fun _ h => .ite h.adapterAnswer h.putEntry.countScaled.adapterAnswer)

theorem adapterEvict (h : Keeps d₀ d) : Keeps d₀ (d.adapterEvict c t) :=
  h.withEntry fun _ _ _ _ h => .ite h.adapterAnswer (.ite h.adapterAnswer h.putEntry.modCtx.adapterAnswer)

theorem fetchLine {src dst : Nat} (h : Keeps d₀ d) : Ends (fun _ => True) (Keeps d₀) (d.fetchLine c cd src dst) := by
  unfold Device.fetchLine
  split
  · extract_lets pkg d1
    have h1 : Keeps d₀ d1 := .ite h.servePackage h
    split
    · trivial
    · split
      · trivial
      · rename_i e; exact h1.writeLine.of_ok e
  · trivial
  · trivial

theorem fetchLines : ∀ {n src dst done : Nat} {d : Device}, Keeps d₀ d → Keeps d₀ (d.fetchLines c cd n src dst done).1
  | 0, _, _, _, _, h => h
  | n + 1, _, _, _, _, h => by
    unfold Device.fetchLines
    split
    · exact h
    · rename_i e; exact fetchLines (h.fetchLine.of_ok e)

theorem adapterFetch (h : Keeps d₀ d) : Keeps d₀ (d.adapterFetch c t) :=
  h.withEntry fun _ _ _ _ h => by
    dsimp only
    refine .ite h.adapterAnswer (.ite h.adapterAnswer (.ite h.adapterAnswer (.ite h.adapterAnswer ?_)))
    split
    · rename_i e; exact (h.fetchLines.of_eq e).answerFault
    · rename_i e
      exact (h.fetchLines.of_eq e).withReads fun _ h => .ite h.adapterAnswer h.putEntry.modCtx.adapterAnswer

/-! ### Slots (R238 to R241) -/

variable {r : ClaimRun} {o pos : Nat} {is : List BodyItem}

theorem claimIte {a b : ClaimRun} {p : Prop} {_ : Decidable p} (ha : Keeps d₀ a.d) (hb : Keeps d₀ b.d) : Keeps d₀ (if p then a else b).d := by
  split
  · exact ha
  · exact hb

theorem claimPut {x : Nat} {bs : List Byte} (h : Keeps d₀ r.d) : Keeps d₀ (r.put c o pos x bs).d := by
  unfold ClaimRun.put
  dsimp only
  split
  · exact h
  · split
    · rename_i e; exact h.putBytes.of_eq e
    · rename_i e; exact h.putBytes.of_eq e

theorem claimLook {rs : List (Nat × Nat)} (h : Keeps d₀ r.d) : Keeps d₀ (r.look c rs).d := claimIte h h.eccReads
theorem claimTell {code : Nat} (h : Keeps d₀ r.d) : Keeps d₀ (r.tell code).d := claimIte h h
theorem claimCount {a : Nat} {e : List Byte} {up : Bool} (h : Keeps d₀ r.d) : Keeps d₀ (r.count c a e up).d := claimIte h h.putEntry.modCtx

theorem claimExperts {v : Nat} (h : Keeps d₀ r.d) : Keeps d₀ (r.experts c o pos is v).d :=
  foldl_keeps (r := fun r : ClaimRun => Keeps d₀ r.d) (fun _ _ h => h.claimPut) _ h

theorem claimOrNone {after : ClaimRun} (h : Keeps d₀ r.d) (ha : Keeps d₀ after.d) : Keeps d₀ (r.orNone after).d := claimIte h ha

theorem claimBind {n slot a : Nat} {e : List Byte} (h : Keeps d₀ r.d) : Keeps d₀ (r.bind c o n pos slot a e is).d :=
  h.claimOrNone h.claimPut.claimExperts.claimPut.claimCount.claimTell

theorem claim {w : Nat} (h : Keeps d₀ r.d) : Keeps d₀ (r.claim c o w).d := by
  unfold ClaimRun.claim
  dsimp only
  split
  · exact h
  · split
    · exact h.claimTell
    · refine claimIte h.claimLook.claimTell (claimIte h.claimLook.claimTell (claimIte h.claimLook.claimTell ?_))
      have h1 {rs rs' : List (Nat × Nat)} : Keeps d₀ ((r.look c rs).look c rs').d := h.claimLook.claimLook
      refine claimIte h1.claimTell (claimIte h1.claimTell (claimIte h1.claimLook.claimLook (claimIte h1.claimLook.claimLook.claimTell ?_)))
      exact h1.claimLook.claimLook.claimBind

theorem claimFree {slot : Nat} {old : List Byte} (h : Keeps d₀ r.d) : Keeps d₀ (r.free c o pos slot old is).d := by
  unfold ClaimRun.free
  dsimp only
  split
  · exact h.claimOrNone h.claimPut.claimExperts.claimPut.claimLook.claimCount.claimTell
  · refine h.claimOrNone (claimTell ?_)
    dsimp only
    exact h.claimPut.claimExperts.claimPut.modCtx

theorem claimRelease {w : Nat} (h : Keeps d₀ r.d) : Keeps d₀ (r.release c o w).d := by
  unfold ClaimRun.release
  extract_lets x slot old r0 a r1
  have h0 : Keeps d₀ r0.d := h.claimLook
  have h1 : Keeps d₀ r1.d := h0.claimLook
  exact claimIte h (claimIte h.claimTell (claimIte h0.claimTell (claimIte h1 h1.claimFree)))

theorem claimClose {list : Nat} (h : Keeps d₀ r.d) : Keeps d₀ (r.close c t list) := by
  unfold ClaimRun.close
  dsimp only
  split
  · rename_i e; exact (h.hdWrite.of_eq e).answerFault
  · rename_i e
    split
    · exact (h.hdWrite.of_eq e).answerFault
    · exact (h.hdWrite.of_eq e).finish

theorem claims {α : Type} {f : ClaimRun → α → ClaimRun} {ws : List α} {list : Nat} (h : Keeps d₀ r.d)
    (hf : ∀ r w, Keeps d₀ r.d → Keeps d₀ (f r w).d) : Keeps d₀ ((ws.foldl f r).close c t list) :=
  claimClose (foldl_keeps (r := fun r : ClaimRun => Keeps d₀ r.d) hf ws h)

theorem slotBind (h : Keeps d₀ d) : Keeps d₀ (d.slotBind c t) := by
  unfold Device.slotBind
  extract_lets n o d1
  refine .ite h.answer (.ite h.answer (.ite h.answer ?_))
  split
  · exact h.answerFault
  · have h1 : Keeps d₀ d1 := h.modCtx
    exact claims h1 fun _ _ h => h.claim

theorem slotRelease (h : Keeps d₀ d) : Keeps d₀ (d.slotRelease c t) := by
  unfold Device.slotRelease
  extract_lets n go
  refine .ite h.answer ?_
  split
  · exact h.answerFault
  · refine claims h fun r w h => ?_
    unfold go
    split
    · exact h.claimRelease
    · exact h.claimTell

end
end Keeps
end Sys2Proof.Safety
end

section
/-! SUPPORT. Soundness kept by the power stage, the LPDDR5X controllers, the control loops and the links of the ports. -/

namespace Sys2Proof.Safety

set_option Elab.async false

open Sys2Proof Sys2Proof.Machine Sys2Proof.Laws

namespace Keeps
section
variable {d₀ d : Device} {c : Context} {cd : Cd} {i : Fin 2} {p : PortNo}

/-! ### Power (R448 to R455) -/

/-- Without power the companion memory and the flash stay, and the power stage is the one given: rails off. -/
theorem turnOff {input : Input} {locked trip : Bool} {seqFails : Nat} (h : Keeps d₀ d) (ht : PowerOk d.pd → trip = true → input ≠ .qualified) :
    Keeps d₀ (d.turnOff input locked seqFails trip) := by
  refine ⟨fun h0 => ?_, fun h0 => ?_⟩
  · obtain ⟨hb, -, -, hf, -⟩ := h.1 h0
    obtain ⟨-, hd, hc, -, -⟩ := memoriesOk_reset
    exact ⟨filter_wf _ hb, hd, hc, hf, rfl⟩
  · refine ⟨Nat.zero_le _, ?_, ?_, ?_, ht (h.2 h0)⟩
    · exact fun hg => (Bool.false_ne_true hg).elim
    · exact fun hr => (Bool.false_ne_true hr).elim
    · exact fun hr => (Nat.lt_irrefl 0 hr).elim

theorem inputApplied (h : Keeps d₀ d) : Keeps d₀ d.inputApplied := by
  unfold Device.inputApplied
  split
  · rename_i hi
    refine h.power fun hp => ?_
    obtain ⟨h1, h2, h3, h4, h5⟩ := hp
    refine ⟨h1, fun hg => ?_, fun hr => ?_, h4, fun ht => by cases ht⟩
    · exact absurd (h2 hg).2.1 (by rw [hi]; decide)
    · exact absurd (h3 hr).1 (by rw [hi]; decide)
  · exact h

theorem inputQualified (h : Keeps d₀ d) : Keeps d₀ d.inputQualified := by
  unfold Device.inputQualified
  split
  · rename_i hi
    obtain ⟨hin, hl, ht⟩ := hi
    refine h.power fun hp => ?_
    obtain ⟨h1, h2, -, -, -⟩ := hp
    refine ⟨Nat.zero_le _, fun hg => ?_, fun _ => ⟨rfl, Nat.succ_pos 11, by simpa using hl⟩,
      fun hr => (Nat.lt_irrefl 0 hr).elim, fun h => ?_⟩
    · have hq := (h2 hg).2.1
      rw [hq] at hin
      exact absurd hin (by decide)
    · exact absurd h (by simpa using ht)
  · exact h

theorem protect (h : Keeps d₀ d) : Keeps d₀ d.protect := .ite (h.turnOff fun _ _ => by decide) h

theorem firstSessions (h : Keeps d₀ d) : Keeps d₀ d.firstSessions := by
  unfold Device.firstSessions
  dsimp only
  exact h.drawRandom.drawRandom.frame

theorem railGood (h : Keeps d₀ d) : Keeps d₀ d.railGood := by
  unfold Device.railGood
  split
  · rename_i hr
    split
    · rename_i hn
      refine h.power fun hp => ?_
      obtain ⟨h1, h2, h3, h4, h5⟩ := hp
      exact ⟨Nat.le_of_lt hn, fun hg => absurd (h2 hg).2.2 (by simp [hr]), fun _ => ⟨(h3 hr).1, hn, (h3 hr).2.2⟩, fun _ => .inr hr, h5⟩
    · refine firstSessions (h.power fun hp => ?_)
      obtain ⟨h1, h2, h3, h4, h5⟩ := hp
      exact ⟨Nat.le_refl _, fun _ => ⟨rfl, (h3 hr).1, rfl⟩, fun hr => (Bool.false_ne_true hr).elim, fun _ => .inl rfl, h5⟩
  · exact h

theorem railTimeout (h : Keeps d₀ d) : Keeps d₀ d.railTimeout := by
  unfold Device.railTimeout
  split
  · rename_i hr
    refine h.turnOff fun hp ht => ?_
    obtain ⟨-, -, h3, -, h5⟩ := hp
    exact absurd (h3 hr).1 (h5 ht)
  · exact h

theorem sequenceRetry (h : Keeps d₀ d) : Keeps d₀ d.sequenceRetry := by
  unfold Device.sequenceRetry
  split
  · rename_i hi
    obtain ⟨hin, -, hg, hl, -⟩ := hi
    refine h.power fun hp => ?_
    obtain ⟨-, -, -, -, h5⟩ := hp
    exact ⟨Nat.zero_le _, fun h => absurd h (by simpa using hg), fun _ => ⟨hin, Nat.succ_pos 11, by simpa using hl⟩,
      fun hr => (Nat.lt_irrefl 0 hr).elim, h5⟩
  · exact h

theorem shutdown (h : Keeps d₀ d) : Keeps d₀ d.shutdown := h.turnOff fun _ _ => by decide
theorem overtemperature {source : BitVec 16} {tenths : Int} (h : Keeps d₀ d) : Keeps d₀ (d.overtemperature source tenths) := .ite h.shutdown h

/-- The rails, the input and the locks of the power stage stay as they were. -/
theorem powerRest {e : Device} (h : Keeps d₀ d)
    (hp : e.pd.rails = d.pd.rails ∧ e.pd.pwrGood = d.pd.pwrGood ∧ e.pd.ramping = d.pd.ramping ∧ e.pd.input = d.pd.input
      ∧ e.pd.locked = d.pd.locked ∧ e.pd.thermTrip = d.pd.thermTrip := by exact ⟨rfl, rfl, rfl, rfl, rfl, rfl⟩)
    (hb : e.mem.bytes = d.mem.bytes := by rfl) (hd : e.dies = d.dies := by rfl) (hc : e.ctxs = d.ctxs := by rfl)
    (hf : e.hd.flash = d.hd.flash := by rfl) (hg : e.hd.flashBuf = d.hd.flashBuf := by rfl) : Keeps d₀ e := by
  obtain ⟨h1, h2, h3, h4, h5, h6⟩ := hp
  refine h.power (fun hp => ?_) hb hd hc hf hg
  unfold PowerOk
  rw [h1, h2, h3, h4, h5, h6]
  exact hp

theorem cause {code : BitVec 8} (h : Keeps d₀ d) : Keeps d₀ (d.cause code) := h.frame

theorem easyEntry {average : Nat} (h : Keeps d₀ d) : Keeps d₀ (d.easyEntry average) := .ite (cause h.powerRest) h

theorem easyEvents {kind : Nat} {cycle : BitVec 64} (h : Keeps d₀ d) : Keeps d₀ (d.easyEvents kind cycle) :=
  foldl (.ite h.event h) fun _ _ h => h.event

theorem easySignal (h : Keeps d₀ d) : Keeps d₀ d.easySignal := by
  unfold Device.easySignal
  split
  · extract_lets pd d1 d2
    have h1 : Keeps d₀ d1 := h.powerRest
    have h2 : Keeps d₀ d2 := h1.foldl fun _ _ h => h.modCtx.sendPause
    exact h2.easyEvents
  · exact h

theorem easyResume (h : Keeps d₀ d) : Keeps d₀ (d.easyResume c) := .ite h.resumeRun h.modCtx

theorem easyExit {average : Nat} (h : Keeps d₀ d) : Keeps d₀ (d.easyExit average) := by
  unfold Device.easyExit
  split
  · extract_lets pd d1
    have h1 : Keeps d₀ d1 := h.powerRest
    exact (h1.foldl fun _ _ h => h.easyResume).easyEvents
  · exact h

theorem telemetry {t : Telemetry} (h : Keeps d₀ d) : Keeps d₀ (d.telemetry t) := .ite h h.powerRest

/-! ### LPDDR5X (R172 to R191) -/

theorem decay_bytes {m : Mem} {x : Place} {e : MemError} : (m.decay x e).bytes = m.bytes := by
  unfold Mem.decay
  split
  case h_1 => dsimp only; split <;> rfl
  all_goals rfl

theorem scrubLine {l : Nat} (h : Keeps d₀ d) : Keeps d₀ (d.scrubLine cd i l) := .ite h.eccUe.report (.ite h.modMem h)

theorem scrubWindow (h : Keeps d₀ d) : Keeps d₀ (d.scrubWindow cd i) := by
  unfold Device.scrubWindow
  extract_lets l first n d1
  have h1 : Keeps d₀ d1 := h.modMem.modLpc
  exact h1.foldl fun _ _ h => h.scrubLine

theorem refreshWindow (h : Keeps d₀ d) : Keeps d₀ (d.refreshWindow cd i) := .ite h.modLpc.scrubWindow h.modLpc

theorem shareFault {t : CTile} {n code line : Nat} (h : Keeps d₀ d) : Keeps d₀ (d.shareFault c cd t n code line) := h.modCourse.memFault
theorem shareEcc {t : CTile} {base idx : Nat} (h : Keeps d₀ d) : Keeps d₀ (d.shareEcc c cd t base idx) := .ite h.eccRun h

theorem shareServe (h : Keeps d₀ d) : Keeps d₀ (d.shareServe cd i) := by
  unfold Device.shareServe
  split
  · exact h
  · dsimp only
    split
    · exact h
    · refine .ite h ?_
      split
      · exact h
      · split
        · exact h
        · exact .ite h.shareEcc.shareFault h
        · refine .ite h.modCourse ?_
          split
          · exact .ite h.eccOf.shareFault h
          · exact .ite h.shareEcc.modCourse.eccOf.modCourse.modCtx h.shareEcc.modCourse.eccOf.modCourse

theorem wheelServe {decay : List MemError} (h : Keeps d₀ d) : Keeps d₀ (d.wheelServe cd i decay) := by
  unfold Device.wheelServe
  extract_lets d1 code d2
  have h1 : Keeps d₀ d1 := h.modMem fun _ hm =>
    foldl_keeps (r := fun m : Mem => m.bytes.wf 0 = true) (fun m e hm => by rwa [decay_bytes]) _ hm
  have h2 : Keeps d₀ d2 := .ite h1.refreshWindow (.ite h1.shareServe h1)
  exact .ite h h2.modLpc

theorem mr4Read {f : BitVec 3} (h : Keeps d₀ d) : Keeps d₀ (d.mr4Read cd i f) := by
  unfold Device.mr4Read
  split
  · exact h
  · split
    · exact h.shutdown
    · extract_lets lo hi want step d1 on reg d2
      have h1 : Keeps d₀ d1 := h.modLpc
      have h2 : Keeps d₀ d2 := h1.frame
      exact .ite h2.event h2

theorem packageVerify {dom : Fin 64} {k n : Nat} (h : Keeps d₀ d) : Keeps d₀ (d.packageVerify dom k n) := by
  unfold Device.packageVerify
  split
  · exact h
  · exact .ite h.serveRecord h

/-! ### Control loops (R444 to R448) -/

theorem overrideEvent {loop asked applied : Nat} (h : Keeps d₀ d) : Keeps d₀ (d.overrideEvent loop asked applied) := h.event

theorem applyLoop {j : Fin 18} {mode low high : Nat} (h : Keeps d₀ d) : Keeps d₀ (d.applyLoop j mode low high) := by
  unfold Device.applyLoop
  extract_lets was asks reg now d1 pd d2 d3
  have h1 : Keeps d₀ d1 := h.frame
  have h2 : Keeps d₀ d2 := .ite h1.powerRest h1
  have h3 : Keeps d₀ d3 := .ite h2.modPort h2
  exact .ite h3.overrideEvent h3

theorem loopSet {t : Taken} (h : Keeps d₀ d) : Keeps d₀ (d.loopSet t) := by
  unfold Device.loopSet
  dsimp only
  split
  · exact h.answer
  · exact .ite h.answer h.applyLoop.finish

/-! ### Links of the ports (R332 to R342) -/

theorem portRecord {code : Nat} {ctx : BitVec 16} {detail : Nat} (h : Keeps d₀ d) : Keeps d₀ (d.portRecord p code ctx detail) :=
  .ite h h.report.modPort

theorem portFail {code detail : Nat} (h : Keeps d₀ d) : Keeps d₀ (d.portFail p code detail) := by
  unfold Device.portFail
  extract_lets x k told
  split
  extract_lets d1 d2
  have h1 : Keeps d₀ d1 := h.modPort
  have h2 : Keeps d₀ d2 := .ite h1 h1.report
  exact .ite h2.event h2

theorem trainStep {f : TrainReport} (h : Keeps d₀ d) : Keeps d₀ (d.trainStep p f) := by
  unfold Device.trainStep
  split
  · exact .ite h.modPort h
  · exact .ite h.modPort h
  · exact .ite h.modPort h.portFail
  · exact h

theorem trainTimeout {f : TrainReport} (h : Keeps d₀ d) : Keeps d₀ (d.trainTimeout p f) := by
  unfold Device.trainTimeout
  split
  · exact h.portFail
  · exact h.portFail
  · exact h.portFail
  · exact h.portFail
  · exact h

theorem backoffEnd (h : Keeps d₀ d) : Keeps d₀ (d.backoffEnd p) := .ite h.modPort h
theorem adapt {ctle : BitVec 4} {dfe : BitVec 48} (h : Keeps d₀ d) : Keeps d₀ (d.adapt p ctle dfe) := .ite h.modPort h

theorem loseTree (h : Keeps d₀ d) : Keeps d₀ (d.loseTree p) :=
  h.foldl fun _ _ h => by
    split
    · exact h
    · exact h.modFd

theorem portReset {old new : BitVec 32} (h : Keeps d₀ d) : Keeps d₀ (d.portReset p old new) := h.foldl fun _ _ h => h.foldl fun _ _ h => h.event

theorem goActive {f : NegFlit} (h : Keeps d₀ d) : Keeps d₀ (d.goActive p f) := by
  unfold Device.goActive
  dsimp only
  split
  · exact .ite h.modPort h.loseTree.modPort.portReset
  · exact h.modPort

theorem negotiate {f : NegFlit} (h : Keeps d₀ d) : Keeps d₀ (d.negotiate p f) :=
  .ite h (.ite h.portFail (.ite h.modPort.goActive h.modPort))

theorem linkDown {why : Nat} (h : Keeps d₀ d) : Keeps d₀ (d.linkDown p why) := h.portFail
theorem replayFrom {seq : BitVec 32} (h : Keeps d₀ d) : Keeps d₀ (d.replayFrom p seq) := .ite h.linkDown h.modPort
theorem replayTimeout (h : Keeps d₀ d) : Keeps d₀ (d.replayTimeout p) := .ite h.replayFrom h
theorem keepalive (h : Keeps d₀ d) : Keeps d₀ (d.keepalive p) := .ite h.linkDown h

theorem fillC1 (h : Keeps d₀ d) : Keeps d₀ (d.fillC1 p) := by
  unfold Device.fillC1
  dsimp only
  refine .ite h ?_
  split
  · exact h.modPort
  · split
    · exact h
    · exact h.modCtx.modPort

theorem flitLines {order : List (Fin 5)} : ∀ {n : Nat} {d : Device} {ls : List (Fin 5 × List Byte)}, Keeps d₀ d →
    Keeps d₀ (Device.flitLines p order n d ls).1
  | 0, _, _, h => h
  | n + 1, d, _, h => by
    unfold Device.flitLines
    extract_lets held e
    have h1 : Keeps d₀ e := .ite h h.fillC1
    split
    · exact h
    · exact flitLines (modPort (.ite h1 h))

theorem newFlit {ls : List (Fin 5 × List Byte)} (h : Keeps d₀ d) : Keeps d₀ (d.newFlit p ls) := h.modPort
theorem dropFaulted (h : Keeps d₀ d) : Keeps d₀ (d.dropFaulted p) := .ite h.modPort h

theorem transmit (h : Keeps d₀ d) : Keeps d₀ (d.transmit p) := by
  unfold Device.transmit
  dsimp only
  refine .ite h.modPort (.ite h ?_)
  split
  · exact h.dropFaulted.modPort
  · exact .ite h.dropFaulted.newFlit h.dropFaulted.flitLines.newFlit

theorem linkCredit {n surplus : Nat} (h : Keeps d₀ d) : Keeps d₀ (d.linkCredit p n surplus) := .ite h h.modPort.portRecord
theorem takeCredit {cc : BitVec 3} {n : Nat} (h : Keeps d₀ d) : Keeps d₀ (d.takeCredit p cc n) := .ite h.linkCredit h.modPort.linkCredit

theorem acceptFlit {f : Flit} (h : Keeps d₀ d) : Keeps d₀ (d.acceptFlit p f) := by
  unfold Device.acceptFlit
  extract_lets d1 d2
  have h1 : Keeps d₀ d1 := h.modPort.takeCredit
  have h2 : Keeps d₀ d2 := .ite h1 (h1.modPort.foldl fun _ _ h => h.linkCredit)
  exact .ite h2.replayFrom h2

theorem receive {f : Flit} (h : Keeps d₀ d) : Keeps d₀ (d.receive p f) := .ite h (.ite h.modPort (.ite h h.acceptFlit))

end
end Keeps
end Sys2Proof.Safety
end

section
/-! SUPPORT. Soundness kept by the upper tree, the transport between modules and the reduction descriptors. -/

namespace Sys2Proof.Safety

set_option Elab.async false

open Sys2Proof Sys2Proof.Machine Sys2Proof.Laws

namespace Keeps
section
variable {d₀ d held : Device} {c : Context} {cd : Cd} {p : PortNo} {cls : Fin 5} {k : Packet} {r : ReduceConfig} {n : FdNode} {t : TreeTag}

/-! ### The upper tree (R313 to R331) -/

theorem sendReduction {peer level phase i total : Nat} {down : Bool} {hdr line : List Byte} (h : Keeps d₀ d) :
    Keeps d₀ (d.sendReduction c r peer t level phase down i total hdr line) := by
  unfold Device.sendReduction
  split
  · exact h
  · exact h.sendLines

theorem passDown {elems phase i : Nat} {line : List Byte} (h : Keeps d₀ d) : Keeps d₀ (d.passDown c r n t elems phase i line) := by
  unfold Device.passDown
  dsimp only
  refine foldl (.ite h.modFd.modLadle.ladleTurn h.modFd) fun _ _ h => ?_
  split
  · exact .ite h.sendReduction.modFd h
  · exact h

theorem rootDown {elems : Nat} : ∀ {fuel : Nat} {d : Device}, Keeps d₀ d → Keeps d₀ (Device.rootDown c r n t elems fuel d)
  | 0, _, h => h
  | fuel + 1, _, h => by
    unfold Device.rootDown
    split
    · exact h
    · split
      · exact h
      · split
        · exact h
        · exact rootDown h.passDown

theorem raiseLine {elems level phase i : Nat} {line : List Byte} (h : Keeps d₀ d) :
    Keeps d₀ (d.raiseLine c r n t elems level phase i line) := by
  unfold Device.raiseLine
  extract_lets fd d1 d2 hdr total
  have h1 : Keeps d₀ d1 := h.modFd
  have h2 : Keeps d₀ d2 := .ite h1.modLadle h1
  refine .ite h2 ?_
  split
  · exact h2.sendReduction.modFd
  · exact h2.rootDown

theorem freeUp {peer : Nat} (h : Keeps d₀ d) : Keeps d₀ (d.freeUp c peer) := by
  unfold Device.freeUp
  split
  · exact h
  · exact h.consumeC2

theorem stopTag {level : Nat} (h : Keeps d₀ d) : Keeps d₀ (d.stopTag c r n t level) := by
  unfold Device.stopTag
  dsimp only
  split
  · exact h.modFd
  · exact h.modFd.modPort.portRecord

theorem treeAdd {fd : Fin 2} {slot : CtxSlot} {bucket : BitVec 16} {level phase i : Nat} (h : Keeps d₀ d) :
    Keeps d₀ (d.treeAdd fd slot bucket level phase i) := by
  unfold Device.treeAdd
  split
  · exact h
  · split
    · exact h
    · refine .ite h (.ite h ?_)
      dsimp only
      split
      · exact h
      · refine .ite h (.ite h.modFd.stopTag (.ite h ?_))
        split
        · exact h
        · refine modFd (raiseLine ?_)
          split
          · exact h.modFd.freeUp
          · exact h.modFd

theorem takeDown {phase : Nat} {ls : List (Nat × List Byte)} (h : Keeps d₀ d) : Keeps d₀ (d.takeDown c r n t phase ls) := by
  refine modFd (h.foldl fun _ _ h => ?_)
  dsimp only
  split
  · exact h
  · exact .ite h h.passDown

theorem resumeTree (h : Keeps d₀ d) : Keeps d₀ (d.resumeTree c) := by
  unfold Device.resumeTree
  dsimp only
  split
  · exact h.releaseCredit
  · exact h.releaseCredit.foldl fun _ _ h => h.modFd.foldl fun _ _ h => h.takeDown

/-! ### Arriving packets (R343 to R356) -/

theorem takePacket {x : Fin 5 × Device} (h : Keeps d₀ d) (hx : d.takePacket p k = some x) : Keeps d₀ x.2 := by
  obtain ⟨cls, -, rfl⟩ := Option.map_eq_some_iff.1 hx
  exact h.modPort

theorem freePart {m : Nat} (h : Keeps d₀ d) : Keeps d₀ (d.freePart p cls k m) := by
  unfold Device.freePart
  refine .ite h.freeLines ?_
  split
  · exact h.consumeC2
  · exact h.freeC2

theorem freePacket (h : Keeps d₀ d) : Keeps d₀ (d.freePacket p cls k) := h.freePart
theorem refuse {code : Nat} {ctx : BitVec 16} (h : Keeps d₀ d) : Keeps d₀ (d.refuse p cls k code ctx) := h.freePacket.modPort.portRecord

theorem landLines {dpa : Nat} : ∀ {ls : List (List Byte)} {i : Nat} {done : List Nat} {d : Device}, Keeps d₀ d →
    Keeps d₀ (d.landLines c cd dpa i ls done).1
  | [], _, _, _, h => h
  | _ :: _, _, _, _, h => by
    unfold Device.landLines
    dsimp only
    split
    · exact h
    · rename_i e; exact landLines (h.writeLine.of_ok e)

theorem land (h : Keeps d₀ d) : Keeps d₀ (d.land p cls k c) := by
  unfold Device.land
  dsimp only
  split
  · exact h.landLines.modCtx.freePacket
  · exact h.landLines.modCtx.memFault.refuse

theorem arriveData (h : Keeps d₀ d) (hh : Keeps d₀ held) : Keeps d₀ (d.arriveData held p cls k c) := by
  unfold Device.arriveData
  split
  · exact h.refuse
  · exact .ite h.refuse (.ite h.modCtx.refuse (.ite h.refuse (.ite h.refuse (.ite hh h.land))))

theorem takeReduction (h : Keeps d₀ d) (hh : Keeps d₀ held) : Keeps d₀ (d.takeReduction held p cls k c r n t) :=
  .ite (.ite hh (.ite h.freePacket.modFd h.freePacket.takeDown)) h.freePart.modFd

theorem arriveReduction (h : Keeps d₀ d) (hh : Keeps d₀ held) : Keeps d₀ (d.arriveReduction held p cls k c) := by
  unfold Device.arriveReduction
  split
  · exact h.refuse
  · dsimp only
    refine .ite h.refuse (.ite h.refuse (.ite h.refuse (.ite h.refuse (.ite h.refuse (.ite h.refuse ?_)))))
    split
    · exact h.refuse
    · exact .ite h.modFd.modFd.refuse (h.modFd.takeReduction hh)

theorem arrive {body : Device → Context → Device} (h : Keeps d₀ d) (hb : ∀ d c, Keeps d₀ d → Keeps d₀ (body d c)) :
    Keeps d₀ (d.arrive held p cls k body) := by
  unfold Device.arrive
  split
  · exact h.refuse
  · split
    · exact h.refuse
    · exact .ite h.refuse (hb _ _ h)

theorem packetArrival (h : Keeps d₀ d) : Keeps d₀ (d.packetArrival p k) := by
  unfold Device.packetArrival
  split
  · exact h
  · rename_i hx
    exact .ite h (arrive (h.takePacket hx) fun _ _ h1 => .ite (h1.arriveReduction h) (h1.arriveData h))

theorem messageLanded {slot : CtxSlot} {pos stream : Nat} {mseq : BitVec 32} (h : Keeps d₀ d) :
    Keeps d₀ (d.messageLanded slot pos stream mseq) := by
  unfold Device.messageLanded
  split
  · exact h
  · split
    · exact h
    · split
      · exact h
      · exact .ite h (.ite h.modCtx.modCourse h.modCtx)

/-! ### Sending and control packets (R343 to R356) -/

theorem sendDepart {slot : CtxSlot} {pos stream : Nat} (h : Keeps d₀ d) : Keeps d₀ (d.sendDepart slot pos stream) := by
  unfold Device.sendDepart
  split
  · exact h
  · split
    · exact h
    · split
      · exact h
      · split
        · exact h
        · split
          · exact h
          · refine .ite h ?_
            dsimp only
            split
            · exact h.modCtx.sendLines
            · split
              · exact h.eccRun.memFault
              · exact h.eccRun.modCtx.sendLines

theorem controlPacket {code kind : Nat} {body : Device → Fin 5 → Device} (h : Keeps d₀ d) (hb : ∀ d cls, Keeps d₀ d → Keeps d₀ (body d cls)) :
    Keeps d₀ (d.controlPacket p k code kind body) := by
  unfold Device.controlPacket
  split
  · exact h
  · rename_i hx
    refine .ite h ?_
    split
    · exact refuse (h.takePacket hx)
    · exact hb _ _ (h.takePacket hx)

theorem fabricNak (h : Keeps d₀ d) : Keeps d₀ (d.fabricNak c p k) := h.event

theorem stopStream (h : Keeps d₀ d) : Keeps d₀ (d.stopStream c p k) := by
  unfold Device.stopStream
  dsimp only
  refine .ite h.modCtx.modPort ?_
  split
  · exact h.modCtx.modPort
  · exact h

theorem peerGone (h : Keeps d₀ d) : Keeps d₀ (d.peerGone c p k) := by
  unfold Device.peerGone
  split
  · exact h
  · split
    · exact h
    · exact .ite h h.modFd.event

theorem resendTree (h : Keeps d₀ d) : Keeps d₀ (d.resendTree c k) := by
  unfold Device.resendTree
  split
  · exact h
  · split
    · exact h
    · extract_lets n again
      have ha {level : Nat} {down : Bool} {ls : List (Nat × List Byte)} {d : Device} (h : Keeps d₀ d) : Keeps d₀ (again level down ls d) := by
        unfold again
        split
        · exact h
        · exact h.modPort
      exact .ite (ha h) (h.foldl fun _ _ h => .ite (ha h) h)

theorem nakAction (h : Keeps d₀ d) : Keeps d₀ (d.nakAction c p k) := by
  unfold Device.nakAction
  refine .ite (.ite h.resendTree ?_) (.ite h.peerGone (.ite h.fabricNak h.stopStream.fabricNak))
  split
  · exact h.modCtx
  · exact h

theorem nakArrival (h : Keeps d₀ d) : Keeps d₀ (d.nakArrival p k) :=
  h.controlPacket fun _ _ h => by
    split
    · exact h.refuse
    · exact .ite h.refuse h.nakAction.freePacket

theorem mcreditArrival (h : Keeps d₀ d) : Keeps d₀ (d.mcreditArrival p k) :=
  h.controlPacket fun _ _ h => by
    split
    · exact h.refuse
    · refine .ite h.refuse ?_
      split
      · exact h.refuse
      · exact h.modCtx.freePacket

theorem pingArrival (h : Keeps d₀ d) : Keeps d₀ (d.pingArrival p k) :=
  h.controlPacket fun _ _ h => .ite h.refuse h.freePacket.modPort.sendLines

theorem echoArrival (h : Keeps d₀ d) : Keeps d₀ (d.echoArrival p k) :=
  h.controlPacket fun _ _ h => .ite h.refuse (.ite h.freePacket h.modPort)

/-! ### Reduction descriptors (R303, R325 to R331) -/

variable {tk : Taken} {slot : CtxSlot}

theorem reduceConfig (h : Keeps d₀ d) : Keeps d₀ (d.reduceConfig c tk) := by
  unfold Device.reduceConfig
  split
  · exact h.answer
  · exact .ite h.answer h.modCtx.answer

theorem fenceTry (h : Keeps d₀ d) : Keeps d₀ (d.fenceTry c tk) := .ite h.modCtx.answer h

theorem fenceComplete (h : Keeps d₀ d) : Keeps d₀ (d.fenceComplete slot) := by
  unfold Device.fenceComplete
  split
  · exact h
  · split
    · exact h
    · exact .ite h.fenceTry h

theorem abortBucket {b : Bucket} (h : Keeps d₀ d) : Keeps d₀ (d.abortBucket c cd b) := by
  unfold Device.abortBucket
  split
  · exact h.modLadle
  · extract_lets t
    split
    · split
      rename_i e; exact (h.treeCounts.of_eq e).endBucket
    · split
      rename_i e; exact (h.logDigest.of_eq e).modLadle

theorem clearStreams (h : Keeps d₀ d) : Keeps d₀ (d.clearStreams c) := by unfold Device.clearStreams; exact h.modArc

theorem abortBuckets (h : Keeps d₀ d) : Keeps d₀ (d.abortBuckets c) :=
  clearStreams (h.foldl fun _ _ h => h.foldl fun _ _ h => h.abortBucket)

theorem freeTag (h : Keeps d₀ d) : Keeps d₀ (d.freeTag c n t) :=
  h.foldl fun _ _ h => by
    split
    · exact h.foldl fun _ _ h => h.freeUp
    · exact h

theorem endTags {code : Nat} (h : Keeps d₀ d) : Keeps d₀ (d.endTags c code) := by
  unfold Device.endTags
  split
  · exact h
  · exact modFd (h.foldl fun _ _ h => h.freeTag)

theorem reduceAbort (h : Keeps d₀ d) : Keeps d₀ (d.reduceAbort c tk) :=
  answer (.ite h.modCtx.endTags.abortBuckets h.modCtx.endTags)

theorem reduceDigest (h : Keeps d₀ d) : Keeps d₀ (d.reduceDigest c tk) := by
  unfold Device.reduceDigest
  extract_lets step bucket rec'
  split
  · rename_i e; exact (h.hdWrite.of_eq e).answer
  · rename_i e; exact (h.hdWrite.of_eq e).answerFault

end
end Keeps
end Sys2Proof.Safety
end

section
/-! SUPPORT. Soundness kept by dumps, by saving and restoring contexts, and by resets of contexts. -/

namespace Sys2Proof.Safety

set_option Elab.async false

open Sys2Proof Sys2Proof.Machine Sys2Proof.Laws

/-! ### Dies put away and brought back (R383 to R388) -/

theorem getLadle_wf {d : Device} {dom : Fin 64} {base : Nat} {bs : List Bucket} : (d.getLadle dom base bs).wf 0 = true :=
  foldl_keeps (r := fun m : Memory => m.wf 0 = true) (fun _ _ hm => memPlace_wf hm ..) _ rfl

theorem dieOk_fresh : DieOk {} := ⟨rfl, rfl⟩

theorem DieOk.stopPoint {x : Die} {cond : Cond} (h : DieOk x) : DieOk (x.stopPoint cond) := ⟨h.1, h.2⟩

theorem planDie_dieOk {img : Option (List Byte)} {pos : Nat} : DieOk (planDie img pos) := by
  unfold planDie
  split
  · exact dieOk_fresh
  · dsimp only
    split
    · exact ⟨posStore_wf, rfl⟩
    · exact dieOk_fresh

theorem DieOk.restore {kept base : Die} {valid wslots : Nat} {sec : Nat → Memory} (hb : DieOk base) (hs : (sec 11).wf 0 = true) :
    DieOk (kept.restore base valid wslots sec) := by
  unfold Die.restore
  refine ⟨?_, ?_⟩
  · dsimp only
    split
    · exact memPlace_wf hb.1 ..
    · exact hb.1
  · dsimp only
    split
    · dsimp only
      split
      · exact hs
      · rfl
    · exact hb.2

theorem loadedDie_dieOk {d : Device} {c : Context} {img : Option (List Byte)} {pos : Nat} : DieOk (d.loadedDie c img pos) := by
  unfold Device.loadedDie
  dsimp only
  split
  · exact dieOk_fresh
  · exact planDie_dieOk.restore getLadle_wf

namespace Keeps
section
variable {d₀ d : Device} {c : Context} {cd : Cd} {slot : CtxSlot} {t : Taken} {dom : Fin 64} {base : Nat}

/-! ### Dumps (R414, R459) -/

theorem readUnit {i : BitVec 16} (h : Keeps d₀ d) : Keeps d₀ (d.readUnit i).2 := by
  unfold Device.readUnit
  dsimp only
  split
  · exact h
  · split
    · exact h
    · split
      · exact h.draw
      · exact h

theorem readUnits (h : Keeps d₀ d) : Keeps d₀ d.readUnits.2 :=
  foldl_keeps (r := fun y : List UnitRead × Device => Keeps d₀ y.2) (fun _ _ h => h.readUnit) _ h

theorem newDump {p12 : Bool} {reason : Nat} {ctx : BitVec 16} (h : Keeps d₀ d) : Keeps d₀ (d.newDump p12 reason ctx).2.2 := by
  unfold Device.newDump
  split
  rename_i e
  have h1 : Keeps d₀ _ := h.readUnits.of_eq_snd e
  exact h1.frame

theorem autoDump {reason : Nat} {ctx : BitVec 16} (h : Keeps d₀ d) : Keeps d₀ (d.autoDump reason ctx) := by
  unfold Device.autoDump
  split
  · split
    rename_i d1 e
    have h1 : Keeps d₀ d1 := by
      have h2 := h.newDump (p12 := true) (reason := reason) (ctx := ctx)
      rwa [e] at h2
    exact h1.frame
  · exact h

theorem deliver {bs : List Byte} {n : Nat} {taken : Device} (h : Keeps d₀ d) (ht : Keeps d₀ taken) : Keeps d₀ (d.deliver t bs n taken) := by
  unfold Device.deliver
  dsimp only
  refine .ite h.finish ?_
  split
  · rename_i e; exact (h.adminWrite.of_eq e).answerErr
  · exact finish (adminWrite (by exact ht.frame))

theorem dumpTake (h : Keeps d₀ d) : Keeps d₀ (d.dumpTake t) := by
  unfold Device.dumpTake
  extract_lets flags
  split
  · split
    · exact h.answer
    · exact h.deliver h.frame
  · split
    rename_i d1 e
    refine h.deliver ?_
    have h1 := h.newDump (p12 := bits flags 0 0 == 1) (reason := 0) (ctx := 0)
    rwa [e] at h1

theorem unitUnread {u : UnitFailure} (h : Keeps d₀ d) : Keeps d₀ (d.unitUnread u) :=
  .ite h (.ite (.ite h h.frame) (.ite h h.frame))

/-! ### Save areas (R381 to R388) -/

theorem putSect {j : Nat} {cells : Memory} (h : Keeps d₀ d) : Keeps d₀ (d.putSect dom base j cells) := h.writeBlock
theorem freeSect {j : Nat} (h : Keeps d₀ d) : Keeps d₀ (d.freeSect dom base j) := h.drawBytes.putSect

theorem eccRange {a n : Nat} (h : Keeps d₀ d) : Keeps d₀ (d.eccRange a n) := by
  unfold Device.eccRange
  extract_lets d1
  have h1 : Keeps d₀ d1 := h.foldl fun _ _ h => h.eccOf
  split
  · exact h1.eccOf
  · exact h1

theorem putLadle {k : Ladle} (h : Keeps d₀ d) : Keeps d₀ (d.putLadle dom base k) := h.foldl fun _ _ h => h.writeBlock
theorem putSram (h : Keeps d₀ d) : Keeps d₀ (d.putSram dom base c cd) := h.foldl fun _ _ h => h.writeBlock

theorem saveDie {pos gen : Nat} {x : Die} (h : Keeps d₀ d) : Keeps d₀ (d.saveDie c dom base pos gen cd x) := by
  unfold Device.saveDie
  extract_lets d1 d2 d3 d4 d5 d6 d7 d8 d9 d10
  have h6 : Keeps d₀ d6 := h.putSect.putSect.putSect.putSect.putSect.freeSect
  have h7 : Keeps d₀ d7 := .ite h6 h6.freeSect
  have h8 : Keeps d₀ d8 := h7.freeSect
  have h9 : Keeps d₀ d9 := .ite h8.freeSect h8
  exact h9.freeSect.putLadle.putSram.writeAs

theorem getSram (h : Keeps d₀ d) : Keeps d₀ (d.getSram dom base c cd) :=
  h.foldl fun _ _ h => h.modMem fun _ hm => memPlace_wf hm ..

/-! ### Contexts created, saved and restored (R377 to R389) -/

theorem putHeaders {f : Nat → List Byte} (h : Keeps d₀ d) : Keeps d₀ (d.putHeaders c f) := h.foldl fun _ _ h => h.writeAs

theorem noteIntervals (h : Keeps d₀ d) : Keeps d₀ (d.noteIntervals c) := by unfold Device.noteIntervals; exact h.frame

/-- A context more, of which nothing is kept beside its save areas. -/
theorem addContext {g : List Gone} (h : Keeps d₀ d) (hc : c.saved = none) : Keeps d₀ { d with ctxs := d.ctxs ++ [c], gone := g } := by
  refine ⟨fun h0 => ?_, h.2⟩
  obtain ⟨h1, h2, h3, h4, h5⟩ := h.1 h0
  refine ⟨h1, h2, fun x hx => ?_, h4, h5⟩
  rcases List.mem_append.1 hx with hx | hx
  · exact h3 x hx
  · rw [List.mem_singleton.1 hx]
    intro ds hds
    rw [hc] at hds
    cases hds

/-- Fewer contexts. -/
theorem dropContexts {f : Context → Bool} (h : Keeps d₀ d) : Keeps d₀ { d with ctxs := d.ctxs.filter f } := by
  refine ⟨fun h0 => ?_, h.2⟩
  obtain ⟨h1, h2, h3, h4, h5⟩ := h.1 h0
  exact ⟨h1, h2, fun x hx => h3 x (List.mem_of_mem_filter hx), h4, h5⟩

theorem create {n : NewContext} {gs : List (BitVec 128)} (h : Keeps d₀ d) : Keeps d₀ (d.create n gs) := by
  unfold Device.create
  extract_lets resident c d1 d2 d3
  have h1 : Keeps d₀ d1 := noteIntervals (h.addContext rfl)
  have h2 : Keeps d₀ d2 := .ite (h1.modMem fun _ hm => takeEntries_wf _ hm) h1
  exact h2.writeAs.putHeaders

theorem contextCreate (h : Keeps d₀ d) : Keeps d₀ (d.contextCreate t) := by
  unfold Device.contextCreate
  dsimp only
  split
  · exact h.answer
  · split
    · exact h.answerErr
    · split
      · exact h.answerErr
      · split
        · exact h.answer
        · exact h.create.answer

theorem zeroDies (h : Keeps d₀ d) : Keeps d₀ (d.zeroDies c) := h.modArc fun _ _ _ _ => dieOk_fresh
theorem switchFault {line done : Nat} {write : Bool} (h : Keeps d₀ d) : Keeps d₀ (d.switchFault c line done write).1 := h.fault

theorem saveDies (h : Keeps d₀ d) : Keeps d₀ (d.saveDies c) := by
  unfold Device.saveDies
  extract_lets dies c1 d1
  have h1 : Keeps d₀ d1 := h.foldl fun _ _ h => h.saveDie
  refine zeroDies (h1.modCtx fun h0 _ _ => ?_)
  intro ds hds x hx
  obtain ⟨-, hd, -, -, -⟩ := h.1 h0
  obtain rfl := Option.mem_some.1 hds
  obtain ⟨cd, -, rfl⟩ := List.mem_map.1 hx
  exact (hd cd).stopPoint

theorem saveContext (h : Keeps d₀ d) : Keeps d₀ (d.saveContext c).1 := by
  unfold Device.saveContext
  extract_lets d1
  have h1 : Keeps d₀ d1 := h.foldl fun _ _ h => h.busFlush
  split
  · exact h1.saveDies
  · exact h1.switchFault.saveDies

theorem loadDies {img : Option (List Byte)} (h : Keeps d₀ d) : Keeps d₀ (d.loadDies c img) := h.modArc fun _ _ _ _ => loadedDie_dieOk

theorem loadSram (h : Keeps d₀ d) : Keeps d₀ (d.loadSram c) := h.foldl fun _ _ h => .ite h.getSram h

/-- A context that is rewritten to keep nothing beside its save areas. -/
theorem modCtxUnsaved {f : Context → Context} (h : Keeps d₀ d) (hf : ∀ c, (f c).saved = none) : Keeps d₀ (d.modCtx slot f) :=
  h.modCtx fun _ c _ ds hds => by
    rw [hf] at hds
    cases hds

theorem resumeIssue (h : Keeps d₀ d) : Keeps d₀ (d.resumeIssue c) :=
  .ite h.resumeTree (.ite h.resumeTree.modCtx h.resumeTree.resumeRun)

theorem restoreContext (h : Keeps d₀ d) : Keeps d₀ (d.restoreContext c).1 := by
  unfold Device.restoreContext
  split
  · exact (h.eccRange.modCtxUnsaved fun _ => rfl).switchFault
  · split
    · exact h.modCtxUnsaved fun _ => rfl
    · extract_lets reads saved d1 d2 img c1 d3 d4
      have h1 : Keeps d₀ d1 := h.foldl fun _ _ h => h.eccRange
      have h2 : Keeps d₀ d2 := (h1.modMem fun _ hm => takeEntries_wf _ hm).loadSram
      have h3 : Keeps d₀ d3 := h2.loadDies.modCtxUnsaved fun _ => rfl
      have h4 : Keeps d₀ d4 := .ite h3.abortBuckets h3
      split
      · exact h4.switchFault
      · split
        · exact h4.fault
        · exact h4.resumeIssue

theorem switchAnswer {code : Nat} {r : Option ErrRec} (h : Keeps d₀ d) : Keeps d₀ (d.switchAnswer t code r) := by
  unfold Device.switchAnswer
  split
  · exact h.answer
  · exact h.finish

theorem switchGo {o i : Option Context} (h : Keeps d₀ d) : Keeps d₀ (d.switchGo t o i) := by
  unfold Device.switchGo
  split
  rename_i d1 r e
  have h1 : Keeps d₀ d1 := by
    split at e
    · exact h.saveContext.of_eq e
    · exact of_eq h e
  extract_lets d2
  have h2 : Keeps d₀ d2 := h1.frame
  split
  · exact h2.switchAnswer
  · exact h2.restoreContext.switchAnswer

theorem switchBegin {o : Option Context} {out inn : BitVec 16} (h : Keeps d₀ d) : Keeps d₀ (d.switchBegin t o out inn) := by
  unfold Device.switchBegin
  split
  · exact h
  · extract_lets d1 d2
    have h1 : Keeps d₀ d1 := h.frame
    exact .ite h1.modCtx.sendPause h1.modCtx

theorem contextSwitch (h : Keeps d₀ d) : Keeps d₀ (d.contextSwitch t) := by
  unfold Device.contextSwitch
  extract_lets out inn
  split
  · exact h.answer
  · split
    · exact h
    · extract_lets d1
      have h1 : Keeps d₀ d1 := .ite h h.switchBegin
      split
      · exact .ite h1.switchGo h1
      · exact h1.switchGo

theorem pauseExpiry (h : Keeps d₀ d) : Keeps d₀ (d.pauseExpiry slot) := by
  unfold Device.pauseExpiry
  split
  · exact .ite h.modCtx h
  · exact h

/-! ### Contexts destroyed and reset (R389, R456 to R459) -/

theorem leaveFabric (h : Keeps d₀ d) : Keeps d₀ (d.leaveFabric c) := by
  unfold Device.leaveFabric
  extract_lets d1
  have h1 : Keeps d₀ d1 := h.endTags.releaseCredit.modCtx
  clear_value d1
  exact h1.frame

theorem contextDestroy (h : Keeps d₀ d) : Keeps d₀ (d.contextDestroy t) := by
  unfold Device.contextDestroy
  split
  · exact h.answer
  · refine .ite h.answer ?_
    extract_lets d1 d2
    have h2 : Keeps d₀ d2 := .ite h.leaveFabric.zeroDies h.leaveFabric
    exact h2.dropContexts.answer

theorem resetCox (h : Keeps d₀ d) : Keeps d₀ (d.resetCox c cd) := by
  unfold Device.resetCox
  extract_lets d1 x r dump d2
  have h1 : Keeps d₀ d1 := h.busFlush
  have h2 : Keeps d₀ d2 := modDie h1.frame
  refine .ite h1 ?_
  split
  · exact h2
  · exact h2.putRecord

theorem resetRings (h : Keeps d₀ d) : Keeps d₀ (d.resetRings c) := by
  unfold Device.resetRings
  extract_lets id d1 d2
  have h1 : Keeps d₀ d1 := by
    unfold d1
    split
    · exact .ite h.onRing h
    · exact h
  have h2 : Keeps d₀ d2 := by
    unfold d2
    split
    · exact h1.onRing
    · exact h1
  exact h2.onRing

theorem resetEnd {forced : Nat} {start : BitVec 64} (h : Keeps d₀ d) : Keeps d₀ (d.resetEnd c t forced start) := by
  unfold Device.resetEnd
  extract_lets d1 line
  have h1 : Keeps d₀ d1 := h.resetRings.modCtxUnsaved fun _ => rfl
  exact finish (by exact h1.frame)

theorem resetSaved (h : Keeps d₀ d) (hc : MemoriesOk d₀ → ContextOk c) : Keeps d₀ (d.resetSaved c t) := by
  unfold Device.resetSaved
  extract_lets c1 d1
  have h1 : Keeps d₀ d1 := by unfold d1; exact h.leaveFabric.putHeaders
  have h2 : Keeps d₀ (d1.modCtx c.slot fun _ => c1) := h1.modCtx fun h0 _ _ => hc h0
  clear_value d1
  exact h2.resetEnd

theorem resetBegin (h : Keeps d₀ d) : Keeps d₀ (d.resetBegin c t) := by
  unfold Device.resetBegin
  extract_lets d1 d2 d3
  have h2 : Keeps d₀ d2 := h.leaveFabric.autoDump.foldl fun _ _ h => h.resetCox.closeGroup
  have h3 : Keeps d₀ d3 := h2.modArc
  clear_value d3
  exact h3.frame

theorem contextReset (h : Keeps d₀ d) : Keeps d₀ (d.contextReset t) := by
  unfold Device.contextReset
  refine .ite h ?_
  split
  · exact h.answer
  · rename_i hc
    exact .ite h.resetBegin (h.resetSaved (h.contextOk_of_find hc))

theorem resetIncomplete {r : Resetting} {i : BitVec 16} (h : Keeps d₀ d) : Keeps d₀ (d.resetIncomplete r c t i) :=
  finish (modCtx (by exact h.frame))

theorem resetStep (h : Keeps d₀ d) : Keeps d₀ d.resetStep := by
  unfold Device.resetStep
  split
  · refine .ite ?_ h
    split
    · exact h.zeroDies.resetEnd
    · exact h.resetIncomplete
    · exact h
  · exact h

theorem resetAck {i : BitVec 16} (h : Keeps d₀ d) : Keeps d₀ (d.resetAck i) := by
  unfold Device.resetAck
  split
  · exact h
  · exact .ite (resetStep (by exact h.frame)) h

theorem resetTimeout (h : Keeps d₀ d) : Keeps d₀ d.resetTimeout := by
  unfold Device.resetTimeout
  split
  · exact h
  · exact .ite h (resetStep (by exact h.frame))

theorem forcedRelease {i : BitVec 16} (h : Keeps d₀ d) : Keeps d₀ (d.forcedRelease i) := by
  unfold Device.forcedRelease
  split
  · exact h
  · exact .ite (resetStep (restart (by exact h.frame))) h

end
end Keeps
end Sys2Proof.Safety
end

section
/-! SUPPORT. Soundness kept by the rows and strokes of a Cox, register accesses, security descriptors and the flash. -/

namespace Sys2Proof.Safety

set_option Elab.async false

open Sys2Proof Sys2Proof.Machine Sys2Proof.Laws

/-! ### The scalar rows (R134) -/

/-- A scalar row keeps soundness wherever it runs. -/
def ScalarKeeps (f : Scalar) : Prop := ∀ {w : Slot0} {c : Context} {cd : Cd} {d₀ d : Device}, Keeps d₀ d → Keeps d₀ (f w c cd d).1

@[simp] theorem onCox_keeps (f : Slot0 → Cox → Cox) : ScalarKeeps (onCox f) := fun h => h.modCox
@[simp] theorem stopWith_keeps (code : Nat) (dpa : Option Nat) (detail : Nat) : ScalarKeeps (stopWith code dpa detail) := fun h => h.coxFault
@[simp] theorem stopLocal_keeps (code a : Nat) : ScalarKeeps (stopLocal code a) := fun h => h.coxFault

@[simp] theorem opRdc_keeps : ScalarKeeps opRdc := by
  intro w c cd d₀ d h
  unfold opRdc
  split
  · exact h.modCox
  · exact stopWith_keeps _ _ _ h

@[simp] theorem opLd_keeps (n : Nat) (f : Nat → BitVec 64) : ScalarKeeps (opLd n f) := by
  intro w c cd d₀ d h
  unfold opLd
  extract_lets x a
  split
  · exact stopWith_keeps _ _ _ h
  · split
    · exact stopLocal_keeps _ _ h
    · exact h.modCox

@[simp] theorem opSt_keeps (n : Nat) : ScalarKeeps (opSt n) := by
  intro w c cd d₀ d h
  unfold opSt
  extract_lets x a
  split
  · exact stopWith_keeps _ _ _ h
  · split
    · exact stopLocal_keeps _ _ h
    · exact h.modDie fun _ _ hx => ⟨memStore_wf hx.1, hx.2⟩

@[simp] theorem opLdd_keeps (n : Nat) : ScalarKeeps (opLdd n) := by
  intro w c cd d₀ d h
  unfold opLdd
  extract_lets k a
  split
  · exact stopWith_keeps _ _ _ h
  · split
    · exact h.coxFault
    · split
      · exact h.modCox
      · exact h.modCox

@[simp] theorem opStd_keeps (n : Nat) : ScalarKeeps (opStd n) := by
  intro w c cd d₀ d h
  unfold opStd
  extract_lets k a
  split
  · exact stopWith_keeps _ _ _ h
  · split
    · exact h.coxFault
    · exact h.writeAs.modCox

@[simp] theorem opLddBus_keeps (n : Nat) : ScalarKeeps (opLddBus n) := by
  intro w c cd d₀ d h
  unfold opLddBus
  extract_lets k a
  split
  · exact stopWith_keeps _ _ _ h
  · split
    · exact h.coxFault
    · exact h.modCox

@[simp] theorem opStdBus_keeps (n : Nat) : ScalarKeeps (opStdBus n) := by
  intro w c cd d₀ d h
  unfold opStdBus
  extract_lets k a
  split
  · exact stopWith_keeps _ _ _ h
  · split
    · exact h.coxFault
    · exact h.modCox

@[simp] theorem opBr_keeps : ScalarKeeps opBr := by
  intro w c cd d₀ d h
  unfold opBr
  extract_lets t
  split
  · exact h.modCox
  · exact stopWith_keeps _ _ _ h

@[simp] theorem opCall_keeps : ScalarKeeps opCall := by
  intro w c cd d₀ d h
  unfold opCall
  extract_lets k k1 t
  split
  · exact h.modCox
  · exact stopWith_keeps _ _ _ h

@[simp] theorem opDbnz_keeps : ScalarKeeps opDbnz := by
  intro w c cd d₀ d h
  unfold opDbnz
  extract_lets k k1 t
  split
  · exact stopWith_keeps _ _ _ h
  · split
    · exact h.modCox
    · split
      · exact h.modCox
      · exact stopWith_keeps _ _ _ h

@[simp] theorem opTrap_keeps : ScalarKeeps opTrap := fun h => h.coxFault

@[simp] theorem opSelWord_keeps : ScalarKeeps opSelWord := by
  intro w c cd d₀ d h
  unfold opSelWord
  split
  · exact stopWith_keeps _ _ _ h
  · exact onCox_keeps _ h

/-- Every row of the scalar table is one of those above. -/
theorem scalarOf_keeps {op : Nat} {w : Slot0} : ∀ y ∈ scalarOf op w, ScalarKeeps y.1 := by
  unfold scalarOf
  dsimp only
  split <;> simp

/-! ### Strokes (R127 to R141) -/

theorem DieOk.place {x : Die} {n : Nat} {p : Present} (h : DieOk x) : DieOk (x.place n p) := ⟨h.1, h.2⟩

namespace Keeps
section
variable {d₀ d : Device} {c : Context} {cd : Cd} {t : Taken}

theorem scalar {w : Slot0} {f : Scalar} (h : Keeps d₀ d) (hf : ScalarKeeps f) : Keeps d₀ (d.scalar cd w f) := by
  unfold Device.scalar
  split
  · exact h
  · exact .ite (hf h) h

theorem coxCycle (h : Keeps d₀ d) : Keeps d₀ (d.coxCycle c cd) := by
  unfold Device.coxCycle
  extract_lets x k pc hw word w go sc d1 run after ps ready rds branched
  have hsc : ∀ y ∈ sc, ScalarKeeps y.1 := scalarOf_keeps
  clear_value sc
  have hrun : Keeps d₀ run.1 := by
    unfold run
    split
    · exact h.modCox
    · split
      · rename_i f y
        exact hsc (f, y) rfl h.modCox
      · exact stopWith_keeps _ _ _ h
  clear_value run
  split
  · split
    · exact .ite h h.modCox
    · exact h
  · split
    · split
      · exact h.modCox
      · exact h.coxFault
    · split
      · exact h.modCox
      · refine .ite hrun (hrun.modDie fun _ _ hx => ?_)
        exact DieOk.foldl (f := fun z p => z.place hw p) hx fun _ _ hz => hz.place

theorem strokeIssue (h : Keeps d₀ d) : Keeps d₀ (d.strokeIssue cd) := by
  unfold Device.strokeIssue
  split
  · exact h
  · exact .ite h (.ite h.busFlush.modCox (.ite h h.busUntil.coxCycle))

theorem lddError (h : Keeps d₀ d) : Keeps d₀ (d.lddError cd) := by
  unfold Device.lddError
  split
  · exact h
  · split
    · exact h
    · dsimp only
      split
      · exact h.fault
      · exact h.fault.coxStop

theorem runComplete (h : Keeps d₀ d) : Keeps d₀ (d.runComplete cd) := by
  unfold Device.runComplete
  split
  · exact h
  · refine .ite h ?_
    split
    · exact .ite h.coxStop h
    · exact h.coxStop

theorem faultReaches (h : Keeps d₀ d) : Keeps d₀ (d.faultReaches cd) := by
  unfold Device.faultReaches
  split
  · exact h
  · dsimp only
    split
    · exact h
    · exact .ite h.modDie h.modDie.coxStop

theorem planStall (h : Keeps d₀ d) : Keeps d₀ (d.planStall cd) := by
  unfold Device.planStall
  split
  · exact h
  · exact .ite h.modCox.event h

/-! ### Registers (R469 to R486) -/

theorem setLatch_flash {r : HdRegs} {p : RegPath} {l : Option (BitVec 32 × BitVec 32)} :
    (r.setLatch p l).flash = r.flash ∧ (r.setLatch p l).flashBuf = r.flashBuf := by cases p <;> exact ⟨rfl, rfl⟩

theorem setLatch {p : RegPath} {l : Option (BitVec 32 × BitVec 32)} (h : Keeps d₀ d) : Keeps d₀ { d with hd := d.hd.setLatch p l } :=
  h.frame (hf := setLatch_flash.1) (hg := setLatch_flash.2)

theorem useLatch {a : RegAccess} (h : Keeps d₀ d) : Keeps d₀ { d with hd := d.hd.useLatch a } := by
  unfold HdRegs.useLatch
  split
  · exact h.setLatch
  · exact h

theorem setRead {p : RegPath} {l : Option (BitVec 32 × BitVec 32)} {v : Nat} (h : Keeps d₀ d) :
    Keeps d₀ { d with hd := d.hd.setRead p l v } := by
  cases p with
  | driver => exact h.frame
  | board => exact h.frame
  | image => exact h.frame

theorem regTake {a : RegAccess} {r : Reg} {v : Nat} {act : Device → Reg → Nat → Device} (h : Keeps d₀ d)
    (ha : ∀ d r v, Keeps d₀ d → Keeps d₀ (act d r v)) : Keeps d₀ (d.regTake a r v act) := .ite h.useLatch.stray (ha _ _ _ h.useLatch)

theorem regRow {a : RegAccess} {strays : Bool} {own : Reg → Option Nat → Bool} {act : Device → Reg → Nat → Device} (h : Keeps d₀ d)
    (ha : ∀ d r v, Keeps d₀ d → Keeps d₀ (act d r v)) : Keeps d₀ (d.regRow a strays own act) := by
  unfold Device.regRow
  split
  · exact h
  · exact .ite h.stray h
  · exact .ite h.setLatch h
  · exact .ite (h.regTake ha) h

theorem readAccess {a : RegAccess} (h : Keeps d₀ d) : Keeps d₀ (d.readAccess a) := by
  unfold Device.readAccess
  dsimp only
  refine .ite h (.ite h.setRead (.ite h.setRead (.ite h.setRead ?_)))
  split
  · exact .ite h.setRead h.setRead
  · exact h.setRead

theorem adminErr {code : Nat} (h : Keeps d₀ d) : Keeps d₀ (d.adminErr code) := h.frame
theorem adminBlk {v : Nat} (h : Keeps d₀ d) : Keeps d₀ (d.adminBlk v) := by unfold Device.adminBlk; exact h.frame

theorem bindAdmin {r : RingSet} (h : Keeps d₀ d) : Keeps d₀ (d.bindAdmin r) := by
  unfold Device.bindAdmin
  extract_lets d1 d2
  have h1 : Keeps d₀ d1 := openRing h.frame
  have h2 : Keeps d₀ d2 := h1.foldl fun _ _ h => h.event
  clear_value d2
  exact h2.frame

theorem adminBind {v : Nat} (h : Keeps d₀ d) : Keeps d₀ (d.adminBind v) := by
  unfold Device.adminBind
  extract_lets d1 a
  have h1 : Keeps d₀ d1 := h.adminBlk
  refine .ite h.adminErr (.ite h.adminErr ?_)
  split
  · exact h1.report.adminErr
  · split
    · exact h1.adminErr
    · exact h1.bindAdmin.adminErr

theorem adminResume {v : Nat} (h : Keeps d₀ d) : Keeps d₀ (d.adminResume v) :=
  .ite h.adminErr (.ite h.adminBlk.onRing.adminErr h.adminBlk.adminErr)

theorem putLoop {j : Fin 18} {v : Nat} (h : Keeps d₀ d) : Keeps d₀ (d.putLoop j v) := .ite h.applyLoop h.stray

theorem writeLoop {r : Reg} {v : Nat} (h : Keeps d₀ d) : Keeps d₀ (d.writeLoop r v) := by
  unfold Device.writeLoop
  split
  · exact h.putLoop
  · exact h

theorem writeBudget {r : Reg} {v : Nat} (h : Keeps d₀ d) : Keeps d₀ (d.writeBudget r v) := by
  unfold Device.writeBudget
  split
  · exact .ite h.powerRest h.stray
  · exact h

theorem setPortEn {f : Fin 2} {v : Nat} (h : Keeps d₀ d) : Keeps d₀ (d.setPortEn f v) := by
  unfold Device.setPortEn
  dsimp only
  exact h.frame

theorem writePortEn {r : Reg} {v : Nat} (h : Keeps d₀ d) : Keeps d₀ (d.writePortEn r v) := by
  unfold Device.writePortEn
  split
  · exact h.setPortEn
  · exact h

theorem clearCounter {r : Reg} (h : Keeps d₀ d) : Keeps d₀ (d.clearCounter r) := by
  unfold Device.clearCounter
  split
  · exact h.frame
  · exact h.modCport
  · exact h.modLpc
  · exact h.modLpc
  · exact h.modPort
  · exact h.modPort
  · exact h.modPort
  · exact h.modPort
  · exact h

theorem writeCounter {r : Reg} {v : Nat} (h : Keeps d₀ d) : Keeps d₀ (d.writeCounter r v) := .ite h.clearCounter h.stray

theorem writeOther {r : Reg} {v : Nat} (h : Keeps d₀ d) : Keeps d₀ (d.writeOther r v) := by
  cases r with
  | status => exact h.frame
  | adminRing => exact h.adminBlk
  | adminSeq => exact h.frame
  | dumpCfg => exact h.frame
  | cpThr _ _ => exact h.modCport
  | lpThr _ _ => exact h.modLpc
  | trainThr _ => exact h.modPort
  | flashBuf _ => exact h.flash (fun ⟨_, _, _, hf, _⟩ => hf) fun ⟨_, _, _, _, hg⟩ => memStore_wf hg
  | flashCmd => exact .ite h.frame (.ite h h.stray)
  | _ => exact h

/-! ### Security (R390 to R437) -/

theorem boatRecord {code detail : Nat} (h : Keeps d₀ d) : Keeps d₀ (d.boatRecord code detail) := by
  unfold Device.boatRecord
  extract_lets r d1
  have h1 : Keeps d₀ d1 := h.logErr
  clear_value d1
  exact .ite h.report (.ite h1.frame h1)

theorem secure {body : Device → Taken → Device} (h : Keeps d₀ d) (hb : ∀ d t, Keeps d₀ d → Keeps d₀ (body d t)) : Keeps d₀ (d.secure t body) :=
  .ite h.answer (hb _ _ h)

theorem entropyFail {test : BitVec 8} (h : Keeps d₀ d) : Keeps d₀ (d.entropyFail test) := by
  unfold Device.entropyFail
  refine .ite h ?_
  extract_lets boat d1
  have h1 : Keeps d₀ d1 := boatRecord h.frame
  exact .ite (cause h1.frame) h1

theorem attest (h : Keeps d₀ d) : Keeps d₀ (d.attest t) := by
  unfold Device.attest
  extract_lets size a
  refine .ite h.finish ?_
  split
  rename_i e1
  extract_lets index boat d2 body pair boat' d3
  have h1 : Keeps d₀ _ := h.drawRandom.of_eq_snd e1
  have h2 : Keeps d₀ d2 := h1.frame
  have h3 : Keeps d₀ d3 := h2.frame
  split
  · rename_i e; exact (h3.adminWrite.of_eq e).answerErr
  · rename_i e; exact (h3.adminWrite.of_eq e).finish

theorem installRelease {dom : Fin 64} {m : List Byte} {key : BitVec 256} {ws : List Window} (h : Keeps d₀ d) :
    Keeps d₀ (d.installRelease dom m key ws) := by unfold Device.installRelease; exact h.frame

theorem releasePackages {dom : Fin 64} {m list : List Byte} {key : BitVec 256} (h : Keeps d₀ d) :
    Keeps d₀ (d.releasePackages t dom m list key) := by
  unfold Device.releasePackages
  split
  · exact h.answerErr
  · exact h.finish
  · exact .ite h.answer h.installRelease.finish

theorem releaseKey {dom : Fin 64} {m list : List Byte} (h : Keeps d₀ d) : Keeps d₀ (d.releaseKey t dom m list) := by
  unfold Device.releaseKey
  split
  · split
    · exact h.releasePackages
    · exact h.answer
  · split
    · exact h.answer
    · extract_lets boat d1
      have h1 : Keeps d₀ d1 := h.frame
      refine .ite h1.answer ?_
      split
      · exact h1.answer
      · exact h1.releasePackages

theorem keyRelease (h : Keeps d₀ d) : Keeps d₀ (d.keyRelease t) := by
  unfold Device.keyRelease
  dsimp only
  refine .ite h.answer (.ite h.answer (.ite h.answer ?_))
  split
  · exact h.answerErr
  · split
    · exact h.answerErr
    · exact .ite h.answer (.ite h.answer h.releaseKey)

theorem freePages_wf {m : Mem} {dom : Fin 64} (h : m.bytes.wf 0 = true) : (m.freePages dom).1.bytes.wf 0 = true :=
  foldl_keeps (r := fun m : Mem => m.bytes.wf 0 = true) (fun _ _ hm => takePage_wf hm) _ h

theorem scrub_wf {m : Mem} {key : Nat} {pages : List Nat} (h : m.bytes.wf 0 = true) : (m.scrub key pages).bytes.wf 0 = true := filter_wf _ h

theorem domainRelease (h : Keeps d₀ d) : Keeps d₀ (d.domainRelease t) := by
  unfold Device.domainRelease
  dsimp only
  refine .ite h.answer (.ite h.answer (.ite h.answer (finish ?_)))
  exact h.bytes fun hm => scrub_wf (freePages_wf hm.1)

theorem openDebug {jtag : Bool} (h : Keeps d₀ d) : Keeps d₀ (d.openDebug jtag) := by
  unfold Device.openDebug
  refine ⟨fun h0 => ?_, h.2⟩
  obtain ⟨hb, -, hc, hf, hg⟩ := h.1 h0
  refine ⟨memClear_wf hb .., fun cd => ?_, hc, hf, hg⟩
  have hx : (Vector.replicate 16 ({} : Die))[cd] = {} := by simp
  show DieOk (Vector.replicate 16 ({} : Die))[cd]
  rw [hx]
  exact dieOk_fresh

theorem debugUnlock (h : Keeps d₀ d) : Keeps d₀ (d.debugUnlock t) := by
  unfold Device.debugUnlock
  dsimp only
  refine .ite h.answer (.ite h.answer ?_)
  split
  · exact h.answerErr
  · exact .ite h.answer h.openDebug.finish

/-! ### The flash (R463, R474) -/

theorem flashStart {op addr : Nat} (h : Keeps d₀ d) : Keeps d₀ (d.flashStart op addr) := by
  unfold Device.flashStart
  dsimp only
  exact .ite (stray h.frame) (.ite h.frame (.ite h.frame h.frame))

theorem writeFlash {v : Nat} (h : Keeps d₀ d) : Keeps d₀ (d.writeFlash v) := h.flashStart

theorem drawBytes_hd {n : Nat} {bs : List Byte} {e : Device} (he : d.drawBytes n = (bs, e)) : e.hd = d.hd := by
  have h1 : (d.drawBytes n).2.hd = d.hd := rfl
  rwa [he] at h1

theorem putFlashBuf {bs : List Byte} (h : Keeps d₀ d) : Keeps d₀ { d with hd := { d.hd with flashBuf := memStore 0 [] 0 bs } } :=
  h.flash (fun ⟨_, _, _, hf, _⟩ => hf) fun _ => memStore_wf rfl

theorem putFlash {a : Nat} {bs : List Byte} (h : Keeps d₀ d) : Keeps d₀ { d with hd := { d.hd with flash := memStore 0xFF d.hd.flash a bs } } :=
  h.flash (fun ⟨_, _, _, hf, _⟩ => memStore_wf hf) fun ⟨_, _, _, _, hg⟩ => hg

theorem clearFlash {lo hi : Nat} (h : Keeps d₀ d) : Keeps d₀ { d with hd := { d.hd with flash := memClear d.hd.flash lo hi } } :=
  h.flash (fun ⟨_, _, _, hf, _⟩ => filter_wf _ hf) fun ⟨_, _, _, _, hg⟩ => hg

theorem flashDo {op addr : Nat} (h : Keeps d₀ d) : Keeps d₀ (d.flashDo op addr) := by
  unfold Device.flashDo
  extract_lets r page
  refine .ite (.ite ?_ h.putFlashBuf) (.ite h.putFlash h.clearFlash)
  split
  rename_i e
  have h1 : Keeps d₀ _ := h.drawBytes.of_eq_snd e
  unfold r
  rw [← drawBytes_hd e]
  exact h1.putFlashBuf

theorem flashFail {op addr : Nat} (h : Keeps d₀ d) : Keeps d₀ (d.flashFail op addr) := by
  unfold Device.flashFail
  split
  rename_i e
  have h1 : Keeps d₀ _ := h.drawBytes.of_eq_snd e
  exact .ite h1.putFlashBuf h1.putFlash

theorem flashEnd {ok : Bool} (h : Keeps d₀ d) : Keeps d₀ (d.flashEnd ok) := by
  unfold Device.flashEnd
  extract_lets op addr d1
  have h1 : Keeps d₀ d1 := .ite h.flashDo h.flashFail
  clear_value d1
  exact .ite h h1.frame

end
end Keeps
end Sys2Proof.Safety
end

section
/-! SUPPORT. Soundness kept by the Mixer. -/

namespace Sys2Proof.Safety

set_option Elab.async false

open Sys2Proof Sys2Proof.Machine Sys2Proof.Laws

/-- A Mixer step, which leaves a device whether it ends or faults, is sound; `f` picks the device of its result. -/
def MixKeeps {α : Type} (d₀ : Device) (f : α → Device) (x : Except Device α) : Prop := Ends (Keeps d₀) (fun a => Keeps d₀ (f a)) x

theorem MixKeeps.bind {α β : Type} {d₀ : Device} {f : α → Device} {g : β → Device} {x : Except Device α} {k : α → Except Device β}
    (h : MixKeeps d₀ f x) (hk : ∀ a, Keeps d₀ (f a) → MixKeeps d₀ g (k a)) : MixKeeps d₀ g (x >>= k) := Ends.bind h hk

theorem MixKeeps.map {α β : Type} {d₀ : Device} {f : α → Device} {g : β → Device} {x : Except Device α} {k : α → β}
    (h : MixKeeps d₀ f x) (hk : ∀ a, Keeps d₀ (f a) → Keeps d₀ (g (k a))) : MixKeeps d₀ g (x.map k) := Ends.map h hk

theorem MixKeeps.ite {α : Type} {d₀ : Device} {f : α → Device} {x y : Except Device α} {p : Prop} {_ : Decidable p} (hx : MixKeeps d₀ f x)
    (hy : MixKeeps d₀ f y) : MixKeeps d₀ f (if p then x else y) := by
  split
  · exact hx
  · exact hy

namespace Keeps
section
variable {d₀ d : Device} {c : Context} {cd : Cd} {e : QEntry}

/-! ### Reads, writes and items (R242, R254 to R272) -/

theorem mixerErr {code detail : Nat} (h : Keeps d₀ d) : Keeps d₀ (d.mixerErr c cd code detail) := h.fault

theorem mixRead {item done a n : Nat} (h : Keeps d₀ d) : MixKeeps d₀ Prod.snd (d.mixRead c cd item done a n) := by
  unfold Device.mixRead
  dsimp only
  split
  · exact h.eccRun
  · exact h.eccRun.memFault

theorem mixWrite {item done a : Nat} {bs : List Byte} (h : Keeps d₀ d) : MixKeeps d₀ id (d.mixWrite c cd item done a bs) := by
  unfold Device.mixWrite
  split
  · rename_i e; exact (h.putBytes.of_eq e : Keeps d₀ _)
  · rename_i e; exact (h.putBytes.of_eq e).memFault

theorem mixBody {item handle i : Nat} (h : Keeps d₀ d) : MixKeeps d₀ id (d.mixBody c cd item handle i) := by
  unfold Device.mixBody
  dsimp only
  split
  · exact h.eccReads.memFault
  · exact (h.eccReads : Keeps d₀ _)

theorem mixCommit {item : Nat} (h : Keeps d₀ d) : MixKeeps d₀ Prod.snd (d.mixCommit c cd item) := by
  unfold Device.mixCommit
  dsimp only
  split
  · exact h.eccPlain.memFault
  · exact h.eccPlain

theorem mixRun {stop : Bool} {f : Device → Nat → Nat → Except Device (Device × Nat × Option Nat)}
    (hf : ∀ d i b, Keeps d₀ d → MixKeeps d₀ Prod.fst (f d i b)) : ∀ {k i b : Nat} {x : Device × Nat}, Keeps d₀ x.1 →
    MixKeeps d₀ Prod.fst (mixRun stop f k i b x)
  | 0, _, _, _, h => h
  | k + 1, i, b, (d, n), h => by
    unfold Machine.mixRun
    split
    · rename_i e1; exact (hf _ _ _ h).of_error e1
    · rename_i e1; exact ((hf _ _ _ h).of_ok e1 :)
    · rename_i e1
      have h1 : Keeps d₀ _ := (hf _ _ _ h).of_ok e1
      exact MixKeeps.ite h1 (mixRun hf h1)

theorem mixAnswer {s : Nat → Nat} {x : Except Device (Device × Nat × Option (Nat × Nat))} (h : MixKeeps d₀ Prod.fst x) :
    EngineKeeps d₀ (mixAnswer e s x) := by
  unfold Machine.mixAnswer
  split
  · exact h
  · exact h
  · exact h

theorem mixItemsRun {total : Nat} {s : Nat → Nat} {f : Device → Nat → Nat → Except Device (Device × Nat × Option Nat)} (h : Keeps d₀ d)
    (hf : ∀ d i b, Keeps d₀ d → MixKeeps d₀ Prod.fst (f d i b)) : EngineKeeps d₀ (d.mixItemsRun c e total s f) := mixAnswer (mixRun hf h)

theorem mixPut {item : Nat} : ∀ {ls : List MixLine} {n : Nat} {d : Device}, Keeps d₀ d → MixKeeps d₀ id (d.mixPut c cd item ls n)
  | [], _, _, h => h
  | _ :: _, _, _, h => by
    unfold Device.mixPut
    split
    · exact h.eccOf.memFault
    · split
      · exact h.memFault
      · rename_i e; exact mixPut (h.putBytes.of_eq e)

theorem eccGood {a n : Nat} (h : Keeps d₀ d) : Keeps d₀ (d.eccGood c cd a n) :=
  .ite h (h.foldl fun _ _ h => by
    dsimp only
    split
    · exact h.eccOf
    · exact h)

theorem mixMove {item : Nat} {runs : List (Nat × Nat)} {ls : List MixLine} {n : Nat} (h : Keeps d₀ d) :
    MixKeeps d₀ id (d.mixMove c cd item runs ls n) := by
  unfold Device.mixMove
  extract_lets d1
  have h1 : Keeps d₀ d1 := h.foldl fun _ _ h => h.eccGood
  split
  · exact h1.mixPut
  · exact h1.mixPut

theorem mixNote {ms : List (Option Meet)} (h : Keeps d₀ d) : Keeps d₀ (d.mixNote cd ms) := h.modDie

/-! ### Merged tiles (R242 to R247) -/

theorem buildOne {m : BuildCmd} {i : Nat} (h : Keeps d₀ d) : MixKeeps d₀ id (d.buildOne c cd m i) := by
  unfold Device.buildOne
  extract_lets
  exact h.mixMove.map fun _ h => h.mixNote

theorem buildEngine (h : Keeps d₀ d) : EngineKeeps d₀ (buildEngine cd d c e) := by
  unfold Machine.buildEngine
  extract_lets x m
  have h1 : EngineKeeps d₀ (d.mixItemsRun c e m.tiles (fun _ => 1) fun d i _ => (d.buildOne c cd m i).map fun d1 => (d1, 0, none)) :=
    h.mixItemsRun fun _ _ _ h => h.buildOne.map fun _ h => h
  clear_value m
  exact .ite trivial (.ite trivial (.ite h.mixerErr h1))

theorem feedOne {i : Nat} (h : Keeps d₀ d) : MixKeeps d₀ id (d.feedOne c cd e i) := by
  unfold Device.feedOne
  dsimp only
  refine h.mixRead.bind ?_
  rintro ⟨list, d1⟩ h1
  dsimp only
  split
  · exact h1.mixerErr
  · refine MixKeeps.bind (f := fun y => y.2.2) (Ends.foldlM (fun y a h => ?_) _ h1) ?_
    · exact MixKeeps.bind (f := Prod.snd) h.mixRead fun _ h => h
    · rintro ⟨blocks, _, d2⟩ h2
      exact h2.modDie fun _ _ hx => hx.modMa.modQueue

theorem feedTiles {tiles : Nat} : ∀ {n i : Nat} {d : Device}, Keeps d₀ d → MixKeeps d₀ Prod.fst (Device.feedTiles c cd e tiles n i d)
  | 0, _, _, h => h
  | n + 1, _, _, h => by
    unfold Device.feedTiles
    refine .ite h (.ite h (.ite h ?_))
    split
    · rename_i e1; exact h.feedOne.of_error e1
    · rename_i e1; exact feedTiles (h.feedOne.of_ok e1)

theorem feedEngine (h : Keeps d₀ d) : EngineKeeps d₀ (feedEngine cd d c e) := by
  unfold Machine.feedEngine
  extract_lets x
  refine .ite trivial ?_
  split
  · rename_i e1; exact h.feedTiles.of_error e1
  · rename_i e1; exact (h.feedTiles.of_ok e1 :)

theorem feedOn (h : Keeps d₀ d) : Keeps d₀ (d.feedOn c cd e) := by
  unfold Device.feedOn
  split
  · rename_i e1; exact (h.feedTiles.of_error e1 : Keeps d₀ _).modDie
  · rename_i e1
    have h1 : Keeps d₀ _ := h.feedTiles.of_ok e1
    exact .ite h1.modDie h1

theorem mergeFeed (h : Keeps d₀ d) : Keeps d₀ (d.mergeFeed cd) := by
  unfold Device.mergeFeed
  dsimp only
  split
  · exact .ite h h.feedOn
  · exact h.startHead fun _ _ => h.feedEngine

/-! ### Updates (R254 to R268) -/

variable {u : UItem} {i : Nat}

theorem readSection {item a n : Nat} (h : Keeps d₀ d) : MixKeeps d₀ Prod.snd (d.readSection c cd item a n) := by
  unfold Device.readSection
  refine h.mixRead.bind ?_
  rintro ⟨m, d1⟩ h1
  exact h1.mixRead.bind fun _ h => h

theorem logAppend {t : Nat} {skipped : Bool} (h : Keeps d₀ d) : MixKeeps d₀ id (d.logAppend c cd i t u skipped) := by
  unfold Device.logAppend
  refine h.mixCommit.bind ?_
  rintro ⟨cl, d1⟩ h1
  dsimp only
  refine h1.mixRead.bind ?_
  rintro ⟨hd, d2⟩ h2
  dsimp only
  refine .ite h2.mixerErr (h2.mixRead.bind ?_)
  rintro ⟨l, d3⟩ h3
  exact h3.mixWrite.bind fun _ h => h.mixWrite

theorem updateBank {mode rmode t kappa b : Nat} {hy : Hyper} {m : Masters} (h : Keeps d₀ d) :
    MixKeeps d₀ Prod.fst (d.updateBank c cd mode rmode i t kappa b hy u m) := by
  unfold Device.updateBank
  extract_lets
  split
  split
  split
  extract_lets
  exact h.mixMove.map fun _ h => h.mixNote.normItem

theorem skipNorm {kappa : Nat} (h : Keeps d₀ d) : MixKeeps d₀ id (d.skipNorm c cd i kappa u) := by
  unfold Device.skipNorm
  split
  · exact h
  · exact h.readSection.bind fun _ h => h.normItem

theorem touch {n : Nat} (h : Keeps d₀ d) : Keeps d₀ (d.touch cd n) := h.modDie

theorem updateItem {mode rmode t b : Nat} {hy : Hyper} (h : Keeps d₀ d) :
    MixKeeps d₀ Prod.fst (d.updateItem c cd mode rmode t i b hy u) := by
  unfold Device.updateItem
  refine h.mixRead.bind ?_
  rintro ⟨hb, d1⟩ h1
  dsimp -zeta only
  extract_lets m
  refine h1.mixBody.bind fun d2 h2 => ?_
  replace h2 : Keeps d₀ d2 := h2
  split
  · exact h2.mixerErr
  · extract_lets kappa first begun update start
    have hu : ∀ d, Keeps d₀ d → MixKeeps d₀ Prod.fst (update d) := fun d h =>
      h.updateBank.bind fun _ h => .ite h (h.mixWrite.bind fun _ h => h.touch)
    have hs : ∀ y, Keeps d₀ y.2 → MixKeeps d₀ Prod.fst (start y) := fun y h =>
      .ite (.ite (h.logAppend.bind fun _ h => h.mixWrite.bind fun _ h => h.touch.skipNorm.bind fun _ h => h) (h.skipNorm.bind fun _ h => h))
        (.ite (h.logAppend.bind hu) (hu _ h))
    exact .ite (h2.mixRead.bind hs) (hs _ h2)

theorem updateEngine {mode : Nat} (h : Keeps d₀ d) : EngineKeeps d₀ (updateEngine cd mode d c e) := by
  unfold Machine.updateEngine
  extract_lets x rmode
  refine .ite trivial ?_
  split
  · rename_i e1; exact h.mixRead.of_error e1
  · rename_i e1
    have h1 : Keeps d₀ _ := h.mixRead.of_ok e1
    extract_lets hy
    refine .ite h1.mixerErr ?_
    split
    · exact h1.mixerErr
    · exact h1.mixItemsRun fun _ _ _ h => h.mixRead.bind fun _ h => h.updateItem

/-! ### Inits and refreshes (R269 to R272) -/

theorem initItem {opt b : Nat} {last : Bool} (h : Keeps d₀ d) : MixKeeps d₀ Prod.fst (d.initItem c cd opt i b last u) := by
  unfold Device.initItem
  split
  · exact h.mixerErr
  · extract_lets
    split
    extract_lets
    exact h.mixMove.bind fun _ h => .ite h.mixNote (.ite (h.mixNote.mixWrite.bind fun _ h => h) h.mixNote)

theorem refreshItem {t b : Nat} (h : Keeps d₀ d) : MixKeeps d₀ Prod.fst (d.refreshItem c cd t i b u) := by
  unfold Device.refreshItem
  refine h.mixRead.bind ?_
  rintro ⟨hb, d1⟩ h1
  dsimp -zeta only
  extract_lets m
  refine h1.mixBody.bind fun d2 h2 => ?_
  replace h2 : Keeps d₀ d2 := h2
  split
  · exact h2.mixerErr
  · extract_lets
    exact h2.mixMove.bind fun _ h => h.mixNote

theorem initEngine (h : Keeps d₀ d) : EngineKeeps d₀ (initEngine cd d c e) := by
  unfold Machine.initEngine
  extract_lets x
  exact .ite trivial (h.mixItemsRun fun _ _ _ h => h.mixRead.bind fun _ h => h.mixBody.bind fun _ h => h.initItem)

theorem refreshEngine (h : Keeps d₀ d) : EngineKeeps d₀ (refreshEngine cd d c e) := by
  unfold Machine.refreshEngine
  extract_lets x
  exact .ite trivial (h.mixItemsRun fun _ _ _ h => h.mixRead.bind fun _ h => h.refreshItem)

end
end Keeps
end Sys2Proof.Safety
end

section
/-! SUPPORT. Soundness kept by routes, the Scales unit, the sideband, startup and module reset. -/

namespace Sys2Proof.Safety

set_option Elab.async false

open Sys2Proof Sys2Proof.Machine Sys2Proof.Laws

namespace Keeps
section
variable {d₀ d : Device} {c : Context} {cd : Cd} {e : QEntry} {t : Taken}

/-! ### Routes (R344) -/

theorem bindRoutes {rs : List (Nat × Nat × Nat)} (h : Keeps d₀ d) : Keeps d₀ (d.bindRoutes c rs) := by
  unfold Device.bindRoutes
  extract_lets d1
  have h1 : Keeps d₀ d1 := h.modCtx
  clear_value d1
  exact h1.frame

theorem fabricRoute (h : Keeps d₀ d) : Keeps d₀ (d.fabricRoute c t) := by
  unfold Device.fabricRoute
  extract_lets n id
  refine .ite h.answer ?_
  split
  · exact h.answerFault
  · exact .ite h.answer h.bindRoutes.answer

/-! ### The Scales unit (R280 to R297) -/

theorem scalesErr {code detail : Nat} (h : Keeps d₀ d) : Keeps d₀ (d.scalesErr c cd code detail) := h.fault

theorem tapNormEngine (h : Keeps d₀ d) : EngineKeeps d₀ (tapNormEngine cd d c e) := by
  unfold Machine.tapNormEngine
  extract_lets x area cap
  exact .ite trivial (.ite h.scalesErr h.modDie)

theorem tapScalesEngine (h : Keeps d₀ d) : EngineKeeps d₀ (tapScalesEngine cd d c e) := by
  unfold Machine.tapScalesEngine
  extract_lets x acc n
  exact .ite trivial (h.modDie fun _ _ hx => hx.foldl fun _ _ hx => hx.modMa)

theorem tapSieveEngine (h : Keeps d₀ d) : EngineKeeps d₀ (tapSieveEngine cd d c e) := by
  unfold Machine.tapSieveEngine
  extract_lets x
  exact .ite trivial h.modDie

theorem reportEngine (h : Keeps d₀ d) : EngineKeeps d₀ (reportEngine cd d c e) := by
  unfold Machine.reportEngine
  extract_lets x dst raised
  refine .ite trivial (.ite h.scalesErr ?_)
  split
  · rename_i e1; exact (h.putBytes.of_eq e1).memFault
  · rename_i e1; exact (h.putBytes.of_eq e1).modDie

theorem sieveCompare (h : Keeps d₀ d) : Keeps d₀ (d.sieveCompare cd) := by
  unfold Device.sieveCompare
  split
  · exact h
  · extract_lets v
    refine .ite h ?_
    split
    · exact h
    · split
      · exact h
      · exact .ite h.modDie.event h.modDie

/-! ### Sideband (R465 to R467) -/

theorem onI3c {f : I3c → I3c} (h : Keeps d₀ d) : Keeps d₀ (d.onI3c f) := .ite h.frame h

/-! ### Startup (R456 to R463) -/

theorem fwRecord {slot : Nat} (h : Keeps d₀ d) : Keeps d₀ (d.fwRecord slot) := by
  unfold Device.fwRecord
  split
  · exact h.boatRecord
  · exact h

theorem startFail {code : BitVec 3} {arg : BitVec 8} (h : Keeps d₀ d) : Keeps d₀ (d.startFail code arg) := cause h.frame

theorem drawBoot (h : Keeps d₀ d) : Keeps d₀ d.drawBoot := by
  unfold Device.drawBoot
  split
  rename_i e
  have h1 : Keeps d₀ _ := h.drawRandom.of_eq_snd e
  exact h1.frame

theorem certArea (h : Keeps d₀ d) : Keeps d₀ d.certArea := by
  unfold Device.certArea
  split
  rename_i e
  have h1 : Keeps d₀ _ := h.draw.of_eq_snd e
  extract_lets bad boat d2
  have h2 : Keeps d₀ d2 := h1.frame
  exact .ite h2.boatRecord (.ite h2.boatRecord h2)

theorem bootFrom {slot : Nat} (h : Keeps d₀ d) : Keeps d₀ (d.bootFrom slot) := by
  unfold Device.bootFrom
  extract_lets d1 boat start d2
  have h1 : Keeps d₀ d1 := h.drawBoot
  have h2 : Keeps d₀ d2 := h1.frame
  exact h2.certArea

theorem firmware (h : Keeps d₀ d) : Keeps d₀ d.firmware := by
  unfold Device.firmware
  extract_lets d1
  have h1 : Keeps d₀ d1 := h.fwRecord.fwRecord
  split
  · exact h1.bootFrom
  · exact startFail (boatRecord h1.frame)

theorem firmwareBoot (h : Keeps d₀ d) : Keeps d₀ d.firmwareBoot := .ite h (.ite h.startFail h.firmware)

/-- The budgets apart, the power stage stays. -/
theorem setBudgets_powerOk {ns : List (Fin 16)} {w : Nat} {p : Pd} (h : PowerOk p) : PowerOk (ns.foldl (fun p n => p.setBudget n w) p) :=
  foldl_keeps (r := PowerOk) (f := fun p n => p.setBudget n w) (fun _ _ hp => hp) ns h

theorem fusedDefaults (h : Keeps d₀ d) : Keeps d₀ d.fusedDefaults := by
  unfold Device.fusedDefaults
  dsimp only
  exact h.power setBudgets_powerOk

theorem imageWrite {x : Nat × Nat} (h : Keeps d₀ d) : Keeps d₀ (d.imageWrite x) := by
  unfold Device.imageWrite
  split
  · exact h.putLoop
  · exact h.powerRest
  · exact h.setPortEn
  · exact h.writeOther
  · exact h

theorem zeroSram_wf {m : Mem} (h : m.bytes.wf 0 = true) : m.zeroSram.bytes.wf 0 = true := memClear_wf h ..

theorem endSetup (h : Keeps d₀ d) : Keeps d₀ d.endSetup := by
  unfold Device.endSetup
  exact h.bytes fun hm => zeroSram_wf hm.1

theorem setupFallback {why : Nat} (h : Keeps d₀ d) : Keeps d₀ (d.setupFallback why) := by
  unfold Device.setupFallback
  exact cause h.frame

theorem setupAccept {img : List Byte} {es : List (Nat × Nat)} (h : Keeps d₀ d) : Keeps d₀ (d.setupAccept img es) := by
  unfold Device.setupAccept
  extract_lets d1
  have h1 : Keeps d₀ d1 := h.foldl fun _ _ h => h.imageWrite
  clear_value d1
  exact h1.frame

theorem setupApply {ok : Bool} (h : Keeps d₀ d) : Keeps d₀ (d.setupApply ok) := by
  unfold Device.setupApply
  refine .ite h (endSetup ?_)
  extract_lets
  exact .ite h.fusedDefaults.setupAccept h.fusedDefaults.setupFallback

theorem trainFail {i : Fin 2} (h : Keeps d₀ d) : Keeps d₀ (d.trainFail cd i) := by
  unfold Device.trainFail
  split
  rename_i e
  have h1 : Keeps d₀ _ := h.draw.of_eq_snd e
  extract_lets arg d2
  have h2 : Keeps d₀ d2 := h1.logErr
  clear_value d2
  exact startFail h2.frame

theorem lpddrTrain {i : Fin 2} {ok : Bool} (h : Keeps d₀ d) : Keeps d₀ (d.lpddrTrain cd i ok) := by
  unfold Device.lpddrTrain
  refine .ite h (.ite h.trainFail ?_)
  extract_lets d1
  have h1 : Keeps d₀ d1 := h.modLpc
  exact .ite h1.frame h1

theorem memoryFilled (h : Keeps d₀ d) : Keeps d₀ d.memoryFilled := by
  unfold Device.memoryFilled
  refine .ite ?_ h
  exact h.bytes fun hm => memClear_wf hm.1 ..

theorem courseFail {l : List (BitVec 16)} {i : Fin 2} (h : Keeps d₀ d) : Keeps d₀ (d.courseFail l cd i) := by
  unfold Device.courseFail
  split
  rename_i e
  have h1 : Keeps d₀ _ := h.draw.of_eq_snd e
  extract_lets lat d2
  have h2 : Keeps d₀ d2 := h1.logErr
  clear_value d2
  exact startFail h2.frame

theorem courseUp {l : List (BitVec 16)} (h : Keeps d₀ d) : Keeps d₀ (d.courseUp l) := by
  unfold Device.courseUp
  refine .ite h ?_
  extract_lets d1
  have h1 : Keeps d₀ d1 := h.frame
  split
  · exact h1.frame
  · exact h1.courseFail

theorem startPorts (h : Keeps d₀ d) : Keeps d₀ d.startPorts := by unfold Device.startPorts; exact h.frame

theorem yalkenTrain {answered : Bool} (h : Keeps d₀ d) : Keeps d₀ (d.yalkenTrain answered) := by
  unfold Device.yalkenTrain
  refine .ite h ?_
  extract_lets d1
  have h1 : Keeps d₀ d1 := h.frame
  exact .ite h1.startPorts h1

theorem reachReady (h : Keeps d₀ d) : Keeps d₀ d.reachReady := by
  unfold Device.reachReady
  exact .ite (cause h.frame) h

theorem yalkenRetrain {up : Bool} (h : Keeps d₀ d) : Keeps d₀ (d.yalkenRetrain up) := by
  unfold Device.yalkenRetrain
  refine .ite h (.ite ?_ (.ite h.linkLost.frame h))
  extract_lets d1
  have h1 : Keeps d₀ d1 := foldl (by exact h.frame) fun _ _ h => h.landHeld
  exact h1.foldl fun _ _ h => h.companionAnswer

/-! ### Module reset (R459) -/

theorem flashCut (h : Keeps d₀ d) : Keeps d₀ d.flashCut := .ite h.flashFail h

theorem resetDies (h : Keeps d₀ d) : Keeps d₀ d.resetDies := by
  unfold Device.resetDies
  extract_lets d1 b
  have h1 : Keeps d₀ d1 := h.autoDump.flashCut
  clear_value d1
  refine ⟨fun h0 => ?_, h1.2⟩
  obtain ⟨hb, -, -, hf, -⟩ := h1.1 h0
  obtain ⟨-, hd, hc, -, -⟩ := memoriesOk_reset
  exact ⟨zeroSram_wf hb, hd, hc, hf, rfl⟩

theorem moduleReset {v : Nat} (h : Keeps d₀ d) : Keeps d₀ (d.moduleReset v) := by
  unfold Device.moduleReset
  exact .ite h.resetDies h.stray

end
end Keeps
end Sys2Proof.Safety
end

section
/-! Every memory stays canonical (O60): each command keeps soundness by the rule of its operation. -/

namespace Sys2Proof.Safety

set_option Elab.async false

open Sys2Proof Sys2Proof.Machine Sys2Proof.Laws

/-- What a command answers keeps soundness. -/
def AnswerKeeps (s : State) : Host.Outcome State Fault Refusal → Prop
  | .next t => Keeps s.dev t.dev
  | _ => True

theorem exec_keeps (c : Instr) (s : State) : AnswerKeeps s (exec c s) := by
  have h : Keeps s.dev s.dev := .refl _
  cases c
  -- the scalar rows
  case nopS | add | sub | mul | mulh | divu | remu | andS | orS | xorS | shl | shr | sha | min | max | clz | popc | li | lih | cmpeq | cmpne
      | cmplt | cmple | cmpltu | cmpleu | plog | movp | waitq | halt => exact h.scalar (onCox_keeps _)
  case sel => exact h.scalar opSelWord_keeps
  case rds => exact .ite h (h.scalar (onCox_keeps _))
  case rdc => exact h.scalar opRdc_keeps
  case ld64 | ld32 | ld32u | ld16u => exact h.scalar (opLd_keeps _ _)
  case st64 | st32 | st16 => exact h.scalar (opSt_keeps _)
  case ldd64 | ldd32u => exact h.scalar (opLdd_keeps _)
  case std64 | std32 | std16 => exact h.scalar (opStd_keeps _)
  case br => exact h.scalar opBr_keeps
  case call => exact h.scalar opCall_keeps
  case dbnz => exact h.scalar opDbnz_keeps
  case trap => exact h.scalar opTrap_keeps
  -- strokes
  case strokeIssue => exact h.strokeIssue
  case lddErrorResponse => exact h.lddError
  case runComplete => exact h.runComplete
  case faultReachesCox => exact h.faultReaches
  case planStall => exact h.planStall
  -- engines of a compute die
  case chunk => exact h.startHead fun _ _ => h.chunkEngine
  case lastChunkCommit => exact h.modDie fun _ _ hx => hx.modMa
  case readout => exact h.startHead fun _ _ => h.readoutEngine
  case whiskRun => exact h.startHead fun _ _ => h.whiskEngine
  case elemNop | elemMov | elemAdd | elemSub | elemMul | elemNeg | elemAbs | elemShl | elemShr | elemAnd | elemOr | elemXor | elemNot | elemClt
      | elemCle | elemCeq | elemSel | elemMax | elemMin | elemClz | ilg | luta | lutb | aln | toi | tof | nfc => exact h.element
  case tongsMove => exact h.startHead fun _ _ => h.moveEngine
  case weightin => exact h.startHead fun _ _ => h.weightinEngine
  case chunkTilePlace => exact h.placeChunk
  case mergeBuild => exact h.startHead fun _ _ => h.buildEngine
  case mergeFeed => exact h.mergeFeed
  case updateSgd | updateAdamw => exact h.startHead fun _ _ => h.updateEngine
  case updateInit => exact h.startHead fun _ _ => h.initEngine
  case updateRefresh => exact h.startHead fun _ _ => h.refreshEngine
  case accum => exact h.startHead fun _ _ => h.accumEngine
  case bucketOpen => exact h.startHead fun _ _ => h.openEngine
  case bucketClose => exact (h.startHead fun _ _ => h.closeEngine).ladleTurn
  case bucketComplete => exact h.bucketComplete
  case ladleLineDepart => exact h.lineDepart
  case ladlePayloadArrival => exact h.payloadArrival
  case upperTreeLineAdd => exact h.treeAdd
  case tapNorm => exact h.startHead fun _ _ => h.tapNormEngine
  case tapScales => exact h.startHead fun _ _ => h.tapScalesEngine
  case tapSieve => exact h.startHead fun _ _ => h.tapSieveEngine
  case sieveComparison => exact h.sieveCompare
  case report => exact h.startHead fun _ _ => h.reportEngine
  case sync => exact h.sync
  case commandCompletionPoint => exact h.commandCompletion
  case commandReleasePoint => exact h.releasePoint
  -- the Course and the memories
  case startMarker => exact h.startMarker
  case readySend => exact h.readySend
  case readyArrival => exact h.readyArrival
  case roundStart => exact h.roundStart
  case courseLineArrival => exact h.lineArrival
  case pauseArrival => exact h.pauseArrival
  case lpddrWheelServe => exact h.wheelServe
  case mr4Read => exact h.mr4Read
  case packageRecordVerify => exact h.packageVerify
  case companionTimeout => exact h.accessTimeout
  -- rings and descriptors
  case snpinv => exact h.snoop
  case doorbellWrite => exact h.doorbell
  case signalHoldoffExpiry => exact h.onRing
  case descriptorOpcodeRefused => exact h.refuseOpcode
  case runStart => exact h.runStart
  case planLoad => exact h.descriptor fun _ _ _ h _ => h.planLoad
  case planRun => exact h.descriptor fun _ _ _ h _ => h.planRun
  case stepCommit => exact h.descriptor fun _ _ _ h _ => h.stepCommit
  case segmentHalt => exact h.segmentHalt
  case stepRollback => exact h.descriptor fun _ _ _ h _ => h.stepRollback
  case lossScaleSet => exact h.descriptor fun _ _ _ h _ => h.lossScaleSet
  case adapterRegister => exact h.descriptor fun _ _ _ h _ => h.adapterRegister
  case adapterFetch => exact h.descriptor fun _ _ _ h _ => h.adapterFetch
  case adapterEvict => exact h.descriptor fun _ _ _ h _ => h.adapterEvict
  case adapterUnregister => exact h.descriptor fun _ _ _ h _ => h.adapterUnregister
  case adapterPolicy => exact h.descriptor fun _ _ _ h _ => h.adapterPolicy
  case slotBind => exact h.descriptor fun _ _ _ h _ => h.slotBind
  case slotRelease => exact h.descriptor fun _ _ _ h _ => h.slotRelease
  case reduceConfig => exact h.descriptor fun _ _ _ h _ => h.reduceConfig
  case reduceFence => exact h.descriptor fun _ _ _ h _ => h.fenceTry
  case reduceFenceComplete => exact h.fenceComplete
  case reduceAbort => exact h.descriptor fun _ _ _ h _ => h.reduceAbort
  case reduceDigest => exact h.descriptor fun _ _ _ h _ => h.reduceDigest
  case fabricRoute => exact h.descriptor fun _ _ _ h _ => h.fabricRoute
  case contextNop => exact h.descriptor fun _ _ _ h _ => h.answer
  case contextCreate => exact h.adminDescriptor fun _ _ h => h.contextCreate
  case contextDestroy => exact h.adminDescriptor fun _ _ h => h.contextDestroy
  case contextReset => exact h.adminDescriptor fun _ _ h => h.contextReset
  case unitResetAck => exact h.resetAck
  case resetAckTimeout => exact h.resetTimeout
  case forcedResetRelease => exact h.forcedRelease
  case contextSwitch => exact h.adminDescriptor fun _ _ h => h.contextSwitch
  case pauseLimitExpiry => exact h.pauseExpiry
  case ringBind => exact h.adminDescriptor fun _ _ h => h.ringBind
  case ringResume => exact h.adminDescriptor fun _ _ h => h.ringResumeOp
  case attest => exact h.adminDescriptor fun _ _ h => h.secure fun _ _ h => h.attest
  case keyRelease => exact h.adminDescriptor fun _ _ h => h.secure fun _ _ h => h.keyRelease
  case domainRelease => exact h.adminDescriptor fun _ _ h => h.secure fun _ _ h => h.domainRelease
  case debugUnlock => exact h.adminDescriptor fun _ _ h => h.secure fun _ _ h => h.debugUnlock
  case dumpTake => exact h.adminDescriptor fun _ _ h => h.dumpTake
  case unitReadTimeout => exact h.unitUnread
  case loopSet => exact h.adminDescriptor fun _ _ h => h.loopSet
  case adminNop => exact h.adminDescriptor fun _ _ h => h.answer
  -- registers, the flash and the sideband
  case adminRingBind => exact h.companionStores.regRow fun _ _ _ h => h.adminBind
  case adminRingResume => exact h.regRow fun _ _ _ h => h.adminResume
  case moduleReset => exact h.regRow fun _ _ _ h => h.moduleReset
  case flashRead | flashProgram | flashErase => exact h.regRow fun _ _ _ h => h.writeFlash
  case flashCommandDone => exact h.flashEnd
  case loopRegisterWrite => exact h.regRow fun _ _ _ h => h.writeLoop
  case budgetWrite => exact h.regRow fun _ _ _ h => h.writeBudget
  case portEnWrite => exact h.regRow fun _ _ _ h => h.writePortEn
  case counterClearWrite => exact h.regRow fun _ _ _ h => h.writeCounter
  case setupRegisterWrite => exact .ite h.readAccess (h.regRow fun _ _ _ h => h.writeOther)
  case setdasa | entdaa | rstdaa | enec | ibi => exact h.onI3c
  -- ports and packets
  case flitTransmit => exact h.transmit
  case flitReceive => exact h.receive
  case replayTimeout => exact h.replayTimeout
  case keepaliveTimeout => exact h.keepalive
  case portTrainingStep => exact h.trainStep
  case portTrainingTimeout => exact h.trainTimeout
  case backoffExpiry => exact h.backoffEnd
  case negotiationFlit => exact h.negotiate
  case equaliserAdapt => exact h.adapt
  case packetArrival => exact h.packetArrival
  case messageLanded => exact h.messageLanded
  case sendEntryDepart => exact h.sendDepart
  case nakArrival => exact h.nakArrival
  case mcredit => exact h.mcreditArrival
  case ping => exact h.pingArrival
  case echo => exact h.echoArrival
  -- power and startup
  case easyAllEntry => exact h.easyEntry
  case easyAllSignal => exact h.easySignal
  case easyAllExit => exact h.easyExit
  case overtemperatureShutdown => exact h.overtemperature
  case inputApplied => exact h.inputApplied
  case inputQualified => exact h.inputQualified
  case inputUndervoltage | inputOvervoltage => exact h.protect
  case inputRemoved => exact h.turnOff fun _ h => (Bool.false_ne_true h).elim
  case railPowerGood => exact h.railGood
  case railSequenceTimeout => exact h.railTimeout
  case sequenceRetry => exact h.sequenceRetry
  case entropyFail => exact h.entropyFail
  case firmwareBoot => exact h.firmwareBoot
  case setupImageApply => exact h.setupApply
  case lpddrTrain => exact h.lpddrTrain
  case memoryFillDone => exact h.memoryFilled
  case courseBringup => exact h.courseUp
  case yalkenTraining => exact h.yalkenTrain
  case readyReached => exact h.reachReady
  case yalkenLinkRetrain => exact h.yalkenRetrain
  case telemetrySample => exact h.telemetry

/-- A step keeps soundness: the command at the front of the queue does, and so does a reference period that passes. -/
theorem step_keeps {s t : State} (h : step s = .next t) : Keeps s.dev t.dev := by
  obtain ⟨d, pending⟩ := s
  cases pending with
  | nil =>
    rw [step_nil] at h
    cases h
    exact (Keeps.refl d).idle
  | cons c rest =>
    rw [step_cons] at h
    have hk := exec_keeps c { dev := d, pending := rest }
    rwa [h] at hk

/-- Settles O60: every operation of the model keeps the memories canonical (`exec_keeps`), since each of their writers leaves the form that it finds. -/
theorem everyStepKeepsTheMemoriesCanonical : Obligations.EveryStepKeepsTheMemoriesCanonical := by
  unfold Obligations.EveryStepKeepsTheMemoriesCanonical
  exact fun _ _ hm h => (step_keeps h).1 hm

end Sys2Proof.Safety
end

section
/-! SUPPORT. What a start and a stop point leave of a die and in the queue entry of their command (R153 to R156). -/

namespace Sys2Proof.Laws

set_option Elab.async false

open Sys2Proof Sys2Proof.Machine Sys2Proof.Safety

section
variable {x : Die} {q : QueueId} {e b : QEntry} {svals : List (Fin 16 × BitVec 64)} {done : Bool} {n : Nat}

/-- The links that a start takes leave the queues and the matrix arrays. -/
theorem linkStart_frame (x : Die) (e : QEntry) :
    (x.linkStart e).queues = x.queues ∧ (x.linkStart e).mas = x.mas ∧ (x.linkStart e).intRows = x.intRows := by
  unfold Die.linkStart Die.modLink
  split <;> split <;> exact ⟨rfl, rfl, rfl⟩

@[simp] theorem markStart_mas : (x.markStart q e svals done).mas = x.mas := by
  unfold Die.markStart
  split
  · rfl
  · exact (linkStart_frame x e).2.1

@[simp] theorem markStart_intRows : (x.markStart q e svals done).intRows = x.intRows := by
  unfold Die.markStart
  split
  · rfl
  · exact (linkStart_frame x e).2.2

@[simp] theorem markCut_mas : (x.markCut q e n svals).mas = x.mas := markStart_mas (q := q) (svals := svals) (done := false)

/-- An entry of a rewritten issue number is the rewriting of one that stood there. -/
theorem eq_of_mem_setEntry {l : List QEntry} {no : Nat} {f : QEntry → QEntry} (hb : b ∈ setEntry l no f) (hn : b.no = no) :
    ∃ a ∈ l, a.no = no ∧ b = f a := by
  obtain ⟨a, ha, rfl⟩ := List.mem_map.1 hb
  by_cases h : a.no = no
  · exact ⟨a, ha, h, if_pos h⟩
  · rw [if_neg h] at hn; exact absurd hn h

theorem modQueue_self (x : Die) (q : QueueId) (f : List QEntry → List QEntry) : (x.modQueue q f).queues[q] = f x.queues[q] := upd_self ..

theorem markStart_queue : (x.markStart q e svals done).queues[q]
    = setEntry x.queues[q] e.no fun a => { a with started := true, inputRead := done, done := done, cut := false, svals := svals } := by
  unfold Die.markStart
  rw [modQueue_self, apply_ite Die.queues, (linkStart_frame x e).1, ite_self]

/-- What a start leaves in the queue entry of its command. -/
theorem markStart_entry (hb : b ∈ (x.markStart q e svals done).queues[q]) (hn : b.no = e.no) :
    b.started = true ∧ b.done = done ∧ b.cut = false ∧ b.svals = svals := by
  rw [markStart_queue] at hb
  obtain ⟨a, -, -, rfl⟩ := eq_of_mem_setEntry hb hn
  exact ⟨rfl, rfl, rfl, rfl⟩

/-- A command that has run has started in its queue, with its last result as the engine says. -/
theorem startedIn_markStart {d : Device} {pending : List Instr} {cd : Cd} :
    StartedIn ⟨d.modDie cd fun x => x.markStart q e svals done, pending⟩ cd q e.no done := by
  intro b hb hn
  rw [modDie_self] at hb
  obtain ⟨hs, hd, -, -⟩ := markStart_entry hb hn
  exact ⟨hs, hd⟩

/-- What a stop point leaves in the queue entry of its command. -/
theorem markCut_entry (hb : b ∈ (x.markCut q e n svals).queues[q]) (hn : b.no = e.no) :
    b.started = true ∧ b.done = false ∧ b.cut = true := by
  unfold Die.markCut at hb
  rw [modQueue_self] at hb
  obtain ⟨a, ha, hno, rfl⟩ := eq_of_mem_setEntry hb hn
  obtain ⟨hs, hd, -, -⟩ := markStart_entry ha hno
  exact ⟨hs, hd, rfl⟩
end

end Sys2Proof.Laws
end

section
/-! SUPPORT. CHUNK (R57 to R73, R151): the sums of a chunk, and what a legal CHUNK does. -/

namespace Sys2Proof.Laws

set_option Elab.async false

open Sys2Proof Sys2Proof.Machine Sys2Proof.Safety

/-! ### Rows of memory -/

/-- Rows that can be read are as many as were asked for. -/
theorem readRows_length {d : Device} {c : Context} {cd : Cd} {r : Requester} : ∀ {l : List (Nat × Nat)} {n : Nat} {rows : List (List Byte)},
    d.readRows c cd r l n = .ok rows → rows.length = l.length
  | [], _, _, h => by cases h; rfl
  | (a, k) :: t, n, rows, h => by
    unfold Device.readRows at h
    split at h
    · cases h
    · split at h
      · cases h
      · rename_i hr
        cases h
        simp [readRows_length hr]

@[simp] theorem codesOf_length (f : Fmt) (bs : List Byte) (n : Nat) : (codesOf f bs n).length = n := by simp [codesOf]

/-! ### The sums of a chunk (R62, R66 to R68) -/

/-- An element of a chunk's sums takes the products of its row and column. -/
theorem chunkSums_getD {e0 : Int} {m k : Nat} {elems : List AccElem} {sta : Array Val} {rows : List (List Val)} {i j : Nat}
    (hi : i < m) (hj : j < 128) :
    (chunkSums e0 m k elems sta rows).1.getD (128 * i + j) {}
      = ((elems.getD (128 * i + j) {}).addChunk e0
          ((List.range k).map fun kk => ((rows.getD i []).getD kk (.fin false 0 0)).mul (sta.getD (128 * kk + j) (.fin false 0 0)))).1 := by
  have hn : 128 * i + j < m * 128 := by omega
  have hdiv : (128 * i + j) / 128 = i := by omega
  have hmod : (128 * i + j) % 128 = j := by omega
  have hrow : ((rows.map List.toArray).toArray).getD i #[] = (rows.getD i []).toArray := by
    simp [Array.getD_eq_getD_getElem?, List.getD_eq_getElem?_getD]
  simp only [chunkSums, List.getD_eq_getElem?_getD, List.getElem?_map, List.getElem?_range hn, Option.map_some, Option.getD_some, hdiv, hmod]
  rw [hrow]
  simp [Array.getD_eq_getD_getElem?, List.getD_eq_getElem?_getD, Nat.mul_comm]

/-- A streamed row decoded, read at a K index. -/
theorem decodedRow_getD {str : Fmt} {rows : List (List Byte)} {k i kk : Nat} (hi : i < rows.length) (hk : kk < k) :
    (((rows.map fun r => codesOf str r k).map fun r => r.map str.decode).getD i []).getD kk (.fin false 0 0)
      = str.decode ((codesOf str (rows.getD i []) k).getD kk 0) := by
  simp [List.getD_eq_getElem?_getD, hi, hk]

/-! ### CHUNK (R62, R72, R73, R151) -/

/-- The two halves of an operand pair byte (R58). -/
theorem bits_low_nibble (v : Nat) : bits v 3 0 = v % 16 := rfl
theorem bits_high_nibble (v : Nat) : bits v 7 4 = v / 16 % 16 := by
  rw [bits, Nat.shiftRight_eq_div_pow]; rfl

/-- The buffer that a CHUNK accumulates in: a first chunk takes the one that the last tile did not use (R73). -/
def chunkBuf (m : Ma) (cmd : ChunkCmd) : Fin 2 := if cmd.first then (if m.last = 0 then 1 else 0) else m.last

/-- A CHUNK that none of the checks of R85 refuses, and whose stationary tile and buffer are there for it. -/
structure LegalChunk (m : Ma) (cmd : ChunkCmd) (sta str : Fmt) (depth : Nat) (w : WTile) : Prop where
  sta_eq : fmtOf (cmd.pair % 16) = some sta
  str_eq : fmtOf (cmd.pair / 16 % 16) = some str
  depth_eq : pairDepth sta str = some depth
  k_pos : 1 ≤ cmd.k
  k_le : cmd.k ≤ depth
  k_q4 : sta = .q4 → cmd.k % 64 = 0
  tile : m.tileFor sta = some w
  takes : cmd.first = true → m.bufs[chunkBuf m cmd].state = 0
  goesOn : cmd.first = false → m.bufs[chunkBuf m cmd].state = 1 ∧ cmd.anchor = m.bufs[chunkBuf m cmd].anchor
    ∧ cmd.pair = m.bufs[chunkBuf m cmd].pair.toNat ∧ cmd.m = m.bufs[chunkBuf m cmd].rows.toNat + 1

section
variable {m : Ma} {cmd : ChunkCmd} {sta str : Fmt} {depth : Nat} {w : WTile}

/-- The check of the K rows lets a legal CHUNK pass. -/
theorem LegalChunk.k_ok (h : LegalChunk m cmd sta str depth w) : ¬(cmd.k = 0 ∨ depth < cmd.k ∨ (sta = .q4 ∧ cmd.k % 64 ≠ 0)) := by
  have h1 := h.k_pos
  have h2 := h.k_le
  rintro (h3 | h3 | ⟨h3, h4⟩)
  · omega
  · omega
  · exact h4 (h.k_q4 h3)

/-- The checks of the buffer let a legal CHUNK pass: its state before a first and before a later chunk, and its anchor, pair and rows. -/
theorem LegalChunk.buf_ok (h : LegalChunk m cmd sta str depth w) :
    let old := m.bufs[chunkBuf m cmd]
    (cmd.first && decide (old.state ≠ 0)) = false ∧ (!cmd.first && decide (old.state ≠ 1)) = false
      ∧ (!cmd.first && cmd.anchor != old.anchor) = false ∧ (!cmd.first && decide (cmd.pair ≠ old.pair.toNat)) = false
      ∧ (!cmd.first && decide (cmd.m ≠ old.rows.toNat + 1)) = false := by
  intro old
  cases hf : cmd.first with
  | true =>
    have h0 : old.state = 0 := h.takes hf
    simp [h0]
  | false =>
    obtain ⟨h1, h2, h3, h4⟩ : old.state = 1 ∧ cmd.anchor = old.anchor ∧ cmd.pair = old.pair.toNat
        ∧ cmd.m = old.rows.toNat + 1 := h.goesOn hf
    simp [h1, h2, h3, h4]
end

theorem samples_unarmed {x : Die} {ma : MaNo} (h : x.sieve.arms[ma] = none) : x.samples ma = none := by unfold Die.samples; rw [h]; rfl

theorem firstChunk_sample (v : Sieve) (ma : MaNo) (cmd : ChunkCmd) : (v.firstChunk ma cmd none).sample = v.sample := by
  unfold Sieve.firstChunk; split <;> rfl

/-- Nothing is captured while no tile is sampled. -/
theorem captureChunk_unsampled {d : Device} {c : Context} {cd : Cd} {ma : MaNo} {cmd : ChunkCmd} {w : WTile} {n : Nat} {str : Fmt}
    {codes : List (List Nat)} {p : Bool} (h : d.dies[cd].sieve.sample = none) :
    (if p then d.captureChunk c cd ma cmd w n str codes else d) = d := by
  unfold Device.captureChunk; rw [h, ite_self]

/-- The values of the rows that a CHUNK streams. -/
def streamed (str : Fmt) (k : Nat) (rows : List (List Byte)) : List (List Val) := (rows.map fun r => codesOf str r k).map fun r => r.map str.decode

/-- The sums of a CHUNK over a buffer (R62). -/
def sumsOf (cmd : ChunkCmd) (old : Tile) (sta str : Fmt) (w : WTile) (rows : List (List Byte)) : List AccElem × Nat × Nat :=
  chunkSums (cmd.anchor.toInt - 74) cmd.m cmd.k (if cmd.first then [] else old.elems) (w.values sta cmd.k) (streamed str cmd.k rows)

/-- A die after a CHUNK that opens no sample. -/
def chunkTaken (ma : MaNo) (buf : Fin 2) (cmd : ChunkCmd) (w : WTile) (sums : List AccElem × Nat × Nat) (meets : List (Option Meet))
    (x : Die) : Die :=
  { x with
    mas := upd x.mas ma fun m => m.chunkDone buf cmd w sums.1 sums.2.1 sums.2.2 false
    tally := x.tally.notes meets
    sieve := if cmd.first then x.sieve.firstChunk ma cmd none else x.sieve }

theorem chunkTaken_sample (ma : MaNo) (buf : Fin 2) (cmd : ChunkCmd) (w : WTile) (sums : List AccElem × Nat × Nat) (meets : List (Option Meet))
    (x : Die) : (chunkTaken ma buf cmd w sums meets x).sieve.sample = x.sieve.sample := by
  unfold chunkTaken
  dsimp only
  split
  · exact firstChunk_sample ..
  · rfl

/-- An element of a CHUNK's sums takes the products of its row and column, from zero on before a first chunk (R62). -/
theorem sumsOf_getD {cmd : ChunkCmd} {old : Tile} {sta str : Fmt} {w : WTile} {rows : List (List Byte)} {i j : Nat} (hr : rows.length = cmd.m)
    (hi : i < cmd.m) (hj : j < 128) :
    (sumsOf cmd old sta str w rows).1.getD (128 * i + j) {}
      = (AccElem.addChunk (if cmd.first then {} else old.elems.getD (128 * i + j) {}) (cmd.anchor.toInt - 74)
          ((List.range cmd.k).map fun k =>
            (str.decode ((codesOf str (rows.getD i []) cmd.k).getD k 0)).mul ((w.values sta cmd.k).getD (128 * k + j) (.fin false 0 0)))).1 := by
  have hold : (if cmd.first then [] else old.elems).getD (128 * i + j) {} = if cmd.first then {} else old.elems.getD (128 * i + j) {} := by
    split <;> rfl
  rw [sumsOf, chunkSums_getD hi hj, hold]
  congr 2
  refine List.map_congr_left fun k hk => ?_
  rw [streamed, decodedRow_getD (hr ▸ hi) (List.mem_range.1 hk)]

section
variable {d : Device} {c : Context} {cd : Cd} {ma : MaNo} {e : QEntry} {sta str : Fmt} {depth : Nat} {w : WTile} {rows : List (List Byte)}

/-- A legal CHUNK whose rows can be read runs, on a die without an armed or open sample. -/
theorem chunkEngine_legal (h : LegalChunk d.dies[cd].mas[ma] (d.dies[cd].chunkCmd e) sta str depth w) (harm : d.dies[cd].sieve.arms[ma] = none)
    (hsam : d.dies[cd].sieve.sample = none)
    (hrows : d.readRows c cd .ma ((List.range (d.dies[cd].chunkCmd e).m).map fun i =>
      (wrap52 ((d.dies[cd].chunkCmd e).src + i * (d.dies[cd].chunkCmd e).stride), (d.dies[cd].chunkCmd e).k * str.width / 8)) 0 = .ok rows) :
    let m := d.dies[cd].mas[ma]
    let cmd := d.dies[cd].chunkCmd e
    let buf := chunkBuf m cmd
    chunkEngine cd ma d c e = .ran (d.modDie cd (chunkTaken ma buf cmd w (sumsOf cmd m.bufs[buf] sta str w rows)
      ((streamed str cmd.k rows).flatten.map intakeMeet ++ w.meets sta cmd.k))) [] true := by
  intro m cmd buf
  obtain ⟨htakes, hstate, hanchor, hpair, hm⟩ := h.buf_ok
  unfold chunkBuf at htakes hstate hanchor hpair hm
  have hcap : ∀ meets, (d.modDie cd (chunkTaken ma buf cmd w (sumsOf cmd m.bufs[buf] sta str w rows) meets)).dies[cd].sieve.sample = none := by
    intro meets; rw [modDie_self, chunkTaken_sample, hsam]
  unfold chunkEngine
  dsimp only
  simp only [bits_low_nibble, bits_high_nibble, h.sta_eq, h.str_eq, h.tile, h.depth_eq, samples_unarmed harm, ite_self, htakes, hstate, hanchor,
    hpair, hm, h.k_ok, hrows, Option.isSome_none, Bool.false_and, Bool.false_eq_true, if_false]
  exact congrArg (Engine.ran · [] true) (captureChunk_unsampled (hcap _))
end

/-! ### What a CHUNK leaves in its MA (R72, R73) -/

section
variable {m : Ma} {buf : Fin 2} {cmd : ChunkCmd} {w : WTile} {elems : List AccElem} {under sat : Nat}

/-- What a CHUNK that opens no sample leaves in its buffer (R72, R73). -/
theorem chunkDone_buf :
    let old := m.bufs[buf]
    let new := (m.chunkDone buf cmd w elems under sat false).bufs[buf]
    new.state = 1 ∧ new.elems = elems ∧ new.lastDone = (cmd.last || (!cmd.first && old.lastDone))
      ∧ (cmd.first = true → new.anchor = cmd.anchor ∧ new.rows = BitVec.ofNat 8 (cmd.m - 1) ∧ new.tileId = cmd.tileId) := by
  unfold Ma.chunkDone
  simp only [Fin.getElem_fin, Vector.getElem_set_self]
  refine ⟨trivial, trivial, ?_, fun h => ?_⟩
  · cases cmd.first <;> simp [Bool.or_comm]
  · simp [h]

/-- The other buffer stays. -/
theorem chunkDone_other {o : Fin 2} (h : o ≠ buf) : (m.chunkDone buf cmd w elems under sat false).bufs[o] = m.bufs[o] := by
  have : buf.val ≠ o.val := fun e => h (Fin.ext e.symm)
  simp [Ma.chunkDone, this]
end
end Sys2Proof.Laws
end

section
/-! A CHUNK accumulates the products of its tile (O9). -/

namespace Sys2Proof.Safety

set_option Elab.async false

open Sys2Proof Sys2Proof.Machine Sys2Proof.Laws

/-- A CHUNK that runs. -/
theorem exec_chunk_ran {s : State} {cd : Cd} {ma : MaNo} {c : Context} {e : QEntry} {d : Device} {svals : List (Fin 16 × BitVec 64)}
    {done : Bool} (h : Starts s cd (idx 12 ma.val) 1 c e) (hf : chunkEngine cd ma s.dev c e = .ran d svals done) :
    exec (.chunk cd ma) s = .next { s with dev := d.modDie cd fun x => x.markStart (idx 12 ma.val) e svals done } := by
  rw [← startHead_ran h hf]; rfl

/-- Settles O9: a legal CHUNK runs (`chunkEngine_legal`), and its effect is read off the sums of its tile and the buffer that takes them. -/
theorem chunkAccumulatesItsProducts : Obligations.ChunkAccumulatesItsProducts := by
  unfold Obligations.ChunkAccumulatesItsProducts
  intro s cd ma c e sta str depth w rows x m cmd b o old hstart hsta hstr hdepth hk1 hk2 hq4 htile htakes hon harm hsam hrows
  have hlegal : LegalChunk m cmd sta str depth w := ⟨hsta, hstr, hdepth, hk1, hk2, hq4, htile, htakes, hon⟩
  have hlen : rows.length = cmd.m := by simpa using readRows_length hrows
  let sums := sumsOf cmd old sta str w rows
  have hob : o ≠ b := by
    show (if b = 0 then (1 : Fin 2) else 0) ≠ b
    split <;> omega
  obtain ⟨meets, hran⟩ : ∃ meets, chunkEngine cd ma s.dev c e = .ran (s.dev.modDie cd (chunkTaken ma b cmd w sums meets)) [] true :=
    ⟨_, chunkEngine_legal hlegal harm hsam hrows⟩
  have hmas : ((s.dev.modDie cd (chunkTaken ma b cmd w sums meets)).modDie cd fun x => x.markStart (idx 12 ma.val) e [] true).dies[cd].mas
      = upd x.mas ma fun m => m.chunkDone b cmd w sums.1 sums.2.1 sums.2.2 false := by
    rw [modDie_self, markStart_mas, modDie_self]; rfl
  refine ⟨_, exec_chunk_ran hstart hran, ?_, startedIn_markStart, rfl, rfl, fun p hp => ?_, fun p hp => ?_⟩
  · obtain ⟨hstate, helems, hdone, hfirst⟩ :=
      chunkDone_buf (m := m) (buf := b) (cmd := cmd) (w := w) (elems := sums.1) (under := sums.2.1) (sat := sums.2.2)
    rw [hmas, upd_self]
    refine ⟨rfl, hstate, hdone, chunkDone_other hob, rfl, hfirst, fun i hi j hj => ?_⟩
    rw [helems]
    exact sumsOf_getD hlen hi hj
  · rw [hmas, upd_other _ _ hp.symm]
  · rw [modDie_other _ _ hp.symm, modDie_other _ _ hp.symm]
end Sys2Proof.Safety
end

section
/-! SUPPORT. The commit of a tile and READOUT (R72 to R87, R151, R152): which buffer is the oldest, what leaves the matrix arrays as they are, and
what a READOUT that nothing refuses does. -/

namespace Sys2Proof.Laws

set_option Elab.async false

open Sys2Proof Sys2Proof.Machine Sys2Proof.Safety

/-! ### The oldest buffer of a kind (R72) -/

section
variable {m : Ma} {p : Tile → Bool} {b : Fin 2}

/-- The oldest buffer of a kind is of the kind. -/
theorem oldest_holds (h : m.oldest p = some b) : p m.bufs[b] = true := by
  unfold Ma.oldest at h
  split at h
  · cases h
  · rename_i h0 _; cases h; exact h0
  · rename_i _ h1; cases h; exact h1
  · rename_i h0 h1
    cases h
    split
    · exact h0
    · exact h1

/-- A buffer of a kind whose last chunk came before that of every other is the oldest. -/
theorem oldest_eq (hb : p m.bufs[b] = true) (ho : ∀ o : Fin 2, o ≠ b → p m.bufs[o] = true → m.bufs[b].order < m.bufs[o].order) :
    m.oldest p = some b := by
  unfold Ma.oldest
  match b, hb, ho with
  | 0, hb, ho =>
    split
    · rename_i h0 _; cases h0.symm.trans hb
    · rfl
    · rename_i h0 _; cases h0.symm.trans hb
    · rename_i h1; exact congrArg some (if_pos (Nat.le_of_lt (ho 1 (by decide) h1)))
  | 1, hb, ho =>
    split
    · rename_i h1; cases h1.symm.trans hb
    · rename_i h1; cases h1.symm.trans hb
    · rfl
    · rename_i h0 _; exact congrArg some (if_neg (Nat.not_le_of_lt (ho 0 (by decide) h0)))

/-- The commit passes the oldest tile whose last chunk's sums are formed to state 2. -/
theorem commit_eq (h : m.oldest Tile.formed = some b) :
    m.commit = { m with bufs := m.bufs.set b { m.bufs[b] with state := 2, lastDone := false } } := by
  unfold Ma.commit; rw [h]; rfl

theorem formed_iff {t : Tile} : t.formed = true ↔ t.lastDone = true ∧ t.state = 1 := by
  simp [Tile.formed]
end

/-! ### What leaves the matrix arrays as they are -/

section
variable {d : Device} {c : Context} {cd : Cd} {r : Requester}

theorem companionPut_dies (tag : BitVec 16) (ws : Writes) : (d.companionPut tag ws).dies = d.dies := by
  unfold Device.companionPut; split <;> rfl

theorem writeAs_dies (dom : Fin 64) (a : Nat) (bs : List Byte) : (d.writeAs dom a bs).dies = d.dies := by
  unfold Device.writeAs; dsimp only; split <;> rfl

/-- A line that is written leaves the dies. -/
theorem writeLine_dies {a : Nat} {bs : List Byte} {d' : Device} (h : d.writeLine c cd r a bs = .ok d') : d'.dies = d.dies := by
  unfold Device.writeLine at h
  dsimp only at h
  split at h
  · cases h
  · split at h
    · cases h
    · split at h
      · split at h
        · cases h
        · cases h; exact companionPut_dies ..
      · cases h; exact writeAs_dies ..

theorem writeBytes_dies : ∀ (fuel : Nat) (d : Device) (a : Nat) (bs : List Byte), (d.writeBytes c cd r fuel a bs).1.dies = d.dies
  | 0, _, _, _ => rfl
  | fuel + 1, d, a, bs => by
    unfold Device.writeBytes
    dsimp only
    split
    · rfl
    · split
      · rfl
      · rename_i d1 h1
        have ih := writeBytes_dies fuel d1 (a + (64 - a % 64)) (bs.drop (64 - a % 64))
        split <;> rename_i e <;> rw [e] at ih <;> exact ih.trans (writeLine_dies h1)

theorem putBytes_dies {a : Nat} {bs : List Byte} {d' : Device} {y : Option (Nat × Nat × Nat)} (h : d.putBytes c cd r a bs = (d', y)) :
    d'.dies = d.dies := by
  have := writeBytes_dies (c := c) (cd := cd) (r := r) (bs.length + 1) d a bs
  unfold Device.putBytes at h
  rwa [h] at this

/-- A row that is stored leaves the matrix arrays. -/
theorem outRow_mas {isl : BitVec 16} {cmd : OutCmd} {f : Fmt} {t : Tile} {p : OutParams} {step i : Nat} {d' : Device} {ys taps row : List Val}
    (h : d.outRow c cd isl cmd f t p step i = .ok (d', ys, taps, row)) : d'.dies[cd].mas = d.dies[cd].mas := by
  unfold Device.outRow at h
  dsimp only at h
  split at h
  · cases h
  · split at h
    · split at h
      · cases h
      · rename_i e1
        split at h
        · cases h
        · rename_i e2
          cases h
          rw [modDie_self, putBytes_dies e2, putBytes_dies e1]
    · split at h
      · cases h
      · rename_i e1
        cases h
        rw [modDie_self, putBytes_dies e1]

/-- One row of a readout stored, with the next row noted. -/
theorem outRows_one {ma : MaNo} {isl : BitVec 16} {cmd : OutCmd} {f : Fmt} {t : Tile} {p : OutParams} {step i : Nat} {d' : Device}
    {ys taps : List Val} {rows : List (List Val)} (h : Device.outRows c cd ma isl cmd f t p step [i] d = .ok (d', ys, taps, rows)) :
    ∃ d1 : Device, d1.dies[cd].mas = d.dies[cd].mas ∧ d' = d1.atRow cd ma (i + 1) := by
  unfold Device.outRows at h
  split at h
  · cases h
  · rename_i d1 _ _ _ e1
    cases h
    exact ⟨d1, outRow_mas e1, rfl⟩
end

/-- The next row noted of a tile that is read out. -/
theorem atRow_buf {d : Device} {cd : Cd} {ma : MaNo} {i : Nat} {b : Fin 2} (h : d.dies[cd].mas[ma].bufs[b].state = 3) :
    (d.atRow cd ma i).dies[cd].mas[ma].bufs[b] = { d.dies[cd].mas[ma].bufs[b] with readoutRow := BitVec.ofNat 8 i } := by
  unfold Device.atRow
  rw [modDie_self]
  unfold Die.modMa
  dsimp only
  rw [upd_self, each_get, if_pos h]

/-- A tile that enters readout is in state 3. -/
theorem enterReadout_buf {d : Device} {cd : Cd} {ma : MaNo} {b : Fin 2} {t : Tile} :
    (d.enterReadout cd ma b t).dies[cd].mas[ma].bufs[b] = { d.dies[cd].mas[ma].bufs[b] with state := 3 } := by
  unfold Device.enterReadout
  rw [modDie_self]
  dsimp only
  rw [upd_self, upd_self]

theorem enterReadout_intRows {d : Device} {cd : Cd} {ma : MaNo} {b : Fin 2} {t : Tile} :
    (d.enterReadout cd ma b t).dies[cd].intRows = d.dies[cd].intRows := by
  unfold Device.enterReadout
  rw [modDie_self]

/-- Stage values handed to a tap accumulator leave the buffers. -/
theorem tap_bufs {x : Die} {ma p : MaNo} {vs : List Val} {last : Bool} : (x.tap ma vs last).mas[p].bufs = x.mas[p].bufs := by
  unfold Die.tap
  dsimp only
  split
  · rfl
  · dsimp only
    split
    · by_cases h : ma = p
      · subst h; rw [upd_self]
      · rw [upd_other _ _ h]
    · rfl

theorem tap_intRows {x : Die} {ma : MaNo} {vs : List Val} {last : Bool} : (x.tap ma vs last).intRows = x.intRows := by
  unfold Die.tap; dsimp only; split <;> rfl

/-- An MA has handed out no rows that wait for their consumer (R152). -/
theorem no_intRows {x : Die} {ma : MaNo} (h : ∀ r ∈ x.intRows, r.ma ≠ ma) : ¬(x.intRows.any fun r => r.ma == ma) = true := by
  simpa using h

/-! ### INT32 READOUT (R82, R152) -/

/-- The rows that an INT32 READOUT hands to its consumer. -/
def int32Rows (ma : MaNo) (cmd : OutCmd) (t : Tile) : IntRows where
  ma := ma
  ladle := cmd.ladle
  e := t.anchor.toInt - 74 + cmd.shift
  rows := (List.range (t.rows.toNat + 1)).map fun i =>
    (((t.elems.map (int32Elem cmd.shift)).drop (128 * i)).take 128).map fun o => BitVec.ofInt 32 o.1

/-- A die whose MA has handed rows over. -/
def rowsHanded (ma : MaNo) (r : IntRows) (meets : List (Option Meet)) (taps : List Val) (x : Die) : Die :=
  ({ x with intRows := x.intRows ++ [r], tally := x.tally.notes meets } : Die).tap ma taps true

/-- The value of a row at a column is the converted element of that place. -/
theorem int32Rows_getD {ma : MaNo} {cmd : OutCmd} {t : Tile} {i j : Nat} (hlen : t.elems.length = (t.rows.toNat + 1) * 128)
    (hi : i < t.rows.toNat + 1) (hj : j < 128) :
    ((int32Rows ma cmd t).rows.getD i []).getD j 0 = BitVec.ofInt 32 (int32Elem cmd.shift (t.elems.getD (128 * i + j) {})).1 := by
  have hn : 128 * i + j < t.elems.length := by omega
  simp [int32Rows, List.getD_eq_getElem?_getD, hi, hj, hn]

section
variable {d : Device} {c : Context} {cd : Cd} {ma : MaNo} {e : QEntry} {b : Fin 2}

/-- An INT32 READOUT of a tile without a non-finite element runs; its last result is written when its consumer has taken the rows. -/
theorem int32Readout_ran {isl : BitVec 16} {cmd : OutCmd} {t : Tile} (hlen : t.elems.length = (t.rows.toNat + 1) * 128)
    (hnf : ∀ a ∈ t.elems, a.nf = 0) :
    ∃ taps, d.int32Readout c cd ma isl cmd b t e = .ran ((d.enterReadout cd ma b t).modDie cd
      (rowsHanded ma (int32Rows ma cmd t) ((t.elems.map (int32Elem cmd.shift)).map Prod.snd) taps)) (e.sOf t.sValue) false := by
  have hes : t.elems.take ((t.rows.toNat + 1) * 128) = t.elems := List.take_of_length_le (by omega)
  have hany : (t.elems.any fun x => !x.ovf && decide (x.nf ≠ 0)) = false := by
    rw [List.any_eq_false]
    intro a ha
    simp [hnf a ha]
  unfold Device.int32Readout
  dsimp only
  rw [hes, hlen, Nat.sub_self, List.replicate_zero, List.append_nil, if_neg (by rw [hany]; decide)]
  exact ⟨_, rfl⟩

/-- A READOUT that the record sends to a consumer. -/
theorem readoutEngine_int32 (hb : d.dies[cd].mas[ma].readBuf e = some b) (hfree : ∀ r ∈ d.dies[cd].intRows, r.ma ≠ ma)
    (hint : (d.dies[cd].outCmd e).int32 = true) :
    readoutEngine cd ma d c e
      = d.int32Readout c cd ma (cdIsland cd 2 ma.val) (d.dies[cd].outCmd e) b d.dies[cd].mas[ma].bufs[b] e := by
  unfold readoutEngine
  dsimp only
  rw [hb]
  dsimp only
  rw [if_neg (no_intRows hfree), if_pos hint]
end

/-! ### READOUT into memory (R74, R86, R87) -/

/-- A READOUT that stores its rows and that no check refuses, whose tile is there and whose MA has handed out no rows. -/
structure StoredReadout (x : Die) (ma : MaNo) (e : QEntry) (b : Fin 2) (f : Fmt) : Prop where
  buf : x.mas[ma].readBuf e = some b
  free : ∀ r ∈ x.intRows, r.ma ≠ ma
  stores : (x.outCmd e).int32 = false
  fmt : fmtOf (x.outCmd e).fmt = some f
  not_q4 : f ≠ .q4
  not_int32 : f ≠ .int32
  mode : (x.outCmd e).mode ≠ 3
  stride : f = .sb16 → (x.outCmd e).dstride % 32 = 0

/-- The device whose tile has entered readout, at the start of a READOUT or before it (R72, R86). -/
def entered (d : Device) (cd : Cd) (ma : MaNo) (b : Fin 2) (e : QEntry) : Device :=
  if e.started then d else d.enterReadout cd ma b d.dies[cd].mas[ma].bufs[b]

/-- The buffer that a READOUT reads out is in state 3 from its start on. -/
theorem entered_state {d : Device} {cd : Cd} {ma : MaNo} {b : Fin 2} {e : QEntry} (h : d.dies[cd].mas[ma].readBuf e = some b) :
    (entered d cd ma b e).dies[cd].mas[ma].bufs[b].state = 3 := by
  unfold entered
  unfold Ma.readBuf at h
  split
  · rename_i he
    rw [if_pos he] at h
    simpa using oldest_holds h
  · exact congrArg Tile.state enterReadout_buf

/-- The row at which a READOUT starts or goes on (R86). -/
def nextRow (t : Tile) (e : QEntry) : Nat := if e.started then t.readoutRow.toNat else 0

/-- The rows that a READOUT stores before its end or its stop point (R86, R387). -/
def rowsNow (d : Device) (c : Context) (t : Tile) (e : QEntry) : Nat :=
  if d.stopping c then min 1 (t.rows.toNat + 1 - nextRow t e) else t.rows.toNat + 1 - nextRow t e

/-- What the output stage applies, without addends. -/
def outParams (x : Die) (cmd : OutCmd) (rs cs bs : List Val) : OutParams :=
  ⟨rs, cs, bs, [], cmd.act, if cmd.act = 4 then x.planBytes cmd.tab 1032 else []⟩

/-- A die at a stop point of a READOUT. -/
def readoutCut (t : Tile) (ma : MaNo) (ys taps : List Val) (adds : List (List Val)) (x : Die) : Die :=
  ({ x with sieve := x.sieve.samplePart t ma ys adds } : Die).tap ma taps false

/-- A die after the last row of a READOUT. -/
def readoutOver (t : Tile) (ma : MaNo) (b : Fin 2) (p : OutParams) (ys taps : List Val) (bytes : Nat) (x : Die) : Die :=
  ({ x with
    mas := upd x.mas ma fun m => { m with bufs := m.bufs.set b {} }
    sieve := x.sieve.sampleReadout t ma p ys bytes } : Die).tap ma taps true

/-- The buffer of a READOUT that has ended is idle and empty. -/
theorem readoutOver_buf {x : Die} {t : Tile} {ma : MaNo} {b : Fin 2} {p : OutParams} {ys taps : List Val} {bytes : Nat} :
    (readoutOver t ma b p ys taps bytes x).mas[ma].bufs[b] = {} := by
  rw [readoutOver, tap_bufs, upd_self]
  exact Vector.getElem_set_self _

section
variable {d d1 : Device} {c : Context} {cd : Cd} {ma : MaNo} {e : QEntry} {b : Fin 2} {f : Fmt} {rs cs bs ys taps : List Val} {adds : List (List Val)}

/-- A READOUT whose rows are stored comes to a stop point when rows are left, and else it ends. -/
theorem readoutEngine_stored {d0 : Device} {l : List Nat} (h : StoredReadout d.dies[cd] ma e b f) (hd : entered d cd ma b e = d0) :
    let cmd := d.dies[cd].outCmd e
    let t := d.dies[cd].mas[ma].bufs[b]
    let n := t.rows.toNat + 1
    ((List.range n).drop (nextRow t e)).take (rowsNow d c t e) = l →
    d0.outVector c cd cmd 0 cmd.rsc n = .ok rs → d0.outVector c cd cmd 1 cmd.csc 128 = .ok cs → d0.outVector c cd cmd 2 cmd.bias 128 = .ok bs →
    Device.outRows c cd ma (cdIsland cd 2 ma.val) cmd f t (outParams d.dies[cd] cmd rs cs bs) (d0.stepNo c) l d0 = .ok (d1, ys, taps, adds) →
    (nextRow t e + rowsNow d c t e < n → readoutEngine cd ma d c e = .cut (d1.modDie cd (readoutCut t ma ys taps adds)) 0 [])
    ∧ (n ≤ nextRow t e + rowsNow d c t e → ∃ p ys' bytes,
      readoutEngine cd ma d c e = .ran (d1.modDie cd (readoutOver t ma b p ys' taps bytes)) (e.sOf t.sValue) true) := by
  intro cmd t n hl hrs hcs hbs hrows
  obtain ⟨hbuf, hfree, hstores, hfmt, hq4, hint, hmode, hstride⟩ := h
  unfold readoutEngine
  dsimp only
  rw [hbuf]
  dsimp only
  rw [if_neg (no_intRows hfree), if_neg (by rw [hstores]; decide), hfmt]
  dsimp only
  rw [if_neg (by simp [hq4, hint]), if_neg hmode, if_neg (by rintro ⟨h1, h2⟩; exact h2 (hstride h1))]
  rw [show (if e.started then d else d.enterReadout cd ma b d.dies[cd].mas[ma].bufs[b]) = d0 from hd, hrs, hcs, hbs]
  dsimp only
  simp only [outParams, nextRow, rowsNow, cmd, t, n] at hl hrows
  rw [hl, hrows]
  exact ⟨fun hlt => if_pos hlt, fun hle => ⟨_, _, _, if_neg (Nat.not_lt.2 hle)⟩⟩
end

end Sys2Proof.Laws
end

section
/-! A last chunk commits its buffer, and a READOUT hands its rows over or stores them and frees the buffer (O10). -/

namespace Sys2Proof.Safety

set_option Elab.async false

open Sys2Proof Sys2Proof.Machine Sys2Proof.Laws

section
variable {s : State} {cd : Cd} {ma : MaNo} {c : Context} {e : QEntry} {d : Device} {svals : List (Fin 16 × BitVec 64)} {done : Bool} {n : Nat}

/-- A READOUT that runs. -/
theorem exec_readout_ran (h : Starts s cd (idx 12 ma.val) 2 c e) (hf : readoutEngine cd ma s.dev c e = .ran d svals done) :
    exec (.readout cd ma) s = .next { s with dev := d.modDie cd fun x => x.markStart (idx 12 ma.val) e svals done } := by
  rw [← startHead_ran h hf]; rfl

/-- A READOUT that comes to a stop point. -/
theorem exec_readout_cut (h : Starts s cd (idx 12 ma.val) 2 c e) (hf : readoutEngine cd ma s.dev c e = .cut d n svals) :
    exec (.readout cd ma) s = .next { s with dev := d.modDie cd fun x => x.markCut (idx 12 ma.val) e n svals } := by
  rw [← startHead_cut h hf]; rfl
end

/-- What a READOUT that has stored its last row leaves. -/
theorem readout_ends {s : State} {cd : Cd} {ma : MaNo} {c : Context} {e : QEntry} {b : Fin 2} {d1 : Device} {t : Tile} {p : OutParams}
    {ys taps : List Val} {bytes : Nat} (h : Starts s cd (idx 12 ma.val) 2 c e)
    (hf : readoutEngine cd ma s.dev c e = .ran (d1.modDie cd (readoutOver t ma b p ys taps bytes)) (e.sOf t.sValue) true) :
    ∃ u, exec (.readout cd ma) s = .next u ∧ u.dev.mem = d1.mem ∧ u.pending = s.pending ∧ u.dev.dies[cd].mas[ma].bufs[b] = {}
      ∧ DoneIn u cd (idx 12 ma.val) e t.sValue := by
  refine ⟨_, exec_readout_ran h hf, rfl, rfl, ?_, fun q hq hn => ?_⟩
  · rw [modDie_self, markStart_mas, modDie_self, readoutOver_buf]
  · rw [modDie_self] at hq
    obtain ⟨hs, hd, hc, hv⟩ := markStart_entry hq hn
    exact ⟨hs, hd, hc, fun hw => hv.trans (by rw [QEntry.sOf, hw, if_pos rfl])⟩

/-- The buffer that commits is the oldest of those whose last chunk's sums are formed (`oldest_eq`). -/
theorem lastChunkCommitPassesTheBufferToReadout : Sys2Proof.Claims.LastChunkCommitPassesTheBufferToReadout := by
  intro s cd ma b x m hdone hstate horder t m' x'
  have hold : m.oldest Tile.formed = some b :=
    oldest_eq (formed_iff.2 ⟨hdone, hstate⟩) fun o ho hf => horder o ho (formed_iff.1 hf).1 (formed_iff.1 hf).2
  have hm : m.commit = m' := commit_eq hold
  show Host.Outcome.next { s with dev := { s.dev with dies := s.dev.dies.set cd { x with mas := x.mas.set ma m.commit } } } = _
  rw [hm]

/-- An INT32 READOUT runs with its last result still to be written, and hands over `int32Rows`. -/
theorem int32ReadoutHandsItsRowsOver : Sys2Proof.Claims.Int32ReadoutHandsItsRowsOver := by
  intro s cd ma c e b x t cmd hstart hnew hready hfree hint hlen hnf
  have hbuf : x.mas[ma].readBuf e = some b := by rw [Ma.readBuf, hnew]; exact hready
  obtain ⟨taps, hran⟩ : ∃ taps, readoutEngine cd ma s.dev c e = .ran ((s.dev.enterReadout cd ma b t).modDie cd
      (rowsHanded ma (int32Rows ma cmd t) ((t.elems.map (int32Elem cmd.shift)).map Prod.snd) taps)) (e.sOf t.sValue) false := by
    rw [readoutEngine_int32 hbuf hfree hint]; exact int32Readout_ran hlen hnf
  refine ⟨_, int32Rows ma cmd t, exec_readout_ran hstart hran, ?_, rfl, rfl, rfl, ?_, ?_, ?_, startedIn_markStart, rfl,
    fun p hp => ?_⟩
  · rw [modDie_self, markStart_intRows, modDie_self, rowsHanded, tap_intRows]
    exact congrArg (· ++ [int32Rows ma cmd t]) enterReadout_intRows
  · simp [int32Rows]
  · exact fun i hi j hj => int32Rows_getD hlen hi hj
  · rw [modDie_self, markStart_mas, modDie_self, rowsHanded, tap_bufs]
    exact congrArg Tile.state enterReadout_buf
  · rw [modDie_other _ _ hp.symm, modDie_other _ _ hp.symm]
    exact modDie_other _ _ hp.symm

/-- A READOUT that nothing stops stores all of its rows at once, and so ends. -/
theorem readoutFreesItsBuffer : Sys2Proof.Claims.ReadoutFreesItsBuffer := by
  intro s cd ma c e b f rs cs bs ys taps adds d1 x t cmd n d0 hstart hnew hrun hready hfree hstores hfmt hq4 hint hmode hstride hrs hcs hbs hrows
  have hbuf : x.mas[ma].readBuf e = some b := by rw [Ma.readBuf, hnew]; exact hready
  have hfirst : nextRow t e = 0 := by rw [nextRow, hnew]; rfl
  have hnow : rowsNow s.dev c t e = n := by rw [rowsNow, hrun, hfirst]; rfl
  have hd0 : entered s.dev cd ma b e = d0 := by rw [entered, hnew]; rfl
  have hl : ((List.range n).drop (nextRow t e)).take (rowsNow s.dev c t e) = List.range n := by
    rw [hfirst, hnow, List.drop_zero, List.take_of_length_le (by simp)]
  have hall : n ≤ nextRow t e + rowsNow s.dev c t e := by rw [hfirst, hnow, Nat.zero_add]
  obtain ⟨p, ys', bytes, hran⟩ :=
    (readoutEngine_stored ⟨hbuf, hfree, hstores, hfmt, hq4, hint, hmode, hstride⟩ hd0 hl hrs hcs hbs hrows).2 hall
  obtain ⟨u, hu, hmem, -, hidle, hdone⟩ := readout_ends hstart hran
  refine ⟨u, hu, hmem, hidle, fun q hq hn => ?_⟩
  obtain ⟨hs, hd, -, hv⟩ := hdone q hq hn
  exact ⟨hs, hd, hv⟩

/-- A READOUT that is being stopped stores one row: it ends when that row is its last, and comes to a stop point else. -/
theorem stoppedReadoutGoesOnAtItsNextRow : Sys2Proof.Claims.StoppedReadoutGoesOnAtItsNextRow := by
  intro s cd ma c e b f rs cs bs ys taps adds d1 x t cmd n i d0 hstart hstop hbuf hfree hstores hfmt hq4 hint hmode hstride hi hrs hcs hbs hrows
  have hnow : rowsNow s.dev c t e = 1 := by
    rw [rowsNow, if_pos hstop]
    show min 1 (n - i) = 1
    omega
  have hl : ((List.range n).drop (nextRow t e)).take (rowsNow s.dev c t e) = [i] := by
    rw [hnow]
    show ((List.range n).drop i).take 1 = [i]
    simp [List.take_one, hi]
  have hrow : nextRow t e + rowsNow s.dev c t e = i + 1 := congrArg (i + ·) hnow
  obtain ⟨hcut, hend⟩ :=
    readoutEngine_stored (d0 := d0) ⟨hbuf, hfree, hstores, hfmt, hq4, hint, hmode, hstride⟩ rfl hl hrs hcs hbs hrows
  by_cases hleft : i + 1 < n
  · obtain ⟨d2, hmas, rfl⟩ := outRows_one hrows
    have hstate : d2.dies[cd].mas[ma].bufs[b].state = 3 := by rw [hmas]; exact entered_state hbuf
    refine ⟨_, exec_readout_cut hstart (hcut (hrow.trans_lt hleft)), rfl, rfl, fun _ => ?_, fun h => by omega⟩
    rw [modDie_self, markCut_mas, modDie_self, readoutCut, tap_bufs]
    dsimp only
    rw [atRow_buf hstate]
    refine ⟨hstate, ?_, fun q hq hn => markCut_entry hq hn⟩
    rw [BitVec.toNat_ofNat]
    omega
  · obtain ⟨p, ys', bytes, hran⟩ := hend (hrow.trans_ge (Nat.not_lt.1 hleft))
    obtain ⟨u, hu, hmem, hpend, hidle, hdone⟩ := readout_ends hstart hran
    refine ⟨u, hu, hmem, hpend, fun h => absurd h hleft, fun _ => ⟨hidle, fun q hq hn => ?_⟩⟩
    obtain ⟨hs, hd, hc, -⟩ := hdone q hq hn
    exact ⟨hs, hd, hc⟩

/-- Settles O10, claim by claim: the commit of the buffer that is oldest of its kind, the rows of `int32Rows`, and the two ways in which a
READOUT that stores rows ends its step (`readoutEngine_stored`). -/
theorem tilesAreCommittedAndReadOut : Obligations.TilesAreCommittedAndReadOut :=
  ⟨lastChunkCommitPassesTheBufferToReadout, int32ReadoutHandsItsRowsOver, readoutFreesItsBuffer, stoppedReadoutGoesOnAtItsNextRow⟩

end Sys2Proof.Safety
end

section
/-! SUPPORT. Element instructions (R93, R104): the lanes of a register and of a result, and the result of each shape of instruction. -/

namespace Sys2Proof.Laws

set_option Elab.async false

open Sys2Proof Sys2Proof.Machine Sys2Proof.Safety

/-! ### The lanes of a written register -/

/-- A list of 32 entries is the list of its entries by number. -/
theorem eq_lanes_getD {α : Type} {l : List α} (h : l.length = 32) (x : α) : l = (List.range 32).map fun j => l.getD j x :=
  List.ext_getElem (by simp [h]) fun j h1 h2 => by simp [h1]

/-- An entry of the list of the lanes. -/
theorem lanes_getD {α : Type} {g : Nat → α} {j : Nat} (hj : j < 32) (x : α) : ((List.range 32).map g).getD j x = g j := by
  simp [List.getD_eq_getElem?_getD, hj]

/-- Two lists of lanes taken lane by lane. -/
theorem zipWith_lanes {α β γ : Type} (f : α → β → γ) (g : Nat → α) (h : Nat → β) :
    List.zipWith f ((List.range 32).map g) ((List.range 32).map h) = (List.range 32).map fun j => f (g j) (h j) := by
  rw [List.zipWith_map, List.zipWith_self]

theorem zip_lanes {α β : Type} (g : Nat → α) (h : Nat → β) :
    ((List.range 32).map g).zip ((List.range 32).map h) = (List.range 32).map fun j => (g j, h j) := zipWith_lanes Prod.mk g h

section
variable {r : EReg} {raw : Bool} {n k : Nat}

theorem blocks_written (h : Blocks r raw n) : r.written = true := h.1
theorem blocks_raw (h : Blocks r raw n) : r.raw = raw := h.2.1
theorem blocks_length (h : Blocks r raw n) : r.blocks.length = n := h.2.2.1

/-- A block of a written register is full. -/
theorem blk_full (h : Blocks r raw n) (hk : k < n) : (r.blk k).i.length = 32 ∧ (r.blk k).nf.length = 32 := by
  obtain ⟨-, -, hlen, hfull⟩ := h
  have hk : k < r.blocks.length := hlen.symm ▸ hk
  rw [EReg.blk, List.getD_eq_getElem _ _ hk]
  exact hfull _ (List.getElem_mem hk)

theorem blk_i (h : Blocks r raw n) (hk : k < n) : (r.blk k).i = (List.range 32).map fun j => BitVec.ofInt 32 (laneInt r k j) := by
  have hj (j : Nat) : BitVec.ofInt 32 (laneInt r k j) = (r.blk k).i.getD j 0 := BitVec.ofInt_toInt
  simp only [hj]
  exact eq_lanes_getD (blk_full h hk).1 0

/-- The code of a lane's value is the lane's code (R89). -/
theorem nfOf_laneVal (r : EReg) (k j : Nat) : nfOf (laneVal r k j) = (r.blk k).nf.getD j 0 := by
  show nfOf ((r.blk k).lane j) = _
  unfold EBlock.lane
  dsimp only
  generalize (r.blk k).nf.getD j 0 = c
  split
  · next h => exact h.symm
  · split
    · next h => exact h.symm
    · split
      · next h => exact h.symm
      · show (0 : BitVec 2) = c
        bv_omega

theorem blk_nf (h : Blocks r raw n) (hk : k < n) : (r.blk k).nf = (List.range 32).map fun j => nfOf (laneVal r k j) := by
  simp only [nfOf_laneVal]
  exact eq_lanes_getD (blk_full h hk).2 0

theorem blk_raws (h : Blocks r raw n) (hk : k < n) : (r.blk k).raws = (List.range 32).map (laneInt r k) := by
  rw [EBlock.raws, eq_lanes_getD (blk_full h hk).1 0, List.map_map]; rfl

theorem blk_vals (h : Blocks r raw n) (hk : k < n) : (r.blk k).vals = (List.range 32).map (laneVal r k) := by
  rw [EBlock.vals, (blk_full h hk).1]; rfl

theorem blk_actives (h : Blocks r raw n) (hk : k < n) : (r.blk k).actives = (List.range 32).map (laneActive r k) := by
  rw [EBlock.actives, (blk_full h hk).1]
  refine List.map_congr_left fun j _ => ?_
  have hint (v : BitVec 32) : (v != 0) = decide (v.toInt ≠ 0) := by simp [bne, BEq.beq, ← BitVec.toInt_inj]
  have hnf (v : BitVec 2) : (v != 0) = decide (v ≠ 0) := by simp [bne, BEq.beq]
  rw [hint, hnf]; rfl
end

/-! ### The result of an instruction -/

/-- A raw register of `n` blocks whose lanes are integers, saturated, with its saturations (R104). -/
def rawLanes (n : Nat) (v : Nat → Nat → Int) : EReg × Nat := byBlock true n fun k => rawResult ((List.range 32).map (v k))

/-- A register of `n` normalised blocks of exact values, with its saturations (R90, R104). -/
def blockLanes (n : Nat) (v : Nat → Nat → Val) : EReg × Nat := byBlock false n fun k => normResult ((List.range 32).map (v k))

theorem rawLanes_congr {n : Nat} {v u : Nat → Nat → Int} (h : ∀ k j, v k j = u k j) : rawLanes n v = rawLanes n u := by
  rw [funext fun k => funext (h k)]

theorem blockLanes_congr {n : Nat} {v u : Nat → Nat → Val} (h : ∀ k j, v k j = u k j) : blockLanes n v = blockLanes n u := by
  rw [funext fun k => funext (h k)]

theorem byBlock_congr {raw : Bool} {n : Nat} {f g : Nat → EBlock × Nat} (h : ∀ k < n, f k = g k) : byBlock raw n f = byBlock raw n g := by
  have hfg : (List.range n).map f = (List.range n).map g := List.map_congr_left fun k hk => h k (List.mem_range.1 hk)
  rw [byBlock, byBlock, hfg]

/-- Block `k` of a register made block by block. -/
theorem byBlock_getD {raw : Bool} {n k : Nat} {f : Nat → EBlock × Nat} (hk : k < n) : (byBlock raw n f).1.blocks.getD k {} = (f k).1 := by
  simp [byBlock, List.getD_eq_getElem?_getD, hk]

theorem byBlock_length {raw : Bool} {n : Nat} {f : Nat → EBlock × Nat} : (byBlock raw n f).1.blocks.length = n := by simp [byBlock]

/-- The saturated integer, and whether it is another (R104). -/
theorem sat32_toInt (v : Int) : (sat32 v).1.toInt = clamp32 v := by
  unfold sat32 clamp32
  split
  · rw [BitVec.toInt_ofInt_eq_self (by decide) (by decide) (by decide)]; omega
  · split
    · rw [BitVec.toInt_ofInt_eq_self (by decide) (by decide) (by decide)]; omega
    · rw [BitVec.toInt_ofInt_eq_self (by decide) (by omega) (by omega)]; omega

theorem sat32_saturates (v : Int) : (sat32 v).2 = decide (clamp32 v ≠ v) := by
  unfold sat32 clamp32
  split
  · exact (decide_eq_true (by omega)).symm
  · split
    · exact (decide_eq_true (by omega)).symm
    · exact (decide_eq_false (by omega)).symm

/-- A lane of a raw result. -/
theorem rawLanes_lane {n k j : Nat} {v : Nat → Nat → Int} (hk : k < n) (hj : j < 32) : laneInt (rawLanes n v).1 k j = clamp32 (v k j) := by
  rw [laneInt, rawLanes, byBlock_getD hk, ← sat32_toInt]
  simp [rawResult, List.getD_eq_getElem?_getD, hj]

/-- The saturations of a raw result. -/
theorem rawLanes_count (n : Nat) (v : Nat → Nat → Int) :
    (rawLanes n v).2 = ((List.range n).map fun k => ((List.range 32).filter fun j => decide (clamp32 (v k j) ≠ v k j)).length).sum := by
  have hone (k : Nat) : (rawResult ((List.range 32).map (v k))).2 = ((List.range 32).filter fun j => decide (clamp32 (v k j) ≠ v k j)).length := by
    simp only [rawResult, List.map_map, List.filter_map, List.length_map]
    exact congrArg (fun p => ((List.range 32).filter p).length) (funext fun j => sat32_saturates (v k j))
  simp [rawLanes, byBlock, Function.comp_def, hone]

/-! ### The integers of a lane (R104) -/

theorem pow2_eq (n : Nat) : pow2 n = 2 ^ n := Nat.one_shiftLeft n

theorem shlInt_eq (x : Int) (n : Nat) : shlInt x n = x * 2 ^ n := by rw [shlInt, pow2_eq, Nat.cast_pow]; rfl

theorem floorShift_eq (x : Int) (n : Nat) : floorShift x n = x / 2 ^ n := by
  rw [floorShift, pow2_eq, Int.fdiv_eq_ediv_of_nonneg _ (Int.natCast_nonneg _), Nat.cast_pow]; rfl

theorem laneInt_range (r : EReg) (k j : Nat) : -(2 ^ 31) ≤ laneInt r k j ∧ laneInt r k j < 2 ^ 31 :=
  ⟨BitVec.le_toInt _, BitVec.toInt_lt⟩

theorem toInt_ofInt_laneInt (r : EReg) (k j : Nat) : (BitVec.ofInt 32 (laneInt r k j)).toInt = laneInt r k j :=
  congrArg BitVec.toInt BitVec.ofInt_toInt

/-- The complement of a word, as an integer. -/
theorem toInt_not_eq (v : BitVec 32) : (~~~v).toInt = -v.toInt - 1 := by
  rw [BitVec.toInt_eq_toNat_cond, BitVec.toInt_eq_toNat_cond, BitVec.toNat_not]
  omega

/-- The leading zero bits of a word by the size of its number. -/
theorem clz32_eq_size (v : BitVec 32) : clz32 v = 32 - (v.toNat.size : Int) := by
  unfold clz32
  split
  · next h => rw [h]; decide
  · next h =>
    have hv : v.toNat ≠ 0 := fun h0 => h (BitVec.eq_of_toNat_eq h0)
    have hs : v.toNat.size = log2 v.toNat + 1 :=
      le_antisymm (Nat.size_le.2 Nat.lt_log2_self) (Nat.lt_size.2 (Nat.log2_self_le hv))
    omega

/-- A shift left that saturates: a lost bit, or a count outside 0 to 31, gives the limit of the operand's sign. -/
theorem clamp32_shlRaw (x m : Int) :
    clamp32 (shlRaw x m) = if x = 0 then 0 else if 0 ≤ m ∧ m ≤ 31 then clamp32 (x * 2 ^ m.toNat)
      else if x < 0 then -(2 ^ 31) else 2 ^ 31 - 1 := by
  unfold shlRaw
  by_cases hx : x = 0
  · rw [if_pos hx, if_pos hx]; decide
  · rw [if_neg hx, if_neg hx]
    by_cases hm : 0 ≤ m ∧ m ≤ 31
    · rw [if_neg (by omega), if_pos hm, shlInt_eq]
    · rw [if_pos (by omega), if_neg hm]
      split <;> decide

/-- A shift right of a 32-bit integer is the floor of its division, whatever the count. -/
theorem shrRaw_eq {x : Int} (hx : -(2 ^ 31) ≤ x ∧ x < 2 ^ 31) (m : Int) : shrRaw x m = if m < 0 then x else x / 2 ^ m.toNat := by
  unfold shrRaw
  by_cases hm : m < 0
  · rw [if_pos hm, if_pos hm]
  · rw [if_neg hm, if_neg hm, floorShift_eq]
    by_cases h31 : 31 < m
    · have hp : (2 : Int) ^ 31 ≤ 2 ^ m.toNat := pow_le_pow_right₀ (by decide) (by omega)
      rw [if_pos h31]
      generalize (2 : Int) ^ m.toNat = p at hp ⊢
      split
      · exact (Int.ediv_eq_neg_one_of_neg_of_le ‹_› (by omega)).symm
      · exact (Int.ediv_eq_zero_of_lt (by omega) (by omega)).symm
    · rw [if_neg h31]

/-- A 16-bit number read as two's complement. -/
theorem signed_sixteen (v : Nat) : signed 16 v = (BitVec.ofNat 16 v).toInt := by
  rw [signed, pow2_eq, pow2_eq, BitVec.toInt_eq_toNat_cond, BitVec.toNat_ofNat]
  split <;> split <;> omega

/-- An entry of a lookup table (R102). -/
theorem lookTable_getD (x : Die) (off : Nat) {p : Nat} (hp : p < 256) :
    (x.lookTable off).t.getD p 0 = BitVec.ofNat 32 (le (x.planBytes (off + 8 + 4 * p) 4)) := by
  simp [Die.lookTable, List.getD_eq_getElem?_getD, hp]

/-! ### The operands and the shapes of R104 -/

section
variable {a b c : EReg} {n : Nat} {raw : Bool}

theorem unary_raw (ha : Blocks a true n) (fv : Val → Val) (fi : Int → Int) : unary fv fi a = rawLanes n fun k j => fi (laneInt a k j) := by
  rw [unary, blocks_raw ha, blocks_length ha]
  refine byBlock_congr fun k hk => ?_
  rw [if_pos rfl, blk_raws ha hk, List.map_map]; rfl

theorem unary_block (ha : Blocks a false n) (fv : Val → Val) (fi : Int → Int) : unary fv fi a = blockLanes n fun k j => fv (laneVal a k j) := by
  rw [unary, blocks_raw ha, blocks_length ha]
  refine byBlock_congr fun k hk => ?_
  rw [if_neg (by decide), blk_vals ha hk, List.map_map]; rfl

theorem binary_raw (ha : Blocks a true n) (hb : Blocks b true n) (fv : Val → Val → Val) (fi : Int → Int → Int) :
    binary fv fi a b = rawLanes n fun k j => fi (laneInt a k j) (laneInt b k j) := by
  rw [binary, blocks_raw ha, blocks_length ha]
  refine byBlock_congr fun k hk => ?_
  rw [if_pos rfl, blk_raws ha hk, blk_raws hb hk, zipWith_lanes]

theorem binary_block (ha : Blocks a false n) (hb : Blocks b false n) (fv : Val → Val → Val) (fi : Int → Int → Int) :
    binary fv fi a b = blockLanes n fun k j => fv (laneVal a k j) (laneVal b k j) := by
  rw [binary, blocks_raw ha, blocks_length ha]
  refine byBlock_congr fun k hk => ?_
  rw [if_neg (by decide), blk_vals ha hk, blk_vals hb hk, zipWith_lanes]

theorem compare_raw (ha : Blocks a true n) (hb : Blocks b true n) (fv : Val → Val → Bool) (p : Int → Int → Prop)
    [∀ x y, Decidable (p x y)] :
    Machine.compare fv (fun x y => decide (p x y)) a b = rawLanes n fun k j => if p (laneInt a k j) (laneInt b k j) then -1 else 0 := by
  rw [Machine.compare, blocks_length ha]
  refine byBlock_congr fun k hk => ?_
  rw [if_pos (blocks_raw ha), blk_raws ha hk, blk_raws hb hk, zipWith_lanes]
  simp only [decide_eq_true_eq]

theorem compare_block (ha : Blocks a false n) (hb : Blocks b false n) (fv : Val → Val → Bool) (fi : Int → Int → Bool) :
    Machine.compare fv fi a b = rawLanes n fun k j => if fv (laneVal a k j) (laneVal b k j) then -1 else 0 := by
  rw [Machine.compare, blocks_length ha]
  refine byBlock_congr fun k hk => ?_
  rw [if_neg (by rw [blocks_raw ha]; decide), blk_vals ha hk, blk_vals hb hk, zipWith_lanes]

theorem bitwise_raw (ha : Blocks a true n) (hb : Blocks b true n) (f : BitVec 32 → BitVec 32 → BitVec 32) :
    bitwise f a b = rawLanes n fun k j => (f (BitVec.ofInt 32 (laneInt a k j)) (BitVec.ofInt 32 (laneInt b k j))).toInt := by
  rw [bitwise, blocks_length ha]
  refine byBlock_congr fun k hk => ?_
  rw [blk_i ha hk, blk_i hb hk, zipWith_lanes]

theorem toRaw_block (ha : Blocks a false n) (f : Val → Int) : toRaw f a = rawLanes n fun k j => f (laneVal a k j) := by
  rw [toRaw, blocks_length ha]
  refine byBlock_congr fun k hk => ?_
  rw [blk_vals ha hk, List.map_map]; rfl

theorem elClz_raw (ha : Blocks a true n) : elClz a = rawLanes n fun k j => clz32 (BitVec.ofInt 32 (laneInt a k j)) := by
  rw [elClz, blocks_length ha]
  refine byBlock_congr fun k hk => ?_
  rw [blk_i ha hk, List.map_map]; rfl

/-- The shape of SHL and SHR: block or raw values with the raw counts of `b` (R104). -/
def shift (fv : Val → Int → Val) (fi : Int → Int → Int) (a b : EReg) : EReg × Nat :=
  byBlock a.raw a.blocks.length fun k =>
    if a.raw then rawResult (List.zipWith fi (a.blk k).raws (b.blk k).raws) else normResult (List.zipWith fv (a.blk k).vals (b.blk k).raws)

theorem elShl_eq_shift (a b : EReg) : elShl a b = shift Val.scale shlRaw a b := rfl
theorem elShr_eq_shift (a b : EReg) : elShr a b = shift (fun v m => v.scale (-m)) shrRaw a b := rfl

theorem shift_raw (ha : Blocks a true n) (hb : Blocks b true n) (fv : Val → Int → Val) (fi : Int → Int → Int) :
    shift fv fi a b = rawLanes n fun k j => fi (laneInt a k j) (laneInt b k j) := by
  rw [shift, blocks_raw ha, blocks_length ha]
  refine byBlock_congr fun k hk => ?_
  rw [if_pos rfl, blk_raws ha hk, blk_raws hb hk, zipWith_lanes]

theorem shift_block (ha : Blocks a false n) (hb : Blocks b true n) (fv : Val → Int → Val) (fi : Int → Int → Int) :
    shift fv fi a b = blockLanes n fun k j => fv (laneVal a k j) (laneInt b k j) := by
  rw [shift, blocks_raw ha, blocks_length ha]
  refine byBlock_congr fun k hk => ?_
  rw [if_neg (by decide), blk_vals ha hk, blk_raws hb hk, zipWith_lanes]

theorem elSel_raw (ha : Blocks a true n) (hb : Blocks b true n) (hc : Blocks c raw n) :
    elSel a b c = rawLanes n fun k j => if laneActive c k j then laneInt a k j else laneInt b k j := by
  rw [elSel, blocks_raw ha, blocks_length ha]
  refine byBlock_congr fun k hk => ?_
  dsimp only
  rw [if_pos rfl, blk_actives hc hk, blk_raws ha hk, blk_raws hb hk, zip_lanes, zipWith_lanes]

theorem elSel_block (ha : Blocks a false n) (hb : Blocks b false n) (hc : Blocks c raw n) :
    elSel a b c = blockLanes n fun k j => if laneActive c k j then laneVal a k j else laneVal b k j := by
  rw [elSel, blocks_raw ha, blocks_length ha]
  refine byBlock_congr fun k hk => ?_
  dsimp only
  rw [if_neg (by decide), blk_actives hc hk, blk_vals ha hk, blk_vals hb hk, zip_lanes, zipWith_lanes]

theorem elTof_raw (ha : Blocks a true n) : elTof a = blockLanes n fun k j => (Dy.mk (laneInt a k j) 0).val := by
  rw [elTof, blocks_length ha]
  refine byBlock_congr fun k hk => ?_
  rw [blk_raws ha hk, List.map_map]; rfl

theorem elLut_raw (ha : Blocks a true n) (t : LookTable) :
    elLut t a = blockLanes n fun k j => (Dy.mk (t.t.getD (laneInt a k j % 256).toNat 0).toInt t.te).val := by
  rw [elLut, blocks_length ha]
  refine byBlock_congr fun k hk => ?_
  have hidx (j : Nat) : (BitVec.ofInt 32 (laneInt a k j)).toNat % 256 = (laneInt a k j % 256).toNat := by
    rw [BitVec.toNat_ofInt]; omega
  rw [blk_i ha hk, List.map_map]
  simp only [Function.comp_def, hidx]

/-- A register whose block `k` holds exact values at the exponent `e k`, rounded to nearest even and saturated, none of them counted
(R93, R104). -/
def alignedLanes (n : Nat) (e : Nat → Int) (v : Nat → Nat → Val) : EReg × Nat :=
  byBlock false n fun k =>
    ({ e := e k, i := (List.range 32).map fun j => (sat32 (quantaAt .nearestEven (e k) (v k j))).1
       nf := (List.range 32).map fun j => nfOf (v k j) }, 0)

theorem elAln_block (ha : Blocks a false n) (b : EReg) : elAln a b = alignedLanes n (fun k => (b.blk k).e) (laneVal a) := by
  rw [elAln, blocks_length ha]
  refine byBlock_congr fun k hk => ?_
  simp only [blk_vals ha hk, List.map_map, Function.comp_def]

theorem alignedLanes_e {e : Nat → Int} {v : Nat → Nat → Val} {k : Nat} (hk : k < n) : ((alignedLanes n e v).1.blocks.getD k {}).e = e k := by
  rw [alignedLanes, byBlock_getD hk]

theorem alignedLanes_lane {e : Nat → Int} {v : Nat → Nat → Val} {k j : Nat} (hk : k < n) (hj : j < 32) :
    laneInt (alignedLanes n e v).1 k j = clamp32 (quantaAt .nearestEven (e k) (v k j))
      ∧ ((alignedLanes n e v).1.blocks.getD k {}).nf.getD j 0 = nfOf (v k j) := by
  rw [laneInt, alignedLanes, byBlock_getD hk, ← sat32_toInt]
  constructor <;> dsimp only <;> rw [lanes_getD hj]

/-- The integer that TOI makes of an exact value, before it is saturated (R104). -/
def intOf : Val → Int
  | .nan => 0
  | .inf neg => if neg then -(2 ^ 31) else 2 ^ 31 - 1
  | .fin neg m e => floorVal (.fin neg m e)

/-- The floor of a finite value. -/
theorem intOf_fin (neg : Bool) (m : Nat) (e : Int) : intOf (.fin neg m e)
    = if 0 ≤ e then (if neg then -(m : Int) else m) * 2 ^ e.toNat else (if neg then -(m : Int) else m) / 2 ^ (-e).toNat := by
  rw [intOf, floorVal, shlInt_eq, floorShift_eq]

/-- TOI makes the lanes `intOf` its operand's values; what it counts beside saturations leaves the register. -/
theorem elToi_fst (ha : Blocks a false n) : (elToi a).1 = (rawLanes n fun k j => intOf (laneVal a k j)).1 := by
  refine (congrArg Prod.fst (toRaw_block ha _)).trans (congrArg Prod.fst (rawLanes_congr fun k j => ?_))
  cases laneVal a k j <;> rfl

theorem elNfc_block (ha : Blocks a false n) : elNfc a = rawLanes n fun k j => ((nfOf (laneVal a k j)).toNat : Int) := by
  rw [elNfc, blocks_length ha]
  refine byBlock_congr fun k hk => ?_
  rw [blk_nf ha hk, List.map_map]; rfl
end

/-! ### The kind rule (R99, R104) -/

section
variable {a b : EReg} {n : Nat} {raw : Bool}

/-- MOV, NEG, ABS, NOT, CLZ, LUTA, LUTB and TOF of a raw operand. -/
theorem kindOk_raw_one (ha : Blocks a true n) (b c : EReg) : ∀ op ∈ [1, 5, 6, 12, 19, 21, 22, 25], kindOk op a b c = true := by
  simp [kindOk, blocks_written ha, blocks_raw ha]

/-- MOV, NEG, ABS, ILG, TOI and NFC of a block operand. -/
theorem kindOk_block_one (ha : Blocks a false n) (b c : EReg) : ∀ op ∈ [1, 5, 6, 20, 24, 26], kindOk op a b c = true := by
  simp [kindOk, blocks_written ha, blocks_raw ha]

/-- ADD, SUB, MUL, SHL, SHR, AND, OR, XOR, CLT, CLE, CEQ, MAX and MIN of raw operands. -/
theorem kindOk_raw_two (ha : Blocks a true n) (hb : Blocks b true n) (c : EReg) :
    ∀ op ∈ [2, 3, 4, 7, 8, 9, 10, 11, 13, 14, 15, 17, 18], kindOk op a b c = true := by
  simp [kindOk, blocks_written ha, blocks_raw ha, blocks_written hb, blocks_raw hb]

/-- ADD, SUB, MUL, CLT, CLE, CEQ, MAX, MIN and ALN of block operands. -/
theorem kindOk_block_two (ha : Blocks a false n) (hb : Blocks b false n) (c : EReg) :
    ∀ op ∈ [2, 3, 4, 13, 14, 15, 17, 18, 23], kindOk op a b c = true := by
  simp [kindOk, blocks_written ha, blocks_raw ha, blocks_written hb, blocks_raw hb]

/-- SHL and SHR of a block operand by raw counts. -/
theorem kindOk_block_shift (ha : Blocks a false n) (hb : Blocks b true n) (c : EReg) : ∀ op ∈ [7, 8], kindOk op a b c = true := by
  simp [kindOk, blocks_written ha, blocks_written hb, blocks_raw hb]

/-- SEL of operands of one kind by a register of either. -/
theorem kindOk_sel {c : EReg} {kind : Bool} (ha : Blocks a raw n) (hb : Blocks b raw n) (hc : Blocks c kind n) : kindOk 16 a b c = true := by
  simp [kindOk, blocks_written ha, blocks_raw ha, blocks_written hb, blocks_raw hb, blocks_written hc]
end

/-! ### An element instruction as a step -/

section
variable {s : State} {cd : Cd} {w : ElemWord} {i : Instr} {op n : Nat} {f : EReg → EReg → EReg → EReg × Nat}

/-- Instruction `i` is the element instruction `op`, whose result is `f`. -/
def IsElement (s : State) (cd : Cd) (w : ElemWord) (i : Instr) (op : Nat) (f : EReg → EReg → EReg → EReg × Nat) : Prop :=
  exec i s = .next { s with dev := s.dev.element cd op w f }

/-- An element instruction whose operands keep the kind rule writes its result and counts its saturations (R93, R99). -/
theorem exec_element (h : IsElement s cd w i op f) {r : EReg × Nat} :
    let v := s.dev.dies[cd].whisk.v
    kindOk op v[w.va] v[w.vb] v[w.vc] = true → f v[w.va] v[w.vb] v[w.vc] = r → exec i s = .next (withElement s cd w.vd r.1 r.2) := by
  rintro v hk rfl
  have hd : s.dev.dies[cd].element op w f = { s.dev.dies[cd] with
      whisk := { s.dev.dies[cd].whisk with v := v.set w.vd (f v[w.va] v[w.vb] v[w.vc]).1 }
      tally := { s.dev.dies[cd].tally with sat := s.dev.dies[cd].tally.sat.add (f v[w.va] v[w.vb] v[w.vc]).2 } } :=
    if_neg (by rw [hk]; decide)
  rw [h, withElement, Device.element, Device.modDie, upd, hd]

/-- One whose result is raw lanes. -/
theorem givesRaw_of {v : Nat → Nat → Int} (h : IsElement s cd w i op f) :
    let x := s.dev.dies[cd].whisk.v
    kindOk op x[w.va] x[w.vb] x[w.vc] = true → f x[w.va] x[w.vb] x[w.vc] = rawLanes n v → GivesRaw s cd i w.vd n v := fun hk hf =>
  ⟨(rawLanes n v).1, rawLanes_count n v ▸ exec_element h hk hf, rfl, rfl, byBlock_length, fun _ hk _ hj => rawLanes_lane hk hj⟩

/-- One whose result is normalised blocks. -/
theorem givesBlocks_of {v : Nat → Nat → Val} (h : IsElement s cd w i op f) :
    let x := s.dev.dies[cd].whisk.v
    kindOk op x[w.va] x[w.vb] x[w.vc] = true → f x[w.va] x[w.vb] x[w.vc] = blockLanes n v → GivesBlocks s cd i w.vd n v := fun hk hf =>
  ⟨(blockLanes n v).1, (blockLanes n v).2, exec_element h hk hf, rfl, rfl, byBlock_length, fun k hk => by
    rw [blockLanes, byBlock_getD hk, normResult, List.map_map]; rfl⟩
end

end Sys2Proof.Laws
end

section
/-! Element instructions on raw operands give saturated integers and count each saturation (O11). -/

namespace Sys2Proof.Safety

set_option Elab.async false

open Sys2Proof Sys2Proof.Machine Sys2Proof.Laws

/-- A register written with itself and nothing counted is no change. -/
theorem withElement_self (s : State) (cd : Cd) (vd : Fin 16) : withElement s cd vd s.dev.dies[cd].whisk.v[vd] 0 = s := by
  have hcount : s.dev.dies[cd].tally.sat.add 0 = s.dev.dies[cd].tally.sat := by
    rw [Counter.add, Nat.add_zero, if_pos (BitVec.isLt _), BitVec.add_zero]
  have hv : s.dev.dies[cd].whisk.v.set vd s.dev.dies[cd].whisk.v[vd] = s.dev.dies[cd].whisk.v := Vector.set_getElem_self _
  have hdies : s.dev.dies.set cd s.dev.dies[cd] = s.dev.dies := Vector.set_getElem_self _
  rw [withElement, hcount, hv, hdies]

/-- Settles O11: each row's result is the raw lanes of its shape (`unary_raw`, `binary_raw`, `bitwise_raw`, `compare_raw`, `shift_raw`,
`elClz_raw`, `elSel_raw`), and an element instruction writes just that and counts its saturations (`givesRaw_of`, `exec_element`). -/
theorem rawElementInstructionsSaturate : Obligations.RawElementInstructionsSaturate := by
  intro s cd w n v a b bv
  refine ⟨?_, fun ha => ?_, fun ha hb => ?_⟩
  · rw [exec_element (i := .elemNop cd w) rfl rfl rfl]
    exact congrArg Host.Outcome.next (withElement_self ..)
  · have hk := kindOk_raw_one ha v[w.vb] v[w.vc]
    refine ⟨givesRaw_of rfl (hk 1 (by decide)) (unary_raw ha _ _),
      givesRaw_of rfl (hk 5 (by decide)) (unary_raw ha _ _),
      givesRaw_of rfl (hk 6 (by decide)) ?abs,
      givesRaw_of rfl (hk 12 (by decide)) ?not,
      givesRaw_of rfl (hk 19 (by decide)) ?clz⟩
    case abs => exact (unary_raw ha _ _).trans (rawLanes_congr fun k j => (Int.abs_eq_natAbs _).symm)
    case not => exact (unary_raw ha _ _).trans (rawLanes_congr fun k j => by rw [toInt_not_eq, toInt_ofInt_laneInt])
    case clz => exact (elClz_raw ha).trans (rawLanes_congr fun k j => clz32_eq_size _)
  · have hk := kindOk_raw_two ha hb v[w.vc]
    refine ⟨givesRaw_of rfl (hk 2 (by decide)) (binary_raw ha hb _ _),
      givesRaw_of rfl (hk 3 (by decide)) (binary_raw ha hb _ _),
      givesRaw_of rfl (hk 4 (by decide)) (binary_raw ha hb _ _),
      givesRaw_of rfl (hk 9 (by decide)) (bitwise_raw ha hb _),
      givesRaw_of rfl (hk 10 (by decide)) (bitwise_raw ha hb _),
      givesRaw_of rfl (hk 11 (by decide)) (bitwise_raw ha hb _),
      givesRaw_of rfl (hk 8 (by decide)) ?shr,
      ⟨_, _, exec_element (i := .elemShl cd w) rfl (hk 7 (by decide)) ((elShl_eq_shift ..).trans (shift_raw ha hb _ _)), rfl, rfl,
        byBlock_length, ?shl⟩,
      givesRaw_of rfl (hk 13 (by decide)) (compare_raw ha hb _ _),
      givesRaw_of rfl (hk 14 (by decide)) (compare_raw ha hb _ _),
      givesRaw_of rfl (hk 15 (by decide)) (compare_raw ha hb _ _),
      givesRaw_of rfl (hk 17 (by decide)) ?max,
      givesRaw_of rfl (hk 18 (by decide)) ?min,
      fun kind hc => givesRaw_of rfl (kindOk_sel ha hb hc) (elSel_raw ha hb hc)⟩
    case shl => exact fun k hk j hj => (rawLanes_lane hk hj).trans (clamp32_shlRaw _ _)
    case shr => exact (elShr_eq_shift ..).trans <| (shift_raw ha hb _ _).trans (rawLanes_congr fun k j => shrRaw_eq (laneInt_range ..) _)
    case max => exact (binary_raw ha hb _ _).trans (rawLanes_congr fun k j => (max_def_lt _ _).symm)
    case min => exact (binary_raw ha hb _ _).trans (rawLanes_congr fun k j => (min_def_lt _ _).symm)

end Sys2Proof.Safety
end

section
/-! Element instructions on block operands normalise exact values, or give raw lanes (O12). -/

namespace Sys2Proof.Safety

set_option Elab.async false

open Sys2Proof Sys2Proof.Machine Sys2Proof.Laws

/-- The entry of a lookup table that a lane selects (R102), in the words of the claim. -/
theorem lookTable_entry (s : State) (cd : Cd) (off : Nat) (p : Int) :
    let t := s.dev.dies[cd].lookTable off
    (Dy.mk (t.t.getD (p % 256).toNat 0).toInt t.te).val
      = (Dy.mk (BitVec.ofNat 32 (le ((List.range 4).map fun i => localByte s cd (off + 8 + 4 * (p % 256).toNat + i)))).toInt
          (BitVec.ofNat 16 (le ((List.range 2).map fun i => localByte s cd (off + i)))).toInt).val := by
  intro t
  rw [lookTable_getD _ _ (by omega), show t.te = _ from signed_sixteen _]
  rfl

/-- Each row's result is the normalised blocks of its shape; ALN alone keeps the exponents of vb (R102). -/
theorem blockElementInstructionsNormaliseExactValues : Sys2Proof.Claims.BlockElementInstructionsNormaliseExactValues := by
  intro s cd w n x v a b entry
  refine ⟨fun ha => ?_, fun ha hb => ?_, fun ha hb => ?_, fun ha hb kind hc => ?_, fun ha => ?_, fun ha hb => ?_⟩
  · have hk := kindOk_block_one ha v[w.vb] v[w.vc]
    exact ⟨givesBlocks_of rfl (hk 1 (by decide)) (unary_block ha _ _),
      givesBlocks_of rfl (hk 5 (by decide)) (unary_block ha _ _),
      givesBlocks_of rfl (hk 6 (by decide)) (unary_block ha _ _)⟩
  · have hk := kindOk_block_two ha hb v[w.vc]
    exact ⟨givesBlocks_of rfl (hk 2 (by decide)) (binary_block ha hb _ _),
      givesBlocks_of rfl (hk 3 (by decide)) (binary_block ha hb _ _),
      givesBlocks_of rfl (hk 4 (by decide)) (binary_block ha hb _ _),
      givesBlocks_of rfl (hk 17 (by decide)) (binary_block ha hb _ _),
      givesBlocks_of rfl (hk 18 (by decide)) (binary_block ha hb _ _)⟩
  · have hk := kindOk_block_shift ha hb v[w.vc]
    exact ⟨givesBlocks_of rfl (hk 7 (by decide)) ((elShl_eq_shift ..).trans (shift_block ha hb _ _)),
      givesBlocks_of rfl (hk 8 (by decide)) ((elShr_eq_shift ..).trans (shift_block ha hb _ _))⟩
  · exact givesBlocks_of rfl (kindOk_sel ha hb hc) (elSel_block ha hb hc)
  · have hk := kindOk_raw_one ha v[w.vb] v[w.vc]
    have hlut (off : Nat) : elLut (x.lookTable off) v[w.va] = blockLanes n fun k j => _ :=
      (elLut_raw ha _).trans (blockLanes_congr fun k j => lookTable_entry s cd off _)
    exact ⟨givesBlocks_of rfl (hk 25 (by decide)) (elTof_raw ha), givesBlocks_of rfl (hk 21 (by decide)) (hlut _),
      givesBlocks_of rfl (hk 22 (by decide)) (hlut _)⟩
  · exact ⟨_, _, exec_element (i := .aln cd w) rfl (kindOk_block_two ha hb v[w.vc] 23 (by decide)) (elAln_block ha _), rfl, rfl, byBlock_length,
      fun k hk => ⟨alignedLanes_e hk, fun j hj => alignedLanes_lane hk hj⟩⟩

/-- Each row's result is raw lanes; what TOI counts beside saturations is the non-finite values (R93). -/
theorem blockComparesAndConversionsGiveRawLanes : Sys2Proof.Claims.BlockComparesAndConversionsGiveRawLanes := by
  intro s cd w n v a b
  refine ⟨fun ha hb => ?_, fun ha => ?_⟩
  · have hk := kindOk_block_two ha hb v[w.vc]
    exact ⟨givesRaw_of rfl (hk 13 (by decide)) (compare_block ha hb _ _), givesRaw_of rfl (hk 14 (by decide)) (compare_block ha hb _ _),
      givesRaw_of rfl (hk 15 (by decide)) (compare_block ha hb _ _)⟩
  · have hk := kindOk_block_one ha v[w.vb] v[w.vc]
    refine ⟨givesRaw_of rfl (hk 20 (by decide)) ?_, givesRaw_of rfl (hk 26 (by decide)) (elNfc_block ha), ?_⟩
    · exact toRaw_block ha _
    · refine ⟨(elToi v[w.va]).1, (elToi v[w.va]).2, exec_element (i := .toi cd w) rfl (hk 24 (by decide)) rfl, rfl, rfl, ?_, ?_⟩
      · rw [elToi_fst ha]; exact byBlock_length
      · intro k hk j hj
        rw [elToi_fst ha, rawLanes_lane hk hj]
        show clamp32 (intOf (a k j)) = _
        match a k j with
        | .nan | .inf true | .inf false => decide
        | .fin neg m e => exact congrArg clamp32 (intOf_fin neg m e)

/-- Settles O12: the rows with block results, and those that make raw lanes of block operands. -/
theorem blockElementInstructions : Obligations.BlockElementInstructions :=
  ⟨blockElementInstructionsNormaliseExactValues, blockComparesAndConversionsGiveRawLanes⟩

end Sys2Proof.Safety
end

section
/-! SUPPORT. RUN (R105, R106, R118): how a RUN starts, its passes over groups, and what it leaves of its die. -/

namespace Sys2Proof.Laws

set_option Elab.async false

open Sys2Proof Sys2Proof.Machine Sys2Proof.Safety

/-! ### What an end and a stop point leave of the Whisk -/

section
variable {x : Die} {q : QueueId} {e : QEntry} {svals : List (Fin 16 × BitVec 64)} {done : Bool} {n : Nat}

@[simp] theorem linkStart_whisk : (x.linkStart e).whisk = x.whisk := by
  unfold Die.linkStart Die.modLink
  split <;> split <;> rfl

@[simp] theorem markStart_whisk : (x.markStart q e svals done).whisk = x.whisk := by
  unfold Die.markStart
  split
  · rfl
  · exact linkStart_whisk

@[simp] theorem markCut_whisk : (x.markCut q e n svals).whisk = x.whisk := markStart_whisk (q := q) (svals := svals) (done := false)

/-- Rows that are taken from an output stage leave the Whisk. -/
theorem rowsTaken_whisk {ma : MaNo} {ladle : Bool} : (x.rowsTaken ma ladle).whisk = x.whisk := by
  unfold Die.rowsTaken
  split
  · rfl
  · dsimp only
    split <;> rfl

theorem foldl_rowsTaken_whisk (l : List Nat) : (l.foldl (fun y m => y.rowsTaken (idx 4 m) false) x).whisk = x.whisk := by
  induction l generalizing x with
  | nil => rfl
  | cons m t ih => exact ih.trans rowsTaken_whisk
end

/-! ### A command of groups (R94, R105, R106, R118) -/

/-- The rows of an output stage that an input stream takes (R97). -/
def rowsOfStream (x : Die) (i : WStream) : Option IntRows := if i.src = 0 then none else x.rowsOf (i.src - 1) false

section
variable {d : Device} {c : Context} {cd : Cd} {e : QEntry} {w : WCmd} {g n : Nat} {b : WDense} {r : WRun}

/-- What a RUN needs to start: the rows that it takes are there, and no stream breaks a rule (R97, R98, R109, R116). -/
structure LegalRun (d : Device) (cd : Cd) (e : QEntry) (w : WCmd) : Prop where
  rows : ∀ i ∈ w.ins, i.src ≠ 0 → (d.dies[cd].rowsOf (i.src - 1) false).isSome
  sources : d.sourceFault cd w = none
  apart : cwGa e.w ≠ 0 → w.overlap = none

/-- The groups that a RUN takes before its end or its stop point (R118). -/
def groupsNow (d : Device) (c : Context) (w : WCmd) : Nat := if d.stopping c then 1 else 3 * w.groups.length

/-- A legal RUN that has not started runs its first pass from its first group on. -/
theorem whiskEngine_starts (he : e.started = false) (hw : d.dies[cd].whiskCmd (cwRec e.w) e.ga.toNat = w) (h : LegalRun d cd e w) :
    whiskEngine cd d c e = d.whiskGo c cd w (if w.prog.mode = 2 then 2 else 1) 0 (groupsNow d c w) (d.dies[cd].whisk.resumed d w false) := by
  obtain ⟨hrows, hsrc, hover⟩ := h
  have hthere : ¬(((w.ins.filter fun s => s.src ≠ 0).map fun s => s.src - 1).any fun m => (d.dies[cd].rowsOf m false).isNone) = true := by
    simpa [← Option.isSome_iff_ne_none] using hrows
  have hapart : (if cwGa e.w = 0 then none else w.overlap) = none := by
    split
    · rfl
    · exact hover ‹_›
  unfold whiskEngine
  dsimp only
  rw [hw, if_neg (by rw [he]; decide), if_neg hthere, hsrc]
  dsimp only
  rw [hapart]
  rfl

/-- A RUN that has started goes on at its pass and group. -/
theorem whiskEngine_goesOn (he : e.started = true) (hw : d.dies[cd].whiskCmd (cwRec e.w) e.ga.toNat = w) :
    whiskEngine cd d c e = d.whiskGo c cd w d.dies[cd].whisk.pass.toNat d.dies[cd].whisk.groups.toNat (groupsNow d c w)
      (d.dies[cd].whisk.resumed d w true) := by
  unfold whiskEngine
  dsimp only
  rw [hw, if_pos he]
  rfl

/-- A plain or summary command whose groups all run ends, or comes to a stop point when groups are left. -/
theorem whiskGo_plain {pass : Nat} (hm : w.prog.mode ≠ 2)
    (h : overGroups (WRun.plainGroup c cd w (d.stepNo c) (rowsOfStream d.dies[cd]) (d.dies[cd].lookTable w.prog.tabA)
      (d.dies[cd].lookTable w.prog.tabB)) ((w.groups.drop g).take n) b.r = .ok r) :
    d.whiskGo c cd w pass g n b = if g + n < w.groups.length then .cut (r.d.holdWhisk cd { b with r := r } w 1 (g + n)) 0 []
      else WDense.finish { b with r := r } cd w w.groups.length := by
  unfold rowsOfStream at h
  unfold Device.whiskGo
  dsimp only
  rw [if_neg hm, h]

/-- A pass over one group. -/
theorem overGroups_one {σ : Type} {f : List Nat → σ → Except (Device × WFault) σ} {xs : List Nat} {a z : σ} (h : f xs a = .ok z) :
    overGroups f [xs] a = .ok z := by
  simp only [overGroups, h]
end

/-- The five values of a summary, with their s-registers (R106). -/
theorem summary_svals (r : Reduction) (ex : Int) (base : Nat) :
    ((r.summary ex).zipIdx.map fun (v, i) => (idx 16 (base + i), v)) =
      [(idx 16 base, BitVec.ofNat 64 r.count),
        (idx 16 (base + 1), (r.hi.map (summary64 ex)).getD (BitVec.ofInt 64 (-(2 ^ 63)))),
        (idx 16 (base + 2), (r.lo.map (summary64 ex)).getD (BitVec.ofInt 64 (2 ^ 63 - 1))),
        (idx 16 (base + 3), summary64 ex r.sum),
        (idx 16 (base + 4), if r.nan || r.pos || r.neg then 1 else 0)] := by
  cases hhi : r.hi <;> cases hlo : r.lo <;> simp [Reduction.summary, hhi, hlo]

/-! ### What the Whisk holds (R118) -/

section
variable {b : WDense} {w : WCmd} {pass g : Nat}

/-- The reductions of the outputs and of the summary. -/
theorem held_reds (i : Fin 5) : (b.held w pass g).reds[i] = if i.val = 4 then b.r.sum else b.r.rows.getD (w.prog.k + i.val) {} := each_get ..
end

end Sys2Proof.Laws
end

section
/-! A summary RUN leaves its five values for the s-registers and its outputs in memory, and one that is stopped goes on at its next
group (O13). -/

namespace Sys2Proof.Safety

set_option Elab.async false

open Sys2Proof Sys2Proof.Machine Sys2Proof.Laws

section
variable {s : State} {cd : Cd} {c : Context} {e : QEntry} {d : Device} {svals : List (Fin 16 × BitVec 64)} {done : Bool} {n : Nat}

/-- A RUN that runs. -/
theorem exec_whiskRun_ran (h : Starts s cd 4 1 c e) (hf : whiskEngine cd s.dev c e = .ran d svals done) :
    exec (.whiskRun cd) s = .next { s with dev := d.modDie cd fun x => x.markStart 4 e svals done } := by
  rw [← startHead_ran h hf]; rfl

/-- A RUN that comes to a stop point. -/
theorem exec_whiskRun_cut (h : Starts s cd 4 1 c e) (hf : whiskEngine cd s.dev c e = .cut d n svals) :
    exec (.whiskRun cd) s = .next { s with dev := d.modDie cd fun x => x.markCut 4 e n svals } := by
  rw [← startHead_cut h hf]; rfl
end

/-- A summary RUN that nothing stops runs all of its groups at once, and so ends. -/
theorem summaryRunHoldsItsFiveValuesWhole : Sys2Proof.Claims.SummaryRunHoldsItsFiveValuesWhole := by
  intro s cd c e r x w p ro hstart hnew hrun hmode hrows hsrc hover hraw hgroups
  have hnow : groupsNow s.dev c w = 3 * w.groups.length := by rw [groupsNow, hrun]; rfl
  have hm : w.prog.mode ≠ 2 := by rw [show w.prog.mode = 1 from hmode]; decide
  have hall : (w.groups.drop 0).take (groupsNow s.dev c w) = w.groups := by
    rw [hnow, List.drop_zero, List.take_of_length_le (by omega)]
  have hend : whiskEngine cd s.dev c e = WDense.finish { r := r } cd w w.groups.length := by
    rw [whiskEngine_starts hnew rfl ⟨hrows, hsrc, hover⟩, whiskGo_plain hm (by rw [hall]; exact hgroups), if_neg (by rw [hnow]; omega)]
    rfl
  rw [WDense.finish, if_pos hmode, hraw, if_neg (by decide), summary_svals] at hend
  refine ⟨_, exec_whiskRun_ran hstart hend, rfl, ?_, ?_, fun q hq hn => ?_⟩
  · rw [modDie_self, markStart_whisk, modDie_self, foldl_rowsTaken_whisk, Device.holdWhisk, modDie_self]; rfl
  · rw [modDie_self, markStart_whisk, modDie_self, foldl_rowsTaken_whisk, Device.holdWhisk, modDie_self]; rfl
  · rw [modDie_self] at hq
    obtain ⟨hs, hd, -, hv⟩ := markStart_entry hq hn
    exact ⟨hs, hd, hv⟩

/-- A RUN that is being stopped runs one group, its first or that of the Whisk's count, and comes to a stop point with the Whisk as it then
stands (`WDense.held`). -/
theorem stoppedRunGoesOnAtItsNextGroup : Sys2Proof.Claims.StoppedRunGoesOnAtItsNextGroup := by
  intro s cd c e r0 r g x w p ro hstart hstop hmode hleft hg hfirst hlater hgroup
  have hnow : groupsNow s.dev c w = 1 := by rw [groupsNow, if_pos hstop]
  have hm : w.prog.mode ≠ 2 := by have : w.prog.mode ≤ 1 := hmode; omega
  have hone : (w.groups.drop g).take (groupsNow s.dev c w) = [w.groups.getD g []] := by
    rw [hnow, List.take_one]
    simp [List.getD_eq_getElem?_getD, show g < w.groups.length by omega]
  obtain ⟨b, hb⟩ : ∃ b : WDense, whiskEngine cd s.dev c e = .cut (r.d.holdWhisk cd { b with r := r } w 1 (g + 1)) 0 [] := by
    cases he : e.started with
    | false =>
      obtain ⟨rfl, hrows, hsrc, hover, rfl⟩ := hfirst he
      refine ⟨x.whisk.resumed s.dev w false, ?_⟩
      rw [whiskEngine_starts he rfl ⟨hrows, hsrc, hover⟩, whiskGo_plain hm (by rw [hone]; exact overGroups_one hgroup), hnow, if_pos hleft]
    | true =>
      obtain ⟨rfl, rfl⟩ := hlater he
      refine ⟨x.whisk.resumed s.dev w true, ?_⟩
      rw [whiskEngine_goesOn he rfl, whiskGo_plain hm (by rw [hone]; exact overGroups_one hgroup), hnow, if_pos hleft]
  refine ⟨_, exec_whiskRun_cut hstart hb, rfl, rfl, ?_, fun q hq hn => ?_⟩
  · dsimp only
    rw [modDie_self, markCut_whisk, Device.holdWhisk, modDie_self]
    refine ⟨rfl, rfl, ?_, held_reds 4, fun i => ?_⟩
    · exact Nat.mod_eq_of_lt (by omega)
    · exact (held_reds i.castSucc).trans (if_neg (Nat.ne_of_lt i.isLt))
  · rw [modDie_self] at hq
    exact markCut_entry hq hn

/-- Settles O13, claim by claim: the two ways in which a RUN of groups ends its step (`whiskGo_plain`). -/
theorem summaryRunHoldsItsFiveValues : Obligations.SummaryRunHoldsItsFiveValues :=
  ⟨summaryRunHoldsItsFiveValuesWhole, stoppedRunGoesOnAtItsNextGroup⟩

end Sys2Proof.Safety
end

section
/-! SUPPORT. The rows of the scalar table on a running Cox (R134): what a row of each shape does to the state, and its values in exact
arithmetic. -/

namespace Sys2Proof.Laws

set_option Elab.async false

open Sys2Proof Sys2Proof.Machine Sys2Proof.Safety

/-! ### Fields of words -/

theorem bits_eq (v hi lo : Nat) : bits v hi lo = v / 2 ^ lo % 2 ^ (hi + 1 - lo) := by
  rw [bits, pow2_eq, Nat.shiftRight_eq_div_pow]

theorem idx_mod (r : Nat) : idx 8 (r % 8) = idx 8 r := Fin.ext (Nat.mod_mod r 8)

theorem idx_val (n i : Nat) (h : 0 < n) : (idx n i h).val = i % n := rfl

theorem pRead_mod (s : State) (cd : Cd) (r : Nat) : pRead s cd (r % 8) = pRead s cd r := by
  simp only [pRead, Nat.mod_mod, idx_mod]

/-! ### Rows of the scalar table -/

section
variable {s : State} {cd : Cd} {w : Slot0} {i : Instr} {f : Slot0 → Cox → Cox}

/-- A row that writes a g-register leaves the state with that register written. -/
theorem exec_writes_g (h : ScalarRuns s cd w) (hi : exec i s = .next { s with dev := s.dev.scalar cd w (onCox f) }) {r : Fin 32} {v : W64} {lat : Nat}
    {u : W64} (hf : f w s.dev.dies[cd].cox = (s.dev.dies[cd].cox).wr r u lat) (hv : u = v) : exec i s = .next (withG s cd r v lat) := by
  subst hv; rw [hi, exec_wr h hf]

/-- A row that writes a predicate leaves the state with that predicate written. -/
theorem exec_writes_p (h : ScalarRuns s cd w) (hi : exec i s = .next { s with dev := s.dev.scalar cd w (onCox f) }) {u v : Bool}
    (hf : f w s.dev.dies[cd].cox = (s.dev.dies[cd].cox).wrp w.pd u) (hv : u = v) : exec i s = .next (withP s cd (w.d.val % 8) v) := by
  subst hv
  have hpd : w.pd = idx 8 (w.d.val % 8) := (idx_mod _).symm
  rw [hi, scalar_onCox h, hf, hpd, withCox_wrp]

/-- A row on a running Cox of a known context. -/
theorem exec_row {c : Context} {g : Scalar} (h : ScalarRunsIn s cd w c) (hi : exec i s = .next { s with dev := s.dev.scalar cd w g }) :
    exec i s = .next { s with dev := (g w c cd s.dev).1 } := by rw [hi, scalar_runs h]

/-- A register write on the device is the register write of the claims. -/
theorem modCox_wr (s : State) (cd : Cd) (r : Fin 32) (v : W64) (lat : Nat) :
    ({ s with dev := s.dev.modCox cd fun k => k.wr r v lat } : State) = withG s cd r v lat := withCox_wr s cd r v lat
end

/-! ### Values of R134 in exact arithmetic -/

section
variable (a y : W64) (n : Nat)

theorem add_exact : a + y = BitVec.ofNat 64 (a.toNat + y.toNat) := by
  apply BitVec.eq_of_toNat_eq; simp

theorem sub_exact : a - y = BitVec.ofInt 64 (a.toInt - y.toInt) := by
  apply BitVec.eq_of_toInt_eq; simp [BitVec.toInt_sub]

theorem mul_exact : a * y = BitVec.ofNat 64 (a.toNat * y.toNat) := by
  apply BitVec.eq_of_toNat_eq; simp

theorem div_exact : a / y = BitVec.ofNat 64 (a.toNat / y.toNat) := by
  have h : a.toNat / y.toNat < 2 ^ 64 := (Nat.div_le_self _ _).trans_lt a.isLt
  apply BitVec.eq_of_toNat_eq; rw [BitVec.toNat_udiv, BitVec.toNat_ofNat, Nat.mod_eq_of_lt h]

theorem mod_exact : a % y = BitVec.ofNat 64 (a.toNat % y.toNat) := by
  have h : a.toNat % y.toNat < 2 ^ 64 := (Nat.mod_le _ _).trans_lt a.isLt
  apply BitVec.eq_of_toNat_eq; rw [BitVec.toNat_umod, BitVec.toNat_ofNat, Nat.mod_eq_of_lt h]

theorem shl_exact : a <<< n = BitVec.ofNat 64 (a.toNat * 2 ^ n) := by
  apply BitVec.eq_of_toNat_eq; rw [BitVec.toNat_shiftLeft, BitVec.toNat_ofNat, Nat.shiftLeft_eq]

theorem shr_exact : a >>> n = BitVec.ofNat 64 (a.toNat / 2 ^ n) := by
  have h : a.toNat / 2 ^ n < 2 ^ 64 := (Nat.div_le_self _ _).trans_lt a.isLt
  apply BitVec.eq_of_toNat_eq
  rw [BitVec.toNat_ushiftRight, BitVec.toNat_ofNat, Nat.mod_eq_of_lt h, Nat.shiftRight_eq_div_pow]

theorem sha_exact : a.sshiftRight n = BitVec.ofInt 64 (a.toInt / 2 ^ n) := by
  rw [BitVec.sshiftRight, Int.shiftRight_eq_div_pow]; norm_cast

theorem leadingZeros_exact : leadingZeros a = 64 - a.toNat.size := by
  unfold leadingZeros
  split
  · next h => rw [h]; decide
  · next h =>
    have hv : a.toNat ≠ 0 := fun h0 => h (BitVec.eq_of_toNat_eq h0)
    have hs : a.toNat.size = log2 a.toNat + 1 :=
      le_antisymm (Nat.size_le.2 Nat.lt_log2_self) (Nat.lt_size.2 (Nat.log2_self_le hv))
    omega

/-- Counting in a fold. -/
theorem foldl_count {α : Type} (p : α → Bool) (l : List α) (m : Nat) : l.foldl (fun n i => if p i then n + 1 else n) m = m + l.countP p := by
  induction l generalizing m with
  | nil => rfl
  | cons i l ih =>
    rw [List.foldl_cons, ih, List.countP_cons]
    split <;> omega

theorem popCount_exact : popCount a = (List.finRange 64).countP fun i => a.getLsbD i := by
  rw [popCount, foldl_count, ← List.map_coe_finRange_eq_range, List.countP_map, Nat.zero_add]; rfl

theorem min_exact : (if a.slt y then a else y) = BitVec.ofInt 64 (min a.toInt y.toInt) := by
  simp only [BitVec.slt_eq_decide, decide_eq_true_eq]
  split
  · next h => rw [min_eq_left h.le, BitVec.ofInt_toInt]
  · next h => rw [min_eq_right (not_lt.1 h), BitVec.ofInt_toInt]

theorem max_exact : (if a.slt y then y else a) = BitVec.ofInt 64 (max a.toInt y.toInt) := by
  simp only [BitVec.slt_eq_decide, decide_eq_true_eq]
  split
  · next h => rw [max_eq_right h.le, BitVec.ofInt_toInt]
  · next h => rw [max_eq_left (not_lt.1 h), BitVec.ofInt_toInt]

theorem lih_exact (imm : BitVec 36) : (a &&& (0xFFFFFFFF : BitVec 64)) ||| ((imm.setWidth 64 &&& 0xFFFFFFFF) <<< 32)
    = BitVec.ofNat 64 (a.toNat % 2 ^ 32 + imm.toNat % 2 ^ 32 * 2 ^ 32) := by
  have himm : imm.toNat < 2 ^ 64 := imm.isLt.trans (by decide)
  have hlow : a.toNat % 2 ^ 32 < 2 ^ 32 := Nat.mod_lt _ (by decide)
  have hhigh : imm.toNat % 2 ^ 32 * 2 ^ 32 < 2 ^ 64 := by have := Nat.mod_lt imm.toNat (y := 2 ^ 32) (by decide); omega
  have hmask : (0xFFFFFFFF : BitVec 64).toNat = 2 ^ 32 - 1 := rfl
  apply BitVec.eq_of_toNat_eq
  rw [BitVec.toNat_or, BitVec.toNat_and, BitVec.toNat_shiftLeft, BitVec.toNat_and, BitVec.toNat_setWidth, BitVec.toNat_ofNat, hmask,
    Nat.and_two_pow_sub_one_eq_mod, Nat.and_two_pow_sub_one_eq_mod, Nat.mod_eq_of_lt himm, Nat.shiftLeft_eq,
    Nat.mod_eq_of_lt hhigh, Nat.or_comm, Nat.mul_comm, ← Nat.two_pow_add_eq_or_of_lt hlow]
  omega
end

end Sys2Proof.Laws
end

section
/-! The scalar instructions of a Cox (O1, O2). -/

namespace Sys2Proof.Safety

set_option Elab.async false

open Sys2Proof Sys2Proof.Machine Sys2Proof.Laws

/-! ### Arithmetic, logic, selects and immediates -/

/-- SEL with i = 0 acts on the Cox alone. -/
theorem exec_sel {s : State} {cd : Cd} {w : Slot0} (hi : w.i = false) :
    exec (.sel cd w) s = .next { s with dev := s.dev.scalar cd w (onCox opSel) } := by
  have hop : ∀ c d, opSelWord w c cd d = onCox opSel w c cd d := fun c d => if_neg (by rw [hi]; decide)
  show Host.Outcome.next ({ s with dev := s.dev.scalar cd w opSelWord } : State) = _
  simp only [Device.scalar, hop]

theorem scalarArithmeticWritesItsResult : Sys2Proof.Claims.ScalarArithmeticWritesItsResult := by
  intro s cd w h a y
  have ha : (s.dev.dies[cd].cox).rd w.a = a := rfl
  have hy : (s.dev.dies[cd].cox).y w = y := y_eq s cd w
  refine ⟨exec_writes_g h rfl rfl ?_, exec_writes_g h rfl rfl ?_, exec_writes_g h rfl rfl ?_, exec_writes_g h rfl rfl ?_,
    fun h0 => ⟨exec_writes_g h rfl rfl ?_, exec_writes_g h rfl rfl ?_⟩, fun h0 => ⟨exec_writes_g h rfl rfl ?_, exec_writes_g h rfl rfl ?_⟩⟩
    <;> rw [ha, hy]
  · exact add_exact a y
  · exact sub_exact a y
  · exact mul_exact a y
  · rw [if_neg h0, div_exact]
  · rw [if_neg h0, mod_exact]
  · exact if_pos h0
  · exact if_pos h0

theorem scalarLogicAndShiftWriteTheirResult : Sys2Proof.Claims.ScalarLogicAndShiftWriteTheirResult := by
  intro s cd w h a y n
  have ha : (s.dev.dies[cd].cox).rd w.a = a := rfl
  have hy : (s.dev.dies[cd].cox).y w = y := y_eq s cd w
  have hn : (s.dev.dies[cd].cox).sh w = n := by rw [Cox.sh, hy]
  refine ⟨⟨a &&& y, exec_writes_g h rfl rfl ?_, fun i _ => BitVec.getLsbD_and⟩, ⟨a ||| y, exec_writes_g h rfl rfl ?_, fun i _ => BitVec.getLsbD_or⟩,
    ⟨a ^^^ y, exec_writes_g h rfl rfl ?_, fun i _ => BitVec.getLsbD_xor⟩, exec_writes_g h rfl rfl ?_, exec_writes_g h rfl rfl ?_,
    exec_writes_g h rfl rfl ?_, exec_writes_g h rfl rfl ?_, exec_writes_g h rfl rfl ?_⟩
  · rw [ha, hy]
  · rw [ha, hy]
  · rw [ha, hy]
  · rw [ha, hn]; exact shl_exact a n
  · rw [ha, hn]; exact shr_exact a n
  · rw [ha, hn]; exact sha_exact a n
  · rw [ha, leadingZeros_exact]
  · rw [ha, popCount_exact]

theorem scalarSelectsAndImmediatesWriteTheirResult : Sys2Proof.Claims.ScalarSelectsAndImmediatesWriteTheirResult := by
  intro s cd w h a y
  have ha : (s.dev.dies[cd].cox).rd w.a = a := rfl
  have hy : (s.dev.dies[cd].cox).y w = y := y_eq s cd w
  refine ⟨exec_writes_g h rfl rfl ?_, exec_writes_g h rfl rfl ?_, exec_writes_g h rfl rfl (simm_eq w), exec_writes_g h rfl rfl ?_,
    exec_writes_g h rfl rfl ?_, fun hi => ?_⟩
  · rw [ha, hy]; exact min_exact a y
  · rw [ha, hy]; exact max_exact a y
  · exact lih_exact _ _
  · rw [rdp_eq]; rfl
  · refine exec_writes_g (f := opSel) h ((exec_sel hi).trans rfl) rfl ?_
    rw [rdp_eq, idx_val, pRead_mod]; rfl

/-- Settles O1, claim by claim: each row is one register write (`exec_writes_g`), with its value in exact arithmetic. -/
theorem scalarArithmeticLogicAndSelects : Obligations.ScalarArithmeticLogicAndSelects :=
  ⟨scalarArithmeticWritesItsResult, scalarLogicAndShiftWriteTheirResult, scalarSelectsAndImmediatesWriteTheirResult⟩

/-! ### Compares, special reads and the guard -/

theorem scalarComparesWriteTheirPredicate : Sys2Proof.Claims.ScalarComparesWriteTheirPredicate := by
  intro s cd w h a y d
  have ha : (s.dev.dies[cd].cox).rd w.a = a := rfl
  have hy : (s.dev.dies[cd].cox).y w = y := y_eq s cd w
  refine ⟨exec_writes_p h rfl rfl ?_, exec_writes_p h rfl rfl ?_, exec_writes_p h rfl rfl ?_, exec_writes_p h rfl rfl ?_,
    exec_writes_p h rfl rfl ?_, exec_writes_p h rfl rfl ?_, exec_writes_p h rfl rfl ?_, ?_⟩
  · rw [ha, hy]; exact beq_eq_decide ..
  · rw [ha, hy]; rw [bne, beq_eq_decide, ← decide_not]
  · rw [ha, hy]; exact BitVec.slt_eq_decide ..
  · rw [ha, hy]; exact BitVec.sle_eq_decide ..
  · rw [ha, hy]; rfl
  · rw [ha, hy]; rfl
  · rw [rdp_eq, rdp_eq]
    show w.imm.getLsbD ((if pRead s cd (w.a.val % 8) then 2 else 0) + if pRead s cd (w.b.val % 8) then 1 else 0) = _
    cases pRead s cd (w.a.val % 8) <;> cases pRead s cd (w.b.val % 8) <;> rfl
  · show Host.Outcome.next ({ s with dev := s.dev.scalar cd w (onCox opNopS) } : State) = _
    rw [scalar_onCox h]; exact congrArg _ (withCox_self s cd)

/-- RDS of a register without a mark reads it, and of a marked one waits. -/
theorem exec_rds_unmarked {s : State} {cd : Cd} {w : Slot0} (h : s.dev.dies[cd].cox.pend[w.sa] = 0) :
    exec (.rds cd w) s = .next { s with dev := s.dev.scalar cd w (onCox opRds) } :=
  congrArg (fun d => Host.Outcome.next ({ s with dev := d } : State)) (if_neg (not_not.2 h))

theorem exec_rds_marked {s : State} {cd : Cd} {w : Slot0} (h : s.dev.dies[cd].cox.pend[w.sa] ≠ 0) : exec (.rds cd w) s = .next s :=
  congrArg (fun d => Host.Outcome.next ({ s with dev := d } : State)) (if_pos h)

theorem rdsReadsAnUnmarkedRegister : Sys2Proof.Claims.RdsReadsAnUnmarkedRegister := by
  intro s cd w h k r
  exact ⟨fun h0 => exec_writes_g (f := opRds) h (exec_rds_unmarked h0) rfl rfl, exec_rds_marked⟩

/-- RDC of an index with a run constant writes it. -/
theorem exec_rdc {s : State} {cd : Cd} {w : Slot0} {c : Context} (h : ScalarRunsIn s cd w c) {n : Nat} {v : W64} (hn : w.imm.toNat % 256 = n)
    (hv : s.dev.runConst c cd n = some v) : exec (.rdc cd w) s = .next (withG s cd w.d v 1) := by
  have hb : bits w.imm.toNat 7 0 = n := hn
  rw [exec_row (g := opRdc) h rfl, opRdc, hb, hv, ← modCox_wr]

/-- The step number as the commit line holds it (R51). -/
theorem stepNo_eq (d : Device) (c : Context) :
    d.stepNo c = le (d.readAs (c.domOf c.commitLine.toNat) (c.commitLine.toNat + 4) 4) := rfl

theorem rdcReadsRunConstants : Sys2Proof.Claims.RdcReadsRunConstants := by
  intro s cd w c h r
  refine ⟨fun hn => exec_rdc h hn ?_, fun hn => exec_rdc h hn rfl, fun hn => exec_rdc h hn rfl, fun hn => exec_rdc h hn ?_,
    fun hn => exec_rdc h hn rfl, fun q hq hn => exec_rdc h hn ?_, fun hn => exec_rdc h hn ?_, fun hn => exec_rdc h hn rfl, fun j hn => exec_rdc h hn ?_⟩
  · exact congrArg some (BitVec.eq_of_toNat_eq (by simp))
  · exact congrArg (fun m => some (BitVec.ofNat 64 m)) (pow2_eq _)
  · show some (BitVec.ofNat 64 ((c.reduce.map (·.rank)).getD 0)) = _
    rw [hq]; rfl
  · show some (BitVec.ofNat 64 (usableOf s.dev.code / 2 ^ 20)) = _
    cases s.dev.code <;> rfl
  · fin_cases j <;> rfl

/-- Every row of the scalar table is a scalar operation, or it does nothing. -/
theorem scalarRows_exec (s : State) (cd : Cd) (w : Slot0) :
    ∀ i ∈ scalarRows cd w, (∃ f, exec i s = .next { s with dev := s.dev.scalar cd w f }) ∨ exec i s = .next s := by
  have hrds : (∃ f, exec (.rds cd w) s = .next { s with dev := s.dev.scalar cd w f }) ∨ exec (.rds cd w) s = .next s := by
    by_cases h : s.dev.dies[cd].cox.pend[w.sa] = 0
    · exact .inl ⟨_, exec_rds_unmarked h⟩
    · exact .inr (exec_rds_marked h)
  simp only [scalarRows, List.forall_mem_append, List.forall_mem_cons, List.not_mem_nil, false_implies, implies_true, and_true]
  refine ⟨?_, hrds, ?_⟩ <;> repeat' apply And.intro
  all_goals exact .inl ⟨_, rfl⟩

theorem scalarWithoutItsGuardDoesNothing : Sys2Proof.Claims.ScalarWithoutItsGuardDoesNothing := by
  intro s cd w h i hi
  obtain ⟨f, hf⟩ | hf := scalarRows_exec s cd w i hi
  · rw [hf, scalar_unguarded h]
  · exact hf

/-- Settles O2, claim by claim. -/
theorem scalarComparesAndSpecialReads : Obligations.ScalarComparesAndSpecialReads :=
  ⟨scalarComparesWriteTheirPredicate, rdsReadsAnUnmarkedRegister, rdcReadsRunConstants, scalarWithoutItsGuardDoesNothing⟩

end Sys2Proof.Safety
end

section
/-! SUPPORT. Loads and stores of a Cox (R124 to R127): byte strings, the plan store with scratch, and the own bonded SRAM window. -/

namespace Sys2Proof.Laws

set_option Elab.async false

open Sys2Proof Sys2Proof.Machine Sys2Proof.Safety

/-! ### Byte strings (R9) -/

@[simp] theorem bytesLE_length : ∀ n v, (bytesLE n v).length = n
  | 0, _ => rfl
  | n + 1, v => congrArg (· + 1) (bytesLE_length n (v / 256))

/-- A byte of a number's little-endian bytes. -/
theorem bytesLE_getD : ∀ (n v j : Nat), j < n → (bytesLE n v).getD j 0 = BitVec.ofNat 8 (v / 256 ^ j)
  | _ + 1, v, 0, _ => by simp [bytesLE]
  | n + 1, v, j + 1, h => by
    rw [bytesLE, List.getD_cons_succ, bytesLE_getD n _ j (by omega), Nat.div_div_eq_div_mul, ← Nat.pow_succ']

/-! ### Local memory (R124, R126) -/

section
variable {a n : Nat} {write : Bool}

/-- The plan store and scratch can be loaded from; scratch alone takes stores. -/
def localFloor (write : Bool) : Nat := if write then 0x100000 else 0

theorem localErr_eq : localErr a n write = if localFloor write ≤ a ∧ a < 0x140000 then if a % n = 0 then none else some 3 else some 2 := by
  have hin : ((decide (a < 0x100000) && !write) || (decide (0x100000 ≤ a) && decide (a < 0x140000))) = true ↔ localFloor write ≤ a ∧ a < 0x140000 := by
    cases write
    · simp [localFloor]; omega
    · simp [localFloor]
  unfold localErr
  by_cases h : localFloor write ≤ a ∧ a < 0x140000
  · rw [if_pos h, hin.2 h, if_neg (by decide), ite_not]
  · rw [if_neg h, if_pos (by rw [Bool.not_eq_true', Bool.eq_false_iff]; exact fun hc => h (hin.1 hc))]

theorem localErr_ok (hl : localFloor write ≤ a) (hh : a < 0x140000) (hn : a % n = 0) : localErr a n write = none := by
  rw [localErr_eq, if_pos ⟨hl, hh⟩, if_pos hn]

theorem localErr_bounds (h : a < localFloor write ∨ 0x140000 ≤ a) : localErr a n write = some 2 := by
  rw [localErr_eq, if_neg (by omega)]

theorem localErr_align (hl : localFloor write ≤ a) (hh : a < 0x140000) (hn : a % n ≠ 0) : localErr a n write = some 3 := by
  rw [localErr_eq, if_pos ⟨hl, hh⟩, if_neg hn]
end

section
variable {s : State} {cd : Cd} {w : Slot0} {c : Context} {i : Instr} {n : Nat} {f : Nat → W64}

/-- An aligned load inside the plan store and scratch. -/
theorem exec_load (h : ScalarRuns s cd w) (hw : w.i = true) (hi : exec i s = .next { s with dev := s.dev.scalar cd w (opLd n f) })
    (ha : localAddress s cd w < 0x140000) (hn : localAddress s cd w % n = 0) :
    exec i s = .next (withG s cd w.d (f (le ((List.range n).map fun j => localByte s cd (localAddress s cd w + j)))) 3) := by
  obtain ⟨c, hc⟩ := h
  have herr : localErr (localAddress s cd w) n false = none := localErr_ok (Nat.zero_le _) ha hn
  rw [exec_row hc hi, ← modCox_wr]
  simp only [opLd, addr_eq, hw, herr, Bool.not_true, Bool.false_eq_true, if_false]
  rfl

/-- An aligned store inside scratch. -/
theorem exec_store (h : ScalarRuns s cd w) (hw : w.i = true) (hi : exec i s = .next { s with dev := s.dev.scalar cd w (opSt n) })
    (hl : 0x100000 ≤ localAddress s cd w) (hh : localAddress s cd w < 0x140000) (hn : localAddress s cd w % n = 0) :
    exec i s = .next (withLocal s cd (memStore 0 s.dev.dies[cd].loc (localAddress s cd w) (bytesLE n (gRead s cd w.b).toNat))) := by
  obtain ⟨c, hc⟩ := h
  have herr : localErr (localAddress s cd w) n true = none := localErr_ok hl hh hn
  rw [exec_row hc hi]
  simp only [opSt, addr_eq, hw, herr, Bool.not_true, Bool.false_eq_true, if_false]
  rfl
end

/-! ### Bonded SRAM (R125, R168, R172) -/

section
variable {cd : Cd} {a n : Nat} {d : Device}

/-- No address from the bonded SRAM windows on names LPDDR5X. -/
theorem place_ne_lpddr (h : sramBase ≤ a) (k off : Nat) : d.place a ≠ .lpddr k off := by
  rw [sramBase] at h
  rw [Device.place, if_neg (by omega), if_neg (by rw [sramBase]; omega)]
  repeat' split
  all_goals exact Place.noConfusion

/-- An address of a bonded SRAM window names bonded SRAM. -/
theorem place_sram (hl : sramOf cd.val ≤ a) (hh : a < sramOf cd.val + 0x80000000) : ∃ k off, d.place a = .sram k off := by
  have hcd := cd.isLt
  rw [sramOf, sramBase] at hl hh
  exact ⟨_, _, by rw [Device.place, if_neg (by omega), if_neg (by rw [sramBase]; omega), if_pos (by omega)]⟩

theorem sramBase_le (cd : Cd) (h : sramOf cd.val ≤ a) : sramBase ≤ a := (Nat.le_add_right _ _).trans h

/-- Bonded SRAM and the memory above it read as they are stored. -/
theorem readAs_sram (dom : Fin 64) (h : sramBase ≤ a) : d.readAs dom a n = memBytes 0 d.mem.bytes a n := by
  refine List.map_congr_left fun i _ => ?_
  unfold Device.byteAt
  split
  · next hp => exact absurd hp (place_ne_lpddr (h.trans (Nat.le_add_right _ _)) _ _)
  · rfl

/-- A write to bonded SRAM, or above it, stores its bytes and clears the errors of the words that it covers. -/
theorem writeAs_sram (dom : Fin 64) (h : sramBase ≤ a) (bs : List Byte) :
    d.writeAs dom a bs = { d with mem := { d.mem with
      bytes := memStore 0 d.mem.bytes a bs
      ueWords := d.mem.ueWords.filter fun w => !wordsCovered a bs.length w } } := by
  unfold Device.writeAs
  split
  · next hp => exact absurd hp (place_ne_lpddr h _ _)
  · rfl

/-- An aligned access of up to 8 bytes in a word without an error gives data. -/
theorem dataCode_sram (hl : sramOf cd.val ≤ a) (hh : a < sramOf cd.val + 0x80000000) (he : d.mem.ueWords.contains (a / 8) = false)
    (hn : a % 8 + n ≤ 8) : d.dataCode a n = none := by
  obtain ⟨k, off, hp⟩ := place_sram (d := d) hl hh
  have hno : ¬ (d.mem.ueWords.any fun w => decide (a / 8 ≤ w) && decide (8 * w < a + n)) = true := by
    rw [List.any_eq_true]
    rintro ⟨w, hw, hcond⟩
    simp only [Bool.and_eq_true, decide_eq_true_eq] at hcond
    have hweq : w = a / 8 := by omega
    exact absurd (List.contains_iff_mem.2 (hweq ▸ hw)) (by rw [he]; decide)
  rw [Device.dataCode, hp]
  exact if_neg hno

/-- The checks of an aligned access to the own window that the Pantry admits. -/
theorem coxAccess_ok {c : Context} {write : Bool} {i : Fin 64} (hl : sramOf cd.val ≤ a) (hh : a < sramOf cd.val + 0x80000000) (hn : a % n = 0)
    (hi : d.allowed c cd .cox write (a / 64 * 64) = .ok i) : d.coxAccess c cd a n write = .ok (pDomain c.pantry[i]) := by
  have hin : (decide (sramOf cd.val ≤ a) && decide (a < sramOf cd.val + 0x80000000)) = true := by simp [hl, hh]
  rw [Device.coxAccess, hin, if_neg (by decide), if_neg (not_not.2 hn), lineOf, hi]
end

section
variable {s : State} {cd : Cd} {w : Slot0} {c : Context} {i : Instr} {n : Nat} {dom : Fin 64}

/-- A load of bonded SRAM without an error. -/
theorem exec_ldd (h : ScalarRunsIn s cd w c) (hw : w.i = true) (hi : exec i s = .next { s with dev := s.dev.scalar cd w (opLdd n) })
    (hacc : s.dev.coxAccess c cd (localAddress s cd w) n false = .ok dom) (hdata : s.dev.dataCode (localAddress s cd w) n = none)
    (hs : sramBase ≤ localAddress s cd w) :
    exec i s = .next (withG s cd w.d
      (BitVec.ofNat 64 (le ((List.range n).map fun j => memGet 0 s.dev.mem.bytes (localAddress s cd w + j)))) 20) := by
  rw [exec_row h hi, ← modCox_wr]
  simp only [opLdd, addr_eq, hw, hacc, hdata, Bool.not_true, Bool.false_eq_true, if_false, readAs_sram dom hs]
  rfl

/-- The device after a store to bonded SRAM: its bytes, and the cycle from which it counts as landed (R127). -/
def stored (s : State) (cd : Cd) (a : Nat) (bs : List Byte) : Device :=
  ({ s.dev with mem := { s.dev.mem with
      bytes := memStore 0 s.dev.mem.bytes a bs
      ueWords := s.dev.mem.ueWords.filter fun w => !wordsCovered a bs.length w } } : Device).modCox cd fun k =>
    { k with landed := if k.landed < k.now + 20 then k.now + 20 else k.landed }

/-- A store to bonded SRAM. -/
theorem exec_std (h : ScalarRunsIn s cd w c) (hw : w.i = true) (hi : exec i s = .next { s with dev := s.dev.scalar cd w (opStd n) })
    (hacc : s.dev.coxAccess c cd (localAddress s cd w) n true = .ok dom) (hs : sramBase ≤ localAddress s cd w) :
    exec i s = .next { s with dev := stored s cd (localAddress s cd w) (bytesLE n (gRead s cd w.b).toNat) } := by
  rw [exec_row h hi]
  simp only [opStd, addr_eq, hw, hacc, Bool.not_true, Bool.false_eq_true, if_false, writeAs_sram dom hs]
  rfl
end

end Sys2Proof.Laws
end

section
/-! The loads and stores of a Cox (O3, O4). -/

namespace Sys2Proof.Safety

set_option Elab.async false

open Sys2Proof Sys2Proof.Machine Sys2Proof.Laws

theorem localLoadsReadPlanStoreAndScratch : Sys2Proof.Claims.LocalLoadsReadPlanStoreAndScratch := by
  intro s cd w h hw a v
  exact ⟨fun ha hn => exec_load h hw rfl ha hn, fun ha hn => ⟨exec_load (f := sext32) h hw rfl ha hn, exec_load h hw rfl ha hn⟩,
    fun ha hn => exec_load h hw rfl ha hn⟩

theorem bondedSramLoadsReadTheirBytes : Sys2Proof.Claims.BondedSramLoadsReadTheirBytes := by
  intro s cd w c h hw a hl hh he hok v
  obtain ⟨i, hi⟩ := hok
  have load : ∀ n, a % n = 0 → a % 8 + n ≤ 8 → ∀ j : Instr, exec j s = .next { s with dev := s.dev.scalar cd w (opLdd n) } →
      exec j s = .next (withG s cd w.d (v n) 20) := fun n hn h8 j hj =>
    exec_ldd h hw hj (coxAccess_ok hl hh hn hi) (dataCode_sram hl hh he h8) (sramBase_le cd hl)
  exact ⟨fun hn => load 8 hn (by omega) _ rfl, fun hn => load 4 hn (by omega) _ rfl⟩

/-- Settles O3, claim by claim: an aligned address passes the checks (`localErr_ok`, `coxAccess_ok`), and the bytes there are read. -/
theorem coxLoadsReadTheirBytes : Obligations.CoxLoadsReadTheirBytes :=
  ⟨localLoadsReadPlanStoreAndScratch, bondedSramLoadsReadTheirBytes⟩

/-- The bytes of a store, and every other byte. -/
theorem memStore_bytesLE {m : Memory} (hm : m.wf 0 = true) (a n v : Nat) :
    (∀ j < n, memGet 0 (memStore 0 m a (bytesLE n v)) (a + j) = BitVec.ofNat 8 (v / 256 ^ j))
      ∧ ∀ x, (x < a ∨ a + n ≤ x) → memGet 0 (memStore 0 m a (bytesLE n v)) x = memGet 0 m x := by
  refine ⟨fun j hj => ?_, fun x hx => memStore_frame hm (by rw [bytesLE_length]; exact hx)⟩
  rw [memGet_memStore hm, bytesLE_length, if_pos ⟨by omega, by omega⟩, Nat.add_sub_cancel_left, bytesLE_getD n v j hj]

theorem localStoresWriteScratchAndNothingElse : Sys2Proof.Claims.LocalStoresWriteScratchAndNothingElse := by
  intro s cd w hm h hw a stored
  obtain ⟨-, hdies, -⟩ := hm
  have store : ∀ n i, exec i s = .next { s with dev := s.dev.scalar cd w (opSt n) } → stored i n := fun n i hi hl hh hn =>
    ⟨_, exec_store h hw hi hl hh hn, memStore_bytesLE (hdies cd).1 a n _⟩
  exact ⟨store 8 _ rfl, store 4 _ rfl, store 2 _ rfl⟩

theorem bondedSramStoresWriteTheirBytes : Sys2Proof.Claims.BondedSramStoresWriteTheirBytes := by
  intro s cd w c hm h hw a hl hh hok done
  obtain ⟨hbytes, -⟩ := hm
  obtain ⟨i, hi⟩ := hok
  have store : ∀ n j, exec j s = .next { s with dev := s.dev.scalar cd w (opStd n) } → done j n := fun n j hj hn => by
    obtain ⟨hin, hout⟩ := memStore_bytesLE hbytes a n (gRead s cd w.b).toNat
    refine ⟨_, exec_std h hw hj (coxAccess_ok hl hh hn hi) (sramBase_le cd hl), hin, hout, fun r => ?_, fun r => ?_, ?_, rfl, rfl, ?_⟩
    · simp only [gRead, stored, modCox_self]
    · simp only [pRead, stored, modCox_self]
    · simp only [stored, modCox_self]
    · simp only [stored, modCox_self]; split <;> omega
  exact ⟨store 8 _ rfl, store 4 _ rfl, store 2 _ rfl⟩

/-- Settles O4, claim by claim: a store passes the checks and its bytes go to memory lowest first (`memStore_bytesLE`). -/
theorem coxStoresWriteTheirBytesAndNothingElse : Obligations.CoxStoresWriteTheirBytesAndNothingElse :=
  ⟨localStoresWriteScratchAndNothingElse, bondedSramStoresWriteTheirBytes⟩

end Sys2Proof.Safety
end

section
/-! SUPPORT. What error records, events, faults and the end of a run leave of the device: of a die everything but the fault on its way and its
Sieve, of a context its tag and its FAULTED condition, of a ring set the places of its parts (R139, R192, R195, R376). -/

namespace Sys2Proof.Laws

set_option Elab.async false

open Sys2Proof Sys2Proof.Machine Sys2Proof.Safety

/-! ### Ring sets keep their places -/

/-- Where a ring set writes: its status line, its signal and its completion queue (R362). -/
def ringBases (r : RingSet) : BitVec 52 × BitVec 52 × BitVec 52 × Nat := (r.sts, r.sig, r.cq, r.cqN)

/-- A ring operation that moves no part of a ring set. -/
def KeepsBases (f : RingIo → RingIo) : Prop := ∀ x, ringBases (f x).2 = ringBases x.2

theorem ringSignal_bases : KeepsBases ringSignal := by
  intro x
  unfold ringSignal
  dsimp only
  split
  · rfl
  · split <;> rfl

theorem ringEventsLost_bases (tag : BitVec 16) : KeepsBases (ringEventsLost tag) := by
  intro x
  unfold ringEventsLost
  dsimp only
  split
  · exact ringSignal_bases _
  · rfl

theorem ringEvent_bases (tag : BitVec 16) (code : Nat) (p : List Byte) : KeepsBases (ringEvent tag code p) := by
  intro x
  unfold ringEvent
  dsimp only
  split
  · exact ringEventsLost_bases tag x
  · exact (ringSignal_bases _).trans (ringEventsLost_bases tag x)

theorem ringComplete_bases (tag : BitVec 16) (op : BitVec 8) (seq : BitVec 32) (code flags : Nat) (res : List Byte) :
    KeepsBases (ringComplete tag op seq code flags res) := fun _ => ringSignal_bases _

/-! ### The relation -/

/-- A die rewritten at most in the fault on its way and in its Sieve. -/
def DieStays (x y : Die) : Prop := ∃ f v, y = { x with faultDue := f, sieve := v }

theorem DieStays.refl (x : Die) : DieStays x x := ⟨_, _, rfl⟩

theorem DieStays.trans {x y z : Die} (h : DieStays x y) (h' : DieStays y z) : DieStays x z := by
  obtain ⟨_, _, rfl⟩ := h
  obtain ⟨f, v, rfl⟩ := h'
  exact ⟨f, v, rfl⟩

/-- A context rewritten so that its slot, its tag, its ring's places and a FAULTED condition stay. -/
structure CtxStays (c c' : Context) : Prop where
  slot : c'.slot = c.slot
  tag : c'.tag = c.tag
  bases : c'.ring.map ringBases = c.ring.map ringBases
  faulted : c.cond = .faulted → c'.cond = .faulted

theorem CtxStays.refl (c : Context) : CtxStays c c := ⟨rfl, rfl, rfl, id⟩

theorem CtxStays.trans {a b c : Context} (h : CtxStays a b) (h' : CtxStays b c) : CtxStays a c :=
  ⟨h'.slot.trans h.slot, h'.tag.trans h.tag, h'.bases.trans h.bases, h'.faulted ∘ h.faulted⟩

/-- What faults, records and events leave of a device. -/
structure Leaves (d e : Device) : Prop where
  pd : e.pd = d.pd
  yalkenUp : e.yalkenUp = d.yalkenUp
  errLines : e.mem.errLines = d.mem.errLines
  dies : ∀ o : Cd, DieStays d.dies[o] e.dies[o]
  ctxs : ∀ slot c, d.ctxAt slot = some c → ∃ c', e.ctxAt slot = some c' ∧ CtxStays c c'

theorem ctxAt_slot {d : Device} {slot : CtxSlot} {c : Context} (h : d.ctxAt slot = some c) : c.slot = slot := by
  simpa using List.find?_some h

/-- The context of a slot after the contexts of a slot have been rewritten. -/
theorem ctxAt_modCtx (d : Device) (k : CtxSlot) {f : Context → Context} (hf : ∀ c, (f c).slot = c.slot) (slot : CtxSlot) :
    (d.modCtx k f).ctxAt slot = (d.ctxAt slot).map fun c => if c.slot == k then f c else c := by
  have hs : ∀ c : Context, (if c.slot == k then f c else c).slot = c.slot := fun c => by split <;> simp [hf]
  simp only [Device.ctxAt, Device.modCtx, List.find?_map, Function.comp_def, hs]

namespace Leaves
section
variable {d₀ d : Device} {c : Context} {cd : Cd} {id : RingId}

theorem refl (d : Device) : Leaves d d := ⟨rfl, rfl, rfl, fun _ => .refl _, fun _ c h => ⟨c, h, .refl c⟩⟩

theorem trans {e : Device} (h : Leaves d₀ d) (h' : Leaves d e) : Leaves d₀ e where
  pd := h'.pd.trans h.pd
  yalkenUp := h'.yalkenUp.trans h.yalkenUp
  errLines := h'.errLines.trans h.errLines
  dies o := (h.dies o).trans (h'.dies o)
  ctxs slot c hc := by
    obtain ⟨c1, h1, hs1⟩ := h.ctxs slot c hc
    obtain ⟨c2, h2, hs2⟩ := h'.ctxs slot c1 h1
    exact ⟨c2, h2, hs1.trans hs2⟩

theorem ite {a b : Device} {p : Prop} {_ : Decidable p} (ha : Leaves d₀ a) (hb : Leaves d₀ b) : Leaves d₀ (if p then a else b) := by
  split
  · exact ha
  · exact hb

theorem of_eq {α : Type} {p : Device × α} {e : Device} {x : α} (h : Leaves d₀ p.1) (hp : p = (e, x)) : Leaves d₀ e := by subst hp; exact h

theorem foldl {α : Type} {l : List α} {f : Device → α → Device} (h : Leaves d₀ d) (hf : ∀ d a, Leaves d₀ d → Leaves d₀ (f d a)) :
    Leaves d₀ (l.foldl f d) := foldl_keeps (r := Leaves d₀) hf l h

/-- An update of other parts. -/
theorem frame {e : Device} (h : Leaves d₀ d) (hp : e.pd = d.pd := by rfl) (hy : e.yalkenUp = d.yalkenUp := by rfl)
    (he : e.mem.errLines = d.mem.errLines := by rfl) (hd : e.dies = d.dies := by rfl) (hc : e.ctxs = d.ctxs := by rfl) : Leaves d₀ e :=
  h.trans ⟨hp, hy, he, fun o => by rw [hd]; exact .refl _, fun slot c h => ⟨c, by rw [Device.ctxAt, hc]; exact h, .refl c⟩⟩

/-- Every die rewritten within what may change. -/
theorem eachDie {e : Device} (h : Leaves d₀ d) {f : Cd → Die → Die} (hf : ∀ o x, DieStays x (f o x)) (hd : ∀ o : Cd, e.dies[o] = f o d.dies[o])
    (hp : e.pd = d.pd := by rfl) (hy : e.yalkenUp = d.yalkenUp := by rfl) (he : e.mem.errLines = d.mem.errLines := by rfl)
    (hc : e.ctxs = d.ctxs := by rfl) : Leaves d₀ e :=
  h.trans ⟨hp, hy, he, fun o => by rw [hd]; exact hf o _, fun slot c h => ⟨c, by rw [Device.ctxAt, hc]; exact h, .refl c⟩⟩

theorem modDie {f : Die → Die} (h : Leaves d₀ d) (hf : ∀ x, DieStays x (f x)) : Leaves d₀ (d.modDie cd f) :=
  h.eachDie (f := fun o x => if o = cd then f x else x) (fun o x => by split; exacts [hf x, .refl x]) fun o => by
    split
    · next h => rw [h, modDie_self]
    · next h => exact modDie_other _ _ (Ne.symm h)

theorem modArc {f : Cd → Die → Die} (h : Leaves d₀ d) (hf : ∀ o x, DieStays x (f o x)) : Leaves d₀ (d.modArc c f) :=
  h.eachDie (f := fun o x => if c.onArc o then f o x else x) (fun o x => by split; exacts [hf o x, .refl x]) (modArc_get d c f)
    (modArc_pd d c f) (modArc_yalkenUp d c f) (congrArg Mem.errLines (modArc_mem d c f)) (modArc_ctxs d c f)

/-- The context of one slot rewritten within what may change. -/
theorem modCtxAt {slot : CtxSlot} {f : Context → Context} (h : Leaves d₀ d) (hs : ∀ c, (f c).slot = c.slot)
    (hf : ∀ c, d.ctxAt slot = some c → CtxStays c (f c)) : Leaves d₀ (d.modCtx slot f) :=
  h.trans ⟨rfl, rfl, rfl, fun _ => .refl _, fun k c hc => by
    refine ⟨_, by rw [ctxAt_modCtx d slot hs, hc]; rfl, ?_⟩
    dsimp only
    split
    · next hk => exact hf c (by rw [← hc, ← ctxAt_slot hc, eq_of_beq hk])
    · exact .refl c⟩

theorem modCtx {slot : CtxSlot} {f : Context → Context} (h : Leaves d₀ d) (hf : ∀ c, CtxStays c (f c)) : Leaves d₀ (d.modCtx slot f) :=
  h.modCtxAt (fun c => (hf c).slot) fun c _ => hf c

/-! ### Memory -/

theorem companionPut {tag : BitVec 16} {ws : Writes} (h : Leaves d₀ d) : Leaves d₀ (d.companionPut tag ws) := .ite h.frame h.frame

theorem writeAs {dom : Fin 64} {a : Nat} {bs : List Byte} (h : Leaves d₀ d) : Leaves d₀ (d.writeAs dom a bs) := by
  unfold Device.writeAs
  dsimp only
  split
  · exact h.frame
  · exact h.frame

theorem writeLine {r : Requester} {a : Nat} {bs : List Byte} (h : Leaves d₀ d) : Ends (fun _ => True) (Leaves d₀) (d.writeLine c cd r a bs) := by
  unfold Device.writeLine
  split
  · trivial
  · dsimp only
    split
    · trivial
    · split
      · split
        · trivial
        · exact h.companionPut
      · exact h.writeAs

theorem writeBytes {r : Requester} : ∀ {fuel : Nat} {d : Device} {a : Nat} {bs : List Byte}, Leaves d₀ d → Leaves d₀ (d.writeBytes c cd r fuel a bs).1
  | 0, _, _, _, h => h
  | fuel + 1, d, a, bs, h => by
    unfold Device.writeBytes
    dsimp only
    split
    · exact h
    · split
      · exact h
      · next d1 hd =>
        have ih := writeBytes (r := r) (fuel := fuel) (a := a + (64 - a % 64)) (bs := bs.drop (64 - a % 64)) (h.writeLine.of_ok hd)
        split
        · next e => exact ih.of_eq e
        · next e => exact ih.of_eq e

theorem putBytes {r : Requester} {a : Nat} {bs : List Byte} (h : Leaves d₀ d) : Leaves d₀ (d.putBytes c cd r a bs).1 := h.writeBytes

/-! ### Records, events and faults (R15, R192, R370 to R376) -/

theorem logErr {r : ErrRec} (h : Leaves d₀ d) : Leaves d₀ (d.logErr r) := by unfold Device.logErr; exact h.frame

theorem markFault {r : ErrRec} (h : Leaves d₀ d) : Leaves d₀ (d.markFault c r) := by
  unfold Device.markFault
  dsimp only
  split
  · refine (h.modCtx fun _ => ?_).modArc fun _ x => ?_
    · exact ⟨rfl, rfl, rfl, fun _ => rfl⟩
    · split
      exacts [.refl x, ⟨_, _, rfl⟩]
  · refine h.modCtx fun _ => ?_
    exact ⟨rfl, rfl, rfl, fun _ => rfl⟩

theorem markTag {r : ErrRec} (h : Leaves d₀ d) : Leaves d₀ (d.markTag r) := by
  unfold Device.markTag
  split
  · exact h.markFault
  · exact h

theorem ringDo {f : BitVec 16 → RingIo → RingIo} (h : Leaves d₀ d) (hf : ∀ tag, KeepsBases (f tag)) : Leaves d₀ (d.ringDo id f).1 := by
  unfold Device.ringDo
  split
  · split
    · exact h
    · exact h.frame.companionPut
  · split
    · exact h
    · split
      · exact h
      · next c hc _ r hr =>
        refine Leaves.companionPut (h.modCtxAt (fun _ => rfl) fun b hb => ?_)
        obtain rfl : c = b := Option.some.inj (hc.symm.trans hb)
        exact ⟨rfl, rfl, by rw [hr]; exact congrArg some (hf _ _), id⟩

theorem writesFailed {tag : BitVec 16} {ws : Writes} (h : Leaves d₀ d) : Leaves d₀ (d.writesFailed id tag ws) :=
  h.foldl fun _ _ h => h.logErr.markTag.ringDo fun _ => ringEvent_bases _ _ _

theorem onRing {f : BitVec 16 → RingIo → RingIo} (h : Leaves d₀ d) (hf : ∀ tag, KeepsBases (f tag)) : Leaves d₀ (d.onRing id f) :=
  .ite (h.ringDo hf).writesFailed (h.ringDo hf)

theorem event {code : Nat} {p : List Byte} (h : Leaves d₀ d) : Leaves d₀ (d.event id code p) := h.onRing fun _ => ringEvent_bases _ _ _
theorem report {r : ErrRec} (h : Leaves d₀ d) : Leaves d₀ (d.report r) := h.logErr.event
theorem fault {r : ErrRec} (h : Leaves d₀ d) : Leaves d₀ (d.fault c r) := h.report.markFault
theorem memFault {isl : BitVec 16} {code line done : Nat} {write : Bool} {stream item : Nat} (h : Leaves d₀ d) :
    Leaves d₀ (d.memFault c isl code line done write stream item) := h.fault

theorem putRecord {isl : BitVec 16} {a : Nat} {bs : List Byte} (h : Leaves d₀ d) : Leaves d₀ (d.putRecord c cd isl a bs) := by
  unfold Device.putRecord
  split
  · next e => exact h.putBytes.of_eq e
  · next e => exact (h.putBytes.of_eq e).memFault

/-! ### The norm area (R282 to R286) and the end of a run (R139, R373) -/

theorem scalesPut {a : Nat} {bs : List Byte} (h : Leaves d₀ d) : Leaves d₀ (d.scalesPut c cd a bs).1 := by
  unfold Device.scalesPut
  split
  · next e => exact h.putBytes.of_eq e
  · next e => exact (h.putBytes.of_eq e).memFault

theorem normPut {area cap attempt : Nat} {entry : List Byte} {full : Bool} {count dropped : Nat} (h : Leaves d₀ d) :
    Leaves d₀ (d.normPut c cd area cap attempt entry full count dropped) :=
  .ite h.scalesPut (.ite h.scalesPut.scalesPut h.scalesPut)

theorem normAppend {entry : List Byte} (h : Leaves d₀ d) : Leaves d₀ (d.normAppend c cd entry) := by
  unfold Device.normAppend
  split
  · exact h
  · split
    · exact h.memFault
    · exact .ite h.normPut (.ite h.scalesPut.normPut h.scalesPut)

theorem closeGroup (h : Leaves d₀ d) : Leaves d₀ (d.closeGroup c cd) := by
  unfold Device.closeGroup
  split
  · exact h
  · exact (h.modDie fun _ => ⟨_, _, rfl⟩).normAppend

theorem runAnswer {slot : CtxSlot} {u : Run} (h : Leaves d₀ d) : Leaves d₀ (d.runAnswer slot c u) :=
  Leaves.onRing (h.modCtx (f := fun c => { c with run := none }) fun _ => ⟨rfl, rfl, rfl, id⟩) fun _ => ringComplete_bases _ _ _ _ _ _

/-- The condition of a context at the end of its run. -/
theorem runEnd_ctx (c : Context) : CtxStays c { c with cond :=
    if (c.run.any fun u => u.reason == 5) && c.cond != .faulted then .idle else .faulted } :=
  ⟨rfl, rfl, rfl, fun h => by simp [h]⟩

theorem runEnd {slot : CtxSlot} (h : Leaves d₀ d) : Leaves d₀ (d.runEnd slot) := by
  unfold Device.runEnd
  split
  · exact h
  · next c _ =>
    split
    · exact h
    · have h1 {f : Context → Context} (hf : ∀ c, CtxStays c (f c)) :
          Leaves d₀ ((c.cds.foldl (fun d cd => d.closeGroup c cd) d).modCtx slot f) := (h.foldl fun _ _ h => h.closeGroup).modCtx hf
      refine .ite h ?_
      dsimp only
      split
      · exact h1 runEnd_ctx
      · split
        · exact h1 runEnd_ctx
        · exact .ite (h1 runEnd_ctx) (h1 runEnd_ctx).runAnswer
end
end Leaves

end Sys2Proof.Laws
end

section
/-! SUPPORT. What the accesses of a Cox to bonded SRAM leave of the device, how a Cox stops, and what its faults do (R130, R139, R141). -/

namespace Sys2Proof.Laws

set_option Elab.async false

open Sys2Proof Sys2Proof.Machine Sys2Proof.Safety

/-! ### Accesses in flight (R128, R130) -/

/-- Accesses of a Cox have been made, and those of `b` are left in flight: memory has changed, and of the Cox its g-registers and load error. -/
structure BusMade (cd : Cd) (b : List BusOp) (d e : Device) : Prop where
  rest : ∃ m v, e = { d with mem := m, dies := v }
  others : ∀ o : Cd, o ≠ cd → e.dies[o] = d.dies[o]
  own : ∃ g l, e.dies[cd] = { d.dies[cd] with cox := { d.dies[cd].cox with g := g, loadErr := l, bus := b } }

section
variable {cd : Cd} {b b' : List BusOp} {d e f : Device}

theorem BusMade.trans (h : BusMade cd b d e) (h' : BusMade cd b' e f) : BusMade cd b' d f where
  rest := by
    obtain ⟨_, _, rfl⟩ := h.rest
    obtain ⟨m, v, rfl⟩ := h'.rest
    exact ⟨m, v, rfl⟩
  others o ho := (h'.others o ho).trans (h.others o ho)
  own := by
    obtain ⟨_, _, h1⟩ := h.own
    obtain ⟨g, l, h2⟩ := h'.own
    exact ⟨g, l, by rw [h2, h1]⟩

theorem BusMade.bus (h : BusMade cd b d e) : e.dies[cd].cox.bus = b := by
  obtain ⟨_, _, h1⟩ := h.own
  rw [h1]

/-- An update of the Cox in what accesses may change. -/
theorem BusMade.of_modCox {u : Cox → Cox} (hu : ∃ g l, u d.dies[cd].cox = { d.dies[cd].cox with g := g, loadErr := l, bus := b }) :
    BusMade cd b d (d.modCox cd u) where
  rest := ⟨_, _, rfl⟩
  others _ ho := modCox_other d u (Ne.symm ho)
  own := by
    obtain ⟨g, l, h⟩ := hu
    exact ⟨g, l, by rw [modCox_self, h]⟩

theorem busAct_made (d : Device) (cd : Cd) (a : BusOp) : BusMade cd d.dies[cd].cox.bus d (d.busAct cd a) := by
  unfold Device.busAct
  split
  · unfold Device.writeAs
    dsimp only
    split <;> exact ⟨⟨_, _, rfl⟩, fun _ _ => rfl, _, _, rfl⟩
  · split
    · exact .of_modCox ⟨_, _, rfl⟩
    · exact .of_modCox ⟨_, _, rfl⟩

theorem foldl_busAct_made (cd : Cd) : ∀ (l : List BusOp) (d : Device),
    BusMade cd d.dies[cd].cox.bus d (l.foldl (fun d a => d.busAct cd a) d)
  | [], _ => ⟨⟨_, _, rfl⟩, fun _ _ => rfl, _, _, rfl⟩
  | a :: l, d => by
    have h := busAct_made d cd a
    have h' := foldl_busAct_made cd l (d.busAct cd a)
    rw [h.bus] at h'
    exact h.trans h'

theorem busUntil_made (d : Device) (cd : Cd) (t : Nat) :
    BusMade cd (d.dies[cd].cox.bus.filter fun a => decide (t < a.due)) d (d.busUntil cd t) := by
  have h : BusMade cd (d.dies[cd].cox.bus.filter fun a => decide (t < a.due)) d
      (d.modCox cd fun k => { k with bus := k.bus.filter fun a => decide (t < a.due) }) := .of_modCox ⟨_, _, rfl⟩
  have h' := foldl_busAct_made cd (d.dies[cd].cox.bus.filter fun a => decide (a.due ≤ t)) (d.modCox cd fun k =>
    { k with bus := k.bus.filter fun a => decide (t < a.due) })
  rw [h.bus] at h'
  exact h.trans h'

theorem busFlush_made (d : Device) (cd : Cd) : BusMade cd [] d (d.busFlush cd) := by
  have h : BusMade cd [] d (d.modCox cd fun k => { k with bus := [] }) := .of_modCox ⟨_, _, rfl⟩
  have h' := foldl_busAct_made cd d.dies[cd].cox.bus (d.modCox cd fun k => { k with bus := [] })
  rw [h.bus] at h'
  exact h.trans h'

/-- Without an access in flight none is made. -/
theorem busFlush_none (h : d.dies[cd].cox.bus = []) : d.busFlush cd = d.modCox cd fun k => { k with bus := [] } := by
  unfold Device.busFlush; rw [h]; rfl
end

/-! ### The stop of a Cox (R55, R139, R140) -/

/-- A Cox of a die has stopped: it is idle with the registers that its accesses in flight have left, and of its die the tally is `t` and the fault on
its way, the stop of its engines and the Sieve may have changed too. -/
structure CoxStopped (cd : Cd) (t : Tally) (d e : Device) : Prop where
  pd : e.pd = d.pd
  others : ∀ o : Cd, o ≠ cd → DieStays d.dies[o] e.dies[o]
  own : ∃ l f z v, e.dies[cd] = { d.dies[cd] with
    cox := { (d.busFlush cd).dies[cd].cox with run := .idle, waiting := none, loadErr := l }
    tally := t, faultDue := f, frozen := z, sieve := v }
  ctxs : ∀ slot c, d.ctxAt slot = some c → ∃ c', e.ctxAt slot = some c' ∧ CtxStays c c'

section
variable {cd : Cd} {t : Tally} {d d1 e : Device}

/-- A stop as reports and the end of the run follow it. -/
theorem CoxStopped.leaves (h : CoxStopped cd t d d1) (h' : Leaves d1 e) : CoxStopped cd t d e where
  pd := h'.pd.trans h.pd
  others o ho := (h.others o ho).trans (h'.dies o)
  own := by
    obtain ⟨l, _, z, _, h1⟩ := h.own
    obtain ⟨f, v, h2⟩ := h'.dies cd
    exact ⟨l, f, z, v, by rw [h2, h1]⟩
  ctxs slot c hc := by
    obtain ⟨c1, h1, hs1⟩ := h.ctxs slot c hc
    obtain ⟨c2, h2, hs2⟩ := h'.ctxs slot c1 h1
    exact ⟨c2, h2, hs1.trans hs2⟩

/-- The update of the die at a stop. -/
theorem coxStopped_modDie {u : Die → Die} (hu : ∃ l f z, u (d.busFlush cd).dies[cd] = { (d.busFlush cd).dies[cd] with
      cox := { (d.busFlush cd).dies[cd].cox with run := .idle, waiting := none, loadErr := l }, tally := t, faultDue := f, frozen := z }) :
    CoxStopped cd t d ((d.busFlush cd).modDie cd u) := by
  have hb := busFlush_made d cd
  obtain ⟨m, v, hrest⟩ := hb.rest
  refine ⟨?_, fun o ho => ?_, ?_, fun slot c hc => ⟨c, ?_, .refl c⟩⟩
  · rw [modDie_pd, hrest]
  · rw [modDie_other _ _ (Ne.symm ho), hb.others o ho]; exact .refl _
  · obtain ⟨l, f, z, h⟩ := hu
    obtain ⟨g, le, hown⟩ := hb.own
    refine ⟨l, f, z, d.dies[cd].sieve, ?_⟩
    rw [modDie_self, h, hown]
  · rw [Device.ctxAt, modDie_ctxs, hrest]; exact hc

/-- The tally of a die after a stop: it is cleared, but at the HALT of a run that keeps it (log entry 51). -/
def tallyAfter (d : Device) (c : Context) (cd : Cd) (reason : Nat) : Tally :=
  match c.run with
  | none => d.dies[cd].tally
  | some u => if u.keepTally && reason == 5 then d.dies[cd].tally else {}

theorem busFlush_tally (d : Device) (cd : Cd) : (d.busFlush cd).dies[cd].tally = d.dies[cd].tally := by
  obtain ⟨_, _, h⟩ := (busFlush_made d cd).own
  rw [h]

theorem coxStop_stopped (d : Device) (c : Context) (cd : Cd) (reason trap pc : Nat) (fault : Option ErrRec) :
    CoxStopped cd (tallyAfter d c cd reason) d (d.coxStop c cd reason trap pc fault) := by
  unfold Device.coxStop tallyAfter
  rw [← busFlush_tally]
  cases c.run with
  | none =>
    refine coxStopped_modDie ?_
    exact ⟨_, _, _, rfl⟩
  | some u =>
    refine CoxStopped.leaves (coxStopped_modDie ?_) (Leaves.modCtx (.refl _) fun c => ?_).putRecord.putRecord.runEnd
    · exact ⟨_, _, _, rfl⟩
    · exact ⟨rfl, rfl, rfl, id⟩
end

/-- The Cox after a stop: idle, with the registers that its accesses in flight have left. -/
theorem CoxStopped.cox {cd : Cd} {t : Tally} {d e : Device} (h : CoxStopped cd t d e) : ∃ g l, e.dies[cd].cox =
    { d.dies[cd].cox with g := g, run := .idle, waiting := none, loadErr := l, bus := [] }
      ∧ g = (d.busFlush cd).dies[cd].cox.g ∧ (d.dies[cd].cox.bus = [] → g = d.dies[cd].cox.g) := by
  obtain ⟨l, _, _, _, hown⟩ := h.own
  obtain ⟨g, _, hb⟩ := (busFlush_made d cd).own
  refine ⟨g, l, by rw [hown, hb], by rw [hb], fun hbus => ?_⟩
  have hg : (d.busFlush cd).dies[cd].cox.g = d.dies[cd].cox.g := by rw [busFlush_none hbus, modCox_self]
  rw [← hg, hb]

/-! ### Faults of the Cox (R139, R141, R192) -/

section
variable {d : Device} {c : Context}

/-- What a fault record makes of its context (R192). -/
def faultedBy (c : Context) (r : ErrRec) (b : Context) : Context :=
  { b with cond := .faulted, run := b.run.map fun u =>
    if u.firstErr.isSome then u else { u with firstErr := some (r, bits r.island.toNat 15 10 - c.first) } }

theorem markFault_ctxAt (r : ErrRec) (slot : CtxSlot) :
    (d.markFault c r).ctxAt slot = (d.ctxAt slot).map fun b => if b.slot == c.slot then faultedBy c r b else b := by
  have h := ctxAt_modCtx d c.slot (f := faultedBy c r) (fun _ => rfl) slot
  unfold Device.markFault
  dsimp only
  split
  · rw [Device.ctxAt, modArc_ctxs]; exact h
  · exact h

/-- A context that takes a fault is FAULTED. -/
theorem fault_faulted (r : ErrRec) (hc : d.ctxAt c.slot = some c) :
    ∃ c', (d.fault c r).ctxAt c.slot = some c' ∧ c'.cond = .faulted ∧ c'.tag = c.tag := by
  obtain ⟨b, hb, hs⟩ := (Leaves.report (r := r) (.refl d)).ctxs c.slot c hc
  refine ⟨faultedBy c r b, ?_, rfl, hs.tag⟩
  rw [Device.fault, markFault_ctxAt, hb, Option.map_some, if_pos (by rw [ctxAt_slot hb]; exact beq_self_eq_true _)]

/-- A fault of the Cox is the fault, and then the stop of the Cox for the FAULTED context (R139). -/
theorem coxFault_eq (cd : Cd) (r : ErrRec) (trap : Option Nat) (hc : d.ctxAt c.slot = some c) :
    ∃ c1 reason t pc f, (d.fault c r).ctxAt c.slot = some c1 ∧ c1.cond = .faulted ∧ c1.tag = c.tag
      ∧ d.coxFault c cd r trap = (d.fault c r).coxStop c1 cd reason t pc f := by
  obtain ⟨c1, h1, hf, ht⟩ := fault_faulted r hc
  unfold Device.coxFault
  dsimp only
  rw [h1]
  cases trap with
  | none => exact ⟨c1, _, _, _, _, rfl, hf, ht, rfl⟩
  | some t => exact ⟨c1, _, _, _, _, rfl, hf, ht, rfl⟩
end

end Sys2Proof.Laws
end

section
/-! The faults of a Cox, its branches and waits, and the end of a run (O5, O6). -/

namespace Sys2Proof.Safety

set_option Elab.async false

open Sys2Proof Sys2Proof.Machine Sys2Proof.Laws

/-! ### Faults -/

section
variable {s : State} {cd : Cd} {w : Slot0} {c : Context} {i : Instr}

/-- The record of a Cox error without an address (R141). -/
theorem coxErr_eq (s : State) (cd : Cd) (c : Context) (code detail : Nat) :
    s.dev.coxErr c cd code none detail = coxRecord s cd c code false 0 detail := by
  have hi : cdIsland cd 0 0 = BitVec.ofNat 16 (cd.val * 1024) := by simp [cdIsland, island]
  have hc : (c.tag != 0) = decide (c.tag ≠ 0) := by rw [bne, beq_eq_decide, ← decide_not]
  simp only [Device.coxErr, Device.err, coxRecord, hi, hc, Option.isSome_none, Option.getD_none]
  rfl

/-- The state after a fault of the Cox. -/
theorem stopWith_eq (s : State) (cd : Cd) (w : Slot0) (c : Context) (code detail : Nat) :
    (stopWith code none detail w c cd s.dev).1 = s.dev.coxFault c cd (coxRecord s cd c code false 0 detail) none := by
  rw [stopWith, coxErr_eq]

theorem stopLocal_eq (s : State) (cd : Cd) (w : Slot0) (c : Context) (code a : Nat) :
    (stopLocal code a w c cd s.dev).1 = s.dev.coxFault c cd (coxRecord s cd c code false a 0) none := by
  rw [stopLocal, coxErr_eq]; rfl

/-- A load or store whose address has an error stops with it. -/
theorem exec_load_error {n e : Nat} {f : Nat → W64} (h : ScalarRunsIn s cd w c) (hw : w.i = true)
    (hi : exec i s = .next { s with dev := s.dev.scalar cd w (opLd n f) }) (he : localErr (localAddress s cd w) n false = some e) :
    exec i s = .next { s with dev := s.dev.coxFault c cd (coxRecord s cd c e false (localAddress s cd w) 0) none } := by
  rw [exec_row h hi, ← stopLocal_eq s cd w]
  simp only [opLd, addr_eq, hw, he, Bool.not_true, Bool.false_eq_true, if_false]

theorem exec_store_error {n e : Nat} (h : ScalarRunsIn s cd w c) (hw : w.i = true)
    (hi : exec i s = .next { s with dev := s.dev.scalar cd w (opSt n) }) (he : localErr (localAddress s cd w) n true = some e) :
    exec i s = .next { s with dev := s.dev.coxFault c cd (coxRecord s cd c e false (localAddress s cd w) 0) none } := by
  rw [exec_row h hi, ← stopLocal_eq s cd w]
  simp only [opSt, addr_eq, hw, he, Bool.not_true, Bool.false_eq_true, if_false]
end

theorem localAddressFaultsStopTheCox : Sys2Proof.Claims.LocalAddressFaultsStopTheCox := by
  intro s cd w c h hw a stops
  have load : ∀ n f j, exec j s = .next { s with dev := s.dev.scalar cd w (opLd n f) } →
      (0x140000 ≤ a → stops j 2) ∧ (a < 0x140000 → a % n ≠ 0 → stops j 3) := fun n f j hj =>
    ⟨fun hh => exec_load_error h hw hj (localErr_bounds (.inr hh)), fun hh hn => exec_load_error h hw hj (localErr_align (Nat.zero_le _) hh hn)⟩
  have store : ∀ n j, exec j s = .next { s with dev := s.dev.scalar cd w (opSt n) } →
      (a < 0x100000 ∨ 0x140000 ≤ a → stops j 2) ∧ (0x100000 ≤ a → a < 0x140000 → a % n ≠ 0 → stops j 3) := fun n j hj =>
    ⟨fun hh => exec_store_error h hw hj (localErr_bounds hh), fun hl hh hn => exec_store_error h hw hj (localErr_align hl hh hn)⟩
  simp only [List.forall_mem_cons, List.not_mem_nil, false_implies, implies_true, and_true]
  exact ⟨⟨load _ _ _ rfl, load _ _ _ rfl, load _ _ _ rfl, load _ _ _ rfl⟩, store _ _ rfl, store _ _ rfl, store _ _ rfl⟩

theorem coxFaultStopsItsCoxAndFaultsItsContext : Sys2Proof.Claims.CoxFaultStopsItsCoxAndFaultsItsContext := by
  intro d c cd r trap hc e k k'
  obtain ⟨c1, reason, t, pc, f, h1, hf, ht, he⟩ := coxFault_eq cd r trap hc
  have hl : Leaves d (d.fault c r) := (Leaves.refl d).fault
  have hs : CoxStopped cd _ (d.fault c r) e := he ▸ coxStop_stopped (d.fault c r) c1 cd reason t pc f
  obtain ⟨c2, h2, hs2⟩ := hs.ctxs c.slot c1 h1
  obtain ⟨_, _, hdie⟩ := hl.dies cd
  have hk : (d.fault c r).dies[cd].cox = k := by rw [hdie]
  obtain ⟨g, l, hcox, -, hg⟩ := hs.cox
  obtain ⟨_, _, _, _, hown⟩ := hs.own
  rw [hk] at hcox hg
  have hk' : k' = { k with g := g, run := .idle, waiting := none, loadErr := l, bus := [] } := hcox
  rw [hk']
  refine ⟨rfl, ⟨c2, h2, hs2.faulted hf, hs2.tag.trans ht⟩, hg, rfl, rfl, rfl, rfl, rfl, fun o ho => ?_, ?_, hs.pd.trans hl.pd⟩
  · obtain ⟨_, _, ho2⟩ := (hl.dies o).trans (hs.others o ho)
    rw [ho2]; exact ⟨rfl, rfl⟩
  · rw [hown, hdie]

/-- A register read of a state with one Cox replaced. -/
theorem gRead_withCox (s : State) (cd : Cd) (k : Cox) (r : Fin 32) : gRead (withCox s cd k) cd r = k.rd r := by
  simp [gRead, withCox, Cox.rd]

/-- A register read after the write of a row. -/
theorem gRead_withG (s : State) (cd : Cd) (r q : Fin 32) (v : W64) (lat : Nat) :
    gRead (withG s cd r v lat) cd q = (s.dev.dies[cd].cox.wr r v lat).rd q := by
  rw [← withCox_wr, gRead_withCox]

section
variable {d : Device} {c : Context} {cd : Cd} {w : Slot0} {t : Nat}

/-- A branch by its target. -/
theorem opBr_eq (ht : (if w.i then w.simm else d.dies[cd].cox.rd w.a).toNat = t) : opBr w c cd d =
    if t < d.dies[cd].codeStrokes then (d.modCox cd fun k => k.jump t, false) else stopWith 4 none (t % 2 ^ 14) w c cd d := by
  subst ht; rfl

/-- A call by its link register and its target, which is read after the link is written. -/
theorem opCall_eq {k : Cox} (hk : d.dies[cd].cox.wr w.d (BitVec.ofNat 64 (d.dies[cd].cox.pc.toNat + 1)) 1 = k)
    (ht : (if w.i then w.simm else k.rd w.a).toNat = t) : opCall w c cd d =
    if t < d.dies[cd].codeStrokes then (d.modCox cd fun _ => k.jump t, false) else stopWith 4 none (t % 2 ^ 14) w c cd d := by
  subst hk ht; rfl

/-- A decrement and branch by its new register. -/
theorem opDbnz_eq {k : Cox} (hw : w.i = true) (hk : d.dies[cd].cox.wr w.d (d.dies[cd].cox.rd w.d - 1) 1 = k) (ht : w.simm.toNat = t) :
    opDbnz w c cd d = if k.rd w.d = 0 then (d.modCox cd fun _ => k, false)
      else if t < d.dies[cd].codeStrokes then (d.modCox cd fun _ => k.jump t, false) else stopWith 4 none (t % 2 ^ 14) w c cd d := by
  subst hk ht
  unfold opDbnz
  rw [hw]; rfl
end

theorem branchOutsideTheCodeStopsTheCox : Sys2Proof.Claims.BranchOutsideTheCodeStopsTheCox := by
  intro s cd w c h hw target linked stops
  have hi : ¬ w.i = true := by rw [hw]; decide
  refine ⟨fun ht => (exec_row (i := .br cd w) h rfl).trans ?_, fun ht => (exec_row (i := .call cd w) h rfl).trans ?_⟩
  · rw [opBr_eq (t := target s) (by rw [if_neg hi]; rfl), if_neg (not_lt.2 ht), stopWith_eq]
  · rw [opCall_eq (t := target linked) rfl (by rw [if_neg hi, ← gRead_withG]), if_neg (not_lt.2 ht), stopWith_eq]

theorem trapStopsTheRunWithItsCode : Sys2Proof.Claims.TrapStopsTheRunWithItsCode := by
  intro s cd w c h t
  have ht : bits w.imm.toNat 15 0 = t := rfl
  rw [exec_row (g := opTrap) h rfl, opTrap, ht, coxErr_eq]

/-- Settles O5, claim by claim: a fault is its record and the stop of its Cox (`coxFault_eq`, `coxStop_stopped`). -/
theorem coxFaultsStopTheRun : Obligations.CoxFaultsStopTheRun :=
  ⟨localAddressFaultsStopTheCox, coxFaultStopsItsCoxAndFaultsItsContext, branchOutsideTheCodeStopsTheCox, trapStopsTheRunWithItsCode⟩

/-! ### Branches, waits and the end of a run -/

/-- A jump of a Cox is the jump of the claims. -/
theorem modCox_jump (s : State) (cd : Cd) (t : Nat) : ({ s with dev := s.dev.modCox cd fun k => k.jump t } : State) = jumped s cd t := rfl

/-- A jump after a register write is one replacement of the Cox. -/
theorem jumped_withG (s : State) (cd : Cd) (r : Fin 32) (v : W64) (lat t : Nat) :
    withCox s cd ((s.dev.dies[cd].cox.wr r v lat).jump t) = jumped (withG s cd r v lat) cd t := by
  rw [← withCox_wr]
  simp [withCox, jumped, Cox.jump]

/-- A register as it reads after its own write: g0 as zero. -/
theorem rd_wr_self (k : Cox) (r : Fin 32) (v : W64) (lat : Nat) : (k.wr r v lat).rd r = if r = 0 then 0 else v := by
  unfold Cox.wr Cox.rd
  by_cases h : r = 0
  · rw [if_pos h, if_pos h]
  · simp [h]

theorem branchesMoveThePc : Sys2Proof.Claims.BranchesMoveThePc := by
  intro s cd w h k target linked v
  obtain ⟨c, hc⟩ := h
  refine ⟨fun ht => ?_, fun ht => ?_, fun hi hz => ?_, fun hi hv hd0 ht => ?_⟩
  · rw [exec_row (g := opBr) hc rfl, opBr_eq (t := target s) (by rw [simm_eq]; rfl), if_pos ht, ← modCox_jump]
  · rw [exec_row (g := opCall) hc rfl, opCall_eq (t := target linked) rfl (by rw [simm_eq, ← gRead_withG]), if_pos ht]
    exact congrArg Host.Outcome.next (jumped_withG ..)
  · have hz' : (k.wr w.d v 1).rd w.d = 0 := by
      rw [rd_wr_self]
      split
      · rfl
      · next h0 => exact hz.resolve_right h0
    rw [exec_row (g := opDbnz) hc rfl, opDbnz_eq (k := k.wr w.d v 1) hi rfl rfl, if_pos hz']
    exact congrArg Host.Outcome.next (withCox_wr ..)
  · have hnz : (k.wr w.d v 1).rd w.d ≠ 0 := by rw [rd_wr_self, if_neg hd0]; exact hv
    rw [exec_row (g := opDbnz) hc rfl, opDbnz_eq (k := k.wr w.d v 1) (t := target s) hi rfl (by simp only [target, hi, if_true, simm_eq]),
      if_neg hnz, if_pos ht]
    exact congrArg Host.Outcome.next (jumped_withG ..)

theorem waitqAndHaltStartTheirWait : Sys2Proof.Claims.WaitqAndHaltStartTheirWait := by
  intro s cd w h k
  have hm : w.imm.setWidth 6 = BitVec.ofNat 6 (w.imm.toNat % 64) := by apply BitVec.eq_of_toNat_eq; simp
  refine ⟨?_, congrArg Host.Outcome.next (scalar_onCox h opHalt)⟩
  rw [← hm]
  exact congrArg Host.Outcome.next (scalar_onCox h opWaitq)

/-- RUN_COMPLETE of a HALT wait stops the Cox when nothing is left that it waits for, and does nothing before (R139). -/
theorem runComplete_eq {d : Device} {cd : Cd} {c : Context} {m : BitVec 6} {n : Nat} (hc : d.residentOf cd = some c)
    (hrun : d.dies[cd].cox.run = .haltWait) (hwait : d.dies[cd].cox.waiting = some (m, n)) (hstop : d.stopping c = false) :
    d.runComplete cd = if (d.dies[cd].waitedFor m n).isEmpty then d.coxStop c cd 5 0 d.dies[cd].cox.pc.toNat none else d := by
  simp only [Device.runComplete, hc, hrun, hwait, hstop]
  rfl

theorem haltEndsTheRunWhenItsQueuesAreDone : Sys2Proof.Claims.HaltEndsTheRunWhenItsQueuesAreDone := by
  intro s cd c u m n x hc hu hrun hwait hpre hheld
  have hstop : s.dev.stopping c = false := by rw [Device.stopping, hpre, hheld]; rfl
  have hexec : exec (.runComplete cd) s = .next { s with dev := s.dev.runComplete cd } := rfl
  rw [hexec, runComplete_eq hc hrun hwait hstop]
  refine ⟨fun h => ?_, fun h => by rw [if_neg (by rw [h]; decide)]⟩
  rw [if_pos h]
  have hs := coxStop_stopped s.dev c cd 5 0 x.cox.pc.toNat none
  obtain ⟨g, l, hcox, hflush, hg⟩ := hs.cox
  obtain ⟨_, _, _, _, hown⟩ := hs.own
  refine ⟨_, rfl, ?_, ?_, ?_, fun hb => ?_, ?_, ?_⟩ <;> dsimp only
  · rw [hcox]
  · rw [hown]; simp [tallyAfter, hu, x]
  · rw [hcox, hflush]
  · rw [hcox]; exact hg hb
  · rw [hcox]
  · rw [hown]

/-- Settles O6, claim by claim. -/
theorem branchesWaitsAndHalt : Obligations.BranchesWaitsAndHalt :=
  ⟨branchesMoveThePc, waitqAndHaltStartTheirWait, haltEndsTheRunWhenItsQueuesAreDone⟩

end Sys2Proof.Safety
end

section
/-! SUPPORT. What the release and the completion point of a command change on its die: its links, its s-registers and its queue (R132, R154,
R155). -/

namespace Sys2Proof.Laws

set_option Elab.async false

open Sys2Proof Sys2Proof.Machine Sys2Proof.Safety

/-! ### Links and queues -/

section
variable {x : Die} {q : QueueId} {e : QEntry}

theorem modQueue_other {p : QueueId} (f : List QEntry → List QEntry) (h : p ≠ q) : (x.modQueue q f).queues[p] = x.queues[p] :=
  upd_other _ _ (Ne.symm h)

/-- A link after the links of a die have been changed at one number. -/
theorem modLink_get (x : Die) (n l : Nat) (f : Link → Link) : (x.modLink n f).links[l]? = (x.links[l]?).map fun k => if n = l then f k else k := by
  simp only [Die.modLink, List.getElem?_modify]
  split <;> simp [*]

/-- A link after a release point: a credit back to the link that the command takes from (R154). -/
theorem linkRelease_get (x : Die) (e : QEntry) (l : Nat) : (x.linkRelease e).links[l]? = (x.links[l]?).map fun k =>
    if cwTe e.w = true ∧ cwTl e.w = l then { k with credits := k.credits + 1 } else k := by
  unfold Die.linkRelease
  by_cases h : cwTe e.w = true
  · rw [if_pos h, modLink_get]; simp [h]
  · simp [h]

/-- A link after a completion point: a token to the link that the command gives on (R154). -/
theorem linkComplete_get (x : Die) (e : QEntry) (l : Nat) : (x.linkComplete e).links[l]? = (x.links[l]?).map fun k =>
    if cwGe e.w = true ∧ cwGl e.w = l then { k with tokens := k.tokens + 1 } else k := by
  unfold Die.linkComplete
  by_cases h : cwGe e.w = true
  · rw [if_pos h, modLink_get]; simp [h]
  · simp [h]

/-- A release point changes the links of its die alone. -/
theorem linkRelease_eq (x : Die) (e : QEntry) : x.linkRelease e = { x with links := (x.linkRelease e).links } := by
  unfold Die.linkRelease Die.modLink
  split <;> rfl

theorem linkComplete_eq (x : Die) (e : QEntry) : x.linkComplete e = { x with links := (x.linkComplete e).links } := by
  unfold Die.linkComplete Die.modLink
  split <;> rfl

/-- What a release point and a completion point make of their die. -/
theorem released_eq (x : Die) (q : QueueId) (e : QEntry) (f : List QEntry → List QEntry) : (x.linkRelease e).modQueue q f = { x with
    links := (x.linkRelease e).links, cox := x.cox, queues := upd x.queues q f } := by
  rw [linkRelease_eq]; rfl

theorem complete_eq (x : Die) (q : QueueId) (e : QEntry) : x.complete q e = { x with
    links := (x.linkComplete e).links
    queues := upd x.queues q fun l => l.filter fun b => b.no ≠ e.no
    cox := x.cox.writeS e.no e.svals } := by
  rw [Die.complete, linkComplete_eq]; rfl
end

/-! ### The s-registers of a completion point (R132, R149) -/

/-- One s value written: its mark clears unless a later command has set it again. -/
theorem writeS_cons (no : Nat) (r : Fin 16) (v : W64) (l : List (Fin 16 × W64)) (k : Cox) : k.writeS no ((r, v) :: l) =
    ({ k with s := k.s.set r v, pend := if k.pend[r] ≠ 0 ∧ k.pendNo[r] = no then k.pend.set r 0 else k.pend } : Cox).writeS no l := by
  rw [Cox.writeS]
  dsimp only
  by_cases h : k.pend[r] ≠ 0 ∧ k.pendNo[r] = no
  · rw [if_pos h, if_pos h]
  · rw [if_neg h, if_neg h]

/-- Only the s-registers and their marks change. -/
theorem writeS_eq (no : Nat) : ∀ (l : List (Fin 16 × W64)) (k : Cox), ∃ s p, k.writeS no l = { k with s := s, pend := p }
  | [], _ => ⟨_, _, rfl⟩
  | (r, v) :: l, k => by
    rw [writeS_cons]
    obtain ⟨s, p, h⟩ := writeS_eq no l _
    exact ⟨s, p, h⟩

/-- An s-register that the command does not name stays, with its mark. -/
theorem writeS_other (no : Nat) {r : Fin 16} : ∀ (l : List (Fin 16 × W64)) (k : Cox), (∀ v, (r, v) ∉ l) →
    (k.writeS no l).s[r] = k.s[r] ∧ (k.writeS no l).pend[r] = k.pend[r]
  | [], _, _ => ⟨rfl, rfl⟩
  | (q, v) :: l, k, h => by
    have hq : q ≠ r := fun e => h v (e ▸ List.mem_cons_self)
    have hv : q.val ≠ r.val := fun e => hq (Fin.ext e)
    rw [writeS_cons]
    obtain ⟨hs, hp⟩ := writeS_other no l _ fun u hu => h u (List.mem_cons_of_mem _ hu)
    refine ⟨hs.trans ?_, hp.trans ?_⟩ <;> dsimp only
    · simp [hv]
    · split
      · simp [hv]
      · rfl

/-- The s value of a command that names one s-register. -/
theorem writeS_one (no : Nat) (k : Cox) (r : Fin 16) (v : W64) : (k.writeS no [(r, v)]).s[r] = v
    ∧ (k.writeS no [(r, v)]).pend[r] = if k.pendNo[r] = no then 0 else k.pend[r] := by
  rw [writeS_cons, Cox.writeS]
  refine ⟨by simp, ?_⟩
  by_cases hno : k.pendNo[r] = no
  · by_cases hp : k.pend[r] = 0
    · rw [if_neg (fun h => h.1 hp), if_pos hno]; exact hp
    · rw [if_pos ⟨hp, hno⟩, if_pos hno]; simp
  · rw [if_neg (fun h => hno h.2), if_neg hno]

/-! ### The release and the completion point -/

section
variable {d : Device} {cd : Cd} {q : QueueId} {c : Context} {e : QEntry}

/-- The release point of a command that neither gates nor posts. -/
theorem releasePoint_eq (hc : d.residentOf cd = some c) (hf : d.dies[cd].frozen = false) (hh : d.enginesHeld c = false)
    (he : (d.dies[cd].queues[q].find? fun e => e.started && e.inputRead && !e.released) = some e) (hm : moveFlag q e 0 = false) :
    d.releasePoint cd q = d.modDie cd fun x => (x.linkRelease e).modQueue q fun l => setEntry l e.no fun e => { e with released := true } := by
  simp only [Device.releasePoint, hc, hf, hh, he, Device.gateRelease, hm]
  rfl

/-- The completion point of a command that neither gates nor posts. -/
theorem completionPoint_eq (hc : d.completing cd q = some (c, e)) (hm : moveFlag q e 6 = false) :
    d.completionPoint cd q = d.modDie cd fun x => x.complete q e := by
  simp only [Device.completionPoint, hc, Device.postComplete, hm]
  rfl

/-- The command at its completion point. -/
theorem completing_eq (hc : d.residentOf cd = some c) (hf : d.dies[cd].frozen = false) (hh : d.enginesHeld c = false)
    (hw : d.companionWait c cd q = false)
    (he : (d.dies[cd].queues[q].find? fun e => e.started && e.done && e.released && !e.stopped && !(isClose q e &&
        (d.dies[cd].queues[q].any fun b => isClose q b && decide (b.no < e.no)))) = some e) : d.completing cd q = some (c, e) := by
  simp only [Device.completing, hc, hf, hh, hw, he]
  rfl

/-- Whether the engines of a context are held depends on the switch under way and on the Course of its dies. -/
theorem enginesHeld_congr {d' : Device} (hs : d'.switching = d.switching) (hk : ∀ o : Cd, d'.dies[o].course = d.dies[o].course) :
    d'.enginesHeld c = d.enginesHeld c := by
  simp only [Device.enginesHeld, Device.stopping, Device.preempting, Device.courseStill, hs, hk]

/-- The completion of a command without a bucket to account for. -/
theorem commandCompletion_plain (hc : d.completing cd q = some (c, e))
    (hb : isClose q e = true → ∀ b ∈ d.dies[cd].ladle.buckets, b.state = .completed → b.closeNo ≠ e.no) :
    d.commandCompletion cd q = d.completionPoint cd q := by
  simp only [Device.commandCompletion, hc]
  split
  · rfl
  · next hcl =>
    have hnone : (d.dies[cd].ladle.buckets.find? fun b => b.state == .completed && b.closeNo == e.no) = none := by
      refine List.find?_eq_none.2 fun b hmem hcond => ?_
      simp only [Bool.and_eq_true, beq_iff_eq] at hcond
      exact hb (by simpa using hcl) b hmem hcond.1 hcond.2
    rw [hnone]

/-- Bytes written by a requester change memory and the writes that wait for the link, and nothing else. -/
def PutFrame (d d' : Device) : Prop := ∃ m w, d' = { d with mem := m, heldWrites := w }

theorem writeLine_frame {r : Requester} {a : Nat} {bs : List Byte} {d' : Device} (h : d.writeLine c cd r a bs = .ok d') : PutFrame d d' := by
  unfold Device.writeLine at h
  split at h
  · cases h
  · dsimp only at h
    split at h
    · cases h
    · split at h
      · split at h
        · cases h
        · cases h
          unfold Device.companionPut
          split <;> exact ⟨_, _, rfl⟩
      · cases h
        unfold Device.writeAs
        dsimp only
        split <;> exact ⟨_, _, rfl⟩

theorem writeBytes_frame {r : Requester} : ∀ (fuel : Nat) (d : Device) (a : Nat) (bs : List Byte), PutFrame d (d.writeBytes c cd r fuel a bs).1
  | 0, _, _, _ => ⟨_, _, rfl⟩
  | fuel + 1, d, a, bs => by
    unfold Device.writeBytes
    dsimp only
    split
    · exact ⟨_, _, rfl⟩
    · split
      · exact ⟨_, _, rfl⟩
      · next d1 hd =>
        obtain ⟨_, _, rfl⟩ := writeLine_frame hd
        obtain ⟨m, w, h⟩ := writeBytes_frame (r := r) fuel _ (a + (64 - a % 64)) (bs.drop (64 - a % 64))
        split <;> next h' => rw [h'] at h; exact ⟨m, w, h⟩

theorem putBytes_frame {r : Requester} {a : Nat} {bs : List Byte} {d' : Device} {y : Option (Nat × Nat × Nat)} (h : d.putBytes c cd r a bs = (d', y)) :
    PutFrame d d' := by
  have := writeBytes_frame (c := c) (cd := cd) (r := r) (bs.length + 1) d a bs
  rwa [show d.writeBytes c cd r (bs.length + 1) a bs = (d', y) from h] at this

/-- A command completes on a device that a write and an update of the Ladle have left as it does before. -/
theorem completing_frame {d' : Device} (h : PutFrame d d') (f : Ladle → Ladle) : (d'.modLadle cd f).completing cd q = d.completing cd q := by
  obtain ⟨m, w, rfl⟩ := h
  have hk : ∀ o : Cd, ((({ d with mem := m, heldWrites := w } : Device).modLadle cd f).dies[o]).course = d.dies[o].course := fun o => by
    by_cases ho : cd = o
    · subst ho; rw [Device.modLadle, modDie_self]
    · rw [Device.modLadle, modDie_other _ _ ho]
  have hq : ((({ d with mem := m, heldWrites := w } : Device).modLadle cd f).dies[cd]).queues = d.dies[cd].queues := by
    rw [Device.modLadle, modDie_self]
  have hfr : ((({ d with mem := m, heldWrites := w } : Device).modLadle cd f).dies[cd]).frozen = d.dies[cd].frozen := by
    rw [Device.modLadle, modDie_self]
  have hr : (({ d with mem := m, heldWrites := w } : Device).modLadle cd f).residentOf cd = d.residentOf cd := rfl
  have hc : ∀ c, (({ d with mem := m, heldWrites := w } : Device).modLadle cd f).companionWait c cd q = d.companionWait c cd q := fun _ => rfl
  have hh : ∀ c, (({ d with mem := m, heldWrites := w } : Device).modLadle cd f).enginesHeld c = d.enginesHeld c := fun _ => enginesHeld_congr rfl hk
  simp only [Device.completing, hr, hc, hh, hfr, hq]

/-- The completion of a CLOSE whose record is written: the write, and on the device it leaves the completion point, with the bucket gone. -/
theorem commandCompletion_record {b : Bucket} {r : ReduceConfig} {d1 : Device} (hc : d.completing cd q = some (c, e)) (hcl : isClose q e = true)
    (hb : (d.dies[cd].ladle.buckets.find? fun b => b.state == .completed && b.closeNo == e.no) = some b) (hr : c.reduce = some r)
    (hrec : le (d.dies[cd].planBytes (b.recordOff + 1) 1) / 2 % 2 = 1)
    (hput : d.putBytes c cd .ladle (wrap52 (le (d.dies[cd].planBytes (b.recordOff + 0x10) 8) % 2 ^ 52 + b.ga.toNat))
      (b.record (c.node r (c.posOf cd)) c.tag b.code b.total b.totals) = (d1, none)) :
    d.commandCompletion cd q = (d1.modLadle cd fun k => { k with buckets := k.buckets.erase b }).completionPoint cd q := by
  have hbit : bits (le (d.dies[cd].planBytes (b.recordOff + 1) 1)) 1 1 = 1 := by rw [bits_eq]; exact hrec
  simp only [Device.commandCompletion, hc, hcl, hb, Device.closeRecord, hr, hbit, Device.ladlePut, hput, Bool.not_true, Bool.false_eq_true, if_false,
    if_true]
end

end Sys2Proof.Laws
end

section
/-! The release and the completion point of a command (O25). -/

namespace Sys2Proof.Safety

set_option Elab.async false

open Sys2Proof Sys2Proof.Machine Sys2Proof.Laws

/-- The parts of the device that neither point of a command of a queue reaches. -/
def PointFrame (s t : State) (cd : Cd) (q : QueueId) : Prop :=
  t.dev.mem = s.dev.mem ∧ t.dev.ctxs = s.dev.ctxs ∧ (∀ o : Cd, o ≠ cd → t.dev.dies[o] = s.dev.dies[o])
    ∧ (∀ p : QueueId, p ≠ q → t.dev.dies[cd].queues[p] = s.dev.dies[cd].queues[p]) ∧ t.dev.dies[cd].loc = s.dev.dies[cd].loc
    ∧ t.dev.dies[cd].mas = s.dev.dies[cd].mas

section
variable {s : State} {cd : Cd} {q : QueueId} {f : Die → Die}

/-- An update of one die in its links, its Cox and one queue. -/
theorem pointFrame_modDie {x : Die} (hx : x = s.dev.dies[cd]) (hf : ∃ l k g, f x = { x with links := l, cox := k, queues := upd x.queues q g }) :
    PointFrame s { s with dev := s.dev.modDie cd f } cd q := by
  subst hx
  obtain ⟨l, k, g, h⟩ := hf
  refine ⟨rfl, rfl, fun o ho => modDie_other _ _ (Ne.symm ho), fun p hp => ?_, ?_, ?_⟩ <;> dsimp only <;> rw [modDie_self, h]
  exact upd_other _ _ (Ne.symm hp)
end

/-- Settles O25: each point is one update of its die (`releasePoint_eq`, `completionPoint_eq`); a CLOSE that writes a record completes on the device
that the write leaves. -/
theorem releaseAndCompletionPoints : Obligations.ReleaseAndCompletionPoints := by
  unfold Obligations.ReleaseAndCompletionPoints
  intro s cd q c e x tokens credits frame gone written hc hf hh hm
  refine ⟨fun he => ?_, fun he hw hb => ?_, fun b r d1 he hcl hb hr hrec hput => ?_⟩
  · have hexec : exec (.commandReleasePoint cd q) s = .next { s with dev := s.dev.releasePoint cd q } := rfl
    rw [hexec, releasePoint_eq hc hf hh he (hm 0)]
    refine ⟨_, rfl, pointFrame_modDie rfl ⟨_, _, _, released_eq ..⟩, ?_, fun a ha hno => ?_, fun l => ?_⟩
    · dsimp only
      rw [modDie_self, released_eq]
    · dsimp only at ha
      rw [modDie_self, modQueue_self] at ha
      obtain ⟨_, -, -, rfl⟩ := eq_of_mem_setEntry ha hno
      rfl
    · simp only [tokens, credits, modDie_self, released_eq, linkRelease_get, Option.map_map]
      refine ⟨Option.map_congr fun k _ => ?_, Option.map_congr fun k _ => ?_⟩ <;> simp only [Function.comp_apply] <;> split <;> rfl
  · have hcomp : s.dev.completing cd q = some (c, e) := completing_eq hc hf hh hw he
    have hexec : exec (.commandCompletionPoint cd q) s = .next { s with dev := s.dev.commandCompletion cd q } := rfl
    rw [hexec, commandCompletion_plain hcomp hb, completionPoint_eq hcomp (hm 6)]
    have hdie := (modDie_self s.dev cd fun x => x.complete q e).trans (complete_eq x q e)
    refine ⟨_, rfl, pointFrame_modDie rfl ⟨_, _, _, complete_eq ..⟩, ?_, ?_, fun r v hv => ?_, fun r hr => ?_, fun l => ?_⟩
    · simp only [gone, hdie]; exact upd_self ..
    · obtain ⟨_, _, hS⟩ := writeS_eq e.no e.svals x.cox
      dsimp only
      rw [hdie, hS]
    · simp only [written, hdie, hv]; exact writeS_one ..
    · dsimp only
      rw [hdie]; exact writeS_other e.no e.svals x.cox hr
    · simp only [tokens, credits, hdie, linkComplete_get, Option.map_map]
      refine ⟨Option.map_congr fun k _ => ?_, Option.map_congr fun k _ => ?_⟩ <;> simp only [Function.comp_apply] <;> split <;> rfl
  · have hput' := putBytes_frame hput
    have hexec : exec (.commandCompletionPoint cd q) s = .next { s with dev := s.dev.commandCompletion cd q } := rfl
    rw [hexec, commandCompletion_record he hcl hb hr hrec hput, completionPoint_eq ((completing_frame hput' _).trans he) (hm 6)]
    have hdie : ((d1.modLadle cd fun k => { k with buckets := k.buckets.erase b }).modDie cd fun x => x.complete q e).dies[cd]
        = ({ x with ladle := { x.ladle with buckets := x.ladle.buckets.erase b } } : Die).complete q e := by
      obtain ⟨_, _, rfl⟩ := hput'
      rw [modDie_self, Device.modLadle, modDie_self]
    rw [complete_eq] at hdie
    refine ⟨_, rfl, rfl, ?_, ?_⟩
    · simp only [gone, hdie]; exact upd_self ..
    · dsimp only
      rw [hdie]

end Sys2Proof.Safety
end

section
/-! SUPPORT. The completion of a descriptor and the dies (R366, R371): what a completion entry writes, and that its writes alone move no die
unless the link answers one of them with an error. -/

namespace Sys2Proof.Laws

set_option Elab.async false

open Sys2Proof Sys2Proof.Machine Sys2Proof.Safety

/-- A completion leaves what faults and records leave. -/
theorem Leaves.finish {d₀ d : Device} {id : RingId} {t : Taken} {code flags : Nat} {res : List Byte} (h : Leaves d₀ d) :
    Leaves d₀ (d.finish id t code flags res) := by
  refine Leaves.onRing ?_ fun _ => ringComplete_bases _ _ _ _ _ _
  cases id with
  | admin => exact h.frame
  | ctx slot => exact h.modCtx fun _ => ⟨rfl, rfl, rfl, id⟩

/-- A refused load leaves what faults and records leave. -/
theorem Leaves.refuseLoad {d₀ d : Device} {c : Context} {t : Taken} {dpa : Nat} {e : PlanErr} (h : Leaves d₀ d) :
    Leaves d₀ (d.refuseLoad c t dpa e) := by
  unfold Device.refuseLoad Device.answerErr
  exact h.report.finish

/-- A completion writes its entry, the status line and at most the signal. -/
theorem ringComplete_writes (tag : BitVec 16) (op : BitVec 8) (seq : BitVec 32) (code flags : Nat) (res : List Byte) (r : RingSet) :
    ∀ w ∈ (ringComplete tag op seq code flags res ([], r)).1,
      w.1 = r.cq.toNat + 64 * (r.cqTail.toNat % pow2 r.cqN) ∨ w.1 = r.sts.toNat ∨ w.1 = r.sig.toNat := by
  intro w hw
  unfold ringComplete ringSignal ringStatus at hw
  dsimp only at hw
  split at hw
  · simp at hw; grind
  · split at hw <;> simp at hw <;> grind

/-- A ring operation whose writes the link takes moves no die. -/
theorem onRing_dies {d : Device} {slot : CtxSlot} {c : Context} {r : RingSet} {f : BitVec 16 → RingIo → RingIo} (hc : d.ctxAt slot = some c)
    (hr : c.ring = some r) (hw : ∀ w ∈ (f c.tag ([], r)).1, w.1 / 64 ∉ d.mem.errLines) : (d.onRing (.ctx slot) f).dies = d.dies := by
  have hb : d.badWrites (f c.tag ([], r)).1 = [] := List.filter_eq_nil_iff.2 fun w h => by simpa using hw w h
  have hd : (d.ringDo (.ctx slot) f).1.dies = d.dies := by
    simp only [Device.ringDo, hc, hr]
    exact companionPut_dies ..
  have hs : (d.ringDo (.ctx slot) f).2.2 = (f c.tag ([], r)).1 := by simp only [Device.ringDo, hc, hr]
  unfold Device.onRing
  dsimp only
  rw [hs, hb]
  split
  · exact hd
  · exact hd

/-- A completion whose entry, status line and signal the link takes moves no die. -/
theorem finish_dies {d : Device} {slot : CtxSlot} {c : Context} {r : RingSet} {t : Taken} {code flags : Nat} {res : List Byte}
    (hc : d.ctxAt slot = some c) (hr : c.ring = some r)
    (hw : ∀ a, a = r.cq.toNat + 64 * (r.cqTail.toNat % pow2 r.cqN) ∨ a = r.sts.toNat ∨ a = r.sig.toNat → a / 64 ∉ d.mem.errLines) :
    (d.finish (.ctx slot) t code flags res).dies = d.dies := by
  have hk : (d.setHead (.ctx slot) none).ctxAt slot = some { c with head := none } := by
    rw [Device.setHead, ctxAt_modCtx d slot (f := fun c => { c with head := none }) fun _ => rfl, hc, Option.map_some,
      if_pos (by simp [ctxAt_slot hc])]
  exact onRing_dies hk hr fun w h => hw _ (ringComplete_writes _ _ _ _ _ _ _ w h)

/-- An image that fails a check is refused with its record (R166). -/
theorem planLoad_refused {d : Device} {c : Context} {t : Taken} {img : List Byte} {e : PlanErr} (hr : c.run = none)
    (hi : d.planImage c (entDpa t.entry 8) (field t.entry 0x10 8) = .ok img) (he : d.planCheck c img = .error e) :
    d.planLoad c t = d.refuseLoad c t (entDpa t.entry 8) e := by
  simp only [Device.planLoad, hr, hi, he, Option.isSome_none, Bool.false_eq_true, if_false]

end Sys2Proof.Laws

namespace Sys2Proof.Safety

set_option Elab.async false

open Sys2Proof Sys2Proof.Machine Sys2Proof.Laws

/-! ### The image of no bytes, on a ring whose event line the link answers with an error (R166, R171, R376) -/

/-- A ring set in companion memory, its parts 4 KiB apart, each queue of one entry. -/
def loadRing : RingSet :=
  { sqN := 0, cqN := 0, eqN := 0, sq := BitVec.ofNat 52 (2 ^ 45), cq := BitVec.ofNat 52 (2 ^ 45 + 0x1000), eq := BitVec.ofNat 52 (2 ^ 45 + 0x2000),
    ctl := BitVec.ofNat 52 (2 ^ 45 + 0x3000), sts := BitVec.ofNat 52 (2 ^ 45 + 0x4000), sig := BitVec.ofNat 52 (2 ^ 45 + 0x5000),
    sigval := 0, coal := 0, mmio := false, signals := false, expected := 1 }

/-- A PLAN_LOAD of an image of no bytes, which the first check of its header refuses. -/
def loadHead : Taken := { op := 1, seq := 0, entry := [] }

/-- A context of one die with that descriptor at the head of its ring. -/
def loadCtx : Context :=
  { tag := 1, slot := 0, first := 0, logM := 0, quota := 0, seed := 0, commitLine := 0, saveArea := 0, pantry := Vector.replicate 64 0,
    portMask := 0, domains := [], resident := true, head := some loadHead, ring := some loadRing }

/-- The link up, that context alone, and a link that answers a write of its event queue with an error. -/
def loadState : State :=
  { dev := { Device.reset with cycles := [], yalkenUp := true, ctxs := [loadCtx], mem := { errLines := [(2 ^ 45 + 0x2000) / 64] } }, pending := [] }

theorem loadState_atHead : AtHead loadState 0 1 loadCtx loadHead := by
  refine ⟨rfl, rfl, rfl, rfl, rfl, rfl, ?_, rfl⟩
  decide

/-- The header of an image of no bytes lacks the magic number. -/
theorem loadState_check : loadState.dev.planCheck loadCtx [] = .error { cls := 6, code := 1, off := 0, sect := 65535 } := by decide +kernel

/-- The refused load leaves a fault on its way to the Cox of its die. -/
theorem loadState_faultDue : (loadState.dev.planLoad loadCtx loadHead).dies[(0 : Cd)].faultDue.isSome = true := by decide +kernel

/-- The load is refused: it reports its record and completes. -/
theorem loadState_leaves : Leaves loadState.dev (loadState.dev.planLoad loadCtx loadHead) := by
  rw [planLoad_refused rfl rfl loadState_check]
  exact (Leaves.refl _).refuseLoad

/-- No completion of the context writes the line that the link answers with an error. -/
theorem loadRing_clear {d : Device} (he : d.mem.errLines = loadState.dev.mem.errLines) {r : RingSet} (hr : ringBases r = ringBases loadRing) :
    ∀ a, a = r.cq.toNat + 64 * (r.cqTail.toNat % pow2 r.cqN) ∨ a = r.sts.toNat ∨ a = r.sig.toNat → a / 64 ∉ d.mem.errLines := by
  obtain ⟨hs, hg, hq, hn⟩ : r.sts = loadRing.sts ∧ r.sig = loadRing.sig ∧ r.cq = loadRing.cq ∧ r.cqN = 0 := by
    simpa [ringBases, loadRing] using hr
  rw [he, hs, hg, hq, hn]
  have hz : r.cqTail.toNat % pow2 0 = 0 := Nat.mod_one _
  rw [hz]
  rintro a (rfl | rfl | rfl)
  · decide
  · decide
  · decide

/-- Refutes O35: a refused load posts its record as an ERROR event on the ring of its context. Where the link answers the write of that event
with an error, R171 and R192 fault the context, and the fault is on its way to its dies: they do not stay as they were. -/
theorem not_planLoadInstallsAnAcceptedImage : ¬ Obligations.PlanLoadInstallsAnAcceptedImage := by
  intro h
  obtain ⟨d, r, hx, -, -, -, -, hd, c', hc', -⟩ := (h loadState 0 loadCtx loadHead loadState_atHead (by decide) (by decide)).2 []
    _ rfl loadState_check
  have hX : loadState.dev.planLoad loadCtx loadHead = d.finish (.ctx 0) loadHead 0xE7 1 (List.replicate 16 0 ++ r.encode) := by
    have hp := hx
    simp only [exec, execPlanLoad, descriptor_acts loadState_atHead, Completed, Host.Outcome.next.injEq, State.mk.injEq] at hp
    exact hp.1
  have hl : Leaves d (d.finish (.ctx 0) loadHead 0xE7 1 (List.replicate 16 0 ++ r.encode)) := (Leaves.refl d).finish
  have hL := loadState_leaves
  rw [hX] at hL
  obtain ⟨a, ha, hca⟩ := hL.ctxs 0 loadCtx rfl
  obtain ⟨b, hb, hcb⟩ := hl.ctxs 0 c' hc'
  obtain rfl : a = b := Option.some.inj (ha.symm.trans hb)
  have hring : c'.ring.map ringBases = some (ringBases loadRing) := hcb.bases.symm.trans hca.bases
  obtain ⟨q, hq, hqb⟩ := Option.map_eq_some_iff.1 hring
  have hdies := finish_dies (t := loadHead) (code := 0xE7) (flags := 1) (res := List.replicate 16 0 ++ r.encode) hc' hq
    (loadRing_clear (hl.errLines.symm.trans hL.errLines) hqb)
  have hf := loadState_faultDue
  rw [hX, hdies, hd] at hf
  exact absurd hf (by decide)

end Sys2Proof.Safety
end
section
/-! SUPPORT. The issue of strokes (R129 to R133, R137, R138): a cycle in which nothing holds the stroke back, what the stroke's slots leave, and
the accesses to bonded SRAM made before it. -/

namespace Sys2Proof.Laws

set_option Elab.async false

open Sys2Proof Sys2Proof.Machine Sys2Proof.Safety

/-! ### The accesses made at the start of a cycle (R130) -/

section
variable {d : Device} {cd : Cd}

/-- An update that leaves the Cox of a die leaves the device. -/
theorem modCox_unchanged {f : Cox → Cox} (h : f d.dies[cd].cox = d.dies[cd].cox) : d.modCox cd f = d := by
  have hs : upd d.dies cd (fun x => { x with cox := f x.cox }) = d.dies := by
    unfold upd
    dsimp only
    rw [h]
    exact Vector.set_getElem_self ..
  exact congrArg (fun v => ({ d with dies := v } : Device)) hs

/-- Two updates of one die, in order. -/
theorem modDie_modDie (f g : Die → Die) : (d.modDie cd f).modDie cd g = d.modDie cd fun x => g (f x) := by
  have hs : upd (upd d.dies cd f) cd g = upd d.dies cd fun x => g (f x) := by
    rw [upd, upd_self, upd, upd, Vector.set_set]
  exact congrArg (fun v => ({ d with dies := v } : Device)) hs

theorem modDie_const (f : Die → Die) : d.modDie cd f = d.modDie cd fun _ => f d.dies[cd] := rfl

/-- No access is made in a cycle that none reaches. -/
theorem busUntil_none {t : Nat} (h : ∀ b ∈ d.dies[cd].cox.bus, t < b.due) : d.busUntil cd t = d := by
  have hdue : (d.dies[cd].cox.bus.filter fun b => decide (b.due ≤ t)) = [] := List.filter_eq_nil_iff.2 fun b hb => by simpa using h b hb
  have hleft : (d.dies[cd].cox.bus.filter fun b => decide (t < b.due)) = d.dies[cd].cox.bus :=
    List.filter_eq_self.2 fun b hb => by simpa using h b hb
  unfold Device.busUntil
  rw [hdue]
  exact modCox_unchanged (by rw [hleft])

/-- A load that is made takes the bytes of bonded SRAM as they stand. -/
theorem busAct_load {b : BusOp} (hs : sramBase ≤ b.dpa.toNat) (hst : b.store = none) (hdata : d.dataCode b.dpa.toNat b.bytes = none) :
    d.busAct cd b = d.modCox cd fun k => { k with
      g := if b.d = 0 then k.g else k.g.set b.d (BitVec.ofNat 64 (le (memBytes 0 d.mem.bytes b.dpa.toNat b.bytes))) } := by
  unfold Device.busAct
  rw [hst, hdata, readAs_sram _ hs]

/-- A store that is made stores its bytes, and clears the errors of the words that it covers. -/
theorem busAct_store {b : BusOp} {bs : List Byte} (hs : sramBase ≤ b.dpa.toNat) (hst : b.store = some bs) :
    d.busAct cd b = { d with mem := { d.mem with
      bytes := memStore 0 d.mem.bytes b.dpa.toNat bs
      ueWords := d.mem.ueWords.filter fun w => !wordsCovered b.dpa.toNat bs.length w } } := by
  unfold Device.busAct
  rw [hst]
  exact writeAs_sram _ hs bs

/-- The one access in flight is made when its cycle has come, and leaves none. -/
theorem busUntil_due {b : BusOp} {t : Nat} (hb : d.dies[cd].cox.bus = [b]) (h : b.due ≤ t) :
    d.busUntil cd t = (d.modCox cd fun k => { k with bus := k.bus.filter fun b => decide (t < b.due) }).busAct cd b
      ∧ (d.busUntil cd t).dies[cd].cox.bus = [] := by
  refine ⟨?_, ?_⟩
  · unfold Device.busUntil
    rw [hb, List.filter_cons_of_pos (by simpa using h)]
    rfl
  · rw [(busUntil_made d cd t).bus, hb, List.filter_cons_of_neg (by simpa using h), List.filter_nil]

/-- A load made in its cycle leaves memory, and its bytes in its register. -/
theorem busUntil_load {b : BusOp} {t : Nat} (hb : d.dies[cd].cox.bus = [b]) (h : b.due ≤ t) (hs : sramBase ≤ b.dpa.toNat) (hst : b.store = none)
    (hdata : d.dataCode b.dpa.toNat b.bytes = none) :
    (d.busUntil cd t).dies[cd].cox.bus = [] ∧ (d.busUntil cd t).mem = d.mem ∧ (d.busUntil cd t).dies[cd].cox.g = if b.d = 0 then d.dies[cd].cox.g
      else d.dies[cd].cox.g.set b.d (BitVec.ofNat 64 (le (memBytes 0 d.mem.bytes b.dpa.toNat b.bytes))) := by
  obtain ⟨he, hbus⟩ := busUntil_due hb h
  have hd : (d.modCox cd fun k => { k with bus := k.bus.filter fun b => decide (t < b.due) }).dataCode b.dpa.toNat b.bytes = none := hdata
  rw [busAct_load hs hst hd] at he
  refine ⟨hbus, (congrArg Device.mem he :), ?_⟩
  rw [he, modCox_self, modCox_self]
  rfl

/-- A store made in its cycle leaves the g-registers, and its bytes in memory. -/
theorem busUntil_store {b : BusOp} {t : Nat} {bs : List Byte} (hb : d.dies[cd].cox.bus = [b]) (h : b.due ≤ t) (hs : sramBase ≤ b.dpa.toNat)
    (hst : b.store = some bs) : (d.busUntil cd t).dies[cd].cox.g = d.dies[cd].cox.g
      ∧ (d.busUntil cd t).mem.bytes = memStore 0 d.mem.bytes b.dpa.toNat bs := by
  obtain ⟨he, -⟩ := busUntil_due hb h
  rw [busAct_store hs hst] at he
  refine ⟨?_, (congrArg (fun f => f.mem.bytes) he :)⟩
  rw [he]
  exact (congrArg (fun x => x.cox.g) (modCox_self d cd fun k => { k with bus := k.bus.filter fun b => decide (t < b.due) }) :)

/-- Accesses leave the courses of all dies. -/
theorem BusMade.course {b : List BusOp} {e : Device} (h : BusMade cd b d e) (o : Cd) : e.dies[o].course = d.dies[o].course := by
  by_cases ho : o = cd
  · obtain ⟨_, _, hown⟩ := h.own
    rw [ho, hown]
  · rw [h.others o ho]

theorem BusMade.inLead {b : List BusOp} {e : Device} (h : BusMade cd b d e) (c : Context) : e.inLead c cd = d.inLead c cd := by
  simp only [Device.inLead, Device.latePos, Device.lateFor, h.course]
end

/-! ### A cycle of a running Cox (R129, R137) -/

section
variable {d : Device} {c : Context} {cd : Cd}

/-- No cycle passes in a resume lead. -/
theorem strokeIssue_inLead (hr : d.residentOf cd = some c) (hk : d.dies[cd].cox.run ≠ .idle) (hp : d.preempting c = false) (hh : c.held = false)
    (hl : d.inLead c cd = true) : d.strokeIssue cd = d := by
  simp only [Device.strokeIssue, hr, hp, hh, hl, decide_eq_false hk, Bool.or_self, Bool.false_eq_true, if_false, if_true]

/-- A cycle that is neither held, nor paused, nor of a resume lead. -/
theorem strokeIssue_runs (hr : d.residentOf cd = some c) (hk : d.dies[cd].cox.run ≠ .idle) (hp : d.preempting c = false) (hh : c.held = false)
    (hl : d.inLead c cd = false) : d.strokeIssue cd = (d.busUntil cd d.dies[cd].cox.now).coxCycle c cd := by
  simp only [Device.strokeIssue, hr, hp, hh, hl, decide_eq_false hk, Bool.or_self, Bool.false_eq_true, if_false]

/-- A cycle runs from the state that the accesses made at its start leave. -/
theorem strokeIssue_busUntil (hr : d.residentOf cd = some c) (hk : d.dies[cd].cox.run ≠ .idle) (hp : d.preempting c = false) (hh : c.held = false)
    (hl : d.inLead c cd = false) : d.strokeIssue cd = (d.busUntil cd d.dies[cd].cox.now).strokeIssue cd := by
  have hb := busUntil_made d cd d.dies[cd].cox.now
  obtain ⟨_, _, hown⟩ := hb.own
  obtain ⟨_, _, hrest⟩ := hb.rest
  have hcox := congrArg Die.cox hown
  have hnow := congrArg Cox.now hcox
  have hrun := congrArg Cox.run hcox
  have hr' : (d.busUntil cd d.dies[cd].cox.now).residentOf cd = some c := by rw [hrest]; exact hr
  have hp' : (d.busUntil cd d.dies[cd].cox.now).preempting c = false := by rw [hrest]; exact hp
  have hleft : ∀ b ∈ (d.busUntil cd d.dies[cd].cox.now).dies[cd].cox.bus, (d.busUntil cd d.dies[cd].cox.now).dies[cd].cox.now < b.due := by
    rw [hb.bus, hnow]
    exact fun b hm => of_decide_eq_true (List.mem_filter.1 hm).2
  rw [strokeIssue_runs hr hk hp hh hl, strokeIssue_runs hr' (by rw [hrun]; exact hk) hp' hh (by rw [hb.inLead]; exact hl), busUntil_none hleft]

/-- The cycle of an issuing Cox. -/
theorem strokeIssue_issues {s : State} (h : CoxIssues s cd c) : s.dev.strokeIssue cd = s.dev.coxCycle c cd := by
  obtain ⟨⟨hr, hk, hp, hh, hl⟩, -, -, -, hb⟩ := h
  rw [strokeIssue_runs hr (by rw [hk]; decide) hp hh hl, busUntil_none hb]

/-- Nothing holds the stroke back: its registers are ready, and for its commands stores have landed, no s-register is marked against them and
their queues have a credit. -/
theorem cycleOf_issue {ready : List (Fin 32)} {ps : List Present} (hb : d.dies[cd].cox.bubble ≤ d.dies[cd].cox.now)
    (hw : d.dies[cd].cox.waiting = none) (hready : ∀ r ∈ ready, d.dies[cd].cox.ready[r] ≤ d.dies[cd].cox.now)
    (hland : ps ≠ [] → d.dies[cd].cox.landed ≤ d.dies[cd].cox.now)
    (hmark : ∀ p ∈ ps, ∀ r ∈ d.dies[cd].regsOf p.slot p.word, d.dies[cd].cox.marked p.slot r = false)
    (hroom : ∀ p ∈ ps, (d.dies[cd].queues[p.queue]).length < d.dies[cd].depth[p.queue]) :
    d.cycleOf c cd ready ps none = .issue := by
  have h3 : ((ready.any fun r => decide (d.dies[cd].cox.now < d.dies[cd].cox.ready[r]))
      || (!ps.isEmpty && decide (d.dies[cd].cox.now < d.dies[cd].cox.landed))) = false := by
    rw [Bool.or_eq_false_iff]
    constructor
    · simpa using hready
    · cases ps with
      | nil => rfl
      | cons p ps => simpa using hland (List.cons_ne_nil _ _)
  have h4 : (ps.flatMap fun p => (d.dies[cd].regsOf p.slot p.word).filter (d.dies[cd].cox.marked p.slot)) = [] := by
    simpa [List.flatMap_eq_nil_iff, List.filter_eq_nil_iff] using hmark
  have h5 : (ps.find? fun p => decide (d.dies[cd].depth[p.queue] ≤ (d.dies[cd].queues[p.queue]).length)) = none :=
    List.find?_eq_none.2 fun p hp => by simpa using hroom p hp
  unfold Device.cycleOf
  dsimp only
  rw [if_neg (by omega), h3, h4, h5, hw]
  rfl

/-- The die after a stroke has issued on it: the Cox that slot 0 has left, the commands placed, and the counters, the pc and the clock moved. -/
def afterStroke (x : Die) (k : Cox) (ps : List Present) : Die :=
  let z : Die := ps.foldl (fun (z : Die) p => z.place (x.slotWord x.cox.pc.toNat 7) p) { x with cox := k }
  { z with cox := z.cox.issued' x.cox.pc false x.codeStrokes }

/-- A stroke whose slot 0 neither branches nor reads an s-register issues whole. -/
theorem coxCycle_issues {word : Nat} {f : Scalar} {ready : List (Fin 32)} {g : Cox → Cox} (hrun : d.dies[cd].cox.run = .running)
    (hfell : d.dies[cd].cox.fell = false) (hwait : d.dies[cd].cox.waiting = none)
    (hword : (if headerValid (d.dies[cd].slotWord d.dies[cd].cox.pc.toNat 7) 0 then d.dies[cd].slotWord d.dies[cd].cox.pc.toNat 0 else 0) = word)
    (hgo : d.dies[cd].cox.guard (slot0Of word) = true) (hsc : scalarOf (slot0Op word) (slot0Of word) = some (f, ready))
    (hop : slot0Op word ∉ [0x28, 0x40, 0x41, 0x42]) (hf : f (slot0Of word) c cd d = (d.modCox cd g, false))
    (hcyc : d.cycleOf c cd ready (d.dies[cd].present (g d.dies[cd].cox) d.dies[cd].cox.pc.toNat) none = .issue) :
    d.coxCycle c cd = d.modDie cd fun _ =>
      afterStroke d.dies[cd] (g d.dies[cd].cox) (d.dies[cd].present (g d.dies[cd].cox) d.dies[cd].cox.pc.toNat) := by
  have hd : (d.modCox cd fun k => { k with waiting := none }) = d := modCox_unchanged (by rw [← hwait])
  simp only [List.mem_cons, List.not_mem_nil, or_false, not_or] at hop
  obtain ⟨h28, h40, h41, h42⟩ := hop
  have hm : (d.modCox cd g).dies[cd] = { d.dies[cd] with cox := g d.dies[cd].cox } := modCox_self d cd g
  unfold Device.coxCycle
  simp only [hrun, hfell, hword, hgo, hsc, hd, hf, hm, hcyc, beq_eq_false_iff_ne.2 h28, beq_eq_false_iff_ne.2 h40, beq_eq_false_iff_ne.2 h41,
    beq_eq_false_iff_ne.2 h42, Option.map_some, Option.getD_some, reduceCtorEq, Bool.not_true, Bool.false_eq_true, if_false, if_true,
    Bool.and_false, Bool.or_self, Bool.false_and]
  unfold Device.modCox
  rw [modDie_modDie, modDie_const]
  rfl

/-! ### Register writes (R120, R130) -/

/-- A later result to g0 overtakes no load. -/
theorem overtaken_zero (bus : List BusOp) : overtaken bus 0 = bus := by
  refine (List.map_congr_left fun b _ => ?_).trans (List.map_id bus)
  split
  · next h => rw [← h.2]; rfl
  · rfl

/-- A write leaves the other entries of a table. -/
theorem get_ite_set {α : Type} {n : Nat} {r i : Fin n} {p : Prop} {_ : Decidable p} (h : r ≠ i) {v : Vector α n} (x : α) :
    (if p then v else v.set i x)[r] = v[r] := by
  split
  · rfl
  · exact Vector.getElem_set_ne i.isLt r.isLt fun e => h (Fin.ext e.symm)

/-- A register write moves the register, its ready time and the loads in flight to it. -/
theorem wr_eq (k : Cox) (r : Fin 32) (v : W64) (lat : Nat) : k.wr r v lat = { k with
    g := if r = 0 then k.g else k.g.set r v
    ready := if r = 0 then k.ready else k.ready.set r (k.now + lat)
    bus := overtaken k.bus r } := by
  unfold Cox.wr
  by_cases h : r = 0
  · rw [if_pos h, if_pos h, if_pos h, h, overtaken_zero]
  · rw [if_neg h, if_neg h, if_neg h]
    rfl

/-! ### What an issued stroke counts (R138) -/

theorem satAdd64_toNat (a : BitVec 64) (o : Bool) (n : Nat) : (satAdd64 a o n).1.toNat = min (a.toNat + n) (2 ^ 64 - 1) := by
  unfold satAdd64
  split
  · next h => rw [BitVec.toNat_ofNat, Nat.mod_eq_of_lt h, min_eq_left (by omega)]
  · next h => rw [BitVec.toNat_allOnes, min_eq_right (by omega)]

theorem count_self (k : Cox) (i : Fin 14) (n : Nat) : (k.count i n).counters[i].toNat = min (k.counters[i].toNat + n) (2 ^ 64 - 1) := by
  rw [← satAdd64_toNat _ k.ovf[i]]
  exact congrArg BitVec.toNat (Vector.getElem_set_self i.isLt)

theorem count_other (k : Cox) {i j : Fin 14} (n : Nat) (h : j ≠ i) : (k.count i n).counters[j] = k.counters[j] :=
  Vector.getElem_set_ne i.isLt j.isLt fun e => h (Fin.ext e.symm)

/-- A Cox that runs on after its stroke. -/
theorem issued_running {k : Cox} (h : k.run = .running) (pc : BitVec 14) (n : Nat) :
    k.issued' pc false n = { (k.count 0 1).count 1 1 with
      now := k.now + 1, creditRun := 0, stallTold := false, pc := pc + 1, fell := decide (n ≤ pc.toNat + 1) } := by
  simp [Cox.issued', Cox.count, h]

/-! ### The words of a stroke (R133, R143, R144, R146) -/

/-- A field of a word as an index of as many entries as it can name. -/
theorem idx_bits (n hi lo : Nat) {v : Nat} {h : 0 < n} (hn : n = 2 ^ (hi + 1 - lo)) : idx n (bits v hi lo) h = idx n (v / 2 ^ lo) h := by
  apply Fin.ext
  rw [idx_val, idx_val, bits_eq, ← hn, Nat.mod_mod]

theorem bit_eq (v j : Nat) : (bits v j j == 1) = decide (v / 2 ^ j % 2 = 1) := by
  rw [bits_eq, Nat.add_sub_cancel_left, beq_eq_decide]; rfl

/-- The valid bits of a header. -/
theorem headerValid_eq {h j : Nat} (hj : j < 7) : headerValid h j = (h / 256 % 128).testBit j := by
  have h256 : (256 : Nat) = 2 ^ 8 := rfl
  have h128 : (128 : Nat) = 2 ^ 7 := rfl
  rw [h256, h128, Nat.testBit_mod_two_pow, Nat.testBit_div_two_pow, Nat.testBit_eq_decide_div_mod_eq, headerValid, bit_eq, Nat.add_comm j 8,
    decide_eq_true hj, Bool.true_and]

/-- The valid bits of a header that marks one slot. -/
theorem headerValid_one {h i j : Nat} (hh : h / 256 % 128 = 2 ^ i) (hj : j < 7) : headerValid h j = decide (i = j) := by
  rw [headerValid_eq hj, hh, Nat.testBit_two_pow]

/-- The valid bits of a header that marks none. -/
theorem headerValid_none {h j : Nat} (hh : h / 256 % 128 = 0) (hj : j < 7) : headerValid h j = false := by
  rw [headerValid_eq hj, hh, Nat.zero_testBit]

/-- The fields of a slot-0 word. -/
theorem slot0Of_eq (v : Nat) : slot0Of v = ⟨idx 8 (v / 2 ^ 8), decide (v / 2 ^ 11 % 2 = 1), idx 32 (v / 2 ^ 12), idx 32 (v / 2 ^ 17),
    idx 32 (v / 2 ^ 22), decide (v / 2 ^ 27 % 2 = 1), BitVec.ofNat 36 (bits v 63 28)⟩ := by
  rw [slot0Of, bit_eq, bit_eq, idx_bits 8 10 8 rfl, idx_bits 32 16 12 rfl, idx_bits 32 21 17 rfl, idx_bits 32 26 22 rfl]

theorem slot0Op_eq (v : Nat) : slot0Op v = v % 256 := by rw [slot0Op, bits_eq, Nat.pow_zero, Nat.div_one]; rfl

/-- A predicate that holds a guard bit's opposite. -/
theorem ne_bit {b : Bool} {n : Nat} (h : b = decide (n % 2 = 0)) : b ≠ decide (n % 2 = 1) := by
  subst h
  rw [ne_eq, decide_eq_decide]
  omega

/-- No slot of a stroke holds a command. -/
theorem present_none {x : Die} {k : Cox} {n : Nat} (h : ∀ j, 1 ≤ j → j < 7 → headerValid (x.slotWord n 7) j = false) : x.present k n = [] := by
  refine List.filterMap_eq_nil_iff.2 fun i hi => ?_
  have hi' := List.mem_range.1 hi
  dsimp only
  rw [h (i + 1) (by omega) (by omega), Bool.false_and, if_neg Bool.false_ne_true]

/-- One slot of a stroke holds a command, whose guard holds. -/
theorem present_one {x : Die} {k : Cox} {n j : Nat} (hj : 1 ≤ j) (hj' : j ≤ 6) (h : x.slotWord n 7 / 256 % 128 = 2 ^ j)
    (hg : (k.rdp (cwGp (x.slotWord n j)) != cwGn (x.slotWord n j)) = true) :
    x.present k n = [⟨j, x.slotWord n j, slotQueue j (x.slotWord n j)⟩] := by
  have hone : ∀ p : Present, ((List.range 6).filterMap fun i => if i + 1 = j then some p else none) = [p] := by
    intro p
    interval_cases j <;> rfl
  rw [← hone]
  refine List.filterMap_congr fun i hi => ?_
  have hi' := List.mem_range.1 hi
  dsimp only
  rw [headerValid_one h (by omega)]
  by_cases hij : i + 1 = j
  · rw [if_pos hij, hij, hg, if_pos (by simp)]
  · rw [if_neg hij, if_neg (by simp [Ne.symm hij])]
end

/-! ### Strokes of slot 0 alone -/

section
variable {s : State} {cd : Cd} {c : Context}

/-- The word that slot 0 of a stroke executes: that of an empty slot is a NOP. -/
def slotZero (s : State) (cd : Cd) : Nat :=
  if headerValid (strokeWord s cd s.dev.dies[cd].cox.pc.toNat 7) 0 then strokeWord s cd s.dev.dies[cd].cox.pc.toNat 0 else 0

/-- An empty slot 0 is a NOP. -/
theorem slotZero_empty (h : headerValid (strokeWord s cd s.dev.dies[cd].cox.pc.toNat 7) 0 = false) : slotZero s cd = 0 := by
  rw [slotZero, h, if_neg Bool.false_ne_true]

/-- The word of a slot 0 that is the only valid slot. -/
theorem slotZero_one (h : strokeWord s cd s.dev.dies[cd].cox.pc.toNat 7 / 256 % 128 = 2 ^ 0) :
    slotZero s cd = strokeWord s cd s.dev.dies[cd].cox.pc.toNat 0 := by
  rw [slotZero, headerValid_one h (by decide), if_pos (by decide)]

/-- A stroke without commands whose slot 0 is ready issues: the Cox is that of its slot 0, moved on. -/
theorem exec_strokeIssue_scalar {f : Scalar} {ready : List (Fin 32)} {g : Cox → Cox} (h : CoxIssues s cd c)
    (hslots : ∀ j, 1 ≤ j → j < 7 → headerValid (strokeWord s cd s.dev.dies[cd].cox.pc.toNat 7) j = false)
    (hgo : pRead s cd (slot0Of (slotZero s cd)).gp.val ≠ (slot0Of (slotZero s cd)).gn)
    (hsc : scalarOf (slot0Op (slotZero s cd)) (slot0Of (slotZero s cd)) = some (f, ready))
    (hop : slot0Op (slotZero s cd) ∉ [0x28, 0x40, 0x41, 0x42])
    (hf : f (slot0Of (slotZero s cd)) c cd s.dev = (s.dev.modCox cd g, false))
    (hready : ∀ r ∈ ready, s.dev.dies[cd].cox.ready[r] ≤ s.dev.dies[cd].cox.now) :
    exec (.strokeIssue cd) s = .next (withCox s cd
      ((g s.dev.dies[cd].cox).issued' s.dev.dies[cd].cox.pc false s.dev.dies[cd].codeStrokes)) := by
  have hs := strokeIssue_issues h
  obtain ⟨⟨-, hk, -, -, -⟩, hfell, hb, hw, -⟩ := h
  have hp : s.dev.dies[cd].present (g s.dev.dies[cd].cox) s.dev.dies[cd].cox.pc.toNat = [] := present_none hslots
  have hc := coxCycle_issues (c := c) hk hfell hw rfl ((guard_iff s cd _).2 hgo) hsc hop hf (by
    rw [hp]
    exact cycleOf_issue hb hw hready (fun h => absurd rfl h) (fun p hp => absurd hp List.not_mem_nil) (fun p hp => absurd hp List.not_mem_nil))
  rw [hp] at hc
  show Host.Outcome.next ({ s with dev := s.dev.strokeIssue cd } : State) = _
  rw [hs, hc]
  rfl

/-- What an LDD of a stroke makes of the Cox as it issues: the load in flight, for a register that is ready in the 20th cycle (R130). -/
def loadIssued (k : Cox) (r : Fin 32) (v : W64) (b : BusOp) : Cox :=
  { k.wr r v 20 with bus := (k.wr r v 20).bus ++ [b] }

/-- It is the Cox as it was, but for the register, its ready time and the loads in flight. -/
theorem loadIssued_eq (k : Cox) (r : Fin 32) (v : W64) (b : BusOp) : loadIssued k r v b = { k with
    g := if r = 0 then k.g else k.g.set r v
    ready := if r = 0 then k.ready else k.ready.set r (k.now + 20)
    bus := overtaken k.bus r ++ [b] } := by
  rw [loadIssued, wr_eq]

/-- An LDD of a stroke whose access passes its checks. -/
theorem opLddBus_ok {d : Device} {w : Slot0} {n : Nat} {dom : Fin 64} (hi : w.i = true)
    (hacc : d.coxAccess c cd (d.dies[cd].cox.addr w) n false = .ok dom) :
    opLddBus n w c cd d = (d.modCox cd fun k => loadIssued k w.d (BitVec.ofNat 64 (le (d.readAs dom (d.dies[cd].cox.addr w) n)))
      ⟨k.now + 19, BitVec.ofNat 52 (d.dies[cd].cox.addr w), n, dom, none, w.d, k.pc⟩, false) := by
  unfold opLddBus
  extract_lets k a
  have h : d.coxAccess c cd a n false = .ok dom := hacc
  rw [hi, if_neg (by decide), h]
  rfl

/-- A stroke of one LDD, whose access passes its checks, issues: the load is in flight. -/
theorem exec_strokeIssue_load {n : Nat} {dom : Fin 64} (h : CoxIssues s cd c)
    (hh : strokeWord s cd s.dev.dies[cd].cox.pc.toNat 7 / 256 % 128 = 2 ^ 0)
    (hsc : scalarOf (slot0Op (slotZero s cd)) (slot0Of (slotZero s cd)) = some (opLddBus n, [(slot0Of (slotZero s cd)).a]))
    (hop : slot0Op (slotZero s cd) ∉ [0x28, 0x40, 0x41, 0x42]) (hi : (slot0Of (slotZero s cd)).i = true)
    (hgo : pRead s cd (slot0Of (slotZero s cd)).gp.val ≠ (slot0Of (slotZero s cd)).gn)
    (hready : s.dev.dies[cd].cox.ready[(slot0Of (slotZero s cd)).a] ≤ s.dev.dies[cd].cox.now)
    (hacc : s.dev.coxAccess c cd (localAddress s cd (slot0Of (slotZero s cd))) n false = .ok dom) :
    ∃ v, exec (.strokeIssue cd) s = .next (withCox s cd ((loadIssued s.dev.dies[cd].cox (slot0Of (slotZero s cd)).d v
      ⟨s.dev.dies[cd].cox.now + 19, BitVec.ofNat 52 (localAddress s cd (slot0Of (slotZero s cd))), n, dom, none, (slot0Of (slotZero s cd)).d,
        s.dev.dies[cd].cox.pc⟩).issued' s.dev.dies[cd].cox.pc false s.dev.dies[cd].codeStrokes)) := by
  rw [← addr_eq] at hacc ⊢
  exact ⟨_, exec_strokeIssue_scalar h (fun j hj hj' => by rw [headerValid_one (i := 0) hh hj', decide_eq_false (by omega)]) hgo hsc hop
    (opLddBus_ok hi hacc) fun r hr => by rw [List.mem_singleton.1 hr]; exact hready⟩
end

/-! ### Engine commands of a stroke (R147 to R149, R153) -/

section
variable {s : State} {cd : Cd} {c : Context}

theorem le_lt : ∀ bs : List Byte, le bs < 256 ^ bs.length
  | [] => Nat.one_pos
  | b :: bs => by
    have hb : b.toNat < 256 := b.isLt
    have ih := le_lt bs
    rw [le, List.length_cons, Nat.pow_succ]
    omega

/-- A word of a stroke fits the word of a queue entry. -/
theorem strokeWord_toNat (s : State) (cd : Cd) (n j : Nat) : (BitVec.ofNat 64 (strokeWord s cd n j)).toNat = strokeWord s cd n j := by
  rw [BitVec.toNat_ofNat, Nat.mod_eq_of_lt]
  refine (le_lt _).trans_le ?_
  rw [List.length_map, List.length_range]
  decide

/-- The queue of a command word. -/
theorem slotQueue_eq {j v : Nat} (hj : 1 ≤ j) (hj' : j ≤ 6) : slotQueue j v =
    if j = 1 then idx 12 (v / 2 ^ 40 % 4) else if j = 2 then 4 else if j = 3 then idx 12 (5 + v / 2 ^ 40 % 4) else idx 12 (j + 5) := by
  have hu : cwUnit v = v / 2 ^ 40 % 4 := by rw [cwUnit, bits_eq]; rfl
  rw [slotQueue, hu]
  interval_cases j <;> rfl

/-- The s-registers of a command word, in the words of the claims. -/
theorem sNamed_eq (s : State) (cd : Cd) (j v : Nat) : sNamed s cd j v = s.dev.dies[cd].regsOf j v := by
  have hrec : cwRec v = v / 2 ^ 42 % 2 ^ 14 * 64 := by rw [cwRec, bits_eq]
  have hop : cwOp v = v % 64 := by rw [cwOp, bits_eq, Nat.pow_zero, Nat.div_one]; rfl
  have hswr : cwSwr v = decide (v / 2 ^ 16 % 2 = 1) := bit_eq v 16
  have hreg : cwSreg v = idx 16 (v / 2 ^ 12) := idx_bits 16 15 12 rfl
  have hmode : ∀ n, bits n 1 0 = n % 4 := fun n => by rw [bits_eq, Nat.pow_zero, Nat.div_one]; rfl
  have hbase : ∀ n, bits n 3 0 = n % 16 := fun n => by rw [bits_eq, Nat.pow_zero, Nat.div_one]; rfl
  have hbytes : ∀ a n, s.dev.dies[cd].planBytes a n = (List.range n).map fun i => localByte s cd (a + i) := fun _ _ => rfl
  unfold sNamed Die.regsOf
  simp only [hrec, hop, hswr, hreg, hmode, hbase, hbytes, decide_eq_true_eq, ite_and]

/-- The marks of a command on its s-registers (R132). -/
theorem marks_eq (n : BitVec 3) (no : Nat) : ∀ (rs : List (Fin 16)) (k : Cox), ∃ u w,
    rs.foldl (fun (k : Cox) (r : Fin 16) => { k with pend := k.pend.set r n, pendNo := k.pendNo.set r no }) k = { k with pend := u, pendNo := w }
      ∧ (∀ r ∈ rs, u[r] = n ∧ w[r] = no) ∧ ∀ r, r ∉ rs → u[r] = k.pend[r] ∧ w[r] = k.pendNo[r]
  | [], k => ⟨_, _, rfl, fun r hr => absurd hr List.not_mem_nil, fun r _ => ⟨rfl, rfl⟩⟩
  | r :: rs, k => by
    obtain ⟨u, w, hf, hin, hout⟩ := marks_eq n no rs { k with pend := k.pend.set r n, pendNo := k.pendNo.set r no }
    refine ⟨u, w, hf, fun q hq => ?_, fun q hq => ?_⟩
    · by_cases hm : q ∈ rs
      · exact hin q hm
      · obtain rfl : q = r := (List.mem_cons.1 hq).resolve_right hm
        rw [(hout q hm).1, (hout q hm).2]
        exact ⟨Vector.getElem_set_self _, Vector.getElem_set_self _⟩
    · have hne : r.val ≠ q.val := fun e => hq (List.mem_cons.2 (.inl (Fin.ext e.symm)))
      obtain ⟨hu, hw⟩ := hout q fun h => hq (List.mem_cons_of_mem _ h)
      rw [hu, hw]
      exact ⟨Vector.getElem_set_ne r.isLt q.isLt hne, Vector.getElem_set_ne r.isLt q.isLt hne⟩

/-- A command placed: it enters the back of its queue and marks its s-registers. -/
theorem place_eq (x : Die) (h : Nat) (p : Present) : ∃ u w, x.place h p = { x with
      queues := x.queues.set p.queue (x.queues[p.queue] ++ [x.cox.entry h p x.cox.issued])
      cox := { x.cox with pend := u, pendNo := w, issued := x.cox.issued + 1 } }
    ∧ (∀ r ∈ x.regsOf p.slot p.word, u[r] = BitVec.ofNat 3 p.slot ∧ w[r] = x.cox.issued)
    ∧ ∀ r, r ∉ x.regsOf p.slot p.word → u[r] = x.cox.pend[r] ∧ w[r] = x.cox.pendNo[r] := by
  obtain ⟨u, w, hf, hin, hout⟩ := marks_eq (BitVec.ofNat 3 p.slot) x.cox.issued (x.regsOf p.slot p.word) x.cox
  refine ⟨u, w, ?_, hin, hout⟩
  unfold Die.place
  dsimp only
  rw [hf]
  rfl

/-- An s-register that is unmarked, or marked by the queue of the same slot, holds no command back (R129, R149). -/
theorem marked_false {k : Cox} {j : Nat} {r : Fin 16} (h : k.pend[r] = 0 ∨ (k.pend[r].toNat = j ∧ j ≠ 1 ∧ j ≠ 3)) : k.marked j r = false := by
  unfold Cox.marked
  rcases h with h | ⟨h, h1, h3⟩
  · rw [h]; rfl
  · rw [h, decide_eq_false (not_not.2 rfl), decide_eq_false h1, decide_eq_false h3]
    exact Bool.and_false _

/-- The command that the stroke at the pc holds in a slot. -/
def commandAt (s : State) (cd : Cd) (j : Nat) : Present :=
  ⟨j, strokeWord s cd s.dev.dies[cd].cox.pc.toNat j, slotQueue j (strokeWord s cd s.dev.dies[cd].cox.pc.toNat j)⟩

/-- A stroke of one command and an empty slot 0 issues: the command is placed, and the Cox moves on. -/
theorem strokeIssue_command {j : Nat} (h : CoxIssues s cd c) (hj : 1 ≤ j) (hj' : j ≤ 6)
    (hh : strokeWord s cd s.dev.dies[cd].cox.pc.toNat 7 / 256 % 128 = 2 ^ j)
    (hg : pRead s cd ((commandAt s cd j).word / 2 ^ 6) = decide ((commandAt s cd j).word / 2 ^ 9 % 2 = 0))
    (hland : s.dev.dies[cd].cox.landed ≤ s.dev.dies[cd].cox.now)
    (hmark : ∀ r ∈ s.dev.dies[cd].regsOf j (commandAt s cd j).word, s.dev.dies[cd].cox.marked j r = false)
    (hroom : (s.dev.dies[cd].queues[(commandAt s cd j).queue]).length < s.dev.dies[cd].depth[(commandAt s cd j).queue]) :
    s.dev.strokeIssue cd = s.dev.modDie cd fun _ => afterStroke s.dev.dies[cd] s.dev.dies[cd].cox [commandAt s cd j] := by
  have hs := strokeIssue_issues h
  obtain ⟨⟨-, hk, -, -, -⟩, hfell, hb, hw, -⟩ := h
  have hgp : (s.dev.dies[cd].cox.rdp (cwGp (commandAt s cd j).word) != cwGn (commandAt s cd j).word) = true := by
    rw [bne_iff_ne, rdp_eq, cwGn, bit_eq, cwGp, idx_bits 8 8 6 rfl]
    show pRead s cd ((commandAt s cd j).word / 2 ^ 6 % 8) ≠ _
    rw [pRead_mod]
    exact ne_bit hg
  have hp : s.dev.dies[cd].present s.dev.dies[cd].cox s.dev.dies[cd].cox.pc.toNat = [commandAt s cd j] := present_one hj hj' hh hgp
  have hword : slotZero s cd = 0 := slotZero_empty (by rw [headerValid_one hh (by decide), decide_eq_false (by omega)])
  have hc := coxCycle_issues (c := c) (f := onCox opNopS) (ready := []) (g := opNopS (slot0Of 0)) hk hfell hw hword rfl rfl (by decide) rfl (by
    rw [opNopS, hp]
    exact cycleOf_issue hb hw (fun r hr => absurd hr List.not_mem_nil) (fun _ => hland)
      (fun p h => by rw [List.mem_singleton.1 h]; exact hmark) (fun p h => by rw [List.mem_singleton.1 h]; exact hroom))
  rw [opNopS, hp] at hc
  rw [hs, hc]
end

end Sys2Proof.Laws
end
section
/-! The issue of strokes (O7). -/

namespace Sys2Proof.Safety

set_option Elab.async false

open Sys2Proof Sys2Proof.Machine Sys2Proof.Laws

theorem emptyStrokeIssuesAsNop : Sys2Proof.Claims.EmptyStrokeIssuesAsNop := by
  intro s cd c h k hh
  have hz : slotZero s cd = 0 := slotZero_empty (headerValid_none hh (by decide))
  have hgo : pRead s cd (slot0Of (slotZero s cd)).gp.val ≠ (slot0Of (slotZero s cd)).gn := by rw [hz]; exact Bool.noConfusion
  have hx := exec_strokeIssue_scalar (f := onCox opNopS) (ready := []) (g := opNopS (slot0Of (slotZero s cd))) h
    (fun j _ hj => headerValid_none hh hj) hgo (by rw [hz]; rfl) (by rw [hz]; decide) rfl (fun r hr => absurd hr List.not_mem_nil)
  obtain ⟨⟨-, hk, -, -, -⟩, -, -, -, -⟩ := h
  refine ⟨_, hx, ?_⟩
  rw [opNopS, issued_running hk]
  refine ⟨rfl, rfl, rfl, rfl, rfl, rfl, hk, ?_, ?_, fun j hj => ?_, rfl⟩
  · show (((k.count 0 1).count 1 1).counters[(0 : Fin 14)]).toNat = _
    rw [count_other _ _ (by decide), count_self]
    rfl
  · show (((k.count 0 1).count 1 1).counters[(1 : Fin 14)]).toNat = _
    rw [count_self, count_other _ _ (by decide)]
    rfl
  · show ((k.count 0 1).count 1 1).counters[j] = _
    rw [count_other _ _ (by omega), count_other _ _ (by omega)]

theorem strokeIssueExecutesSlotZero : Sys2Proof.Claims.StrokeIssueExecutesSlotZero := by
  intro s cd c hi k h v a b d hh hop hnoi hgp ha hb
  have hz : slotZero s cd = v := slotZero_one hh
  have hw := slot0Of_eq v
  have hni : (slot0Of v).i = false := by rw [hw, hnoi]; rfl
  have hgo : pRead s cd (slot0Of v).gp.val ≠ (slot0Of v).gn := by
    rw [hw]
    show pRead s cd (v / 2 ^ 8 % 8) ≠ _
    rw [pRead_mod]
    exact ne_bit hgp
  have hsc : scalarOf (slot0Op v) (slot0Of v) = some (onCox opAdd, [a, b]) := by rw [slot0Op_eq, hop, scalarOf, hni, hw]; rfl
  have hx := exec_strokeIssue_scalar (f := onCox opAdd) (ready := [a, b]) (g := opAdd (slot0Of v)) hi
    (fun j hj hj' => by rw [headerValid_one (i := 0) hh hj', decide_eq_false (by omega)]) (hz ▸ hgo) (hz ▸ hsc)
    (by rw [hz, slot0Op_eq, hop]; decide) (by rw [hz]; rfl) (by simpa using ⟨ha, hb⟩)
  have hadd : opAdd (slot0Of v) k = k.wr d (gRead s cd a + gRead s cd b) 1 := by rw [opAdd, Cox.y, hni, hw]; rfl
  obtain ⟨⟨-, hk, -, -, -⟩, -, -, -, -⟩ := hi
  refine ⟨_, hx, ?_⟩
  rw [hadd, wr_eq, issued_running]
  · exact ⟨rfl, fun hd => if_neg hd, fun hd => if_pos hd, rfl, rfl, rfl⟩
  · exact hk

theorem strokeIssuePlacesTheEngineCommand : Sys2Proof.Claims.StrokeIssuePlacesTheEngineCommand := by
  intro s cd c j hi hj hj' x k v q hh hpend hg hland hroom
  have hq : (commandAt s cd j).queue = q := slotQueue_eq hj hj'
  have hroomAt : ∀ p : QueueId, p = q → x.queues[p].length < x.depth[p] := fun p hp => by subst hp; exact hroom
  have hsetAt : ∀ (p : QueueId) (l : List QEntry), p = q → x.queues.set p (x.queues[p] ++ l) = x.queues.set q (x.queues[q] ++ l) :=
    fun p l hp => by subst hp; rfl
  have hregs : sNamed s cd j v = x.regsOf j v := sNamed_eq s cd j v
  have hx := strokeIssue_command hi hj hj' hh hg hland (fun r hr => marked_false (hpend r (hregs ▸ hr))) (hroomAt _ hq)
  obtain ⟨⟨-, hk, -, -, -⟩, -, -, -, -⟩ := hi
  obtain ⟨u, w, hplace, hin, hout⟩ := place_eq x (x.slotWord k.pc.toNat 7) (commandAt s cd j)
  have hdie : (s.dev.strokeIssue cd).dies[cd] = { x with
      queues := x.queues.set (commandAt s cd j).queue (x.queues[(commandAt s cd j).queue]
        ++ [k.entry (x.slotWord k.pc.toNat 7) (commandAt s cd j) k.issued])
      cox := ({ k with pend := u, pendNo := w, issued := k.issued + 1 } : Cox).issued' k.pc false x.codeStrokes } := by
    rw [hx, modDie_self, afterStroke, List.foldl_cons, List.foldl_nil, hplace]
  have hcox := congrArg Die.cox hdie
  rw [issued_running] at hcox
  · have hpendAt : (s.dev.strokeIssue cd).dies[cd].cox.pend = u := (congrArg Cox.pend hcox :)
    have hpendNo : (s.dev.strokeIssue cd).dies[cd].cox.pendNo = w := (congrArg Cox.pendNo hcox :)
    refine ⟨{ s with dev := s.dev.strokeIssue cd }, k.entry (x.slotWord k.pc.toNat 7) (commandAt s cd j) k.issued, rfl,
      (congrArg Die.queues hdie).trans (hsetAt _ _ hq), strokeWord_toNat .., ?_, ?_, rfl, rfl, fun r hr => ?_, fun r hr => ?_,
      (congrArg Cox.s hcox :), (congrArg Cox.g hcox :), (congrArg Cox.pc hcox :), (congrArg Device.mem hx :), (congrArg Device.ctxs hx :),
      fun o ho => ?_⟩
    · exact congrArg k.rd (idx_bits 32 21 17 rfl)
    · exact congrArg k.rd (idx_bits 32 26 22 rfl)
    · obtain ⟨hu, hw⟩ := hin r (hregs ▸ hr)
      have hslot : (BitVec.ofNat 3 j).toNat = j := by rw [BitVec.toNat_ofNat, Nat.mod_eq_of_lt (by omega)]
      show (s.dev.strokeIssue cd).dies[cd].cox.pend[r].toNat = j ∧ (s.dev.strokeIssue cd).dies[cd].cox.pendNo[r] = k.issued
      rw [hpendAt, hpendNo]
      exact ⟨(congrArg BitVec.toNat hu).trans hslot, hw⟩
    · show (s.dev.strokeIssue cd).dies[cd].cox.pend[r] = _ ∧ (s.dev.strokeIssue cd).dies[cd].cox.pendNo[r] = _
      rw [hpendAt, hpendNo]
      exact hout r (hregs ▸ hr)
    · show (s.dev.strokeIssue cd).dies[o] = _
      rw [hx, modDie_other _ _ (Ne.symm ho)]
  · exact hk

theorem dpaAccessesReachSramAfterTheirIssue : Sys2Proof.Claims.DpaAccessesReachSramAfterTheirIssue := by
  refine ⟨?_, ?_, ?_⟩
  · intro s cd c i hi k w a hh hop hwi hgo ha hn hl hh' hall
    have hz : slotZero s cd = strokeWord s cd k.pc.toNat 0 := slotZero_one hh
    obtain ⟨v, hx⟩ := exec_strokeIssue_load (n := 8) hi hh (by rw [hz, slot0Op_eq, hop]; rfl) (by rw [hz, slot0Op_eq, hop]; decide)
      (by rw [hz]; exact hwi) (by rw [hz]; exact hgo) (by simp only [hz]; exact ha) (by rw [hz]; exact coxAccess_ok hl hh' hn hall)
    obtain ⟨⟨-, hk, -, -, -⟩, -, -, -, -⟩ := hi
    refine ⟨_, hx, ?_⟩
    rw [hz, loadIssued_eq, issued_running]
    · refine ⟨rfl, rfl, rfl, fun hd => ?_, fun r hr => ⟨get_ite_set hr _, get_ite_set hr _⟩⟩
      show (if w.d = 0 then k.ready else k.ready.set w.d (k.now + 20))[w.d] = _
      rw [if_neg hd]
      exact Vector.getElem_set_self _
    · exact hk
  · intro s cd c hr hk hp hh
    exact ⟨fun hl => congrArg (fun d => Host.Outcome.next ({ s with dev := d } : State)) (strokeIssue_inLead hr hk hp hh hl),
      fun hl => congrArg (fun d => Host.Outcome.next ({ s with dev := d } : State)) (strokeIssue_busUntil hr hk hp hh hl)⟩
  · intro d cd b t hm hb a k e hl _
    have hs : sramBase ≤ a := sramBase_le cd hl
    refine ⟨fun hlt => ?_, fun hdue hst hdata => busUntil_load hb hdue hs hst hdata, fun hdue bs hst _ => ?_⟩
    · exact busUntil_none (by rw [hb]; exact fun x hx => by rw [List.mem_singleton.1 hx]; exact hlt)
    · obtain ⟨hbytes, -⟩ := hm
      obtain ⟨hg, hmem⟩ := busUntil_store hb hdue hs hst
      have he : e.mem.bytes = memStore 0 d.mem.bytes a bs := hmem
      rw [he]
      exact ⟨hg, fun j hj => (memGet_memStore hbytes).trans (by rw [if_pos ⟨by omega, by omega⟩, Nat.add_sub_cancel_left]),
        fun x hx => memStore_frame hbytes hx⟩

/-- Settles O7, claim by claim: nothing holds the stroke back (`cycleOf_issue`), so it issues whole (`coxCycle_issues`): slot 0 by its row, a command
into its queue with its marks (`place_eq`), and an access in flight is made in its own cycle (`busUntil_due`). -/
theorem strokesIssueTheirSlots : Obligations.StrokesIssueTheirSlots :=
  ⟨emptyStrokeIssuesAsNop, strokeIssueExecutesSlotZero, strokeIssuePlacesTheEngineCommand, dpaAccessesReachSramAfterTheirIssue⟩

end Sys2Proof.Safety
end

section
/-! SUPPORT. The links that a start takes (R154), and the die that a SYNC leaves (R150). -/

namespace Sys2Proof.Laws

set_option Elab.async false

open Sys2Proof Sys2Proof.Machine Sys2Proof.Safety

section
variable {d : Device} {x : Die} {cd : Cd} {q : QueueId} {e : QEntry}

/-- A start changes the links of its die alone. -/
theorem linkStart_eq (x : Die) (e : QEntry) : x.linkStart e = { x with links := (x.linkStart e).links } := by
  unfold Die.linkStart Die.modLink
  split <;> split <;> rfl

/-- A link after a link action that a bit of the command word asks for. -/
theorem modLink_if_get (b : Bool) (x : Die) (n l : Nat) (f : Link → Link) :
    (if b then x.modLink n f else x).links[l]? = (x.links[l]?).map fun k => if b = true ∧ n = l then f k else k := by
  cases b with
  | false => simp
  | true => rw [if_pos rfl, modLink_get]; simp

/-- A link after a start: a credit less where the command gives, a token less where it takes (R154). -/
theorem linkStart_get (x : Die) (e : QEntry) (l : Nat) : (x.linkStart e).links[l]? = (x.links[l]?).map fun k =>
    { k with credits := if cwGe e.w = true ∧ cwGl e.w = l then k.credits - 1 else k.credits
             tokens := if cwTe e.w = true ∧ cwTl e.w = l then k.tokens - 1 else k.tokens } := by
  unfold Die.linkStart
  dsimp only
  rw [modLink_if_get, modLink_if_get, Option.map_map]
  refine Option.map_congr fun k _ => ?_
  dsimp only [Function.comp_apply]
  split <;> split <;> rfl

/-- No command starts in a queue whose head lacks a credit or a token and in which none stands at a stop point (R154, R156). -/
theorem startable_linkWait {op : Nat} (hhead : headOf d.dies[cd].queues[q] = some e) (hcut : cutOf d.dies[cd].queues[q] = none)
    (hw : d.dies[cd].linkWait e ≠ none) : d.startable cd q op = none := by
  unfold Device.startable
  split
  · rfl
  · dsimp only
    split
    · rfl
    · rw [hcut, hhead]
      exact if_neg fun ⟨_, hnone, _⟩ => hw (Option.isNone_iff_eq_none.1 hnone)

/-- What a SYNC makes of its die: its links pass from the start over the release point to the completion point, and the entry goes. -/
theorem syncDie_eq (x : Die) (q : QueueId) (h : e.svals = []) : ((x.linkStart e).linkRelease e).complete q e = { x with
    links := (((x.linkStart e).linkRelease e).linkComplete e).links
    queues := upd x.queues q fun l => l.filter fun b => b.no ≠ e.no } := by
  rw [complete_eq, linkRelease_eq, linkStart_eq, h]; rfl
end

end Sys2Proof.Laws
end

section
/-! SYNC (O26). -/

namespace Sys2Proof.Safety

set_option Elab.async false

open Sys2Proof Sys2Proof.Machine Sys2Proof.Laws

/-- Settles O26: the die that a SYNC leaves is read off `syncDie_eq`; one whose link lacks a credit or a token does not start. -/
theorem syncTakesAndGivesInTheCycleOfItsStart : Obligations.SyncTakesAndGivesInTheCycleOfItsStart := by
  unfold Obligations.SyncTakesAndGivesInTheCycleOfItsStart
  intro s cd q c e x
  have hexec : exec (.sync cd q) s = .next { s with dev := s.dev.sync cd q } := rfl
  refine ⟨fun hstart hfresh => ?_, fun hhead _ hw hcut => ?_⟩
  · obtain ⟨-, -, hsvals⟩ := hfresh
    have hsync : s.dev.sync cd q = s.dev.modDie cd fun x => ((x.linkStart e).linkRelease e).complete q e := by
      unfold Device.sync; rw [hstart]
    have hdie := (modDie_self s.dev cd fun x => ((x.linkStart e).linkRelease e).complete q e).trans (syncDie_eq x q hsvals)
    obtain ⟨hmem, hctxs, hothers, hqueues, hloc, hmas⟩ :=
      pointFrame_modDie (s := s) (q := q) (f := fun x => ((x.linkStart e).linkRelease e).complete q e) rfl ⟨_, _, _, syncDie_eq _ q hsvals⟩
    rw [hexec, hsync]
    refine ⟨_, rfl, hmem, hctxs, hothers, hqueues, hloc, hmas, ?_, ?_, fun l => ?_⟩
    · rw [hdie]; exact upd_self ..
    · rw [hdie]
    · rw [hdie]
      dsimp only
      rw [linkComplete_get, linkRelease_get, linkStart_get]
      simp only [Option.map_map]
      refine Option.map_congr fun k _ => ?_
      simp only [Function.comp_apply]
      split <;> split <;> rfl
  · rw [hexec, Device.sync, startable_linkWait hhead hcut hw]

end Sys2Proof.Safety
end

section
/-! SUPPORT. Lines of the DPA space that a MOVE reads and writes (R174, R187, R218, R490): a run of lines stored one by one, and what the
lines stored so far leave of a line still to be read. -/

namespace Sys2Proof.Laws

set_option Elab.async false

open Sys2Proof Sys2Proof.Machine Sys2Proof.Safety

/-! ### Runs of lines -/

section
variable {dst k j a : Nat} {m m' : Memory} {bs : Nat → List Byte}

/-- A line of a run lies on a line boundary. -/
theorem line_aligned (h : dst % 64 = 0) : wrap52 (dst + 64 * k) % 64 = 0 := by
  rw [wrap52, Nat.mod_mod_of_dvd _ (by decide), Nat.add_mul_mod_self_left, h]

/-- The lines of a run share no byte. -/
theorem lines_apart (hj : j < k) (hk : k < 2 ^ 32) :
    wrap52 (dst + 64 * j) + 64 ≤ wrap52 (dst + 64 * k) ∨ wrap52 (dst + 64 * k) + 64 ≤ wrap52 (dst + 64 * j) := by
  unfold wrap52; omega

theorem linesStored_zero : LinesStored m m dst 0 bs := ⟨fun _ h => absurd h (Nat.not_lt_zero _), fun _ _ => rfl⟩

/-- The next line of a run stored. -/
theorem linesStored_succ (h : LinesStored m m' dst k bs) (hw : m'.wf 0 = true) (hk : k < 2 ^ 32) (hl : (bs k).length = 64) :
    LinesStored m (memStore 0 m' (wrap52 (dst + 64 * k)) (bs k)) dst (k + 1) bs := by
  obtain ⟨hin, hout⟩ := h
  refine ⟨fun i hi j hj => ?_, fun x hx => ?_⟩
  · rcases Nat.lt_succ_iff_lt_or_eq.1 hi with hlt | rfl
    · have := lines_apart (dst := dst) hlt hk
      rw [memStore_frame hw (by omega), hin i hlt j hj]
    · rw [memGet_memStore hw, if_pos ⟨by omega, by omega⟩, Nat.add_sub_cancel_left]
  · rw [memStore_frame hw (by rw [hl]; exact hx k (Nat.lt_succ_self k)), hout x fun i hi => hx i (Nat.lt_succ_of_lt hi)]
end

/-! ### A line written (R172, R174, R187, R490) -/

/-- The memories after one line has been written: no line takes an error by it, and every other line keeps its key. -/
structure LineWritten (m m' : Mem) (a : Nat) (bs : List Byte) : Prop where
  bytes : m'.bytes = memStore 0 m.bytes a bs
  errLines : m'.errLines = m.errLines
  ceLines : m'.ceLines ⊆ m.ceLines
  ueLines : m'.ueLines ⊆ m.ueLines
  ueWords : m'.ueWords ⊆ m.ueWords
  key : ∀ x, x / 64 ≠ a / 64 → m'.keyOf x = m.keyOf x

section
variable {d : Device} {c : Context} {cd : Cd} {r : Requester} {dom : Fin 64} {a : Nat} {bs : List Byte}

/-- The key noted for one line leaves those noted for the others. -/
theorem find_setKey {α : Type} (l : List (Nat × α)) {k n : Nat} (v : α) (h : n ≠ k) :
    (setKey l k v).find? (fun p => p.1 == n) = l.find? fun p => p.1 == n := by
  rw [setKey, List.find?_cons_of_neg (by simpa using Ne.symm h), List.find?_filter]
  refine congrArg (fun p => l.find? p) (funext fun p => ?_)
  by_cases hp : p.1 = n <;> simp [hp, h]

theorem writeAs_line (ha : a % 64 = 0) (hl : bs.length = 64) :
    ∃ m', d.writeAs dom a bs = { d with mem := m' } ∧ LineWritten d.mem m' a bs := by
  unfold Device.writeAs
  dsimp only
  split
  · refine ⟨_, rfl, ?_, rfl, List.filter_subset_self _, List.filter_subset_self _, fun _ h => h, fun x hx => ?_⟩
    · rw [if_neg (by omega), Nat.div_mul_cancel (Nat.dvd_of_mod_eq_zero ha)]
    · simp only [Mem.keyOf, find_setKey _ _ hx]
  · exact ⟨_, rfl, rfl, rfl, fun _ h => h, fun _ h => h, List.filter_subset_self _, fun _ _ => rfl⟩

theorem companionPut_line {tag : BitVec 16} (hup : d.yalkenUp = true) (herr : d.mem.errLines.contains (a / 64) = false) :
    ∃ m', d.companionPut tag [(a, bs)] = { d with mem := m' } ∧ LineWritten d.mem m' a bs := by
  have hgood : d.goodWrites [(a, bs)] = [(a, bs)] := List.filter_eq_self.2 fun w hw => by
    rw [List.mem_singleton.1 hw, herr]; rfl
  refine ⟨{ d.mem with bytes := memStore 0 d.mem.bytes a bs }, ?_, rfl, rfl, fun _ h => h, fun _ h => h, fun _ h => h, fun _ _ => rfl⟩
  rw [Device.companionPut, if_pos hup, hgood]
  rfl

/-- A whole line whose checks pass is written. -/
theorem writeLine_line {i : Fin 64} (hi : d.allowed c cd r true a = .ok i) (hk : d.keyCheck a (pDomain c.pantry[i]) = none)
    (herr : d.mem.errLines.contains (a / 64) = false) (hup : d.yalkenUp = true) (ha : a % 64 = 0) (hl : bs.length = 64) :
    ∃ m', d.writeLine c cd r a bs = .ok { d with mem := m' } ∧ LineWritten d.mem m' a bs := by
  unfold Device.writeLine
  rw [hi]
  dsimp only
  rw [hk]
  dsimp only
  split
  · obtain ⟨m', hput, hm⟩ := companionPut_line (tag := c.tag) (bs := bs) hup herr
    exact ⟨m', by rw [if_neg (by rw [herr]; decide), hput], hm⟩
  · obtain ⟨m', hput, hm⟩ := writeAs_line (d := d) (dom := pDomain c.pantry[i]) ha hl
    exact ⟨m', by rw [hput], hm⟩
end

/-! ### A run of lines written -/

/-- The memories after the lines `bs 0` to `bs (k - 1)` of a run from `dst` on have been written. -/
structure MemAfter (m m' : Mem) (dst k : Nat) (bs : Nat → List Byte) : Prop where
  stored : LinesStored m.bytes m'.bytes dst k bs
  wf : m'.bytes.wf 0 = true
  errLines : m'.errLines = m.errLines
  ceLines : m'.ceLines ⊆ m.ceLines
  ueLines : m'.ueLines ⊆ m.ueLines
  ueWords : m'.ueWords ⊆ m.ueWords
  key : ∀ x, (∀ j < k, x / 64 ≠ wrap52 (dst + 64 * j) / 64) → m'.keyOf x = m.keyOf x

section
variable {m m' m'' : Mem} {dst k : Nat} {bs : Nat → List Byte}

theorem memAfter_zero (h : m.bytes.wf 0 = true) : MemAfter m m dst 0 bs :=
  ⟨linesStored_zero, h, rfl, fun _ h => h, fun _ h => h, fun _ h => h, fun _ _ => rfl⟩

theorem memAfter_succ (h : MemAfter m m' dst k bs) (hw : LineWritten m' m'' (wrap52 (dst + 64 * k)) (bs k)) (hk : k < 2 ^ 32)
    (hl : (bs k).length = 64) : MemAfter m m'' dst (k + 1) bs where
  stored := hw.bytes ▸ linesStored_succ h.stored h.wf hk hl
  wf := hw.bytes ▸ memStore_wf h.wf
  errLines := hw.errLines.trans h.errLines
  ceLines := List.Subset.trans hw.ceLines h.ceLines
  ueLines := List.Subset.trans hw.ueLines h.ueLines
  ueWords := List.Subset.trans hw.ueWords h.ueWords
  key x hx := (hw.key x (hx k (Nat.lt_succ_self k))).trans (h.key x fun j hj => hx j (Nat.lt_succ_of_lt hj))
end

/-! ### A line still to be read (R176, R187, R490) -/

section
variable {d d' : Device} {c : Context} {cd : Cd} {r : Requester} {a : Nat}

theorem place_congr (h : d'.code = d.code) : d'.place a = d.place a := by
  unfold Device.place; rw [h]

/-- The map and the Pantry decide by the ordering code and the context alone. -/
theorem allowed_congr {write : Bool} (h : d'.code = d.code) : d'.allowed c cd r write a = d.allowed c cd r write a := by
  unfold Device.allowed; rw [place_congr h]

theorem keyCheck_congr {dom : Fin 64} (h : d'.code = d.code) (hb : d'.boat = d.boat) : d'.keyCheck a dom = d.keyCheck a dom := by
  unfold Device.keyCheck; rw [place_congr h, hb]

theorem windowOf_congr (hb : d'.boat = d.boat) : d'.windowOf a = d.windowOf a := by
  unfold Device.windowOf; rw [hb]

/-- A line outside package windows is read when its checks pass and it holds data. -/
theorem readLine_ok_iff {pkg : Option (Fin 64)} {bs : List Byte} (hwin : d.windowOf a = none) : d.readLine c cd r pkg a = .ok bs ↔
    ∃ i, d.allowed c cd r false a = .ok i ∧ d.keyCheck a (pDomain c.pantry[i]) = none ∧ d.dataCode a 64 = none
      ∧ bs = d.readAs (pDomain c.pantry[i]) a 64 := by
  unfold Device.readLine
  cases hi : d.allowed c cd r false a with
  | error e => simp
  | ok i =>
    cases hk : d.keyCheck a (pDomain c.pantry[i]) with
    | some e => simp [-Fin.getElem_fin, hwin, hk]
    | none =>
      cases hdata : d.dataCode a 64 with
      | some e => simp [-Fin.getElem_fin, hwin, hk, Device.lineData, hdata]
      | none => simp [-Fin.getElem_fin, hwin, hk, Device.lineData, hdata, eq_comm]

@[simp] theorem readAs_length {dom : Fin 64} {n : Nat} : (d.readAs dom a n).length = n := by simp [Device.readAs]

variable {dst k : Nat} {ls : Nat → List Byte}

/-- Lines that are written put no error into another. -/
theorem dataCode_memAfter (hc : d'.code = d.code) (hm : MemAfter d.mem d'.mem dst k ls) (h : d.dataCode a 64 = none) :
    d'.dataCode a 64 = none := by
  unfold Device.dataCode at h ⊢
  rw [place_congr hc]
  split
  · next e =>
    rw [e] at h
    simp only [ite_eq_right_iff, reduceCtorEq, imp_false, List.contains_iff_mem] at h ⊢
    exact fun hin => h (hm.ueLines hin)
  · next e =>
    rw [e] at h
    simp only [ite_eq_right_iff, reduceCtorEq, imp_false, List.any_eq_true] at h ⊢
    exact fun ⟨w, hw, hcond⟩ => h ⟨w, hm.ueWords hw, hcond⟩
  · next e =>
    rw [e] at h
    rwa [hm.errLines]
  · rfl

/-- A byte of a line outside a run of lines reads as before the run. -/
theorem byteAt_memAfter {dom : Fin 64} {x : Nat} (hc : d'.code = d.code) (hb : d'.boat = d.boat) (hm : MemAfter d.mem d'.mem dst k ls)
    (ha : a % 64 = 0) (hx : a ≤ x ∧ x < a + 64)
    (hout : ∀ j < k, wrap52 (dst + 64 * j) + 64 ≤ a ∨ a + 64 ≤ wrap52 (dst + 64 * j)) : d'.byteAt dom x = d.byteAt dom x := by
  have hget : ∀ y, a ≤ y ∧ y < a + 64 → memGet 0 d'.mem.bytes y = memGet 0 d.mem.bytes y := fun y hy =>
    hm.stored.2 y fun j hj => by have := hout j hj; omega
  have hkey : d'.mem.keyOf x = d.mem.keyOf x := hm.key x fun j hj => by have := hout j hj; omega
  have hblock : memBytes 0 d'.mem.bytes (x / 16 * 16) 16 = memBytes 0 d.mem.bytes (x / 16 * 16) 16 :=
    List.map_congr_left fun i hi => hget _ (by have := List.mem_range.1 hi; omega)
  unfold Device.byteAt
  rw [place_congr hc]
  split
  · simp only [hkey, hb, hget x hx, Mem.crossByte, hblock]
  · exact hget x hx

/-- A line outside a run of lines can be read after the run as before it. -/
theorem readLine_memAfter {pkg : Option (Fin 64)} {bs : List Byte} (hc : d'.code = d.code) (hb : d'.boat = d.boat)
    (hm : MemAfter d.mem d'.mem dst k ls) (ha : a % 64 = 0)
    (hout : ∀ j < k, wrap52 (dst + 64 * j) + 64 ≤ a ∨ a + 64 ≤ wrap52 (dst + 64 * j)) (hwin : d.windowOf a = none)
    (h : d.readLine c cd r pkg a = .ok bs) : d'.readLine c cd r pkg a = .ok bs := by
  obtain ⟨i, hi, hk, hdata, rfl⟩ := (readLine_ok_iff hwin).1 h
  refine (readLine_ok_iff ((windowOf_congr hb).trans hwin)).2
    ⟨i, (allowed_congr hc).trans hi, (keyCheck_congr hc hb).trans hk, dataCode_memAfter hc hm hdata, ?_⟩
  exact List.map_congr_left fun j hj => (byteAt_memAfter hc hb hm ha ⟨by omega, by have := List.mem_range.1 hj; omega⟩ hout).symm
end

end Sys2Proof.Laws
end

section
/-! SUPPORT. MOVE (R197, R215, R218, R306, R348, R349): its command, a line read and a line written, its lines one after the other, and how a
MOVE that nothing holds back ends its step. -/

namespace Sys2Proof.Laws

set_option Elab.async false

open Sys2Proof Sys2Proof.Machine Sys2Proof.Safety

/-! ### Updates of a die -/

section
variable {d : Device} {cd : Cd}

/-- An update that leaves a die leaves the device. -/
theorem modDie_unchanged {f : Die → Die} (h : f d.dies[cd] = d.dies[cd]) : d.modDie cd f = d := by
  have hs : upd d.dies cd f = d.dies := by
    unfold upd
    rw [h]
    exact Vector.set_getElem_self ..
  exact congrArg (fun v => ({ d with dies := v } : Device)) hs

/-- Updates of a die that agree on it. -/
theorem modDie_congr {f g : Die → Die} (h : f d.dies[cd] = g d.dies[cd]) : d.modDie cd f = d.modDie cd g := by
  rw [modDie_const f, h]
  exact (modDie_const g).symm
end

/-! ### The command (R218) -/

section
variable {x : Die} {e : QEntry}

theorem moveCmd_src_aligned (h : (x.moveCmd e).sk = 0) : (x.moveCmd e).src % 64 = 0 := by
  have hs : (x.moveCmd e).src = lineOf (wrap52 (x.recField e 8 8 % 2 ^ 52 + e.ga.toNat)) := if_pos h
  rw [hs, lineOf, Nat.mul_mod_left]

theorem moveCmd_dst_aligned (h : (x.moveCmd e).dk = 0) : (x.moveCmd e).dst % 64 = 0 := by
  have hd : (x.moveCmd e).dst = lineOf (wrap52 (x.recField e 0x10 8 % 2 ^ 52 + e.gb.toNat)) := if_pos h
  rw [hd, lineOf, Nat.mul_mod_left]

/-- A MOVE has fewer lines than the address space. -/
theorem moveCmd_lines_lt (x : Die) (e : QEntry) : (x.moveCmd e).lines < 2 ^ 32 := by
  have hrec : x.recField e 4 4 < 2 ^ 32 := by
    have h := le_lt (x.planBytes (cwRec e.w + 4) 4)
    rwa [show (x.planBytes (cwRec e.w + 4) 4).length = 4 by simp [Die.planBytes, memBytes]] at h
  have himm : e.imm.toNat < 2 ^ 16 := e.imm.isLt
  show (if cwImsel e.w = 0 then x.recField e 4 4 else e.imm.toNat) < 2 ^ 32
  split <;> omega

/-- A MOVE between DPAs, or between a DPA and the Ladle store, waits for no adapter entry (R215). -/
theorem entryWait_of_kinds (hs : (x.moveCmd e).sk ≠ 1) (hd : (x.moveCmd e).dk ≠ 1) : x.entryWait e = false := by
  simp [Die.entryWait, hs, hd]

/-- A MOVE out of an adapter entry waits for its lines (R215). -/
theorem entryWait_source (hd : (x.moveCmd e).dk = 0) (h : (x.moveCmd e).left e ≤ (x.course.delivered (x.moveCmd e).src).length) :
    x.entryWait e = false := by
  simp [Die.entryWait, hd, h]

/-- A MOVE into an adapter entry waits for room (R215). -/
theorem entryWait_destination (hs : (x.moveCmd e).sk = 0) (h : x.course.adOut.length + (x.moveCmd e).left e ≤ 2048) :
    x.entryWait e = false := by
  simp [Die.entryWait, hs, h]

/-- R306 lets a MOVE into the Ladle store come from DPAs alone. -/
theorem ladleMove_into {cd : Cd} {m : MoveCmd} (h : x.ladleMoveFault cd m = none) (hd : m.dk = 2) : m.sk = 0 := by
  by_contra hne
  simp [Die.ladleMoveFault, hd, hne] at h

/-- R306 lets a MOVE of channel 3 to DPAs come from the Ladle store alone. -/
theorem ladleMove_outOf {cd : Cd} {m : MoveCmd} (h : x.ladleMoveFault cd m = none) (hd : m.dk = 0) : m.sk = 2 := by
  by_contra hne
  simp [Die.ladleMoveFault, hd, hne] at h
end

/-! ### Lines read and written (R215, R218) -/

section
variable {s : State} {d : Device} {c : Context} {cd : Cd} {m : MoveCmd} {i k dst : Nat} {ls : Nat → List Byte}

/-- A read of a line without a correctable error counts nothing (R176). -/
theorem eccOf_clean {α : Type} {a : Nat} {v : α} (h : d.mem.ceLines.contains (a / 64) = false) : d.eccOf a (.ok v) = d := by
  unfold Device.eccOf
  split
  · exact if_neg (by rw [h]; decide)
  · next he => cases he
  · rfl

/-- A source line of kind 0 is read as `MoveReads` says after the lines stored before it, when they lie beside it. -/
theorem moveRead_dpa {bs : List Byte} (hc : d.code = s.dev.code) (hb : d.boat = s.dev.boat) (hm : MemAfter s.dev.mem d.mem dst k ls)
    (hsk : m.sk = 0) (hsrc : m.src % 64 = 0) (hrole : m.dk = 1 → c.courseLine (wrap52 (m.src + 64 * i)) = true)
    (hout : ∀ j < k, wrap52 (dst + 64 * j) + 64 ≤ wrap52 (m.src + 64 * i) ∨ wrap52 (m.src + 64 * i) + 64 ≤ wrap52 (dst + 64 * j))
    (h : MoveReads s c cd m i bs) : d.moveRead c cd m i = .ok (bs, d) ∧ bs.length = 64 := by
  obtain ⟨hwin, hce, hread⟩ := h
  have hlen : bs.length = 64 := by
    obtain ⟨_, -, -, -, rfl⟩ := (readLine_ok_iff hwin).1 hread
    exact readAs_length
  have hread' := readLine_memAfter hc hb hm (line_aligned hsrc) hout hwin hread
  have hwin' : d.windowOf (wrap52 (m.src + 64 * i)) = none := (windowOf_congr hb).trans hwin
  have hserve : d.servePackage (wrap52 (m.src + 64 * i)) = d := by rw [Device.servePackage, hwin']
  have hce' : d.mem.ceLines.contains (wrap52 (m.src + 64 * i) / 64) = false := by
    rw [Bool.eq_false_iff, Ne, List.contains_iff_mem] at hce ⊢
    exact fun hin => hce (hm.ceLines hin)
  obtain ⟨_, hallowed, -⟩ := (readLine_ok_iff hwin').1 hread'
  refine ⟨?_, hlen⟩
  unfold Device.moveRead
  rw [if_pos hsk]
  dsimp only
  rw [hserve, ite_self, hallowed]
  dsimp only
  rw [if_neg (fun ⟨h1, h2⟩ => by simp [hrole h1] at h2), hread']
  dsimp only
  rw [eccOf_clean hce']

/-- The device `d` after the lines `bs 0` to `bs (k - 1)` of a run from `dst` on have been written into the DPA space of `d₀`. -/
def WrittenFrom (d₀ : Device) (dst : Nat) (bs : Nat → List Byte) (k : Nat) (d : Device) : Prop :=
  ∃ m', d = { d₀ with mem := m' } ∧ MemAfter d₀.mem m' dst k bs

theorem writtenFrom_zero (h : d.mem.bytes.wf 0 = true) : WrittenFrom d dst ls 0 d := ⟨d.mem, rfl, memAfter_zero h⟩

/-- The next destination line of kind 0 is written as `MoveWrites` says. -/
theorem moveWrite_dpa {d₀ : Device} (hc : d₀.code = s.dev.code) (hb : d₀.boat = s.dev.boat) (hmem : d₀.mem = s.dev.mem)
    (hup : d₀.yalkenUp = true) (hd : WrittenFrom d₀ (m.dst + 64 * i) ls k d) (hdk : m.dk = 0) (hdst : m.dst % 64 = 0) (hk : k < 2 ^ 32)
    (hl : (ls k).length = 64) (h : MoveWrites s c cd m (i + k)) :
    ∃ d', d.moveWrite c cd m (i + k) (ls k) = .ok d' ∧ WrittenFrom d₀ (m.dst + 64 * i) ls (k + 1) d' := by
  obtain ⟨m', rfl, hm⟩ := hd
  obtain ⟨herr, p, hallowed, hkey⟩ := h
  have herr' : m'.errLines.contains (wrap52 (m.dst + 64 * (i + k)) / 64) = false := by rw [hm.errLines, hmem]; exact herr
  obtain ⟨m'', hw, hline⟩ := writeLine_line (d := { d₀ with mem := m' }) (bs := ls k) ((allowed_congr hc).trans hallowed)
    ((keyCheck_congr hc hb).trans hkey) herr' hup (line_aligned hdst) hl
  refine ⟨{ d₀ with mem := m'' }, ?_, m'', rfl, memAfter_succ hm ?_ hk hl⟩
  · unfold Device.moveWrite
    rw [if_pos hdk]
    dsimp only
    rw [hw]
  · rwa [show m.dst + 64 * i + 64 * k = m.dst + 64 * (i + k) by omega]
end

/-! ### Lines one after the other (R218) -/

section
variable {c : Context} {cd : Cd} {m : MoveCmd}

/-- Line `i` of a MOVE is read, and then written. -/
def LineMoved (c : Context) (cd : Cd) (m : MoveCmd) (i : Nat) (d d' : Device) : Prop :=
  ∃ bs d1, d.moveRead c cd m i = .ok (bs, d1) ∧ d1.moveWrite c cd m i bs = .ok d'

/-- Lines that are moved one after the other, with what holds after each number of them. -/
theorem moveLines_all : ∀ (n i : Nat) (P : Nat → Device → Prop) (d : Device),
    (∀ k < n, ∀ d, P k d → ∃ d', LineMoved c cd m (i + k) d d' ∧ P (k + 1) d') → P 0 d →
    ∃ d', Device.moveLines c cd m n i d = (d', none) ∧ P n d'
  | 0, _, _, d, _, h => ⟨d, rfl, h⟩
  | n + 1, i, P, d, step, h => by
    obtain ⟨d2, ⟨bs, d1, hr, hw⟩, h2⟩ := step 0 (Nat.succ_pos n) d h
    obtain ⟨d', hl, h'⟩ := moveLines_all n (i + 1) (fun k => P (k + 1)) d2 (fun k hk d hd => by
      rw [Nat.add_right_comm, Nat.add_assoc]
      exact step (k + 1) (Nat.succ_lt_succ hk) d hd) h2
    refine ⟨d', ?_, h'⟩
    rw [Nat.add_zero] at hr hw
    unfold Device.moveLines
    rw [hr]
    dsimp only
    rw [hw]
    exact hl

variable {s : State} {d₀ : Device} {i n : Nat} {bs : Nat → List Byte}

/-- Lines of any source stored at DPAs, when a read of each leaves the device (R218). -/
theorem moveLines_written (hc : d₀.code = s.dev.code) (hb : d₀.boat = s.dev.boat) (hmem : d₀.mem = s.dev.mem) (hup : d₀.yalkenUp = true)
    (hwf : s.dev.mem.bytes.wf 0 = true) (hdk : m.dk = 0) (hdst : m.dst % 64 = 0) (hn : n < 2 ^ 32)
    (hread : ∀ k < n, ∀ d, WrittenFrom d₀ (m.dst + 64 * i) bs k d → d.moveRead c cd m (i + k) = .ok (bs k, d) ∧ (bs k).length = 64)
    (hwrite : ∀ k < n, MoveWrites s c cd m (i + k)) :
    ∃ d', Device.moveLines c cd m n i d₀ = (d', none) ∧ WrittenFrom d₀ (m.dst + 64 * i) bs n d' := by
  refine moveLines_all n i (WrittenFrom d₀ (m.dst + 64 * i) bs) d₀ (fun k hk d hd => ?_) (writtenFrom_zero (hmem ▸ hwf))
  obtain ⟨hr, hl⟩ := hread k hk d hd
  obtain ⟨d', hw, hd'⟩ := moveWrite_dpa hc hb hmem hup hd hdk hdst (by omega) hl (hwrite k hk)
  exact ⟨d', ⟨bs k, d, hr, hw⟩, hd'⟩

/-- Lines moved between DPAs, when none is stored to a later source line. -/
theorem moveLines_dpa (hc : d₀.code = s.dev.code) (hb : d₀.boat = s.dev.boat) (hmem : d₀.mem = s.dev.mem) (hup : d₀.yalkenUp = true)
    (hwf : s.dev.mem.bytes.wf 0 = true) (hsk : m.sk = 0) (hdk : m.dk = 0) (hsrc : m.src % 64 = 0) (hdst : m.dst % 64 = 0) (hn : n < 2 ^ 32)
    (h : ∀ k < n, MoveReads s c cd m (i + k) (bs k) ∧ MoveWrites s c cd m (i + k)
      ∧ ∀ j < k, wrap52 (m.dst + 64 * (i + j)) ≠ wrap52 (m.src + 64 * (i + k))) :
    ∃ d', Device.moveLines c cd m n i d₀ = (d', none) ∧ WrittenFrom d₀ (m.dst + 64 * i) bs n d' := by
  refine moveLines_written hc hb hmem hup hwf hdk hdst hn (fun k hk d hd => ?_) fun k hk => (h k hk).2.1
  obtain ⟨hr, -, hne⟩ := h k hk
  obtain ⟨m', rfl, hm⟩ := hd
  refine moveRead_dpa hc hb (hmem ▸ hm) hsk hsrc (fun h => by rw [hdk] at h; cases h) (fun j hj => ?_) hr
  have hj' := hne j hj
  have hs := line_aligned (k := i + k) hsrc
  have hd := line_aligned (k := i + j) hdst
  rw [show m.dst + 64 * i + 64 * j = m.dst + 64 * (i + j) by omega]
  omega
end

/-! ### The Ladle store (R306) -/

/-- The device with the Ladle store of one die replaced, its buckets marked, and nothing else. -/
def withStore (d : Device) (cd : Cd) (st : Memory) (bk : List Bucket) : Device :=
  d.modDie cd fun x => { x with ladle := { x.ladle with store := st, buckets := bk } }

/-- The device `d` after the lines `bs 0` to `bs (k - 1)` have gone into the Ladle store of a die of `d₀` from an offset on. -/
def StoreFilled (d₀ : Device) (cd : Cd) (off : Nat) (bs : Nat → List Byte) (k : Nat) (d : Device) : Prop :=
  ∃ st bk, d = withStore d₀ cd st bk ∧ st.wf 0 = true ∧ (∀ i < k, ∀ j < 64, memGet 0 st (off + 64 * i + j) = (bs i).getD j 0)
    ∧ ∀ a, (a < off ∨ off + 64 * k ≤ a) → memGet 0 st a = memGet 0 d₀.dies[cd].ladle.store a

section
variable {s : State} {d d₀ : Device} {c : Context} {cd : Cd} {m : MoveCmd} {k n off : Nat} {bs : Nat → List Byte}

theorem storeFilled_zero (h : d.dies[cd].ladle.store.wf 0 = true) : StoreFilled d cd off bs 0 d :=
  ⟨_, d.dies[cd].ladle.buckets, (modDie_unchanged rfl).symm, h, fun _ hi => absurd hi (Nat.not_lt_zero _), fun _ _ => rfl⟩

/-- The next line goes into the Ladle store. -/
theorem moveWrite_store (hd : StoreFilled d₀ cd m.dst bs k d) (hdk : m.dk = 2) (hl : (bs k).length = 64) :
    ∃ d', d.moveWrite c cd m k (bs k) = .ok d' ∧ StoreFilled d₀ cd m.dst bs (k + 1) d' := by
  obtain ⟨st, bk, rfl, hwf, hin, hout⟩ := hd
  refine ⟨withStore d₀ cd (memStore 0 st (m.dst + 64 * k) (bs k)) (bk.map fun b => b.moved (m.dst + 64 * k)), ?_, _, _, rfl, memStore_wf hwf,
    fun i hi j hj => ?_, fun a ha => ?_⟩
  · unfold Device.moveWrite
    rw [if_neg (by omega), if_neg (by omega), withStore, modDie_modDie]
    rfl
  · rcases Nat.lt_succ_iff_lt_or_eq.1 hi with hlt | rfl
    · rw [memStore_frame hwf (by omega), hin i hlt j hj]
    · rw [memGet_memStore hwf, if_pos ⟨by omega, by omega⟩, Nat.add_sub_cancel_left]
  · rw [memStore_frame hwf (by omega), hout a (by omega)]

/-- Lines moved from DPAs into the Ladle store. -/
theorem moveLines_intoStore (hwf : s.dev.mem.bytes.wf 0 = true) (hst : s.dev.dies[cd].ladle.store.wf 0 = true) (hsk : m.sk = 0) (hdk : m.dk = 2)
    (hsrc : m.src % 64 = 0) (h : ∀ k < n, MoveReads s c cd m k (bs k)) :
    ∃ d', Device.moveLines c cd m n 0 s.dev = (d', none) ∧ StoreFilled s.dev cd m.dst bs n d' := by
  refine moveLines_all n 0 (StoreFilled s.dev cd m.dst bs) s.dev (fun k hk d hd => ?_) (storeFilled_zero hst)
  rw [Nat.zero_add]
  have hd' := hd
  obtain ⟨st, bk, rfl, -⟩ := hd'
  obtain ⟨hr, hl⟩ := moveRead_dpa (d := withStore s.dev cd st bk) rfl rfl (memAfter_zero (dst := 0) (bs := bs) hwf) hsk hsrc
    (fun h => by rw [hdk] at h; cases h) (fun _ hj => absurd hj (Nat.not_lt_zero _)) (h k hk)
  obtain ⟨d', hw, hd'⟩ := moveWrite_store (c := c) hd hdk hl
  exact ⟨d', ⟨bs k, _, hr, hw⟩, hd'⟩

/-- Line `k` of the Ladle store from an offset on. -/
def storeLine (x : Die) (off k : Nat) : List Byte := memBytes 0 x.ladle.store (off + 64 * k) 64

/-- Lines moved from the Ladle store to DPAs. -/
theorem moveLines_outOfStore (hup : s.dev.yalkenUp = true) (hwf : s.dev.mem.bytes.wf 0 = true) (hsk : m.sk = 2) (hdk : m.dk = 0)
    (hdst : m.dst % 64 = 0) (hn : n < 2 ^ 32) (h : ∀ k < n, MoveWrites s c cd m k) :
    ∃ d', Device.moveLines c cd m n 0 s.dev = (d', none) ∧ WrittenFrom s.dev m.dst (storeLine s.dev.dies[cd] m.src) n d' := by
  refine moveLines_written (i := 0) rfl rfl rfl hup hwf hdk hdst hn (fun k hk d hd => ?_) fun k hk => by rw [Nat.zero_add]; exact h k hk
  obtain ⟨m', rfl, -⟩ := hd
  refine ⟨?_, by simp [storeLine, memBytes]⟩
  unfold Device.moveRead
  rw [if_neg (by omega), if_neg (by omega), Nat.zero_add]
  rfl
end

/-! ### Adapter entries (R215) -/

/-- The device with the delivered lines of one die replaced, and nothing else. -/
def withDelivered (d : Device) (cd : Cd) (ad : List (Nat × Nat × List Byte)) : Device :=
  d.modDie cd fun x => { x with course := { x.course with adIn := ad } }

/-- The device with lines staged behind those of one die, and nothing else. -/
def withStaged (d : Device) (cd : Cd) (l : List (Nat × Nat × List Byte)) : Device :=
  d.modDie cd fun x => { x with course := { x.course with adOut := x.course.adOut ++ l } }

/-- The bytes of delivered lines, oldest first. -/
def deliveredBytes (ds : List (Nat × Nat × List Byte)) (k : Nat) : List Byte := (ds.getD k (0, 0, [])).2.2

/-- The device `d` after `k` delivered lines of entry `m.src` of `d₀` have been taken and written from `m.dst` on. -/
def TakenFrom (d₀ : Device) (cd : Cd) (m : MoveCmd) (k : Nat) (d : Device) : Prop :=
  let ds := d₀.dies[cd].course.delivered m.src
  ∃ ad, WrittenFrom (withDelivered d₀ cd ad) m.dst (deliveredBytes ds) k d ∧ (ad.filter fun l => l.1 == m.src) = ds.drop k
    ∧ ∀ n, n ≠ m.src → (ad.filter fun l => l.1 == n) = d₀.dies[cd].course.delivered n

/-- Lines staged from a place of an entry on. -/
def stagedLines (entry first k : Nat) (bs : Nat → List Byte) : List (Nat × Nat × List Byte) :=
  (List.range k).map fun i => (entry, first + i, bs i)

/-- The device `d` is `d₀` with the lines `bs 0` to `bs (k - 1)` staged into entry `m.dst` behind those staged before. -/
def StagedInto (d₀ : Device) (cd : Cd) (m : MoveCmd) (bs : Nat → List Byte) (k : Nat) (d : Device) : Prop :=
  d = withStaged d₀ cd (stagedLines m.dst (d₀.dies[cd].course.staged m.dst) k bs)

section
variable {s : State} {d : Device} {c : Context} {cd : Cd} {m : MoveCmd} {k n : Nat} {bs : Nat → List Byte}

/-- The oldest line of an entry taken: the others of the entry stay. -/
theorem filter_erase_head {ad t : List (Nat × Nat × List Byte)} {l : Nat × Nat × List Byte} {p : Nat × Nat × List Byte → Bool}
    (h : ad.filter p = l :: t) : (ad.erase l).filter p = t := by
  induction ad with
  | nil => cases h
  | cons y ys ih =>
    by_cases hp : p y = true
    · rw [List.filter_cons_of_pos hp] at h
      obtain ⟨rfl, rfl⟩ := List.cons.inj h
      rw [List.erase_cons_head]
    · rw [List.filter_cons_of_neg hp] at h
      have hl : p l = true := (List.mem_filter.1 (h ▸ List.mem_cons_self)).2
      rw [List.erase_cons_tail (by simpa using fun e : y = l => hp (e ▸ hl)), List.filter_cons_of_neg hp, ih h]

/-- A line taken is none of the other entries. -/
theorem filter_erase_other {ad : List (Nat × Nat × List Byte)} {l : Nat × Nat × List Byte} {p : Nat × Nat × List Byte → Bool}
    (h : p l = false) : (ad.erase l).filter p = ad.filter p := by
  induction ad with
  | nil => rfl
  | cons y ys ih =>
    by_cases hy : y = l
    · subst hy
      rw [List.erase_cons_head, List.filter_cons_of_neg (by rw [h]; decide)]
    · rw [List.erase_cons_tail (by simpa using hy), List.filter_cons, List.filter_cons, ih]

/-- One delivered line fewer, after writes to the memories. -/
theorem withDelivered_take (d : Device) (cd : Cd) (ad : List (Nat × Nat × List Byte)) (l : Nat × Nat × List Byte) (m' : Mem) :
    ({ withDelivered d cd ad with mem := m' } : Device).modDie cd (fun x => { x with course := { x.course with adIn := x.course.adIn.erase l } })
      = { withDelivered d cd (ad.erase l) with mem := m' } :=
  modDie_modDie (d := { d with mem := m' }) (fun x => { x with course := { x.course with adIn := ad } })
    fun x => { x with course := { x.course with adIn := x.course.adIn.erase l } }

theorem takenFrom_zero (h : d.mem.bytes.wf 0 = true) : TakenFrom d cd m 0 d := by
  refine ⟨d.dies[cd].course.adIn, ?_, rfl, fun _ _ => rfl⟩
  rw [show withDelivered d cd d.dies[cd].course.adIn = d from modDie_unchanged rfl]
  exact writtenFrom_zero h

/-- The oldest delivered line of the entry is taken. -/
theorem moveRead_entry {ds : List (Nat × Nat × List Byte)} (hds : ds = s.dev.dies[cd].course.delivered m.src) (hd : TakenFrom s.dev cd m k d)
    (hsk : m.sk = 1) (hk : k < ds.length) : ∃ ad d1, d.moveRead c cd m k = .ok (deliveredBytes ds k, d1)
      ∧ WrittenFrom (withDelivered s.dev cd ad) m.dst (deliveredBytes ds) k d1 ∧ (ad.filter fun l => l.1 == m.src) = ds.drop (k + 1)
      ∧ ∀ n, n ≠ m.src → (ad.filter fun l => l.1 == n) = s.dev.dies[cd].course.delivered n := by
  subst hds
  obtain ⟨ad, ⟨m', rfl, hm⟩, hleft, hothers⟩ := hd
  rw [List.drop_eq_getElem_cons hk] at hleft
  have hl := (List.mem_filter.1 (hleft ▸ List.mem_cons_self)).2
  rw [beq_iff_eq] at hl
  generalize hline : (s.dev.dies[cd].course.delivered m.src)[k] = l at hleft hl
  have hbytes : deliveredBytes (s.dev.dies[cd].course.delivered m.src) k = l.2.2 := by
    rw [deliveredBytes, List.getD_eq_getElem _ _ hk, hline]
  have hcourse : (withDelivered s.dev cd ad).dies[cd].course = { s.dev.dies[cd].course with adIn := ad } :=
    congrArg Die.course (modDie_self ..)
  refine ⟨ad.erase l, { withDelivered s.dev cd (ad.erase l) with mem := m' }, ?_, ⟨m', rfl, hm⟩, filter_erase_head hleft, fun n hn => ?_⟩
  · have hhead : ((withDelivered s.dev cd ad).dies[cd].course.delivered m.src).head? = some l := by
      rw [hcourse, Course.delivered, hleft, List.head?_cons]
    unfold Device.moveRead
    rw [if_neg (by omega), if_pos hsk]
    dsimp only
    rw [hhead, hbytes]
    exact congrArg (fun d => Except.ok (l.2.2, d)) (withDelivered_take s.dev cd ad l m')
  · rw [filter_erase_other (by simpa [hl] using Ne.symm hn), hothers n hn]

/-- Delivered lines of an adapter entry taken oldest first and stored at DPAs. -/
theorem moveLines_outOfEntry (hup : s.dev.yalkenUp = true) (hwf : s.dev.mem.bytes.wf 0 = true) (hsk : m.sk = 1) (hdk : m.dk = 0)
    (hdst : m.dst % 64 = 0) (hn : n < 2 ^ 32) (hle : n ≤ (s.dev.dies[cd].course.delivered m.src).length)
    (hlen : ∀ l ∈ s.dev.dies[cd].course.delivered m.src, l.2.2.length = 64) (h : ∀ k < n, MoveWrites s c cd m k) :
    ∃ d', Device.moveLines c cd m n 0 s.dev = (d', none) ∧ TakenFrom s.dev cd m n d' := by
  refine moveLines_all n 0 (TakenFrom s.dev cd m) s.dev (fun k hk d hd => ?_) (takenFrom_zero hwf)
  have hk' := hk.trans_le hle
  obtain ⟨ad, d1, hr, hd1, hleft, hothers⟩ := moveRead_entry (c := c) rfl hd hsk hk'
  have hl : (deliveredBytes (s.dev.dies[cd].course.delivered m.src) k).length = 64 := by
    rw [deliveredBytes, List.getD_eq_getElem _ _ hk']
    exact hlen _ (List.getElem_mem hk')
  have hwrite : MoveWrites s c cd m (0 + k) := by rw [Nat.zero_add]; exact h k hk
  obtain ⟨d2, hw, hd2⟩ :=
    moveWrite_dpa (d₀ := withDelivered s.dev cd ad) (i := 0) rfl rfl rfl hup hd1 hdk hdst (by omega) hl hwrite
  rw [Nat.zero_add] at hw ⊢
  exact ⟨d2, ⟨_, d1, hr, hw⟩, ad, hd2, hleft, hothers⟩

theorem stagedLines_succ (entry first k : Nat) (bs : Nat → List Byte) :
    stagedLines entry first (k + 1) bs = stagedLines entry first k bs ++ [(entry, first + k, bs k)] := by
  rw [stagedLines, List.range_succ, List.map_append]; rfl

/-- Lines staged so far are counted by their entry. -/
theorem staged_append (x : Course) (entry first k : Nat) (bs : Nat → List Byte) :
    Course.staged { x with adOut := x.adOut ++ stagedLines entry first k bs } entry = x.staged entry + k := by
  have hall : ((stagedLines entry first k bs).filter fun l => l.1 == entry) = stagedLines entry first k bs :=
    List.filter_eq_self.2 fun l hl => by
      obtain ⟨_, -, rfl⟩ := List.mem_map.1 hl
      exact beq_self_eq_true _
  rw [Course.staged, Course.staged, List.filter_append, List.length_append, hall]
  simp [stagedLines]

/-- The next line staged into an adapter entry. -/
theorem moveWrite_entry {first : Nat} (hfirst : first = s.dev.dies[cd].course.staged m.dst) (hdk : m.dk = 1) :
    (withStaged s.dev cd (stagedLines m.dst first k bs)).moveWrite c cd m k (bs k)
      = .ok (withStaged s.dev cd (stagedLines m.dst first (k + 1) bs)) := by
  subst hfirst
  unfold Device.moveWrite withStaged
  rw [if_neg (by omega), if_pos hdk, modDie_modDie]
  refine congrArg Except.ok (modDie_congr ?_)
  dsimp only
  rw [staged_append, stagedLines_succ, List.append_assoc]

/-- Lines moved from DPAs into an adapter entry. -/
theorem moveLines_intoEntry (hwf : s.dev.mem.bytes.wf 0 = true) (hsk : m.sk = 0) (hdk : m.dk = 1) (hsrc : m.src % 64 = 0)
    (h : ∀ k < n, MoveReads s c cd m k (bs k) ∧ c.courseLine (wrap52 (m.src + 64 * k)) = true) :
    Device.moveLines c cd m n 0 s.dev
      = (withStaged s.dev cd (stagedLines m.dst (s.dev.dies[cd].course.staged m.dst) n bs), none) := by
  have step : ∀ k < n, ∀ d, StagedInto s.dev cd m bs k d →
      ∃ d', LineMoved c cd m (0 + k) d d' ∧ StagedInto s.dev cd m bs (k + 1) d' := fun k hk d hd => by
    subst hd
    rw [Nat.zero_add]
    obtain ⟨hread, hrole⟩ := h k hk
    obtain ⟨hr, -⟩ := moveRead_dpa (d := withStaged s.dev cd _) rfl rfl (memAfter_zero (dst := 0) (bs := bs) hwf) hsk hsrc (fun _ => hrole)
      (fun _ hj => absurd hj (Nat.not_lt_zero _)) hread
    exact ⟨_, ⟨bs k, _, hr, moveWrite_entry rfl hdk⟩, rfl⟩
  obtain ⟨d', hl, rfl⟩ := moveLines_all n 0 _ s.dev step (modDie_unchanged (by simp [stagedLines])).symm
  exact hl
end

/-! ### A MOVE as a step (R154, R197, R212, R218, R348, R349) -/

/-- A MOVE that starts and that neither its gate, its stream, its entries, R306 nor the wheel holds back. -/
structure MoveGoes (s : State) (cd : Cd) (chan : Fin 3) (c : Context) (e : QEntry) : Prop where
  starts : Starts s cd (idx 12 (6 + chan.val)) 1 c e
  gates : GatesOpen c cd (idx 12 (6 + chan.val)) e
  ladle : chan = 2 → s.dev.dies[cd].ladleMoveFault cd (s.dev.dies[cd].moveCmd e) = none
  entries : s.dev.dies[cd].entryWait e = false
  served : s.dev.moveServed c cd (chan.val + 1) (s.dev.dies[cd].moveCmd e) = true
  linkUp : s.dev.yalkenUp = true

/-- A die changes in its links and queues alone. -/
def QueuesOnly (f : Die → Die) : Prop := ∀ x, ∃ l q, f x = { x with links := l, queues := q }

/-- The device `d'` is `d` with the links and queues of one die changed. -/
structure LeftAs (d' : Device) (cd : Cd) (d : Device) : Prop where
  mem : d'.mem = d.mem
  ctxs : d'.ctxs = d.ctxs
  others : ∀ o : Cd, o ≠ cd → d'.dies[o] = d.dies[o]
  loc : d'.dies[cd].loc = d.dies[cd].loc
  course : d'.dies[cd].course = d.dies[cd].course
  ladle : d'.dies[cd].ladle = d.dies[cd].ladle

section
variable {d d1 : Device} {x : Die} {q : QueueId} {c : Context} {cd : Cd} {e : QEntry} {n : Nat} {svals : List (Fin 16 × BitVec 64)} {done : Bool}

theorem leftAs_modDie {f : Die → Die} (hf : QueuesOnly f) : LeftAs (d.modDie cd f) cd d := by
  obtain ⟨l, q, h⟩ := hf d.dies[cd]
  have hdie := (modDie_self d cd f).trans h
  exact ⟨rfl, rfl, fun o ho => modDie_other _ _ (Ne.symm ho), (congrArg Die.loc hdie :), (congrArg Die.course hdie :),
    (congrArg Die.ladle hdie :)⟩

theorem queuesOnly_comp {f g : Die → Die} (hf : QueuesOnly f) (hg : QueuesOnly g) : QueuesOnly fun x => g (f x) := fun x => by
  obtain ⟨_, _, h⟩ := hf x
  obtain ⟨l, q, h'⟩ := hg (f x)
  exact ⟨l, q, by dsimp only; rw [h', h]⟩

theorem queuesOnly_modQueue (f : List QEntry → List QEntry) : QueuesOnly fun x => x.modQueue q f := fun _ => ⟨_, _, rfl⟩

theorem queuesOnly_markStart : QueuesOnly fun x => x.markStart q e svals done := fun x => by
  unfold Die.markStart
  dsimp only
  split
  · exact ⟨_, _, rfl⟩
  · rw [linkStart_eq]; exact ⟨_, _, rfl⟩

theorem queuesOnly_markCut : QueuesOnly fun x => x.markCut q e n svals := queuesOnly_comp queuesOnly_markStart (queuesOnly_modQueue _)

/-- What a stop point notes in the queue entry of its command. -/
theorem markCut_progress {b : QEntry} (hb : b ∈ (x.markCut q e n svals).queues[q]) (hn : b.no = e.no) : b.progress = BitVec.ofNat 40 n := by
  unfold Die.markCut at hb
  rw [modQueue_self] at hb
  obtain ⟨a, -, -, rfl⟩ := eq_of_mem_setEntry hb hn
  rfl

theorem doneIn_markStart {pending : List Instr} {v : Nat} :
    DoneIn ⟨d.modDie cd fun x => x.markStart q e (e.sOf v) true, pending⟩ cd q e v := fun b hb hn => by
  rw [modDie_self] at hb
  obtain ⟨hs, hd, hc, hv⟩ := markStart_entry hb hn
  exact ⟨hs, hd, hc, fun hw => hv.trans (by rw [QEntry.sOf, if_pos hw])⟩

theorem cutIn_markCut {pending : List Instr} : CutIn ⟨d.modDie cd fun x => x.markCut q e n svals, pending⟩ cd q e n := fun b hb hn => by
  rw [modDie_self] at hb
  obtain ⟨hs, hd, hc⟩ := markCut_entry hb hn
  exact ⟨hs, hd, hc, markCut_progress hb hn⟩

/-- Neither gate nor stream of a MOVE makes it wait (R348, R349). -/
theorem no_gateWait (h : GatesOpen c cd q e) : ((moveFlag q e 0 && c.gateWait cd e) || (moveFlag q e 6 && c.postWait cd e)) = false := by
  obtain ⟨hgate, hpost⟩ := h
  have h0 : (moveFlag q e 0 && c.gateWait cd e) = false := by
    cases hf : moveFlag q e 0 with
    | false => rfl
    | true =>
      obtain ⟨r, hr, hlt⟩ := hgate hf
      simp [Context.gateWait, hr, hlt]
  have h6 : (moveFlag q e 6 && c.postWait cd e) = false := by
    cases hf : moveFlag q e 6 with
    | false => rfl
    | true =>
      obtain ⟨r, hr, hlt⟩ := hpost hf
      simp [Context.postWait, hr, hlt]
  rw [h0, h6]; rfl

/-- The start of a gated MOVE is counted in its context alone (R348). -/
theorem gateStart_eq : ∃ cs, d.gateStart c cd q e = { d with ctxs := cs } := by
  unfold Device.gateStart
  split <;> exact ⟨_, rfl⟩

theorem gateStart_ctxs (h : e.started = false) : (d.gateStart c cd q e).ctxs = if moveFlag q e 0 then (d.modCtx c.slot fun c =>
    c.modRecv (c.posOf cd) (cwStream e.w) fun r => { r with gated := r.gated + 1 }).ctxs else d.ctxs := by
  unfold Device.gateStart
  rw [h, Bool.not_false, Bool.and_true, apply_ite Device.ctxs]

theorem gateStart_plain (h : moveFlag q e 0 = false) : d.gateStart c cd q e = d := by
  unfold Device.gateStart
  rw [h]; rfl

/-- Lines that a MOVE moves before its end or its stop point (R197, R387). -/
def linesNow (d : Device) (c : Context) (m : MoveCmd) (e : QEntry) : Nat :=
  if d.stopping c then min 1 (m.lines - e.progress.toNat / 64) else m.lines - e.progress.toNat / 64

/-- A MOVE whose lines fault nowhere comes to a stop point when lines are left, and else it ends. -/
theorem moveRun_eq {chan i : Nat} {m : MoveCmd} (hm : d.dies[cd].moveCmd e = m) (hi : e.progress.toNat / 64 = i) (hn : linesNow d c m e = n)
    (hl : Device.moveLines c cd m n i d = (d1, none)) : d.moveRun c cd chan q e = if i + n < m.lines then .cut d1 (64 * (i + n)) []
      else .ran (d1.modDie cd fun x => x.noteProgress q e (64 * m.lines)) (e.sOf (64 * m.lines)) true := by
  subst hm hi hn
  unfold Device.moveRun
  dsimp only
  unfold linesNow at hl ⊢
  rw [hl]
end

section
variable {s : State} {d0 d1 : Device} {cd : Cd} {chan : Fin 3} {c : Context} {e : QEntry}

/-- A MOVE that nothing holds back moves its lines, if it has any. -/
theorem moveEngine_goes (h : MoveGoes s cd chan c e) : moveEngine cd (chan.val + 1) (idx 12 (6 + chan.val)) s.dev c e =
    if (s.dev.dies[cd].moveCmd e).lines = 0 then .ran (s.dev.gateStart c cd (idx 12 (6 + chan.val)) e) (e.sOf 0) true
    else (s.dev.gateStart c cd (idx 12 (6 + chan.val)) e).moveRun c cd (chan.val + 1) (idx 12 (6 + chan.val)) e := by
  have hfault : ¬(chan.val + 1 = 3 ∧ (s.dev.dies[cd].ladleMoveFault cd (s.dev.dies[cd].moveCmd e)).isSome) := fun ⟨hc, hf⟩ => by
    rw [h.ladle (Fin.ext (by simpa using hc))] at hf
    cases hf
  unfold moveEngine
  dsimp only
  rw [no_gateWait h.gates, Bool.and_false, if_neg (by decide), if_neg hfault, h.entries, h.served, h.linkUp]
  rfl

/-- The step of a MOVE that nothing holds back and whose lines fault nowhere: the lines, and then its end or its stop point. -/
theorem exec_move (h : MoveGoes s cd chan c e) {m : MoveCmd} {i n : Nat} (hm : s.dev.dies[cd].moveCmd e = m) (hi : e.progress.toNat / 64 = i)
    (hn : linesNow s.dev c m e = n) (hd0 : s.dev.gateStart c cd (idx 12 (6 + chan.val)) e = d0)
    (hl : Device.moveLines c cd m n i d0 = (d1, none)) :
    ∃ t, exec (.tongsMove cd chan) s = .next t ∧ LeftAs t.dev cd d1
      ∧ (i + n < m.lines → CutIn t cd (idx 12 (6 + chan.val)) e (64 * (i + n)))
      ∧ (m.lines ≤ i + n → DoneIn t cd (idx 12 (6 + chan.val)) e (64 * m.lines)) := by
  have hexec : exec (.tongsMove cd chan) s = .next { s with
      dev := s.dev.startHead cd (idx 12 (6 + chan.val)) 1 (moveEngine cd (chan.val + 1) (idx 12 (6 + chan.val))) } := rfl
  have hengine := moveEngine_goes h
  rw [hm] at hengine
  by_cases hzero : m.lines = 0
  · obtain rfl : n = 0 := by rw [← hn]; simp [linesNow, hzero]
    obtain rfl : d0 = d1 := congrArg Prod.fst hl
    rw [if_pos hzero, hd0] at hengine
    rw [hexec, startHead_ran h.starts hengine]
    exact ⟨_, rfl, leftAs_modDie queuesOnly_markStart, fun hlt => by omega, fun _ => by rw [hzero]; exact doneIn_markStart⟩
  · obtain ⟨cs, hcs⟩ := gateStart_eq (d := s.dev) (c := c) (cd := cd) (q := idx 12 (6 + chan.val)) (e := e)
    obtain rfl := hd0.symm.trans hcs
    rw [if_neg hzero, hd0, moveRun_eq (d := { s.dev with ctxs := cs }) hm hi hn hl] at hengine
    by_cases hleft : i + n < m.lines
    · rw [if_pos hleft] at hengine
      rw [hexec, startHead_cut h.starts hengine]
      exact ⟨_, rfl, leftAs_modDie queuesOnly_markCut, fun _ => cutIn_markCut, fun hge => by omega⟩
    · rw [if_neg hleft] at hengine
      rw [hexec, startHead_ran h.starts hengine]
      refine ⟨_, rfl, ?_, fun hlt => absurd hlt hleft, fun _ => doneIn_markStart⟩
      dsimp only
      rw [modDie_modDie]
      exact leftAs_modDie (queuesOnly_comp (queuesOnly_modQueue _) queuesOnly_markStart)

/-- The step of a MOVE that has made no progress and is not being stopped: all of its lines, and its end. -/
theorem exec_move_whole (h : MoveGoes s cd chan c e) (hf : Fresh e) (hs : s.dev.stopping c = false) {m : MoveCmd}
    (hm : s.dev.dies[cd].moveCmd e = m) (hd0 : s.dev.gateStart c cd (idx 12 (6 + chan.val)) e = d0)
    (hl : Device.moveLines c cd m m.lines 0 d0 = (d1, none)) :
    ∃ t, exec (.tongsMove cd chan) s = .next t ∧ LeftAs t.dev cd d1 ∧ DoneIn t cd (idx 12 (6 + chan.val)) e (64 * m.lines) := by
  obtain ⟨-, hprogress, -⟩ := hf
  have hfirst : e.progress.toNat / 64 = 0 := by rw [hprogress]; rfl
  have hnow : linesNow s.dev c m e = m.lines := by rw [linesNow, hs, hfirst]; rfl
  obtain ⟨t, ht, hleft, -, hdone⟩ := exec_move h hm hfirst hnow hd0 hl
  exact ⟨t, ht, hleft, hdone (Nat.zero_add _).ge⟩
end

end Sys2Proof.Laws
end

section
/-! A MOVE copies its lines (O14). -/

namespace Sys2Proof.Safety

set_option Elab.async false

open Sys2Proof Sys2Proof.Machine Sys2Proof.Laws

/-- The number of channel 1 or 2 among the three channels. -/
theorem idx_castSucc (chan : Fin 2) : idx 3 chan.val = chan.castSucc := Fin.ext (Nat.mod_eq_of_lt (Nat.lt_succ_of_lt chan.isLt))

/-- On channels 1 and 2, R306 holds no MOVE back. -/
theorem moveGoes_castSucc {s : State} {cd : Cd} {chan : Fin 2} {c : Context} {e : QEntry} (hstart : Starts s cd (idx 12 (6 + chan.val)) 1 c e)
    (hgates : GatesOpen c cd (idx 12 (6 + chan.val)) e) (hwait : s.dev.dies[cd].entryWait e = false)
    (hserved : s.dev.moveServed c cd (chan.val + 1) (s.dev.dies[cd].moveCmd e) = true) (hup : s.dev.yalkenUp = true) :
    MoveGoes s cd chan.castSucc c e :=
  ⟨hstart, hgates, fun h => absurd (congrArg Fin.val h) (Nat.ne_of_lt chan.isLt), hwait, hserved, hup⟩

/-- A command without a gate or a post passes both (R348, R349). -/
theorem gatesOpen_plain {c : Context} {cd : Cd} {q : QueueId} {e : QEntry} (h : ∀ j, moveFlag q e j = false) : GatesOpen c cd q e :=
  ⟨fun hgate => absurd hgate (by rw [h 0]; decide), fun hpost => absurd hpost (by rw [h 6]; decide)⟩

/-- The queue of channel 3 has neither gates nor posts (R347). -/
theorem moveFlag_ladle (e : QEntry) (j : Nat) : moveFlag 8 e j = false := rfl

/-- The lines go one by one from DPA to DPA (`moveLines_dpa`); the start of a gated MOVE has changed its context alone. -/
theorem movesCopyTheirLines : Sys2Proof.Claims.MovesCopyTheirLines := by
  intro s cd chan c e bs x q m hstart hfresh hrun hgates hsk hdk hup hserved hok hlines
  obtain ⟨hwf, -⟩ := hok
  have hwait : x.entryWait e = false := entryWait_of_kinds (Nat.ne_of_lt (hsk.trans_lt Nat.one_pos)) (Nat.ne_of_lt (hdk.trans_lt Nat.one_pos))
  obtain ⟨cs, hd0⟩ := gateStart_eq (d := s.dev) (c := c) (cd := cd) (q := q) (e := e)
  obtain ⟨d', hl, m', rfl, hm⟩ := moveLines_dpa (s := s) (c := c) (cd := cd) (d₀ := { s.dev with ctxs := cs }) (i := 0) (n := m.lines)
    rfl rfl rfl hup hwf hsk hdk (moveCmd_src_aligned hsk) (moveCmd_dst_aligned hdk) (moveCmd_lines_lt x e) (by simpa only [Nat.zero_add] using hlines)
  obtain ⟨t, ht, hleft, hdone⟩ := exec_move_whole (moveGoes_castSucc hstart hgates hwait hserved hup) hfresh hrun rfl hd0 hl
  refine ⟨t, (idx_castSucc chan).symm ▸ ht, ?_, hdone, hleft.others, hleft.loc, ?_⟩
  · rw [hleft.mem]; exact hm.stored
  · rw [hleft.ctxs, ← gateStart_ctxs hfresh.1, hd0]

theorem ladleMovesCopyTheirLines : Sys2Proof.Claims.LadleMovesCopyTheirLines := by
  intro s cd c e x m hstart hfresh hrun hfault hup hserved hok _
  obtain ⟨hwf, hdies, -⟩ := hok
  obtain ⟨-, hst⟩ := hdies cd
  have hplain : ∀ j, moveFlag 8 e j = false := moveFlag_ladle e
  have goes : m.sk ≠ 1 → m.dk ≠ 1 → MoveGoes s cd 2 c e := fun hs hd =>
    ⟨hstart, gatesOpen_plain hplain, fun _ => hfault, entryWait_of_kinds hs hd, hserved, hup⟩
  have hd0 : s.dev.gateStart c cd 8 e = s.dev := gateStart_plain (hplain 0)
  refine ⟨fun hdk bs hreads => ?_, fun hdk hwrites => ?_⟩
  · have hsk : m.sk = 0 := ladleMove_into hfault hdk
    obtain ⟨_, hl, st, bk, rfl, -, hin, hout⟩ := moveLines_intoStore (c := c) hwf hst hsk hdk (moveCmd_src_aligned hsk) hreads
    obtain ⟨t, ht, hleft, hdone⟩ := exec_move_whole (goes (by omega) (by omega)) hfresh hrun rfl hd0 hl
    have hstore : t.dev.dies[cd].ladle.store = st := by rw [hleft.ladle, withStore, modDie_self]
    refine ⟨t, ht, fun k hk j hj => ?_, fun a ha => ?_, hdone, fun o ho => ?_, hleft.mem, hleft.ctxs⟩
    · rw [hstore]; exact hin k hk j hj
    · rw [hstore]; exact hout a ha
    · rw [hleft.others o ho]; exact modDie_other _ _ (Ne.symm ho)
  · have hsk : m.sk = 2 := ladleMove_outOf hfault hdk
    obtain ⟨_, hl, m', rfl, hm⟩ := moveLines_outOfStore (c := c) hup hwf hsk hdk (moveCmd_dst_aligned hdk) (moveCmd_lines_lt x e) hwrites
    obtain ⟨t, ht, hleft, hdone⟩ := exec_move_whole (goes (by omega) (by omega)) hfresh hrun rfl hd0 hl
    refine ⟨t, ht, ?_, hdone, hleft.ladle, hleft.others, hleft.ctxs⟩
    rw [hleft.mem]; exact hm.stored

theorem adapterEntryMovesTakeAndStageLines : Sys2Proof.Claims.AdapterEntryMovesTakeAndStageLines := by
  intro s cd chan c e x q m ds hstart hfresh hrun hplain hup hserved hok
  obtain ⟨hwf, -⟩ := hok
  have hleftAll : m.left e = m.lines := by rw [MoveCmd.left, hfresh.2.1]; rfl
  have goes : x.entryWait e = false → MoveGoes s cd chan.castSucc c e := fun hw =>
    moveGoes_castSucc hstart (gatesOpen_plain hplain) hw hserved hup
  have hd0 : s.dev.gateStart c cd q e = s.dev := gateStart_plain (hplain 0)
  refine ⟨fun hsk hdk hle hlen hwrites => ?_, fun hsk hdk hroom bs hreads => ?_⟩
  · have hwait : x.entryWait e = false := entryWait_source hdk (hleftAll.trans_le hle)
    obtain ⟨_, hl, ad, ⟨m', rfl, hm⟩, htaken, hothers⟩ := moveLines_outOfEntry (c := c) hup hwf hsk hdk (moveCmd_dst_aligned hdk)
      (moveCmd_lines_lt x e) hle hlen hwrites
    obtain ⟨t, ht, hleft, hdone⟩ := exec_move_whole (goes hwait) hfresh hrun rfl hd0 hl
    have hcourse : t.dev.dies[cd].course = { x.course with adIn := ad } := hleft.course.trans (congrArg Die.course (modDie_self ..))
    refine ⟨t, (idx_castSucc chan).symm ▸ ht, ?_, ?_, fun n hn => ?_, hdone, fun o ho => ?_, hleft.ctxs⟩
    · rw [hleft.mem]; exact hm.stored
    · rw [hcourse]; exact htaken
    · rw [hcourse]; exact hothers n hn
    · rw [hleft.others o ho]; exact modDie_other _ _ (Ne.symm ho)
  · have hwait : x.entryWait e = false := entryWait_destination hsk (by rw [hleftAll]; exact hroom)
    have hl := moveLines_intoEntry (cd := cd) hwf hsk hdk (moveCmd_src_aligned hsk) hreads
    obtain ⟨t, ht, hleft, hdone⟩ := exec_move_whole (goes hwait) hfresh hrun rfl hd0 hl
    refine ⟨t, (idx_castSucc chan).symm ▸ ht, ?_, hleft.mem, hdone, fun o ho => ?_, hleft.ctxs⟩
    · rw [hleft.course]; exact congrArg (fun y => y.course.adOut) (modDie_self ..)
    · rw [hleft.others o ho]; exact modDie_other _ _ (Ne.symm ho)

/-- While its context is being stopped, a MOVE moves one line in its step: it ends when that line is its last. -/
theorem stoppedMoveGoesOnAtItsNextLine : Sys2Proof.Claims.StoppedMoveGoesOnAtItsNextLine := by
  intro s cd chan c e bs x q m i hstart hstop hplain hsk hdk hup hserved hok hi hread hwrite
  obtain ⟨hwf, -⟩ := hok
  have hwait : x.entryWait e = false := entryWait_of_kinds (Nat.ne_of_lt (hsk.trans_lt Nat.one_pos)) (Nat.ne_of_lt (hdk.trans_lt Nat.one_pos))
  have hd0 : s.dev.gateStart c cd q e = s.dev := gateStart_plain (hplain 0)
  have hnow : linesNow s.dev c m e = 1 := by
    rw [linesNow, if_pos hstop]
    show min 1 (m.lines - i) = 1
    omega
  obtain ⟨_, hl, m', rfl, hm⟩ := moveLines_dpa (s := s) (c := c) (cd := cd) (d₀ := s.dev) (i := i) (n := 1) (bs := fun _ => bs)
    rfl rfl rfl hup hwf hsk hdk (moveCmd_src_aligned hsk) (moveCmd_dst_aligned hdk) (by decide) fun k hk => by
      obtain rfl : k = 0 := by omega
      exact ⟨hread, hwrite, fun _ hj => absurd hj (Nat.not_lt_zero _)⟩
  obtain ⟨t, ht, hleft, hcut, hend⟩ := exec_move (moveGoes_castSucc hstart (gatesOpen_plain hplain) hwait hserved hup) rfl rfl hnow hd0 hl
  refine ⟨t, (idx_castSucc chan).symm ▸ ht, ?_, hcut, fun h => hend h.ge, hleft.others, hleft.ctxs⟩
  rw [hleft.mem]; exact hm.stored

/-- Settles O14, claim by claim: the lines of a MOVE go one after the other (`moveLines_all`), each kind of source read and each kind of
destination written by its own rule, and the step ends as `exec_move` says. -/
theorem moveCopiesItsLine : Obligations.MoveCopiesItsLine :=
  ⟨movesCopyTheirLines, ladleMovesCopyTheirLines, adapterEntryMovesTakeAndStageLines, stoppedMoveGoesOnAtItsNextLine⟩

end Sys2Proof.Safety
end

section
/-! SUPPORT. A run of bytes read line by line, and the errors of its lines counted (R171, R176, R490). -/

namespace Sys2Proof.Laws

set_option Elab.async false

open Sys2Proof Sys2Proof.Machine Sys2Proof.Safety

/-! ### Folds -/

/-- A fold whose steps all leave a value ends on it. -/
theorem foldl_stays {α β : Type} {f : β → α → β} {b : β} : ∀ {l : List α}, (∀ a ∈ l, f b a = b) → l.foldl f b = b
  | [], _ => rfl
  | a :: l, h => by
    rw [List.foldl_cons, h a List.mem_cons_self]
    exact foldl_stays fun x hx => h x (List.mem_cons_of_mem _ hx)

/-- Pieces appended one after the other: a run of them that ends well is their concatenation, and each piece of it is good. -/
theorem foldlM_append_ok {α β ε : Type} {step : List β → α → Except ε (List β)} {good : α → Prop} {piece : α → List β}
    (hstep : ∀ acc k out, step acc k = .ok out → good k ∧ out = acc ++ piece k) : ∀ {l : List α} {acc out : List β},
    l.foldlM step acc = .ok out → (∀ k ∈ l, good k) ∧ out = acc ++ l.flatMap piece
  | [], acc, out, h => by
    cases h
    exact ⟨fun _ hk => absurd hk List.not_mem_nil, (List.append_nil _).symm⟩
  | a :: l, acc, out, h => by
    rw [List.foldlM_cons] at h
    cases ha : step acc a with
    | error e => rw [ha] at h; cases h
    | ok next =>
      rw [ha] at h
      obtain ⟨hgood, rfl⟩ := hstep acc a next ha
      obtain ⟨hrest, rfl⟩ := foldlM_append_ok hstep (l := l) h
      exact ⟨List.forall_mem_cons.2 ⟨hgood, hrest⟩, by rw [List.flatMap_cons, List.append_assoc]⟩

theorem except_map_ok {ε α β : Type} {f : α → β} {x : Except ε α} {b : β} (h : x.map f = .ok b) : ∃ a, x = .ok a ∧ b = f a := by
  cases x with
  | error e => cases h
  | ok a => cases h; exact ⟨a, rfl, rfl⟩

/-! ### A run of bytes read (R490) -/

/-- Lines that `n` bytes from `a` on touch. -/
def runLines (a n : Nat) : Nat := if n = 0 then 0 else (a + n - 1) / 64 - a / 64 + 1

/-- Address of line `k` of the run of bytes from `a` on. -/
def runLine (a k : Nat) : Nat := wrap52 (lineOf a + 64 * k)

section
variable {d : Device} {c : Context} {cd : Cd} {r : Requester} {a n : Nat} {bs : List Byte}

/-- The bytes of line `k` of a run, when it can be read. -/
def lineBytes (d : Device) (c : Context) (cd : Cd) (r : Requester) (a k : Nat) : List Byte :=
  (d.readLine c cd r none (runLine a k)).toOption.getD []

/-- A run that can be read is cut from its lines, each of which can be read. -/
theorem readBytes_ok (h : d.readBytes c cd r a n = .ok bs) :
    (∀ k < runLines a n, d.readLine c cd r none (runLine a k) = .ok (lineBytes d c cd r a k))
      ∧ bs = (((List.range (runLines a n)).flatMap (lineBytes d c cd r a)).drop (a - lineOf a)).take n := by
  obtain ⟨out, hgo, rfl⟩ := except_map_ok h
  obtain ⟨hread, rfl⟩ := foldlM_append_ok
    (good := fun k => d.readLine c cd r none (runLine a k) = .ok (lineBytes d c cd r a k)) (piece := lineBytes d c cd r a)
    (fun acc k out hk => by
      change (match d.readLine c cd r none (runLine a k) with | .ok bs => _ | .error e => _) = _ at hk
      rw [lineBytes]
      cases hl : d.readLine c cd r none (runLine a k) with
      | error e => rw [hl] at hk; cases hk
      | ok l => rw [hl] at hk; cases hk; exact ⟨rfl, rfl⟩) hgo
  exact ⟨fun k hk => hread k (List.mem_range.2 hk), rfl⟩

/-- The errors of a run whose lines can be read and hold none: nothing is counted (R176). -/
theorem eccRun_clean (h : d.readBytes c cd r a n = .ok bs)
    (hce : ∀ k < runLines a n, d.mem.ceLines.contains (runLine a k / 64) = false) : d.eccRun c cd r a n = d := by
  obtain ⟨hls, -⟩ := readBytes_ok h
  refine congrArg Prod.fst (foldl_stays (b := (d, false)) fun k hk => ?_)
  have hk' : k < runLines a n := List.mem_range.1 hk
  have hline : d.readLine c cd r none (wrap52 (lineOf a + 64 * k)) = .ok (lineBytes d c cd r a k) := hls k hk'
  have hecc : d.eccOf (wrap52 (lineOf a + 64 * k)) (.ok (lineBytes d c cd r a k)) = d := eccOf_clean (hce k hk')
  simp only [Bool.false_eq_true, if_false, hline, hecc]
  rfl
end

/-! ### What an event on the admin ring set and the count of an error leave -/

/-- The device `d'` is `d` but for the admin ring set, the memories and the error log. -/
def AdminOnly (d d' : Device) : Prop := ∃ a m w g, d' = { d with admin := a, mem := m, heldWrites := w, dump := g }

theorem AdminOnly.refl (d : Device) : AdminOnly d d := ⟨_, _, _, _, rfl⟩

theorem AdminOnly.trans {d d' d'' : Device} (h : AdminOnly d d') (h' : AdminOnly d' d'') : AdminOnly d d'' := by
  obtain ⟨_, _, _, _, rfl⟩ := h
  obtain ⟨a, m, w, g, rfl⟩ := h'
  exact ⟨a, m, w, g, rfl⟩

section
variable {d : Device}

theorem adminOnly_companionPut (tag : BitVec 16) (ws : Writes) : AdminOnly d (d.companionPut tag ws) := by
  unfold Device.companionPut
  split <;> exact ⟨_, _, _, _, rfl⟩

theorem adminOnly_ringDo (f : BitVec 16 → RingIo → RingIo) : AdminOnly d (d.ringDo .admin f).1 ∧ (d.ringDo .admin f).2.1 = 0 := by
  unfold Device.ringDo
  dsimp only
  split
  · exact ⟨.refl d, rfl⟩
  · exact ⟨.trans ⟨_, _, _, _, rfl⟩ (adminOnly_companionPut _ _), rfl⟩

/-- A failed write of the admin ring set, whose tag is 0, names no context (R171). -/
theorem adminOnly_writesFailed : ∀ (ws : Writes) (d : Device), AdminOnly d (d.writesFailed .admin 0 ws)
  | [], d => .refl d
  | _ :: ws, d => .trans (.trans (d' := d.logErr _) ⟨_, _, _, _, rfl⟩ (adminOnly_ringDo _).1) (adminOnly_writesFailed ws _)

/-- An event on the admin ring set. -/
theorem adminOnly_event (code : Nat) (p : List Byte) : AdminOnly d (d.event .admin code p) := by
  obtain ⟨hdo, htag⟩ := adminOnly_ringDo (d := d) fun tag x => ringEvent tag code p x
  unfold Device.event Device.onRing
  dsimp only
  rw [htag]
  split
  · exact hdo.trans (adminOnly_writesFailed _ _)
  · exact hdo
end

/-- The error of a line, counted, leaves the compute dies (R176). -/
theorem eccOf_dies {α : Type} {d : Device} {a : Nat} {r : Except Nat α} : (d.eccOf a r).dies = d.dies := by
  unfold Device.eccOf
  split
  · split
    · unfold Device.eccCe
      dsimp only
      split
      · obtain ⟨_, _, _, _, h⟩ := adminOnly_event (d := d.modLpc _ _ _) _ _
        rw [h]; rfl
      · rfl
    · rfl
  · split <;> rfl
  · rfl

/-- The errors of a run, counted, leave the compute dies (R176). -/
theorem eccRun_dies {d : Device} {c : Context} {cd : Cd} {r : Requester} {a n : Nat} : (d.eccRun c cd r a n).dies = d.dies := by
  refine List.foldlRecOn (motive := fun x : Device × Bool => x.1.dies = d.dies) _ _ rfl fun x hx k _ => ?_
  dsimp only
  split
  · exact hx
  · exact eccOf_dies.trans hx

end Sys2Proof.Laws
end

section
/-! SUPPORT. The position of a wheel served: refresh windows, patrol scrub, and the share reads of a code-1 position (R177, R207, R212). -/

namespace Sys2Proof.Laws

set_option Elab.async false

open Sys2Proof Sys2Proof.Machine Sys2Proof.Safety

/-! ### Updates of a controller -/

section
variable {d : Device} {cd : Cd} {i : Fin 2}

/-- Two updates of one controller, in order. -/
theorem modLpc_modLpc (f g : Lpc → Lpc) : (d.modLpc cd i f).modLpc cd i g = d.modLpc cd i fun l => g (f l) := by
  have hs : upd (upd d.lpcs cd fun v => upd v i f) cd (fun v => upd v i g) = upd d.lpcs cd fun v => upd v i fun l => g (f l) := by
    simp only [upd, Fin.getElem_fin, Vector.getElem_set_self, Vector.set_set]
  exact congrArg (fun v => ({ d with lpcs := v } : Device)) hs

theorem modLpc_modMem (f : Lpc → Lpc) (g : Mem → Mem) : (d.modLpc cd i f).modMem g = (d.modMem g).modLpc cd i f := rfl

theorem modLpc_otherDie {o : Cd} (f : Lpc → Lpc) (h : cd ≠ o) : (d.modLpc cd i f).lpcs[o] = d.lpcs[o] := upd_other _ _ h

theorem modLpc_otherCtl {j : Fin 2} (f : Lpc → Lpc) (h : i ≠ j) : (d.modLpc cd i f).lpcs[cd][j] = d.lpcs[cd][j] := by
  unfold Device.modLpc; rw [upd_self]; exact upd_other _ _ h

/-! ### The position served (R212) -/

/-- What has happened to the stored bits, found by a controller cycle (log entry 55). -/
def decayed (d : Device) (decay : List MemError) : Device :=
  d.modMem fun m => decay.foldl (fun m e => m.decay (d.place e.dpa.toNat) e) m

/-- What the position of a code makes a controller do. -/
def servePosition (d : Device) (cd : Cd) (i : Fin 2) (code : Nat) : Device :=
  if code = 0 then d.refreshWindow cd i else if code = 1 then d.shareServe cd i else d

theorem wheelServe_idle {decay : List MemError} (h : d.lpcs[cd][i].trained = false ∨ d.lpcs[cd][i].selfRefresh = true) :
    d.wheelServe cd i decay = d := by
  refine if_pos ?_
  rcases h with h | h <;> rw [h] <;> simp

theorem wheelServe_serves {decay : List MemError} (ht : d.lpcs[cd][i].trained = true) (hs : d.lpcs[cd][i].selfRefresh = false) :
    d.wheelServe cd i decay = (servePosition (decayed d decay) cd i (d.wheelCode cd i)).modLpc cd i fun l => { l with wheelPos := l.wheelPos + 1 } := by
  refine if_neg ?_
  rw [ht, hs]
  decide

/-! ### Refresh windows and patrol scrub (R177, R446) -/

theorem windowFree_iff {l : Lpc} : l.windowFree = true ↔ l.windows % 2 ^ (2 - l.mult.toNat) ≠ 0 := by
  rw [Lpc.windowFree, decide_eq_true_iff, pow2_eq]

theorem refreshWindow_used (h : d.lpcs[cd][i].windows % 2 ^ (2 - d.lpcs[cd][i].mult.toNat) = 0) :
    d.refreshWindow cd i = d.modLpc cd i fun l => { l with windows := (l.windows + 1) % 4 } :=
  if_neg fun hfree => windowFree_iff.1 hfree h

theorem refreshWindow_free (h : d.lpcs[cd][i].windows % 2 ^ (2 - d.lpcs[cd][i].mult.toNat) ≠ 0) :
    d.refreshWindow cd i = (d.modLpc cd i fun l => { l with windows := (l.windows + 1) % 4 }).scrubWindow cd i :=
  if_pos (windowFree_iff.2 h)

/-- Number of the memory line that line `k` of a device is (R173). -/
def deviceLine (cd : Cd) (i : Fin 2) (k : Nat) : Nat := (cd.val * 2 ^ 37 + (k / 4) * 512 + i.val * 256 + k % 4 * 64) / 64

theorem deviceLine_eq (k : Nat) : (lpddrOf cd.val + windowLine i k) / 64 = deviceLine cd i k := by
  have hblock : 64 * k / 256 = k / 4 := by omega
  have hrest : 64 * k % 256 = k % 4 * 64 := by omega
  rw [windowLine, lpddrOf, deviceLine, hblock, hrest]
  omega

/-- A line without an error is scrubbed without effect. -/
theorem scrubLine_clean {k : Nat} (hue : deviceLine cd i k ∉ d.mem.ueLines) (hce : deviceLine cd i k ∉ d.mem.ceLines) : d.scrubLine cd i k = d := by
  unfold Device.scrubLine
  dsimp only
  rw [deviceLine_eq, if_neg (by simpa using hue), if_neg (by simpa using hce)]

theorem deviceLines_eq (c : OrderingCode) : deviceLines c = if c = .a2b ∨ c = .a2c then 124 * 2 ^ 23 else 62 * 2 ^ 23 := by
  cases c <;> decide

/-- An unused window of a device whose next 16 lines hold no error: the corrected lines that wait are written back, and the scrub moves on. -/
theorem scrubWindow_clean {first : BitVec 32} {waiting : List Nat} (hfirst : d.lpcs[cd][i].scrub = first) (hwait : d.lpcs[cd][i].writeBack = waiting)
    (h : ∀ k < 16, deviceLine cd i ((first.toNat + k) % deviceLines d.code) ∉ d.mem.ueLines
      ∧ deviceLine cd i ((first.toNat + k) % deviceLines d.code) ∉ d.mem.ceLines) :
    d.scrubWindow cd i = (d.modMem fun m => { m with ceLines := m.ceLines.filter fun x => !waiting.contains x }).modLpc cd i fun l =>
      { l with writeBack := [], scrub := BitVec.ofNat 32 ((first.toNat + 16) % deviceLines d.code) } := by
  subst hfirst hwait
  refine foldl_stays fun k hk => ?_
  obtain ⟨hue, hce⟩ := h k (List.mem_range.1 hk)
  exact scrubLine_clean hue fun hin => hce (List.mem_of_mem_filter hin)

theorem refreshWindow_clean (hfree : d.lpcs[cd][i].windows % 2 ^ (2 - d.lpcs[cd][i].mult.toNat) ≠ 0)
    (h : ∀ k < 16, deviceLine cd i ((d.lpcs[cd][i].scrub.toNat + k) % deviceLines d.code) ∉ d.mem.ueLines
      ∧ deviceLine cd i ((d.lpcs[cd][i].scrub.toNat + k) % deviceLines d.code) ∉ d.mem.ceLines) :
    d.refreshWindow cd i = (d.modMem fun m => { m with ceLines := m.ceLines.filter fun x => !d.lpcs[cd][i].writeBack.contains x }).modLpc cd i fun l =>
      { l with
        windows := (l.windows + 1) % 4, writeBack := [], scrub := BitVec.ofNat 32 ((d.lpcs[cd][i].scrub.toNat + 16) % deviceLines d.code) } := by
  have hself := modLpc_self d cd i fun l => { l with windows := (l.windows + 1) % 4 }
  rw [refreshWindow_free hfree, scrubWindow_clean (congrArg Lpc.scrub hself) (congrArg Lpc.writeBack hself) (by simpa only [modLpc_code, modLpc_mem] using h),
    modLpc_modMem, modLpc_modLpc, modLpc_code]

/-! ### Share reads (R207, R212) -/

/-- The first number below `m` that a filter passes and a search finds. -/
theorem findSome_filter_range {β : Type} {p : Nat → Bool} {f : Nat → Option β} {n m : Nat} {b : β} (hn : n < m) (hp : p n = true) (hf : f n = some b)
    (hlow : ∀ j < n, p j = true → f j = none) : ((List.range m).filter p).findSome? f = some b := by
  obtain ⟨k, rfl⟩ : ∃ k, m = n + (k + 1) := ⟨m - n - 1, by omega⟩
  have hnone : ((List.range n).filter p).findSome? f = none := List.findSome?_eq_none_iff.2 fun j hj => by
    obtain ⟨hj, hpj⟩ := List.mem_filter.1 hj
    exact hlow j (List.mem_range.1 hj) hpj
  rw [List.range_add, List.filter_append, List.findSome?_append, hnone, List.range_succ_eq_map]
  simp [hp, hf]

/-- A tile put back into the Course-out buffer stands there. -/
theorem mem_setTile (k : Course) (t : CTile) : t ∈ (k.setTile t).out := by
  unfold Course.setTile
  dsimp only
  split
  · next h =>
    obtain ⟨o, ho, hr⟩ := List.any_eq_true.1 h
    exact List.mem_map.2 ⟨o, ho, if_pos (by simpa using hr)⟩
  · exact List.mem_append_right _ (List.mem_singleton_self t)

/-- The share list read for the first line of a tile, when its lines hold no error. -/
theorem shareEcc_clean {c : Context} {t : CTile} {base idx : Nat} {bs : List Byte}
    (hread : d.readBytes c cd .tongs (base + 16 * idx) 16 = .ok bs)
    (h : t.lines = [] → ∀ j < 16, d.mem.ceLines.contains (wrap52 (base + 16 * idx + j) / 64) = false) : d.shareEcc c cd t base idx = d := by
  unfold Device.shareEcc
  split
  · next hempty =>
    refine eccRun_clean hread fun k hk => ?_
    have hbyte : ∃ j < 16, runLine (base + 16 * idx) k / 64 = wrap52 (base + 16 * idx + j) / 64 := by
      change k < (base + 16 * idx + 16 - 1) / 64 - (base + 16 * idx) / 64 + 1 at hk
      obtain rfl | rfl : k = 0 ∨ k = 1 := by omega
      · exact ⟨0, by decide, by simp only [runLine, lineOf, wrap52]; omega⟩
      · exact ⟨15, by decide, by simp only [runLine, lineOf, wrap52]; omega⟩
    obtain ⟨j, hj, hline⟩ := hbyte
    rw [hline]
    exact h (List.isEmpty_iff.1 hempty) j hj
  · rfl

theorem shareLine_ok {c : Context} {base idx n : Nat} {y : Nat × Bool} (h : d.shareLine c cd base idx n = .ok y) :
    ∃ bs, d.readBytes c cd .tongs (base + 16 * idx) 16 = .ok bs := by
  unfold Device.shareLine at h
  split at h
  · cases h
  · next bs hbs => exact ⟨bs, hbs⟩

/-- The line of a tile that a controller serves next, or the fault of its share list that comes first (R207, R212). -/
def sharePick (d : Device) (c : Context) (cd : Cd) (i : Fin 2) (base ix : Nat) (t : CTile) : Option (Nat × Except (Nat × Nat) (Nat × Bool)) :=
  ((List.range 272).filter fun n => !t.lines.any fun l => l.1 == n).findSome? fun n =>
    match d.shareLine c cd base ix n with
    | .ok (a, g) => if ctlOf (a % 0x2000000000) = i.val then some (n, .ok (a, g)) else none
    | .error e => some (n, .error e)

/-- The first missing line of a tile that lies on the controller's device, when the missing lines below it lie on the other. -/
theorem sharePick_first {c : Context} {base ix n a : Nat} {g : Bool} {t : CTile} (hn : n < 272) (hmiss : ∀ b ∈ t.lines, b.1 ≠ n)
    (hline : d.shareLine c cd base ix n = .ok (a, g)) (hdev : a % 2 ^ 37 / 256 % 2 = i.val)
    (hlow : ∀ j < n, (∃ b ∈ t.lines, b.1 = j) ∨ ∃ a' g', d.shareLine c cd base ix j = .ok (a', g') ∧ a' % 2 ^ 37 / 256 % 2 ≠ i.val) :
    sharePick d c cd i base ix t = some (n, .ok (a, g)) := by
  refine findSome_filter_range hn ?_ ?_ fun j hj hjmiss => ?_
  · simpa using hmiss
  · rw [hline]
    exact if_pos hdev
  · rcases hlow j hj with ⟨b, hb, rfl⟩ | ⟨a', g', ha', hother⟩
    · have hin : (t.lines.any fun l => l.1 == b.1) = true := List.any_eq_true.2 ⟨b, hb, beq_self_eq_true _⟩
      rw [hin] at hjmiss
      cases hjmiss
    · rw [ha']
      exact if_neg hother

/-- The Course after channel 0 has read line `n` of a tile. -/
def lineRead (t : CTile) (n : Nat) (bs : List Byte) (k : Course) : Course := ({ k with gatherAt := none } : Course).readLine t n bs

/-- A share line that channel 0 reads at its position: it is not a gathered one, and the lines read hold no error. -/
theorem shareServe_reads {c : Context} {p : Plan} {t : CTile} {ix n a base : Nat} {bs : List Byte} (hres : d.residentOf cd = some c)
    (hplan : c.plan = some p) (hrun : c.runsNow = true) (hfrozen : d.dies[cd].frozen = false) (hheld : d.enginesHeld c = false)
    (htile : d.dies[cd].course.reading p (c.posOf cd) = some (t, ix)) (hbase : ((p.shareBase[c.posOf cd]?).getD 0).toNat = base)
    (hpick : sharePick d c cd i base ix t = some (n, .ok (a, false))) (hecc : d.shareEcc c cd t base ix = d)
    (hread : d.readLine c cd .tongs none a = .ok bs) (hce : d.mem.ceLines.contains (a / 64) = false) :
    d.shareServe cd i = d.modCourse cd (lineRead t n bs) := by
  have hclean : (d.modCourse cd fun k => { k with gatherAt := none }).eccOf a (.ok bs) = _ := eccOf_clean (d := d.modCourse cd _) hce
  unfold Device.shareServe
  rw [hres]
  dsimp only
  rw [hplan]
  dsimp only
  rw [hrun, hfrozen, hheld, if_neg (by decide), htile]
  dsimp only
  rw [hbase]
  generalize hsearch : List.findSome? _ _ = pick
  obtain rfl := hpick.symm.trans hsearch
  dsimp only
  rw [hread, Bool.false_and, if_neg (by decide)]
  dsimp only
  rw [Bool.false_and, if_neg (by decide), hecc, hclean]
  exact modDie_modDie ..

/-- The tile under reading stands in the Course-out buffer with its further line. -/
theorem lineRead_out (t : CTile) (n : Nat) (bs : List Byte) (k : Course) :
    ({ t with lines := t.lines ++ [(n, bs)] } : CTile) ∈ (lineRead t n bs k).out := mem_setTile _ _

/-- Channel 0 goes on to the next tile when the line was its tile's last. -/
theorem lineRead_share (t : CTile) (n : Nat) (bs : List Byte) (k : Course) :
    (lineRead t n bs k).share = if t.lines.length + 1 = 272 then k.share + 1 else k.share := by
  simp [lineRead, Course.readLine, CTile.full]

/-! ### The multiplier that MR4 asks for (R446; log entry 26) -/

/-- The multiplier code that a field of the ×1 to ×4 range requires. -/
theorem mr4Needs_inRange {f : BitVec 3} (h : f.toNat ≤ 6) : mr4Needs f = some (if f.toNat ≤ 3 then 0 else if f.toNat = 4 then 1 else 2) := by
  unfold mr4Needs
  rw [if_pos h]
  split
  · rfl
  · split <;> rfl

theorem mr4Needs_beyond {f : BitVec 3} (h : f.toNat = 7) : mr4Needs f = none := by
  unfold mr4Needs
  rw [if_neg (by omega), if_neg (by omega), if_neg (by omega)]

/-- A controller after a read of MR4 that wants a multiplier code under a high bound `hi`. -/
def afterMr4 (want hi : Nat) (f : BitVec 3) (l : Lpc) : Lpc :=
  let l1 : Lpc := if l.mult.toNat ≤ want then { l with mult := BitVec.ofNat 2 want, lower := 0 }
    else if l.lower + 1 < 2 then { l with lower := l.lower + 1 }
    else { l with mult := BitVec.ofNat 2 want, lower := 0 }
  { l1 with mr4 := f, override := decide (hi < l1.mult.toNat) }

theorem afterMr4_rises {want hi : Nat} {f : BitVec 3} {l : Lpc} (hw : want ≤ 2) (h : l.mult.toNat ≤ want) :
    (afterMr4 want hi f l).mult.toNat = want ∧ (afterMr4 want hi f l).lower = 0 := by
  simp only [afterMr4, if_pos h, BitVec.toNat_ofNat, and_true]
  omega

theorem afterMr4_waits {want hi : Nat} {f : BitVec 3} {l : Lpc} (h : want < l.mult.toNat) (hl : l.lower = 0) :
    (afterMr4 want hi f l).mult.toNat = l.mult.toNat ∧ (afterMr4 want hi f l).lower = 1 := by
  simp [afterMr4, Nat.not_le.2 h, hl]

theorem afterMr4_falls {want hi : Nat} {f : BitVec 3} {l : Lpc} (h : want < l.mult.toNat) (hl : l.lower = 1) :
    (afterMr4 want hi f l).mult.toNat = want ∧ (afterMr4 want hi f l).lower = 0 := by
  have hw : want < 4 := h.trans l.mult.isLt
  simp [afterMr4, Nat.not_le.2 h, hl, hw]

/-- A read of MR4 inside the range rewrites its controller and the override mark of the loop; the event of an override goes to the admin ring set. -/
theorem mr4Read_inRange {f : BitVec 3} {need : Nat} (ht : d.lpcs[cd][i].trained = true) (hneed : mr4Needs f = some need) : ∃ v, AdminOnly
    { d.modLpc cd i (afterMr4 (Nat.max need (min d.loops[1].low.toNat d.loops[1].high.toNat)) d.loops[1].high.toNat f) with loops := v }
    (d.mr4Read cd i f) := by
  unfold Device.mr4Read
  rw [ht, hneed, if_neg (by decide)]
  dsimp only
  split
  · exact ⟨_, adminOnly_event _ _⟩
  · exact ⟨_, .refl _⟩

/-- What a read of MR4 inside the range leaves, and the controller that it rewrites. -/
theorem mr4Read_frame {f : BitVec 3} {need : Nat} (ht : d.lpcs[cd][i].trained = true) (hneed : mr4Needs f = some need) :
    (d.mr4Read cd i f).lpcs = (d.modLpc cd i
      (afterMr4 (Nat.max need (min d.loops[1].low.toNat d.loops[1].high.toNat)) d.loops[1].high.toNat f)).lpcs
      ∧ (d.mr4Read cd i f).dies = d.dies ∧ (d.mr4Read cd i f).pd = d.pd := by
  obtain ⟨_, _, _, _, _, h⟩ := mr4Read_inRange ht hneed
  rw [h]
  exact ⟨rfl, rfl, rfl⟩

/-- A field beyond the ×4 range shuts the module down. -/
theorem mr4Read_beyond {f : BitVec 3} (ht : d.lpcs[cd][i].trained = true) (h : mr4Needs f = none) : d.mr4Read cd i f = d.shutdown := by
  unfold Device.mr4Read
  rw [ht, h, if_neg (by decide)]

end

end Sys2Proof.Laws
end

section
/-! A controller serves its wheel (O29). -/

namespace Sys2Proof.Safety

set_option Elab.async false

open Sys2Proof Sys2Proof.Machine Sys2Proof.Laws

theorem wheelMovesAndUnusedWindowsScrub : Sys2Proof.Claims.WheelMovesAndUnusedWindowsScrub := by
  intro s cd i decay l code m moved lines line
  have hexec : exec (.lpddrWheelServe cd i decay) s = .next { s with dev := s.dev.wheelServe cd i decay } := rfl
  refine ⟨fun hidle => ?_, fun ht hs => ?_⟩
  · rw [hexec, wheelServe_idle hidle]
  · rw [hexec, wheelServe_serves ht hs]
    refine ⟨fun hcode => ?_, fun hcode hused => ?_, fun hcode hfree hclean => ?_⟩
    · rw [servePosition, if_neg (by omega), if_neg (by omega)]
      rfl
    · rw [servePosition, if_pos hcode, refreshWindow_used (d := decayed s.dev decay) hused, modLpc_modLpc]
      rfl
    · have hlines : deviceLines s.dev.code = lines := deviceLines_eq _
      rw [servePosition, if_pos hcode, refreshWindow_clean (d := decayed s.dev decay) hfree (fun k hk => hlines ▸ hclean k hk), modLpc_modLpc, ← hlines]
      rfl

theorem shareLineIsReadAtItsWheelPosition : Sys2Proof.Claims.ShareLineIsReadAtItsWheelPosition := by
  intro s cd i c p t ix n a bs l x pos base ht hs hcode hres hplan hrun hfrozen hheld htile hn hmiss hline hdev hlow hread hce hlist
  obtain ⟨entry, hentry⟩ := shareLine_ok hline
  have hserve : s.dev.shareServe cd i = s.dev.modCourse cd (lineRead t n bs) :=
    shareServe_reads hres hplan hrun hfrozen hheld htile rfl (sharePick_first hn hmiss hline hdev hlow) (shareEcc_clean hentry hlist) hread hce
  have hexec : exec (.lpddrWheelServe cd i []) s = .next { s with
      dev := (s.dev.modCourse cd (lineRead t n bs)).modLpc cd i fun l => { l with wheelPos := l.wheelPos + 1 } } := by
    rw [← hserve]
    refine congrArg (fun d => Host.Outcome.next { s with dev := d }) ((wheelServe_serves ht hs).trans ?_)
    rw [hcode]
    rfl
  have hdie : (s.dev.modCourse cd (lineRead t n bs)).dies[cd] = { x with course := lineRead t n bs x.course } := modDie_self ..
  refine ⟨_, hexec, ⟨{ t with lines := t.lines ++ [(n, bs)] }, ?_, rfl, rfl⟩, ?_, ?_, rfl, rfl, ?_⟩
  · rw [modLpc_dies, hdie]; exact lineRead_out ..
  · rw [modLpc_dies, hdie]; exact lineRead_share ..
  · rw [modLpc_self]; rfl
  · rw [modLpc_dies, hdie]

theorem refreshMultiplierFollowsMr4 : Sys2Proof.Claims.RefreshMultiplierFollowsMr4 := by
  intro s cd i f l lo hi need ends ht
  have hexec : exec (.mr4Read cd i f) s = .next { s with dev := s.dev.mr4Read cd i f } := rfl
  refine ⟨fun hf hbounds hlo => ?_, fun hf => ?_⟩
  · obtain ⟨hlpcs, hdies, hpd⟩ := mr4Read_frame ht (mr4Needs_inRange hf)
    have hwant : Nat.max need (min lo hi) = Nat.max need lo := by rw [Nat.min_eq_left hbounds]
    change _ = (s.dev.modLpc cd i (afterMr4 (Nat.max need (min lo hi)) hi f)).lpcs at hlpcs
    rw [hwant] at hlpcs
    have hself := congrArg (·[cd][i]) hlpcs
    rw [modLpc_self] at hself
    have hends : ∀ m k, (afterMr4 (Nat.max need lo) hi f l).mult.toNat = m ∧ (afterMr4 (Nat.max need lo) hi f l).lower = k → ends m k :=
      fun m k ⟨hm, hk⟩ => ⟨_, hexec, (congrArg (·.mult.toNat) hself).trans hm, (congrArg Lpc.lower hself).trans hk, congrArg Lpc.mr4 hself, hdies, hpd,
        fun j hj => (congrArg (·[cd][j]) hlpcs).trans (modLpc_otherCtl _ (Ne.symm hj)),
        fun o ho => (congrArg (·[o]) hlpcs).trans (modLpc_otherDie _ (Ne.symm ho))⟩
    have hneed : need ≤ 2 := by
      change (if f.toNat ≤ 3 then 0 else if f.toNat = 4 then 1 else 2) ≤ 2
      split
      · decide
      · split <;> decide
    exact ⟨fun h => hends _ _ (afterMr4_rises (Nat.max_le.2 ⟨hneed, hlo⟩) h), fun h hl => hends _ _ (afterMr4_waits h hl),
      fun h hl => hends _ _ (afterMr4_falls h hl)⟩
  · exact ⟨_, hexec.trans (by rw [mr4Read_beyond ht (mr4Needs_beyond hf)]), rfl, rfl, rfl⟩

/-- Settles O29, claim by claim: the position served (`wheelServe_serves`) is an unused window that scrubs, a share read, or none of these; and a
read of MR4 rewrites its controller alone (`mr4Read_frame`). -/
theorem controllersServeTheirWheel : Obligations.ControllersServeTheirWheel :=
  ⟨wheelMovesAndUnusedWindowsScrub, shareLineIsReadAtItsWheelPosition, refreshMultiplierFollowsMr4⟩

end Sys2Proof.Safety
end

section
/-! SUPPORT. MERGE (R194, R242 to R245): the reads of the Mixer, the one tile of a BUILD, and the packed tile of a FEED. -/

namespace Sys2Proof.Laws

set_option Elab.async false

open Sys2Proof Sys2Proof.Machine Sys2Proof.Safety

/-! ### Byte strings as arrays -/

/-- The number that two bytes of a string hold. -/
theorem le_two (l : List Byte) (i : Nat) : le ((l.drop i).take 2) = (l.getD i 0).toNat + 256 * (l.getD (i + 1) 0).toNat := by
  have h0 : l.getD i 0 = (l.drop i).getD 0 0 := by simp [List.getD_eq_getElem?_getD]
  have h1 : l.getD (i + 1) 0 = (l.drop i).getD 1 0 := by simp [List.getD_eq_getElem?_getD]
  rw [h0, h1]
  rcases l.drop i with _ | ⟨x, _ | ⟨y, t⟩⟩ <;> rfl

theorem toArray_getD (l : List Byte) (i : Nat) : l.toArray.getD i 0 = l.getD i 0 := by
  simp [Array.getD_eq_getD_getElem?, List.getD_eq_getElem?_getD]

theorem toArrays_getD (ls : List (List Byte)) (i : Nat) : ((ls.map List.toArray).toArray).getD i #[] = (ls.getD i []).toArray := by
  simp [Array.getD_eq_getD_getElem?, List.getD_eq_getElem?_getD]

/-! ### Reads of the Mixer (R176, R194) -/

section
variable {d d' : Device} {c : Context} {cd : Cd} {r : Requester} {a n item done : Nat} {bs : List Byte}

/-- A line that a requester without a package destination reads has 64 bytes. -/
theorem readLine_length (h : d.readLine c cd r none a = .ok bs) : bs.length = 64 := by
  cases hwin : d.windowOf a with
  | none =>
    obtain ⟨_, -, -, -, rfl⟩ := (readLine_ok_iff hwin).1 h
    exact readAs_length
  | some w =>
    unfold Device.readLine at h
    split at h
    · cases h
    · dsimp only at h
      rw [hwin] at h
      cases h

/-- The 64 bytes of a line are those of its read. -/
theorem readBytes_line (ha : a % 64 = 0) (hlt : a < 2 ^ 52) (h : d.readLine c cd r none a = .ok bs) : d.readBytes c cd r a 64 = .ok bs := by
  have hlines : (a + 64 - 1) / 64 - a / 64 + 1 = 1 := by omega
  have hfirst : lineOf a = a := by unfold lineOf; omega
  have haddr : wrap52 (a + 64 * 0) = a := Nat.mod_eq_of_lt hlt
  unfold Device.readBytes
  dsimp only
  rw [if_neg (by decide), hlines, hfirst]
  simp only [List.range_one, List.foldlM_cons, List.foldlM_nil, haddr, h]
  simp [Except.map, bind, Except.bind, pure, Except.pure, List.take_of_length_le (readLine_length h).le]

/-- A run that can be read is read as it stands: no line of it is taken as zeros. -/
theorem softRead_ok (h : d.readBytes c cd .mixer a n = .ok bs) : d.softRead c cd a n = bs := by
  obtain ⟨hread, rfl⟩ := readBytes_ok h
  have hlines : ∀ k ∈ List.range (runLines a n), d.readBytes c cd .mixer (runLine a k) 64 = .ok (lineBytes d c cd .mixer a k) := fun k hk =>
    readBytes_line (by simp only [runLine, lineOf, wrap52]; omega) (Nat.mod_lt _ (by decide)) (hread k (List.mem_range.1 hk))
  unfold Device.softRead
  dsimp only
  rw [← runLines]
  refine congrArg (fun l : List Byte => (l.drop (a - lineOf a)).take n) (List.flatMap_congr fun k hk => ?_)
  rw [← runLine, hlines k hk]

theorem mixRead_ok (h : d.mixRead c cd item done a n = .ok (bs, d')) :
    d.readBytes c cd .mixer a n = .ok bs ∧ d' = d.eccRun c cd .mixer a n := by
  unfold Device.mixRead at h
  dsimp only at h
  split at h
  · next bs' hbs => cases h; exact ⟨hbs, rfl⟩
  · cases h

theorem mixRead_dies (h : d.mixRead c cd item done a n = .ok (bs, d')) : d'.dies = d.dies := by
  obtain ⟨-, rfl⟩ := mixRead_ok h
  exact eccRun_dies

/-- A read counts nothing when no line of memory holds a correctable error. -/
theorem mixRead_clean (hce : d.mem.ceLines = []) (h : d.mixRead c cd item done a n = .ok (bs, d')) : d' = d := by
  obtain ⟨hread, rfl⟩ := mixRead_ok h
  exact eccRun_clean hread fun k _ => by rw [hce]; rfl

/-! ### Runs that can be read (R194) -/

/-- Some runs of bytes can be read by the Mixer as these byte strings. -/
def MixerReads (d : Device) (c : Context) (cd : Cd) (runs : List (Nat × Nat)) (bs : List (List Byte)) : Prop :=
  List.Forall₂ (fun r b => d.readBytes c cd .mixer r.1 r.2 = .ok b) runs bs

theorem MixerReads.soft : ∀ {runs : List (Nat × Nat)} {bs : List (List Byte)}, MixerReads d c cd runs bs → runs.map (fun r => d.softRead c cd r.1 r.2) = bs
  | _, _, .nil => rfl
  | _, _, .cons h t => by rw [List.map_cons, softRead_ok h, MixerReads.soft t]

theorem MixerReads.append {rs rs' : List (Nat × Nat)} {bs bs' : List (List Byte)} (h : MixerReads d c cd rs bs) (h' : MixerReads d c cd rs' bs') :
    MixerReads d c cd (rs ++ rs') (bs ++ bs') := List.rel_append h h'

theorem MixerReads.noneBad : ∀ {runs : List (Nat × Nat)} {bs : List (List Byte)}, MixerReads d c cd runs bs → d.firstBad c cd runs = none
  | _, _, .nil => rfl
  | _, _, .cons h t => by
    unfold Device.firstBad
    rw [List.findSome?_cons, h]
    exact MixerReads.noneBad t

/-- The lines of a transfer whose sources can be read need no source of their own. -/
theorem mixLines_sourceless (a : Nat) (bs : List Byte) (srcs : Nat → Nat → List (Nat × Nat)) :
    (mixLines a bs srcs).map (fun l => { l with srcs := [] }) = mixLines a bs fun _ _ => [] := by
  rw [mixLines, List.map_map]; rfl

/-- A transfer whose sources can be read writes its lines. -/
theorem mixMove_reads {runs : List (Nat × Nat)} {rs : List (List Byte)} {srcs : Nat → Nat → List (Nat × Nat)} (h : MixerReads d c cd runs rs) :
    d.mixMove c cd item runs (mixLines a bs srcs) n
      = (runs.foldl (fun (d : Device) r => d.eccGood c cd r.1 r.2) d).mixPut c cd item (mixLines a bs fun _ _ => []) n := by
  unfold Device.mixMove
  rw [h.noneBad, mixLines_sourceless]
end

/-! ### The tile of a BUILD (R243) -/

/-- Element of row `k` and column `j` of a merged tile, from the blocks that a BUILD reads. -/
def mergedElement (m : BuildCmd) (seed : BitVec 64) (step : Nat) (nib sc a b : List (List Byte)) (k j : Nat) : Nat :=
  let half := fun (l : List Byte) (i : Nat) => le ((l.drop i).take 2)
  let bf := fun (l : List Byte) (i : Nat) => fBf16.decode (half l i)
  let byte := ((nib.getD j []).getD (k / 64 * 32 + k % 64 / 2) 0).toNat
  let w := q4Value (if k % 2 = 0 then byte % 16 else byte / 16) (half (sc.getD j []) (2 * (k / 64)))
  let sum := ((List.range m.r).map fun r =>
    (bf (a.getD (r / 128) []) (2 * (k * groupWidth m.r (r / 128) + r % 128))).mul (bf b.flatten (2 * (r * 128 + j)))).foldl Val.add (.fin false 0 0)
  let draw := srDraw seed step m.tid ((m.first % m.kt * 128 + k) * (m.ct * 128) + m.first / m.kt * 128 + j)
  ((if m.fp16 then fFp16 else fBf16).encode ((roundingOf m.mode draw).getD .nearestEven) (w.add ((fBf16.decode m.s).mul sum))).1

/-- The codes of the first tile of a BUILD, row by row. -/
theorem buildTile_codes (m : BuildCmd) (seed : BitVec 64) (step : Nat) (nib sc a b : List (List Byte)) :
    (buildTile m seed step m.first nib sc a b).map Prod.fst
      = (List.range 16384).map fun n => mergedElement m seed step nib sc a b (n / 128) (n % 128) := by
  unfold buildTile
  rw [List.map_map]
  refine List.map_congr_left fun n _ => ?_
  simp only [Function.comp_apply, mergedElement, toArrays_getD, toArray_getD, le_two]

/-- The bytes of a merged tile, row by row. -/
def mergedBytes (m : BuildCmd) (seed : BitVec 64) (step : Nat) (nib sc a b : List (List Byte)) : List Byte :=
  (List.range 16384).flatMap fun n => bytesLE 2 (mergedElement m seed step nib sc a b (n / 128) (n % 128))

theorem buildTile_bytes (m : BuildCmd) (seed : BitVec 64) (step : Nat) (nib sc a b : List (List Byte)) :
    (buildTile m seed step m.first nib sc a b).flatMap (fun o => bytesLE 2 o.1) = mergedBytes m seed step nib sc a b := by
  rw [← List.flatMap_map Prod.fst (bytesLE 2), buildTile_codes, List.flatMap_map]
  rfl

/-! ### BUILD as a step (R242, R243) -/

section
variable {d d1 : Device} {c : Context} {cd : Cd} {e : QEntry} {m : BuildCmd}

/-- A Mixer command of one tile or item runs it and ends. -/
theorem mixItemsRun_one {f : Device → Nat → Nat → Except Device (Device × Nat × Option Nat)} {v : Nat → Nat} {n : Nat} (he : Fresh e)
    (hf : f d 0 0 = .ok (d1, n, none)) : d.mixItemsRun c e 1 v f = .ran d1 (e.sOf (v n)) true := by
  obtain ⟨-, hprogress, hsvals⟩ := he
  have hitems : e.mixItems = 0 := by rw [QEntry.mixItems, hprogress]; rfl
  have hblocks : e.mixBlocks = 0 := by rw [QEntry.mixBlocks, hprogress]; rfl
  have hcount : e.counted = 0 := by rw [QEntry.counted, hsvals]; rfl
  unfold Device.mixItemsRun
  rw [hitems, hblocks, hcount, mixRun, hf]
  simp [mixRun, mixAnswer]

/-- The first tile of a BUILD whose blocks can be read: the lines read are counted, the merged tile is written, and its conversions are tallied. -/
theorem buildOne_reads {ns ss : List (Nat × Nat)} {nib sc a b : List (List Byte)} (hcols : m.columns m.first 0 128 = ns ++ ss) (hlen : ns.length = 128)
    (hnib : MixerReads d c cd ns nib) (hsc : MixerReads d c cd ss sc) (ha : MixerReads d c cd (m.aRows m.first 0 128) a)
    (hb : MixerReads d c cd [(m.bBase m.first, 256 * m.r)] b)
    (hput : ((ns ++ ss ++ m.aRows m.first 0 128 ++ [(m.bBase m.first, 256 * m.r)]).foldl (fun (d : Device) r => d.eccGood c cd r.1 r.2) d).mixPut c cd 0
      (mixLines (wrap52 m.dst) (mergedBytes m c.seed (d.stepNo c) nib sc a b) fun _ _ => []) 0 = .ok d1) :
    ∃ ms, d.buildOne c cd m 0 = .ok (d1.mixNote cd ms) := by
  have hreads := ((hnib.append hsc).append ha).append hb
  unfold Device.buildOne
  dsimp only
  rw [Nat.add_zero, Nat.mul_zero, Nat.add_zero, hcols, List.take_left' hlen, List.drop_left' hlen, hnib.soft, hsc.soft, ha.soft, hb.soft, buildTile_bytes,
    mixMove_reads hreads, hput]
  exact ⟨_, rfl⟩

/-- A BUILD of one tile whose lines are served and whose tile can be built runs and ends, with the value 1 for its s-register. -/
theorem buildEngine_one {ms : List (Option Meet)} (he : Fresh e) (hmode : d.dies[cd].recField e 1 1 % 4 = 0) (htiles : (d.dies[cd].buildCmd e).tiles = 1)
    (hlast : (d.dies[cd].buildCmd e).first + 1 ≤ (d.dies[cd].buildCmd e).kt * (d.dies[cd].buildCmd e).ct)
    (hserved : d.mixServed c cd [(d.dies[cd].buildCmd e).w, (d.dies[cd].buildCmd e).sc, (d.dies[cd].buildCmd e).a, (d.dies[cd].buildCmd e).b,
      (d.dies[cd].buildCmd e).dst] = true)
    (hone : d.buildOne c cd (d.dies[cd].buildCmd e) 0 = .ok (d1.mixNote cd ms)) : buildEngine cd d c e = .ran (d1.mixNote cd ms) (e.sOf 1) true := by
  unfold buildEngine
  dsimp only
  rw [if_neg (by rw [bits_eq]; simpa using hmode), hserved, if_neg (by decide), htiles, if_neg (Nat.not_lt.2 hlast)]
  exact mixItemsRun_one (v := fun _ => 1) he (by rw [hone]; rfl)
end

/-! ### The packed tile of a FEED (R244) -/

/-- Offset and width of the block of a pack-list entry. -/
def packOff (v : Nat) : Nat := v / 2 ^ 52 % 16 * 8
def packWid (v : Nat) : Nat := v / 2 ^ 56 % 32 * 8

theorem packOff_eq (v : Nat) : bits v 55 52 * 8 = packOff v := by rw [bits_eq]; rfl
theorem packWid_eq (v : Nat) : bits v 60 56 * 8 = packWid v := by rw [bits_eq]; rfl

/-- A list of one entry of a legal place and width breaks no rule. -/
theorem packFault_single {v : Nat} (hwid : 0 < packWid v) (hin : packOff v + packWid v ≤ 128) : packFault [v] = none := by
  have h0 : packWid v ≠ 0 := Nat.ne_of_gt hwid
  have h1 : ¬ 128 < packWid v := by omega
  have h2 : ¬ 128 < packOff v + packWid v := by omega
  simp [packFault, packOff_eq, packWid_eq, h0, h1, h2]

/-- The tile that a FEED makes of one block. -/
def packedTile (v : Nat) (block : List Byte) : WTile :=
  { mixer := true, k := 128, transposed := false, elems := packTile [v] [block], scales := [] }

/-- Elements of a tile packed from one column block. -/
theorem packedTile_column {v k j : Nat} {block : List Byte} (hcol : v / 2 ^ 61 % 2 = 0) (hk : k < 128) (hj : j < 128) :
    (packedTile v block).elems.getD (128 * k + j) 0 = if packOff v ≤ j ∧ j < packOff v + packWid v
      then BitVec.ofNat 16 (le ((block.drop (2 * (k * packWid v + (j - packOff v)))).take 2)) else 0 := by
  have hn : 128 * k + j < 128 * 128 := by omega
  have hdiv : (128 * k + j) / 128 = k := by omega
  have hmod : (128 * k + j) % 128 = j := by omega
  have horient : bits v 61 61 = 0 := by rw [bits_eq]; exact hcol
  simp only [packedTile, packTile, List.getD_eq_getElem?_getD, List.getElem?_map, List.getElem?_range hn, Option.map_some, Option.getD_some, hdiv, hmod,
    List.zip_cons_cons, List.zip_nil_right, List.map_cons, List.map_nil, packOff_eq, packWid_eq, horient, List.find?_cons, List.find?_nil]
  by_cases h : packOff v ≤ j ∧ j < packOff v + packWid v
  · have htest : (decide (packOff v ≤ j) && decide (j < packOff v + packWid v)) = true := by simpa using h
    simp only [if_true, htest, if_pos h, le_two, toArray_getD]
  · have htest : (decide (packOff v ≤ j) && decide (j < packOff v + packWid v)) = false := by simpa using h
    simp only [if_true, htest, if_neg h]

/-! ### FEED as a step (R244, R245) -/

section
variable {d d1 d2 : Device} {c : Context} {cd : Cd} {e : QEntry}

/-- A die after a FEED has placed a tile in an MA. -/
def tilePlaced (ma : MaNo) (e : QEntry) (t : WTile) (x : Die) : Die :=
  (x.modMa ma fun m => { m with weights := m.weights ++ [t] }).modQueue 9 fun l => setEntry l e.no fun e => { e with progress := e.progress + 1 }

theorem field_whole {list : List Byte} {n : Nat} (h : list.length = n) : field list 0 n = le list := by
  rw [field, List.drop_zero, List.take_of_length_le h.le]

theorem except_ok_bind {ε α β : Type} (a : α) (f : α → Except ε β) : (Except.ok a >>= f) = f a := rfl

/-- The first tile of a FEED, from one block of a legal place and width, is placed. -/
theorem feedOne_single {list block : List Byte} (hcount : d.dies[cd].recField e 2 1 / 4 % 16 = 0)
    (hlist : d.mixRead c cd 0 0 (wrap52 (d.dies[cd].recAddr e 8)) 8 = .ok (list, d1)) (hlen : list.length = 8)
    (hwid : 0 < packWid (le list)) (hin : packOff (le list) + packWid (le list) ≤ 128)
    (hblock : ∀ done, d1.mixRead c cd 0 done (le list % 2 ^ 52) (256 * packWid (le list)) = .ok (block, d2)) :
    d.feedOne c cd e 0 = .ok (d2.modDie cd (tilePlaced (idx 4 (d.dies[cd].recField e 2 1 % 4)) e (packedTile (le list) block))) := by
  have hone : bits (d.dies[cd].recField e 2 1) 5 2 = 0 := by rw [bits_eq]; exact hcount
  have hma : bits (d.dies[cd].recField e 2 1) 1 0 = d.dies[cd].recField e 2 1 % 4 := by rw [bits_eq, Nat.pow_zero, Nat.div_one]; rfl
  unfold Device.feedOne
  dsimp only
  rw [hone, hma]
  simp only [Nat.zero_add, Nat.mul_zero, Nat.mul_one, Nat.add_zero, hlist, except_ok_bind, List.range_one, List.map_cons, List.map_nil,
    field_whole hlen, packFault_single hwid hin, List.foldlM_cons, List.foldlM_nil, packWid_eq, Nat.reduceMul, hblock]
  rfl

/-- A FEED of one tile whose MA has room and whose lines are served places it and is done. -/
theorem feedTiles_one (n : Nat) (hroom : 0 < d.dies[cd].feedRoom (idx 4 (d.dies[cd].recField e 2 1 % 4))) (hserved : d.feedServed c cd e 0 = true)
    (hone : d.feedOne c cd e 0 = .ok d1) : Device.feedTiles c cd e 1 (n + 1) 0 d = .ok (d1, true) := by
  have hma : bits (d.dies[cd].recField e 2 1) 1 0 = d.dies[cd].recField e 2 1 % 4 := by rw [bits_eq, Nat.pow_zero, Nat.div_one]; rfl
  unfold Device.feedTiles
  rw [if_neg (by decide), hma, if_neg (Nat.ne_of_gt hroom), hserved, if_neg (by decide), hone]
  cases n <;> rfl

theorem feedEngine_one (hmode : d.dies[cd].recField e 1 1 % 4 = 1) (htiles : d.dies[cd].mergeTiles e = 1)
    (hroom : 0 < d.dies[cd].feedRoom (idx 4 (d.dies[cd].recField e 2 1 % 4))) (hserved : d.feedServed c cd e 0 = true)
    (hone : d.feedOne c cd e 0 = .ok d1) : feedEngine cd d c e = .ran d1 (e.sOf 1) true := by
  have hlimit : d.feedLimit c = (if d.stopping c then 0 else 9) + 1 := by unfold Device.feedLimit; split <;> rfl
  unfold feedEngine
  dsimp only
  rw [if_neg (by rw [bits_eq, Nat.pow_zero, Nat.div_one]; exact fun h => h hmode), htiles, hlimit, feedTiles_one _ hroom hserved hone]

/-- With no FEED in progress, the head command of the queue starts. -/
theorem mergeFeed_starts (h : ∀ q ∈ d.dies[cd].queues[(9 : QueueId)], ¬ (q.started = true ∧ q.done = false ∧ q.stopped = false ∧ cwOp q.w = 1)) :
    d.mergeFeed cd = d.startHead cd 9 1 (feedEngine cd) := by
  have hnone : (d.dies[cd].queues[(9 : QueueId)].find? fun e => e.started && !e.done && !e.stopped && cwOp e.w == 1
      && bits (d.dies[cd].recField e 1 1) 1 0 == 1) = none := List.find?_eq_none.2 fun q hq hrun => h q hq <| by
    simp only [Bool.and_eq_true, Bool.not_eq_true', beq_iff_eq] at hrun
    obtain ⟨⟨⟨⟨hs, hd⟩, hst⟩, hop⟩, -⟩ := hrun
    exact ⟨hs, hd, hst, hop⟩
  unfold Device.mergeFeed
  dsimp only
  rw [hnone]
  split
  · next h => cases h
  · rfl

/-- A FEED's tile stands last in the weight slots of its MA. -/
theorem tilePlaced_weights (ma : MaNo) (t : WTile) (x : Die) : (tilePlaced ma e t x).mas[ma].weights = x.mas[ma].weights ++ [t] :=
  congrArg Ma.weights (upd_self x.mas ma _)
end

end Sys2Proof.Laws
end

section
/-! MERGE BUILD stores the merged tile, and FEED packs its tile (O16). -/

namespace Sys2Proof.Safety

set_option Elab.async false

open Sys2Proof Sys2Proof.Machine Sys2Proof.Laws

theorem mergeBuildStoresTheMergedTile : Sys2Proof.Claims.MergeBuildStoresTheMergedTile := by
  intro s cd c e nib sc a b d1 x m kt ct din row half bf element nibRuns scRuns aRuns bRuns readAll hstart hfresh hmode htiles hlast hserved hnib hsc ha hb hput
  have hcols : m.columns m.first 0 128 = nibRuns ++ scRuns := by
    simp only [BuildCmd.columns, Nat.zero_add]
    rfl
  have harows : m.aRows m.first 0 128 = aRuns := by
    simp only [BuildCmd.aRows, Nat.add_zero]
    rfl
  rw [← harows] at ha hput
  have hlen : nibRuns.length = 128 := by rw [List.length_map, List.length_range]
  obtain ⟨ms, hone⟩ := buildOne_reads (m := m) (d := s.dev) hcols hlen hnib hsc ha hb hput
  have hexec : exec (.mergeBuild cd) s = .next { s with dev := s.dev.startHead cd 9 1 (buildEngine cd) } := rfl
  rw [hexec, startHead_ran hstart (buildEngine_one hfresh hmode htiles hlast hserved hone)]
  have hnote : ∀ o : Cd, o ≠ cd → (d1.mixNote cd ms).dies[o] = d1.dies[o] := fun o ho => modDie_other _ _ (Ne.symm ho)
  exact ⟨_, rfl, rfl, doneIn_markStart, fun o ho => (modDie_other _ _ (Ne.symm ho)).trans (hnote o ho)⟩

theorem mergeFeedPacksItsTile : Sys2Proof.Claims.MergeFeedPacksItsTile := by
  intro s cd c e list block d1 d2 x f ma v off wid hstart hmode htiles hcount hroom hidle hserved hlist hlen hcol hwid hin hblock
  have hone := feedOne_single hcount hlist hlen hwid hin hblock
  have hexec : exec (.mergeFeed cd) s = .next { s with dev := s.dev.startHead cd 9 1 (feedEngine cd) } := by
    rw [← mergeFeed_starts hidle]; rfl
  rw [hexec, startHead_ran hstart (feedEngine_one hmode htiles hroom hserved hone)]
  have hdies : d2.dies = s.dev.dies := (mixRead_dies (hblock 0)).trans (mixRead_dies hlist)
  refine ⟨_, packedTile v block, rfl, ?_, rfl, rfl, fun k hk j hj => packedTile_column hcol hk hj, rfl, fun hce => ?_, startedIn_markStart⟩
  · dsimp only
    rw [modDie_self, markStart_mas, modDie_self, tilePlaced_weights, hdies]
  · have h1 : d1 = s.dev := mixRead_clean hce hlist
    have h2 : d2 = s.dev := h1 ▸ mixRead_clean (h1 ▸ hce) (hblock 0)
    rw [← h2]
    rfl

/-- Settles O16, claim by claim: the tile of a BUILD is that of `mergedElement` (`buildTile_bytes`), and that of a FEED is packed column by
column (`packedTile_column`). -/
theorem mergedTilesAreBuiltAndFed : Obligations.MergedTilesAreBuiltAndFed := ⟨mergeBuildStoresTheMergedTile, mergeFeedPacksItsTile⟩

end Sys2Proof.Safety
end

section
/-! SUPPORT. WEIGHTIN and the placement of chunk tiles (R219). -/

namespace Sys2Proof.Laws

set_option Elab.async false

open Sys2Proof Sys2Proof.Machine Sys2Proof.Safety

section
variable {d : Device} {x : Die} {cd : Cd} {q : QueueId} {c : Context} {e : QEntry} {svals : List (Fin 16 × BitVec 64)} {done : Bool}

@[simp] theorem markStart_weightIn : (x.markStart q e svals done).weightIn = x.weightIn := by
  obtain ⟨l, qs, h⟩ := queuesOnly_markStart (q := q) (e := e) (svals := svals) (done := done) x
  exact (congrArg Die.weightIn h :)

/-- A WEIGHTIN of no tiles has written its last result when it starts. -/
theorem weightinEngine_none (h : d.dies[cd].weightCount e = 0) : weightinEngine cd d c e = .ran d [] true := if_pos h

/-- Any other takes up its count. -/
theorem weightinEngine_some (h : d.dies[cd].weightCount e ≠ 0) : weightinEngine cd d c e =
    .ran (d.modDie cd fun x => { x with weightIn := { left := d.dies[cd].weightCount e, next := 0 } }) [] false := if_neg h

/-- A die on which a chunk tile has gone into a slot of its MA: the WEIGHTIN in hand, the receive buffer after the last chunk tile of a Course tile, and
the queues `qs`. -/
def chunkPlaced (ma : MaNo) (w : WTile) (last : Bool) (qs : Vector (List QEntry) 12) (x : Die) : Die :=
  { x with
    mas := upd x.mas ma fun m => { m with weights := m.weights ++ [w] }
    weightIn := { left := if last then x.weightIn.left - 1 else x.weightIn.left, next := x.weightIn.next + 1 }
    course := { x.course with recv := if last then x.course.recv.tail else x.course.recv }
    queues := qs }

/-- The chunk tile at hand goes into a free slot; the command is done with the last Course tile of its count. -/
theorem placeChunk_eq {ma : MaNo} {w : WTile} {last : Bool} (hready : x.readyChunk = some (e, ma, w, last)) (hroom : x.mas[ma].weights.length < 10) :
    ∃ qs : Vector (List QEntry) 12, x.placeChunk = chunkPlaced ma w last qs x
      ∧ ((if last then x.weightIn.left - 1 else x.weightIn.left) = 0 → ∀ b ∈ qs[(5 : QueueId)], b.no = e.no → b.done = true) := by
  unfold Die.placeChunk
  rw [hready]
  dsimp only
  rw [if_neg (Nat.not_le.2 hroom)]
  by_cases hleft : (if last then x.weightIn.left - 1 else x.weightIn.left) = 0
  · rw [if_pos hleft]
    refine ⟨_, rfl, fun _ b hb hn => ?_⟩
    rw [upd_self] at hb
    obtain ⟨a, -, -, rfl⟩ := eq_of_mem_setEntry hb hn
    rfl
  · rw [if_neg hleft]
    exact ⟨_, rfl, fun h => absurd h hleft⟩

theorem device_placeChunk_eq (hres : d.residentOf cd = some c) (hfrozen : d.dies[cd].frozen = false) (hheld : d.enginesHeld c = false) :
    d.placeChunk cd = d.modDie cd Die.placeChunk := by
  simp only [Device.placeChunk, hres, hfrozen, hheld]
  rfl
end

end Sys2Proof.Laws
end

section
/-! WEIGHTIN takes its tiles, and a tile in hand is placed (O15). -/

namespace Sys2Proof.Safety

set_option Elab.async false

open Sys2Proof Sys2Proof.Machine Sys2Proof.Laws

/-- Settles O15: a start takes up the count or has nothing to take (`weightinEngine_none`, `weightinEngine_some`), and a placed tile is that of
`placeChunk_eq`. -/
theorem weightinTakesTilesAndTheyArePlaced : Obligations.WeightinTakesTilesAndTheyArePlaced := by
  intro s cd c e x
  refine ⟨fun hstart => ?_, fun ma w last hres hfrozen hheld hready hroom => ?_⟩
  · have hexec : exec (.weightin cd) s = .next { s with dev := s.dev.startHead cd 5 2 (weightinEngine cd) } := rfl
    by_cases hcount : x.weightCount e = 0
    · rw [hexec, startHead_ran hstart (weightinEngine_none hcount)]
      refine ⟨_, rfl, fun _ => ⟨?_, startedIn_markStart⟩, fun h => absurd hcount h, ?_, rfl⟩
      · rw [modDie_self, markStart_weightIn]
      · rw [modDie_self, markStart_mas]
    · rw [hexec, startHead_ran hstart (weightinEngine_some hcount)]
      refine ⟨_, rfl, fun h => absurd h hcount, fun _ => ⟨?_, startedIn_markStart⟩, ?_, rfl⟩
      · rw [modDie_self, markStart_weightIn, modDie_self]
      · rw [modDie_self, markStart_mas, modDie_self]
  · obtain ⟨qs, hplace, hdone⟩ := placeChunk_eq hready hroom
    have hexec : exec (.chunkTilePlace cd) s = .next { s with dev := s.dev.modDie cd Die.placeChunk } := by
      rw [← device_placeChunk_eq hres hfrozen hheld]; rfl
    have hdie := (modDie_self s.dev cd Die.placeChunk).trans hplace
    refine ⟨_, hexec, ?_, ?_, fun p hp => ?_, fun hl => ?_, fun hl => ?_, fun hl hone => ?_, rfl, fun o ho => modDie_other _ _ (Ne.symm ho)⟩
    · rw [hdie]; exact congrArg Ma.weights (upd_self ..)
    · rw [hdie]; rfl
    · rw [hdie]; exact upd_other _ _ (Ne.symm hp)
    · rw [hdie, hl]; exact ⟨rfl, rfl⟩
    · rw [hdie, hl]; exact ⟨rfl, rfl⟩
    · rw [hdie]
      exact hdone (by rw [if_pos hl]; exact Nat.sub_eq_zero_of_le (Nat.le_of_eq hone))

end Sys2Proof.Safety
end

section
/-! SUPPORT. The Course's counter, flags and rounds (R202 to R207, R211, R227, R228): START markers, READY and PAUSE flags, and what the start of a round
leaves beside the lines that it sends. -/

namespace Sys2Proof.Laws

set_option Elab.async false

open Sys2Proof Sys2Proof.Machine Sys2Proof.Safety

/-! ### What depends on the contexts alone -/

section
variable {d : Device} {cd : Cd} {c : Context}

theorem residentOf_congr {d' : Device} (h : d'.ctxs = d.ctxs) (o : Cd) : d'.residentOf o = d.residentOf o := by
  unfold Device.residentOf; rw [h]

/-- A Course that no resume waits for is as it is (R451). -/
theorem settle_unchanged (hres : d.residentOf cd = some c) (hdue : c.resumeDue = false) : d.settle cd = d := by
  simp [Device.settle, hres, hdue]

theorem not_awaitsStart {k : Course} (hcounter : k.counter.isSome = true) (hresume : k.resume = none) : k.awaitsStart = false := by
  simp [Course.awaitsStart, hresume, hcounter]

theorem notPaused_of {k : Course} {q : Nat} (h : k.pause = none ∨ ∃ u, k.pause = some u ∧ q < u) : k.notPaused q = true := by
  rcases h with h | ⟨u, h, hu⟩
  · rw [Course.notPaused, h]
  · rw [Course.notPaused, h]; exact decide_eq_true hu

/-- The counter may reach a value when no flag that is missing holds it below (R205). -/
theorem mayReach_iff {k : Course} {p : Plan} {v : Nat} : k.mayReach p v = true ↔
    (∀ f, p.startOf k.readyNo = some f → v ≤ f - 1024) ∧ ∀ f, p.startOf (k.flagsTo p.m) = some f → v ≤ f - 512 := by
  unfold Course.mayReach
  rw [Bool.and_eq_true]
  refine and_congr ?_ ?_
  · cases p.startOf k.readyNo <;> simp
  · cases p.startOf (k.flagsTo p.m) <;> simp

/-! ### START markers (R202, R228) -/

variable {p : Plan}

theorem startMarker_sets (hres : d.residentOf cd = some c) (hplan : c.plan = some p) (hrun : c.runsNow = true) (hpos : c.posOf cd ≠ 0)
    (hawait : d.dies[cd].course.awaitsStart = true) (hsent : d.dies[c.cdAt 0].course.awaitsStart = false) :
    d.startMarker cd = d.setCounter c p cd := by
  simp only [Device.startMarker, hres, hplan, hrun, hawait, hsent]
  rw [if_pos]
  simpa using hpos

/-- The Course of a CD whose counter a run start sets. -/
theorem setCounter_course (hresume : d.dies[cd].course.resume = none) : (d.setCounter c p cd).dies[cd].course = { d.dies[cd].course with
    counter := some (64 * hopDist p.m (c.posOf cd)), round := 0, readyNo := 0, flagNo := Vector.replicate 16 0, pause := none, adDue := 0 } := by
  refine (congrArg Die.course (modDie_self ..)).trans ?_
  dsimp only
  rw [hresume]

theorem setCounter_wheel (i : Fin 2) : (d.setCounter c p cd).lpcs[cd][i] = { d.lpcs[cd][i] with wheelPos := 0 } := by
  unfold Device.setCounter
  dsimp only
  rw [upd_self, each_get]
  rfl

theorem setCounter_others {o : Cd} (h : o ≠ cd) :
    (d.setCounter c p cd).dies[o] = d.dies[o] ∧ (d.setCounter c p cd).lpcs[o] = d.lpcs[o] :=
  ⟨modDie_other _ _ (Ne.symm h), upd_other _ _ (Ne.symm h)⟩

/-! ### READY and PAUSE flags (R204, R205, R227) -/

/-- At the counter value of a READY, which neither a pause, nor a missing flag, nor a round not yet started keeps the counter below, a CD that is ready
sends the flag. -/
theorem readySend_eq {v : Nat} (hres : d.residentOf cd = some c) (hplan : c.plan = some p) (hstart : p.startOf d.dies[cd].course.readyNo = some v)
    (hcounter : d.dies[cd].course.counter.isSome = true) (hresume : d.dies[cd].course.resume = none) (hfrozen : d.dies[cd].frozen = false)
    (hpause : d.dies[cd].course.notPaused d.dies[cd].course.readyNo = true)
    (hflags : ∀ f, p.startOf (d.dies[cd].course.flagsTo p.m) = some f → v - 1024 ≤ f - 512)
    (hround : ∀ f, p.startOf d.dies[cd].course.round = some f → v - 1024 ≤ f) :
    d.readySend cd = if d.dies[cd].course.ready p (c.posOf cd) d.dies[cd].course.readyNo = true then d.modCourse cd fun k => { k with
        counter := some (max (k.counter.getD 0) (v - 1024)), readyNo := k.readyNo + 1, flagNo := k.flagNo.set (idx 16 (c.posOf cd)) (k.readyNo + 1),
        adDue := k.adDue + p.delivers (c.posOf cd) k.readyNo } else d := by
  unfold Device.readySend
  simp only [hres, hplan, hstart, hcounter, hresume, hfrozen, hpause]
  have hsend : ∀ {a b r : Bool} {x y : Device}, a = true → b = true →
      (if (true && Option.isNone (none : Option Nat) && !false && (a && b) && true && r) = true then x else y) = if r = true then x else y := by
    rintro _ _ r x y rfl rfl
    rfl
  refine hsend ?_ ?_
  · split
    · next f hf => exact decide_eq_true (hflags f hf)
    · rfl
  · split
    · next f hf => exact decide_eq_true (hround f hf)
    · rfl

theorem readyArrival_eq {o : Fin 16} (hres : d.residentOf cd = some c) (harc : o.val < c.m) (hother : o.val ≠ c.posOf cd)
    (hcounter : d.dies[cd].course.counter.isSome = true) (hsent : d.dies[cd].course.flagNo[o] < d.dies[c.cdAt o.val].course.readyNo) :
    d.readyArrival cd o = d.modCourse cd fun k => { k with flagNo := k.flagNo.set o (k.flagNo[o] + 1) } := by
  simp only [Device.readyArrival, hres]
  exact if_pos ⟨harc, hother, hcounter, hsent⟩

theorem pauseArrival_eq {q : Nat} (hres : d.residentOf cd = some c) (hdue : c.resumeDue = false) (hsent : d.dies[c.cdAt 0].course.pause = some q)
    (hstarted : d.dies[cd].course.awaitsStart = false) : d.pauseArrival cd q = d.modCourse cd fun k => { k with pause := some q } := by
  simp only [Device.pauseArrival, hres]
  rw [if_pos ⟨hsent, by rw [hstarted]; rfl⟩]
  exact settle_unchanged hres hdue
end

/-! ### Lines that depart (R207 to R209, R213) -/

/-- A device whose Courses differ in the lines on their links and in the adapter lines still staged alone. -/
structure LinesMoved (d d' : Device) : Prop where
  mem : d'.mem = d.mem
  ctxs : d'.ctxs = d.ctxs
  course : ∀ o : Cd, ∃ cw ccw out, d'.dies[o].course = { d.dies[o].course with inCw := cw, inCcw := ccw, adOut := out }

namespace LinesMoved
section
variable {d d' : Device} {c : Context} {cd : Cd}

theorem refl (d : Device) : LinesMoved d d := ⟨rfl, rfl, fun _ => ⟨_, _, _, rfl⟩⟩

/-- A Course rewritten within what may change. -/
theorem modCourse {f : Course → Course} (h : LinesMoved d d') (hf : ∀ k, ∃ cw ccw out, f k = { k with inCw := cw, inCcw := ccw, adOut := out }) :
    LinesMoved d (d'.modCourse cd f) where
  mem := h.mem
  ctxs := h.ctxs
  course o := by
    obtain ⟨cw, ccw, out, ho⟩ := h.course o
    by_cases hcd : cd = o
    · subst hcd
      obtain ⟨cw', ccw', out', hk⟩ := hf d'.dies[cd].course
      refine ⟨cw', ccw', out', (congrArg Die.course (modDie_self ..)).trans ?_⟩
      dsimp only
      rw [hk, ho]
    · exact ⟨cw, ccw, out, (congrArg Die.course (modDie_other _ _ hcd)).trans ho⟩

theorem putLine {pos : Nat} {l : CLine} (h : LinesMoved d d') : LinesMoved d (d'.putLine c pos l) := by
  unfold Device.putLine
  split
  · exact h
  · refine h.modCourse fun k => ?_
    split
    · exact ⟨_, _, _, rfl⟩
    · exact ⟨_, _, _, rfl⟩

theorem foldl {α : Type} {l : List α} {f : Device → α → Device} (h : LinesMoved d d') (hf : ∀ d' a, LinesMoved d d' → LinesMoved d (f d' a)) :
    LinesMoved d (l.foldl f d') := foldl_keeps (r := LinesMoved d) hf l h

theorem emitTile {p : Plan} {pos q : Nat} {t : CTile} (h : LinesMoved d d') : LinesMoved d (d'.emitTile c p pos q t) :=
  h.foldl fun _ _ h => h.putLine.putLine

theorem emitEntry {p : Plan} {q i : Nat} {a : AEntry} (h : LinesMoved d d') : LinesMoved d (d'.emitEntry c p cd q i a) :=
  (h.foldl fun _ _ h => h.putLine).modCourse fun _ => ⟨_, _, _, rfl⟩
end
end LinesMoved

/-! ### Rounds (R203, R205, R207, R211) -/

/-- The place of an owner's tile of a round in the receive buffer of a position: the own tile whole, when it is read. -/
def receivePlace (k : Course) (pos q : Nat) (r : Nat × Nat) : CTile :=
  if r.1 = pos then (k.out.find? fun t => t.round == q).getD { owner := pos, round := q, lines := [] } else { owner := r.1, round := r.2, lines := [] }

/-- A Course whose round `q` starts at the counter value `v`, but for the lines that depart. -/
def roundBegun (p : Plan) (pos q v : Nat) (k : Course) : Course :=
  { k with counter := some (max (k.counter.getD 0) v), round := q + 1, lead := none, recv := k.recv ++ (p.receipts pos q).map (receivePlace k pos q),
           out := k.out.filter fun t => t.round ≠ q, fwd := k.fwd.filter fun l => l.round + l.hop - 1 ≠ q }

section
variable {d : Device} {c : Context} {p : Plan} {cd : Cd} {q v : Nat}

/-- The start of a round is `roundBegun`, and then lines depart. -/
theorem startRound_linesMoved : LinesMoved (d.modCourse cd (roundBegun p (c.posOf cd) q v)) (d.startRound c p cd q v) := by
  have h0 : LinesMoved (d.modCourse cd (roundBegun p (c.posOf cd) q v)) (d.modCourse cd (roundBegun p (c.posOf cd) q v)) := .refl _
  unfold Device.startRound
  refine LinesMoved.foldl (LinesMoved.foldl ?_ fun _ _ h => h.putLine) fun _ _ h => h.emitEntry
  split
  · exact h0.emitTile
  · exact h0

theorem roundStart_starts (hres : d.residentOf cd = some c) (hplan : c.plan = some p) (hdue : c.resumeDue = false)
    (hstart : p.startOf d.dies[cd].course.round = some v) (hcounter : d.dies[cd].course.counter.isSome = true)
    (hresume : d.dies[cd].course.resume = none) (hfrozen : d.dies[cd].frozen = false) (hpause : d.dies[cd].course.notPaused d.dies[cd].course.round = true)
    (hreach : d.dies[cd].course.mayReach p v = true) : d.roundStart cd = d.startRound c p cd d.dies[cd].course.round v := by
  simp only [Device.roundStart, hres, hplan, hstart, hcounter, hresume, hfrozen, hpause, hreach]
  exact settle_unchanged ((residentOf_congr startRound_linesMoved.ctxs cd).trans hres) hdue

/-- A round whose start the counter may not reach does not start. -/
theorem roundStart_held (hres : d.residentOf cd = some c) (hplan : c.plan = some p) (hstart : p.startOf d.dies[cd].course.round = some v)
    (hreach : d.dies[cd].course.mayReach p v = false) : d.roundStart cd = d := by
  simp only [Device.roundStart, hres, hplan, hstart, hreach]
  rw [if_neg]
  simp
end

end Sys2Proof.Laws
end

section
/-! START markers, READY and PAUSE flags, and the start of a round (O27). -/

namespace Sys2Proof.Safety

set_option Elab.async false

open Sys2Proof Sys2Proof.Machine Sys2Proof.Laws

theorem startMarkerSetsTheCounter : Sys2Proof.Claims.StartMarkerSetsTheCounter := by
  intro s cd c p x pos hres hplan hrun hpos hcounter hresume hsent
  have hawait : x.course.awaitsStart = true := by rw [Course.awaitsStart, hcounter]; rfl
  have hexec : exec (.startMarker cd) s = .next { s with dev := s.dev.setCounter c p cd } := by
    rw [← startMarker_sets hres hplan hrun hpos hawait hsent]; rfl
  exact ⟨_, hexec, setCounter_course hresume, setCounter_wheel, fun _ => setCounter_others, rfl, rfl⟩

theorem readyAndPauseFlagsTravel : Sys2Proof.Claims.ReadyAndPauseFlagsTravel := by
  intro s cd c p k pos only hres hplan
  refine ⟨fun q v hq hstart hcounter hresume hfrozen hpause hflags hround => ?_, fun o harc hother hcounter hsent => ?_,
    fun q hsent hdue hcounter hresume => ?_⟩
  · subst hq
    have hexec : exec (.readySend cd) s = .next { s with dev := s.dev.readySend cd } := rfl
    rw [readySend_eq hres hplan hstart hcounter hresume hfrozen (notPaused_of hpause) hflags hround] at hexec
    refine ⟨fun hready => ?_, fun hready => ?_⟩
    · have hsend : s.dev.dies[cd].course.ready p (c.posOf cd) s.dev.dies[cd].course.readyNo = true := hready
      rw [if_pos hsend] at hexec
      exact ⟨_, hexec, rfl⟩
    · have hwait : s.dev.dies[cd].course.ready p (c.posOf cd) s.dev.dies[cd].course.readyNo = false := hready
      rw [hexec, if_neg (Bool.eq_false_iff.1 hwait)]
  · have hexec : exec (.readyArrival cd o) s = .next { s with dev := s.dev.readyArrival cd o } := rfl
    rw [readyArrival_eq hres harc hother hcounter hsent] at hexec
    exact ⟨_, hexec, rfl⟩
  · have hexec : exec (.pauseArrival cd q) s = .next { s with dev := s.dev.pauseArrival cd q } := rfl
    rw [pauseArrival_eq hres hdue hsent (not_awaitsStart hcounter hresume)] at hexec
    exact ⟨_, hexec, rfl⟩

theorem roundStartsAtItsScheduledValue : Sys2Proof.Claims.RoundStartsAtItsScheduledValue := by
  intro s cd c p v k hres hplan hdue hstart
  have hexec : exec (.roundStart cd) s = .next { s with dev := s.dev.roundStart cd } := rfl
  refine ⟨fun hcounter hresume hfrozen hpause hready hflags => ?_, fun f hf hlate => ?_⟩
  · rw [roundStart_starts hres hplan hdue hstart hcounter hresume hfrozen (notPaused_of hpause) (mayReach_iff.2 ⟨hready, hflags⟩)] at hexec
    have hmoved : LinesMoved _ (s.dev.startRound c p cd k.round v) := startRound_linesMoved
    obtain ⟨cw, ccw, out, hcourse⟩ := hmoved.course cd
    rw [Device.modCourse, modDie_self] at hcourse
    refine ⟨_, hexec, ?_, hmoved.mem, hmoved.ctxs⟩
    dsimp only
    rw [hcourse]
    refine ⟨rfl, rfl, rfl, ⟨_, rfl, ?_⟩, rfl, rfl⟩
    rw [List.map_map]
    refine List.map_congr_left fun r _ => ?_
    change (fun b : CTile => (b.owner, b.round)) (receivePlace k (c.posOf cd) k.round r) = _
    unfold receivePlace
    split
    · cases k.out.find? fun b => b.round == k.round <;> rfl
    · rfl
  · have hheld : k.mayReach p v = false :=
      Bool.eq_false_iff.2 fun h => Nat.not_le.2 hlate ((mayReach_iff.1 h).2 f hf)
    rw [hexec, roundStart_held hres hplan hstart hheld]

/-- Settles O27, claim by claim: a START marker sets the counter (`setCounter_course`), flags are sent and arrive (`readySend_eq`, `readyArrival_eq`,
`pauseArrival_eq`), and a round starts as `roundBegun` says (`startRound_linesMoved`). -/
theorem startMarkersFlagsAndRounds : Obligations.StartMarkersFlagsAndRounds :=
  ⟨startMarkerSetsTheCounter, readyAndPauseFlagsTravel, roundStartsAtItsScheduledValue⟩

end Sys2Proof.Safety
end

section
/-! SUPPORT. Ladle lines on the Course (R216, R318 to R320): the ways of streams along an arc, a line handed on, and what the return of line credits
leaves. -/

namespace Sys2Proof.Laws

set_option Elab.async false

open Sys2Proof Sys2Proof.Machine Sys2Proof.Safety

/-! ### The ways of streams along an arc (R302, R319) -/

section
variable {d : Device} {c : Context} {cd : Cd} {m pos level n : Nat} {down : Bool}

theorem onArc_of_residentOf (h : d.residentOf cd = some c) : c.onArc cd = true := by
  have hfound := List.find?_some h
  rw [Bool.and_eq_true] at hfound
  exact hfound.2

theorem posOf_lt (h : c.onArc cd = true) : c.posOf cd < c.m := by
  simp only [Context.onArc, Bool.and_eq_true, decide_eq_true_eq] at h
  unfold Context.posOf
  omega

/-- Another position of the arc is another CD. -/
theorem cdAt_ne (hfit : c.first + c.m ≤ 16) (hn : n < c.m) (hne : n ≠ c.posOf cd) : c.cdAt n ≠ cd := by
  intro he
  have hval : (c.first + n) % 16 = cd.val := congrArg Fin.val he
  rw [Nat.mod_eq_of_lt (by omega)] at hval
  exact hne (by unfold Context.posOf; omega)

theorem pow2_pos (n : Nat) : 0 < pow2 n := by rw [pow2_eq]; exact Nat.two_pow_pos n

/-- The sender of a stream that ends at a position is another position of the arc. -/
theorem ladleSource_other {src : Nat} (h : ladleSource m pos level down = some src) (hpos : pos < m) : src < m ∧ src ≠ pos := by
  have hp := pow2_pos (level - 1)
  cases down with
  | true =>
    obtain ⟨⟨h0, -⟩, he⟩ := Option.ite_none_right_eq_some.1 h
    cases he
    omega
  | false =>
    obtain ⟨⟨-, hm⟩, he⟩ := Option.ite_none_right_eq_some.1 h
    cases he
    omega

/-- A stream leaves a position toward the next one up the arc when it goes down, else toward the next one down the arc. -/
theorem ladleTarget_next {dest : Nat} (h : ladleTarget m pos level down = some dest) (hpos : pos < m) :
    nextPos m pos down = some (if down then pos + 1 else pos - 1) := by
  have hp := pow2_pos (level - 1)
  unfold nextPos
  cases down with
  | true =>
    obtain ⟨⟨-, hnext⟩, -⟩ := Option.ite_none_right_eq_some.1 h
    simp only [reduceIte]
    by_cases h16 : m = 16
    · rw [if_pos h16]; exact congrArg some (Nat.mod_eq_of_lt (by omega))
    · rw [if_neg h16]; exact if_pos (by omega)
  | false =>
    obtain ⟨⟨h0, -⟩, -⟩ := Option.ite_none_right_eq_some.1 h
    simp only [Bool.false_eq_true, reduceIte]
    by_cases h16 : m = 16
    · rw [if_pos h16]; exact congrArg some (show (pos + 15) % 16 = pos - 1 by omega)
    · rw [if_neg h16]; exact if_pos h0
end

/-! ### Updates of a Ladle -/

section
variable {d : Device} {cd o : Cd} {k : Ladle} {st u : LadleStream}

theorem modLadle_self (d : Device) (cd : Cd) (f : Ladle → Ladle) : (d.modLadle cd f).dies[cd].ladle = f d.dies[cd].ladle :=
  congrArg Die.ladle (modDie_self ..)

theorem modLadle_other (f : Ladle → Ladle) (h : cd ≠ o) : (d.modLadle cd f).dies[o].ladle = d.dies[o].ladle :=
  congrArg Die.ladle (modDie_other _ _ h)

/-- What an update of Ladles leaves alone stays in every Ladle. -/
theorem modLadle_keeps {α : Type} (g : Ladle → α) (f : Ladle → Ladle) (hf : ∀ k, g (f k) = g k) :
    g (d.modLadle cd f).dies[o].ladle = g d.dies[o].ladle := by
  by_cases h : cd = o
  · subst h; rw [modLadle_self]; exact hf _
  · rw [modLadle_other f h]

theorem modLadle_course (d : Device) (cd o : Cd) (f : Ladle → Ladle) : (d.modLadle cd f).dies[o].course = d.dies[o].course := by
  unfold Device.modLadle
  by_cases h : cd = o
  · subst h; rw [modDie_self]
  · rw [modDie_other _ _ h]

@[simp] theorem modCredit_wire (f : Nat → Nat) : (k.modCredit st f).wire = k.wire := by
  unfold Ladle.modCredit; split <;> rfl

@[simp] theorem modCredit_buckets (f : Nat → Nat) : (k.modCredit st f).buckets = k.buckets := by
  unfold Ladle.modCredit; split <;> rfl

theorem modCredit_self (f : Nat → Nat) : (k.modCredit st f).credit st = f (k.credit st) := by
  cases h : st.down <;> simp [Ladle.modCredit, Ladle.credit, h]

theorem modCredit_other (f : Nat → Nat) (h : u ≠ st) : (k.modCredit st f).credit u = k.credit u := by
  obtain ⟨l, a⟩ := st
  obtain ⟨l', a'⟩ := u
  cases a <;> cases a'
  case true.false => rfl
  case false.true => rfl
  all_goals exact upd_other _ _ fun e : l = l' => h (by rw [e])

/-- The outstanding bucket of a tag, when every bucket is rewritten with its number, step and state. -/
theorem tagged_map {k' : Ladle} {g : Bucket → Bucket} (hb : k'.buckets = k.buckets.map g)
    (hg : ∀ b, (g b).number = b.number ∧ (g b).step = b.step ∧ (g b).state = b.state) (step : BitVec 32) (n : BitVec 16) :
    k'.tagged step n = (k.tagged step n).map g := by
  unfold Ladle.tagged
  rw [hb, List.find?_map]
  refine congrArg (Option.map g) (congrArg (List.find? · k.buckets) (funext fun b => ?_))
  obtain ⟨hn, hs, ht⟩ := hg b
  simp only [Function.comp_apply, hn, hs, ht]

theorem tagged_some {step : BitVec 32} {n : BitVec 16} {b : Bucket} (h : k.tagged step n = some b) : b.number = n ∧ b.state = .outstanding := by
  have hb := List.find?_some h
  simp only [Bool.and_eq_true, beq_iff_eq] at hb
  exact ⟨hb.1.1, hb.2⟩

/-- A tagged bucket rewritten by its number, with its step and state. -/
theorem tagged_modBucket {step : BitVec 32} {n : BitVec 16} {b : Bucket} {f : Bucket → Bucket} (h : k.tagged step n = some b)
    (hf : ∀ b, (f b).number = b.number ∧ (f b).step = b.step ∧ (f b).state = b.state) : (k.modBucket n f).tagged step n = some (f b) := by
  obtain ⟨hn, hs⟩ := tagged_some h
  rw [tagged_map (k := k) (k' := k.modBucket n f) rfl (fun b => by split; exacts [hf b, ⟨rfl, rfl, rfl⟩]), h, Option.map_some, if_pos]
  rw [hn, hs]
  simp
end

/-! ### A line handed to the next position (R216) -/

/-- What the position `n` makes of a Ladle line handed to it: it is in its receive buffers, or passes on. -/
def lineHanded (n : Nat) (l : LLine) (x : Die) : Die :=
  if n = l.dest then { x with ladle := { x.ladle with wire := x.ladle.wire ++ [l] } }
  else if l.down then { x with course := { x.course with passCw := x.course.passCw ++ [l] } }
  else { x with course := { x.course with passCcw := x.course.passCcw ++ [l] } }

section
variable {d : Device} {c : Context} {pos n : Nat} {l : LLine}

theorem hopLadle_none (h : nextPos c.m pos l.down = none) : d.hopLadle c pos l = d := by
  simp only [Device.hopLadle, h]

theorem hopLadle_some (h : nextPos c.m pos l.down = some n) : d.hopLadle c pos l = d.modDie (c.cdAt n) (lineHanded n l) := by
  simp only [Device.hopLadle, h]
  rfl

/-- A line handed on changes dies alone. -/
theorem hopLadle_frame (d : Device) (c : Context) (pos : Nat) (l : LLine) : (d.hopLadle c pos l).mem = d.mem ∧ (d.hopLadle c pos l).ctxs = d.ctxs := by
  cases h : nextPos c.m pos l.down with
  | none => rw [hopLadle_none h]; exact ⟨rfl, rfl⟩
  | some n => rw [hopLadle_some h]; exact ⟨rfl, rfl⟩

theorem lineHanded_credit (n : Nat) (l : LLine) (x : Die) (st : LadleStream) : (lineHanded n l x).ladle.credit st = x.ladle.credit st := by
  unfold lineHanded
  split
  · rfl
  · split <;> rfl

/-- No Ladle gains or loses credits by a line handed on. -/
theorem hopLadle_credit (d : Device) (c : Context) (pos : Nat) (l : LLine) (o : Cd) (st : LadleStream) :
    (d.hopLadle c pos l).dies[o].ladle.credit st = d.dies[o].ladle.credit st := by
  cases h : nextPos c.m pos l.down with
  | none => rw [hopLadle_none h]
  | some n =>
    rw [hopLadle_some h]
    by_cases ho : c.cdAt n = o
    · subst ho; rw [modDie_self]; exact lineHanded_credit ..
    · rw [modDie_other _ _ ho]

/-- The next position is the line's receiver. -/
theorem hopLadle_last (h : nextPos c.m pos l.down = some n) (hl : n = l.dest) :
    (d.hopLadle c pos l).dies[c.cdAt n].ladle.wire = d.dies[c.cdAt n].ladle.wire ++ [l] := by
  rw [hopLadle_some h, modDie_self, lineHanded, if_pos hl]

theorem hopLadle_passDown (h : nextPos c.m pos l.down = some n) (hl : n ≠ l.dest) (hd : l.down = true) :
    (d.hopLadle c pos l).dies[c.cdAt n].course.passCw = d.dies[c.cdAt n].course.passCw ++ [l] := by
  rw [hopLadle_some h, modDie_self, lineHanded, if_neg hl, if_pos hd]

theorem hopLadle_passUp (h : nextPos c.m pos l.down = some n) (hl : n ≠ l.dest) (hd : l.down = false) :
    (d.hopLadle c pos l).dies[c.cdAt n].course.passCcw = d.dies[c.cdAt n].course.passCcw ++ [l] := by
  rw [hopLadle_some h, modDie_self, lineHanded, if_neg hl, if_neg (by rw [hd]; decide)]
end

/-! ### Line credits returned (R320) -/

/-- A bucket with the credits returned for it rewritten. -/
def recredited (b : Bucket) (v : Vector Nat 8) : Bucket := { b with credited := v }

/-- The buckets of a number that have not completed, with `n` lines credited on a stream. -/
def streamCredited (number : BitVec 16) (st : LadleStream) (n : Nat) (b : Bucket) : Bucket :=
  if b.number == number && b.state != .completed then recredited b (b.credited.set (streamIdx st.level st.down) n) else b

/-- The credits returned for a bucket on a stream raised to `n` lines, and the sender `o` given the difference. -/
def creditsRaised (d : Device) (cd o : Cd) (b : Bucket) (st : LadleStream) (n : Nat) : Device :=
  (d.modLadle cd fun k => { k with buckets := k.buckets.map (streamCredited b.number st n) }).modLadle o fun k =>
    k.modCredit st fun v => v + (n - b.credited[streamIdx st.level st.down])

section
variable {d : Device} {c : Context} {cd o : Cd} {b : Bucket} {st : LadleStream} {n : Nat}

theorem returnTo_some {src : Nat} (hs : ladleSource c.m (c.posOf cd) (st.level.val + 1) st.down = some src) : d.returnTo c cd b st n =
    if n ≤ b.credited[streamIdx st.level st.down] then d else creditsRaised d cd (c.cdAt src) b st n := by
  unfold Device.returnTo
  rw [hs]
  rfl

/-- A stream that no position sends here, or for which as many lines have been credited, gets nothing; else its credits are raised. -/
theorem returnTo_cases : d.returnTo c cd b st n = d
    ∨ ∃ src, ladleSource c.m (c.posOf cd) (st.level.val + 1) st.down = some src ∧ b.credited[streamIdx st.level st.down] < n
      ∧ d.returnTo c cd b st n = creditsRaised d cd (c.cdAt src) b st n := by
  cases hs : ladleSource c.m (c.posOf cd) (st.level.val + 1) st.down with
  | none => exact .inl (by simp only [Device.returnTo, hs])
  | some src =>
    rw [returnTo_some hs]
    by_cases hn : n ≤ b.credited[streamIdx st.level st.down]
    · exact .inl (if_pos hn)
    · exact .inr ⟨src, rfl, Nat.lt_of_not_le hn, if_neg hn⟩

theorem creditsRaised_buckets (d : Device) (cd o : Cd) (b : Bucket) (st : LadleStream) (n : Nat) :
    (creditsRaised d cd o b st n).dies[cd].ladle.buckets = d.dies[cd].ladle.buckets.map (streamCredited b.number st n) := by
  rw [creditsRaised, modLadle_keeps Ladle.buckets _ fun k => modCredit_buckets _, modLadle_self]

theorem creditsRaised_credit_self (d : Device) (cd o : Cd) (b : Bucket) (st : LadleStream) (n : Nat) :
    (creditsRaised d cd o b st n).dies[o].ladle.credit st = d.dies[o].ladle.credit st + (n - b.credited[streamIdx st.level st.down]) := by
  rw [creditsRaised, modLadle_self, modCredit_self]
  refine congrArg (· + _) (modLadle_keeps (Ladle.credit · st) _ ?_)
  exact fun _ => rfl

theorem creditsRaised_credit_other {u : LadleStream} (h : u ≠ st) (a : Cd) :
    (creditsRaised d cd o b st n).dies[a].ladle.credit u = d.dies[a].ladle.credit u := by
  refine (modLadle_keeps (Ladle.credit · u) _ fun k => modCredit_other _ h).trans (modLadle_keeps (Ladle.credit · u) _ ?_)
  exact fun _ => rfl
end

/-- Buckets rewritten in the credits returned for them alone. -/
def Recredits (g : Bucket → Bucket) : Prop := ∀ b, ∃ v, g b = recredited b v

theorem recredits_id : Recredits id := fun _ => ⟨_, rfl⟩

theorem recredits_streamCredited (number : BitVec 16) (st : LadleStream) (n : Nat) : Recredits (streamCredited number st n) := fun b => by
  unfold streamCredited
  split
  · exact ⟨_, rfl⟩
  · exact ⟨_, rfl⟩

theorem Recredits.tag {g : Bucket → Bucket} (h : Recredits g) (b : Bucket) :
    (g b).number = b.number ∧ (g b).step = b.step ∧ (g b).state = b.state := by
  obtain ⟨v, hv⟩ := h b
  rw [hv]
  exact ⟨rfl, rfl, rfl⟩

theorem Recredits.comp {g g' : Bucket → Bucket} (h : Recredits g) (h' : Recredits g') : Recredits (g' ∘ g) := fun b => by
  obtain ⟨v, hv⟩ := h b
  obtain ⟨w, hw⟩ := h' (g b)
  exact ⟨w, by rw [Function.comp_apply, hw, hv]; rfl⟩

/-- What the return of credits at a CD leaves: memory and contexts, every Course, the lines at every Ladle, every bucket but for the credits returned
for it, and the credits that the CD itself holds. -/
structure CreditsReturned (cd : Cd) (d d' : Device) : Prop where
  mem : d'.mem = d.mem
  ctxs : d'.ctxs = d.ctxs
  course : ∀ o : Cd, d'.dies[o].course = d.dies[o].course
  wire : ∀ o : Cd, d'.dies[o].ladle.wire = d.dies[o].ladle.wire
  buckets : ∀ o : Cd, ∃ g, Recredits g ∧ d'.dies[o].ladle.buckets = d.dies[o].ladle.buckets.map g
  credit : ∀ st, d'.dies[cd].ladle.credit st = d.dies[cd].ladle.credit st

namespace CreditsReturned
section
variable {d d' : Device} {c : Context} {cd o : Cd} {b : Bucket} {st : LadleStream} {n : Nat}

/-- A Ladle rewritten within what may change. -/
theorem modLadle (h : CreditsReturned cd d d') (f : Ladle → Ladle) (g : Bucket → Bucket) (hw : ∀ k, (f k).wire = k.wire) (hg : Recredits g)
    (hb : ∀ k, (f k).buckets = k.buckets.map g) (hc : o = cd → ∀ k st, (f k).credit st = k.credit st) :
    CreditsReturned cd d (d'.modLadle o f) where
  mem := h.mem
  ctxs := h.ctxs
  course a := (modLadle_course ..).trans (h.course a)
  wire a := (modLadle_keeps Ladle.wire f hw).trans (h.wire a)
  buckets a := by
    obtain ⟨g₀, hg₀, hd⟩ := h.buckets a
    by_cases ha : o = a
    · subst ha
      exact ⟨g ∘ g₀, hg₀.comp hg, by rw [modLadle_self, hb, hd, List.map_map]⟩
    · exact ⟨g₀, hg₀, by rw [modLadle_other f ha, hd]⟩
  credit st := by
    refine Eq.trans ?_ (h.credit st)
    by_cases ho : o = cd
    · subst ho; rw [modLadle_self, hc rfl]
    · rw [modLadle_other f ho]

theorem creditsRaised (h : CreditsReturned cd d d') (ho : o ≠ cd) : CreditsReturned cd d (creditsRaised d' cd o b st n) :=
  (h.modLadle (fun k => { k with buckets := k.buckets.map (streamCredited b.number st n) }) (streamCredited b.number st n) (fun _ => rfl)
    (recredits_streamCredited b.number st n) (fun _ => rfl) fun _ _ _ => rfl).modLadle _ id
    (fun _ => modCredit_wire _) recredits_id (fun _ => by rw [modCredit_buckets, List.map_id]) fun he => absurd he ho

/-- The senders of streams that end at a CD of an arc are other CDs. -/
theorem returnTo (h : CreditsReturned cd d d') (harc : c.onArc cd = true) (hfit : c.first + c.m ≤ 16) :
    CreditsReturned cd d (d'.returnTo c cd b st n) := by
  rcases returnTo_cases (d := d') (c := c) (cd := cd) (b := b) (st := st) (n := n) with heq | ⟨src, hs, -, heq⟩
  · rw [heq]; exact h
  · rw [heq]
    obtain ⟨hlt, hne⟩ := ladleSource_other hs (posOf_lt harc)
    exact h.creditsRaised (cdAt_ne hfit hlt hne)

theorem foldl {α : Type} {l : List α} {f : Device → α → Device} (h : CreditsReturned cd d d')
    (hf : ∀ d' a, CreditsReturned cd d d' → CreditsReturned cd d (f d' a)) : CreditsReturned cd d (l.foldl f d') :=
  foldl_keeps (r := CreditsReturned cd d) hf l h

theorem returnCredits (h : CreditsReturned cd d d') (harc : c.onArc cd = true) (hfit : c.first + c.m ≤ 16) :
    CreditsReturned cd d (d'.returnCredits c cd) := by
  unfold Device.returnCredits
  split
  · exact h
  · exact h.foldl fun _ _ h => h.foldl fun _ _ h => h.returnTo harc hfit
end
end CreditsReturned

section
variable {d : Device} {c : Context} {cd : Cd}

/-- The CLOSEs that have read their contribution are marked in their queue alone. -/
theorem closeInputs_eq (x : Die) (c : Context) (pos : Nat) : ∃ qs, x.closeInputs c pos = { x with queues := qs } := by
  unfold Die.closeInputs
  split
  · exact ⟨_, rfl⟩
  · exact ⟨_, rfl⟩

/-- The device once the CLOSEs of a CD that have read their contribution are marked. -/
def inputsClosed (d : Device) (c : Context) (cd : Cd) : Device := d.modDie cd fun x => x.closeInputs c (c.posOf cd)

theorem inputsClosed_ladle (d : Device) (c : Context) (cd o : Cd) :
    (inputsClosed d c cd).dies[o].ladle = d.dies[o].ladle ∧ (inputsClosed d c cd).dies[o].course = d.dies[o].course := by
  unfold inputsClosed
  by_cases h : cd = o
  · subst h
    obtain ⟨qs, hqs⟩ := closeInputs_eq d.dies[cd] c (c.posOf cd)
    rw [modDie_self, hqs]
    exact ⟨rfl, rfl⟩
  · rw [modDie_other _ _ h]
    exact ⟨rfl, rfl⟩

theorem ladleTurn_eq (hres : d.residentOf cd = some c) : d.ladleTurn cd = (inputsClosed d c cd).returnCredits c cd := by
  simp only [Device.ladleTurn, hres]
  rfl

/-- After a line has departed or arrived, credits are returned. -/
theorem ladleTurn_returns (hres : d.residentOf cd = some c) (hfit : c.first + c.m ≤ 16) : CreditsReturned cd d (d.ladleTurn cd) := by
  have h0 : CreditsReturned cd d (inputsClosed d c cd) :=
    ⟨rfl, rfl, fun o => (inputsClosed_ladle d c cd o).2, fun o => congrArg Ladle.wire (inputsClosed_ladle d c cd o).1,
      fun o => ⟨id, recredits_id, by rw [(inputsClosed_ladle d c cd o).1, List.map_id]⟩, fun st => by rw [(inputsClosed_ladle d c cd cd).1]⟩
  rw [ladleTurn_eq hres]
  exact h0.returnCredits (onArc_of_residentOf hres) hfit
end

end Sys2Proof.Laws
end

section
/-! SUPPORT. The credits that a stream's sender is given for the one bucket of a table (R320; log entry 54). -/

namespace Sys2Proof.Laws

set_option Elab.async false

open Sys2Proof Sys2Proof.Machine Sys2Proof.Safety

/-! ### The lines consumed do not depend on the credits returned -/

section
variable (b : Bucket) (v : Vector Nat 8) (t : LadleNode)

theorem upLine_recredited (xs : Nat → Option (List Int)) (level phase i : Nat) :
    (recredited b v).upLine t xs level phase i = b.upLine t xs level phase i := by
  induction level generalizing phase i with
  | zero => rfl
  | succ level ih => simp only [Bucket.upLine, ih]; rfl

theorem expsAt_recredited : (recredited b v).expsAt t = b.expsAt t := by
  funext g
  unfold Bucket.expsAt
  rw [upLine_recredited]
  rfl

theorem consumed_recredited (level : Nat) (down : Bool) : (recredited b v).consumed t level down = b.consumed t level down := by
  unfold Bucket.consumed
  simp only [expsAt_recredited, upLine_recredited]
  rfl
end

/-! ### The streams of one bucket -/

theorem mem_ladleStreams (st : LadleStream) : st ∈ ladleStreams := by
  obtain ⟨l, a⟩ := st
  cases a <;> simp [ladleStreams]

theorem ladleStreams_nodup : ladleStreams.Nodup := by decide

theorem streamIdx_ne {st u : LadleStream} (h : u ≠ st) : streamIdx u.level u.down ≠ streamIdx st.level st.down := by
  have hinj : ∀ (l l' : Fin 4) (a a' : Bool), streamIdx l a = streamIdx l' a' → l = l' ∧ a = a' := by decide
  intro he
  obtain ⟨l, a⟩ := st
  obtain ⟨l', a'⟩ := u
  obtain ⟨rfl, rfl⟩ := hinj _ _ _ _ he
  exact h rfl

/-- The bucket is alone in its table, `n` lines of a stream have been credited for it, and the sender `o` has the `before` credits and those given
since. -/
def SenderCredited (cd o : Cd) (st : LadleStream) (b : Bucket) (before n : Nat) (d : Device) : Prop :=
  (∃ v, d.dies[cd].ladle.buckets = [recredited b v] ∧ v[streamIdx st.level st.down] = n)
    ∧ d.dies[o].ladle.credit st = before + (n - b.credited[streamIdx st.level st.down])

section
variable {d : Device} {c : Context} {cd o a : Cd} {b : Bucket} {st u : LadleStream} {before n m src : Nat}

/-- The one bucket of a table after the credits of a stream have risen. -/
theorem creditsRaised_single {v : Vector Nat 8} (hb : d.dies[cd].ladle.buckets = [recredited b v]) (hopen : b.state = .outstanding) :
    (creditsRaised d cd a b u m).dies[cd].ladle.buckets = [recredited b (v.set (streamIdx u.level u.down) m)] := by
  rw [creditsRaised_buckets, hb]
  simp [streamCredited, recredited, hopen]

/-- Returning the credits of another stream leaves those of this one. -/
theorem SenderCredited.returnTo_other (h : SenderCredited cd o st b before n d) (hopen : b.state = .outstanding) (hu : u ≠ st) :
    SenderCredited cd o st b before n (d.returnTo c cd b u m) := by
  rcases returnTo_cases (d := d) (c := c) (cd := cd) (b := b) (st := u) (n := m) with heq | ⟨src, -, -, heq⟩
  · rw [heq]; exact h
  · rw [heq]
    obtain ⟨⟨v, hb, hv⟩, hc⟩ := h
    exact ⟨⟨_, creditsRaised_single hb hopen, (upd_other v (fun _ => m) (streamIdx_ne hu)).trans hv⟩,
      (creditsRaised_credit_other (Ne.symm hu) o).trans hc⟩

/-- Returning the credits of the stream raises them to the lines consumed. -/
theorem SenderCredited.returnTo_self (h : SenderCredited cd (c.cdAt src) st b before b.credited[streamIdx st.level st.down] d)
    (hopen : b.state = .outstanding) (hsrc : ladleSource c.m (c.posOf cd) (st.level.val + 1) st.down = some src) :
    SenderCredited cd (c.cdAt src) st b before (max b.credited[streamIdx st.level st.down] m) (d.returnTo c cd b st m) := by
  rw [returnTo_some hsrc]
  by_cases hm : m ≤ b.credited[streamIdx st.level st.down]
  · rw [Nat.max_eq_left hm, if_pos hm]
    exact h
  · rw [Nat.max_eq_right (Nat.le_of_not_le hm), if_neg hm]
    obtain ⟨⟨v, hb, -⟩, hc⟩ := h
    refine ⟨⟨_, creditsRaised_single hb hopen, upd_self v _ fun _ => m⟩, ?_⟩
    rw [creditsRaised_credit_self, hc, Nat.sub_self, Nat.add_zero]

/-- Every stream of the bucket having returned its credits, this one's have risen to its lines consumed. -/
theorem SenderCredited.returnAll (h : SenderCredited cd (c.cdAt src) st b before b.credited[streamIdx st.level st.down] d) (hopen : b.state = .outstanding)
    (hsrc : ladleSource c.m (c.posOf cd) (st.level.val + 1) st.down = some src) (lines : LadleStream → Nat) :
    SenderCredited cd (c.cdAt src) st b before (max b.credited[streamIdx st.level st.down] (lines st))
      (ladleStreams.foldl (fun d u => d.returnTo c cd b u (lines u)) d) := by
  obtain ⟨l, l', hsplit⟩ := List.append_of_mem (mem_ladleStreams st)
  have hnodup := ladleStreams_nodup
  rw [hsplit] at hnodup ⊢
  have hl : ∀ u ∈ l, u ≠ st := fun u hu he => by
    subst he
    exact (List.nodup_append.1 hnodup).2.2 u hu u List.mem_cons_self rfl
  have hl' : ∀ u ∈ l', u ≠ st := fun u hu he => by
    subst he
    exact (List.nodup_cons.1 (List.nodup_append.1 hnodup).2.1).1 hu
  rw [List.foldl_append, List.foldl_cons]
  refine List.foldlRecOn l' _ (SenderCredited.returnTo_self ?_ hopen hsrc) fun _ h u hu => h.returnTo_other hopen (hl' u hu)
  exact List.foldlRecOn l _ h fun _ h u hu => h.returnTo_other hopen (hl u hu)

/-- The one bucket of a table and its sender's credits after the position has returned its credits. -/
theorem ladleTurn_single {r : ReduceConfig} (hres : d.residentOf cd = some c) (hred : c.reduce = some r) (hb : d.dies[cd].ladle.buckets = [b])
    (hopen : b.state = .outstanding) (hsrc : ladleSource c.m (c.posOf cd) (st.level.val + 1) st.down = some src) :
    SenderCredited cd (c.cdAt src) st b (d.dies[c.cdAt src].ladle.credit st)
      (max b.credited[streamIdx st.level st.down] (b.consumed (c.node r (c.posOf cd)) (st.level.val + 1) st.down)) (d.ladleTurn cd) := by
  have hladle := fun o => (inputsClosed_ladle d c cd o).1
  have h0 : SenderCredited cd (c.cdAt src) st b (d.dies[c.cdAt src].ladle.credit st) b.credited[streamIdx st.level st.down] (inputsClosed d c cd) :=
    ⟨⟨b.credited, by rw [hladle, hb]; rfl, rfl⟩, by rw [hladle, Nat.sub_self, Nat.add_zero]⟩
  have hone : ([b].filter fun b => b.state == .outstanding) = [b] := by simp [hopen]
  rw [ladleTurn_eq hres, Device.returnCredits, hred]
  dsimp only
  rw [hladle, hb, hone]
  exact h0.returnAll hopen hsrc fun u => b.consumed (c.node r (c.posOf cd)) (u.level.val + 1) u.down
end

end Sys2Proof.Laws
end

section
/-! SUPPORT. A Ladle line that departs and one that arrives (R200, R318 to R320), before the credits of the lines consumed are returned. -/

namespace Sys2Proof.Laws

set_option Elab.async false

open Sys2Proof Sys2Proof.Machine Sys2Proof.Safety

section
variable {d : Device} {cd : Cd} {st : LadleStream} {c : Context} {r : ReduceConfig} {b : Bucket} {w : LLine}

/-- The line of a stream that departs for a bucket. -/
def departingLine (st : LadleStream) (b : Bucket) (phase dest lane : Nat) (l : List Byte) : LLine :=
  { level := st.level.val + 1, down := st.down, step := b.step, bucket := b.number, phase := phase, dest := dest, lane := lane, bytes := l }

/-- The device once a stream's line has been sent for a bucket with a credit. -/
def lineSent (d : Device) (cd : Cd) (st : LadleStream) (b : Bucket) (phase : Nat) (l : List Byte) : Device :=
  d.modLadle cd fun k => (k.modBucket b.number fun b => b.send (st.level.val + 1) st.down phase l).modCredit st fun n => n - 1

theorem lineSent_credit (d : Device) (cd : Cd) (st : LadleStream) (b : Bucket) (phase : Nat) (l : List Byte) :
    (lineSent d cd st b phase l).dies[cd].ladle.credit st = d.dies[cd].ladle.credit st - 1 := by
  rw [lineSent, modLadle_self]
  exact modCredit_self ..

/-- The lines on the way to any CD stay as they are. -/
theorem lineSent_others (d : Device) (cd : Cd) (st : LadleStream) (b : Bucket) (phase : Nat) (l : List Byte) (o : Cd) :
    (lineSent d cd st b phase l).dies[o].ladle.wire = d.dies[o].ladle.wire ∧ (lineSent d cd st b phase l).dies[o].course = d.dies[o].course := by
  unfold lineSent
  refine ⟨modLadle_keeps Ladle.wire _ ?_, modLadle_course ..⟩
  exact fun _ => modCredit_wire _

/-- The first line due of a stream departs on a lane of its level, and credits are returned. -/
theorem lineDepart_sends {dest phase : Nat} {l : List Byte} (hres : d.residentOf cd = some c) (hfrozen : d.dies[cd].frozen = false)
    (hred : c.reduce = some r) (hdest : ladleTarget c.m (c.posOf cd) (st.level.val + 1) st.down = some dest) (hstop : d.stopping c = false)
    (hcond : c.cond ≠ .faulted) (hcredit : 0 < d.dies[cd].ladle.credit st) (hlanes : d.levelLanes c cd (st.level.val + 1) ≠ [])
    (hpick : d.dies[cd].ladle.pick (c.node r (c.posOf cd)) (st.level.val + 1) st.down = some (b, phase, l)) :
    ∃ lane ∈ d.levelLanes c cd (st.level.val + 1), d.lineDepart cd st =
      ((lineSent d cd st b phase l).hopLadle c (c.posOf cd) (departingLine st b phase dest lane l)).ladleTurn cd := by
  have hpos := List.length_pos_iff.2 hlanes
  refine ⟨(d.levelLanes c cd (st.level.val + 1)).getD (b.sentOn (st.level.val + 1) st.down % (d.levelLanes c cd (st.level.val + 1)).length) 0, ?_, ?_⟩
  rotate_left
  · simp only [Device.lineDepart, hres, hred, hdest, hpick, hfrozen, hstop]
    rw [if_neg]
    · rfl
    · rw [beq_eq_false_iff_ne.2 hcond, beq_eq_false_iff_ne.2 (Nat.pos_iff_ne_zero.1 hcredit), List.isEmpty_eq_false_iff.2 hlanes]
      decide
  · rw [List.getD_eq_getElem _ _ (Nat.mod_lt _ hpos)]
    exact List.getElem_mem _

theorem checkLadle_clean (d : Device) (c : Context) (cd : Cd) (w : LLine) : d.checkLadle c cd w .clean = (d, w) := rfl

/-- A bucket that has taken a line. -/
def withLine (w : LLine) (b : Bucket) : Bucket := b.takeLine w.level w.down w.phase w.bytes

theorem withLine_down (h : w.down = true) : (withLine w b).downRecv = b.downRecv ++ [(w.phase, w.bytes)] ∧ (withLine w b).upRecv = b.upRecv := by
  rw [withLine, Bucket.takeLine, if_pos h]
  exact ⟨rfl, rfl⟩

theorem withLine_up (h : w.down = false) :
    (withLine w b).upRecv = b.upRecv ++ [(w.level, w.phase, w.bytes)] ∧ (withLine w b).downRecv = b.downRecv := by
  rw [withLine, Bucket.takeLine, if_neg (by rw [h]; decide)]
  exact ⟨rfl, rfl⟩

theorem withLine_tag (w : LLine) (b : Bucket) :
    (withLine w b).number = b.number ∧ (withLine w b).step = b.step ∧ (withLine w b).state = b.state := by
  unfold withLine Bucket.takeLine
  split <;> exact ⟨rfl, rfl, rfl⟩

theorem withLine_credited (w : LLine) (b : Bucket) : (withLine w b).credited = b.credited := by
  unfold withLine Bucket.takeLine
  split <;> rfl

/-- The device once a line of the wire has been taken into its bucket. -/
def lineTaken (d : Device) (cd : Cd) (w : LLine) : Device :=
  (d.modLadle cd fun k => { k with wire := k.wire.erase w }).modLadle cd fun k => k.modBucket w.bucket (withLine w)

theorem lineTaken_credit (d : Device) (cd o : Cd) (w : LLine) (u : LadleStream) :
    (lineTaken d cd w).dies[o].ladle.credit u = d.dies[o].ladle.credit u := by
  refine (modLadle_keeps (Ladle.credit · u) _ ?_).trans (modLadle_keeps (Ladle.credit · u) _ ?_)
  · exact fun _ => rfl
  · exact fun _ => rfl

theorem lineTaken_ladle (d : Device) (cd : Cd) (w : LLine) : (lineTaken d cd w).dies[cd].ladle =
    ({ d.dies[cd].ladle with wire := d.dies[cd].ladle.wire.erase w } : Ladle).modBucket w.bucket (withLine w) := by
  rw [lineTaken, modLadle_self, modLadle_self]

theorem lineTaken_tagged (htag : d.dies[cd].ladle.tagged w.step w.bucket = some b) :
    (lineTaken d cd w).dies[cd].ladle.tagged w.step w.bucket = some (withLine w b) := by
  rw [lineTaken_ladle]
  exact tagged_modBucket (k := { d.dies[cd].ladle with wire := d.dies[cd].ladle.wire.erase w }) htag (withLine_tag w)

theorem lineTaken_single (htag : d.dies[cd].ladle.tagged w.step w.bucket = some b) (hone : d.dies[cd].ladle.buckets = [b]) :
    (lineTaken d cd w).dies[cd].ladle.buckets = [withLine w b] := by
  obtain ⟨hnumber, hstate⟩ := tagged_some htag
  rw [lineTaken_ladle, Ladle.modBucket, hone]
  simp [hnumber, hstate]

/-- A clean line on its last hop that is no header of another size leaves the wire and is taken into its bucket, and credits are returned. -/
theorem payloadArrival_takes (hres : d.residentOf cd = some c) (hfrozen : d.dies[cd].frozen = false)
    (hnext : d.dies[cd].nextPayload st = some w)
    (htag : d.dies[cd].ladle.tagged w.step w.bucket = some b) (hclean : w.poisoned = false)
    (hheader : b.awaitsHeader w.level w.down w.phase = true → hdrElems w.bytes = b.elems) :
    d.payloadArrival cd st .clean = (lineTaken d cd w).ladleTurn cd := by
  have hfits : ¬(b.awaitsHeader w.level w.down w.phase && hdrElems w.bytes != b.elems) = true := by simpa using hheader
  unfold Device.payloadArrival
  rw [hres]
  dsimp only
  rw [hnext]
  dsimp only
  rw [hfrozen, if_neg (by decide), htag, checkLadle_clean]
  dsimp only
  rw [if_neg (by rw [hclean]; decide)]
  exact if_neg hfits

theorem onStream_of_nextPayload {x : Die} (h : x.nextPayload st = some w) : w.level = st.level.val + 1 ∧ w.down = st.down := by
  have hw := List.find?_some h
  simp only [LLine.onStream, Bool.and_eq_true, beq_iff_eq] at hw
  exact hw.1
end

end Sys2Proof.Laws
end

section
/-! A Ladle line departs with a credit, and one that arrives joins its bucket (O21). -/

namespace Sys2Proof.Safety

set_option Elab.async false

open Sys2Proof Sys2Proof.Machine Sys2Proof.Laws

/-- Settles O21: a line departs as `lineDepart_sends` says and one arrives as `payloadArrival_takes` says; what the credits returned leave is
`CreditsReturned`, and those of a table's one bucket are `ladleTurn_single`. -/
theorem ladleLinesDepartAndArrive : Obligations.LadleLinesDepartAndArrive := by
  intro s cd st c r x pos level credits hres hfit hfrozen hred
  have harc := onArc_of_residentOf hres
  refine ⟨fun dest b phase l hdest hstop hcond hcredit hlanes hpick => ?_, fun src w b hsrc hnext htag hclean hheader => ?_⟩
  · obtain ⟨lane, hlane, hsend⟩ := lineDepart_sends hres hfrozen hred hdest hstop hcond hcredit hlanes hpick
    have hway := ladleTarget_next hdest (posOf_lt harc)
    have hexec : exec (.ladleLineDepart cd st) s = .next { s with dev := s.dev.lineDepart cd st } := rfl
    rw [hsend] at hexec
    have hframe := hopLadle_frame (lineSent s.dev cd st b phase l) c (c.posOf cd) (departingLine st b phase dest lane l)
    have hturn := ladleTurn_returns ((residentOf_congr hframe.2 cd).trans hres) hfit
    refine ⟨_, lane, hexec, ?_, hlane, fun hlast => ?_, fun hpass hdown => ?_, fun hpass hup => ?_, hturn.mem.trans hframe.1, hturn.ctxs.trans hframe.2⟩
    · exact ((hturn.credit st).trans (hopLadle_credit ..)).trans (lineSent_credit ..)
    · refine ((hturn.wire _).trans (hopLadle_last hway hlast)).trans ?_
      rw [(lineSent_others ..).1]
      rfl
    · refine ((congrArg Course.passCw (hturn.course _)).trans (hopLadle_passDown hway hpass hdown)).trans ?_
      rw [(lineSent_others ..).2]
      rfl
    · refine ((congrArg Course.passCcw (hturn.course _)).trans (hopLadle_passUp hway hpass hup)).trans ?_
      rw [(lineSent_others ..).2]
      rfl
  · obtain ⟨hlevel, hdown⟩ := onStream_of_nextPayload hnext
    have hexec : exec (.ladlePayloadArrival cd st .clean) s = .next { s with dev := s.dev.payloadArrival cd st .clean } := rfl
    rw [payloadArrival_takes hres hfrozen hnext htag hclean (by rw [hlevel, hdown]; exact hheader)] at hexec
    have hturn : CreditsReturned cd (lineTaken s.dev cd w) ((lineTaken s.dev cd w).ladleTurn cd) := ladleTurn_returns hres hfit
    obtain ⟨g, hg, hbuckets⟩ := hturn.buckets cd
    obtain ⟨v, hv⟩ := hg (withLine w b)
    refine ⟨_, recredited (withLine w b) v, hexec, (hturn.wire cd).trans (congrArg Ladle.wire (lineTaken_ladle ..)), ?_,
      fun hd => withLine_down (hdown.trans hd), fun hu => ?_, fun hone => ?_, hturn.mem, hturn.ctxs⟩
    · rw [← hv]
      exact (tagged_map hbuckets hg.tag _ _).trans (congrArg (Option.map g) (lineTaken_tagged htag))
    · rw [show level = w.level from hlevel.symm]
      exact withLine_up (hdown.trans hu)
    · have hsingle := lineTaken_single htag hone
      have hopen : (withLine w b).state = .outstanding := (withLine_tag w b).2.2.trans (tagged_some htag).2
      obtain ⟨⟨v', hb', hi⟩, hc⟩ := ladleTurn_single (d := lineTaken s.dev cd w) hres hred hsingle hopen hsrc
      have heq : recredited (withLine w b) v = recredited (withLine w b) v' := by
        rw [← hv]
        exact List.singleton_inj.1 ((congrArg (List.map g) hsingle).symm.trans (hbuckets.symm.trans hb'))
      rw [withLine_credited] at hi hc
      rw [heq, consumed_recredited]
      refine ⟨hi, hc.trans ?_⟩
      rw [lineTaken_credit, ← hi]
      rfl

end Sys2Proof.Safety
end

section
/-! SUPPORT. Fields of byte strings (R9, R361): what a concatenation, a number's bytes and a string with a part replaced hold at an offset. -/

namespace Sys2Proof.Laws

set_option Elab.async false

open Sys2Proof Sys2Proof.Machine Sys2Proof.Safety

section
variable {l r bs new : List Byte} {off n x : Nat}

@[simp] theorem zeros_length (n : Nat) : (zeros n).length = n := List.length_replicate

/-- The bytes of a number hold it, as far as they reach. -/
theorem le_bytesLE : ∀ n v, le (bytesLE n v) = v % 256 ^ n
  | 0, v => (Nat.mod_one v).symm
  | n + 1, v => by
    rw [bytesLE, le, le_bytesLE n (v / 256), BitVec.toNat_ofNat, Nat.pow_succ' (n := n), Nat.mod_mul (a := 256)]

/-- A field is a number of its width. -/
theorem field_lt (bs : List Byte) (off n : Nat) : field bs off n < 256 ^ n :=
  (le_lt _).trans_le (Nat.pow_le_pow_right (by decide) (by rw [List.length_take]; omega))

theorem field_mod (bs : List Byte) (off n : Nat) : field bs off n % 256 ^ n = field bs off n := Nat.mod_eq_of_lt (field_lt bs off n)

@[simp] theorem field_bytesLE (n v : Nat) : field (bytesLE n v) 0 n = v % 256 ^ n := by
  rw [field_whole (bytesLE_length n v), le_bytesLE]

theorem field_append_left (h : off + n ≤ l.length) : field (l ++ r) off n = field l off n := by
  rw [field, field, List.drop_append_of_le_length (by omega), List.take_append_of_le_length (by rw [List.length_drop]; omega)]

theorem field_append_right (h : l.length ≤ off) : field (l ++ r) off n = field r (off - l.length) n := by
  rw [field, field, List.drop_append, List.drop_eq_nil_of_le h, List.nil_append]

theorem splice_length : (splice bs off new).length = min off bs.length + new.length + (bs.length - (off + new.length)) := by
  simp only [splice, List.length_append, List.length_take, List.length_drop]

/-- The replaced part of a string holds what was put there. -/
theorem field_splice_same (h : off ≤ bs.length) (hn : new.length = n) : field (splice bs off new) off n = le new := by
  have hoff : (bs.take off).length = off := List.length_take_of_le h
  rw [splice, field_append_left (by rw [List.length_append, hoff, hn]), field_append_right hoff.le, hoff, Nat.sub_self, field_whole hn]

/-- A field before or behind the replaced part is as it was. -/
theorem field_splice_other (h : off + new.length ≤ bs.length) (hx : x + n ≤ off ∨ off + new.length ≤ x) :
    field (splice bs off new) x n = field bs x n := by
  have hoff : (bs.take off).length = off := List.length_take_of_le (by omega)
  rcases hx with hx | hx
  · rw [splice, List.append_assoc, field_append_left (by omega), field, field, List.drop_take, List.take_take, Nat.min_eq_left (by omega)]
  · have hlen : (bs.take off ++ new).length = off + new.length := by rw [List.length_append, hoff]
    rw [splice, field_append_right (by omega), hlen, field, field, List.drop_drop, Nat.add_sub_cancel' hx]
end

end Sys2Proof.Laws
end

section
/-! SUPPORT. Reads whose data holds no error (R171, R172, R176): they count nothing, and a descriptor goes on with the device that it found. -/

namespace Sys2Proof.Laws

set_option Elab.async false

open Sys2Proof Sys2Proof.Machine Sys2Proof.Safety

/-! ### Errors of plain reads (R176) -/

section
variable {d : Device} {a b n cd off : Nat} {rs : List (Nat × Nat)}

/-- An LPDDR5X window holds whole lines. -/
theorem place_sameLine (h : a / 64 = b / 64) (ha : d.place a = .lpddr cd off) : ∃ off', d.place b = .lpddr cd off' := by
  obtain ⟨u, hu⟩ : ∃ u, usableOf d.code = 64 * u := ⟨usableOf d.code / 64, by cases d.code <;> rfl⟩
  unfold Device.place at ha ⊢
  rw [hu] at ha ⊢
  split at ha
  · split at ha
    · injection ha with hcd
      rw [if_pos (by omega), if_pos (by omega)]
      exact ⟨_, by rw [← hcd]; congr 1; omega⟩
    · cases ha
  · repeat' split at ha
    all_goals cases ha

/-- Every line of a run whose data is good gives its data. -/
theorem dataCode_of_dataBad {k : Nat} (h : d.dataBad a n = none) (hn : n ≠ 0) (hk : k < (a + n - 1) / 64 - a / 64 + 1) :
    d.dataCode (max a (lineOf a + 64 * k)) (min (a + n) (lineOf a + 64 * k + 64) - max a (lineOf a + 64 * k)) = none := by
  rw [Device.dataBad, if_neg hn, List.findSome?_eq_none_iff] at h
  exact Option.map_eq_none_iff.1 (h k (List.mem_range.2 hk))

/-- An LPDDR5X line of a run whose data is good is not uncorrectable. -/
theorem lpddr_line_good {k : Nat} (h : d.dataBad a n = none) (hn : n ≠ 0) (hk : k < (a + n - 1) / 64 - a / 64 + 1)
    (hp : d.place (lineOf a + 64 * k) = .lpddr cd off) : d.dataCode (lineOf a + 64 * k) 64 = none := by
  have hline : (lineOf a + 64 * k) / 64 = max a (lineOf a + 64 * k) / 64 := by rw [lineOf]; omega
  obtain ⟨off', hp'⟩ := place_sameLine hline hp
  have hcode := dataCode_of_dataBad h hn hk
  simp only [Device.dataCode, hp', hp, hline] at hcode ⊢
  exact hcode

/-- The count of a line that is neither uncorrectable nor corrected changes nothing (R176). -/
theorem eccOf_good {α : Type} {r : Except Nat α} (hce : d.mem.ceLines.contains (a / 64) = false)
    (hue : ∀ cd off, d.place a = .lpddr cd off → ∃ v, r = .ok v) : d.eccOf a r = d := by
  cases hp : d.place a with
  | lpddr cd off =>
    obtain ⟨v, rfl⟩ := hue cd off hp
    exact eccOf_clean hce
  | _ => simp only [Device.eccOf, hp]

/-- A read that finds no error counts nothing (R176, R484). -/
theorem eccPlain_clean (h : CleanAt d a n) : d.eccPlain a n = d := by
  obtain ⟨hbad, hce⟩ := h
  unfold Device.eccPlain
  by_cases hn : n = 0
  · exact if_pos hn
  rw [if_neg hn]
  refine List.foldlRecOn (motive := fun x : Device × Bool => x.1 = d) _ _ rfl fun x hx k hk => ?_
  have hk := List.mem_range.1 hk
  have hce' : d.mem.ceLines.contains ((lineOf a + 64 * k) / 64) = false := by
    rw [Bool.eq_false_iff, Ne, List.contains_iff_mem]
    intro hin
    have := hce _ hin
    rw [lineOf] at this
    omega
  split
  · exact hx
  · rw [hx]
    split
    · next e he => exact eccOf_good hce' fun _ _ hp => by simp [lpddr_line_good hbad hn hk hp] at he
    · exact eccOf_clean hce'

theorem eccReads_clean : ∀ {rs : List (Nat × Nat)}, (∀ x ∈ rs, CleanAt d x.1 x.2) → d.eccReads rs = d
  | [], _ => rfl
  | x :: rs, h => by
    have hx := h x List.mem_cons_self
    rw [Device.eccReads, hx.1, eccPlain_clean hx]
    exact eccReads_clean fun y hy => h y (List.mem_cons_of_mem _ hy)

theorem readsBad_clean (h : ∀ x ∈ rs, CleanAt d x.1 x.2) : d.readsBad rs = none :=
  List.findSome?_eq_none_iff.2 fun x hx => (h x hx).1

theorem readsBad_single : d.readsBad [(a, n)] = d.dataBad a n := by
  rw [Device.readsBad, List.findSome?_singleton]

/-- Where no line is corrected, the count of an error changes neither memory nor context (R176). -/
theorem eccOf_keeps {α : Type} {r : Except Nat α} (h : d.mem.ceLines = []) : (d.eccOf a r).mem = d.mem ∧ (d.eccOf a r).ctxs = d.ctxs := by
  unfold Device.eccOf
  split
  · rw [h]; exact ⟨rfl, rfl⟩
  · split <;> exact ⟨rfl, rfl⟩
  · exact ⟨rfl, rfl⟩

/-- Where no line is corrected, a read changes neither memory nor context, whatever errors it finds (R176). -/
theorem eccPlain_keeps (h : d.mem.ceLines = []) : (d.eccPlain a n).mem = d.mem ∧ (d.eccPlain a n).ctxs = d.ctxs := by
  unfold Device.eccPlain
  split
  · exact ⟨rfl, rfl⟩
  refine List.foldlRecOn (motive := fun x : Device × Bool => x.1.mem = d.mem ∧ x.1.ctxs = d.ctxs) _ _ ⟨rfl, rfl⟩ fun x hx k _ => ?_
  have hecc : ∀ r : Except Nat Unit, (x.1.eccOf (lineOf a + 64 * k) r).mem = d.mem ∧ (x.1.eccOf (lineOf a + 64 * k) r).ctxs = d.ctxs := fun r => by
    obtain ⟨hm, hc⟩ := eccOf_keeps (r := r) (a := lineOf a + 64 * k) (d := x.1) (by rw [hx.1]; exact h)
    exact ⟨hm.trans hx.1, hc.trans hx.2⟩
  split
  · exact hx
  · split
    · exact hecc _
    · exact hecc _
end

/-! ### A descriptor and its reads (R172, R176, R192) -/

section
variable {s : State} {d : Device} {slot : CtxSlot} {c : Context} {t : Taken} {op a h : Nat} {e : List Byte}

/-- A command of a descriptor at the head of its ring is the descriptor's own effect. -/
theorem exec_descriptor {i : Instr} {rule : DescRule} {body : Device → Context → Taken → Device}
    (hi : exec i s = .next { s with dev := s.dev.descriptor slot op rule body }) (hat : AtHead s slot op c t) :
    exec i s = .next { s with dev := body s.dev c t } := by rw [hi, descriptor_acts hat]

/-- The context of a slot after it has been rewritten. -/
theorem ctxAt_modCtx_self {f : Context → Context} (hf : ∀ c, (f c).slot = c.slot) (hc : d.ctxAt slot = some c) :
    (d.modCtx slot f).ctxAt slot = some (f c) := by
  rw [ctxAt_modCtx d slot hf, hc, Option.map_some, if_pos (beq_iff_eq.2 (ctxAt_slot hc))]

/-- A descriptor whose reads find no error goes on. -/
theorem withReads_clean {rs : List (Nat × Nat)} {res : List Byte} {f : Device → Device} (hrs : ∀ x ∈ rs, CleanAt d x.1 x.2) :
    d.withReads c t rs res f = f d := by
  simp only [Device.withReads, readsBad_clean hrs, eccReads_clean hrs]

/-- A descriptor whose handle has an entry that holds no error goes on with it. -/
theorem withEntry_clean {f : Device → Nat → Nat → List Byte → Device} (hentry : d.entryOf c (field t.entry 8 4) = some (a, e))
    (hclean : CleanAt d a 64) : d.withEntry c t f = f d (field t.entry 8 4) a e := by
  simp only [Device.withEntry, hentry]
  exact withReads_clean fun x hx => by rw [List.mem_singleton.1 hx]; exact hclean

/-- A descriptor whose entry's line gives an error completes with FAULT and its record, on a device whose memory and contexts are as they
were (R176, R192). -/
theorem withEntry_bad {f : Device → Nat → Nat → List Byte → Device} {bad : Nat × Nat} (hentry : d.entryOf c (field t.entry 8 4) = some (a, e))
    (hbad : d.dataBad a 64 = some bad) (hce : d.mem.ceLines = []) : ∃ d1 : Device, d1.mem = d.mem ∧ d1.ctxs = d.ctxs
      ∧ d.withEntry c t f = d1.answerFault c t (d1.hdErr c bad.1 bad.2 0 false) (adapterResult (field t.entry 8 4) 0) := by
  have hecc : d.eccReads [(a, 64)] = d.eccPlain a 64 := by simp only [Device.eccReads, ite_self]
  refine ⟨d.eccPlain a 64, (eccPlain_keeps hce).1, (eccPlain_keeps hce).2, ?_⟩
  simp only [Device.withEntry, hentry, Device.withReads, readsBad_single, hbad, hecc]
end

end Sys2Proof.Laws
end

section
/-! SUPPORT. The adapter descriptors (R231, R234, R262, R263): the fields of the entries that they write, what they answer in each state, and what a
descriptor that has rewritten its entry leaves. -/

namespace Sys2Proof.Laws

set_option Elab.async false

open Sys2Proof Sys2Proof.Machine Sys2Proof.Safety

/-! ### Entries (R231, R234) -/

section
variable {state policy home slots commit src cache bytes masters tag x n : Nat} {e : List Byte}

theorem dirEntry_length : (dirEntry state policy home slots commit src cache bytes masters tag).length = 64 := by
  simp [dirEntry]

/-- The fields of a directory entry, each as far as its width reaches. -/
theorem dirEntry_fields : let e := dirEntry state policy home slots commit src cache bytes masters tag
    field e 1 1 = state % 256 ∧ field e 2 1 = policy % 256 ∧ field e 4 2 = slots % 2 ^ 16 ∧ field e 8 8 = commit % 2 ^ 64
      ∧ field e 0x10 8 = src % 2 ^ 64 ∧ field e 0x18 8 = cache % 2 ^ 64 ∧ field e 0x20 8 = bytes % 2 ^ 64 ∧ field e 0x28 8 = masters % 2 ^ 64
      ∧ field e 0x30 8 = tag % 2 ^ 64 := by
  simp [dirEntry, field_append_left, field_append_right]

theorem dirMoved_length (h : e.length = 64) : (dirMoved e state home cache).length = 64 := by
  simp [dirMoved, splice_length, h]

/-- The state, the home and the cache of an entry that has moved. -/
theorem dirMoved_fields (h : e.length = 64) : field (dirMoved e state home cache) 1 1 = state % 256
    ∧ field (dirMoved e state home cache) 3 1 = home % 256 ∧ field (dirMoved e state home cache) 0x18 8 = cache % 2 ^ 64 := by
  simp [dirMoved, field_splice_same, field_splice_other, splice_length, le_bytesLE, h]

/-- Every other field of an entry that has moved is as before. -/
theorem dirMoved_other (h : e.length = 64) (hstate : 2 ≤ x ∨ x + n ≤ 1) (hhome : 4 ≤ x ∨ x + n ≤ 3) (hcache : 0x20 ≤ x ∨ x + n ≤ 0x18) :
    field (dirMoved e state home cache) x n = field e x n := by
  rw [dirMoved, field_splice_other (by simp [splice_length, h]) (by rw [bytesLE_length]; omega),
    field_splice_other (by simp [splice_length, h]) (by rw [bytesLE_length]; omega),
    field_splice_other (by simp [h]) (by rw [bytesLE_length]; omega)]
end

section
variable {t : Taken} {e : List Byte}

/-- The entry that a REGISTER writes over the entry `e` (R231, R234). -/
def registeredEntry (t : Taken) (e : List Byte) : List Byte :=
  dirEntry 1 (field t.entry 0xC 1 % 8) 0 0 (dirCommit e) (entDpa t.entry 0x10) 0 (field t.entry 0x18 8) (entDpa t.entry 0x20) (field t.entry 0x28 8)

theorem registeredEntry_fields : let e' := registeredEntry t e
    e'.length = 64 ∧ field e' 1 1 = 1 ∧ field e' 2 1 = field t.entry 0xC 1 % 8 ∧ field e' 4 2 = 0 ∧ field e' 8 8 = field e 8 8
      ∧ field e' 0x10 8 = field t.entry 0x10 8 % 2 ^ 52 ∧ field e' 0x18 8 = 0 ∧ field e' 0x20 8 = field t.entry 0x18 8
      ∧ field e' 0x28 8 = field t.entry 0x20 8 % 2 ^ 52 ∧ field e' 0x30 8 = field t.entry 0x28 8 := by
  obtain ⟨hstate, hpolicy, hslots, hcommit, hsrc, hcache, hbytes, hmasters, htag⟩ := dirEntry_fields (state := 1) (policy := field t.entry 0xC 1 % 8)
    (home := 0) (slots := 0) (commit := dirCommit e) (src := entDpa t.entry 0x10) (cache := 0) (bytes := field t.entry 0x18 8)
    (masters := entDpa t.entry 0x20) (tag := field t.entry 0x28 8)
  have hdpa : ∀ off, entDpa t.entry off % 2 ^ 64 = field t.entry off 8 % 2 ^ 52 := fun off => by rw [entDpa]; omega
  exact ⟨dirEntry_length, hstate, hpolicy.trans (by omega), hslots, hcommit.trans (field_mod ..), hsrc.trans (hdpa _), hcache,
    hbytes.trans (field_mod ..), hmasters.trans (hdpa _), htag.trans (field_mod ..)⟩
end

/-! ### What rewriting an entry leaves (R231, R237, R262) -/

/-- The entry at `a` of the context `c` has been rewritten in one line write, the context counts `n` resident adapters, and its ring and the dies
are as before. -/
def EntryRewritten (d₀ d : Device) (c : Context) (a : Nat) (e : List Byte) (n : Nat) : Prop :=
  d.mem = (d₀.writeAs (c.domOf a) a e).mem ∧ d.dies = d₀.dies
    ∧ ∃ c', d.ctxAt c.slot = some c' ∧ c'.residents = n ∧ c'.head = c.head ∧ c'.ring = c.ring

section
variable {d₀ d : Device} {c : Context} {a n : Nat} {e : List Byte}

theorem writeAs_ctxs (dom : Fin 64) (a : Nat) (bs : List Byte) : (d.writeAs dom a bs).ctxs = d.ctxs := by
  unfold Device.writeAs; dsimp only; split <;> rfl

theorem entryRewritten_putEntry (hc : d.ctxAt c.slot = some c) : EntryRewritten d (d.putEntry c a e) c a e c.residents :=
  ⟨rfl, writeAs_dies .., c, by rw [Device.ctxAt, Device.putEntry, writeAs_ctxs]; exact hc, rfl, rfl, rfl⟩

/-- An update of the context after the write changes the count alone. -/
theorem EntryRewritten.modCtx {f : Context → Context} {g : Nat → Nat} (h : EntryRewritten d₀ d c a e n) (hslot : ∀ c, (f c).slot = c.slot)
    (hres : ∀ c, (f c).residents = g c.residents) (hhead : ∀ c, (f c).head = c.head) (hring : ∀ c, (f c).ring = c.ring) :
    EntryRewritten d₀ (d.modCtx c.slot f) c a e (g n) := by
  obtain ⟨hmem, hdies, c', hc', hn, hh, hr⟩ := h
  exact ⟨hmem, hdies, f c', ctxAt_modCtx_self hslot hc', (hres c').trans (congrArg g hn), (hhead c').trans hh, (hring c').trans hr⟩

theorem EntryRewritten.modResidents {g : Nat → Nat} (h : EntryRewritten d₀ d c a e n) :
    EntryRewritten d₀ (d.modCtx c.slot fun c => { c with residents := g c.residents }) c a e (g n) :=
  h.modCtx (fun _ => rfl) (fun _ => rfl) (fun _ => rfl) fun _ => rfl

theorem EntryRewritten.countScaled {old new : Nat} (h : EntryRewritten d₀ d c a e n) : EntryRewritten d₀ (d.countScaled c old new) c a e n :=
  h.modCtx (g := id) (fun _ => rfl) (fun _ => rfl) (fun _ => rfl) fun _ => rfl
end

/-! ### Answers by state (R231, R234, R262) -/

section
variable {d : Device} {c : Context} {t : Taken} {a : Nat} {e : List Byte}

/-- The reads of a change of policy find no error where the commit line holds none. -/
theorem policyReads_clean (hcommit : CleanAt d c.commitLine.toNat 64) (old new : Nat) : ∀ x ∈ policyReads c old new, CleanAt d x.1 x.2 := by
  intro x hx
  unfold policyReads at hx
  split at hx
  · rw [List.mem_singleton.1 hx]; exact hcommit
  · cases hx

variable (hentry : d.entryOf c (field t.entry 8 4) = some (a, e)) (hclean : CleanAt d a 64) (hcommit : CleanAt d c.commitLine.toNat 64)
include hentry hclean

theorem adapterRegister_refuses (hstate : dirState e ≠ 0) : d.adapterRegister c t = d.adapterAnswer c t 0x15 (field t.entry 8 4) (dirTag e) := by
  rw [Device.adapterRegister, withEntry_clean hentry hclean]
  exact if_pos hstate

theorem adapterPolicy_refuses (hstate : dirState e = 0 ∨ dirState e = 3) :
    d.adapterPolicy c t = d.adapterAnswer c t 0x15 (field t.entry 8 4) (dirTag e) := by
  rw [Device.adapterPolicy, withEntry_clean hentry hclean]
  exact if_pos hstate

theorem adapterEvict_slotted (hslots : dirSlots e ≠ 0) : d.adapterEvict c t = d.adapterAnswer c t 0x17 (field t.entry 8 4) (dirTag e) := by
  rw [Device.adapterEvict, withEntry_clean hentry hclean]
  exact if_pos hslots

theorem adapterEvict_refuses (hslots : dirSlots e = 0) (hstate : dirState e ≠ 2) :
    d.adapterEvict c t = d.adapterAnswer c t 0x15 (field t.entry 8 4) (dirTag e) := by
  rw [Device.adapterEvict, withEntry_clean hentry hclean]
  exact (if_neg (not_not_intro hslots)).trans (if_pos hstate)

theorem adapterEvict_evicts (hslots : dirSlots e = 0) (hstate : dirState e = 2) :
    d.adapterEvict c t = ((d.putEntry c a (dirMoved e 1 0 0)).modCtx c.slot fun c => { c with residents := c.residents - 1 }).adapterAnswer c t 0
      (field t.entry 8 4) (dirTag e) := by
  rw [Device.adapterEvict, withEntry_clean hentry hclean]
  exact (if_neg (not_not_intro hslots)).trans (if_neg (not_not_intro hstate))

theorem adapterUnregister_slotted (hslots : dirSlots e ≠ 0) :
    d.adapterUnregister c t = d.adapterAnswer c t 0x17 (field t.entry 8 4) (dirTag e) := by
  rw [Device.adapterUnregister, withEntry_clean hentry hclean]
  exact if_pos hslots

theorem adapterUnregister_refuses (hslots : dirSlots e = 0) (hstate : dirState e ≠ 1) :
    d.adapterUnregister c t = d.adapterAnswer c t 0x15 (field t.entry 8 4) (dirTag e) := by
  rw [Device.adapterUnregister, withEntry_clean hentry hclean]
  exact (if_neg (not_not_intro hslots)).trans (if_pos hstate)

include hcommit

theorem adapterRegister_registers (hstate : dirState e = 0) (hcode : d.policyCode c (dirPolicy e) (field t.entry 0xC 1 % 8) = 0) :
    d.adapterRegister c t = ((d.putEntry c a (registeredEntry t e)).countScaled c (dirPolicy e) (field t.entry 0xC 1 % 8)).adapterAnswer c t 0
      (field t.entry 8 4) (field t.entry 0x28 8) := by
  rw [Device.adapterRegister, withEntry_clean hentry hclean]
  dsimp only
  rw [if_neg (not_not_intro hstate), withReads_clean (policyReads_clean hcommit _ _), if_neg (not_not_intro hcode), registeredEntry]

theorem adapterPolicy_changes (hstate : dirState e = 1 ∨ dirState e = 2)
    (hcode : d.policyCode c (dirPolicy e) (field t.entry 0xC 1 % 8) = 0) :
    d.adapterPolicy c t = ((d.putEntry c a (splice e 2 (bytesLE 1 (field t.entry 0xC 1 % 8)))).countScaled c (dirPolicy e)
      (field t.entry 0xC 1 % 8)).adapterAnswer c t 0 (field t.entry 8 4) (dirTag e) := by
  rw [Device.adapterPolicy, withEntry_clean hentry hclean]
  dsimp only
  rw [if_neg (by omega), withReads_clean (policyReads_clean hcommit _ _), if_neg (not_not_intro hcode)]

theorem adapterUnregister_unregisters (hslots : dirSlots e = 0) (hstate : dirState e = 1) (hcode : d.policyCode c (dirPolicy e) 0 = 0) :
    d.adapterUnregister c t = (((d.putEntry c a (zeros 64)).countScaled c (dirPolicy e) 0).modCtx c.slot fun c =>
      { c with residents := c.residents - 1 }).adapterAnswer c t 0 (field t.entry 8 4) (dirTag e) := by
  rw [Device.adapterUnregister, withEntry_clean hentry hclean]
  dsimp only
  rw [if_neg (not_not_intro hslots), if_neg (not_not_intro hstate), withReads_clean (policyReads_clean hcommit _ _), if_neg (not_not_intro hcode)]
end

/-- LOSS_SCALE_SET of every setting, within the bounds, keeps them for the next commit (R263). -/
theorem lossScaleSet_keeps {d : Device} {c : Context} {t : Taken} (hcommit : CleanAt d c.commitLine.toNat 64) (hmask : field t.entry 8 1 % 16 = 15)
    (hmin : field t.entry 9 1 ≤ field t.entry 0xA 1) (hmax : field t.entry 0xA 1 ≤ 24) (hperiod : 100 ≤ field t.entry 0xC 2) :
    d.lossScaleSet c t = (d.modCtx c.slot fun c => { c with loss := {
      kmin := some (BitVec.ofNat 8 (field t.entry 9 1))
      kmax := some (BitVec.ofNat 8 (field t.entry 0xA 1))
      period := some (BitVec.ofNat 16 (field t.entry 0xC 2))
      pin := some (bits (field t.entry 0xB 1) 0 0 == 1) } }).answer (.ctx c.slot) t 0 := by
  have hbits : ∀ i < 4, (bits (field t.entry 8 1) i i == 1) = true := by
    intro i hi
    rw [beq_iff_eq, bits_eq]
    interval_cases i <;> omega
  simp only [Device.lossScaleSet, Device.withCommit, hcommit.1, hbits 0 (by decide), hbits 1 (by decide), hbits 2 (by decide), hbits 3 (by decide),
    if_true]
  exact if_neg (by omega)

end Sys2Proof.Laws
end

section
/-! REGISTER, POLICY, EVICT and UNREGISTER rewrite their entry, and LOSS_SCALE_SET keeps its settings (O39). -/

namespace Sys2Proof.Safety

set_option Elab.async false

open Sys2Proof Sys2Proof.Machine Sys2Proof.Laws

section
variable {s : State} {slot : CtxSlot} {c : Context} {t : Taken} {op a h g code n : Nat} {e e' : List Byte} {i : Instr} {d : Device} {rule : DescRule}
  {body : Device → Context → Taken → Device}

/-- An adapter descriptor that answers has completed. -/
theorem exec_adapterAnswer (hi : exec i s = .next { s with dev := s.dev.descriptor slot op rule body }) (hat : AtHead s slot op c t)
    (hbody : body s.dev c t = d.adapterAnswer c t code h g) :
    exec i s = .next (Completed s d (.ctx slot) t code 0 (bytesLE 4 h ++ List.replicate 4 0 ++ bytesLE 8 g)) := by
  obtain rfl := ctxAt_slot hat.1
  rw [exec_descriptor hi hat, hbody]
  rfl

/-- A descriptor that has rewritten its entry completes with OK. -/
theorem exec_entryRewritten (hi : exec i s = .next { s with dev := s.dev.descriptor slot op rule body }) (hat : AtHead s slot op c t)
    (hbody : body s.dev c t = d.adapterAnswer c t 0 h g) (hd : s.dev.ctxAt c.slot = some c → EntryRewritten s.dev d c a e' n) :
    ∃ d : Device, exec i s = .next (Completed s d (.ctx slot) t 0 0 (bytesLE 4 h ++ List.replicate 4 0 ++ bytesLE 8 g))
      ∧ d.mem = (s.dev.writeAs (c.domOf a) a e').mem ∧ d.dies = s.dev.dies
      ∧ (∃ c', d.ctxAt slot = some c' ∧ c'.residents = n ∧ c'.head = c.head ∧ c'.ring = c.ring) := by
  have hexec := exec_adapterAnswer hi hat hbody
  obtain rfl := ctxAt_slot hat.1
  exact ⟨d, hexec, hd hat.1⟩

/-- An adapter descriptor whose entry's line gives an error completes with FAULT and the record of that line (R176, R192). -/
theorem exec_entryBad {f : Device → Context → Taken → Device → Nat → Nat → List Byte → Device} {bad : Nat × Nat}
    (hi : exec i s = .next { s with dev := s.dev.descriptor slot op rule fun d c t => d.withEntry c t (f d c t) }) (hat : AtHead s slot op c t)
    (hentry : s.dev.entryOf c (field t.entry 8 4) = some (a, e)) (hbad : s.dev.dataBad a 64 = some bad) (hce : s.dev.mem.ceLines = []) :
    ∃ (d : Device) (r : ErrRec),
      exec i s = .next (Completed s (d.fault c r) (.ctx slot) t 0xE6 1 (bytesLE 4 (field t.entry 8 4) ++ List.replicate 12 0 ++ r.encode))
        ∧ d.mem = s.dev.mem ∧ d.ctxs = s.dev.ctxs ∧ r.cls = 7 ∧ r.code = BitVec.ofNat 16 bad.1 ∧ r.ctx = c.tag ∧ r.dpa = BitVec.ofNat 52 bad.2 := by
  obtain rfl := ctxAt_slot hat.1
  obtain ⟨d, hmem, hctxs, hd⟩ := withEntry_bad (t := t) (f := f s.dev c t) hentry hbad hce
  refine ⟨d, d.hdErr c bad.1 bad.2 0 false, ?_, hmem, hctxs, rfl, rfl, rfl, rfl⟩
  rw [exec_descriptor hi hat, hd]
  rfl

/-- LOSS_SCALE_SET of every setting, within the bounds, completes with the settings kept in its context (R263). -/
theorem exec_lossScaleSet (hat : AtHead s slot 5 c t) (hcommit : CleanAt s.dev c.commitLine.toNat 64) (hmask : field t.entry 8 1 % 16 = 15)
    (hmin : field t.entry 9 1 ≤ field t.entry 0xA 1) (hmax : field t.entry 0xA 1 ≤ 24) (hperiod : 100 ≤ field t.entry 0xC 2) :
    ∃ d : Device, exec (.lossScaleSet slot) s = .next (Completed s d (.ctx slot) t 0 0 []) ∧ d.mem = s.dev.mem ∧ d.dies = s.dev.dies
      ∧ ∃ c', d.ctxAt slot = some c' ∧ c'.loss.kmin = some (BitVec.ofNat 8 (field t.entry 9 1))
        ∧ c'.loss.kmax = some (BitVec.ofNat 8 (field t.entry 0xA 1)) ∧ c'.loss.period = some (BitVec.ofNat 16 (field t.entry 0xC 2))
        ∧ c'.loss.pin = some (decide (field t.entry 0xB 1 % 2 = 1)) := by
  have hexec := exec_descriptor (i := .lossScaleSet slot) rfl hat
  rw [lossScaleSet_keeps hcommit hmask hmin hmax hperiod] at hexec
  obtain rfl := ctxAt_slot hat.1
  exact ⟨_, hexec, rfl, rfl, _, ctxAt_modCtx_self (fun _ => rfl) hat.1, rfl, rfl, rfl, rfl⟩
end

/-- Settles O39: each descriptor answers by the state of its entry (`adapterRegister_registers` and the lemmas beside it), and what it writes is
`EntryRewritten`. -/
theorem residencyTransitionsRewriteTheirEntry : Obligations.ResidencyTransitionsRewriteTheirEntry := by
  unfold Obligations.ResidencyTransitionsRewriteTheirEntry
  intro s slot c t a e h pol state slots tag res dom ends refused hentry hlen
  refine ⟨fun x hx hat bad hbad hce => ?_, fun hclean hcommit => ⟨fun hat => ⟨fun hstate hcode => ?_, fun hstate => ?_⟩,
    fun hat => ⟨fun hstate hcode => ?_, fun hstate => ?_⟩, fun hat => ⟨fun hslots hstate => ?_, fun hslots => ?_, fun hslots hstate => ?_⟩,
    fun hat => ⟨fun hslots hstate hcode => ?_, fun hslots => ?_, fun hslots hstate => ?_⟩, exec_lossScaleSet (hcommit := hcommit)⟩⟩
  · simp only [List.mem_cons, List.not_mem_nil, or_false] at hx
    rcases hx with rfl | rfl | rfl | rfl <;> exact exec_entryBad rfl hat hentry hbad hce
  -- REGISTER
  · exact ⟨registeredEntry t e, exec_entryRewritten rfl hat (adapterRegister_registers hentry hclean hcommit hstate hcode)
      fun hc => (entryRewritten_putEntry hc).countScaled, registeredEntry_fields⟩
  · exact exec_adapterAnswer rfl hat (adapterRegister_refuses hentry hclean hstate)
  -- POLICY
  · exact exec_entryRewritten rfl hat (adapterPolicy_changes hentry hclean hcommit hstate hcode)
      fun hc => (entryRewritten_putEntry hc).countScaled
  · exact exec_adapterAnswer rfl hat (adapterPolicy_refuses hentry hclean hstate)
  -- EVICT
  · obtain ⟨hst, hhome, hcache⟩ := dirMoved_fields (state := 1) (home := 0) (cache := 0) hlen
    have hother := fun x n => dirMoved_other (state := 1) (home := 0) (cache := 0) (x := x) (n := n) hlen
    exact ⟨dirMoved e 1 0 0, exec_entryRewritten rfl hat (adapterEvict_evicts hentry hclean hslots hstate)
      fun hc => (entryRewritten_putEntry hc).modResidents (g := (· - 1)),
      hst, hcache, hhome, hother 8 8 (by decide) (by decide) (by decide), hother 0x10 8 (by decide) (by decide) (by decide),
      hother 2 1 (by decide) (by decide) (by decide)⟩
  · exact exec_adapterAnswer rfl hat (adapterEvict_slotted hentry hclean hslots)
  · exact exec_adapterAnswer rfl hat (adapterEvict_refuses hentry hclean hslots hstate)
  -- UNREGISTER
  · exact exec_entryRewritten rfl hat (adapterUnregister_unregisters hentry hclean hcommit hslots hstate hcode)
      fun hc => (entryRewritten_putEntry hc).countScaled.modResidents (g := (· - 1))
  · exact exec_adapterAnswer rfl hat (adapterUnregister_slotted hentry hclean hslots)
  · exact exec_adapterAnswer rfl hat (adapterUnregister_refuses hentry hclean hslots hstate)

end Sys2Proof.Safety
end

section
/-! SUPPORT. ADAPTER_FETCH (R234, R236, R237): its answers, in the order of its checks, and its end once the body has been copied. -/

namespace Sys2Proof.Laws

set_option Elab.async false

open Sys2Proof Sys2Proof.Machine Sys2Proof.Safety

/-- A cache of `n` bytes at an arc position that a FETCH may fill: whole lines inside a cache region (R236). -/
def CacheGood (c : Context) (pos cache n : Nat) : Prop := pos < c.m ∧ cache % 64 = 0 ∧ c.roleCovers 3 pos cache n = true

theorem cacheGood_iff {c : Context} {pos cache n : Nat} :
    CacheGood c pos cache n ↔ ¬ (c.m ≤ pos ∨ cache % 64 ≠ 0 ∨ (!c.roleCovers 3 pos cache n) = true) := by
  simp [CacheGood]

section
variable {d d1 : Device} {c : Context} {t : Taken} {a : Nat} {e : List Byte}
variable (hentry : d.entryOf c (field t.entry 8 4) = some (a, e)) (hclean : CleanAt d a 64)
include hentry hclean

theorem adapterFetch_already (hstate : dirState e = 2) : d.adapterFetch c t = d.adapterAnswer c t 1 (field t.entry 8 4) (dirTag e) := by
  rw [Device.adapterFetch, withEntry_clean hentry hclean]
  exact if_pos hstate

theorem adapterFetch_refuses (hresident : dirState e ≠ 2) (hstate : dirState e ≠ 1) :
    d.adapterFetch c t = d.adapterAnswer c t 0x15 (field t.entry 8 4) (dirTag e) := by
  rw [Device.adapterFetch, withEntry_clean hentry hclean]
  exact (if_neg hresident).trans (if_pos hstate)

variable (hstate : dirState e = 1)
include hstate

theorem adapterFetch_outside (hbad : ¬ CacheGood c (field t.entry 0xC 1) (entDpa t.entry 0x10) (dirBytes e)) :
    d.adapterFetch c t = d.adapterAnswer c t 0x19 (field t.entry 8 4) (dirTag e) := by
  rw [cacheGood_iff, not_not] at hbad
  rw [Device.adapterFetch, withEntry_clean hentry hclean]
  dsimp only
  rw [if_neg (by omega), if_neg (not_not_intro hstate), if_pos hbad]

variable (hgood : CacheGood c (field t.entry 0xC 1) (entDpa t.entry 0x10) (dirBytes e))
include hgood

theorem adapterFetch_full (hquota : c.quota ≤ c.residents) : d.adapterFetch c t = d.adapterAnswer c t 0x13 (field t.entry 8 4) (dirTag e) := by
  rw [Device.adapterFetch, withEntry_clean hentry hclean]
  dsimp only
  rw [if_neg (by omega), if_neg (not_not_intro hstate), if_neg (cacheGood_iff.1 hgood), if_pos hquota]

/-- A FETCH that has copied its body ends by the checks of R229, R230 and R240. -/
theorem adapterFetch_copied (hquota : c.residents < c.quota)
    (hlines : d.fetchLines c (c.cdAt (field t.entry 0xC 1)) (ceilDiv (dirBytes e) 64) (lineOf (dirSrc e)) (entDpa t.entry 0x10) 0 = (d1, none))
    (htable : ∀ x ∈ d1.tableReads c (entDpa t.entry 0x10), CleanAt d1 x.1 x.2) :
    d.adapterFetch c t = if (!d1.bodyOk c (entDpa t.entry 0x10) (dirBytes e)) = true then d1.adapterAnswer c t 0x16 (field t.entry 8 4) (dirTag e)
      else ((d1.putEntry c a (dirMoved e 2 (field t.entry 0xC 1) (entDpa t.entry 0x10))).modCtx c.slot fun c =>
        { c with residents := c.residents + 1 }).adapterAnswer c t 0 (field t.entry 8 4) (dirTag e) := by
  rw [Device.adapterFetch, withEntry_clean hentry hclean]
  dsimp only
  rw [if_neg (by omega), if_neg (not_not_intro hstate), if_neg (cacheGood_iff.1 hgood), if_neg (by omega), hlines]
  exact withReads_clean htable
end

end Sys2Proof.Laws
end

section
/-! ADAPTER_FETCH makes a registered adapter resident (O40). -/

namespace Sys2Proof.Safety

set_option Elab.async false

open Sys2Proof Sys2Proof.Machine Sys2Proof.Laws

/-- Settles O40: the answers of a FETCH in the order of its checks, and `adapterFetch_copied` once its body has been copied. -/
theorem fetchMakesAnAdapterResident : Obligations.FetchMakesAnAdapterResident := by
  unfold Obligations.FetchMakesAnAdapterResident
  intro s slot c t a e h pos cache n res good ends hat hentry hlen hclean
  refine ⟨fun hstate => exec_adapterAnswer rfl hat (adapterFetch_already hentry hclean hstate),
    fun hresident hstate => exec_adapterAnswer rfl hat (adapterFetch_refuses hentry hclean hresident hstate),
    fun hstate hgood => exec_adapterAnswer rfl hat (adapterFetch_outside hentry hclean hstate hgood),
    fun hstate hgood hquota => exec_adapterAnswer rfl hat (adapterFetch_full hentry hclean hstate hgood hquota),
    fun d1 hstate hgood hquota hlines htable => ?_⟩
  have hcopied := adapterFetch_copied hentry hclean hstate hgood hquota hlines htable
  refine ⟨fun hbody => exec_adapterAnswer rfl hat (hcopied.trans (if_pos ?_)), fun hbody hctxs => ?_⟩
  · rw [Bool.not_eq_true']; exact hbody
  have hc : d1.ctxAt c.slot = some c := by rw [Device.ctxAt, hctxs, ctxAt_slot hat.1]; exact hat.1
  obtain ⟨hmem, -, c', hc', hres, -⟩ := (entryRewritten_putEntry (a := a) (e := dirMoved e 2 pos cache) hc).modResidents (g := (· + 1))
  obtain ⟨hst, hhome, hcache⟩ := dirMoved_fields (state := 2) (home := pos) (cache := cache) hlen
  have hother := fun x n => dirMoved_other (state := 2) (home := pos) (cache := cache) (x := x) (n := n) hlen
  refine ⟨_, dirMoved e 2 pos cache, exec_adapterAnswer rfl hat (hcopied.trans (if_neg ?_)), hmem, dirMoved_length hlen, hst,
    hhome.trans (field_mod ..), hcache.trans ?_, hother 8 8 (by decide) (by decide) (by decide), hother 4 2 (by decide) (by decide) (by decide),
    c', ?_, hres⟩
  · rw [Bool.not_eq_true', Bool.not_eq_false]; exact hbody
  · exact Nat.mod_eq_of_lt ((Nat.mod_lt _ (by decide)).trans (by decide))
  · rw [← ctxAt_slot hat.1]; exact hc'

end Sys2Proof.Safety
end

section
/-! SUPPORT. Slot lists (R238 to R241): a claim and a release by what they find, the writes of a claim that holds, and the end of a list. -/

namespace Sys2Proof.Laws

set_option Elab.async false

open Sys2Proof Sys2Proof.Machine Sys2Proof.Safety

/-! ### Reads, writes and status bytes of a list in progress -/

section
variable {r : ClaimRun} {c : Context} {o pos x code v : Nat} {bs : List Byte} {d1 : Device} {rs : List (Nat × Nat)} {is : List BodyItem}

theorem tell_good (hb : r.bad = none) : r.tell code = { r with status := r.status ++ [BitVec.ofNat 8 code] } := by
  simp only [ClaimRun.tell, hb]
  rfl

/-- A list that a fault has ended gets no further status byte. -/
theorem tell_bad (hb : r.bad.isSome = true) : r.tell code = r := if_pos hb

/-- A list that a fault has ended reads nothing more. -/
theorem look_bad (hb : r.bad.isSome = true) : r.look c rs = r := if_pos hb

/-- Reads that find no error leave a list as it is (R176). -/
theorem look_clean (hb : r.bad = none) (hrs : ∀ x ∈ rs, CleanAt r.d x.1 x.2) : r.look c rs = r := by
  obtain ⟨d, status, bad⟩ := r
  obtain rfl : bad = none := hb
  simp only [ClaimRun.look, eccReads_clean hrs, readsBad_clean hrs]
  rfl

/-- A read that finds no error leaves a list as it is (R176). -/
theorem look_clean_one {a n : Nat} (hb : r.bad = none) (h : CleanAt r.d a n) : r.look c [(a, n)] = r :=
  look_clean hb fun x hx => by rw [List.mem_singleton.1 hx]; exact h

/-- A read that finds an error ends a list with its record (R172, R176, R192). -/
theorem look_finds {a n : Nat} {bad : Nat × Nat} (hb : r.bad = none) (h : r.d.dataBad a n = some bad) :
    ∃ d1 : Device, r.look c [(a, n)] = { r with d := d1, bad := some (d1.hdErr c bad.1 bad.2 0 false) } := by
  refine ⟨r.d.eccReads [(a, n)], ?_⟩
  simp only [ClaimRun.look, hb, readsBad_single, h]
  rfl

/-- A write that no line refuses (R238). -/
theorem put_good (hb : r.bad = none) (h : r.d.putBytes c (c.cdAt pos) .record (c.areaAt o pos x) bs = (d1, none)) :
    r.put c o pos x bs = { r with d := d1 } := by
  simp only [ClaimRun.put, hb, h]
  rfl

theorem filter_extra_none (h : ∀ i ∈ is, i.extra = false) : is.filter (·.extra) = [] :=
  List.filter_eq_nil_iff.2 fun i hi => by simp [h i hi]

/-- A body without extra experts writes no expert-map entry (R240). -/
theorem experts_none (h : ∀ i ∈ is, i.extra = false) : r.experts c o pos is v = r := by
  rw [ClaimRun.experts, filter_extra_none h, List.foldl_nil]

theorem expertReads_none (h : ∀ i ∈ is, i.extra = false) : expertReads c o pos is = [] := by
  rw [expertReads, filter_extra_none h, List.map_nil]

theorem expertBusy_none {d : Device} (h : ∀ i ∈ is, i.extra = false) : d.expertBusy c o pos is = false :=
  List.any_eq_false.2 fun i hi => by simp [h i hi]
end

/-- A slot entry is valid by bit 31 of its first word (R238). -/
theorem slotValid_iff {e : List Byte} : slotValid e = true ↔ field e 0 4 / 2 ^ 31 % 2 = 1 := by
  rw [slotValid, beq_iff_eq, bits_eq, show 31 + 1 - 31 = 1 from rfl, pow_one]

theorem slotValid_free {e : List Byte} (h : field e 0 4 / 2 ^ 31 % 2 = 0) : slotValid e = false := by
  rw [← Bool.not_eq_true, slotValid_iff, h]; decide

/-! ### A claim (R239) -/

/-- The handle, the position and the slot that a claim names (R239). -/
theorem claim_word (w : Nat) : bits w 21 0 = w % 2 ^ 22 ∧ bits w 27 24 = w / 2 ^ 24 % 16 ∧ bits w 41 32 = w / 2 ^ 32 % 1024 :=
  ⟨rfl, bits_eq .., bits_eq ..⟩

section
variable {r : ClaimRun} {c : Context} {o w a : Nat} {e : List Byte} {d1 d2 : Device} (hb : r.bad = none)
include hb

theorem claim_unknown (hentry : r.d.entryOf c (w % 2 ^ 22) = none) : r.claim c o w = r.tell 0x14 := by
  rw [ClaimRun.claim, if_neg (by rw [hb]; decide)]
  dsimp only
  rw [(claim_word w).1, hentry]

variable (hentry : r.d.entryOf c (w % 2 ^ 22) = some (a, e)) (hclean : CleanAt r.d a 64)
include hentry hclean

/-- A claim of a known handle goes by the state of its entry. -/
theorem claim_known : r.claim c o w =
    if dirState e = 1 then r.tell 0x12
    else if dirState e ≠ 2 then r.tell 0x15
    else if c.m ≤ w / 2 ^ 24 % 16 then r.tell 0x18
    else
      let old := r.d.slotEntry c o (w / 2 ^ 24 % 16) (w / 2 ^ 32 % 1024)
      let r1 := r.look c [(c.areaAt o (w / 2 ^ 24 % 16) (32 * (w / 2 ^ 32 % 1024)), 32)]
      if slotValid old = true ∧ field old 0 4 % 2 ^ 22 = w % 2 ^ 22 then r1.tell 1
      else if slotValid old = true then r1.tell 0x10
      else
        let is := r.d.bodyItems c (dirCache e)
        let r2 := (r1.look c (r.d.tableReads c (dirCache e))).look c (expertReads c o (w / 2 ^ 24 % 16) is)
        if r2.bad.isSome = true then r2
        else if r.d.expertBusy c o (w / 2 ^ 24 % 16) is = true then r2.tell 0x11
        else r2.bind c o (w % 2 ^ 22) (w / 2 ^ 24 % 16) (w / 2 ^ 32 % 1024) a e is := by
  rw [ClaimRun.claim, if_neg (by rw [hb]; decide)]
  obtain ⟨hh, hpos, hslot⟩ := claim_word w
  dsimp only
  rw [hh, hpos, hslot, hentry]
  dsimp only
  rw [look_clean_one hb hclean, (claim_word _).1]

theorem claim_registered (hstate : dirState e = 1) : r.claim c o w = r.tell 0x12 := by
  rw [claim_known hb hentry hclean, if_pos hstate]

variable (hstate : dirState e = 2)
include hstate

theorem claim_beyond (hpos : c.m ≤ w / 2 ^ 24 % 16) : r.claim c o w = r.tell 0x18 := by
  rw [claim_known hb hentry hclean, if_neg (by omega), if_neg (not_not_intro hstate), if_pos hpos]

variable (hpos : w / 2 ^ 24 % 16 < c.m)
include hpos

/-- A claim whose slot entry cannot be read ends the list (R172, R176). -/
theorem claim_slotBad {bad : Nat × Nat} (hbad : r.d.dataBad (c.areaAt o (w / 2 ^ 24 % 16) (32 * (w / 2 ^ 32 % 1024))) 32 = some bad) :
    ∃ d1 : Device, r.claim c o w = { r with d := d1, bad := some (d1.hdErr c bad.1 bad.2 0 false) } := by
  obtain ⟨d1, hlook⟩ := look_finds (c := c) hb hbad
  have hsome : (r.look c [(c.areaAt o (w / 2 ^ 24 % 16) (32 * (w / 2 ^ 32 % 1024)), 32)]).bad.isSome = true := by rw [hlook]; rfl
  refine ⟨d1, Eq.trans ?_ hlook⟩
  rw [claim_known hb hentry hclean, if_neg (by omega), if_neg (not_not_intro hstate), if_neg (by omega)]
  dsimp only
  rw [look_bad hsome, look_bad hsome, tell_bad hsome, tell_bad hsome, if_pos hsome, ite_self, ite_self]

variable (hslot : CleanAt r.d (c.areaAt o (w / 2 ^ 24 % 16) (32 * (w / 2 ^ 32 % 1024))) 32)
include hslot

/-- A claim of a slot that is taken: by the same adapter, or by another. -/
theorem claim_taken (hvalid : slotValid (r.d.slotEntry c o (w / 2 ^ 24 % 16) (w / 2 ^ 32 % 1024)) = true) :
    r.claim c o w = r.tell (if field (r.d.slotEntry c o (w / 2 ^ 24 % 16) (w / 2 ^ 32 % 1024)) 0 4 % 2 ^ 22 = w % 2 ^ 22 then 1 else 0x10) := by
  rw [claim_known hb hentry hclean, if_neg (by omega), if_neg (not_not_intro hstate), if_neg (by omega)]
  dsimp only
  rw [look_clean_one hb hslot, if_pos hvalid, apply_ite r.tell]
  simp only [hvalid, true_and]

/-- A claim of a free slot for an adapter without extra experts binds it. -/
theorem claim_binds (hfree : slotValid (r.d.slotEntry c o (w / 2 ^ 24 % 16) (w / 2 ^ 32 % 1024)) = false)
    (htable : ∀ x ∈ r.d.tableReads c (dirCache e), CleanAt r.d x.1 x.2) (hextra : ∀ i ∈ r.d.bodyItems c (dirCache e), i.extra = false) :
    r.claim c o w = r.bind c o (w % 2 ^ 22) (w / 2 ^ 24 % 16) (w / 2 ^ 32 % 1024) a e (r.d.bodyItems c (dirCache e)) := by
  rw [claim_known hb hentry hclean, if_neg (by omega), if_neg (not_not_intro hstate), if_neg (by omega)]
  dsimp only
  rw [look_clean_one hb hslot, look_clean hb htable, expertReads_none hextra, look_clean hb (fun x hx => (List.not_mem_nil hx).elim),
    expertBusy_none hextra, if_neg (by rw [hfree]; exact fun h => Bool.false_ne_true h.1), if_neg (by rw [hfree]; decide),
    if_neg (by rw [hb]; decide), if_neg (by decide)]
end

/-- The slot entry that a claim writes (R238, R239). -/
def slotEntryOf (h : Nat) (e : List Byte) : List Byte :=
  bytesLE 4 (h + 2 ^ 31) ++ bytesLE 1 (dirHome e) ++ zeros 3 ++ bytesLE 8 (dirCache e) ++ bytesLE 8 (dirCommit e) ++ zeros 8

/-- The writes of a claim that holds, for an adapter without extra experts: slot entry, home-list entry, directory entry and the count of bound
slots (R239). -/
theorem bind_plain {r : ClaimRun} {c : Context} {o h pos slot a : Nat} {e : List Byte} {is : List BodyItem} {d1 d2 : Device} (hb : r.bad = none)
    (hextra : ∀ i ∈ is, i.extra = false)
    (hslot : r.d.putBytes c (c.cdAt pos) .record (c.areaAt o pos (32 * slot)) (slotEntryOf h e) = (d1, none))
    (hhome : d1.putBytes c (c.cdAt (dirHome e)) .record (c.areaAt o (dirHome e) (homeOff pos slot)) (bytesLE 8 (dirCache e + 2 ^ 63)) = (d2, none)) :
    r.bind c o h pos slot a e is =
      { d := (d2.putEntry c a (splice e 4 (bytesLE 2 (dirSlots e + 1)))).modCtx c.slot fun c => { c with slotsBound := c.slotsBound + 1 }
        status := r.status ++ [0], bad := none } := by
  obtain ⟨d, status, bad⟩ := r
  obtain rfl : bad = none := hb
  have h1 : (⟨d, status, none⟩ : ClaimRun).put c o pos (32 * slot) (slotEntryOf h e) = ⟨d1, status, none⟩ := put_good rfl hslot
  have h2 : (⟨d1, status, none⟩ : ClaimRun).put c o (dirHome e) (homeOff pos slot) (bytesLE 8 (dirCache e + 2 ^ 63)) = ⟨d2, status, none⟩ :=
    put_good rfl hhome
  unfold slotEntryOf at h1
  simp only [ClaimRun.bind, h1, experts_none hextra, h2]
  rfl

/-- The release of a slot that is not valid (R241). -/
theorem release_free {r : ClaimRun} {c : Context} {o w : Nat} (hb : r.bad = none) (hpos : bits w 7 0 < c.m) (hslot : bits w 31 16 ≤ 1023)
    (hclean : CleanAt r.d (c.areaAt o (bits w 7 0) (32 * bits w 31 16)) 32)
    (hfree : slotValid (r.d.slotEntry c o (bits w 7 0) (bits w 31 16)) = false) : r.release c o w = r.tell 0x18 := by
  rw [ClaimRun.release, if_neg (by rw [hb]; decide)]
  dsimp only
  rw [if_neg (by omega), look_clean_one hb hclean, if_pos (by rw [hfree]; decide)]

/-! ### A list (R239, R373, R423) -/

section
variable {r : ClaimRun} {d d1 : Device} {c : Context} {t : Taken} {list : Nat} {bs : List Byte}

/-- A list that no fault has ended, and whose status bytes can be written, completes with OK or PARTIAL. -/
theorem close_good (hb : r.bad = none) (hw : r.d.hdWrite c list r.status = (d1, none)) :
    let ok := r.status.countP fun b => decide (b.toNat ≤ 1)
    r.close c t list = d1.finish (.ctx c.slot) t (if ok = r.status.length then 0 else 2) 0 (bytesLE 2 ok ++ bytesLE 2 (r.status.length - ok)) := by
  simp only [ClaimRun.close, hw, hb, List.countP_eq_length_filter]

theorem slotBind_none (hrole : (c.roleEntry 2).isSome = false) : d.slotBind c t = d.answer (.ctx c.slot) t 0x14 :=
  if_pos (by rw [← Option.not_isSome, hrole]; decide)

theorem slotRelease_none (hrole : (c.roleEntry 2).isSome = false) : d.slotRelease c t = d.answer (.ctx c.slot) t 0x14 :=
  if_pos (by rw [← Option.not_isSome, hrole]; decide)

variable (hrole : (c.roleEntry 2).isSome = true)
include hrole

/-- A SLOT_BIND makes the claims of its list in order. -/
theorem slotBind_list (hmin : 1 ≤ field t.entry 0x10 2) (hmax : field t.entry 0x10 2 ≤ 4096)
    (harea : c.slotsBound = 0 ∨ c.slotArea = some (BitVec.ofNat 32 (field t.entry 0x14 4)))
    (hread : d.hdRead c (entDpa t.entry 8) (8 * field t.entry 0x10 2) = .ok bs) :
    d.slotBind c t = ((List.range (field t.entry 0x10 2)).foldl (fun r i => r.claim c (field t.entry 0x14 4) (field bs (8 * i) 8))
      ({ d := d.modCtx c.slot fun c => { c with slotArea := some (BitVec.ofNat 32 (field t.entry 0x14 4)) } } : ClaimRun)).close c t
        (entDpa t.entry 0x18) := by
  have hbound : ¬ (0 < c.slotsBound ∧ c.slotArea ≠ some (BitVec.ofNat 32 (field t.entry 0x14 4))) := fun ⟨hpos, hne⟩ =>
    harea.elim (Nat.ne_of_gt hpos) hne
  rw [Device.slotBind]
  dsimp only
  rw [if_neg (by rw [← Option.not_isSome, hrole]; decide), if_neg (by omega), if_neg hbound, hread]
  simp only [wordsOf, List.foldl_map]

/-- A SLOT_RELEASE makes the releases of its list in order. -/
theorem slotRelease_list {area : BitVec 32} (harea : c.slotArea = some area)
    (hread : d.hdRead c (entDpa t.entry 8) (4 * field t.entry 0x10 2) = .ok bs) :
    d.slotRelease c t = ((List.range (field t.entry 0x10 2)).foldl (fun r i => r.release c area.toNat (field bs (4 * i) 4))
      ({ d := d } : ClaimRun)).close c t (entDpa t.entry 0x18) := by
  rw [Device.slotRelease]
  dsimp only
  rw [if_neg (by rw [← Option.not_isSome, hrole]; decide), hread]
  simp only [wordsOf, List.foldl_map, harea]
end

end Sys2Proof.Laws
end

section
/-! SLOT_BIND and SLOT_RELEASE process their lists claim by claim (O41). -/

namespace Sys2Proof.Safety

set_option Elab.async false

open Sys2Proof Sys2Proof.Machine Sys2Proof.Laws

section
variable {s : State} {slot : CtxSlot} {c : Context} {t : Taken} {op code : Nat} {i : Instr} {d1 : Device} {r : ClaimRun} {rule : DescRule}
  {body : Device → Context → Taken → Device}

/-- A descriptor without a directory region has completed with HANDLE_RANGE (R423). -/
theorem exec_answer (hi : exec i s = .next { s with dev := s.dev.descriptor slot op rule body }) (hat : AtHead s slot op c t)
    (hbody : body s.dev c t = s.dev.answer (.ctx c.slot) t code) : exec i s = .next (Completed s s.dev (.ctx slot) t code 0 []) := by
  obtain rfl := ctxAt_slot hat.1
  rw [exec_descriptor hi hat, hbody]
  rfl

/-- A descriptor whose list no fault has ended completes with OK or PARTIAL (R239, R373). -/
theorem exec_close (hi : exec i s = .next { s with dev := s.dev.descriptor slot op rule body }) (hat : AtHead s slot op c t)
    (hbody : body s.dev c t = r.close c t (entDpa t.entry 0x18)) (hb : r.bad = none) (hw : r.d.hdWrite c (entDpa t.entry 0x18) r.status = (d1, none)) :
    let ok := r.status.countP fun b => decide (b.toNat ≤ 1)
    exec i s = .next (Completed s d1 (.ctx slot) t (if ok = r.status.length then 0 else 2) 0 (bytesLE 2 ok ++ bytesLE 2 (r.status.length - ok))) := by
  obtain rfl := ctxAt_slot hat.1
  rw [exec_descriptor hi hat, hbody, close_good hb hw]
  rfl
end

/-- Settles O41: one lemma for each outcome of a claim (`claim_taken`, `claim_binds` and those beside them), and `close_good` for the end of a list. -/
theorem slotListsBindAndRelease : Obligations.SlotListsBindAndRelease := by
  unfold Obligations.SlotListsBindAndRelease
  intro s slot c t
  refine ⟨fun d st o w => ?_, fun bs r d1 => ?_, fun hrole => ⟨fun hat => exec_answer rfl hat (slotBind_none hrole),
    fun hat => exec_answer rfl hat (slotRelease_none hrole)⟩⟩
  · intro r h pos sl told old slotAt
    have hb : r.bad = none := rfl
    have tells : ∀ {r' : ClaimRun} {code : Nat}, r' = r.tell code → told r' code := fun {r' code} he => by
      rw [he, tell_good hb]
      exact ⟨rfl, rfl, rfl⟩
    refine ⟨fun hentry => tells (claim_unknown hb hentry),
      fun a e hentry hstate hclean => tells (claim_registered hb hentry hclean hstate),
      fun a e hentry hstate hpos hclean => tells (claim_beyond hb hentry hclean hstate hpos),
      fun a e hentry hstate hpos hclean hslot hvalid => tells (claim_taken hb hentry hclean hstate hpos hslot (slotValid_iff.2 hvalid)),
      fun a e d1 d2 hentry hstate hpos hfree hclean hslot htable hextra hput hhome => ?_,
      fun a e bad hentry hstate hpos hclean hbad => ?_, fun hfree hpos hclean => ?_⟩
    · intro r'
      have hr' : r' = _ := (claim_binds hb hentry hclean hstate hpos hslot (slotValid_free hfree) htable hextra).trans (bind_plain hb hextra hput hhome)
      rw [hr']
      exact ⟨rfl, rfl, rfl, fun c' hc' => ⟨_, ctxAt_modCtx_self (fun _ => rfl)
        (by rw [Device.ctxAt, Device.putEntry, writeAs_ctxs]; exact hc'), rfl⟩⟩
    · intro r'
      obtain ⟨d1, hr'⟩ : ∃ d1 : Device, r' = _ := claim_slotBad hb hentry hclean hstate hpos hbad
      rw [hr']
      exact ⟨rfl, _, rfl, rfl, rfl, rfl, rfl⟩
    · have hword : bits (pos + sl * 2 ^ 16) 7 0 = pos ∧ bits (pos + sl * 2 ^ 16) 31 16 = sl := by
        rw [bits_eq, bits_eq]; omega
      obtain ⟨hp, hs⟩ := hword
      exact tells (release_free hb (by rw [hp]; exact hpos) (by rw [hs]; omega) (by rw [hp, hs]; exact hclean)
        (by rw [hp, hs]; exact slotValid_free hfree))
  · intro n o ok done hrole hb hw
    refine ⟨fun hat hmin hmax harea hread hr => ?_, fun area hat harea hread hr => ?_⟩
    · refine exec_close rfl hat ?_ hb hw
      rw [slotBind_list hrole hmin hmax harea hread, hr, ctxAt_slot hat.1]
    · refine exec_close rfl hat ?_ hb hw
      rw [slotRelease_list hrole harea hread, hr]

end Sys2Proof.Safety
end

section
/-! SUPPORT. The commit line (R263, R273, R277): the fields of the line that a commit writes and of the line that a rollback writes, and the cases of the
loss-scale rule. -/

namespace Sys2Proof.Laws

set_option Elab.async false

open Sys2Proof Sys2Proof.Machine Sys2Proof.Safety

/-! ### The loss scale (R263) -/

section
variable {pin met hot : Bool} {k n kmin kmax period : Nat}

/-- A pinned exponent, and one of a step that has met no adapter of the scaled set, stays with its clean count. -/
theorem lossAfter_stays (h : pin = true ∨ met = false) : lossAfter pin met hot k n kmin kmax period = (k, n) := by
  rcases h with rfl | rfl <;> simp [lossAfter]

/-- A step that has skipped the scaled set lowers the exponent. -/
theorem lossAfter_lowers : lossAfter false true true k n kmin kmax period = (max (k - 1) kmin, 0) := rfl

/-- The last clean step of a period raises the exponent. -/
theorem lossAfter_raises (h : n + 1 = period) : lossAfter false true false k n kmin kmax period = (min (k + 1) kmax, 0) := by
  simp [lossAfter, h]

/-- A clean step within a period counts. -/
theorem lossAfter_counts (h : n + 1 ≠ period) : lossAfter false true false k n kmin kmax period = (k, n + 1) := by
  simp [lossAfter, h]
end

section
variable {es : List LogEntry}

/-- A step has met the scaled set when its logs hold an entry of it. -/
theorem scaledMet_iff : (!(es.filter (·.scale)).isEmpty) = true ↔ ∃ e ∈ es, e.scale = true := by
  simp

/-- The scaled set skips as a whole: one entry of it tells of all. -/
theorem scaledSkips_iff (hall : ∀ e ∈ es, ∀ f ∈ es, e.scale = true → f.scale = true → e.skipped = f.skipped) :
    scaledSkips es = true ↔ ∃ e ∈ es, e.scale = true ∧ e.skipped = true := by
  unfold scaledSkips
  cases h : es.find? (·.scale) with
  | none =>
    have hnone := List.find?_eq_none.1 h
    simp only [Option.map_none, Option.getD_none, Bool.false_eq_true, false_iff]
    rintro ⟨e, he, hs, -⟩
    exact hnone e he hs
  | some e =>
    have hs : e.scale = true := List.find?_some h
    have he : e ∈ es := List.mem_of_find?_eq_some h
    simp only [Option.map_some, Option.getD_some]
    refine ⟨fun hk => ⟨e, he, hs, hk⟩, ?_⟩
    rintro ⟨f, hf, hfs, hk⟩
    exact (hall e he f hf hs hfs).trans hk
end

/-! ### The line of a commit (R273 step 4) -/

theorem field_eq (bs : List Byte) (off n : Nat) : field bs off n = le ((bs.drop off).take n) := rfl
theorem field_cut (bs : List Byte) (off n : Nat) : field ((bs.drop off).take n) 0 n = field bs off n := by simp [field, List.take_take]
theorem field_mod_one (bs : List Byte) (off : Nat) : field bs off 1 % 256 = field bs off 1 := field_mod bs off 1
theorem field_mod_two (bs : List Byte) (off : Nat) : field bs off 2 % 65536 = field bs off 2 := field_mod bs off 2

section
variable (line : List Byte) (p : LossPending) (es : List LogEntry)

/-- The settings of the loss scale that take effect with a commit (R263): the pending ones, else those of the line. -/
def kminAfter : Nat := (p.kmin.map (·.toNat)).getD (field line 9 1)
def kmaxAfter : Nat := (p.kmax.map (·.toNat)).getD (field line 0xA 1)
def pinAfter : Bool := p.pin.getD (bits (field line 0xB 1) 0 0 == 1)
def periodAfter : Nat := (p.period.map (·.toNat)).getD (field line 0xC 2)

/-- Exponent and clean count that a commit leaves (R263). -/
def scaleAfter : Nat × Nat :=
  lossAfter (pinAfter line p) (!(es.filter (·.scale)).isEmpty) (scaledSkips es) (field line 8 1) (field line 0xE 2) (kminAfter line p) (kmaxAfter line p)
    (periodAfter line p)

variable {line p es}

theorem pinAfter_eq : pinAfter line p = p.pin.getD (decide (field line 0xB 1 % 2 = 1)) := by
  rw [pinAfter, bit_eq, Nat.pow_zero, Nat.div_one]

/-- The line that a commit writes, field by field (R263, R273 step 4). -/
theorem commitLineAfter_eq : commitLineAfter line p es = line.take 1 ++ bytesLE 1 0xB ++ zeros 2 ++ bytesLE 4 (field line 4 4 + 1)
    ++ bytesLE 1 (scaleAfter line p es).1 ++ bytesLE 1 (kminAfter line p) ++ bytesLE 1 (kmaxAfter line p) ++ bytesLE 1 (if pinAfter line p then 1 else 0)
    ++ bytesLE 2 (periodAfter line p) ++ bytesLE 2 (scaleAfter line p es).2 ++ bytesLE 1 (field line 8 1) ++ zeros 1 ++ bytesLE 2 (field line 0xE 2)
    ++ zeros 4 ++ (line.drop 0x18).take 8 ++ bytesLE 4 (es.filter fun e => !e.skipped).length ++ bytesLE 4 (es.filter (·.skipped)).length
    ++ zeros 24 := rfl

theorem commitLineAfter_length (h : line.length = 64) : (commitLineAfter line p es).length = 64 := by
  simp [commitLineAfter_eq, h]

/-- The fields of the line that a commit writes, each as far as its width reaches. -/
theorem commitLineAfter_fields (h : line.length = 64) : let new := commitLineAfter line p es
    field new 1 1 = 0xB ∧ field new 4 4 = (field line 4 4 + 1) % 2 ^ 32 ∧ field new 8 1 = (scaleAfter line p es).1 % 256
      ∧ field new 9 1 = kminAfter line p % 256 ∧ field new 0xA 1 = kmaxAfter line p % 256 ∧ field new 0xC 2 = periodAfter line p % 2 ^ 16
      ∧ field new 0xE 2 = (scaleAfter line p es).2 % 2 ^ 16 ∧ field new 0x10 1 = field line 8 1 ∧ field new 0x12 2 = field line 0xE 2
      ∧ field new 0x18 8 = field line 0x18 8 ∧ field new 0x20 4 = es.countP (fun e => !e.skipped) % 2 ^ 32
      ∧ field new 0x24 4 = es.countP (fun e => e.skipped) % 2 ^ 32 := by
  simp [commitLineAfter_eq, field_append_left, field_append_right, h, field_cut, field_mod_one, field_mod_two, List.countP_eq_length_filter]

/-- The scaled set of a step whose exponent is not pinned raises or lowers the exponent, or counts (R263). -/
theorem scaleAfter_met {hot : Bool} (hpin : pinAfter line p = false) (hmet : ∃ e ∈ es, e.scale = true) (hhot : scaledSkips es = hot) :
    scaleAfter line p es = lossAfter false true hot (field line 8 1) (field line 0xE 2) (kminAfter line p) (kmaxAfter line p) (periodAfter line p) := by
  rw [scaleAfter, hpin, scaledMet_iff.2 hmet, hhot]
end

/-! ### The line of a rollback (R277 step 2) -/

/-- Splices of a line of 64 bytes keep its length. -/
theorem splice_length_inside {bs new : List Byte} {off : Nat} (h : off + new.length ≤ bs.length) : (splice bs off new).length = bs.length := by
  rw [splice_length]; omega

/-- A byte outside the replaced part is as it was. -/
theorem splice_getD_other {bs new : List Byte} {off i : Nat} (h : off + new.length ≤ bs.length) (hi : i < off ∨ off + new.length ≤ i) :
    (splice bs off new).getD i 0 = bs.getD i 0 := by
  rw [splice]
  rcases hi with hi | hi
  · rw [List.append_assoc, List.getD_append _ _ _ _ (by rw [List.length_take]; omega)]
    simp [List.getD_eq_getElem?_getD, hi]
  · have hl : (bs.take off ++ new).length = off + new.length := by rw [List.length_append, List.length_take]; omega
    rw [List.getD_append_right _ _ _ _ (by omega), hl]
    simp [List.getD_eq_getElem?_getD, List.getElem?_drop, Nat.add_sub_cancel' hi]

/-- The flags of the line of a rollback: rollback available clear, rebuild pending set, the others as they were. -/
def rollbackFlags (f : Nat) : Nat := f % 256 / 16 * 16 + f % 2 + 2 + f % 8 / 4 * 4

theorem rollbackFlags_bits (f : Nat) : rollbackFlags f < 256 ∧ rollbackFlags f / 8 % 2 = 0 ∧ rollbackFlags f / 2 % 2 = 1 := by
  rw [rollbackFlags]; omega

/-- The line of a rollback is four splices. -/
theorem rollbackLine_eq (line : List Byte) : rollbackLine line =
    splice (splice (splice (splice line 1 (bytesLE 1 (rollbackFlags (field line 1 1)))) 4 (bytesLE 4 (stepBefore (field line 4 4)))) 8
      ((line.drop 0x10).take 1)) 0xE ((line.drop 0x12).take 2) := rfl

theorem stepBefore_eq (t : Nat) : stepBefore t = (t + 2 ^ 32 - 1) % 2 ^ 32 := by rw [stepBefore, Nat.add_sub_assoc (by decide)]

section
variable {line : List Byte}

theorem rollbackLine_length (h : line.length = 64) : (rollbackLine line).length = 64 := by
  simp [rollbackLine_eq, splice_length, h]

/-- The fields that a rollback changes. -/
theorem rollbackLine_fields (h : line.length = 64) : let new := rollbackLine line
    field new 1 1 = rollbackFlags (field line 1 1) ∧ field new 4 4 = stepBefore (field line 4 4) ∧ field new 8 1 = field line 0x10 1
      ∧ field new 0xE 2 = field line 0x12 2 := by
  have hflags := Nat.mod_eq_of_lt (rollbackFlags_bits (field line 1 1)).1
  have hstep : stepBefore (field line 4 4) % 4294967296 = stepBefore (field line 4 4) := Nat.mod_mod _ _
  simp [rollbackLine_eq, field_splice_same, field_splice_other, splice_length, le_bytesLE, h, hflags, hstep, ← field_eq]

/-- Every byte outside those fields is as it was. -/
theorem rollbackLine_other {i : Nat} (h : line.length = 64) (hflags : i ≠ 1) (hi : i ∉ [4, 5, 6, 7, 8, 14, 15]) :
    (rollbackLine line).getD i 0 = line.getD i 0 := by
  simp only [List.mem_cons, List.not_mem_nil, or_false, not_or] at hi
  rw [rollbackLine_eq, splice_getD_other, splice_getD_other, splice_getD_other, splice_getD_other]
  all_goals simp [splice_length, h]
  all_goals omega
end

end Sys2Proof.Laws
end

section
/-! The commit line after a commit and after a rollback (O37). -/

namespace Sys2Proof.Safety

set_option Elab.async false

open Sys2Proof Sys2Proof.Machine Sys2Proof.Laws

theorem commitLineFollowsTheLossScaleRules : Sys2Proof.Claims.CommitLineFollowsTheLossScaleRules := by
  intro line p es hlen old new kmin kmax period pin met hot k n hall hk hkmin hkmax hn hperiod
  obtain ⟨hflags, hstep, hexp, hmin, hmax, hper, hcount, hprior, hpriorCount, hlog, hupdated, hskipped⟩ := commitLineAfter_fields (p := p) (es := es) hlen
  have hpin : pinAfter line p = pin := pinAfter_eq
  have hskips : scaledSkips es = true ↔ hot := scaledSkips_iff hall
  have scale {a b : Nat} (h : scaleAfter line p es = (a, b)) (ha : a ≤ 24) (hb : b ≤ 65535) : new 8 1 = a ∧ new 0xE 2 = b := by
    rw [h] at hexp hcount
    exact ⟨hexp.trans (Nat.mod_eq_of_lt (by omega)), hcount.trans (Nat.mod_eq_of_lt (by omega))⟩
  refine ⟨commitLineAfter_length hlen, hflags, hstep, hprior, hpriorCount, hmin.trans (Nat.mod_eq_of_lt (by change kmin < 256; omega)),
    hmax.trans (Nat.mod_eq_of_lt (by change kmax < 256; omega)), hper.trans (Nat.mod_eq_of_lt (by change period < 65536; omega)), hupdated, hskipped, hlog,
    fun h => ?_, fun h hh => ?_, fun h hm hh hlast => ?_, fun h hm hh hlast => ?_⟩
  · refine scale (lossAfter_stays (h.imp hpin.trans fun hm => ?_)) hk (by omega)
    rw [Bool.eq_false_iff]
    exact fun h => hm (scaledMet_iff.1 h)
  · have ⟨e, he, hs, _⟩ := hh
    exact scale (scaleAfter_met (hpin.trans h) ⟨e, he, hs⟩ (hskips.2 hh)) (by omega) (by omega)
  · have hclean := Bool.eq_false_iff.2 (mt hskips.1 hh)
    exact scale ((scaleAfter_met (hpin.trans h) hm hclean).trans (lossAfter_raises hlast)) (by omega) (by omega)
  · have hclean := Bool.eq_false_iff.2 (mt hskips.1 hh)
    exact scale ((scaleAfter_met (hpin.trans h) hm hclean).trans (lossAfter_counts hlast)) hk (by omega)

theorem rollbackLineRestoresTheStepBefore : Sys2Proof.Claims.RollbackLineRestoresTheStepBefore := by
  intro line hlen new
  obtain ⟨hflags, hstep, hexp, hcount⟩ := rollbackLine_fields hlen
  obtain ⟨-, havailable, hrebuild⟩ := rollbackFlags_bits (field line 1 1)
  exact ⟨rollbackLine_length hlen, hstep.trans (stepBefore_eq _), hexp, hcount, hflags ▸ havailable, hflags ▸ hrebuild, fun i _ h1 hi => rollbackLine_other hlen h1 hi⟩

/-- Settles O37: the fields of the two lines (`commitLineAfter_fields`, `rollbackLine_fields`), and the cases of the loss-scale rule (`lossAfter`). -/
theorem commitLinesOfStepsAndRollbacks : Obligations.CommitLinesOfStepsAndRollbacks :=
  ⟨commitLineFollowsTheLossScaleRules, rollbackLineRestoresTheStepBefore⟩

end Sys2Proof.Safety
end

section
/-! The start of a run whose status line cannot be written (O36): the context is FAULTED, and its run does not stand as started (R171, R192, R264). -/

namespace Sys2Proof.Safety

set_option Elab.async false

open Sys2Proof Sys2Proof.Machine Sys2Proof.Laws

/-- A PLAN_RUN at the head of its ring. -/
def startHead : Taken := { op := 2, seq := 0, entry := [] }

/-- Its run, which waits for its start, with its arguments block in companion memory. -/
def startRun : Run :=
  { op := 2, seq := 0, tally := 0, stop := 0, args := BitVec.ofNat 52 (2 ^ 45 + 0x10000), sramWin := false, attempt := 1, entry := 0 }

/-- A plan of one die without streams. -/
def startPlan : Plan := { image := 0, bytes := 0, planId := 1, m := 1, entry := 0, crc := 0 }

/-- A grant to read and write the first 64 KiB of companion memory and the page of the arguments block. -/
def startGrant : BitVec 128 := BitVec.ofNat 128 (2 ^ 33 + (2 ^ 33 + 0x10) * 2 ^ 40 + 2 ^ 80 + 2 ^ 81 + 2 * 2 ^ 90 + 2 ^ 92)

/-- A context of one die that holds them. -/
def startCtx : Context :=
  { loadCtx with pantry := (Vector.replicate 64 0).set 0 startGrant, plan := some startPlan, run := some startRun, head := some startHead }

/-- The link up, that context alone, and a link that answers a write of its status line with an error. -/
def startState : State :=
  { dev := { Device.reset with cycles := [], yalkenUp := true, ctxs := [startCtx], mem := { errLines := [(2 ^ 45 + 0x4000) / 64] } }, pending := [] }

/-- The bytes that the start writes into its arguments block (R373). -/
def startTail : List Byte :=
  let line := startState.dev.commitLine startCtx
  bytesLE 8 startRun.attempt.toNat ++ bytesLE 8 (field line 4 4 + field line 8 1 * 2 ^ 32)

/-- The device once they are written. -/
def startWritten : Device := (startState.dev.hdWrite startCtx (wrap52 (startRun.args.toNat + 0x30)) startTail).1

theorem startState_writes : startState.dev.hdWrite startCtx (wrap52 (startRun.args.toNat + 0x30)) startTail = (startWritten, none) :=
  Prod.ext rfl (by decide +kernel)

theorem startState_reads : ∃ args, startWritten.hdRead startCtx startRun.args.toNat 64 = .ok args := by
  have h : (startWritten.hdRead startCtx startRun.args.toNat 64).toBool = true := by decide +kernel
  cases hr : startWritten.hdRead startCtx startRun.args.toNat 64 with
  | ok args => exact ⟨args, rfl⟩
  | error r => rw [hr] at h; cases h

theorem startState_line : startState.dev.dataBad startCtx.commitLine.toNat 64 = none := by decide +kernel

/-- The start has faulted its context. -/
theorem startState_faulted : ((startState.dev.runStart 0).ctxAt 0).map (·.cond) = some .faulted := by decide +kernel

/-- Refutes O36: the start of a PLAN_RUN frees the head of its ring and writes the status line. Where the link answers that write with an error, R171 and
R192 fault the context, and its condition after the start is FAULTED and not RUNNING. -/
theorem not_planRunWaitsForItsStart : ¬ Obligations.PlanRunWaitsForItsStart := by
  intro h
  obtain ⟨args, hargs⟩ := startState_reads
  obtain ⟨v, hv, -, -, c', hc', -, hcond, -⟩ := (h startState 0 startCtx startHead).2 startRun startPlan startWritten args rfl rfl rfl rfl rfl rfl rfl
    (by decide) (by decide) rfl rfl rfl startState_line startState_writes hargs
  obtain rfl : ({ startState with dev := startState.dev.runStart 0 } : State) = v := Host.Outcome.next.inj hv
  have hf := startState_faulted
  rw [hc', Option.map_some, hcond] at hf
  cases hf

end Sys2Proof.Safety
end

section
/-! A segment that has ended otherwise than by HALT, on an arc that runs past the last CD (O38): the position past it is reckoned among the CDs of the arc,
and its tally is not cleared (R55, R377). -/

namespace Sys2Proof.Safety

set_option Elab.async false

open Sys2Proof Sys2Proof.Machine Sys2Proof.Laws

/-- A STEP_COMMIT at the head of its ring, whose rebuild segment has been started. -/
def wrapHead : Taken := { op := 3, seq := 0, entry := [], phase := phaseRebuild }

/-- The run of that segment, which has ended with stop reason 2. -/
def wrapRun : Run := { op := 3, seq := 0, tally := 0, stop := 0, args := 0, sramWin := false, attempt := 0, entry := 0, begun := true, reason := 2 }

/-- A context of two positions from CD 15 on: its list of CDs goes on at CD 0, which lies outside its arc. -/
def wrapCtx : Context := { loadCtx with first := 15, logM := 1, run := some wrapRun, head := some wrapHead }

/-- That context alone, and a count in the tally of CD 0. -/
def wrapState : State :=
  { dev := { Device.reset with cycles := [], yalkenUp := true, ctxs := [wrapCtx], dies := (Vector.replicate 16 {}).set 0 { tally := { sat := { count := 1 } } } },
    pending := [] }

theorem zero_mem_wrapCtx_cds : (0 : Cd) ∈ wrapCtx.cds := by decide

theorem wrapState_line : wrapState.dev.dataBad wrapCtx.commitLine.toNat 64 = none := by decide +kernel

theorem wrapState_idle : ∀ cd ∈ wrapCtx.cds, wrapState.dev.dies[cd].cox.run = .idle := by decide +kernel

/-- The end of the segment leaves the tally of CD 0 as it was. -/
theorem wrapState_counts : (wrapState.dev.segmentHalt 0).dies[(0 : Cd)].tally ≠ {} := by decide +kernel

/-- Refutes O38: the statement asks for a cleared tally on every CD of the list `Context.cds`, which is reckoned modulo the number of CDs, while a segment
that ends otherwise than by HALT clears the tallies of the CDs that lie in the arc (R55, R377). Without the hypothesis that the arc ends at CD 15 at the
latest the two differ. -/
theorem not_stepsCommitAndRollBack : ¬ Obligations.StepsCommitAndRollBack := by
  intro h
  obtain ⟨-, -, -, -, -, hfault⟩ := h wrapState 0 wrapCtx wrapHead startPlan wrapState_line
  obtain ⟨d, result, hx, -, htally, -⟩ := hfault wrapRun ⟨rfl, rfl, rfl, by decide, rfl, wrapState_idle, rfl, rfl⟩ (by decide) (by decide) rfl
  have hend : wrapState.dev.segmentHalt 0 = d.finish (.ctx 0) wrapHead 0x22 0 result := congrArg State.dev (Host.Outcome.next.inj hx)
  obtain ⟨f, v, hstays⟩ := ((Leaves.refl d).finish (id := .ctx 0) (t := wrapHead) (code := 0x22) (flags := 0) (res := result)).dies 0
  refine wrapState_counts ?_
  rw [hend, hstays]
  exact htally 0 zero_mem_wrapCtx_cds

end Sys2Proof.Safety
end

section
/-! SUPPORT. One item of an UPDATE (R264, R267, R271, R272): the item that is skipped, the item that is computed, and the command of one item. -/

namespace Sys2Proof.Laws

set_option Elab.async false

open Sys2Proof Sys2Proof.Machine Sys2Proof.Safety

/-! ### Handles met in the attempt (R267) -/

section
variable {d : Device} {cd : Cd}

theorem touch_mem (h : Nat) : h ∈ (d.touch cd h).dies[cd].touched := by
  unfold Device.touch
  rw [modDie_self]
  dsimp only
  split
  · next hin => exact List.contains_iff_mem.1 hin
  · exact List.mem_append_right _ (List.mem_singleton_self h)

theorem touch_sieve (h : Nat) : (d.touch cd h).dies[cd].sieve = d.dies[cd].sieve := by
  unfold Device.touch
  rw [modDie_self]

@[simp] theorem markStart_touched {x : Die} {q : QueueId} {e : QEntry} {svals : List (Fin 16 × BitVec 64)} {done : Bool} :
    (x.markStart q e svals done).touched = x.touched := by
  obtain ⟨l, qs, h⟩ := queuesOnly_markStart (q := q) (e := e) (svals := svals) (done := done) x
  exact (congrArg Die.touched h :)

/-- An item without a telemetry area is read for no norm (R271). -/
theorem skipNorm_none {c : Context} {i kappa : Nat} {u : UItem} (h : d.dies[cd].sieve.area = none) : d.skipNorm c cd i kappa u = .ok d := by
  unfold Device.skipNorm
  rw [h]
  rfl
end

/-! ### The item (R267) -/

section
variable {d da db dm dc d1 d2 d3 : Device} {c : Context} {cd : Cd} {mode rmode t i : Nat} {hy : Hyper} {u : UItem} {mb ov : List Byte}

/-- The first item of a handle that is skipped: its log entry and its header, and the handle has been met. -/
theorem updateItem_skipped (hmst : da.mixRead c cd i 0 u.mst 64 = .ok (mb, db)) (hbody : db.mixBody c cd i u.handle u.item = .ok dm)
    (hitem : dm.itemFault c cd mode i u (mastersOf mb) = none) (hfirst : u.handle ∉ dm.dies[cd].touched)
    (hovf : dm.mixRead c cd i 0 u.ovf 2 = .ok (ov, dc)) (hov : (bf16At ov 0).isZero = false) (hlog : dc.logAppend c cd i t u true = .ok d1)
    (hput : d1.mixWrite c cd i 0 u.mst ((mastersOf mb).skipped t).encode = .ok d2) (harea : d2.dies[cd].sieve.area = none) :
    da.updateItem c cd mode rmode t i 0 hy u = .ok (d2.touch cd u.handle, 1, none) := by
  have hnorm : ∀ kappa, (d2.touch cd u.handle).skipNorm c cd i kappa u = .ok (d2.touch cd u.handle) := fun _ =>
    skipNorm_none (by rw [touch_sieve, harea])
  have hnew : dm.dies[cd].touched.contains u.handle = false := by simpa using hfirst
  unfold Device.updateItem
  simp only [hmst, except_ok_bind, hbody, hitem, hovf, hov, hlog, hput, hnorm, hnew, if_true, Bool.not_false]
  rfl

/-- The first item of a handle that is computed: its log entry, its sections, and then the header that counts it. -/
theorem updateItem_filled (hmst : da.mixRead c cd i 0 u.mst 64 = .ok (mb, db)) (hbody : db.mixBody c cd i u.handle u.item = .ok dm)
    (hitem : dm.itemFault c cd mode i u (mastersOf mb) = none) (hfirst : u.handle ∉ dm.dies[cd].touched)
    (hovf : dm.mixRead c cd i 0 u.ovf 2 = .ok (ov, dc)) (hov : (bf16At ov 0).isZero = true) (hlog : dc.logAppend c cd i t u false = .ok d1)
    (hbank : d1.updateBank c cd mode rmode i t (if u.policy = 1 then dm.dies[cd].mixerK.toNat else 0) 0 hy u ((mastersOf mb).begun true t) = .ok (d2, none))
    (hput : d2.mixWrite c cd i 0 u.mst ({ (mastersOf mb).begun true t with count := ((mastersOf mb).begun true t).count + 1 } : Masters).encode = .ok d3) :
    da.updateItem c cd mode rmode t i 0 hy u = .ok (d3.touch cd u.handle, 0, none) := by
  have hnew : dm.dies[cd].touched.contains u.handle = false := by simpa using hfirst
  unfold Device.updateItem
  simp only [hmst, except_ok_bind, hbody, hitem, hovf, hov, hlog, hnew, if_true, Bool.not_true, Bool.not_false, Bool.true_and, beq_self_eq_true, hbank]
  exact congrArg (fun y => y >>= fun d4 : Device => Except.ok (d4.touch cd u.handle, 0, none)) hput
end

/-! ### The command of one item (R264, R268) -/

section
variable {d d0 da d1 : Device} {c : Context} {cd : Cd} {e : QEntry} {hb ib : List Byte}

/-- An UPDATE of one item under legal hyperparameters does the item and ends. -/
theorem updateEngine_one {mode n : Nat} (he : Fresh e) (hmode : d.dies[cd].recField e 1 1 % 4 = mode) (hcount : d.dies[cd].updateCount e = 1)
    (hserved : d.mixServed c cd [lpddrOf cd.val] = true)
    (hhyper : d.mixRead c cd 0 0 (wrap52 (d.dies[cd].recField e 0x10 8 % 2 ^ 52 + e.gb.toNat)) 64 = .ok (hb, d0))
    (hk : (hyperOf hb).k = d.dies[cd].mixerK.toNat) (hlegal : (hyperOf hb).fault (mode == 1) = none)
    (hitem : d0.mixRead c cd 0 0 (d.dies[cd].itemAddr e 0) 64 = .ok (ib, da))
    (hdone : da.updateItem c cd mode (d.dies[cd].recField e 1 1) (da.stepNo c) 0 0 (hyperOf hb) (uitemOf ib) = .ok (d1, n, none)) :
    updateEngine cd mode d c e = .ran d1 (e.sOf n) true := by
  have hbits : bits (d.dies[cd].recField e 1 1) 1 0 = mode := by rw [bits_eq, Nat.pow_zero, Nat.div_one]; exact hmode
  have hgo : ¬ (bits (d.dies[cd].recField e 1 1) 1 0 ≠ mode ∨ (!d.mixServed c cd [lpddrOf cd.val]) = true) := by
    rw [hserved]; exact fun h => h.elim (· hbits) Bool.noConfusion
  unfold updateEngine
  dsimp only
  rw [if_neg hgo, hhyper]
  dsimp only
  rw [if_neg (not_not_intro hk), hlegal, hcount]
  exact mixItemsRun_one (v := id) he (by rw [hitem]; exact hdone)
end

end Sys2Proof.Laws
end

section
/-! UPDATE skips an adapter, or writes its log entry, bank and header (O17, first claim). -/

namespace Sys2Proof.Safety

set_option Elab.async false

open Sys2Proof Sys2Proof.Machine Sys2Proof.Laws

theorem updateWritesLogBankAndHeader : Sys2Proof.Claims.UpdateWritesLogBankAndHeader := by
  intro s cd mode c e hb ib mb ov d0 da db dm dc d1 d2 x u h t i kappa rolled h1 hstart hfresh _ hmode hcount hserved hhyper hk hlegal hitem hmst hbody
    hok hfirst hovf
  have hexec : exec i s = .next { s with dev := s.dev.startHead cd 9 2 (updateEngine cd mode.val) } := by
    fin_cases mode <;> rfl
  have hlegal' : (hyperOf hb).fault (mode.val == 1) = none := by
    rw [show (mode.val == 1) = (mode == 1) by fin_cases mode <;> rfl]; exact hlegal
  have hends : ∀ {dn : Device} {n : Nat}, da.updateItem c cd mode.val (x.recField e 1 1) t 0 0 (hyperOf hb) u = .ok (dn.touch cd u.handle, n, none) →
      ∃ s', exec i s = .next s' ∧ s'.dev.mem = dn.mem ∧ DoneIn s' cd 9 e n ∧ u.handle ∈ s'.dev.dies[cd].touched := fun hone => by
    rw [hexec, startHead_ran hstart (updateEngine_one hfresh hmode hcount hserved hhyper hk hlegal' hitem hone)]
    refine ⟨_, rfl, rfl, doneIn_markStart, ?_⟩
    rw [modDie_self, markStart_touched]
    exact touch_mem u.handle
  refine ⟨fun hov hlog hput harea => hends (updateItem_skipped hmst hbody hok hfirst hovf hov hlog hput harea), fun hov d3 hlog hbank hput => ?_⟩
  exact hends (updateItem_filled hmst hbody hok hfirst hovf hov hlog hbank hput)

end Sys2Proof.Safety
end

section
/-! SUPPORT. Lines that the Mixer writes to LPDDR5X (R174, R194, R196): what stands in memory after a transfer whose lines are parts of one string of bytes. -/

namespace Sys2Proof.Laws

set_option Elab.async false

open Sys2Proof Sys2Proof.Machine Sys2Proof.Safety

/-! ### A line put to LPDDR5X -/

section
variable {d d' : Device} {c : Context} {cd : Cd} {r : Requester} {a : Nat} {bs : List Byte}

/-- A line below the end of LPDDR5X is no companion line (R169). -/
theorem place_lpddr_ne_companion (h : a < 0x20000000000) (off : Nat) : d.place a ≠ .companion off := by
  unfold Device.place
  rw [if_pos h]
  split <;> exact Place.noConfusion

/-- A whole line of LPDDR5X that is written stands in memory. -/
theorem writeLine_lpddr (ha : a % 64 = 0) (hlt : a < 0x20000000000) (hl : bs.length = 64) (h : d.writeLine c cd r a bs = .ok d') :
    d'.mem.bytes = memStore 0 d.mem.bytes a bs := by
  unfold Device.writeLine at h
  split at h
  · cases h
  · dsimp only at h
    split at h
    · cases h
    · split at h
      · next hplace => exact absurd hplace (place_lpddr_ne_companion hlt _)
      · next i _ _ _ _ _ =>
        cases h
        obtain ⟨m', hm, hw⟩ := writeAs_line (d := d) (dom := pDomain c.pantry[i]) ha hl
        rw [hm]
        exact hw.bytes

theorem putBytes_lpddr (ha : a % 64 = 0) (hlt : a < 0x20000000000) (hl : bs.length = 64) (h : d.putBytes c cd r a bs = (d', none)) :
    d'.mem.bytes = memStore 0 d.mem.bytes a bs := by
  have hne : bs ≠ [] := fun he => by rw [he] at hl; cases hl
  have hwrap : wrap52 a = a := Nat.mod_eq_of_lt (by omega)
  unfold Device.putBytes Device.writeBytes at h
  dsimp only at h
  rw [if_neg hne, ha, Nat.sub_zero, hwrap, List.take_of_length_le hl.le, List.drop_of_length_le hl.le, hl] at h
  split at h
  · cases h
  · next d1 hd =>
    rw [Device.writeBytes, if_pos rfl] at h
    cases h
    exact writeLine_lpddr ha hlt hl hd
end

/-! ### Lines of a string of bytes (R194, R196) -/

/-- A line of LPDDR5X whose bytes are those that a string of bytes from `base` on has at its place. -/
def LineOfBytes (base : Nat) (all : List Byte) (l : MixLine) : Prop :=
  l.at' % 64 = 0 ∧ l.at' < 0x20000000000 ∧ l.bytes.length = 64 ∧ base ≤ l.at' ∧ ∀ k < 64, l.bytes.getD k 0 = all.getD (l.at' - base + k) 0

section
variable {d d' : Device} {c : Context} {cd : Cd} {item base : Nat} {all : List Byte}

/-- A byte at a line of the string, once the line has been written, is that of the string; the others stay. -/
theorem memGet_line {m : Memory} {l : MixLine} (hm : m.wf 0 = true) (hl : LineOfBytes base all l) (x : Nat) :
    memGet 0 (memStore 0 m l.at' l.bytes) x = if l.at' ≤ x ∧ x < l.at' + 64 then all.getD (x - base) 0 else memGet 0 m x := by
  obtain ⟨-, -, hlen, hbase, hbytes⟩ := hl
  rw [memGet_memStore hm, hlen]
  split
  · next hx =>
    rw [hbytes _ (by omega)]
    congr 1
    omega
  · rfl

/-- After a transfer of lines of one string of bytes, every line of them holds the string's bytes, as does every byte that held them before. -/
theorem mixPut_holds : ∀ {ls : List MixLine} {n : Nat} {d : Device}, d.mem.bytes.wf 0 = true → (∀ l ∈ ls, LineOfBytes base all l) →
    d.mixPut c cd item ls n = .ok d' → d'.dies = d.dies
      ∧ ∀ x, (memGet 0 d.mem.bytes x = all.getD (x - base) 0 ∨ ∃ l ∈ ls, l.at' ≤ x ∧ x < l.at' + 64) → memGet 0 d'.mem.bytes x = all.getD (x - base) 0
  | [], _, _, _, _, h => by
    cases h
    exact ⟨rfl, fun x hx => hx.elim id fun ⟨l, hl, _⟩ => absurd hl (List.not_mem_nil)⟩
  | l :: ls, n, d, hm, hls, h => by
    have hl : LineOfBytes base all l := hls l (List.mem_cons_self ..)
    obtain ⟨halign, hlt, hlen, -, -⟩ := id hl
    unfold Device.mixPut at h
    split at h
    · cases h
    · split at h
      · cases h
      · next d1 hput =>
        have hbytes := putBytes_lpddr halign hlt hlen hput
        obtain ⟨hdies, hrest⟩ := mixPut_holds (by rw [hbytes]; exact memStore_wf hm) (fun l h => hls l (List.mem_cons_of_mem _ h)) h
        refine ⟨hdies.trans (putBytes_dies hput), fun x hx => ?_⟩
        by_cases hin : l.at' ≤ x ∧ x < l.at' + 64
        · exact hrest x (.inl (by rw [hbytes, memGet_line hm hl, if_pos hin]))
        · refine hrest x (hx.imp (fun hx => by rw [hbytes, memGet_line hm hl, if_neg hin, hx]) ?_)
          rintro ⟨l', hl', hx'⟩
          exact ⟨l', (List.mem_cons.1 hl').resolve_left (fun he => hin (he ▸ hx')), hx'⟩

theorem eccGood_dies {a n : Nat} : (d.eccGood c cd a n).dies = d.dies := by
  unfold Device.eccGood
  split
  · rfl
  · refine List.foldlRecOn (motive := fun x : Device => x.dies = d.dies) _ _ rfl fun x hx k _ => ?_
    dsimp only
    split
    · exact eccOf_dies.trans hx
    · exact hx

theorem eccGoods_dies (runs : List (Nat × Nat)) : (runs.foldl (fun (d : Device) r => d.eccGood c cd r.1 r.2) d).dies = d.dies :=
  List.foldlRecOn (motive := fun x : Device => x.dies = d.dies) _ _ rfl fun _ hx _ _ => eccGood_dies.trans hx

theorem eccGoods_wf {runs : List (Nat × Nat)} (h : MemoriesOk d) :
    (runs.foldl (fun (d : Device) r => d.eccGood c cd r.1 r.2) d).mem.bytes.wf 0 = true := by
  have hkeeps : Keeps d (runs.foldl (fun (d : Device) r => d.eccGood c cd r.1 r.2) d) := Keeps.foldl (Keeps.refl d) fun _ _ h => h.eccGood
  obtain ⟨hwf, -⟩ := hkeeps.1 h
  exact hwf

/-- A transfer of lines of one string of bytes leaves the compute dies, and its lines hold the string's bytes. -/
theorem mixMove_holds {runs : List (Nat × Nat)} {ls : List MixLine} {n : Nat} (hd : MemoriesOk d) (hls : ∀ l ∈ ls, LineOfBytes base all l)
    (h : d.mixMove c cd item runs ls n = .ok d') : d'.dies = d.dies
      ∧ ∀ l ∈ ls, ∀ x, l.at' ≤ x → x < l.at' + 64 → memGet 0 d'.mem.bytes x = all.getD (x - base) 0 := by
  unfold Device.mixMove at h
  dsimp only at h
  split at h
  · have hls' : ∀ l ∈ ls.map fun l : MixLine => { l with srcs := [] }, LineOfBytes base all l := fun l hl => by
      obtain ⟨b, hb, rfl⟩ := List.mem_map.1 hl
      exact hls b hb
    obtain ⟨hdies, hin⟩ := mixPut_holds (eccGoods_wf hd) hls' h
    exact ⟨hdies.trans (eccGoods_dies runs), fun l hl x hx hx' => hin x (.inr ⟨_, List.mem_map_of_mem hl, hx, hx'⟩)⟩
  · obtain ⟨hdies, hin⟩ := mixPut_holds (eccGoods_wf hd) hls h
    exact ⟨hdies.trans (eccGoods_dies runs), fun l hl x hx hx' => hin x (.inr ⟨l, hl, hx, hx'⟩)⟩
end

end Sys2Proof.Laws
end

section
/-! SUPPORT. SB16 sections (R40, R41, R265): the bytes of a section by position, its lines, and the order of its blocks. -/

namespace Sys2Proof.Laws

set_option Elab.async false

open Sys2Proof Sys2Proof.Machine Sys2Proof.Safety

/-! ### Lists of pieces of one length -/

section
variable {α β : Type} {g : α → List β} {w : Nat}

theorem length_flatMap_const : ∀ {l : List α}, (∀ a ∈ l, (g a).length = w) → (l.flatMap g).length = w * l.length
  | [], _ => by simp
  | a :: l, h => by
    rw [List.flatMap_cons, List.length_append, h a (List.mem_cons_self ..), length_flatMap_const fun b hb => h b (List.mem_cons_of_mem _ hb),
      List.length_cons, Nat.mul_succ, Nat.add_comm]

/-- Element `j` of piece `i` of a list of pieces of length `w`. -/
theorem getD_flatMap_const {j : Nat} (dflt : β) (hj : j < w) : ∀ {l : List α} {i : Nat} (hi : i < l.length), (∀ a ∈ l, (g a).length = w) →
    (l.flatMap g).getD (w * i + j) dflt = (g l[i]).getD j dflt
  | a :: l, 0, _, h => by
    rw [List.flatMap_cons, Nat.mul_zero, Nat.zero_add, List.getD_append _ _ _ _ (by rw [h a (List.mem_cons_self ..)]; exact hj)]
    rfl
  | a :: l, i + 1, hi, h => by
    have ha : (g a).length = w := h a (List.mem_cons_self ..)
    rw [List.flatMap_cons, List.getD_append_right _ _ _ _ (by rw [ha, Nat.mul_succ]; omega), ha,
      show w * (i + 1) + j - w = w * i + j by rw [Nat.mul_succ]; omega,
      getD_flatMap_const dflt hj (Nat.lt_of_succ_lt_succ hi) fun b hb => h b (List.mem_cons_of_mem _ hb)]
    rfl

theorem getD_toArray {α : Type} (l : List α) (i : Nat) (dflt : α) : l.toArray.getD i dflt = l.getD i dflt := by
  rw [Array.getD_eq_getD_getElem?, List.getElem?_toArray, List.getD_eq_getElem?_getD]

theorem getD_range_map {α : Type} (g : Nat → α) (dflt : α) {n p : Nat} (hp : p < n) : ((List.range n).map g).getD p dflt = g p := by
  rw [List.getD_eq_getElem _ _ (by simpa using hp), List.getElem_map, List.getElem_range]
end

/-! ### The section of some values (R40, R41) -/

/-- Block `b` of the values `f` by position. -/
def sb16At (rs : Nat → Rounding) (f : Nat → Val) (b : Nat) : Nat × List (Nat × Option Meet) :=
  sb16Block ((List.range 32).map fun j => (f (32 * b + j), rs (32 * b + j)))

/-- The mantissa at a position, and the value stored there. -/
def sb16Code (rs : Nat → Rounding) (f : Nat → Val) (p : Nat) : Nat := ((sb16At rs f (p / 32)).2.getD (p % 32) (0, none)).1
def sb16Stored (rs : Nat → Rounding) (f : Nat → Val) (p : Nat) : Val := sb16Value (sb16Code rs f p) (sb16At rs f (p / 32)).1

/-- The mantissa bytes and the exponent bytes of `n` values. -/
def mantissaBytes (rs : Nat → Rounding) (f : Nat → Val) (n : Nat) : List Byte :=
  (List.range (n / 32)).flatMap fun b => (sb16At rs f b).2.flatMap fun m => bytesLE 2 m.1
def exponentBytes (rs : Nat → Rounding) (f : Nat → Val) (n : Nat) : List Byte :=
  (List.range (n / 32)).flatMap fun b => bytesLE 1 (sb16At rs f b).1

section
variable {rs : Nat → Rounding} {f : Nat → Val} {n p b k : Nat}

theorem sb16At_length : (sb16At rs f b).2.length = 32 := by simp [sb16At, sb16Block]

/-- The block that a section of `n` values is cut to. -/
theorem block_eq (hb : b < n / 32) :
    ((((List.range n).map f).drop (32 * b)).take 32).zipIdx.map (fun (v, j) => (v, rs (32 * b + j)))
      = (List.range 32).map fun j => (f (32 * b + j), rs (32 * b + j)) := by
  refine List.ext_getElem (by simp; omega) fun j h1 h2 => ?_
  simp

/-- The blocks that `n` values are cut to. -/
theorem blocks_eq : ((List.range (((List.range n).map f).length / 32)).map fun b =>
      sb16Block (((((List.range n).map f).drop (32 * b)).take 32).zipIdx.map fun (v, j) => (v, rs (32 * b + j))))
    = (List.range (n / 32)).map (sb16At rs f) := by
  rw [List.length_map, List.length_range]
  exact List.map_congr_left fun b hb => congrArg sb16Block (block_eq (List.mem_range.1 hb))

theorem mantissaBytes_length : (mantissaBytes rs f n).length = 64 * (n / 32) := by
  rw [mantissaBytes, length_flatMap_const (w := 64) fun b _ => by
    rw [length_flatMap_const (w := 2) fun _ _ => bytesLE_length 2 _, sb16At_length], List.length_range]

theorem exponentBytes_length : (exponentBytes rs f n).length = n / 32 := by
  rw [exponentBytes, length_flatMap_const (w := 1) fun _ _ => bytesLE_length 1 _, List.length_range, Nat.one_mul]

/-- A section's bytes: its mantissas, its exponents and the padding of the last line. -/
theorem sectionOf_bytes : (sectionOf rs ((List.range n).map f)).1
    = mantissaBytes rs f n ++ exponentBytes rs f n ++ zeros (ceilDiv (n / 32) 64 * 64 - n / 32) := by
  unfold sectionOf sectionOf.narrowSb16'
  dsimp only
  rw [blocks_eq, List.flatMap_map, List.flatMap_map]
  change mantissaBytes rs f n ++ exponentBytes rs f n ++ zeros (ceilDiv (exponentBytes rs f n).length 64 * 64 - (exponentBytes rs f n).length) = _
  rw [exponentBytes_length]

theorem ceilDiv_lines (m : Nat) : m ≤ ceilDiv m 64 * 64 := by unfold ceilDiv; omega

theorem sectionOf_length (hn : n % 32 = 0) : (sectionOf rs ((List.range n).map f)).1.length = 2 * n + ceilDiv (n / 32) 64 * 64 := by
  have := ceilDiv_lines (n / 32)
  rw [sectionOf_bytes, List.length_append, List.length_append, mantissaBytes_length, exponentBytes_length, zeros_length]
  omega

/-- The two bytes of the mantissa at a position. -/
theorem sectionOf_mantissa (hn : n % 32 = 0) (hp : p < n) (hk : k < 2) :
    (sectionOf rs ((List.range n).map f)).1.getD (2 * p + k) 0 = (bytesLE 2 (sb16Code rs f p)).getD k 0 := by
  have hblock : p / 32 < (List.range (n / 32)).length := by rw [List.length_range]; omega
  have hj : p % 32 < (sb16At rs f (p / 32)).2.length := by rw [sb16At_length]; omega
  have hlen : 2 * p + k < (mantissaBytes rs f n).length := by rw [mantissaBytes_length]; omega
  rw [sectionOf_bytes, List.append_assoc, List.getD_append _ _ _ _ hlen, mantissaBytes,
    show 2 * p + k = 64 * (p / 32) + (2 * (p % 32) + k) by omega,
    getD_flatMap_const 0 (by omega) hblock fun b _ => by rw [length_flatMap_const (w := 2) fun _ _ => bytesLE_length 2 _, sb16At_length],
    List.getElem_range, getD_flatMap_const 0 hk hj fun _ _ => bytesLE_length 2 _, sb16Code, List.getD_eq_getElem _ _ hj]

/-- The byte of the exponent of a position's block. -/
theorem sectionOf_exponent (hn : n % 32 = 0) (hp : p < n) :
    (sectionOf rs ((List.range n).map f)).1.getD (2 * n + p / 32) 0 = BitVec.ofNat 8 (sb16At rs f (p / 32)).1 := by
  have hblock : p / 32 < (List.range (n / 32)).length := by rw [List.length_range]; omega
  have hlen : p / 32 < (exponentBytes rs f n).length := by rw [exponentBytes_length]; omega
  have hm : (mantissaBytes rs f n).length = 2 * n := by rw [mantissaBytes_length]; omega
  have hbyte := getD_flatMap_const (w := 1) (0 : Byte) Nat.one_pos hblock (g := fun b => bytesLE 1 (sb16At rs f b).1) fun _ _ => bytesLE_length 1 _
  rw [Nat.one_mul, Nat.add_zero, List.getElem_range] at hbyte
  rw [sectionOf_bytes, List.append_assoc, List.getD_append_right _ _ _ _ (by omega), hm, Nat.add_sub_cancel_left, List.getD_append _ _ _ _ hlen,
    exponentBytes, hbyte, bytesLE_getD 1 _ 0 Nat.one_pos, Nat.pow_zero, Nat.div_one]

/-- The value stored at a position. -/
theorem sectionOf_stored (hn : n % 32 = 0) (hp : p < n) (dflt : Val) : (sectionOf rs ((List.range n).map f)).2.1.getD p dflt = sb16Stored rs f p := by
  have hblock : p / 32 < (List.range (n / 32)).length := by rw [List.length_range]; omega
  have hj : p % 32 < (sb16At rs f (p / 32)).2.length := by rw [sb16At_length]; omega
  have hlist : (sectionOf rs ((List.range n).map f)).2.1
      = ((List.range (n / 32)).flatMap fun b => (sb16At rs f b).2.map fun m => sb16Value m.1 (sb16At rs f b).1).toArray := by
    unfold sectionOf sectionOf.narrowSb16'
    dsimp only
    rw [blocks_eq, List.flatMap_map]
  have hvalue := getD_flatMap_const (w := 32) dflt (Nat.mod_lt p (by decide)) hblock
    (g := fun b => (sb16At rs f b).2.map fun m => sb16Value m.1 (sb16At rs f b).1) fun b _ => by rw [List.length_map, sb16At_length]
  rw [List.getElem_range, show 32 * (p / 32) + p % 32 = p by omega] at hvalue
  rw [hlist, getD_toArray, hvalue, List.getD_eq_getElem _ _ (by rw [List.length_map]; exact hj), List.getElem_map, sb16Stored, sb16Code,
    List.getD_eq_getElem _ _ hj]
end

/-! ### The lines of a section (R194, R387) -/

section
variable {a base n b : Nat} {bs all : List Byte} {srcs : Nat → Nat → List (Nat × Nat)}

theorem mixLines_length : (mixLines a bs srcs).length = ceilDiv bs.length 64 := by rw [mixLines, List.length_map, List.length_range]

/-- A byte of a run stands on one of the run's lines. -/
theorem mixLines_covers {i : Nat} (hfit : a + bs.length ≤ 2 ^ 52) (hi : i < bs.length) :
    ∃ l ∈ mixLines a bs srcs, l.at' ≤ a + i ∧ a + i < l.at' + 64 := by
  have hline : i / 64 < ceilDiv bs.length 64 := by unfold ceilDiv; omega
  refine ⟨_, List.mem_map_of_mem (List.mem_range.2 hline), ?_⟩
  have hat : wrap52 (a + 64 * (i / 64)) = a + 64 * (i / 64) := Nat.mod_eq_of_lt (by omega)
  dsimp only
  rw [hat]
  omega

/-- The lines of a run that is part of a string of bytes. -/
theorem mixLines_ofBytes (ha : a % 64 = 0) (hbase : base ≤ a) (hfit : a + bs.length ≤ 0x20000000000) (hlen : bs.length % 64 = 0)
    (hpart : ∀ i < bs.length, bs.getD i 0 = all.getD (a - base + i) 0) : ∀ l ∈ mixLines a bs srcs, LineOfBytes base all l := by
  intro l hl
  obtain ⟨q, hq, rfl⟩ := List.mem_map.1 hl
  have hin : 64 * q + 64 ≤ bs.length := by
    have := List.mem_range.1 hq
    unfold ceilDiv at this
    omega
  have hat : wrap52 (a + 64 * q) = a + 64 * q := Nat.mod_eq_of_lt (by omega)
  unfold LineOfBytes
  dsimp only
  rw [hat]
  refine ⟨by omega, by omega, by rw [List.length_take, List.length_drop]; omega, by omega, fun k hk => ?_⟩
  rw [List.getD_eq_getElem?_getD, List.getElem?_take_of_lt hk, List.getElem?_drop, ← List.getD_eq_getElem?_getD, hpart _ (by omega)]
  congr 1
  omega

theorem mem_of_mem_sectionBlock {ls : List MixLine} {l : MixLine} (h : l ∈ sectionBlock n b ls) : l ∈ ls :=
  (List.mem_append.1 h).elim (fun h => List.mem_of_mem_take (List.mem_of_mem_drop (List.mem_of_mem_take h)))
    fun h => List.mem_of_mem_drop (List.mem_of_mem_drop (List.mem_of_mem_take h))

theorem mem_take_drop {α : Type} {ls : List α} {i lo len : Nat} (hi : i < ls.length) (hlo : lo ≤ i) (hlen : i < lo + len) :
    ls[i] ∈ (ls.drop lo).take len := by
  refine List.mem_iff_getElem.2 ⟨i - lo, by rw [List.length_take, List.length_drop]; omega, ?_⟩
  rw [List.getElem_take, List.getElem_drop]
  congr 1
  omega

/-- Every line of a section belongs to one of its blocks. -/
theorem mem_sectionBlock {ls : List MixLine} (hlen : ls.length ≤ n / 32 + ceilDiv (n / 32) 64) {l : MixLine} (h : l ∈ ls) :
    ∃ b < blocksOf n, l ∈ sectionBlock n b ls := by
  obtain ⟨i, hi, rfl⟩ := List.mem_iff_getElem.1 h
  unfold blocksOf
  by_cases hm : i < n / 32
  · have hb : i / 128 < ceilDiv n 4096 := by unfold ceilDiv; omega
    refine ⟨i / 128, hb, List.mem_append_left _ ?_⟩
    have hin : i < (ls.take (n / 32)).length := by rw [List.length_take]; omega
    rw [← List.getElem_take (h := hin)]
    exact mem_take_drop hin (by omega) (by omega)
  · unfold ceilDiv at hlen ⊢
    refine ⟨(i - n / 32) / 2, by omega, List.mem_append_right _ ?_⟩
    have hin : i - n / 32 < (ls.drop (n / 32)).length := by rw [List.length_drop]; omega
    have hget : ls[i] = (ls.drop (n / 32))[i - n / 32] := by
      rw [List.getElem_drop]
      congr 1
      omega
    rw [hget]
    exact mem_take_drop hin (by omega) (by omega)

/-- The blocks of some sections have the lines of these sections and no others. -/
theorem mem_blockLines {streams : List (List MixLine)} {l : MixLine} (hlen : ∀ ls ∈ streams, ls.length ≤ n / 32 + ceilDiv (n / 32) 64) :
    l ∈ blockLines (sectionBlock n) streams 0 (blocksOf n) ↔ ∃ ls ∈ streams, l ∈ ls := by
  unfold blockLines
  simp only [Nat.sub_zero, Nat.zero_add, List.mem_flatMap, List.mem_range]
  constructor
  · rintro ⟨b, -, ls, hls, hl⟩
    exact ⟨ls, hls, mem_of_mem_sectionBlock hl⟩
  · rintro ⟨ls, hls, hl⟩
    obtain ⟨b, hb, hin⟩ := mem_sectionBlock (hlen ls hls) hl
    exact ⟨b, hb, ls, hls, hin⟩
end

end Sys2Proof.Laws
end

section
/-! SUPPORT. The new bank of an UPDATE item (R264, R265, R268): the sections that it writes, and what stands in memory after it. -/

namespace Sys2Proof.Laws

set_option Elab.async false

open Sys2Proof Sys2Proof.Machine Sys2Proof.Safety

/-! ### Runs that are parts of one string of bytes (R194, R196) -/

/-- A run of whole lines of LPDDR5X that is part of a string of bytes from `base` on. -/
def PartOf (base : Nat) (all : List Byte) (a : Nat) (bs : List Byte) : Prop :=
  a % 64 = 0 ∧ base ≤ a ∧ a + bs.length ≤ 0x20000000000 ∧ bs.length % 64 = 0 ∧ ∀ i < bs.length, bs.getD i 0 = all.getD (a - base + i) 0

section
variable {d d' : Device} {c : Context} {cd : Cd} {item base n from' : Nat} {all : List Byte}

/-- After a transfer of whole sections that are parts of one string, block by block, each section's bytes stand at its address. -/
theorem mixMove_sections {runs : List (Nat × Nat)} {streams : List (List MixLine)} (hd : MemoriesOk d)
    (hparts : ∀ ls ∈ streams, ls.length ≤ n / 32 + ceilDiv (n / 32) 64 ∧ ∀ l ∈ ls, LineOfBytes base all l)
    (h : d.mixMove c cd item runs (blockLines (sectionBlock n) streams 0 (blocksOf n)) from' = .ok d') : d'.dies = d.dies
      ∧ ∀ a bs srcs, mixLines a bs srcs ∈ streams → PartOf base all a bs → ∀ i < bs.length, memGet 0 d'.mem.bytes (a + i) = bs.getD i 0 := by
  have hmem := fun l => mem_blockLines (l := l) fun ls hls => (hparts ls hls).1
  have hlines : ∀ l ∈ blockLines (sectionBlock n) streams 0 (blocksOf n), LineOfBytes base all l := fun l hl => by
    obtain ⟨ls, hls, hin⟩ := (hmem l).1 hl
    exact (hparts ls hls).2 l hin
  obtain ⟨hdies, hbytes⟩ := mixMove_holds hd hlines h
  refine ⟨hdies, fun a bs srcs hin ⟨_, hbase, hfit, _, hpart⟩ i hi => ?_⟩
  obtain ⟨l, hl, hlo, hhi⟩ := mixLines_covers (a := a) (srcs := srcs) (by omega) hi
  rw [hbytes l ((hmem l).2 ⟨_, hin, hl⟩) _ hlo hhi, hpart i hi]
  congr 1
  omega

/-- The sections `wb`, `mb` and `vb` of a bank from `base` on, the last of which may be missing, after their transfer. -/
theorem mixMove_bank {runs : List (Nat × Nat)} {wb mb vb : List Byte} {s0 s1 s2 : Nat → Nat → List (Nat × Nat)} {len : Nat} (hd : MemoriesOk d)
    (hn : n % 32 = 0) (hlen : len = 2 * n + ceilDiv (n / 32) 64 * 64) (hbase : base % 64 = 0) (hfit : base + 3 * len ≤ 0x20000000000)
    (hwb : wb.length = len) (hmb : mb.length = len) (hvb : vb.length = len ∨ vb = [])
    (h : d.mixMove c cd item runs
      (blockLines (sectionBlock n) [mixLines base wb s0, mixLines (base + len) mb s1, mixLines (base + 2 * len) vb s2] 0 (blocksOf n)) from' = .ok d') :
    d'.dies = d.dies ∧ (∀ i < wb.length, memGet 0 d'.mem.bytes (base + i) = wb.getD i 0)
      ∧ (∀ i < mb.length, memGet 0 d'.mem.bytes (base + len + i) = mb.getD i 0)
      ∧ ∀ i < vb.length, memGet 0 d'.mem.bytes (base + 2 * len + i) = vb.getD i 0 := by
  have hvb' : vb.length ≤ len ∧ vb.length % 64 = 0 := by
    rcases hvb with hv | rfl
    · omega
    · exact ⟨Nat.zero_le _, rfl⟩
  have hpw : PartOf base (wb ++ mb ++ vb) base wb := ⟨hbase, le_rfl, by omega, by omega, fun i hi => by
    rw [List.append_assoc, List.getD_append _ _ _ _ (by omega), Nat.sub_self, Nat.zero_add]⟩
  have hpm : PartOf base (wb ++ mb ++ vb) (base + len) mb := ⟨by omega, by omega, by omega, by omega, fun i hi => by
    rw [List.append_assoc, List.getD_append_right _ _ _ _ (by omega), List.getD_append _ _ _ _ (by omega)]
    congr 1
    omega⟩
  have hpv : PartOf base (wb ++ mb ++ vb) (base + 2 * len) vb := ⟨by omega, by omega, by omega, hvb'.2, fun i hi => by
    rw [List.getD_append_right _ _ _ _ (by rw [List.length_append]; omega), List.length_append]
    congr 1
    omega⟩
  have hlines : ∀ {a bs srcs}, PartOf base (wb ++ mb ++ vb) a bs → bs.length ≤ len →
      (mixLines a bs srcs).length ≤ n / 32 + ceilDiv (n / 32) 64 ∧ ∀ l ∈ mixLines a bs srcs, LineOfBytes base (wb ++ mb ++ vb) l := by
    rintro a bs srcs ⟨h1, h2, h3, h4, h5⟩ hle
    refine ⟨?_, mixLines_ofBytes h1 h2 h3 h4 h5⟩
    rw [mixLines_length, ceilDiv]
    omega
  obtain ⟨hdies, hholds⟩ := mixMove_sections hd (fun ls hls => by
    simp only [List.mem_cons, List.not_mem_nil, or_false] at hls
    rcases hls with rfl | rfl | rfl
    · exact hlines hpw hwb.le
    · exact hlines hpm hmb.le
    · exact hlines hpv hvb'.1) h
  exact ⟨hdies, hholds base wb s0 (by simp) hpw, hholds _ mb s1 (by simp) hpm, hholds _ vb s2 (by simp) hpv⟩
end

/-! ### A section that stands in memory (R40) -/

/-- The values `f` of `n` positions stand as a section at an address, each rounded by `rs`. -/
def SectionHeld (m : Memory) (a n : Nat) (rs : Nat → Rounding) (f : Nat → Val) : Prop := ∀ p < n,
  le ((List.range 2).map fun k => memGet 0 m (a + 2 * p + k)) = sb16Code rs f p % 65536
    ∧ memGet 0 m (a + 2 * n + p / 32) = BitVec.ofNat 8 (sb16At rs f (p / 32)).1

theorem sectionHeld_of_bytes {m : Memory} {a n : Nat} {rs : Nat → Rounding} {f : Nat → Val} (hn : n % 32 = 0)
    (h : ∀ i < (sectionOf rs ((List.range n).map f)).1.length, memGet 0 m (a + i) = (sectionOf rs ((List.range n).map f)).1.getD i 0) :
    SectionHeld m a n rs f := fun p hp => by
  have hpad := ceilDiv_lines (n / 32)
  rw [sectionOf_length hn] at h
  have hcode : (List.range 2).map (fun k => memGet 0 m (a + 2 * p + k)) = bytesLE 2 (sb16Code rs f p) := by
    refine List.ext_getElem (by simp) fun k h1 h2 => ?_
    have hk : k < 2 := by simpa using h1
    rw [List.getElem_map, List.getElem_range, Nat.add_assoc, h _ (by omega), sectionOf_mantissa hn hp hk, List.getD_eq_getElem _ _ h2]
  exact ⟨(congrArg le hcode).trans (le_bytesLE 2 _), by rw [Nat.add_assoc, h _ (by omega), sectionOf_exponent hn hp]⟩

/-! ### The values of a new bank (R264, R265, R268) -/

/-- Zero. -/
abbrev zeroVal : Val := .fin false 0 0

/-- The unscaled gradient at a position. -/
def gradientAt (u : UItem) (g : Array Val) (kappa p : Nat) : Val :=
  ((g.getD p zeroVal).mul (if p < u.r * u.din then u.gsa else u.gsb)).scale (-(kappa : Int))

/-- A new first moment, a new second moment and a new master at a position, before rounding. -/
def newMoment (hy : Hyper) (adamw : Bool) (u : UItem) (m g : Array Val) (kappa p : Nat) : Val :=
  momentOne hy adamw (m.getD p zeroVal) (gradientAt u g kappa p)
def newSquare (hy : Hyper) (u : UItem) (v g : Array Val) (kappa p : Nat) : Val := momentTwo hy (v.getD p zeroVal) (gradientAt u g kappa p)
def newWeight (hy : Hyper) (adamw : Bool) (w : Array Val) (m v : Nat → Val) (p : Nat) : Val := newMaster hy adamw (w.getD p zeroVal) (m p) (v p)

/-- The bytes of a bank's sections, from the old sections and the gradient: masters, first moments, and second moments in AdamW. -/
def momentBytes (hy : Hyper) (adamw : Bool) (u : UItem) (rs : Nat → Rounding) (m g : Array Val) (kappa : Nat) : List Byte :=
  (sectionOf rs ((List.range u.n).map (newMoment hy adamw u m g kappa))).1
def squareBytes (hy : Hyper) (adamw : Bool) (u : UItem) (rs : Nat → Rounding) (v g : Array Val) (kappa : Nat) : List Byte :=
  if adamw then (sectionOf rs ((List.range u.n).map (newSquare hy u v g kappa))).1 else []
def weightBytes (hy : Hyper) (adamw : Bool) (u : UItem) (rs rm rv : Nat → Rounding) (w m v g : Array Val) (kappa : Nat) : List Byte :=
  (sectionOf rs ((List.range u.n).map (newWeight hy adamw w (sb16Stored rm (newMoment hy adamw u m g kappa))
    (sb16Stored rv (newSquare hy u v g kappa))))).1

section
variable {d d2 : Device} {c : Context} {cd : Cd} {mode rmode i t kappa : Nat} {hy : Hyper} {u : UItem} {h : Masters} {w m v g : Array Val}

theorem item_n_aligned (u : UItem) : u.n % 32 = 0 := by
  have hn : u.n = 32 * (4 * (u.r * (u.kt + u.ct))) := by unfold UItem.n UItem.din UItem.dout; ring
  rw [hn, Nat.mul_mod_right]

theorem gradient_getD (u : UItem) (g : Array Val) (kappa : Nat) {p : Nat} (hp : p < u.n) :
    (u.gradient g kappa).toArray.getD p zeroVal = gradientAt u g kappa p := by
  rw [getD_toArray]
  exact getD_range_map (gradientAt u g kappa) zeroVal hp

theorem moments_eq {adamw : Bool} : ((List.range u.n).map fun p => momentOne hy adamw (m.getD p zeroVal) ((u.gradient g kappa).toArray.getD p zeroVal))
    = (List.range u.n).map (newMoment hy adamw u m g kappa) :=
  List.map_congr_left fun p hp => by rw [gradient_getD u g kappa (List.mem_range.1 hp), newMoment]

theorem squares_eq : ((List.range u.n).map fun p => momentTwo hy (v.getD p zeroVal) ((u.gradient g kappa).toArray.getD p zeroVal))
    = (List.range u.n).map (newSquare hy u v g kappa) :=
  List.map_congr_left fun p hp => by rw [gradient_getD u g kappa (List.mem_range.1 hp), newSquare]

theorem weights_eq {adamw : Bool} {ma va : Array Val} {mf vf : Nat → Val} (hm : ∀ p < u.n, ma.getD p zeroVal = mf p)
    (hv : adamw = true → ∀ p < u.n, va.getD p zeroVal = vf p) :
    ((List.range u.n).map fun p => newMaster hy adamw (w.getD p zeroVal) (ma.getD p zeroVal) (va.getD p zeroVal))
      = (List.range u.n).map (newWeight hy adamw w mf vf) :=
  List.map_congr_left fun p hp => by
    rw [hm p (List.mem_range.1 hp), newWeight]
    cases adamw with
    | false => rfl
    | true => rw [hv rfl p (List.mem_range.1 hp)]

/-- Without a telemetry area the Scales take no sums of an item (R271). -/
theorem normItem_none {handle layer target : Nat} {skipped nonfinite : Bool} {sw sg su : ExactSum} (harea : d.dies[cd].sieve.area = none) :
    d.normItem c cd handle layer target skipped nonfinite sw sg su = d := by
  unfold Device.normItem
  rw [harea]

theorem mixNote_sieve (ms : List (Option Meet)) : (d.mixNote cd ms).dies[cd].sieve = d.dies[cd].sieve := by
  unfold Device.mixNote
  rw [modDie_self]

/-- The whole item computed with no telemetry area bound: the memory is that after the transfer of the bank's sections. -/
theorem updateBank_moves (hstop : d.stopping c = false) (harea : d.dies[cd].sieve.area = none) (hw : d.softSection c cd u.n (u.at' (h.active t) 0) = w)
    (hm : d.softSection c cd u.n (u.at' (h.active t) 1) = m) (hv : mode = 1 → d.softSection c cd u.n (u.at' (h.active t) 2) = v)
    (hg : d.softSection c cd u.n u.grad = g) (hrun : d.updateBank c cd mode rmode i t kappa 0 hy u h = .ok (d2, none)) :
    ∃ runs s0 s1 s2 d3, d.mixMove c cd i runs (blockLines (sectionBlock u.n)
        [mixLines (u.at' (1 - h.active t) 0) (weightBytes hy (mode == 1) u (u.rounding c.seed t (bits rmode 3 2) u.tid)
            (u.rounding c.seed t (bits rmode 5 4) (u.tid + 1)) (u.rounding c.seed t (bits rmode 5 4) (u.tid + 2)) w m v g kappa) s0,
          mixLines (u.at' (1 - h.active t) 1) (momentBytes hy (mode == 1) u (u.rounding c.seed t (bits rmode 5 4) (u.tid + 1)) m g kappa) s1,
          mixLines (u.at' (1 - h.active t) 2) (squareBytes hy (mode == 1) u (u.rounding c.seed t (bits rmode 5 4) (u.tid + 2)) v g kappa) s2]
        0 (blocksOf u.n)) 0 = .ok d3 ∧ (d3.dies = d.dies → d2.mem = d3.mem) := by
  have hend : d.blockEnd c u.n 0 = blocksOf u.n := by rw [Device.blockEnd, hstop]; rfl
  have hmem : ∀ (d3 : Device) ms handle layer target nonfinite sw sg su, d2 = (d3.mixNote cd ms).normItem c cd handle layer target false nonfinite sw sg su →
      d3.dies = d.dies → d2.mem = d3.mem := by
    rintro d3 ms handle layer target nonfinite sw sg su rfl hdies
    rw [normItem_none (by rw [mixNote_sieve, hdies, harea])]
    rfl
  have hstored := fun {rs f p} (hp : p < u.n) => sectionOf_stored (rs := rs) (f := f) (item_n_aligned u) hp zeroVal
  unfold Device.updateBank at hrun
  by_cases hmode : mode = 1
  · simp only [hend, hw, hm, hg, hv hmode, hmode, beq_self_eq_true, if_true, moments_eq, squares_eq] at hrun
    obtain ⟨d3, hmove, he⟩ := except_map_ok hrun
    rw [weights_eq (fun _ => hstored) (fun _ _ => hstored)] at hmove
    exact ⟨_, _, _, _, d3, by rw [hmode]; exact hmove, hmem _ _ _ _ _ _ _ _ _ (congrArg Prod.fst he)⟩
  · have hsgd : (mode == 1) = false := beq_eq_false_iff_ne.2 hmode
    simp only [hend, hw, hm, hg, hsgd, Bool.false_eq_true, if_false, moments_eq] at hrun
    obtain ⟨d3, hmove, he⟩ := except_map_ok hrun
    rw [weights_eq (fun _ => hstored) (fun h => Bool.noConfusion h)] at hmove
    exact ⟨_, _, _, _, d3, by rw [hsgd]; exact hmove, hmem _ _ _ _ _ _ _ _ _ (congrArg Prod.fst he)⟩
end

end Sys2Proof.Laws
end

section
/-! UPDATE skips an adapter, or fills its inactive bank with the new masters and moments of SGD and AdamW (O17). -/

namespace Sys2Proof.Safety

set_option Elab.async false

open Sys2Proof Sys2Proof.Machine Sys2Proof.Laws

/-- A section of an item in LPDDR5X stands at its place in the bank, unwrapped (R265). -/
theorem item_at {u : UItem} {bank j : Nat} (hj : j ≤ 3) (hfit : u.mst + 64 + bank * u.bank * 64 + u.off * 64 + 3 * u.section' ≤ 0x20000000000) :
    u.at' bank j = u.mst + 64 + bank * u.bank * 64 + u.off * 64 + j * u.section' := by
  have hle : j * u.section' ≤ 3 * u.section' := Nat.mul_le_mul_right _ hj
  exact Nat.mod_eq_of_lt (by omega)

theorem softSection_reads {d : Device} {c : Context} {cd : Cd} {n a : Nat} {ms xs : List Byte} (hm : d.readBytes c cd .mixer a (2 * n) = .ok ms)
    (hx : d.readBytes c cd .mixer (wrap52 (a + 2 * n)) (n / 32) = .ok xs) : d.softSection c cd n a = sectionValues n ms xs := by
  rw [Device.softSection, softRead_ok hm, softRead_ok hx]

theorem updateComputesTheNewBank : Sys2Proof.Claims.UpdateComputesTheNewBank := by
  intro d d2 c cd mode rmode i t kappa hy u h wm wx mm mx vm vx gm gx n act bank one at0 reads w g m' v' block code stored mmode m1 v1 way w' holds
    hd hstop harea hmst hfit hreadW hreadM hreadV hreadG hrun
  have hmode : mode = 0 ∨ mode = 1 := by fin_cases mode <;> decide
  obtain ⟨runs, s0, s1, s2, d3, hmove, hmem⟩ := updateBank_moves (v := sectionValues n vm vx) hstop harea (softSection_reads hreadW.1 hreadW.2)
    (softSection_reads hreadM.1 hreadM.2) (fun hv => have hv := hreadV (Fin.ext hv); softSection_reads hv.1 hv.2) (softSection_reads hreadG.1 hreadG.2) hrun
  have hmm : bits rmode 5 4 = mmode := bits_eq rmode 5 4
  have hwm : bits rmode 3 2 = rmode / 4 % 4 := bits_eq rmode 3 2
  rw [hmm, hwm] at hmove
  have hm' : newMoment hy (mode.val == 1) u (sectionValues n mm mx) (sectionValues n gm gx) kappa = m' := by rcases hmode with rfl | rfl <;> rfl
  have hv' : newSquare hy u (sectionValues n vm vx) (sectionValues n gm gx) kappa = v' := rfl
  have hw' : newWeight hy (mode.val == 1) (sectionValues n wm wx) m1 v1 = w' := by rcases hmode with rfl | rfl <;> rfl
  have hwb : weightBytes hy (mode.val == 1) u (u.rounding c.seed t (rmode / 4 % 4) u.tid) (u.rounding c.seed t mmode (u.tid + 1))
      (u.rounding c.seed t mmode (u.tid + 2)) (sectionValues n wm wx) (sectionValues n mm mx) (sectionValues n vm vx) (sectionValues n gm gx) kappa
      = (sectionOf (u.rounding c.seed t (rmode / 4 % 4) u.tid) ((List.range n).map w')).1 := by
    rw [weightBytes, hm', hv', ← hw']
    rfl
  rw [hwb, momentBytes, hm', squareBytes, hv'] at hmove
  have hn := item_n_aligned u
  have hat1 : u.at' bank 1 = u.at' bank 0 + u.section' := by rw [item_at (by decide) hfit, item_at (by decide) hfit]; omega
  have hat2 : u.at' bank 2 = u.at' bank 0 + 2 * u.section' := by rw [item_at (by decide) hfit, item_at (by decide) hfit]; omega
  have hat0 : u.at' bank 0 % 64 = 0 ∧ u.at' bank 0 + 3 * u.section' ≤ 0x20000000000 := by rw [item_at (by decide) hfit]; omega
  rw [hat1, hat2] at hmove
  obtain ⟨hdies, hW, hM, hV⟩ := mixMove_bank (len := u.section') hd hn rfl hat0.1 hat0.2 (sectionOf_length hn) (sectionOf_length hn)
    (by split; exacts [.inl (sectionOf_length hn), .inr rfl]) hmove
  rw [← hmem hdies] at hW hM hV
  rw [← hat1] at hM
  rw [← hat2] at hV
  have hheldV : mode = 1 → SectionHeld d2.mem.bytes (u.at' bank 2) n (u.rounding c.seed t mmode (u.tid + 2)) v' := fun hone => by
    rw [if_pos (by rw [hone]; rfl)] at hV
    exact sectionHeld_of_bytes hn hV
  exact ⟨sectionHeld_of_bytes hn hW, sectionHeld_of_bytes hn hM, hheldV⟩

/-- Settles O17, claim by claim: an item that is skipped (`updateItem_skipped`) and one that is computed (`updateItem_filled`), and the bank that the
latter fills (`updateBank_moves`), whose sections stand in memory once their lines are written (`mixMove_bank`). -/
theorem updateSkipsOrFillsTheInactiveBank : Obligations.UpdateSkipsOrFillsTheInactiveBank :=
  ⟨updateWritesLogBankAndHeader, updateComputesTheNewBank⟩

end Sys2Proof.Safety
end

section
/-! SUPPORT. Dyadic numbers as rationals, and the disagreement bins (R293). -/

namespace Sys2Proof.Laws

set_option Elab.async false

open Sys2Proof Sys2Proof.Machine Sys2Proof.Safety

/-! ### Dyadic numbers as rationals -/

/-- The rational number of a dyadic. -/
def ratOf (a : Dy) : ℚ := a.m * (2 : ℚ) ^ a.e

section
variable {a b : Dy}

theorem ratOf_dy {neg : Bool} {mag : Nat} {e : Int} : ratOf (Val.dy (.fin neg mag e)) = exactly (.fin neg mag e) := by
  cases neg <;> simp [ratOf, Val.dy, exactly]

theorem ratOf_eq_zero : ratOf a = 0 ↔ a.m = 0 := by
  simp [ratOf, zpow_ne_zero a.e (two_ne_zero (α := ℚ))]

theorem ratOf_neg : ratOf ⟨-b.m, b.e⟩ = -ratOf b := by simp [ratOf]

/-- A dyadic is as many quanta of a power of two not above its own as the shift gives. -/
theorem shlInt_zpow {m e e' : Int} (h : e' ≤ e) : (shlInt m (e - e').toNat : ℚ) * (2 : ℚ) ^ e' = m * (2 : ℚ) ^ e := by
  have hsplit : (2 : ℚ) ^ e = (2 : ℚ) ^ (e - e').toNat * (2 : ℚ) ^ e' := by
    rw [← zpow_natCast, ← zpow_add₀ (two_ne_zero), Int.toNat_of_nonneg (by omega), Int.sub_add_cancel]
  rw [shlInt_eq, hsplit]
  push_cast
  ring

/-- Two dyadics aligned are themselves, in quanta of one power of two. -/
theorem ratOf_align : ((a.align b).1 : ℚ) * (2 : ℚ) ^ (a.align b).2.2 = ratOf a ∧ ((a.align b).2.1 : ℚ) * (2 : ℚ) ^ (a.align b).2.2 = ratOf b := by
  have hle : (a.align b).2.2 ≤ a.e ∧ (a.align b).2.2 ≤ b.e := by
    dsimp only [Dy.align]
    split <;> omega
  exact ⟨shlInt_zpow hle.1, shlInt_zpow hle.2⟩

theorem ratOf_add : ratOf (a.add b) = ratOf a + ratOf b := by
  unfold Dy.add
  split
  · next h => rw [ratOf_eq_zero.2 h, zero_add]
  · split
    · next h => rw [ratOf_eq_zero.2 h, add_zero]
    · obtain ⟨ha, hb⟩ := ratOf_align (a := a) (b := b)
      rw [← ha, ← hb, ← add_mul, ← Int.cast_add]
      rfl

theorem ratOf_sub : ratOf (a.sub b) = ratOf a - ratOf b := by rw [Dy.sub, ratOf_add, ratOf_neg, sub_eq_add_neg]

theorem ratOf_abs : ratOf a.abs = |ratOf a| := by
  simp [ratOf, Dy.abs, abs_mul, abs_of_pos (zpow_pos (two_pos (α := ℚ)) a.e)]

/-- A dyadic shifted in its exponent is multiplied by the power of two. -/
theorem ratOf_shift (k : Int) : ratOf ⟨a.m, a.e + k⟩ = (2 : ℚ) ^ k * ratOf a := by
  simp only [ratOf, zpow_add₀ (two_ne_zero (α := ℚ))]
  ring

theorem lt_iff_ratOf : a.lt b = true ↔ ratOf a < ratOf b := by
  obtain ⟨ha, hb⟩ := ratOf_align (a := a) (b := b)
  rw [← ha, ← hb, mul_lt_mul_iff_left₀ (zpow_pos two_pos _), Int.cast_lt]
  simp [Dy.lt]
end

/-! ### Disagreement bins (R293) -/

/-- The bin of the disagreement of a finite value with a finite wide value that is not zero, as a part of the wide value (R293). -/
def ratioBin (r : ℚ) : Nat :=
  if r = 0 then 0
  else match (List.range 14).find? fun i : Nat => decide (r < (2 : ℚ) ^ ((i : Int) - 14)) with
    | some i => i + 1
    | none => 15

theorem disagreeBin_wideZero {nn nw : Bool} {mn : Nat} {en ew : Int} : disagreeBin (.fin nn mn en) (.fin nw 0 ew) = if mn = 0 then 0 else 15 := by
  cases mn <;> rfl

/-- The bin of two finite values, the wide one not zero, follows from their exact ratio. -/
theorem disagreeBin_ratio {nn nw : Bool} {mn mw : Nat} {en ew : Int} (hw : mw ≠ 0) :
    let yn : Val := .fin nn mn en
    let yw : Val := .fin nw mw ew
    disagreeBin yn yw = ratioBin (|exactly yn - exactly yw| / |exactly yw|) := by
  intro yn yw
  have hyw : 0 < |exactly yw| := by
    rw [← ratOf_dy, abs_pos, Ne, ratOf_eq_zero]
    cases nw <;> simpa [Val.dy] using hw
  have hdiff : ratOf (yn.dy.sub yw.dy).abs = |exactly yn - exactly yw| := by rw [ratOf_abs, ratOf_sub, ratOf_dy, ratOf_dy]
  have hwide : ratOf yw.dy.abs = |exactly yw| := by rw [ratOf_abs, ratOf_dy]
  have hzero : (yn.dy.sub yw.dy).abs.m = 0 ↔ |exactly yn - exactly yw| / |exactly yw| = 0 := by
    rw [← ratOf_eq_zero, hdiff, div_eq_zero_iff, or_iff_left hyw.ne']
  have hlt : (fun i : Nat => (yn.dy.sub yw.dy).abs.lt ⟨yw.dy.abs.m, yw.dy.abs.e + (i : Int) - 14⟩)
      = fun i : Nat => decide (|exactly yn - exactly yw| / |exactly yw| < (2 : ℚ) ^ ((i : Int) - 14)) := by
    funext i
    rw [Bool.eq_iff_iff, decide_eq_true_iff, lt_iff_ratOf, Int.add_sub_assoc, ratOf_shift, hdiff, hwide, div_lt_iff₀ hyw]
  have hbin : disagreeBin yn yw = if (yn.dy.sub yw.dy).abs.m = 0 then 0
      else match (List.range 14).find? fun i : Nat => (yn.dy.sub yw.dy).abs.lt ⟨yw.dy.abs.m, yw.dy.abs.e + (i : Int) - 14⟩ with
        | some i => i + 1
        | none => 15 := if_neg hw
  rw [hbin, hlt, ratioBin]
  simp only [hzero]

section
variable {r : ℚ}

theorem ratioBin_zero_iff : ratioBin r = 0 ↔ r = 0 := by
  unfold ratioBin
  split
  · next h => simp [h]
  · next h => split <;> simp [h]

/-- A later bound is a larger one. -/
theorem bound_le {i j : Nat} (h : i ≤ j) : (2 : ℚ) ^ ((i : Int) - 14) ≤ (2 : ℚ) ^ ((j : Int) - 14) :=
  zpow_le_zpow_right₀ one_le_two (by omega)

/-- A disagreement lies in bin k + 1 when it is there, below the bound of this bin and not below that of an earlier one. -/
theorem ratioBin_succ_iff {k : Nat} (hr : 0 ≤ r) (hk : k < 14) :
    ratioBin r = k + 1 ↔ 0 < r ∧ r < (2 : ℚ) ^ ((k : Int) - 14) ∧ ∀ j < k, (2 : ℚ) ^ ((j : Int) - 14) ≤ r := by
  rcases hr.eq_or_lt with rfl | hpos
  · simp [ratioBin]
  · have hfind : ratioBin r = k + 1 ↔ (List.range 14).find? (fun i : Nat => decide (r < (2 : ℚ) ^ ((i : Int) - 14))) = some k := by
      rw [ratioBin, if_neg hpos.ne']
      cases (List.range 14).find? fun i : Nat => decide (r < (2 : ℚ) ^ ((i : Int) - 14)) with
      | none => exact iff_of_false (by dsimp only; omega) nofun
      | some i => simp
    simp [hfind, List.find?_range_eq_some, hk, hpos]

/-- A disagreement lies in the last bin when it is there and below no bound. -/
theorem ratioBin_last_iff (hr : 0 ≤ r) : ratioBin r = 15 ↔ 0 < r ∧ ∀ j : Nat, j < 14 → (2 : ℚ) ^ ((j : Int) - 14) ≤ r := by
  rcases hr.eq_or_lt with rfl | hpos
  · simp [ratioBin]
  · have hfind : ratioBin r = 15 ↔ (List.range 14).find? (fun i : Nat => decide (r < (2 : ℚ) ^ ((i : Int) - 14))) = none := by
      rw [ratioBin, if_neg hpos.ne']
      cases h : (List.range 14).find? fun i : Nat => decide (r < (2 : ℚ) ^ ((i : Int) - 14)) with
      | none => simp
      | some i =>
        have hi : i < 14 := List.mem_range.1 (List.mem_of_find?_eq_some h)
        exact iff_of_false (by dsimp only; omega) nofun
    simp [hfind, hpos]

/-- Not below any of the first n + 1 bounds is not below the last of them. -/
theorem bounds_le_iff {n : Nat} : (0 < r ∧ ∀ j < n + 1, (2 : ℚ) ^ ((j : Int) - 14) ≤ r) ↔ (2 : ℚ) ^ ((n : Int) - 14) ≤ r :=
  ⟨fun h => h.2 n n.lt_succ_self, fun h => ⟨(zpow_pos two_pos _).trans_le h, fun _ hj => (bound_le (Nat.le_of_lt_succ hj)).trans h⟩⟩

/-- The bins between the first and the last, each from the bound of the one before to its own. -/
theorem ratioBin_iff {i : Nat} (hr : 0 ≤ r) (hi : 2 ≤ i) (hi' : i ≤ 14) :
    ratioBin r = i ↔ (2 : ℚ) ^ ((i : Int) - 16) ≤ r ∧ r < (2 : ℚ) ^ ((i : Int) - 15) := by
  obtain ⟨n, rfl⟩ := Nat.exists_eq_add_of_le' hi
  have hlow : ((n + 2 : Nat) : Int) - 16 = (n : Int) - 14 := by omega
  have hhigh : ((n + 2 : Nat) : Int) - 15 = ((n + 1 : Nat) : Int) - 14 := by omega
  rw [ratioBin_succ_iff (k := n + 1) hr (by omega), hlow, hhigh, ← bounds_le_iff]
  tauto
end

end Sys2Proof.Laws
end

section
/-! SUPPORT. What faults, records and events leave of the dies: everything but the fault on its way (R192, R195). -/

namespace Sys2Proof.Laws

set_option Elab.async false

open Sys2Proof Sys2Proof.Machine Sys2Proof.Safety

/-- Every die of `e` is that of `d`, rewritten at most in the fault on its way. -/
def MarksDies (d e : Device) : Prop := ∀ o : Cd, ∃ f, e.dies[o] = { d.dies[o] with faultDue := f }

namespace MarksDies
section
variable {d e k : Device} {c : Context} {r : ErrRec} {id : RingId}

theorem of_dies (h : e.dies = d.dies) : MarksDies d e := fun _ => ⟨_, by rw [h]⟩

theorem trans (h : MarksDies d e) (h' : MarksDies e k) : MarksDies d k := fun o => by
  obtain ⟨_, he⟩ := h o
  obtain ⟨f, hk⟩ := h' o
  exact ⟨f, by rw [hk, he]⟩

theorem sieve (h : MarksDies d e) (o : Cd) : e.dies[o].sieve = d.dies[o].sieve := by obtain ⟨_, he⟩ := h o; rw [he]

theorem markFault : MarksDies d (d.markFault c r) := fun o => by
  unfold Device.markFault
  dsimp only
  split
  · rw [modArc_get, modCtx_dies]
    split
    · split <;> exact ⟨_, rfl⟩
    · exact ⟨_, rfl⟩
  · exact ⟨_, rfl⟩

theorem markTag : MarksDies d (d.markTag r) := by
  unfold Device.markTag
  split
  · exact markFault
  · exact of_dies rfl
end
end MarksDies

section
variable {d : Device} {c : Context} {r : ErrRec} {id : RingId} {f : BitVec 16 → RingIo → RingIo}

theorem logErr_dies : (d.logErr r).dies = d.dies := by unfold Device.logErr; rfl

/-- A ring operation moves no die. -/
theorem ringDo_dies : (d.ringDo id f).1.dies = d.dies := by
  unfold Device.ringDo
  split
  · split
    · rfl
    · exact companionPut_dies ..
  · split
    · rfl
    · split
      · rfl
      · exact companionPut_dies ..

namespace MarksDies

theorem writesFailed {tag : BitVec 16} : ∀ (ws : Writes) (d : Device), MarksDies d (d.writesFailed id tag ws)
  | [], _ => of_dies rfl
  | _ :: ws, _ => ((of_dies logErr_dies).trans (markTag.trans (of_dies ringDo_dies))).trans (writesFailed ws _)

theorem onRing : MarksDies d (d.onRing id f) := by
  unfold Device.onRing
  dsimp only
  split
  · exact (of_dies ringDo_dies).trans (writesFailed _ _)
  · exact of_dies ringDo_dies

theorem event {code : Nat} {p : List Byte} : MarksDies d (d.event id code p) := onRing

theorem fault : MarksDies d (d.fault c r) := ((of_dies logErr_dies).trans event).trans markFault

end MarksDies

/-- An event moves no die where the link answers no write with an error (R171). -/
theorem event_dies {code : Nat} {p : List Byte} (h : d.mem.errLines = []) : (d.event id code p).dies = d.dies := by
  have hbad : ∀ ws, d.badWrites ws = [] := fun ws => List.filter_eq_nil_iff.2 fun _ _ => by simp [h]
  unfold Device.event Device.onRing
  dsimp only
  rw [hbad, Device.writesFailed, List.foldl_nil, ite_self, ringDo_dies]

theorem mem_ctxs_of_residentOf {cd : Cd} (h : d.residentOf cd = some c) : c ∈ d.ctxs := List.mem_of_find?_eq_some h

/-- The fault of a context leaves a FAULTED one in its slot (R192). -/
theorem fault_faulted_slot (hc : c ∈ d.ctxs) : ∃ b ∈ (d.fault c r).ctxs, b.slot = c.slot ∧ b.cond = .faulted := by
  obtain ⟨a, ha⟩ : ∃ a, d.ctxAt c.slot = some a := Option.isSome_iff_exists.1 (List.find?_isSome.2 ⟨c, hc, beq_self_eq_true _⟩)
  obtain ⟨b, hb, -⟩ := (Leaves.report (r := r) (.refl d)).ctxs c.slot a ha
  have hslot : b.slot = c.slot := ctxAt_slot hb
  have hf : (d.fault c r).ctxAt c.slot = some (faultedBy c r b) := by
    rw [Device.fault, markFault_ctxAt, hb, Option.map_some, if_pos (by rw [hslot]; exact beq_self_eq_true _)]
  exact ⟨_, List.mem_of_find?_eq_some hf, hslot, rfl⟩
end

end Sys2Proof.Laws
end

section
/-! SUPPORT. The comparison of a sample (R292 to R294). -/

namespace Sys2Proof.Laws

set_option Elab.async false

open Sys2Proof Sys2Proof.Machine Sys2Proof.Safety

/-- The Sieve after a comparison with the bins `bl` of the elements, of which `n` lie from the arming's bin on (R292 to R294). -/
def compared (v : Sieve) (sm : Sample) (bl : List Nat) (n : Nat) : Sieve :=
  { v with
    sample := none
    samples := v.samples.add 1
    bins := each (fun i (c : Counter) => c.add (bl.filter (· == i.val)).length) v.bins
    crossings := v.crossings.add (if decide (sm.arm.cnt ≤ n) then 1 else 0)
    raised := v.raised || decide (sm.arm.cnt ≤ n) }

theorem compared_counts (v : Sieve) (sm : Sample) (bl : List Nat) (n : Nat) : let w := compared v sm bl n
    w.sample = none ∧ w.samples = v.samples.add 1 ∧ (∀ i : Fin 16, w.bins[i] = v.bins[i].add (bl.count i.val))
      ∧ w.crossings = v.crossings.add (if sm.arm.cnt ≤ n then 1 else 0) ∧ w.raised = (v.raised || decide (sm.arm.cnt ≤ n))
      ∧ w.taps = v.taps ∧ w.arms = v.arms ∧ w.group = v.group ∧ w.area = v.area := by
  refine ⟨rfl, rfl, fun i => ?_, ?_, rfl, rfl, rfl, rfl, rfl⟩
  · rw [List.count_eq_length_filter]; exact each_get ..
  · simp [compared]

section
variable {d : Device} {cd : Cd} {c : Context} {sm : Sample} {p : OutParams} {ys : List Val}

/-- A comparison counts, and then posts its event at the first crossing. -/
theorem sieveCompare_eq (hres : d.residentOf cd = some c) (hfrozen : d.dies[cd].frozen = false) (hheld : d.enginesHeld c = false)
    (hsample : d.dies[cd].sieve.sample = some sm) (hread : sm.readout = some (p, ys)) :
    let v := d.dies[cd].sieve
    let bl := sm.binList p ys
    let n := (bl.filter fun b => decide (sm.arm.bin ≤ b)).length
    let d1 := d.modDie cd fun x => { x with sieve := compared v sm bl n }
    d.sieveCompare cd = if decide (sm.arm.cnt ≤ n) && !v.raised
      then d1.event (.ctx c.slot) 0x82 (sievePayload cd.val c.tag sm n (d1.cycle (cdIsland cd 8 0))) else d1 := by
  simp only [Device.sieveCompare, hres, hfrozen, hheld, hsample, hread]
  rfl
end

end Sys2Proof.Laws
end

section
/-! Disagreement bins, and the comparison of a sample (O24). -/

namespace Sys2Proof.Safety

set_option Elab.async false

open Sys2Proof Sys2Proof.Machine Sys2Proof.Laws

theorem disagreementBinsFollowTheirTable : Sys2Proof.Claims.DisagreementBinsFollowTheirTable := by
  intro nn nw mn mw en ew yn yw b d
  have hd : 0 ≤ d := by positivity
  refine ⟨fun hw => ?_, fun hw => ?_⟩
  · have hb : b = if mn = 0 then 0 else 15 := by subst hw; exact disagreeBin_wideZero
    exact ⟨fun h => hb.trans (if_pos h), fun h => hb.trans (if_neg h)⟩
  · rw [show b = ratioBin d from disagreeBin_ratio hw]
    refine ⟨ratioBin_zero_iff, ?_, fun i hi hi' => ratioBin_iff hd hi hi', ?_⟩
    · simpa using ratioBin_succ_iff (k := 0) hd (by decide)
    · rw [ratioBin_last_iff hd, bounds_le_iff (n := 13)]
      norm_num

theorem sieveComparisonCountsItsSample : Sys2Proof.Claims.SieveComparisonCountsItsSample := by
  intro s cd c sm p ys x v bl n hres hfrozen hheld hsample hread
  let d1 : Device := s.dev.modDie cd fun x => { x with sieve := compared v sm bl n }
  have hcmp := sieveCompare_eq hres hfrozen hheld hsample hread
  have hsieve : d1.dies[cd].sieve = compared v sm bl n := by rw [modDie_self]
  have hothers : ∀ o : Cd, o ≠ cd → d1.dies[o] = s.dev.dies[o] := fun o ho => modDie_other _ _ (Ne.symm ho)
  refine ⟨⟨s.dev.sieveCompare cd, s.pending⟩, rfl, ?_⟩
  have htell_iff : (decide (sm.arm.cnt ≤ n) && !v.raised) = true ↔ sm.arm.cnt ≤ n ∧ v.raised = false := by
    rw [Bool.and_eq_true, decide_eq_true_iff, Bool.not_eq_true']
  by_cases htell : sm.arm.cnt ≤ n ∧ v.raised = false
  · have hdev : s.dev.sieveCompare cd = d1.event (.ctx c.slot) 0x82 (sievePayload cd.val c.tag sm n (d1.cycle (cdIsland cd 8 0))) :=
      hcmp.trans (if_pos (htell_iff.2 htell))
    rw [hdev]
    refine ⟨?_, fun _ _ => ⟨d1, rfl, rfl, rfl⟩, fun h => absurd (h htell.1) (by simp [htell.2]),
      fun hlink o ho => by rw [event_dies (d := d1) hlink]; exact hothers o ho⟩
    rw [MarksDies.event.sieve cd, hsieve]
    exact compared_counts ..
  · have hdev : s.dev.sieveCompare cd = d1 := hcmp.trans (if_neg (mt htell_iff.1 htell))
    rw [hdev]
    refine ⟨?_, fun h h' => absurd ⟨h, h'⟩ htell, fun _ => ⟨rfl, rfl⟩, fun _ => hothers⟩
    rw [hsieve]
    exact compared_counts ..

/-- Settles O24, claim by claim: the bin of two values is that of their exact ratio (`disagreeBin_ratio`), and a comparison is the counts of `compared`
and, at the first crossing, one event (`sieveCompare_eq`), which leaves the Sieve (`MarksDies`). -/
theorem sieveBinsAndCountsItsSample : Obligations.SieveBinsAndCountsItsSample :=
  ⟨disagreementBinsFollowTheirTable, sieveComparisonCountsItsSample⟩

end Sys2Proof.Safety
end

section
/-! SUPPORT. TAP in its three modes (R280, R285, R288, R289). -/

namespace Sys2Proof.Laws

set_option Elab.async false

open Sys2Proof Sys2Proof.Machine Sys2Proof.Safety

section
variable {d : Device} {x : Die} {cd : Cd} {q : QueueId} {c : Context} {e : QEntry}

/-! ### A command that starts, and one that a fault stops (R154, R195) -/

/-- A command that starts is one of a resident context. -/
theorem startable_resident {op : Nat} (h : d.startable cd q op = some (c, e)) : d.residentOf cd = some c := by
  unfold Device.startable at h
  split at h
  · cases h
  · next hres =>
    dsimp only at h
    split at h
    · cases h
    · split at h
      · split at h <;> cases h
        exact hres
      · cases h
      · split at h <;> cases h
        exact hres

theorem queuesOnly_markStop : QueuesOnly fun x => x.markStop q e := queuesOnly_comp queuesOnly_markStart (queuesOnly_modQueue _)

/-- A command that a fault has stopped has started in its queue, without its last result. -/
theorem startedIn_markStop {pending : List Instr} : StartedIn ⟨d.modDie cd fun x => x.markStop q e, pending⟩ cd q e.no false := by
  intro b hb hn
  rw [modDie_self] at hb
  unfold Die.markStop at hb
  rw [modQueue_self] at hb
  obtain ⟨a, ha, hno, rfl⟩ := eq_of_mem_setEntry hb hn
  obtain ⟨hs, hd, -, -⟩ := markStart_entry ha hno
  exact ⟨hs, hd⟩

/-- A range that lies in the own bonded SRAM window passes its check. -/
theorem ownWindow_holds {a hi : Nat} (hlow : sramOf cd.val ≤ a) (hlt : a < hi) (hhigh : hi ≤ sramOf cd.val + 0x80000000) :
    ¬((!inOwnSram cd a) = true ∨ sramOf cd.val + 0x80000000 < hi) := by
  have hin : inOwnSram cd a = true := by
    rw [inOwnSram, decide_eq_true hlow, decide_eq_true (by omega)]
    rfl
  rw [hin]
  rintro (h | h)
  · cases h
  · omega

/-! ### The record of a TAP -/

theorem tapMode_eq (x : Die) (e : QEntry) : x.tapMode e = x.recField e 1 1 % 4 := rfl

theorem nodup_tapMas (x : Die) (e : QEntry) : (x.tapMas e).Nodup := (List.nodup_finRange 4).filter _

/-- The MAs of a TAP are those of its mask. -/
theorem mem_tapMas {i : MaNo} : i ∈ x.tapMas e ↔ (BitVec.ofNat 4 (x.recField e 2 1)).getLsbD i.val = true := by
  rw [Die.tapMas, List.mem_filter, bit_eq, BitVec.getLsbD_ofNat, Nat.testBit_eq_decide_div_mod_eq, decide_eq_true i.isLt]
  simp

/-! ### Its three modes -/

theorem tapNormEngine_binds (hmode : d.dies[cd].recField e 1 1 % 4 = 0) (hlow : sramOf cd.val ≤ d.dies[cd].recAddr e 0x10)
    (hhigh : d.dies[cd].recAddr e 0x10 + 64 + 48 * d.dies[cd].recField e 8 4 ≤ sramOf cd.val + 0x80000000) :
    tapNormEngine cd d c e = .ran (d.modDie cd fun x => { x with sieve := { x.sieve with
      area := some (BitVec.ofNat 52 (d.dies[cd].recAddr e 0x10), BitVec.ofNat 32 (d.dies[cd].recField e 8 4), BitVec.ofNat 32 (e.gb.toNat % 2 ^ 32)) } })
      [] true := by
  unfold tapNormEngine
  dsimp only
  rw [tapMode_eq, if_neg (not_not.2 hmode), if_neg (ownWindow_holds hlow (by omega) hhigh)]

/-- An area that does not lie in the own window with its capacity is refused (R299). -/
theorem tapNormEngine_refuses (hmode : d.dies[cd].recField e 1 1 % 4 = 0) (hout : d.dies[cd].recAddr e 0x10 < sramOf cd.val
      ∨ sramOf cd.val + 0x80000000 < d.dies[cd].recAddr e 0x10 + 64 + 48 * d.dies[cd].recField e 8 4) :
    tapNormEngine cd d c e = .stopped (d.scalesErr c cd 1 (d.dies[cd].recAddr e 0x10)) := by
  have hbad : (!inOwnSram cd (d.dies[cd].recAddr e 0x10)) = true
      ∨ sramOf cd.val + 0x80000000 < d.dies[cd].recAddr e 0x10 + 64 + 48 * d.dies[cd].recField e 8 4 := by
    refine hout.imp_left fun h => ?_
    rw [inOwnSram, decide_eq_false (Nat.not_le.2 h)]
    rfl
  unfold tapNormEngine
  dsimp only
  rw [tapMode_eq, if_neg (not_not.2 hmode), if_pos hbad]

/-- MAs of a list rewritten one after the other. -/
theorem foldl_modMa (f : Ma → Ma) : ∀ (l : List MaNo) (x : Die),
    l.foldl (fun x i => x.modMa i f) x = { x with mas := l.foldl (fun v i => upd v i f) x.mas }
  | [], _ => rfl
  | _ :: l, _ => foldl_modMa f l _

/-- An MA armed by a SCALES TAP (R288). -/
def tapArmed (x : Die) (e : QEntry) (m : Ma) : Ma := { m with tapLeft := x.recField e 8 4, tapAcc := idx 64 (x.recField e 3 1) }

/-- The MAs after a SCALES TAP (R288). -/
def scalesArmed (x : Die) (e : QEntry) : Vector Ma 4 := (x.tapMas e).foldl (fun v i => upd v i (tapArmed x e)) x.mas

theorem scalesArmed_get (x : Die) (e : QEntry) (i : MaNo) :
    (scalesArmed x e)[i] = if (BitVec.ofNat 4 (x.recField e 2 1)).getLsbD i.val then tapArmed x e x.mas[i] else x.mas[i] := by
  rw [scalesArmed, foldl_upd_get (fun _ => tapArmed x e) _ (nodup_tapMas x e)]
  simp only [mem_tapMas]

theorem tapScalesEngine_arms (hmode : d.dies[cd].recField e 1 1 % 4 = 1) :
    tapScalesEngine cd d c e = .ran (d.modDie cd fun x => { x with mas := scalesArmed d.dies[cd] e }) [] true := by
  unfold tapScalesEngine
  dsimp only
  rw [tapMode_eq, if_neg (not_not.2 hmode)]
  exact congrArg (Engine.ran · [] true) (modDie_congr (foldl_modMa ..))

/-- The arming of the MAs after a SIEVE TAP (R289). -/
def sieveArmed (x : Die) (e : QEntry) : Vector (Option SieveArm) 4 :=
  (x.tapMas e).foldl (fun v i => upd v i fun _ => some (x.sieveArm e i)) x.sieve.arms

theorem sieveArmed_get (x : Die) (e : QEntry) (i : MaNo) : (sieveArmed x e)[i] =
    if (BitVec.ofNat 4 (x.recField e 2 1)).getLsbD i.val then some (x.sieveArm e i) else x.sieve.arms[i] := by
  rw [sieveArmed, foldl_upd_get (fun i _ => some (x.sieveArm e i)) _ (nodup_tapMas x e)]
  simp only [mem_tapMas]

theorem tapSieveEngine_arms (hmode : d.dies[cd].recField e 1 1 % 4 = 2) :
    tapSieveEngine cd d c e = .ran (d.modDie cd fun x => { x with sieve := { x.sieve with arms := sieveArmed d.dies[cd] e } }) [] true := by
  unfold tapSieveEngine
  dsimp only
  rw [tapMode_eq, if_neg (not_not.2 hmode)]
  exact congrArg (Engine.ran · [] true) (modDie_congr rfl)
end

end Sys2Proof.Laws
end

section
/-! SUPPORT. The telemetry record (R281, R297): its fields, and the REPORT that writes it. -/

namespace Sys2Proof.Laws

set_option Elab.async false

open Sys2Proof Sys2Proof.Machine Sys2Proof.Safety

/-! ### Parts of byte strings -/

section
variable {α : Type} {g : α → List Byte} {w off n i : Nat} {pre mid post : List Byte}

/-- A part of the middle of three strings. -/
theorem slice_middle (h : off + n ≤ mid.length) : ((pre ++ (mid ++ post)).drop (pre.length + off)).take n = (mid.drop off).take n := by
  rw [List.drop_append, List.drop_eq_nil_of_le (Nat.le_add_right ..), Nat.add_sub_cancel_left, List.nil_append,
    List.drop_append_of_le_length (by omega), List.take_append_of_le_length (by rw [List.length_drop]; omega)]

theorem drop_flatMap_const : ∀ {l : List α} {i : Nat}, (∀ a ∈ l, (g a).length = w) → (l.flatMap g).drop (w * i) = (l.drop i).flatMap g
  | [], _, _ => by simp
  | _ :: _, 0, _ => rfl
  | a :: l, i + 1, h => by
    have ha : (g a).length = w := h a (List.mem_cons_self ..)
    rw [List.flatMap_cons, Nat.mul_succ, Nat.add_comm, ← ha, ← List.drop_drop, List.drop_left, ha,
      drop_flatMap_const fun b hb => h b (List.mem_cons_of_mem _ hb), List.drop_succ_cons]

/-- A part of piece `i` of a list of pieces of length `w`. -/
theorem slice_flatMap_const {l : List α} (hi : i < l.length) (hl : ∀ a ∈ l, (g a).length = w) (h : off + n ≤ w) :
    ((l.flatMap g).drop (w * i + off)).take n = ((g l[i]).drop off).take n := by
  have hpiece : (g l[i]).length = w := hl _ (List.getElem_mem hi)
  rw [← List.drop_drop, drop_flatMap_const hl, List.drop_eq_getElem_cons hi, List.flatMap_cons, List.drop_append_of_le_length (by omega),
    List.take_append_of_le_length (by rw [List.length_drop]; omega)]
end

/-! ### The record -/

/-- A counter in the record. -/
def counterBytes (c : Counter) : List Byte := bytesLE 4 c.count.toNat

/-- A tap accumulator in the record: its sum, its flags and its count. -/
def tapBytes (a : TapAcc) : List Byte :=
  a.sum.mant ++ a.sum.expo ++ bytesLE 1 ((if a.nonfinite then 1 else 0) + (if a.count.ovf then 2 else 0)) ++ zeros 1 ++ counterBytes a.count

/-- The bins and the taps in the record. -/
def binsBytes (v : Sieve) : List Byte := v.bins.toList.flatMap counterBytes
def tapsBytes (v : Sieve) : List Byte := v.taps.toList.flatMap tapBytes

/-- What goes before the bins in the record, and what stands between them and the taps, with the overflow flags `ovf`. -/
def recordHead (cd : Nat) (tag : BitVec 16) (step : Nat) : List Byte := bytesLE 1 5 ++ bytesLE 1 cd ++ bytesLE 2 tag.toNat ++ bytesLE 4 step
def recordCounts (v : Sieve) (ovf : Nat) : List Byte :=
  counterBytes v.samples ++ counterBytes v.oversize ++ counterBytes v.crossings ++ counterBytes v.wovTiles ++ bytesLE 8 v.uwTotal.toNat
    ++ counterBytes v.wovElems ++ counterBytes v.uwSat ++ bytesLE 4 ovf ++ bytesLE 1 (if v.raised then 1 else 0) ++ zeros 19

@[simp] theorem counterBytes_length (c : Counter) : (counterBytes c).length = 4 := bytesLE_length ..
@[simp] theorem tapBytes_length (a : TapAcc) : (tapBytes a).length = 16 := by simp [tapBytes, ExactSum.mant, ExactSum.expo]
@[simp] theorem binsBytes_length (v : Sieve) : (binsBytes v).length = 64 := by
  rw [binsBytes, length_flatMap_const fun _ _ => counterBytes_length _, Vector.length_toList]
@[simp] theorem tapsBytes_length (v : Sieve) : (tapsBytes v).length = 1024 := by
  rw [tapsBytes, length_flatMap_const fun _ _ => tapBytes_length _, Vector.length_toList]
@[simp] theorem recordHead_length (cd : Nat) (tag : BitVec 16) (step : Nat) : (recordHead cd tag step).length = 8 := by simp [recordHead]
@[simp] theorem recordCounts_length (v : Sieve) (ovf : Nat) : (recordCounts v ovf).length = 56 := by simp [recordCounts]

theorem counterBytes_field (c : Counter) : field (counterBytes c) 0 4 = c.count.toNat :=
  (field_bytesLE ..).trans (Nat.mod_eq_of_lt c.count.isLt)

section
variable (v : Sieve) (cd : Nat) (tag : BitVec 16) (step : Nat)

theorem record_eq : ∃ ovf, v.record cd tag step = recordHead cd tag step ++ (binsBytes v ++ (recordCounts v ovf ++ tapsBytes v)) := by
  have hflat : ∃ ovf, v.record cd tag step = bytesLE 1 5 ++ bytesLE 1 cd ++ bytesLE 2 tag.toNat ++ bytesLE 4 step ++ binsBytes v
      ++ counterBytes v.samples ++ counterBytes v.oversize ++ counterBytes v.crossings ++ counterBytes v.wovTiles ++ bytesLE 8 v.uwTotal.toNat
      ++ counterBytes v.wovElems ++ counterBytes v.uwSat ++ bytesLE 4 ovf ++ bytesLE 1 (if v.raised then 1 else 0) ++ zeros 19 ++ tapsBytes v := ⟨_, rfl⟩
  obtain ⟨ovf, h⟩ := hflat
  exact ⟨ovf, by simp only [h, recordHead, recordCounts, List.append_assoc]⟩

theorem record_length : (v.record cd tag step).length = 1152 := by
  obtain ⟨ovf, h⟩ := record_eq v cd tag step
  simp [h]

/-- The head of the record: its kind, the CD, the tag and the step. -/
theorem record_head : let rec' := v.record cd tag step
    rec'.getD 0 0 = 5 ∧ rec'.getD 1 0 = BitVec.ofNat 8 cd ∧ field rec' 2 2 = tag.toNat ∧ field rec' 4 4 = step % 2 ^ 32 := by
  obtain ⟨ovf, h⟩ := record_eq v cd tag step
  have htag : tag.toNat % 256 ^ 2 = tag.toNat := Nat.mod_eq_of_lt tag.isLt
  intro rec'
  rw [show rec' = _ from h]
  refine ⟨rfl, rfl, ?_, ?_⟩
  · simpa [recordHead, field_append_left, field_append_right] using htag
  · simp [recordHead, field_append_left, field_append_right]

/-- A field of the part between the bins and the taps. -/
theorem record_counts : ∃ ovf, ∀ off n, off + n ≤ 56 →
    field (v.record cd tag step) (0x48 + off) n = field (recordCounts v ovf) off n := by
  obtain ⟨ovf, h⟩ := record_eq v cd tag step
  refine ⟨ovf, fun off n hn => ?_⟩
  have hpre : (recordHead cd tag step ++ binsBytes v).length = 0x48 := by simp
  have hslice := slice_middle (pre := recordHead cd tag step ++ binsBytes v) (mid := recordCounts v ovf) (post := tapsBytes v) (off := off) (n := n)
    (by rwa [recordCounts_length])
  rw [hpre, List.append_assoc] at hslice
  rw [field, h, hslice, field]

theorem recordCounts_fields (ovf : Nat) : let r := recordCounts v ovf
    field r 0 4 = v.samples.count.toNat ∧ field r 4 4 = v.oversize.count.toNat ∧ field r 8 4 = v.crossings.count.toNat
      ∧ field r 0xC 4 = v.wovTiles.count.toNat ∧ field r 0x10 8 = v.uwTotal.toNat ∧ field r 0x18 4 = v.wovElems.count.toNat
      ∧ field r 0x1C 4 = v.uwSat.count.toNat := by
  have htotal : v.uwTotal.toNat % 256 ^ 8 = v.uwTotal.toNat := Nat.mod_eq_of_lt v.uwTotal.isLt
  simpa [recordCounts, field_append_left, field_append_right, counterBytes_field] using htotal

/-- A bin of the record. -/
theorem record_bin (i : Fin 16) : field (v.record cd tag step) (8 + 4 * i.val) 4 = v.bins[i].count.toNat := by
  obtain ⟨ovf, h⟩ := record_eq v cd tag step
  have hslice := slice_middle (pre := recordHead cd tag step) (mid := binsBytes v) (post := recordCounts v ovf ++ tapsBytes v) (off := 4 * i.val) (n := 4)
    (by rw [binsBytes_length]; omega)
  have hpiece := slice_flatMap_const (g := counterBytes) (l := v.bins.toList) (i := i.val) (off := 0) (n := 4) (by simp) (fun _ _ => counterBytes_length _)
    (by decide)
  rw [field, h, ← recordHead_length cd tag step, hslice, binsBytes, ← Nat.add_zero (4 * i.val), hpiece]
  exact counterBytes_field _

/-- A part of a tap in the record. -/
theorem record_tap (a : Fin 64) {off n : Nat} (hn : off + n ≤ 16) :
    ((v.record cd tag step).drop (0x80 + (16 * a.val + off))).take n = ((tapBytes v.taps[a]).drop off).take n := by
  obtain ⟨ovf, h⟩ := record_eq v cd tag step
  have hpre : (recordHead cd tag step ++ (binsBytes v ++ recordCounts v ovf)).length = 0x80 := by simp
  have hslice := slice_middle (pre := recordHead cd tag step ++ (binsBytes v ++ recordCounts v ovf)) (mid := tapsBytes v) (post := [])
    (off := 16 * a.val + off) (n := n) (by rw [tapsBytes_length]; omega)
  rw [List.append_nil, hpre, List.append_assoc, List.append_assoc] at hslice
  rw [h, hslice, tapsBytes, slice_flatMap_const (by simp) (fun _ _ => tapBytes_length _) hn]
  rfl
end

theorem tapBytes_sum (a : TapAcc) : (tapBytes a).take 10 = a.sum.mant ++ a.sum.expo := by
  rw [tapBytes, List.append_assoc, List.append_assoc]
  exact List.take_left' (by simp [ExactSum.mant, ExactSum.expo])

theorem tapBytes_count (a : TapAcc) : field (tapBytes a) 12 4 = a.count.count.toNat := by
  simp [tapBytes, ExactSum.mant, ExactSum.expo, field_append_right, counterBytes_field]

/-! ### REPORT (R281) -/

@[simp] theorem markStart_sieve {x : Die} {q : QueueId} {e : QEntry} {svals : List (Fin 16 × BitVec 64)} {done : Bool} :
    (x.markStart q e svals done).sieve = x.sieve := by
  obtain ⟨l, qs, h⟩ := queuesOnly_markStart (q := q) (e := e) (svals := svals) (done := done) x
  exact (congrArg Die.sieve h :)

/-- A die after its REPORT: counters and taps cleared when the record says so, and no threshold event raised since. -/
def reported (e : QEntry) (x : Die) : Die :=
  { x with sieve := { (if bits (x.recField e 1 1) 0 0 = 1 then x.sieve.cleared else x.sieve) with raised := false } }

/-- What a REPORT leaves of the Sieve (R281, R297). -/
theorem reported_sieve (x : Die) (e : QEntry) : let v := x.sieve
    let w := (reported e x).sieve
    w.raised = false ∧ w.area = v.area ∧ w.group = v.group ∧ w.arms = v.arms
      ∧ (x.recField e 1 1 % 2 = 0 → w = { v with raised := false })
      ∧ (x.recField e 1 1 % 2 = 1 → w.taps = Vector.replicate 64 {} ∧ w.bins = Vector.replicate 16 {} ∧ w.samples = {} ∧ w.crossings = {}
          ∧ w.oversize = {} ∧ w.wovTiles = {} ∧ w.wovElems = {} ∧ w.uwSat = {} ∧ w.uwTotal = 0 ∧ w.uwTotalOvf = false) := by
  intro v w
  have hw : w = { (if x.recField e 1 1 % 2 = 1 then v.cleared else v) with raised := false } := rfl
  rw [hw]
  by_cases hclear : x.recField e 1 1 % 2 = 1
  · rw [if_pos hclear]
    exact ⟨rfl, rfl, rfl, rfl, fun h => by omega, fun _ => ⟨rfl, rfl, rfl, rfl, rfl, rfl, rfl, rfl, rfl, rfl⟩⟩
  · rw [if_neg hclear]
    exact ⟨rfl, rfl, rfl, rfl, fun _ => rfl, fun h => absurd h hclear⟩

/-- A REPORT that no sample holds back, and whose record goes into the own window. -/
theorem reportEngine_writes {d d1 : Device} {cd : Cd} {c : Context} {e : QEntry} (hsample : d.dies[cd].sieve.sample = none)
    (hlow : sramOf cd.val ≤ d.dies[cd].recAddr e 8) (hhigh : d.dies[cd].recAddr e 8 + 1152 ≤ sramOf cd.val + 0x80000000)
    (hput : d.putBytes c cd .telemetry (d.dies[cd].recAddr e 8) (d.dies[cd].sieve.record cd.val c.tag (d.stepNo c)) = (d1, none)) :
    reportEngine cd d c e = .ran (d1.modDie cd (reported e)) (e.sOf (if d.dies[cd].sieve.raised then 1 else 0)) true := by
  unfold reportEngine
  dsimp only
  rw [hsample, if_neg (by decide), if_neg (ownWindow_holds hlow (by omega) hhigh), hput]
  rfl

end Sys2Proof.Laws
end

section
/-! TAP binds an area or arms arrays, and REPORT writes the telemetry record (O23). -/

namespace Sys2Proof.Safety

set_option Elab.async false

open Sys2Proof Sys2Proof.Machine Sys2Proof.Laws

section
variable {s : State} {cd : Cd} {c : Context} {e : QEntry} {i : Instr} {f : Cd → Device → Context → QEntry → Engine} {g : Die → Die}

/-- What a TAP that takes effect leaves: its command has completed, and memory, contexts, the other dies, the taps, the counters and the Cox of its own
are as they were. -/
def TapStill (s t : State) (cd : Cd) (e : QEntry) : Prop :=
  StartedIn t cd 11 e.no true ∧ t.dev.mem = s.dev.mem ∧ t.dev.ctxs = s.dev.ctxs ∧ (∀ o : Cd, o ≠ cd → t.dev.dies[o] = s.dev.dies[o])
    ∧ t.dev.dies[cd].sieve.taps = s.dev.dies[cd].sieve.taps ∧ t.dev.dies[cd].sieve.bins = s.dev.dies[cd].sieve.bins
    ∧ t.dev.dies[cd].loc = s.dev.dies[cd].loc ∧ t.dev.dies[cd].cox = s.dev.dies[cd].cox

/-- A TAP whose engine rewrites the MAs and the Sieve of its die, but not the taps and the counters. -/
theorem exec_tap {mas : Vector Ma 4} {v : Sieve} (hi : exec i s = .next { s with dev := s.dev.startHead cd 11 1 (f cd) })
    (hstart : Starts s cd 11 1 c e) (hran : f cd s.dev c e = .ran (s.dev.modDie cd g) [] true)
    (hg : g s.dev.dies[cd] = { s.dev.dies[cd] with mas := mas, sieve := v }) (htaps : v.taps = s.dev.dies[cd].sieve.taps)
    (hbins : v.bins = s.dev.dies[cd].sieve.bins) :
    ∃ t, exec i s = .next t ∧ TapStill s t cd e ∧ t.dev.dies[cd].sieve = v ∧ t.dev.dies[cd].mas = mas := by
  obtain ⟨l, qs, hmark⟩ := queuesOnly_markStart (q := 11) (e := e) (svals := []) (done := true) (g s.dev.dies[cd])
  have hdie : ((s.dev.modDie cd g).modDie cd fun x => x.markStart 11 e [] true).dies[cd]
      = { s.dev.dies[cd] with links := l, queues := qs, mas := mas, sieve := v } := by
    rw [modDie_self, modDie_self]
    exact hmark.trans (by rw [hg])
  rw [hi, startHead_ran hstart hran]
  refine ⟨_, rfl, ⟨startedIn_markStart, rfl, rfl, fun o ho => ?_, ?_, ?_, ?_, ?_⟩, ?_, ?_⟩
  · rw [modDie_other _ _ (Ne.symm ho), modDie_other _ _ (Ne.symm ho)]
  all_goals rw [hdie]
  · exact htaps
  · exact hbins

/-- A TAP whose engine a fault stops. -/
theorem exec_tap_stopped {r : ErrRec} (hi : exec i s = .next { s with dev := s.dev.startHead cd 11 1 (f cd) })
    (hstart : Starts s cd 11 1 c e) (hstop : f cd s.dev c e = .stopped (s.dev.fault c r)) :
    ∃ t, exec i s = .next t ∧ t.dev.dies[cd].sieve = s.dev.dies[cd].sieve ∧ StartedIn t cd 11 e.no false
      ∧ ∃ b ∈ t.dev.ctxs, b.slot = c.slot ∧ b.cond = .faulted := by
  have hres : c ∈ s.dev.ctxs := mem_ctxs_of_residentOf (startable_resident hstart)
  obtain ⟨l, qs, hmark⟩ := queuesOnly_markStop (q := 11) (e := e) (s.dev.fault c r).dies[cd]
  rw [hi, startHead_stopped hstart hstop]
  refine ⟨_, rfl, ?_, startedIn_markStop, fault_faulted_slot hres⟩
  rw [(modDie_self ..).trans hmark]
  exact MarksDies.fault.sieve cd
end

theorem tapsBindAndArm : Sys2Proof.Claims.TapsBindAndArm := by
  intro s cd c e x v f area base inMask still hstart
  refine ⟨fun hmode hlow hhigh => ?_, fun hmode hout => ?_, fun hmode => ?_, fun hmode => ?_⟩
  · exact exec_tap (f := tapNormEngine) rfl hstart (tapNormEngine_binds hmode hlow hhigh) rfl rfl rfl
  · exact exec_tap_stopped (f := tapNormEngine) rfl hstart (tapNormEngine_refuses hmode hout)
  · obtain ⟨t, hexec, hstill, hsieve, hmas⟩ := exec_tap (i := .tapScales cd) (f := tapScalesEngine) rfl hstart (tapScalesEngine_arms hmode) rfl rfl rfl
    exact ⟨t, hexec, hstill, hsieve, fun i => by rw [hmas]; exact scalesArmed_get x e i⟩
  · obtain ⟨t, hexec, hstill, hsieve, hmas⟩ := exec_tap (i := .tapSieve cd) (f := tapSieveEngine) rfl hstart (tapSieveEngine_arms hmode) rfl rfl rfl
    have harms : ∀ i : MaNo, t.dev.dies[cd].sieve.arms[i] = if inMask i then some (x.sieveArm e i) else v.arms[i] := fun i => by
      rw [hsieve]; exact sieveArmed_get x e i
    refine ⟨t, hexec, hstill, hmas, fun i hi => ?_, fun i hi => ⟨x.sieveArm e i, ?_, rfl, rfl, rfl, rfl, ?_, rfl, rfl⟩⟩
    · rw [harms, if_neg (by rw [hi]; decide)]
    · rw [harms, if_pos hi]
    · simp only [Die.sieveArm, pow2_eq]
      rfl

theorem reportWritesTheTelemetryRecord : Sys2Proof.Claims.ReportWritesTheTelemetryRecord := by
  intro s cd c e x v dst base hstart hsample hlow hhigh
  obtain ⟨hkind, hcd, htag, hstep⟩ := record_head v cd.val c.tag (s.dev.stepNo c)
  obtain ⟨ovf, hcounts⟩ := record_counts v cd.val c.tag (s.dev.stepNo c)
  obtain ⟨hsamples, hoversize, hcrossings, htiles, htotal, helems, hsat⟩ := recordCounts_fields v ovf
  refine ⟨v.record cd.val c.tag (s.dev.stepNo c), record_length .., hkind, hcd, htag, hstep, record_bin v cd.val c.tag _,
    (hcounts 0 4 (by decide)).trans hsamples, (hcounts 4 4 (by decide)).trans hoversize, (hcounts 8 4 (by decide)).trans hcrossings,
    (hcounts 0xC 4 (by decide)).trans htiles, (hcounts 0x10 8 (by decide)).trans htotal, (hcounts 0x18 4 (by decide)).trans helems,
    (hcounts 0x1C 4 (by decide)).trans hsat, fun a => ⟨?_, ?_⟩, fun d1 hput => ?_⟩
  · exact (record_tap v cd.val c.tag _ a (off := 0) (by decide)).trans (tapBytes_sum _)
  · rw [field, Nat.add_assoc, record_tap v cd.val c.tag _ a (by decide)]
    exact tapBytes_count _
  · have hdie : d1.dies[cd] = x := by rw [putBytes_dies hput]
    have hexec : exec (.report cd) s = .next { s with dev := s.dev.startHead cd 11 2 (reportEngine cd) } := rfl
    rw [hexec, startHead_ran hstart (reportEngine_writes hsample hlow hhigh hput)]
    refine ⟨_, rfl, rfl, fun q hq hno => ?_, ?_⟩
    · obtain ⟨hstarted, hdone, -, hvals⟩ := doneIn_markStart q hq hno
      refine ⟨hstarted, hdone, fun hw => (hvals hw).trans ?_⟩
      cases v.raised <;> rfl
    · rw [modDie_self, modDie_self, hdie, markStart_sieve]
      exact reported_sieve x e

/-- Settles O23, claim by claim: a TAP rewrites the MAs and the Sieve of its die (`exec_tap`), or its fault leaves them (`exec_tap_stopped`), and a REPORT
writes the record whose fields are those of `record_head`, `record_bin`, `record_counts` and `record_tap`, and leaves what `reported_sieve` says. -/
theorem tapsBindArmAndReport : Obligations.TapsBindArmAndReport := ⟨tapsBindAndArm, reportWritesTheTelemetryRecord⟩

end Sys2Proof.Safety
end
